-- ==== Sys2Proof/Word.lean ====
section
/-! DEFINITION. The word types of the F9640 and their plainest arithmetic: bytes, T32 (R9), 24- and 40-bit circular
comparisons (R316, R403), the sparse table and its reads and writes. -/
namespace Sys2Proof

/-- One byte of a frame, a payload or a host structure (R7, R8). -/
abbrev Byte := BitVec 8

/-- A string of bytes in the order of its offsets. -/
abbrev Bytes := List Byte

/-- A 32-bit count of nanoseconds of the device's clock (00_scope.md, Time notation). -/
abbrev T32 := BitVec 32

/-- The 64-bit accumulator of the time base (R498). -/
abbrev Acc := BitVec 64

/-- R512: T32 has reached `t` when (now - t) mod 2^32 < 2^31. -/
def T32.reached (now t : T32) : Bool := (now - t).toNat < 2147483648

/-- R9: the difference a - b read as a signed 32-bit value. -/
def T32.diff (a b : T32) : Int := (a - b).toInt

/-- R511: a commit time lies 10 ms to 1 s ahead of now. -/
def T32.validCommit (now t : T32) : Bool :=
  10000000 ≤ (t - now).toNat && (t - now).toNat ≤ 1000000000

/-- R316: the signed difference of two 40-bit scheduling tags is negative. -/
def tagLt (a b : Nat) : Bool := 549755813888 ≤ (a + 1099511627776 - b) % 1099511627776

/-- R316: the later of two 40-bit scheduling tags. -/
def tagMax (a b : Nat) : Nat := if tagLt a b then b else a

/-- Ceiling of a division. -/
def ceilDiv (a b : Nat) : Nat := (a + b - 1) / b

/-- A sparse table: keys strictly rising, an unlisted key reads as the table's reset value. -/
abbrev Tbl (α : Type) := List (Nat × α)

/-- The entry of a key, if the table lists it. -/
def Tbl.get? {α : Type} : Tbl α → Nat → Option α
  | [], _ => none
  | (k, v) :: r, i => if k = i then some v else Tbl.get? r i

/-- The entry of a key, or the reset value `d`. -/
def Tbl.getD {α : Type} (t : Tbl α) (i : Nat) (d : α) : α := (Tbl.get? t i).getD d

/-- Writes an entry, keeping the keys rising. -/
def Tbl.set {α : Type} : Tbl α → Nat → α → Tbl α
  | [], i, v => [(i, v)]
  | (k, w) :: r, i, v =>
    if k = i then (i, v) :: r
    else if i < k then (i, v) :: (k, w) :: r
    else (k, w) :: Tbl.set r i v

/-- Removes an entry. -/
def Tbl.del {α : Type} (t : Tbl α) (i : Nat) : Tbl α := t.filter (fun e => e.1 != i)

/-- Changes an entry through `f`, from the reset value `d` when the table does not list it. -/
def Tbl.upd {α : Type} (t : Tbl α) (i : Nat) (d : α) (f : α → α) : Tbl α := Tbl.set t i (f (Tbl.getD t i d))

/-- The keys of the table rise strictly. -/
def Tbl.wf {α : Type} : Tbl α → Bool
  | [] => true
  | [_] => true
  | (a, _) :: (b, v) :: r => decide (a < b) && Tbl.wf ((b, v) :: r)

end Sys2Proof
end

