-- ==== Sys2Proof/Syntax.lean ====
section
/-! DEFINITION. The commands of the F9640: one constructor of `Instr` for each row of spec/opcode_table.json, with the
row's operands. -/
namespace Sys2Proof

/-- A mailbox command as firmware fetches it: the header fields that host software chooses (Table 14-7) and the payload
bytes. `relay` names the manager and its relay_id when the command came in RELAY_COMMAND messages (R603), or this device and
the HIER_DISTRIBUTE whose local part it is (R605); it is none when the command came from the device's own command ring. -/
structure Cmd where
  seq : Nat
  target : Nat
  flags : Nat
  capacity : Nat
  payload : Bytes
  relay : Option (Nat × Nat) := none
deriving DecidableEq, Repr

/-- One entry of the command ring as read from host memory (Table 14-7): the opcode and the rest of the header. -/
structure CmdEntry where
  opcode : Nat
  cmd : Cmd
deriving DecidableEq, Repr

/-- A write access to a 64-bit register (R537): whole, or one of its dwords. -/
inductive RegWrite where
  | full (v : BitVec 64)
  | lower (v : BitVec 32)
  | upper (v : BitVec 32)
deriving DecidableEq, Repr

/-- A channel descriptor as host software wrote it (Table 14-10). -/
structure Desc where
  addr : Nat
  bufLen : Nat
  sop : Bool
  eop : Bool
  handle : Bool
deriving DecidableEq, Repr

/-- What the FEC of a port reports of some codewords: how many were corrected, how many were uncorrectable, and the corrected
symbols of each lane of the port (Table 02-7). -/
structure Fec where
  corrected : Nat := 0
  uncorrectable : Nat := 0
  symbols : List Nat := []
deriving DecidableEq, Repr

/-- What the FEC of a port reports (R54). -/
structure PortFec where
  port : Nat
  fec : Fec
deriving DecidableEq, Repr

/-- How often the presence input of a module has changed, too fast for its debouncing (R89). -/
structure PresenceChanges where
  module : Nat
  changes : Nat
deriving DecidableEq, Repr

/-- A flit with a bad CRC: its die-to-die module, and whether it crosses toward the FE die (R13). -/
structure FlitError where
  module : Nat
  toFe : Bool
deriving DecidableEq, Repr

/-- A frame from the link partner: its bytes from the destination address through the FCS, the index of the first byte
that lies in an uncorrectable FEC codeword or is a PCS error character, whether its head has taken its parser slot
before its last byte arrives, and what the FEC reports of its codewords. -/
structure RxInput where
  bytes : Bytes
  errAt : Option Nat
  headFirst : Bool
  fec : Fec := {}
deriving DecidableEq, Repr

/-- A fabric cell (Table 10-2): the header fields with the header check, and the 256 payload bytes. `badWords` numbers the
uncorrectable FEC codewords of its lane in which it lies (R378). -/
structure Cell where
  type : Nat
  src : Nat
  dst : Nat
  plane : Nat
  lgroup : Nat
  cseq : Nat
  tc : Nat
  prot : Bool
  stream : Nat
  pseq : Nat
  sop : Bool
  eop : Bool
  abort : Bool
  early : Bool
  startSlot : Nat
  endOff : Nat
  payload : Bytes
  hcrc : BitVec 16 := 0
  badWords : List Nat := []
deriving DecidableEq, Repr

/-- A cell as it arrives on a fabric lane. -/
structure LaneCell where
  lane : Nat
  cell : Cell
deriving DecidableEq, Repr

/-- Header of a coordination message as received (Table 15-2), with the EtherType of the frame that carried it (R586). -/
structure CoordHdr where
  version : Nat
  type : Nat
  systemId : Nat
  src : Nat
  dst : Nat
  flags : Nat
  term : Nat
  msgSeq : Nat
  epoch : Nat
  length : Nat := 0
  check : BitVec 16 := 0
  etherType : Nat := 0x88B5
deriving DecidableEq, Repr

/-- The path a coordination message arrived on: 0 CL0, 1 CL1, 2 control cells. -/
abbrev Path := Nat

/-- A CMIS flag that a module has set: page, byte and bit (event 0x0189). -/
structure CmisFlag where
  page : Nat
  byte : Nat
  bit : Nat
deriving DecidableEq, Repr

/-- Kinds of PCIe error of event 0x0D84, in the order of Table 14-19. -/
inductive PcieErr where
  | completionTimeout | unsupported | poisoned | writeFailed
deriving DecidableEq, Repr

/-- Structures kept in SRAM whose owner's rule decides what an error does (Table 17-5). -/
inductive SramUse where
  | fibBucket (vrf fam len way bucket : Nat)
  | emBucket (table way bucket : Nat)
  | labelEntry (i : Nat)
  | nexthop (i : Nat)
  | ecmpRecord (i : Nat)
  | memberEntry (i : Nat)
  | directory
  | keyStore (port slot sa : Nat)
  | policer (i : Nat)
  | cell (queue pos : Nat)
  | linkWord (queue pos : Nat) (both : Bool)
  | schedNode (node : Nat)
  | bufRecord (pool index : Nat)
  | bufData (pool index : Nat)
  | sharedRecord (i : Nat)
  | serviceMemory
  | encap (i : Nat)
  | editInsn (program index : Nat)
  | groupRecord (i : Nat)
  | mcMember (i : Nat)
  | tcamShadow (lt row : Nat) (rowGood : Bool)
  | tcamAction (chain index : Nat)
  | staging
deriving DecidableEq, Repr

/-- Where an HBM access error lies (R477-R479). -/
inductive HbmUse where
  | segment (seg : Nat) (firstBurst : Bool)
  | counter (access : Nat)
deriving DecidableEq, Repr

/-- What caused an FE firmware failure (R691): a core's heartbeat word, a machine check, an uncorrectable error, or a
stall of HIF_FW_HEARTBEAT. -/
inductive FeCause where
  | coreHeartbeat | machineCheck | uncorrectable | stall
deriving DecidableEq, Repr

/-- The commands of the block, one constructor for each row of spec/opcode_table.json, in the table's order. -/
inductive Instr where
  /-- NOP (R546) -/
  | nop (c : Cmd)
  /-- DEVICE_INFO_GET (R4) -/
  | deviceInfoGet (c : Cmd)
  /-- EVENT_MASK_SET (R553) -/
  | eventMaskSet (c : Cmd)
  /-- EVENT_MASK_GET (R553) -/
  | eventMaskGet (c : Cmd)
  /-- ECHO (R546) -/
  | echo (c : Cmd)
  /-- PORT_GROUP_SET_MODE (R44) -/
  | portGroupSetMode (c : Cmd)
  /-- PORT_CONFIG (R97) -/
  | portConfig (c : Cmd)
  /-- PORT_ADMIN (R77) -/
  | portAdmin (c : Cmd)
  /-- PORT_STATUS_GET (R757) -/
  | portStatusGet (c : Cmd)
  /-- PORT_COUNTERS_GET (R99) -/
  | portCountersGet (c : Cmd)
  /-- MODULE_READ (R85) -/
  | moduleRead (c : Cmd)
  /-- MODULE_WRITE (R96) -/
  | moduleWrite (c : Cmd)
  /-- MODULE_INT_UNMASK (R89) -/
  | moduleIntUnmask (c : Cmd)
  /-- LEDGER_READ (R90) -/
  | ledgerRead (c : Cmd)
  /-- LEDGER_SET_RATING (R94) -/
  | ledgerSetRating (c : Cmd)
  /-- PORT_RATE_RESTORE (R76) -/
  | portRateRestore (c : Cmd)
  /-- MODULE_MAP_SET (R80) -/
  | moduleMapSet (c : Cmd)
  /-- SECY_CONFIG (R100) -/
  | secyConfig (c : Cmd)
  /-- SC_SET (R101) -/
  | scSet (c : Cmd)
  /-- SC_CLEAR (R101) -/
  | scClear (c : Cmd)
  /-- SA_INSTALL (R103) -/
  | saInstall (c : Cmd)
  /-- SA_ENABLE_RX (R122) -/
  | saEnableRx (c : Cmd)
  /-- SA_TX_SWITCH (R123) -/
  | saTxSwitch (c : Cmd)
  /-- SA_DELETE (R124) -/
  | saDelete (c : Cmd)
  /-- SA_STATUS_GET (R104) -/
  | saStatusGet (c : Cmd)
  /-- SECY_COUNTERS_GET (R109) -/
  | secyCountersGet (c : Cmd)
  /-- PARSE_POLICY_SET (R150) -/
  | parsePolicySet (c : Cmd)
  /-- PARSE_POLICY_GET (R150) -/
  | parsePolicyGet (c : Cmd)
  /-- SLOWPATH_CLASS_SET (R753) -/
  | slowpathClassSet (c : Cmd)
  /-- HASH_PROFILE_SET (R150) -/
  | hashProfileSet (c : Cmd)
  /-- LB_MEMBER_ADD (R154) -/
  | lbMemberAdd (c : Cmd)
  /-- LB_MEMBER_REMOVE (R154) -/
  | lbMemberRemove (c : Cmd)
  /-- LB_SLOTS_SET (R155) -/
  | lbSlotsSet (c : Cmd)
  /-- LB_SLOTS_GET (R758) -/
  | lbSlotsGet (c : Cmd)
  /-- PARSE_COUNTERS_GET (R745) -/
  | parseCountersGet (c : Cmd)
  /-- PARSE_TEST (R128) -/
  | parseTest (c : Cmd)
  /-- ROUTE_ADD (R177) -/
  | routeAdd (c : Cmd)
  /-- ROUTE_DELETE (R177) -/
  | routeDelete (c : Cmd)
  /-- ROUTE_GET (R759) -/
  | routeGet (c : Cmd)
  /-- LENGTH_RESERVE (R179) -/
  | lengthReserve (c : Cmd)
  /-- NEXTHOP_SET (R194) -/
  | nexthopSet (c : Cmd)
  /-- ECMP_CREATE (R752) -/
  | ecmpCreate (c : Cmd)
  /-- LABEL_SET (R185) -/
  | labelSet (c : Cmd)
  /-- EM_INSERT (R170) -/
  | emInsert (c : Cmd)
  /-- EM_DELETE (R196) -/
  | emDelete (c : Cmd)
  /-- EM_TABLE_CONFIG (R228) -/
  | emTableConfig (c : Cmd)
  /-- INTERFACE_SET (R756) -/
  | interfaceSet (c : Cmd)
  /-- ROUTER_MAC_SET (R181) -/
  | routerMacSet (c : Cmd)
  /-- OBJ_RETIRE (R202) -/
  | objRetire (c : Cmd)
  /-- OBJ_COUNTERS_GET (R214) -/
  | objCountersGet (c : Cmd)
  /-- TABLE_REPAIR_DONE (R208) -/
  | tableRepairDone (c : Cmd)
  /-- TABLE_SPLIT_SET (R165) -/
  | tableSplitSet (c : Cmd)
  /-- LOOKUP_CONFIG (R202) -/
  | lookupConfig (c : Cmd)
  /-- TABLE_STATUS_GET (R760) -/
  | tableStatusGet (c : Cmd)
  /-- ECMP_COUNT_SET (R764) -/
  | ecmpCountSet (c : Cmd)
  /-- TCAM_CHAIN_CONFIG (R220) -/
  | tcamChainConfig (c : Cmd)
  /-- TCAM_CHAIN_EXTEND (R221) -/
  | tcamChainExtend (c : Cmd)
  /-- KEY_PROFILE_SET (R227) -/
  | keyProfileSet (c : Cmd)
  /-- SEARCH_PROFILE_SET (R224) -/
  | searchProfileSet (c : Cmd)
  /-- SEARCH_PROFILE_MAP (R223) -/
  | searchProfileMap (c : Cmd)
  /-- TCAM_ENTRY_INSERT (R231) -/
  | tcamEntryInsert (c : Cmd)
  /-- TCAM_ENTRY_MODIFY (R237) -/
  | tcamEntryModify (c : Cmd)
  /-- TCAM_ENTRY_DELETE (R239) -/
  | tcamEntryDelete (c : Cmd)
  /-- TCAM_SEARCH (R241) -/
  | tcamSearch (c : Cmd)
  /-- TCAM_SEARCH_CONTINUE (R242) -/
  | tcamSearchContinue (c : Cmd)
  /-- TCAM_COMPACT (R234) -/
  | tcamCompact (c : Cmd)
  /-- TCAM_ENTRY_READ (R240) -/
  | tcamEntryRead (c : Cmd)
  /-- TCAM_STATUS_GET (R745) -/
  | tcamStatusGet (c : Cmd)
  /-- BUFFER_PARTITION_SET (R254) -/
  | bufferPartitionSet (c : Cmd)
  /-- ADMISSION_PROFILE_SET (R272) -/
  | admissionProfileSet (c : Cmd)
  /-- WRED_PROFILE_SET (R277) -/
  | wredProfileSet (c : Cmd)
  /-- QUEUE_CONFIG (R274) -/
  | queueConfig (c : Cmd)
  /-- QUEUE_FLUSH (R291) -/
  | queueFlush (c : Cmd)
  /-- QUEUE_STATUS_GET (R286) -/
  | queueStatusGet (c : Cmd)
  /-- BUFFER_STATUS_GET (R761) -/
  | bufferStatusGet (c : Cmd)
  /-- BUFFER_GLOBAL_SET (R264) -/
  | bufferGlobalSet (c : Cmd)
  /-- SCHED_NODE_SET (R307) -/
  | schedNodeSet (c : Cmd)
  /-- SCHED_NODE_GET (R307) -/
  | schedNodeGet (c : Cmd)
  /-- LENGTH_PROFILE_SET (R319) -/
  | lengthProfileSet (c : Cmd)
  /-- SITE_MAP_SET (R308) -/
  | siteMapSet (c : Cmd)
  /-- DISPATCH_PROFILE_SET (R328) -/
  | dispatchProfileSet (c : Cmd)
  /-- QOS_MAP_SET (R292) -/
  | qosMapSet (c : Cmd)
  /-- QOS_PORT_SET (R292) -/
  | qosPortSet (c : Cmd)
  /-- POLICER_PROFILE_SET (R303) -/
  | policerProfileSet (c : Cmd)
  /-- POLICER_SET (R304) -/
  | policerSet (c : Cmd)
  /-- POLICER_STATUS_GET (R298) -/
  | policerStatusGet (c : Cmd)
  /-- SAMPLE_SET_CONFIG (R331) -/
  | sampleSetConfig (c : Cmd)
  /-- SCHED_COUNTERS_GET (R745) -/
  | schedCountersGet (c : Cmd)
  /-- POOL_CARVE_SET (R340) -/
  | poolCarveSet (c : Cmd)
  /-- CHANNEL_POOL_SET (R348) -/
  | channelPoolSet (c : Cmd)
  /-- BUF_SHARE (R352) -/
  | bufShare (c : Cmd)
  /-- BUF_RELEASE (R354) -/
  | bufRelease (c : Cmd)
  /-- BUF_INFO (R355) -/
  | bufInfo (c : Cmd)
  /-- BUF_CELL_SHARE_SET (R360) -/
  | bufCellShareSet (c : Cmd)
  /-- POOL_STATUS_GET (R745) -/
  | poolStatusGet (c : Cmd)
  /-- FABRIC_CONFIG (R547) -/
  | fabricConfig (c : Cmd)
  /-- FABRIC_PEER_SET (R415) -/
  | fabricPeerSet (c : Cmd)
  /-- PROTECT_CLASS_SET (R400) -/
  | protectClassSet (c : Cmd)
  /-- CREDIT_PROFILE_SET (R382) -/
  | creditProfileSet (c : Cmd)
  /-- PLANE_ADMIN (R410) -/
  | planeAdmin (c : Cmd)
  /-- PLANE_RESTORE (R422) -/
  | planeRestore (c : Cmd)
  /-- FABRIC_LANE_ADMIN (R372) -/
  | fabricLaneAdmin (c : Cmd)
  /-- FABRIC_STATUS_GET (R762) -/
  | fabricStatusGet (c : Cmd)
  /-- FABRIC_COUNTERS_GET (R745) -/
  | fabricCountersGet (c : Cmd)
  /-- EDIT_PROGRAM_SET (R450) -/
  | editProgramSet (c : Cmd)
  /-- ENCAP_SET (R445) -/
  | encapSet (c : Cmd)
  /-- MCAST_GROUP_SET (R433) -/
  | mcastGroupSet (c : Cmd)
  /-- MCAST_GROUP_GET (R431) -/
  | mcastGroupGet (c : Cmd)
  /-- EDIT_PORT_SET (R451) -/
  | editPortSet (c : Cmd)
  /-- MCAST_CONFIG (R429) -/
  | mcastConfig (c : Cmd)
  /-- EDIT_TEST (R763) -/
  | editTest (c : Cmd)
  /-- EDIT_COUNTERS_GET (R745) -/
  | editCountersGet (c : Cmd)
  /-- HBM_CONFIG (R473) -/
  | hbmConfig (c : Cmd)
  /-- HBM_STATUS_GET (R493) -/
  | hbmStatusGet (c : Cmd)
  /-- HBM_RETRAIN (R485) -/
  | hbmRetrain (c : Cmd)
  /-- HBM_PC_RETIRE (R493) -/
  | hbmPcRetire (c : Cmd)
  /-- HBM_PC_RESTORE (R493) -/
  | hbmPcRestore (c : Cmd)
  /-- HBM_COUNTERS_GET (R745) -/
  | hbmCountersGet (c : Cmd)
  /-- TIME_GET (R515) -/
  | timeGet (c : Cmd)
  /-- TIME_INCREMENT_SET (R501) -/
  | timeIncrementSet (c : Cmd)
  /-- TIME_STEP (R743) -/
  | timeStep (c : Cmd)
  /-- TIME_SET (R506) -/
  | timeSet (c : Cmd)
  /-- TIME_CONFIG (R503) -/
  | timeConfig (c : Cmd)
  /-- TS_PORT_SET (R516) -/
  | tsPortSet (c : Cmd)
  /-- PPS_CONFIG (R526) -/
  | ppsConfig (c : Cmd)
  /-- TIME_COUNTERS_GET (R745) -/
  | timeCountersGet (c : Cmd)
  /-- DMA_CHANNEL_SET (R576) -/
  | dmaChannelSet (c : Cmd)
  /-- DMA_CHANNEL_ENABLE (R576) -/
  | dmaChannelEnable (c : Cmd)
  /-- DMA_CHANNEL_STATUS_GET (R576) -/
  | dmaChannelStatusGet (c : Cmd)
  /-- MSIX_MODERATION_SET (R558) -/
  | msixModerationSet (c : Cmd)
  /-- HIF_COUNTERS_GET (R745) -/
  | hifCountersGet (c : Cmd)
  /-- HIERARCHY_CONFIG (R577) -/
  | hierarchyConfig (c : Cmd)
  /-- HIER_STATUS_GET (R593) -/
  | hierStatusGet (c : Cmd)
  /-- HIER_DEPUTY_SET (R584) -/
  | hierDeputySet (c : Cmd)
  /-- HIER_MODE_CHANGE (R607) -/
  | hierModeChange (c : Cmd)
  /-- HIER_DISTRIBUTE (R605) -/
  | hierDistribute (c : Cmd)
  /-- HIER_MEMBER_REMOVE (R595) -/
  | hierMemberRemove (c : Cmd)
  /-- HIER_COUNTERS_GET (R745) -/
  | hierCountersGet (c : Cmd)
  /-- HIER_CLAIM (R602) -/
  | hierClaim (c : Cmd)
  /-- FW_DOWNLOAD (R627) -/
  | fwDownload (c : Cmd)
  /-- FW_VERIFY (R628) -/
  | fwVerify (c : Cmd)
  /-- FW_ACTIVATE (R629) -/
  | fwActivate (c : Cmd)
  /-- FW_CONFIRM (R638) -/
  | fwConfirm (c : Cmd)
  /-- FW_REVERT (R641) -/
  | fwRevert (c : Cmd)
  /-- FW_STATUS_GET (R624) -/
  | fwStatusGet (c : Cmd)
  /-- FW_UPDATE_CONFIG (R639) -/
  | fwUpdateConfig (c : Cmd)
  /-- FW_SVN_COMMIT (R620) -/
  | fwSvnCommit (c : Cmd)
  /-- ATTEST_KEY_GET (R653) -/
  | attestKeyGet (c : Cmd)
  /-- ATTEST_QUOTE (R655) -/
  | attestQuote (c : Cmd)
  /-- FW_SNOWDROP_PUSH (R651) -/
  | fwSnowdropPush (c : Cmd)
  /-- MODE_SET (R665) -/
  | modeSet (c : Cmd)
  /-- MODE_STATUS_GET (R663) -/
  | modeStatusGet (c : Cmd)
  /-- REPAIR_STATUS_GET (R683) -/
  | repairStatusGet (c : Cmd)
  /-- REPAIR_MAP_READ (R684) -/
  | repairMapRead (c : Cmd)
  /-- DEVICE_RESET (R662) -/
  | deviceReset (c : Cmd)
  /-- FE_RESTART (R694) -/
  | feRestart (c : Cmd)
  /-- REPAIR_CONFIG (R683) -/
  | repairConfig (c : Cmd)
  /-- PERF_COUNTER_CONFIG (R699) -/
  | perfCounterConfig (c : Cmd)
  /-- PERF_CONTROL (R702) -/
  | perfControl (c : Cmd)
  /-- PERF_COUNTER_READ (R703) -/
  | perfCounterRead (c : Cmd)
  /-- HISTOGRAM_CONFIG (R705) -/
  | histogramConfig (c : Cmd)
  /-- PSAMPLE_CONFIG (R707) -/
  | psampleConfig (c : Cmd)
  /-- TELEMETRY_CONFIG (R710) -/
  | telemetryConfig (c : Cmd)
  /-- TELEMETRY_COUNTERS_GET (R713) -/
  | telemetryCountersGet (c : Cmd)
  /-- PKG_STATUS_GET (R739) -/
  | pkgStatusGet (c : Cmd)
  /-- THERMAL_CONFIG (R726) -/
  | thermalConfig (c : Cmd)
  /-- ALARM_INPUT_CONFIG (R737) -/
  | alarmInputConfig (c : Cmd)
  /-- PKG_INPUT_UNMASK (R734) -/
  | pkgInputUnmask (c : Cmd)
  /-- AUX_STATUS_CLEAR (R740) -/
  | auxStatusClear (c : Cmd)
  /-- COMMAND_PRODUCER_INDEX (R550) -/
  | commandProducerIndex (channel rsv index : Nat)
  /-- EVENT_CONSUMER_INDEX (R539) -/
  | eventConsumerIndex (channel rsv index : Nat)
  /-- CHANNEL_PRODUCER_INDEX (R540) -/
  | channelProducerIndex (channel rsv index : Nat) (descs : List Desc)
  /-- HIF_CMD_RING_BASE (R539) -/
  | hifCmdRingBase (w : RegWrite)
  /-- HIF_EVT_RING_BASE (R539) -/
  | hifEvtRingBase (w : RegWrite)
  /-- HIF_HEALTH (R536) -/
  | hifHealth (v : BitVec 32)
  /-- IMAGE_READY (R648) -/
  | imageReady (v : BitVec 32)
  /-- AUX_REGISTER_WRITE (R739) -/
  | auxRegisterWrite (reg : Nat) (v : BitVec 32)
  /-- REGISTER_WRITE (R536) -/
  | registerWrite (offset : Nat) (v : BitVec 64) (wide : Bool)
  /-- COMMAND_FETCH (R542) -/
  | commandFetch (e : CmdEntry)
  /-- MSIX_TIMER (R558) -/
  | msixTimer (vector : Nat)
  /-- RELAY_TIMEOUT (R604) -/
  | relayTimeout (relayId : Nat)
  /-- RECEIVE_FRAME (R55) -/
  | receiveFrame (port : Nat) (f : RxInput)
  /-- PARSER_SLOT (R59) -/
  | parserSlot (port : Nat)
  /-- LOOKUP_RESULT (R193) -/
  | lookupResult (port : Nat) (parity : List Nat)
  /-- HEADER_CELL_ADMISSION (R268) -/
  | headerCellAdmission (port : Nat)
  /-- FRAME_TAIL (R750) -/
  | frameTail (port : Nat)
  /-- DISPATCH_SELECTION (R327) -/
  | dispatchSelection
  /-- EGRESS_SELECTION (R311) -/
  | egressSelection (port : Nat)
  /-- SEGMENT_WRITTEN (R263) -/
  | segmentWritten
  /-- REFILL_ARRIVAL (R259) -/
  | refillArrival (queue : Nat)
  /-- AGE_EXPIRY (R283) -/
  | ageExpiry (queue : Nat)
  /-- CELL_AUDIT (R290) -/
  | cellAudit
  /-- SHAPER_PAYOFF (R314) -/
  | shaperPayoff (node : Nat)
  /-- SAMPLE_WINDOW_END (R331) -/
  | sampleWindowEnd (set : Nat)
  /-- DATA_CELL (R393) -/
  | dataCell (lane : Nat) (cell : Cell)
  /-- RESEQUENCE_TIMEOUT (R394) -/
  | resequenceTimeout (src plane lgroup : Nat)
  /-- REASSEMBLY_TIMEOUT (R395) -/
  | reassemblyTimeout (src plane lgroup tc : Nat) (prot : Bool)
  /-- PROTECTED_COPY_COMPLETE (R403) -/
  | protectedCopyComplete (src plane stream : Nat)
  /-- REASSEMBLY_COMPLETE (R273) -/
  | reassemblyComplete
  /-- WINDOW_IDLE_EXPIRY (R405) -/
  | windowIdleExpiry (src stream : Nat)
  /-- EDIT_PACKET (R439) -/
  | editPacket (port : Nat)
  /-- TRANSMIT_START (R62) -/
  | transmitStart (port : Nat)
  /-- CREDIT_REQUEST (R381) -/
  | creditRequest (rx : LaneCell)
  /-- CREDIT_REQUEST_REFRESH (R380) -/
  | creditRequestRefresh (voq : Nat)
  /-- VOQ_ACTIVE_TIMEOUT (R381) -/
  | voqActiveTimeout (src voq : Nat)
  /-- CREDIT_ISSUE (R382) -/
  | creditIssue (port : Nat)
  /-- GRANT_BATCH_TIMEOUT (R384) -/
  | grantBatchTimeout (src : Nat)
  /-- CREDIT_GRANT (R385) -/
  | creditGrant (rx : LaneCell)
  /-- CREDIT_KEEP_EXPIRY (R387) -/
  | creditKeepExpiry (voq : Nat)
  /-- FABRIC_HEARTBEAT_SEND (R407) -/
  | fabricHeartbeatSend
  /-- HEARTBEAT_CELL (R410) -/
  | heartbeatCell (rx : LaneCell)
  /-- HEAR_TIMEOUT (R409) -/
  | hearTimeout (peer plane : Nat)
  /-- UP_HOLD_EXPIRY (R416) -/
  | upHoldExpiry (peer plane : Nat)
  /-- RESYNC (R417) -/
  | resync (rx : LaneCell)
  /-- RESYNC_ACK (R418) -/
  | resyncAck (rx : LaneCell)
  /-- RESYNC_RESEND (R419) -/
  | resyncResend (peer plane : Nat)
  /-- CONTROL_CELL (R424) -/
  | controlCell (rx : LaneCell)
  /-- CONTROL_MESSAGE_TIMEOUT (R424) -/
  | controlMessageTimeout (src msgId : Nat)
  /-- FABRIC_LANE_FAULT (R370) -/
  | fabricLaneFault (lane : Nat) (lockLost : Bool)
  /-- FABRIC_LANE_TRAINING_END (R371) -/
  | fabricLaneTrainingEnd (lane : Nat) (trained : Bool)
  /-- FABRIC_TRAINING_RETRY (R371) -/
  | fabricTrainingRetry (lane : Nat)
  /-- LINK_CONDITIONS_MET (R50) -/
  | linkConditionsMet (port : Nat)
  /-- LINK_UP_HOLD_EXPIRY (R50) -/
  | linkUpHoldExpiry (port : Nat)
  /-- LINK_CONDITION_LOST (R51) -/
  | linkConditionLost (port : Nat) (fault : Bool) (lanesLost : List Nat)
  /-- LINK_DOWN_HOLD_EXPIRY (R51) -/
  | linkDownHoldExpiry (port : Nat)
  /-- REMOTE_FAULT (R52) -/
  | remoteFault (port : Nat)
  /-- FEC_THRESHOLD (R54) -/
  | fecThreshold (report : PortFec)
  /-- LANE_TRAINING_END (R78) -/
  | laneTrainingEnd (lane : Nat) (trained : Bool)
  /-- TRAINING_RETRY (R79) -/
  | trainingRetry (port : Nat)
  /-- FALLBACK_WINDOW (R71) -/
  | fallbackWindow (group : Nat) (rxTx : List (Nat × Nat × Nat))
  /-- FALLBACK_TIMEOUT (R74) -/
  | fallbackTimeout (group : Nat)
  /-- LPI_IDLE_ENTRY (R68) -/
  | lpiIdleEntry (port : Nat)
  /-- MODULE_INSERTED (R80) -/
  | moduleInserted (module : Nat) (page0 : Bytes)
  /-- MODULE_REMOVED (R92) -/
  | moduleRemoved (module : Nat)
  /-- MODULE_INTERRUPT (R82) -/
  | moduleInterrupt (module : Nat) (flags : List CmisFlag)
  /-- MODULE_MONITOR_POLL (R82) -/
  | moduleMonitorPoll (module : Nat) (tempC : Int) (bias power : Nat) (flags : List CmisFlag)
  /-- LEDGER_ACCUMULATION (R91) -/
  | ledgerAccumulation
  /-- LEDGER_HOURLY_WRITE (R92) -/
  | ledgerHourlyWrite
  /-- INTERRUPT_STUCK (R86) -/
  | interruptStuck (module : Nat)
  /-- PRESENCE_CHATTER (R89) -/
  | presenceChatter (input : PresenceChanges)
  /-- MASKED_INPUT_POLL (R88) -/
  | maskedInputPoll (module : Nat) (flags : List CmisFlag)
  /-- MODULE_ACCESS_UNACKNOWLEDGED (R83) -/
  | moduleAccessUnacknowledged (module : Nat)
  /-- BUS_DATA_LINE_LOW (R84) -/
  | busDataLineLow (bus : Nat) (recovered : Bool)
  /-- TIMED_BATCH_COMMIT (R197) -/
  | timedBatchCommit
  /-- RETIREMENT_EPOCH_END (R203) -/
  | retirementEpochEnd
  /-- GROWN_TABLE_RELEASE (R168) -/
  | grownTableRelease (table : Nat)
  /-- ECMP_BLOCK_RELEASE (R764) -/
  | ecmpBlockRelease (group : Nat)
  /-- MCAST_BLOCK_RELEASE (R433) -/
  | mcastBlockRelease (group : Nat)
  /-- MARKER_REBUILD_DONE (R207) -/
  | markerRebuildDone (entry : Nat)
  /-- PARSER_PIPELINE_ERROR (R160) -/
  | parserPipelineError (pipeline : Nat) (held : List Nat)
  /-- LOOKUP_PIPELINE_ERROR (R163) -/
  | lookupPipelineError (pipeline : Nat) (held : List Nat)
  /-- EDIT_ENGINE_ERROR (R438) -/
  | editEngineError (engine : Nat) (held : Nat)
  /-- TCAM_SCRUB (R244) -/
  | tcamScrub (bad : List (Nat × Nat))
  /-- SPARE_TILE_FILLED (R246) -/
  | spareTileFilled (lt : Nat)
  /-- TCAM_DELETE_COMPLETE (R239) -/
  | tcamDeleteComplete (handle : Nat)
  /-- RETAIN_EXPIRY (R358) -/
  | retainExpiry (handle : Nat)
  /-- PUNT_DMA_COMPLETE (R357) -/
  | puntDmaComplete (channel : Nat)
  /-- PUNT_FRAME_AT_HEAD (R561) -/
  | puntFrameAtHead (channel : Nat)
  /-- PUNT_HOLD_EXPIRY (R562) -/
  | puntHoldExpiry (channel : Nat)
  /-- INJECT_FRAME_READ (R567) -/
  | injectFrameRead (channel : Nat) (data : Bytes)
  /-- INJECT_HOLD_EXPIRY (R566) -/
  | injectHoldExpiry (channel : Nat)
  /-- DMA_ERROR (R573) -/
  | dmaError (channel : Option Nat) (addr : Nat) (err : PcieErr)
  /-- FUNCTION_LEVEL_RESET (R574) -/
  | functionLevelReset
  /-- PCIE_LINK_LOSS (R574) -/
  | pcieLinkLoss
  /-- BUS_MASTER_OFF (R574) -/
  | busMasterOff
  /-- COUNTER_UPDATE (R213) -/
  | counterUpdate
  /-- HBM_REQUEST (R463) -/
  | hbmRequest (pc port bank row : Nat) (write : Bool)
  /-- REQUEST_URGENCY_RISE (R461) -/
  | requestUrgencyRise (req : Nat)
  /-- HBM_REFRESH_DUE (R469) -/
  | hbmRefreshDue (pc bank : Nat)
  /-- SELF_REFRESH_IDLE (R473) -/
  | selfRefreshIdle (stack : Nat)
  /-- SELF_REFRESH_EXIT (R475) -/
  | selfRefreshExit (stack : Nat)
  /-- HBM_PARITY_ERROR (R480) -/
  | hbmParityError (channel from_ : Nat)
  /-- HBM_READ_ERROR (R477) -/
  | hbmReadError (pc bank row : Nat) (correctable repairable : Bool) (use : HbmUse)
  /-- HBM_TRACKING (R484) -/
  | hbmTracking (channel : Nat) (marginLost : Bool)
  /-- PLANNED_RETRAIN_TRIGGER (R485) -/
  | plannedRetrainTrigger (channel : Nat)
  /-- EVACUATION_COMPLETE (R486) -/
  | evacuationComplete (channel : Nat)
  /-- EVACUATION_TIMEOUT (R488) -/
  | evacuationTimeout (channel : Nat)
  /-- EVACUATION_SLOT_RELEASE (R487) -/
  | evacuationSlotRelease (segment : Nat)
  /-- CHANNEL_TRAINING_END (R490) -/
  | channelTrainingEnd (channel : Nat) (ok0 ok1 : Bool)
  /-- COUNTER_SCRUB (R482) -/
  | counterScrub (access : Nat) (correctable : Option Bool) (repairable : Bool)
  /-- D2D_FLIT_ERROR (R13) -/
  | d2dFlitError (at_ : FlitError)
  /-- D2D_LANE_FAULT (R14) -/
  | d2dLaneFault (module : Nat) (toFe : Bool) (lane : Nat)
  /-- TIMED_STEP_DUE (R510) -/
  | timedStepDue
  /-- SA_SWITCH_DUE (R123) -/
  | saSwitchDue (port : Nat)
  /-- PERF_CONTROL_DUE (R702) -/
  | perfControlDue
  /-- HOLDOVER_TIMEOUT (R513) -/
  | holdoverTimeout
  /-- PPS_OUT_TARGET (R526) -/
  | ppsOutTarget
  /-- PPS_OUT_WIDTH_END (R526) -/
  | ppsOutWidthEnd
  /-- PPS_IN_EDGE (R522) -/
  | ppsInEdge
  /-- PPS_IN_LOST (R525) -/
  | ppsInLost
  /-- TIME_SYNC_SEND (R529) -/
  | timeSyncSend
  /-- TIME_SYNC (R529) -/
  | timeSync (path : Path) (h : CoordHdr) (offset : Int) (newInc : BitVec 40) (step : Option Int)
  /-- TIME_SYNC_LOSS (R533) -/
  | timeSyncLoss
  /-- HEARTBEAT (R591) -/
  | heartbeat (path : Path) (h : CoordHdr) (t32 : T32) (role mode flags deputy members : Nat)
  /-- ACK (R588) -/
  | ack (path : Path) (h : CoordHdr) (acked status : Nat)
  /-- ANNOUNCE (R580) -/
  | announce (path : Path) (h : CoordHdr) (priority role : Nat)
  /-- JOIN_REQUEST (R582) -/
  | joinRequest (path : Path) (h : CoordHdr) (version priority ordering svn fwVersion : Nat) (mode : Nat)
  /-- JOIN_ACCEPT (R583) -/
  | joinAccept (path : Path) (h : CoordHdr) (members deputy : Nat) (managerT32 : T32)
  /-- JOIN_REJECT (R582) -/
  | joinReject (path : Path) (h : CoordHdr) (reason : Nat)
  /-- LEAVE (R595) -/
  | leave (path : Path) (h : CoordHdr) (cause : Nat)
  /-- MEMBER_UPDATE (R584) -/
  | memberUpdate (path : Path) (h : CoordHdr) (members deputy : Nat)
  /-- RELAY_COMMAND (R603) -/
  | relayCommand (path : Path) (h : CoordHdr) (relayId offset total : Nat) (entry : CmdEntry) (data : Bytes)
  /-- RELAY_COMPLETION (R38) -/
  | relayCompletion (path : Path) (h : CoordHdr) (relayId offset total status resultLength applied failIndex detail : Nat) (result : Bytes)
  /-- RELAY_EVENT (R554) -/
  | relayEvent (path : Path) (h : CoordHdr) (code t32 : Nat) (data : Bytes)
  /-- PREPARE (R608) -/
  | prepare (path : Path) (h : CoordHdr) (newEpoch mode : Nat) (t : T32) (members : Nat)
  /-- READY (R609) -/
  | ready (path : Path) (h : CoordHdr) (newEpoch : Nat)
  /-- REFUSE (R609) -/
  | refuse (path : Path) (h : CoordHdr) (newEpoch status : Nat)
  /-- COMMIT (R610) -/
  | commit (path : Path) (h : CoordHdr) (newEpoch mode : Nat) (t : T32)
  /-- ABORT (R613) -/
  | abort (path : Path) (h : CoordHdr) (newEpoch : Nat)
  /-- MODE_QUERY (R612) -/
  | modeQuery (path : Path) (h : CoordHdr) (newEpoch : Nat)
  /-- TAKEOVER (R600) -/
  | takeover (path : Path) (h : CoordHdr) (oldManager newDeputy : Nat)
  /-- SNOWDROP_OFFER (R650) -/
  | snowdropOffer (path : Path) (h : CoordHdr) (dieIds : Bytes) (cause : Nat)
  /-- SNOWDROP_CHUNK (R651) -/
  | snowdropChunk (path : Path) (h : CoordHdr) (total offset : Nat) (data : Bytes)
  /-- SNOWDROP_RESULT (R651) -/
  | snowdropResult (path : Path) (h : CoordHdr) (code nextOffset : Nat)
  /-- SNOWDROP_OFFER_SEND (R650) -/
  | snowdropOfferSend
  /-- ELECTION_WINDOW_END (R580) -/
  | electionWindowEnd
  /-- ANNOUNCE_SEND (R580) -/
  | announceSend
  /-- JOIN_REQUEST_REPEAT (R582) -/
  | joinRequestRepeat
  /-- COORD_HEARTBEAT_SEND (R590) -/
  | coordHeartbeatSend
  /-- COORD_TIMEOUT (R591) -/
  | coordTimeout (peer link : Nat)
  /-- MESSAGE_RESEND (R588) -/
  | messageResend (msgSeq : Nat)
  /-- LEAVE_HOLD_EXPIRY (R594) -/
  | leaveHoldExpiry (peer : Nat)
  /-- TAKEOVER_HOLD_EXPIRY (R597) -/
  | takeoverHoldExpiry
  /-- PREPARE_REPLY_TIMEOUT (R609) -/
  | prepareReplyTimeout
  /-- MODE_COMMIT_DUE (R610) -/
  | modeCommitDue
  /-- COMMIT_UNCERTAIN (R611) -/
  | commitUncertain
  /-- MODE_QUERY_SEND (R611) -/
  | modeQuerySend
  /-- DECISION_RESEND (R612) -/
  | decisionResend
  /-- MODE_CHANGE_DEADLINE (R614) -/
  | modeChangeDeadline
  /-- ROOT_PLL_LOCK (R499) -/
  | rootPllLock
  /-- PLL_LOCK_RETRY (R729) -/
  | pllLockRetry
  /-- ROOT_PLL_LOSS (R36) -/
  | rootPllLoss
  /-- ROM_START (R624) -/
  | romStart (recoveryReq : Bool)
  /-- ACTIVATION_PAUSE (R631) -/
  | activationPause
  /-- IMAGE_RESUMES_FETCHING (R633) -/
  | imageResumesFetching
  /-- ACTIVATION_TIMEOUT (R634) -/
  | activationTimeout
  /-- FLASH_UPDATE_COMPLETE (R635) -/
  | flashUpdateComplete (failedSector : Option Nat)
  /-- IMAGE_CONFIRM (R638) -/
  | imageConfirm
  /-- CONFIRM_WINDOW_END (R639) -/
  | confirmWindowEnd
  /-- DEGRADED_CONDITION_ARISES (R664) -/
  | degradedConditionArises (bit : Nat)
  /-- DEGRADED_CONDITION_CLEARS (R675) -/
  | degradedConditionClears (bit : Nat)
  /-- DRAIN_COMPLETE (R670) -/
  | drainComplete
  /-- FE_FIRMWARE_FAILURE (R692) -/
  | feFirmwareFailure (cause : FeCause) (cores : List Nat)
  /-- FE_RESTART_TIMEOUT (R694) -/
  | feRestartTimeout
  /-- TM_DEPUTY_CLEAR (R696) -/
  | tmDeputyClear
  /-- TM_CORE_FAILURE (R697) -/
  | tmCoreFailure (core : Nat)
  /-- SRAM_ERROR (R680) -/
  | sramError (die macro_ row column : Nat) (correctable : Bool) (use : SramUse)
  /-- SPARE_ROW_FILLED (R681) -/
  | spareRowFilled (macro_ : Nat)
  /-- REPAIR_MAP_COMMIT (R684) -/
  | repairMapCommit (failedSector : Option Nat)
  /-- REPAIR_MAP_RETRY (R688) -/
  | repairMapRetry (failedSector : Option Nat)
  /-- PERF_OVERFLOW (R701) -/
  | perfOverflow (die counter : Nat)
  /-- HISTOGRAM_WINDOW_END (R706) -/
  | histogramWindowEnd (h : Nat)
  /-- PSAMPLE_RECORD (R707) -/
  | psampleRecord (kind unit : Nat) (insn address stall packetId : Nat)
  /-- TELEMETRY_FLUSH (R711) -/
  | telemetryFlush
  /-- MAIN_POWER_LOSS (R723) -/
  | mainPowerLoss
  /-- RAIL_FAULT (R724) -/
  | railFault (rail : Nat)
  /-- MAIN_RAILS_GOOD (R720) -/
  | mainRailsGood
  /-- VAUX_CHANGE (R718) -/
  | vauxChange (millivolt : Nat)
  /-- THERMAL_ALARM (R726) -/
  | thermalAlarm (sensor : Nat) (tempC : Int)
  /-- THERMAL_TRIP (R726) -/
  | thermalTrip (sensor : Nat) (tempC : Int)
  /-- TEMPERATURE_LOW (R727) -/
  | temperatureLow (sensor : Nat) (tempC : Int)
  /-- SYS_RESET_ASSERTION (R734) -/
  | sysResetAssertion
  /-- SYS_RESET_RELEASE (R721) -/
  | sysResetRelease
  /-- RESET_DELAY_EXPIRY (R662) -/
  | resetDelayExpiry
  /-- RESET_STUCK (R733) -/
  | resetStuck
  /-- PERST_ASSERTION (R735) -/
  | perstAssertion
  /-- PERST_UNMASK_TIMEOUT (R735) -/
  | perstUnmaskTimeout
  /-- RECOVERY_STUCK (R736) -/
  | recoveryStuck
  /-- ALARM_INPUT_CHANGE (R737) -/
  | alarmInputChange (input : Nat) (level : Bool)
  /-- AUX_HEARTBEAT (R738) -/
  | auxHeartbeat
  /-- LANE_LOCK_DECLARED (R368) -/
  | laneLockDeclared (lane : Nat)
  /-- LANE_LOCK_LOST (R368) -/
  | laneLockLost (lane : Nat)
  /-- REMOTE_FAULT_CLEARED (R52) -/
  | remoteFaultCleared (port : Nat)
  /-- FRAME_TRANSMITTED (R68) -/
  | frameTransmitted (port : Nat)
  /-- STACK_TEMPERATURE_REPORT (R469) -/
  | stackTemperatureReport (stack : Nat) (tempC : Nat)
  /-- REPLAY_REISSUE (R480) -/
  | replayReissue (channel : Nat)
  /-- ROW_REPAIR_DONE (R494) -/
  | rowRepairDone (pc bank : Nat)
  /-- RAILS_BACK_IN_WINDOW (R725) -/
  | railsBackInWindow
  /-- FW_HEARTBEAT_TICK (R690) -/
  | fwHeartbeatTick
  /-- FW_HALTED_TIMEOUT (R626) -/
  | fwHaltedTimeout
  /-- PCIE_LINK_UP (R534) -/
  | pcieLinkUp
  /-- COORD_LINK_DOWN (R589) -/
  | coordLinkDown (link : Nat)
  /-- COORD_LINK_UP (R590) -/
  | coordLinkUp (link : Nat)
deriving DecidableEq, Repr

end Sys2Proof
end

