-- ==== Sys2Proof/Decode.lean ====
section
/-! DEFINITION. The commands that a word spells: spec/opcode_table.json gives no row any bits, so no word spells one. -/
namespace Sys2Proof

/-- The command that a word of `nbits` bits spells by the bits of the table's rows: none, since no row has bits
(spec/98_reader.md: n_rows_with_fixed is 0 and n_rows_with_fields is 0). -/
def decodeTableWord (_nbits _w : Nat) : Option Instr := none

end Sys2Proof
end

