-- ==== Sys2Proof/Config.lean ====
section
/-! DEFINITION. What one part or one implementation fixes and the spec does not state: constants and functions without a
body. Nothing in Lean can evaluate them, so a statement about them holds for every value. -/
namespace Sys2Proof

/-- Which of the pipelines in service serves a packet, by the n-th draw (R159 leaves it open). Log entry 5. -/
opaque Config.servingPipe : Nat → Nat

/-- The 16-bit random value of the n-th WRED draw (R277). Log entry 5. -/
opaque Config.wredRandom : Nat → BitVec 16

/-- First number of buckets per way of a hash table (R744), by table key; its base bucket and its seed, by table key and
count of moves. Log entry 6. -/
opaque Config.tableN : Nat → Nat
opaque Config.tableBase : Nat → Nat → Nat
opaque Config.tableSeed : Nat → Nat → Nat

/-- The way that holds a key of a hash table (R166), by table key and key. Log entry 6. -/
opaque Config.keyWay : Nat → Nat → Nat

/-- Whether the n-th insert finds no place after 32 moves in an area that is not yet full (R171, R744). Log entry 6. -/
opaque Config.placeFails : Nat → Bool

/-- TTL - 1 where the TTL is 0 (Table 11-5), and the stall of the n-th sampled edit instruction (Table 18-4), which the spec
does not state. Log entry 16. -/
opaque Config.ttlBelowZero : BitVec 8
opaque Config.editStall : Nat → BitVec 32

/-- Whether the n-th attempt to train a retired pseudo-channel succeeds (R493), and whether the memory has a hard repair
resource for a row (R495), by PC, bank and row. Log entry 17. -/
opaque Config.pcTrains : Nat → Bool
opaque Config.hardRepair : Nat → Nat → Nat → Bool

/-- The manager priority of a member that this device has never heard it from, by FDI (R584). Log entry 18. -/
opaque Config.peerPriority : Nat → BitVec 8

/-- The cause in SNOWDROP_OFFER (Table 16-7), whose codes the spec does not state. Log entry 19. -/
opaque Config.offerCause : BitVec 8

/-- Measurements that no command of the table reports: a main rail in mV by tick and rail, a sensor that has reported nothing
yet (Table 19-9). Log entry 20. -/
opaque Config.railMillivolts : Nat → Nat → BitVec 16
opaque Config.sensorTemp : Nat → BitVec 8

/-- Rows that the hard repair resources of the memories can replace, all stacks together (Table 17-6). Log entry 17. -/
opaque Config.hbmHardRows : Nat

/-- SHA-256 (R615), a standard the spec names and does not restate. Log entry 7. -/
opaque Config.sha256 : Bytes → Bytes

/-- HSS verification of RFC 8554 (R616): public key, message, signature. Log entry 7. -/
opaque Config.hssVerify : Bytes → Bytes → Bytes → Bool

/-- The device's HSS signature under a level-1 key and a level-2 key (R653, R654). Log entry 7. -/
opaque Config.hssSign : Nat → Nat → Bytes → Bytes

/-- GCM-AES of IEEE 802.1AE: key, salt, SSCI, SCI, PN, authenticated bytes, plaintext; the ciphertext and the ICV.
Log entry 7. -/
opaque Config.gcmCipher : Bytes → Nat → Nat → Nat → Nat → Bytes → Bytes → Bytes
opaque Config.gcmIcv : Bytes → Nat → Nat → Nat → Nat → Bytes → Bytes → Bytes

/-- Identity of the part: die identifiers, keys, fused vendor key hash, ROM version (R615, R653, Table 16-9), and the
image that the flash holds when the part is first powered. Log entry 8. -/
opaque Config.dieFe : Bytes
opaque Config.dieTm : Bytes
opaque Config.publicKey : Bytes
opaque Config.keySignature : Bytes
opaque Config.vendorKeyHash : Bytes
opaque Config.romVersion : Nat

/-- A CMIS byte that nothing has written, by module and address (R82, R85). Log entry 9. -/
opaque Config.moduleByte : Nat → Nat → Byte

/-- The host interface identifier with which a module's CMIS application runs the ports of a group mode (R80); the spec gives
none: a free value (log 9). -/
opaque Config.cmisInterface : Nat → Byte

end Sys2Proof
end

