-- ==== Sys2Proof/Machine/State.lean ====
section
/-! DEFINITION. The state of the F9640 as plain data. Each field's comment gives its width or form, the rule and file of
spec/ that names it, and its reset value; the field's default is that value. -/
namespace Sys2Proof.Machine
open Sys2Proof

/-! ### Packets -/

/-- Parse result (Table 04-2), by field; `inner` fields and `dmac` positions are values, an absent offset is 0. -/
structure Parse where
  flags : Nat := 0
  hashA : Nat := 0
  hashB : Nat := 0
  frameLen : Nat := 0
  port : Nat := 0
  scIndex : Nat := 0
  status : Nat := 0
  puntClass : Nat := 0
  resolved : Nat := 0
  mplsCount : Nat := 0
  l3Off : Nat := 0
  l4Off : Nat := 0
  innerL3Off : Nat := 0
  innerL4Off : Nat := 0
  l4Proto : Nat := 0
  tos : Nat := 0
  ttl : Nat := 0
  outerTag : Nat := 0
  innerTag : Nat := 0
  etherType : Nat := 0
  entropy : Nat := 0
deriving DecidableEq, Repr

/-- What is known of a frame's last byte: it has arrived; or it is on its way and will be good, or bad under a drop code
(R61, R114, R750). -/
inductive Tail where
  | here | good | bad (code : Nat)
deriving DecidableEq, Repr

/-- A frame in the receive buffer of a port (R59), after the receive and MACsec checks: bytes without FCS. -/
structure RxFrame where
  frame : Bytes
  rxT32 : T32
  secured : Bool := false
  scIndex : Nat := 0
  tail : Tail := .here
  inject : Bool := false
  tsReq : Option Nat := none
  /-- bytes that it holds in the receive buffer: as received, none once it has its parser slot -/
  wire : Nat := 0
deriving DecidableEq, Repr

/-- A flit on the die-to-die interface that the receiving die has not acknowledged (R13-R16): its number in the order of
sending, the module it is on, how often it has been replayed. -/
structure Flit where
  no : Nat
  module : Nat
  replays : Nat := 0
deriving DecidableEq, Repr

/-- A packet in the lookup pipelines: its parse result and what travels with it. -/
structure LkPkt where
  frame : Bytes
  parse : Parse
  cut : Nat
  rxT32 : T32
  tail : Tail
  tsReq : Option Nat := none
  /-- bytes beyond byte 191 that stay in the receive buffer until they cross (R59, R750) -/
  wire : Nat := 0
deriving DecidableEq, Repr

/-- The edit word (Table 11-4). -/
structure EditWord where
  op : Nat := 0
  ttlPipe : Bool := false
  popCount : Nat := 0
  ptp : Bool := false
  newLabel : Nat := 0
deriving DecidableEq, Repr

/-- A packet of the cell store: header of Table 07-1 with the forwarding bytes of R377 and Table 11-3, and the frame
without its FCS. `cells` is the charge (R252, R269), `pid` names the packet, `shared` its shared-packet record (R360). -/
structure QPkt where
  pid : Nat
  entry : T32
  frameLen : Nat
  tc : Nat
  colour : Nat
  ecn : Nat
  ce : Bool := false
  prot : Bool := false
  queue : Nat := 0
  mcast : Bool
  dest : Nat
  encap : Option Nat
  rxT32 : T32
  edit : EditWord
  hashA : Nat
  port : Nat
  frame : Bytes
  cells : Nat
  /-- cells charged beyond the packet's own until its tail has arrived (R269) -/
  extra : Nat := 0
  tail : Tail := .here
  shared : Option Nat := none
  tsReq : Option Nat := none
  /-- held from early dispatch until its ICV has verified (R115) -/
  verify : Bool := false
  /-- lost cells (R288) -/
  lost : Bool := false
  /-- the flit that carries it to the FE die (R13) -/
  flit : Option Flit := none
  /-- cells still waiting for admission of further members (R431): source device copy -/
  early : Bool := false
deriving DecidableEq, Repr

/-- The result of a lookup, as the descriptor carries it to the TM die (R193): besides the packet's destination and edits
the indices of the objects that it used. `flit` is the flit that carries it (R13). -/
structure Desc2 where
  pkt : LkPkt
  flit : Flit
  nexthop : Option Nat := none
  ecmp : Option Nat := none
  labels : List Nat := []
  iface : Option Nat := none
  mcast : Bool
  dest : Nat
  encap : Option Nat
  edit : EditWord
  tc : Nat
  colour : Nat
deriving DecidableEq, Repr

/-! ### Time base (13_time.md) -/

/-- A staged TIME_STEP (R504). -/
structure StagedStep where
  offset : Int
  t : T32
deriving DecidableEq, Repr

structure TimeSt where
  acc : Acc := 0 -- 64 bits; R498 R499 (13); 0 at the first tick after lock
  inc : BitVec 40 := 0x0155555555#40 -- 40 bits; Table 13-1 R498 (13); 0x01_5555_5555
  ticks : Nat := 0 -- count of time-clock ticks, for durations; R507 (13); 0 (model's own origin, log 3)
  incT32 : T32 := 0 -- 32 bits; Table 13-4 TIME_GET (13); DESIGN CHOICE 0 log 4
  incTick : Nat := 0 -- ticks; R513 (13); DESIGN CHOICE 0 log 4
  stepThreshold : Nat := 1000000 -- 32 bits; R503 (13); 1,000,000
  holdoverS : Nat := 8 -- 16 bits; R513 (13); 8
  holdover : Bool := true -- 1 bit; Table 13-2 R514 (13); 1
  syncLost : Bool := false -- 1 bit; Table 13-2 R533 (13); 0
  lastSync : Nat := 0 -- ticks; R533 (13); DESIGN CHOICE 0 log 4
  lastOffset : Int := 0 -- ns; Table 13-7 0x0C89 (13); DESIGN CHOICE 0 log 4
  step : Option StagedStep := none -- one staged step; R504 (13); none
  ppsInEn : Bool := false -- 1 bit; Table 13-5 (13); DESIGN CHOICE 0 log 4
  ppsInMasked : Bool := false -- 1 bit; Table 13-2 R524 (13); 0
  ppsInLost : Bool := false -- 1 bit; Table 13-2 R525 (13); 0
  ppsInAdjust : Int := 0 -- 16 bits signed; R522 (13); DESIGN CHOICE 0 log 4
  ppsLast : Option (Nat × T32) := none -- tick and T32 of the last accepted edge; R523 (13); none
  ppsIgnored : Nat := 0 -- edges ignored since the last accepted; R522 (13); 0
  ppsWin : List Nat := [] -- ticks of the edges ignored in the last 1 s; R524 (13); none
  ppsOutEn : Bool := false -- 1 bit; Table 13-2 (13); 0
  ppsOutAdjust : Int := 0 -- 16 bits signed; R526 (13); DESIGN CHOICE 0 log 4
  ppsTarget : T32 := 0 -- 32 bits; R526 (13); DESIGN CHOICE 0 log 4
  ppsPeriod : Nat := 1000000000 -- 32 bits; R526 (13); 1,000,000,000
  ppsWidth : Nat := 100000000 -- 32 bits; R526 (13); 100,000,000
  ppsOut : Bool := false -- pin PPS_OUT; R526 R528 (13); low
  ppsRise : Nat := 0 -- tick of the last rising edge; R526 (13); 0
deriving DecidableEq, Repr

/-! ### Host interface (14_host_interface.md) -/

/-- A completion as written into host memory (Table 14-7). -/
structure Completion where
  seq : Nat
  target : Nat
  status : Nat
  result : Bytes
  resultLength : Nat
  applied : Nat
  failIndex : Nat
  detail : Nat
  doneT32 : T32
  area : Bytes -- bytes 32-63 of the entry; R7 (00)
deriving DecidableEq, Repr

/-- An event record (Table 14-9). -/
structure EventRec where
  code : Nat
  src : Nat
  phase : Bool
  lostBefore : Bool
  t32 : T32
  seq : Nat
  lost : Nat
  data : Bytes
deriving DecidableEq, Repr

/-- One ring base register and its device-side and host-side indices (Table 14-4, R539). -/
structure Ring where
  addr : Nat := 0 -- bits 63:12; Table 14-4 (14); 0
  enable : Bool := false -- 1 bit; Table 14-4 (14); 0
  sizeCode : Nat := 0 -- 4 bits; Table 14-4 (14); 0
  upper : Nat := 0 -- upper dword waiting for the lower; R537 (14); 0
  dev : Nat := 0 -- 16 bits, device-side index; R539 (14); 0
  host : Nat := 0 -- 16 bits, host-side index; R539 (14); 0
deriving DecidableEq, Repr

/-- Moderation and signalling of one MSI-X vector (R557-R559). -/
structure Vec where
  count : Nat := 1 -- 1-256; R558 (14); 1
  timerUs : Nat := 0 -- 0-1,000; R558 (14); 0
  waiting : Nat := 0 -- unsignalled items; R558 (14); 0
  since : Nat := 0 -- tick of the first of them; R558 (14); 0
  pendingBit : Bool := false -- 1 bit; R559 Table 14-1 (14); 0
deriving DecidableEq, Repr

/-- A posted descriptor and its ring index (Table 14-10). -/
structure Posted where
  idx : Nat
  desc : Desc
deriving DecidableEq, Repr

/-- A descriptor written back (Table 14-10). -/
structure WriteBack where
  channel : Nat
  idx : Nat
  sop : Bool
  eop : Bool
  wbLen : Nat
  wbStatus : Nat
  frameSeq : Nat
  error : Bool
  ts : Bool
  data : Bytes
  bytes : Bytes -- the 16 bytes of the descriptor; R7 (00)
deriving DecidableEq, Repr

/-- A frame held in a pool buffer for a punt channel. -/
structure Held where
  handle : Nat
  bytes : Bytes
  /-- a telemetry block: the losses it reports and its records of types 1, 2 and 3 (R711, R713) -/
  telemetry : Option (List Nat) := none
deriving DecidableEq, Repr

/-- One punt or inject channel (R565, R576, Table 14-17). -/
structure Chan where
  configured : Bool := false -- 1 bit; Table 14-17 (14); 0
  inject : Bool := false -- kind; Table 14-17 (14); DESIGN CHOICE punt log 4
  sizeCode : Nat := 0 -- 0-9; Table 14-17 (14); DESIGN CHOICE 0 log 4
  vector : Nat := 4 -- 4-63; Table 14-17 (14); DESIGN CHOICE 4 log 4
  holdUs : Nat := 50 -- 16 bits; R562 (14); 50
  dmaGbps : Nat := 50 -- 16 bits; R572 (14); 50
  ringBase : Nat := 0 -- 64 bits; Table 14-17 (14); DESIGN CHOICE 0 log 4
  enabled : Bool := false -- 1 bit; R574 (14); 0
  prod : Nat := 0 -- 16 bits; Table 14-16 (14); 0
  dev : Nat := 0 -- 16 bits; Table 14-16 (14); 0
  frameSeq : Nat := 0 -- 16 bits; R563 (14); 0
  posted : List Posted := [] -- descriptors not yet used; R561 R566 (14); none
  held : List Held := [] -- frames in pool buffers, oldest first; R563 (14); none
  taken : List Posted := [] -- descriptors reserved for the frame whose DMA is in progress; R561 (14); none
  headSince : Option Nat := none -- tick at which the head frame began to wait; R562 (14); none
  sopSince : Option Nat := none -- tick at which an inject sop without eop was posted; R566 (14); none
  reading : Option Held := none -- frame whose DMA is in progress; R357 (09); none
  linkAt : Nat := 0 -- tick from which dma_gbps lets it take the link again; R572 (14); 0
deriving DecidableEq, Repr

/-- What an unfinished command waits for; `batch` names its work in the table write port or its staged batch. -/
inductive OpenKind where
  | retire (kind index : Nat)
  | tcamDelete (handles : List Nat)
  | batch (id : Nat)
  | modeChange
  | activate
  | pcRetire (pc : Nat)
  | relay (id : Nat)
  | distribute (id : Nat)
  | snowdropPush (fdi : Nat)
  | moduleAccess (module : Nat) (write : Bool)
deriving DecidableEq, Repr

/-- The outcome of a command that ended while no completion could be written (R32, Table 01-5). -/
structure Answer where
  status : Nat
  result : Bytes
  applied : Nat
  failIndex : Nat
  detail : Nat
deriving DecidableEq, Repr

/-- A command that has started and not completed (R542, R543). -/
structure OpenCmd where
  cmd : Cmd
  kind : OpenKind
  /-- how it ended, where its completion waits for firmware to run -/
  answer : Option Answer := none
  /-- its completion is not written (R575) -/
  silent : Bool := false
  /-- T32 at which it was fetched (Table 18-3) -/
  at_ : T32 := 0
deriving DecidableEq, Repr

structure HifSt where
  cmdRing : Ring := {} -- Table 14-1 R539 (14); 0
  evtRing : Ring := {} -- Table 14-1 R539 (14); 0
  fetchStopped : Bool := false -- fetching stopped by an error; R550 R573 (14); no
  evtSeq : Nat := 0 -- 32 bits; R551 (14); 0
  evtLost : Nat := 0 -- records lost since the last written; R556 (14); 0
  evtMask : Nat := 0 -- 32 bits; R553 (14); DESIGN CHOICE 0 log 4
  events : List EventRec := [] -- records written and not yet consumed; R551 (14); none
  revisionId : Nat := 0xB1 -- 8 bits, PCIe Revision ID register, read only; R4 (00); 0xB1
  healthW1c : Nat := 0 -- bits 3:0 of HIF_HEALTH; Table 14-3 (14); 0
  heartbeat : Nat := 0 -- 32 bits HIF_FW_HEARTBEAT; Table 14-1 (14); 0
  hbTick : Nat := 0 -- tick at which it last advanced; Table 14-2 fw_running (14); 0
  fwRunning : Bool := false -- bit 8 of HIF_MODE_STATUS; Table 14-2 (14); 0
  fwHalted : Bool := false -- bit 9 of HIF_HEALTH; Table 14-3 (14); 0
  bar : List Host.Cell := [] -- Snowdrop window and MSI-X table, bytes by BAR0 offset, kept as the difference from their reset values; Table 14-1 (14); 0, vector masks 1, PRESUMED log 4
  snowResult : Nat := 0 -- 8 bits; Table 14-6 (14); 0
  imageReady : Bool := false -- 1 bit; Table 14-6 (14); 0
  vecs : Tbl Vec := [] -- 64 vectors; R558 (14); count 1, timer 0
  channels : Tbl Chan := [] -- CH4-CH63; R565 R576 (14); not configured, disabled
  linkUp : Bool := false -- PCIe link; R534 (14); down until trained
  dmaHeld : Bool := false -- no command DMA since an event of R574 until the command ring is enabled again; R574 R575 (14); no
  openCmds : List OpenCmd := [] -- commands not completed; R542 (14); none
  completions : List Completion := [] -- completions written, oldest first; R544 (14); none
  msix : List Nat := [] -- MSI-X messages sent, oldest first; R559 (14); none
  writeBacks : List WriteBack := [] -- descriptors written back, oldest first; R564 R571 (14); none
  limits : Tbl (Nat × Nat) := [] -- once-per-1-s windows: start tick and hits; R10 (00); none open
deriving DecidableEq, Repr

/-! ### Ports and modules (02_ports.md) -/

/-- One address filter entry (R56). -/
structure Filt where
  addr : Nat := 0
  valid : Bool := false
deriving DecidableEq, Repr

/-- PORT_CONFIG settings of a port (Table 02-6, R755). -/
structure PortCfg where
  promisc : Bool := false -- 1 bit; R755 (02); off
  bcast : Bool := false -- 1 bit; R755 (02); off
  mclass : Nat := 0 -- 2 bits; R57 R755 (02); NONE
  filter : List Filt := [] -- 8 entries; R56 R755 (02); all invalid
  lpiEn : Bool := false -- 1 bit; R66 R755 (02); off
  fbEn : Bool := false -- 1 bit; R70 R755 (02); off
  twTx : Nat := 4 -- 16 bits us; R755 (02); 4
  twRx : Nat := 4 -- 16 bits us; R755 (02); 4
  lpiIdle : Nat := 10 -- 16 bits us; R68 R755 (02); 10
  maxFrame : Nat := 9728 -- 16 bits; R755 (02); 9,728
  upHold : Nat := 10 -- ms; R755 (02); 10
  downHold : Nat := 0 -- ms; R755 (02); 0
deriving DecidableEq, Repr

/-- Per-port parse policy (Table 04-10). -/
structure Policy where
  depthPunt : Bool := false -- 1 bit; Table 04-10 (04); forward
  unknown : Nat := 0 -- 2 bits; Table 04-10 (04); drop
  hbhPunt : Bool := false -- 1 bit; Table 04-10 (04); forward
  vxlan : Bool := true -- 1 bit; Table 04-10 (04); 1
  gre : Bool := true -- 1 bit; Table 04-10 (04); 1
  vxlanPort : Nat := 4789 -- 16 bits; Table 04-10 (04); 4,789
  hashProfile : Nat := 0 -- 0-15; Table 04-10 (04); 0
deriving DecidableEq, Repr

/-- Per-port QoS settings (R292). -/
structure QosPort where
  map : Nat := 0 -- 0-15; R294 (08); 0
  trust : Nat := 0 -- 2 bits; R294 (08); none
  tc : Nat := 0 -- 3 bits; R294 (08); 0
  colour : Nat := 0 -- 2 bits; R294 (08); green
  policers : Tbl Nat := [] -- 8 entries, listed when valid; R295 (08); DESIGN CHOICE invalid log 4
deriving DecidableEq, Repr

/-- A frame in a transmit buffer (R62), edited and, where secured, encrypted; bytes without FCS. -/
structure TxFrame where
  frame : Bytes
  rxT32 : T32
  ptpOff : Option Nat := none
  ipv4Udp : Bool := false
  udpOff : Nat := 0
  launch : Option T32 := none
  tsReq : Option Nat := none
  /-- found all 32 timestamp requests of the port in use (R520) -/
  tsOver : Bool := false
  ptpSeq : Nat := 0
  ptpType : Nat := 0
  ptpDomain : Nat := 0
deriving DecidableEq, Repr

/-- A frame as it went on the wire: with FCS. -/
structure Sent where
  port : Nat
  bytes : Bytes
  tTx : T32
deriving DecidableEq, Repr

/-- A network port, by port number (R41). -/
structure Port where
  cfg : PortCfg := {} -- Table 02-6 R755 (02)
  adminUp : Bool := true -- 1 bit; R755 (02); up
  rxDisabled : Bool := false -- 1 bit; R755 (02); receive enabled
  up : Bool := false -- state; R50 (02); down
  conditions : Bool := false -- trained, locked and aligned, no fault; R50 (02); no
  upSince : Option Nat := none -- tick at which the link-up hold started; R50 (02); none
  downSince : Option (Nat × Nat) := none -- tick and reason of the link-down hold; R51 (02); none
  localFault : Bool := false -- 1 bit; Table 02-9 (02); 0
  remoteFault : Bool := false -- 1 bit; R52 (02); 0
  lastDown : Nat := 255 -- 8 bits; Table 02-9 (02); 0xFF
  lastChange : T32 := 0 -- 32 bits; Table 02-9 (02); 0
  trained : List Nat := [] -- lanes that have trained; R50 R78 (02); none
  training : List Nat := [] -- lanes in a training attempt; R78 (02); none
  trainAt : Tbl Nat := [] -- tick at which the last attempt of each lane began; R78 (02); none
  attempts : Nat := 0 -- failed attempts of the sequence; R78 (02); 0
  retryAt : Option Nat := none -- tick at which a failed sequence ended; R79 (02); none
  rxBuf : List RxFrame := [] -- receive buffer; R59 (02); empty
  rxCross : Nat := 0 -- bytes beyond byte 191 of parsed frames that have not yet crossed; R59 R750 (02, 01); 0
  fecTimes : List Nat := [] -- ticks of the uncorrectable codewords of the last 10 ms; R54 (02); none
  txBuf : List TxFrame := [] -- transmit buffer; R62 (02); empty
  sending : Option Nat := none -- bytes of the frame on the wire; R62 (02); none
  lpi : Bool := false -- in transmit LPI; R68 (02); no
  lpiWake : Option Nat := none -- tick before which no frame starts; R69 (02); none
  txEmpty : Nat := 0 -- tick since which the buffer is empty; R68 (02); 0
  lpiSince : Nat := 0 -- tick of LPI entry; Table 02-7 lpi_time_us (02); 0
  policy : Policy := {} -- Table 04-10 (04)
  qos : QosPort := {} -- R292 (08)
  rxAdjust : Int := 0 -- 16 bits signed; R516 (13); 0
  txAdjust : Int := 0 -- 16 bits signed; R516 (13); 0
  tcEnable : Bool := true -- 1 bit; R451 (11); 1
  defaultSite : Option Nat := none -- site map port default; R308 (08); DESIGN CHOICE invalid log 4
  feQ : List QPkt := [] -- packets released by the TM die, waiting for an edit engine; R437 (11); none
deriving DecidableEq, Repr

/-- A lane group (R42). -/
structure Group where
  mode : Nat := 0 -- 3 bits, configured mode; R42 R754 (02); 0x0
  running : Nat := 0 -- mode in which it runs; Table 02-9 (02); 0x0
  fbDisabled : Bool := false -- 1 bit; R74 (02); 0
  fbSince : Option Nat := none -- tick of the last fallback, until its ports are up; R74 (02); none
  lowWindows : Nat := 0 -- consecutive windows below 20 %; R71 (02); 0
  winStart : Nat := 0 -- tick of the 100 ms window's start; R71 (02); 0
deriving DecidableEq, Repr

/-- A pluggable module and its inputs (R80-R89). -/
structure Mod where
  present : Bool := false -- 1 bit; R80 (02); from the presence input, DESIGN CHOICE absent log 4
  vendor : Bytes := [] -- 16 bytes; R80 (02); none
  serial : Bytes := [] -- 16 bytes; R80 (02); none
  lanes : Option (Nat × Nat) := none -- first lane and count; R80 (02); DESIGN CHOICE none log 4
  active : Bool := false -- data path activated; R80 (02); no
  app : Option Nat := none -- CMIS application selected, 1-8; R80 (02); none
  txDisabled : Bool := true -- transmitters held disabled; R81 (02); disabled
  tempC : Int := 0 -- monitor, degrees C; R82 (02); DESIGN CHOICE 0 log 4
  bias : Nat := 0 -- monitor; R82 (02); DESIGN CHOICE 0 log 4
  power : Nat := 0 -- monitor; R82 (02); DESIGN CHOICE 0 log 4
  alarms : List CmisFlag := [] -- alarm flags set; R82 (02); none
  unresponsive : Bool := false -- 1 bit; R83 (02); no
  retries : Nat := 0 -- unacknowledged tries of the access in hand; R83 (02); 0
  intMasked : Bool := false -- 1 bit; R88 (02); 0
  presMasked : Bool := false -- 1 bit; R89 (02); 0
  intClearedAt : Option Nat := none -- tick at which flags were read and cleared with the input active; R86 (02); none
  intTimes : List Nat := [] -- ticks of the assertions of the last 1 s; R87 (02); none
  presTimes : List Nat := [] -- ticks of the changes of the presence input in the last 1 s; R89 (02); none
  monitorAt : Nat := 0 -- tick of the last monitor poll, or of the insertion; R82 (02); 0
  polledAt : Nat := 0 -- tick of the last poll of a masked input, or of its masking; R88 (02); 0
  mem : List Host.Cell := [] -- CMIS bytes by (bank, page, offset); R85 R96 (02); free value log 9
deriving DecidableEq, Repr

/-- A ledger record (Table 02-3); times in seconds or hours as the table says, weights in quarter minutes. -/
structure LedgerRec where
  vendor : Bytes
  serial : Bytes
  laserOnSec : Nat := 0
  weightedQSec : Nat := 0
  firstSeenH : Nat := 0
  lastSeenH : Nat := 0
  insertions : Nat := 0
  alarms : Nat := 0
  passed : Bool := false
  ratedH : Nat := 0
  /-- its CRC holds (R93) -/
  crcOk : Bool := true
deriving DecidableEq, Repr

/-- One copy of an A/B pair in flash (R623): sequence number, commit word, whether it is readable, content. -/
structure Copy (α : Type) where
  seq : Nat := 0
  committed : Bool := false
  body : α
deriving DecidableEq, Repr

structure PortsSt where
  groups : Tbl Group := [] -- NG0-NG5; R42 R754 (02); mode 0x0
  ports : Tbl Port := [] -- P0-P95; R41 R755 (02)
  flitSeq : Nat := 0 -- number of the next flit toward the FE die; R13 R16 (01); model's own; 0
  mods : Tbl Mod := [] -- M0-M47; R80 (02)
  busFailed : List Nat := [] -- buses marked failed; R84 (02); none
  ledger : List LedgerRec := [] -- the ledger in use; R90 R93 (02); the committed copy
  ledgerA : Copy (List LedgerRec) := { body := [] } -- flash; R92 (02); DESIGN CHOICE uncommitted log 10
  ledgerB : Copy (List LedgerRec) := { body := [] } -- flash; R92 (02); DESIGN CHOICE uncommitted log 10
  ledgerAt : Nat := 0 -- tick of the last hourly write; R92 (02); 0
  accumAt : Nat := 0 -- tick of the last once-per-second accumulation; R91 (02); 0
  ledgerSkipped : Nat := 0 -- records skipped at start; R93 (02); 0
  opSeconds : Nat := 0 -- device operating seconds (hours x 3,600); Table 02-3 Table 17-7 (02, 17); DESIGN CHOICE 0 log 10
  sent : List Sent := [] -- frames put on the wire, oldest first; R62 (02); none
deriving DecidableEq, Repr

/-! ### Inline link security (03_link_security.md) -/

/-- One SA slot (R102). -/
structure Sa where
  an : Nat := 0 -- 2 bits; R102 (03); none installed
  keyId : Nat := 0 -- 32 bits; Table 03-6 (03); none
  key : Bytes := [] -- 16 or 32 bytes; R105 (03); none
  salt : Nat := 0 -- 96 bits; Table 03-6 (03); none
  ssci : Nat := 0 -- 32 bits; Table 03-6 (03); none
  nextPn : Nat := 0 -- 64 bits, next expected or next PN; R113 R125 (03); none
  rxEn : Bool := false -- enabled for receive; R122 (03); DESIGN CHOICE 0 at install log 4
  warned : Bool := false -- event 0x0281 raised; R125 (03); no
  exhausted : Bool := false -- event 0x0282 raised; R126 (03); no
deriving DecidableEq, Repr

/-- One receive secure channel (R101). -/
structure RxSc where
  sci : Nat
  window : Nat
deriving DecidableEq, Repr

/-- The SecY of a port (R100-R102, Table 03-5). -/
structure SecY where
  suite : Nat := 1 -- code of Table 03-1; Table 03-5 (03); DESIGN CHOICE 1 log 4
  enabled : Bool := false -- 1 bit; Table 03-5 (03); DESIGN CHOICE 0 log 4
  validation : Nat := 0 -- 2 bits; Table 03-5 (03); DESIGN CHOICE Disabled log 4
  includeSci : Bool := false -- 1 bit; Table 03-5 (03); DESIGN CHOICE 0 log 4
  confidential : Bool := false -- 1 bit; Table 03-5 (03); DESIGN CHOICE 0 log 4
  verify : Bool := false -- 1 bit; R115 (03); DESIGN CHOICE 0 log 4
  confOffset : Nat := 0 -- 0, 30, 50; Table 03-5 (03); DESIGN CHOICE 0 log 4
  launchUs : Nat := 2 -- 1-100; R119 (03); 2
  txSci : Nat := 0 -- 64 bits; Table 03-5 (03); DESIGN CHOICE 0 log 4
  pnWarn : Nat := 0 -- 64 bits, 0 suite default; R125 (03); 0
  rx : Tbl RxSc := [] -- slots 1-3, listed when set; R101 (03); DESIGN CHOICE none log 4
  sas : Tbl Sa := [] -- SA slots by 2 x slot + SA slot; R102 R107 (03); none
  txInUse : Option Nat := none -- SA slot in use for transmit; R117 (03); none
  switch : Option (Nat × T32) := none -- staged SA_TX_SWITCH; R123 (03); none
  lost : Tbl Nat := [] -- AN of each SA slot invalidated by an error; R108 (03); none
deriving DecidableEq, Repr

structure SecSt where
  gradeS : Bool := true -- ordering code S or N; R1 R2 (00); DESIGN CHOICE S log 8
  secys : Tbl SecY := [] -- one per port; R101 (03)
deriving DecidableEq, Repr

/-! ### Parsing and load spreading (04_parsing.md) -/

/-- A hash profile (Table 04-11, R149). -/
structure HashProf where
  fnA : Nat := 1 -- 2 bits; R149 (04); 1
  fnB : Nat := 0 -- 2 bits; R149 (04); 0
  mask : Nat := 0x0FE0 -- 16 bits; R149 (04); 0x0FE0
  seedA : Nat := 0 -- 32 bits; R149 (04); 0
  seedB : Nat := 0 -- 32 bits; R149 (04); 0
deriving DecidableEq, Repr

/-- A slow-path class (R143, R753): tokens in 1/750,000,000 of a packet. -/
structure SlowClass where
  channel : Nat -- 0 none; R753 (04); 0
  rate : Nat -- pps; Tables 04-6 05-15 (04, 05); the class's default
  burst : Nat -- packets; Tables 04-6 05-15 (04, 05); the class's default
  tokens : Nat -- 1/750,000,000 packet; R143 R753 (04); full
  at_ : Nat -- tick of the last refill; R143 (04); 0
deriving DecidableEq, Repr

/-- A link aggregation group (R151). -/
structure Lag where
  members : Tbl Nat := [] -- system port by position 0-63; R151 R153 (04); none
  slots : List Nat := [] -- 256 positions; R151 (04); DESIGN CHOICE 0 log 4
  dead : Bool := false -- event 0x0383 raised, no member up since; R158 (04); no
deriving DecidableEq, Repr

structure ParseSt where
  profiles : Tbl HashProf := [] -- 16; R149 (04)
  classes : Tbl SlowClass := [] -- classes 0x01-0x3F, the ones changed from their defaults; R143 R753 (04)
  lags : Tbl Lag := [] -- LAG0-LAG127; R151 (04)
  pipesOut : List Nat := [] -- retired parser pipelines 0-16; R160 (04); none
  lookupQ : List LkPkt := [] -- packets in the lookup pipelines, oldest first; R159 (04); none
  d2dQ : List Desc2 := [] -- packets crossing to the TM die, oldest first; R16 (01); none
  flitSeq : Nat := 0 -- number of the next flit toward the TM die; R13 R15 (01); model's own; 0
deriving DecidableEq, Repr

/-! ### Forwarding tables (05_forwarding_tables.md) -/

/-- A FIB entry (Tables 05-5, 05-6): `pfx` is the prefix kind, `marker` the marker kind. -/
structure FibEnt where
  vrf : Nat
  fam : Nat
  len : Nat
  key : Nat
  orig : Nat
  pfx : Bool
  marker : Bool
  refs : Nat
  result : Nat
deriving DecidableEq, Repr

/-- Directory data of one VRF and family (R172, R179). -/
structure FibDir where
  dflt : Nat := 0 -- 24 bits; R172 (05); type 0x0
  reserved : List Nat := [] -- lengths reserved; R179 (05); none
  lens : List Nat := [] -- len_list; R174 (05); empty
  shorts : List (Nat × Nat × Nat) := [] -- prefixes shorter than 8 as added: length, key, result; R173 (05); none
deriving DecidableEq, Repr

/-- An exact-match entry (Table 05-8). -/
structure EmEnt where
  table : Nat
  key : Nat
  result : Nat
  override : Bool
deriving DecidableEq, Repr

/-- Width and key profile of a host-defined exact-match table (EM_TABLE_CONFIG). -/
structure EmCfg where
  wide : Bool := false -- 1 bit; Table 05-16 (05); DESIGN CHOICE 128 log 4
  profile : Nat := 0 -- 0-63; Table 05-16 (05); DESIGN CHOICE 0 log 4
deriving DecidableEq, Repr

/-- An interface object (Table 05-9). -/
structure Iface where
  vrf : Nat := 0 -- 12 bits; Table 05-9 (05); 0
  rmac : Nat := 0 -- 16 bits; Table 05-9 (05); 0
  v4 : Bool := false -- 1 bit; Table 05-9 (05); 0
  v6 : Bool := false -- 1 bit; Table 05-9 (05); 0
  mpls : Bool := false -- 1 bit; Table 05-9 (05); 0
  countEn : Bool := false -- 1 bit; Table 05-9 (05); 0
  emA : Nat := 0x3F -- 6 bits; Table 05-9 (05); 0x3F
  emB : Nat := 0x3F -- 6 bits; Table 05-9 (05); 0x3F
deriving DecidableEq, Repr

/-- A label entry (Table 05-10). -/
structure LabelEnt where
  action : Nat := 0 -- 4 bits; Table 05-10 (05); 0
  newLabel : Nat := 0 -- 20 bits; Table 05-10 (05); 0
  vrf : Nat := 0 -- 12 bits; Table 05-10 (05); 0
  result : Nat := 0 -- 24 bits; Table 05-10 (05); 0
  pipe : Bool := false -- 1 bit; Table 05-10 (05); 0
  countEn : Bool := false -- 1 bit; Table 05-10 (05); 0
deriving DecidableEq, Repr

/-- A next-hop record (Table 05-11). -/
structure Nexthop where
  type : Nat := 0 -- 4 bits; Table 05-11 (05); 0
  dest : Nat := 0 -- 16 bits; Table 05-11 (05); 0
  encap : Nat := 0 -- 18 bits; Table 05-11 (05); 0
  encapValid : Bool := false -- 1 bit; Table 05-11 (05); 0
  countEn : Bool := false -- 1 bit; Table 05-11 (05); 0
deriving DecidableEq, Repr

/-- An ECMP group (R752, R764). -/
structure Ecmp where
  members : Tbl Nat -- next-hop by position 0-127; R151 R764 (04, 05)
  slots : List Nat -- 256 positions of 7 bits; R151 (04)
  capacity : Nat -- multiple of 8; R752 (05)
  base : Nat -- first entry of its run in the member pool; R764 (05)
  countEn : Bool := false -- 1 bit; R764 (05); 0
deriving DecidableEq, Repr

/-- An object being retired (R199-R204): kind 0 next-hop, 1 ECMP group, 2 encapsulation. -/
structure Retiring where
  kind : Nat
  index : Nat
  freeAt : Nat
deriving DecidableEq, Repr

/-- A poison list entry (Table 05-22). -/
structure Poison where
  ready : Bool
  table : Nat
  fam : Nat := 0
  len : Nat := 0
  vrf : Nat := 0
  way : Nat := 0
  index : Nat
  seed : Nat := 0
deriving DecidableEq, Repr

/-- A staged timed batch (R197): the opcode and its payload, applied as the command would be. -/
structure Batch where
  id : Nat
  opcode : Nat
  t : T32
  ops : Nat
  payload : Bytes
deriving DecidableEq, Repr

/-- Work in the table write port (R22, R194-R197): the operations of a batch not yet applied and how many have been, or a
command that is no batch and waits for its turn. -/
structure PortWork where
  id : Nat
  opcode : Nat
  flags : Nat := 0
  ops : List Bytes := []
  applied : Nat := 0
  entry : Option CmdEntry := none
deriving DecidableEq, Repr

structure TablesSt where
  fib : List FibEnt := [] -- FIB entries; Tables 05-5 05-6 (05); none
  fibLost : List FibEnt := [] -- prefixes lost with poisoned buckets, whose markers and lengths still stand; R206 R207 (05); none
  port : List PortWork := [] -- the table write port, the work in hand first; R22 R194 R197 (01, 05); none
  dirs : Tbl FibDir := [] -- by 2 x VRF + (family 6); R172 (05)
  em : List EmEnt := [] -- exact-match entries of tables 0-63; Table 05-8 (05); none
  emCfg : Tbl EmCfg := [] -- tables 0-61; Table 05-16 (05)
  ifaces : Tbl Iface := [] -- 65,536; R756 (05); Table 05-9 reset values
  rmacs : Tbl Nat := [] -- 16 router MACs, listed when valid; R181 (05); DESIGN CHOICE invalid log 4
  labels : Tbl LabelEnt := [] -- 1,048,576; Table 05-10 (05); 0
  nexthops : Tbl Nexthop := [] -- 1,048,576; Table 05-11 (05); type 0x0
  ecmps : Tbl Ecmp := [] -- 65,536 groups, listed when created; R764 (05); none
  oldRuns : List (Nat × Nat × Nat) := [] -- member runs of relocated groups not yet freed: group, base, entries; R764 (05); none
  oldTables : Tbl Nat := [] -- grown tables not yet freed, by table key: entries; R168 (05); none
  sizes : Tbl (Nat × Nat) := [] -- buckets per way N and count of moves of a table that has grown; R168 R744 (05); none
  emBanks : Nat := 3 -- 1-10; Table 05-2 R164 (05); 3
  retireAge : Nat := 1000 -- ms; R202 (05); 1,000
  epoch : Nat := 0 -- retirement epoch number; R201 (05); 0 (model's origin)
  epochTick : Nat := 0 -- tick at which it began; R201 (05); 0
  retiring : List Retiring := [] -- objects retiring; R200 (05); none
  poison : Tbl Poison := [] -- 256 entries; R211 R760 (05); free
  batches : List Batch := [] -- staged timed batches; R197 (05); none
  batchSeq : Nat := 0 -- number of the next batch; model's own; 0
  freeIx : Nat := 0 -- draws of free values so far; model's own (log 5, 6); DESIGN CHOICE 0
  fillFib : Bool := false -- event 0x0482 raised for the FIB area; Table 05-18 (05); no
  fillEm : Bool := false -- as fillFib, exact-match area; Table 05-18 (05); no
  fillPool : Bool := false -- as fillFib, member pool; Table 05-18 (05); no
  pipesOut : List Nat := [] -- retired lookup pipelines 0-16; R163 (05); none
  updates : List (Nat × Nat) := [] -- counter updates on their way to HBM: pair, bytes; R12 R213 (01, 05); none
deriving DecidableEq, Repr

/-! ### Associative search (06_associative_search.md) -/

/-- A TCAM entry at its index (Table 06-7). -/
structure TcamEnt where
  index : Nat
  handle : Nat
  prio : Nat
  value : Nat
  mask : Nat
  action : Nat
  poisoned : Bool := false
deriving DecidableEq, Repr

/-- A chain (R218). -/
structure Chain where
  width : Nat -- code of Table 06-1; R218 (06)
  hole : Nat := 32 -- hole interval; R231 (06); 32
  failClosed : Bool := false -- 1 bit; R249 (06); DESIGN CHOICE 0 log 4
  bases : List Nat -- base tile of each rank; R218 (06)
  ents : List TcamEnt := [] -- entries in index order; R231 (06); none
  gen : Nat := 0 -- 32 bits; R243 (06); DESIGN CHOICE 0 log 4
  filled : Bool := false -- event 0x0583 raised; R235 (06); no
  lost : List Nat := [] -- handles of entries lost by a retired tile; R248 R249 (06); none
deriving DecidableEq, Repr

/-- One segment of a key profile (R225-R227). -/
structure KeySeg where
  code : Nat
  anchor : Nat
  offset : Nat
  width : Nat
deriving DecidableEq, Repr

/-- A search profile (R223): chain and key profile of each enabled slot. -/
structure SearchProf where
  a : Option (Nat × Nat) := none -- slot A; R223 (06); disabled
  b : Option (Nat × Nat) := none -- slot B; R223 (06); disabled
deriving DecidableEq, Repr

structure TcamSt where
  chains : Tbl Chain := [] -- C0-C15, listed when configured; R218 (06); DESIGN CHOICE none log 4
  tiles : Tbl Nat := [] -- physical tile of LT0-LT63 where it differs from the same number; R215 (06); DESIGN CHOICE LTn = PTn log 4
  unmapped : List Nat := [] -- logical tiles retired with no spare; R248 (06); none
  spares : List Nat := [64, 65, 66, 67] -- spare physical tiles left; R215 (06); DESIGN CHOICE PT64-PT67 log 4
  filling : List (Nat × Nat) := [] -- logical tile and spare being filled; R246 (06); none
  deleting : List (Nat × Nat) := [] -- handle and tick of its delete; R239 (06); none
  keys : Tbl (List KeySeg) := [] -- 64 key profiles; R225 (06); DESIGN CHOICE empty log 4
  profs : Tbl SearchProf := [] -- 64 search profiles; R223 (06); both slots disabled
  map : Tbl Nat := [] -- profile by 4 x port + layer; R223 (06); 0
deriving DecidableEq, Repr

/-! ### Packet buffer (07_packet_buffer.md) -/

/-- A cell of a queue's chain: its packet, its place in that packet, and its number in the cell store while it is on die
(R252, R253). -/
structure QCell where
  pid : Nat
  k : Nat
  cell : Option Nat
deriving DecidableEq, Repr

/-- A 16-cell segment of a queue's middle (R258): its HBM index, or none while it waits in the backlog; whether a refill
is on its way; and its cells. -/
structure Seg where
  slot : Option Nat
  refill : Bool := false
  cells : List QCell := []
deriving DecidableEq, Repr

/-- The control word of a segment (Table 07-2); its `cells` field is always 16, and its reserved bits are 0. -/
structure SegWord where
  newestT32 : T32 := 0 -- 32 bits; Table 07-2 (07); 0
  bytes : Nat := 0 -- 17 bits; Table 07-2 (07); 0
  pkts : Nat := 0 -- 5 bits; Table 07-2 (07); 0
  firstStart : Nat := 16 -- 5 bits; Table 07-2 (07); 0
  nextSeg : Nat := 0 -- 24 bits; Table 07-2 (07); 0
deriving DecidableEq, Repr

/-- A cell of the cell store that is allocated: the queues that hold it (R255), whether it counts against the VOQ partition or
the egress one (R254), and the two copies of its 32-bit link word, which names the next cell of its queue in bits 18:0 (R253). -/
structure StoreCell where
  holds : Nat := 1
  voq : Bool := true
  linkA : Nat := 0
  linkB : Nat := 0
deriving DecidableEq, Repr

/-- A queue (R250, R251): its settings, its packets and its runs. -/
structure Queue where
  adm : Nat := 0 -- admission profile; Table 07-8 (07); 0
  wred : Nat := 0 -- WRED profile; Table 07-8 (07); 0
  enabled : Bool := true -- 1 bit; Table 07-8 (07); 1
  ageUs : Nat := 1000000 -- us; R279 (07); 1,000,000
  pkts : List QPkt := [] -- packets in admission order; R261 (07); none
  spilling : Bool := false -- 1 bit; R257 (07); no
  out : List QCell := [] -- cells of the head packet that the scheduler has dequeued; R256 R258 (07); none
  head : List QCell := [] -- head run; R258 (07); none
  mid : List Seg := [] -- middle, oldest first; R258 (07); none
  tail : List QCell := [] -- tail run; R258 (07); none
  keep : Nat := 64 -- head_keep in force; R274 (07); 64
  minNow : Nat := 0 -- min_cells in force; R274 (07); 0
  extra : Nat := 0 -- cells charged for tails that have not arrived; R269 (07); 0
  avg : Nat := 0 -- cells x 256; R275 (07); DESIGN CHOICE 0 log 4
  emptyAt : Nat := 0 -- tick at which it became empty; R276 (07); 0
  watermark : Nat := 0 -- cells; Table 07-9 (07); 0
  stall : Bool := false -- refill stall since the last read; R267 (07); 0
  stalled : Bool := false -- in a stall interval; R267 (07); no
  credit : Int := 0 -- bytes, VOQ; R385 (10); DESIGN CHOICE 0 log 4
  keepAt : Option Nat := none -- tick at which the VOQ became empty; R387 (10); none
  reqAt : Nat := 0 -- tick of the last request; R380 (10); 0
  sTag : Nat := 0 -- 40 bits start tag in dispatch; R312 (08); DESIGN CHOICE 0 log 4
  fTag : Nat := 0 -- 40 bits finish tag in dispatch; R312 (08); DESIGN CHOICE 0 log 4
  elig : Bool := false -- was eligible at the last look; R314 (08); no
deriving DecidableEq, Repr

/-- An admission profile (Table 07-6). -/
structure AdmProf where
  spillEn : Bool := true -- 1 bit; Table 07-6 (07); 1
  alphaDie : Nat := 7 -- 4 bits; Table 07-6 (07); 0x7
  alphaHbm : Nat := 5 -- 4 bits; Table 07-6 (07); 0x5
  minCells : Nat := 0 -- Table 07-6 (07); 0
  maxCells : Nat := 268435455 -- Table 07-6 (07); 268,435,455
  spillOn : Nat := 1024 -- Table 07-6 (07); 1,024
  headKeep : Nat := 64 -- Table 07-6 (07); 64
deriving DecidableEq, Repr

/-- One colour curve of a WRED profile (Table 07-7). -/
structure Curve where
  enable : Bool := false -- 1 bit; R275 (07); 0
  mark : Bool := false -- 1 bit; Table 07-7 (07); DESIGN CHOICE drop log 4
  maxP : Nat := 0 -- 16 bits; Table 07-7 (07); DESIGN CHOICE 0 log 4
  minTh : Nat := 0 -- cells; Table 07-7 (07); DESIGN CHOICE 0 log 4
  maxTh : Nat := 0 -- cells; Table 07-7 (07); DESIGN CHOICE 0 log 4
deriving DecidableEq, Repr

/-- A WRED profile: weight and the three curves. -/
structure Wred where
  w : Nat := 0 -- 4 bits; Table 07-7 (07); DESIGN CHOICE 0 log 4
  green : Curve := {}
  yellow : Curve := {}
  red : Curve := {}
deriving DecidableEq, Repr

/-- A shared-packet record (R360): the queues that own the packet, and its cells. -/
structure Shared where
  owners : List Nat
  cells : List Nat
deriving DecidableEq, Repr

structure BufSt where
  voqCells : Nat := 327680 -- partition size; R254 (07); 327,680
  reasmCells : Nat := 32768 -- partition size; R254 (07); 32,768
  egressCells : Nat := 163840 -- partition size; R254 (07); 163,840
  voqUsed : Nat := 0 -- cells; Table 07-13 (07); 0
  reasmUsed : Nat := 0 -- cells; Table 07-13 (07); 0
  egressUsed : Nat := 0 -- cells; Table 07-13 (07); 0
  voqPeak : Nat := 0 -- watermark; Table 07-13 (07); 0
  reasmPeak : Nat := 0 -- watermark; Table 07-13 (07); 0
  egressPeak : Nat := 0 -- watermark; Table 07-13 (07); 0
  backlogMax : Nat := 32768 -- spill_backlog_max; R264 (07); 32,768
  backlog : List Nat := [] -- queue of each waiting segment, oldest first; R258 (07); none
  cells : Tbl StoreCell := [] -- cells 0-524,287 in use, with their link words; R252 R253 (07); none
  withheld : List Nat := [] -- cells of withheld rows, off the free list; R682 (17); none
  auditAt : Nat := 0 -- tick of the last audit; R290 (07); 0
  queues : Tbl Queue := [] -- queues 0-524,287; R250 R251 (07); Table 07-8 reset values
  profs : Tbl AdmProf := [] -- 256 admission profiles; Table 07-6 (07)
  wreds : Tbl Wred := [] -- 64 WRED profiles; Table 07-7 (07); all curves disabled
  pidSeq : Nat := 0 -- number of the next packet; model's own; 0
  shareOn : Bool := true -- BUF_CELL_SHARE_SET; R360 (09); DESIGN CHOICE on log 4
  shared : Tbl Shared := [] -- 65,536 shared-packet records in use; R360 (09); none
  segLow : Bool := false -- event 0x0685 raised; Table 07-12 (07); no
deriving DecidableEq, Repr

/-! ### Scheduling and policing (08_scheduling.md) -/

/-- A node of the egress hierarchy (Table 08-2): balance in 1/6,000,000 byte. The virtual times and largest finish tags
are those of the node's three sets of children (R312, R315). -/
structure Node where
  attached : Bool := false -- 1 bit; R307 (08); detached (ports and queues attached)
  parent : Nat := 0 -- index; Table 08-7 (08); DESIGN CHOICE 0 log 4
  set : Nat := 2 -- 0-2; R307 (08); weighted
  lp : Nat := 0 -- length profile; R307 (08); 0
  weight : Nat := 1 -- 1-4,096; R307 (08); 1
  rate : Nat := 0xFFFFFFFF -- kb/s; R307 (08); unshaped
  depth : Nat := 16384 -- bytes; Table 08-7 (08); 16,384
  bal : Int := 0 -- 1/6,000,000 byte; R320 (08); DESIGN CHOICE 0 log 4
  balAt : Nat := 0 -- tick of bal; R320 (08); 0
  sTag : Nat := 0 -- 40 bits; R312 (08); DESIGN CHOICE 0 log 4
  fTag : Nat := 0 -- 40 bits; R312 (08); DESIGN CHOICE 0 log 4
  elig : Bool := false -- was eligible at the last look; R314 (08); no
  v : List Nat := [0, 0, 0] -- virtual time of each set; R312 (08); DESIGN CHOICE 0 log 4
  maxF : List Nat := [0, 0, 0] -- largest finish tag issued in each set; R315 (08); DESIGN CHOICE 0 log 4
deriving DecidableEq, Repr

/-- A length profile (R319). -/
structure LenProf where
  overhead : Int := 20 -- signed; Table 08-7 (08); +20
  minLen : Nat := 84 -- Table 08-7 (08); 84
deriving DecidableEq, Repr

/-- A QoS map (R292): entries changed from traffic class 0, green; DSCP 0-63, PCP/DEI 64-79, MPLS TC 80-87. -/
abbrev QosMap := Tbl (Nat × Nat)

/-- A policer profile (Table 08-1). -/
structure PolProf where
  mode : Nat := 0 -- 0-2; Table 08-1 (08); srTCM
  blind : Bool := false -- 1 bit; Table 08-1 (08); all fields zero (log 11)
  yellowDrop : Bool := false -- 1 bit; Table 08-1 (08); pass
  redDrop : Bool := false -- 1 bit; Table 08-1 (08); pass
  overhead : Int := 0 -- signed; Table 08-1 (08); 0
  minLen : Nat := 0 -- Table 08-1 (08); 0
  cir : Nat := 0 -- kb/s; Table 08-1 (08); 0
  eir : Nat := 0 -- kb/s; Table 08-1 (08); 0
  cbs : Nat := 0 -- bytes; Table 08-1 (08); 0
  ebs : Nat := 0 -- bytes; Table 08-1 (08); 0
deriving DecidableEq, Repr

/-- A policer (R295, R298): buckets in 1/6,000,000 byte. -/
structure Policer where
  profile : Nat := 0 -- 0-4,095; R304 (08); DESIGN CHOICE 0 log 4
  enabled : Bool := false -- 1 bit; R304 (08); DESIGN CHOICE 0 log 4
  countEn : Bool := false -- 1 bit; R304 (08); DESIGN CHOICE 0 log 4
  bc : Nat := 0 -- committed bucket; R298 (08); DESIGN CHOICE 0 log 4
  be : Nat := 0 -- excess or peak bucket; R298 (08); DESIGN CHOICE 0 log 4
  at_ : Nat := 0 -- tick of the last refill; R298 (08); 0
  lost : Bool := false -- its word is uncorrectable; R337 (08); no
deriving DecidableEq, Repr

/-- Set and weight of a traffic class (R328, R382), and its tags where it is a node of the dispatch tree. -/
structure ClassNode where
  set : Nat := 2 -- 0-2; R330 (08); weighted
  weight : Nat := 1 -- 1-4,096; R330 (08); 1
  sTag : Nat := 0 -- 40 bits; R312 (08); DESIGN CHOICE 0 log 4
  fTag : Nat := 0 -- 40 bits; R312 (08); DESIGN CHOICE 0 log 4
  elig : Bool := false -- was eligible at the last look; R314 (08); no
  v : Nat := 0 -- virtual time of its VOQs; R312 (08); DESIGN CHOICE 0 log 4
  maxF : Nat := 0 -- largest finish tag of its VOQs; R315 (08); DESIGN CHOICE 0 log 4
deriving DecidableEq, Repr

/-- What a sample set has seen of one queue in the open window (Table 08-4). -/
structure QStat where
  maxLen : Nat := 0
  maxDelay : Nat := 0
  released : Nat := 0
  dropped : Nat := 0
deriving DecidableEq, Repr

/-- The sample of one queue at the end of a window (R334). -/
structure QSample where
  stat : QStat := {}
  len : Nat := 0
  spilling : Bool := false
deriving DecidableEq, Repr

/-- A window that has ended and whose samples are still to be written: its start, the queues that it saw, and whether its samples
carry the skipped flag. -/
structure EndedWindow where
  start : T32
  rows : Tbl QSample
  skipped : Bool
deriving DecidableEq, Repr

/-- A queue sample set (R331). -/
structure SampleSet where
  enable : Bool := false -- 1 bit; Table 08-6 (08); DESIGN CHOICE 0 log 4
  first : Nat := 0 -- queue; Table 08-6 (08); DESIGN CHOICE 0 log 4
  count : Nat := 0 -- queues; Table 08-6 (08); DESIGN CHOICE 0 log 4
  intervalUs : Nat := 0 -- us; R331 (08); DESIGN CHOICE 0 log 4
  start : T32 := 0 -- start of the open window; R331 (08); DESIGN CHOICE 0 log 4
  begun : Bool := false -- its first window has begun; R331 (08); no
  stats : Tbl QStat := [] -- per queue, of the open window; Table 08-4 (08); 0
  skipped : Bool := false -- the next samples carry the skipped flag; R336 R509 (08, 13); no
  ended : Option EndedWindow := none -- window to be written; R334 R336 (08); none
deriving DecidableEq, Repr

structure SchedSt where
  nodes : Tbl Node := [] -- by node identifier; Table 08-2 (08); R307 reset values
  lens : Tbl LenProf := [] -- 64 length profiles; Table 08-7 (08); +20, 84
  siteMap : Tbl Nat := [] -- site by encapsulation, listed when valid; R308 (08); DESIGN CHOICE invalid log 4
  rootV : List Nat := [0, 0, 0] -- virtual times of the dispatch root; R312 R327 (08); DESIGN CHOICE 0 log 4
  rootMaxF : List Nat := [0, 0, 0] -- largest finish tags of the root's sets; R315 (08); DESIGN CHOICE 0 log 4
  classes : Tbl ClassNode := [] -- 8 traffic classes; R328 R330 (08); weighted, weight 1
  maps : Tbl QosMap := [] -- 16 QoS maps; R294 (08); class 0, green
  polProfs : Tbl PolProf := [] -- 4,096; Table 08-1 (08); all zero
  policers : Tbl Policer := [] -- 1,048,576; R295 (08)
  samples : Tbl SampleSet := [] -- 16 sets; R331 (08)
deriving DecidableEq, Repr

/-! ### Buffer pools (09_buffer_pools.md) -/

/-- A pool buffer with its control record (Table 09-3). -/
structure PoolBuf where
  gen : Nat := 0 -- 8 bits; Table 09-3 (09); 0
  charge : Nat := 0 -- channel 0-63; Table 09-3 (09); 0
  owners : List Nat := [] -- at most 8, 20 bits; Table 09-3 (09); none
  state : Nat := 0 -- 0 free, 1 allocated, 2 lost; Table 09-3 (09); 0
  data : Bytes := [] -- content; R343 (09); none
  dmaDone : Option Nat := none -- tick at which the DMA of a retained frame ended; R358 (09); none
  lost : Bool := false -- a data word is uncorrectable; R365 (09); no
  retainMs : Nat := 1000 -- retain_ms when it was allocated; R349 R358 (09); 1,000
deriving DecidableEq, Repr

/-- Pool settings and charges of a channel (R348, Table 09-7). -/
structure ChanPool where
  privileged : Bool := false -- 1 bit; R350 (09); 0 (CH0-CH3 always 1, R344)
  strict : Bool := false -- 1 bit; R350 (09); 0
  strictNow : Bool := false -- strict, as it was at the last allocation; R349 (09); 0
  retain : Bool := false -- 1 bit; R350 (09); 0
  upsize : Nat := 1 -- 0-4; R350 (09); 1
  retainMs : Nat := 1000 -- R350 (09); 1,000
  mins : List Nat := [0, 0, 0, 0, 0] -- R350 (09); 0
  maxs : List Nat := [32768, 32768, 32768, 32768, 32768] -- R350 (09); 32,768
  charged : List Nat := [0, 0, 0, 0, 0] -- R345 (09); 0
  high : Nat := 0 -- highest total charge since the last read; Table 09-8 (09); 0
deriving DecidableEq, Repr

structure PoolSt where
  pages : List Nat := [32, 32, 24, 24, 16] -- pages of pools 0-4; Table 09-1 (09); reset pages
  bufs : Tbl PoolBuf := [] -- by 65,536 x pool + index; Table 09-3 (09); free
  chans : Tbl ChanPool := [] -- CH0-CH63; R344 R350 (09)
  low : Tbl Nat := [] -- lowest free count since the last read, by pool; Table 09-8 (09); the pool's buffers
  lowRaised : List Nat := [] -- pools whose event 0x0883 is raised; Table 09-9 (09); none
deriving DecidableEq, Repr

/-! ### Fabric (10_fabric.md) -/

/-- A fabric lane (R368-R372). -/
structure Lane where
  trained : Bool := false -- R369 R371 (10); DESIGN CHOICE not trained log 4
  lock : Bool := false -- R368 (10); DESIGN CHOICE out of lock log 4
  removed : Bool := false -- by failure; R370 (10); no
  adminOut : Bool := false -- FABRIC_LANE_ADMIN; R372 (10); no
  attempts : Nat := 0 -- failed attempts; R371 (10); 0
  retryAt : Option Nat := none -- tick at which the failed sequence ended; R371 (10); none
  trainAt : Option Nat := none -- tick at which the running attempt began; R371 (10); none (the first attempt since reset)
  lockLost : Nat := 0 -- tick at which lock was lost; R370 (10); 0
  goodRun : Nat := 0 -- consecutive cells with a right hcrc; R368 (10); 0
  badRun : Nat := 0 -- consecutive cells with a wrong hcrc; R368 (10); 0
  fecTimes : List Nat := [] -- ticks of the uncorrectable codewords of the last 10 ms; R370 (10); none
  words : List Nat := [] -- uncorrectable codewords counted last; R370 (10); none
  ctrlSlot : Option Nat := none -- cell slot of the last control cell sent; R425 (10); none
deriving DecidableEq, Repr

/-- A peer on one plane (R407-R422). -/
structure PeerPlane where
  hbSeq : Nat := 0 -- 32 bits; Table 10-6 (10); DESIGN CHOICE 0 log 4
  lastTick : Option Nat := none -- tick of the last heartbeat; R409 (10); none
  lastT32 : T32 := 0 -- 32 bits; Table 10-14 (10); 0
  heard : Bool := false -- R409 (10); no
  reported : Bool := false -- the peer's last heartbeat reports it hears us here; R410 (10); no
  usable : Bool := false -- R410 (10); no
  usableAt : Nat := 0 -- tick since which it is usable; R416 (10); 0
  hsId : Nat := 0 -- last handshake sent; Table 10-7 (10); DESIGN CHOICE 0 log 4
  waitAck : Bool := false -- RESYNC sent, no acknowledgement; R419 (10); no
  resends : Nat := 0 -- R419 (10); 0
  sentAt : Nat := 0 -- tick of the last RESYNC or of giving up; R419 (10); 0
  failed : Bool := false -- ten resends went unanswered; R419 (10); no
  protecting : Bool := false -- R418 complete; R418 (10); no
  wasDown : Bool := false -- has gone down since start; R421 (10); no
  restored : Bool := true -- carries unprotected traffic; R421 R422 (10); DESIGN CHOICE yes log 12
  rxHs : Option Nat := none -- last hs_id received; R417 (10); none
deriving DecidableEq, Repr

/-- A device in the peer table or heard (R407, R415). -/
structure Peer where
  present : Bool := false -- in the peer table; R407 (10); own FDI only
  byManager : Bool := false -- added by the manager; R583 (15); no
  a : PeerPlane := {} -- plane A; R410 (10)
  b : PeerPlane := {} -- plane B; R410 (10)
  mode : Nat := 255 -- mode of the last heartbeat; Table 10-14 (10); 0xFF
  epoch : Nat := 0 -- mode_epoch of the last heartbeat; Table 10-14 (10); DESIGN CHOICE 0 log 4
  flags : Nat := 0 -- flags of the last heartbeat; Table 10-6 (10); DESIGN CHOICE 0 log 4
  resetAcked : Bool := false -- has acknowledged a RESYNC with reset set; R420 (10); no
  unreachable : Bool := false -- event 0x0984 raised; R414 (10); no
deriving DecidableEq, Repr

/-- Resequencing of one (source, plane, link group) (R393, R394). -/
structure Reseq where
  next : Nat := 0 -- 16 bits; R393 (10); DESIGN CHOICE first cell received log 12
  started : Bool := false -- a cell has arrived; R393 (10); no
  waiting : List (Nat × Cell) := [] -- later cells, each with its tick of arrival; R394 (10); none
deriving DecidableEq, Repr

/-- A reassembly context (R393): the open packet's bytes, its reservation, and how it ends. -/
structure Ctx where
  bytes : Bytes := [] -- bytes of the open packet; R374 (10); none
  open_ : Bool := false -- R375 (10); no
  cells : Nat := 0 -- reserved cells; R273 (07); 0
  discard : Bool := false -- dropping the packet (no reservation); R273 (07); no
  last : Nat := 0 -- tick of the last cell; R395 (10); 0
  early : Bool := false -- R397 (10); no
  pseq : Nat := 0 -- R401 (10); 0
  lgroup : Nat := 0 -- link group of its cells; R393 (10); DESIGN CHOICE 0 log 4
  gap : Bool := false -- cseqs were given up while it was open; R394 (10); no
deriving DecidableEq, Repr

/-- A packet that has left its reassembly context. -/
structure Done where
  src : Nat
  plane : Nat
  stream : Nat
  pseq : Nat
  prot : Bool
  bytes : Bytes
  cells : Nat
deriving DecidableEq, Repr

/-- An eliminator window (R402). -/
structure Window where
  h : Nat -- 24 bits; R402 (10)
  seen : List Nat -- sequences of the bitmap that are set; R402 (10)
  last : Nat -- tick of the last accepted copy; R405 (10)
deriving DecidableEq, Repr

/-- Protection of a traffic class (R400). -/
structure ProtClass where
  prot : Bool := false -- R400 (10); DESIGN CHOICE not protected log 4
  base : Nat := 0 -- 0-15; R400 (10); DESIGN CHOICE 0 log 4
  count : Nat := 1 -- 1, 2, 4, 8; R400 (10); DESIGN CHOICE 1 log 4
deriving DecidableEq, Repr

/-- The credit generator of a local port (R382, R383). -/
structure Credit where
  ratio : Nat := 105 -- percent; R382 (10); 105
  stop : Nat := 8192 -- cells; R383 (10); 8,192
  classes : Tbl ClassNode := [] -- set and weight per class; R382 (10); DESIGN CHOICE weighted, 1 log 4
  v : List Nat := [0, 0, 0] -- virtual times; R382 R312 (10, 08); DESIGN CHOICE 0 log 4
  maxF : List Nat := [0, 0, 0] -- R315 (08); DESIGN CHOICE 0 log 4
  budgetAt : Nat := 0 -- instant to which units are earned, in 1/1,000 tick; R382 (10); 0
  tags : Tbl (Nat × Nat) := [] -- start and finish tags by 524,288 x source + VOQ; R312 (08); none
  active : Tbl Nat := [] -- tick of the last active request, by the same key; R381 (10); none
deriving DecidableEq, Repr

/-- A grant batch being formed for one source (R384). -/
structure Grants where
  entries : List (Nat × Nat)
  since : Nat
deriving DecidableEq, Repr

/-- A control message being received (R424). -/
structure CtrlRx where
  frags : Tbl Bytes
  count : Nat
  since : Nat
deriving DecidableEq, Repr

structure FabSt where
  fdi : Nat := 0 -- 8 bits; R547 (14); 0
  early : Bool := true -- 1 bit; Table 10-11 (10); 1
  reseqUs : Nat := 4 -- Table 10-11 (10); 4
  reasmUs : Nat := 100 -- Table 10-11 (10); 100
  windowMs : Nat := 10 -- Table 10-11 (10); 10
  upHoldMs : Nat := 1 -- Table 10-11 (10); 1
  keepUs : Nat := 50 -- Table 10-11 (10); 50
  keepUnits : Nat := 1 -- Table 10-11 (10); 1
  planesDown : List Nat := [] -- planes set down by PLANE_ADMIN; R410 (10); none
  lanes : Tbl Lane := [] -- FL0-FL127; R369 (10)
  peers : Tbl Peer := [(0, { present := true })] -- FDI 0-255; R407 (10); the own FDI
  hbAt : Nat := 0 -- tick of the last heartbeat round; R407 (10); 0
  cseq : Tbl Nat := [] -- next cseq by (destination, plane, group); R392 (10); DESIGN CHOICE 0 log 4
  ctxLast : Tbl Nat := [] -- cseq of the newest cell sent in each reassembly context of a destination; R376 (10); none
  stripe : Tbl Nat := [] -- next live lane of data cells by (plane, group); R392 (10); DESIGN CHOICE 0 log 4
  stripeC : Tbl Nat := [] -- next live lane of other cells by (plane, group); R379 (10); DESIGN CHOICE 0 log 4
  laneQ : Tbl (List Cell) := [] -- cells built that wait for their lane, in the order of R379; R379 (10); none
  reqs : List (Nat × Bool) := [] -- pending credit requests, oldest first: VOQ, active; R330 R380 (08, 10); none
  reqV : List Nat := [0, 0, 0] -- virtual times of the sets of classes in request order; R330 (08); DESIGN CHOICE 0 log 4
  reqF : Tbl Nat := [] -- finish tags of the classes in request order; R330 (08); DESIGN CHOICE 0 log 4
  hbGroup : Tbl Nat := [] -- next link group of heartbeats by (peer, plane); R407 (10); DESIGN CHOICE 0 log 4
  pseq : Tbl Nat := [] -- next pseq by 16 x destination + stream; R401 (10); 0
  hsSeq : Nat := 0 -- next handshake identifier; Table 10-7 (10); DESIGN CHOICE 0 log 4
  reseq : Tbl Reseq := [] -- by (source, plane, group); R393 (10)
  ctxs : Tbl Ctx := [] -- by context key; R393 (10)
  copies : List Done := [] -- protected copies whose last cell has arrived; R403 (10); none
  done : List Done := [] -- reassembled packets; R273 (07); none
  windows : Tbl Window := [] -- by 16 x source + stream, listed when valid; R402 (10); invalid
  fences : Tbl Nat := [] -- by (source, stream, plane), listed when valid; R403 (10); invalid
  prot : Tbl ProtClass := [] -- 8 traffic classes; R400 (10)
  credits : Tbl Credit := [] -- ports 0-95 and 127; R382 (10)
  grants : Tbl Grants := [] -- by source; R384 (10); none
  ctrlRx : Tbl CtrlRx := [] -- by 65,536 x source + msg_id; R424 (10); none
  ctrlSeq : Nat := 0 -- msg_id; Table 10-8 (10); DESIGN CHOICE 0 log 4
  cells : List (Nat × Cell) := [] -- cells sent: lane and cell, oldest first; R369 (10); none
  sending : Tbl Nat := [] -- planes carrying the packet in hand, by VOQ; R398 R412 (10); none
deriving DecidableEq, Repr

/-! ### Egress editing (11_egress_editing.md) -/

/-- An encapsulation object (Table 11-6). -/
structure Encap where
  valid : Bool := false -- 1 bit; Table 11-6 (11); 0
  program : Nat := 0 -- 10 bits; Table 11-6 (11); 0
  next : Option Nat := none -- 18 bits and next_valid; Table 11-6 (11); 0
  countEn : Bool := false -- 1 bit; Table 11-6 (11); 0
  data : Bytes := [] -- data_len bytes; Table 11-6 (11); none
deriving DecidableEq, Repr

/-- A member entry (Table 11-2). -/
structure McMember where
  port : Nat
  encap : Option Nat
deriving DecidableEq, Repr

/-- A multicast group record and its block (Table 11-1). -/
structure McGroup where
  map : Nat := 0 -- 256 bits device_map; Table 11-1 (11); 0
  base : Nat := 0 -- first pool entry; Table 11-1 (11); 0
  members : List McMember := [] -- member_count entries; Table 11-1 (11); none
  deletedAt : Option Nat := none -- deleted: the last epoch of its retirement interval; R434 (11); none
deriving DecidableEq, Repr

structure EditSt where
  programs : Tbl (List (BitVec 32)) := [] -- programs 1-1,023 that have been written; R443 R450 (11); none
  encaps : Tbl Encap := [] -- 262,144; Table 11-6 (11); invalid
  groups : Tbl McGroup := [] -- 65,536; Table 11-1 (11); deleted
  oldBlocks : List (Nat × Nat × Nat) := [] -- old member blocks not yet freed: group, base, count; R433 (11); none
  mcastRate : Nat := 1600 -- Gb/s; R429 (11); 1,600
  sparesLeft : List Nat := [96, 97, 98, 99] -- spare edit engines; R435 (11); E96-E99
  engineOf : Tbl Nat := [] -- spare that serves a lane; R438 (11); none
  rr : Tbl Nat := [] -- next engine turn of a port; R435 (11); DESIGN CHOICE 0 log 4
  poison : List (Nat × Nat) := [] -- kind and index of storage lost; R453 (11); none
  dead : List Nat := [] -- engines retired; R438 (11); none
  pktSeq : Tbl Nat := [] -- packet sequence of each engine, 25 bits; Table 18-4 (18); DESIGN CHOICE 0 log 4
deriving DecidableEq, Repr

/-! ### Packet memory (12_packet_memory.md) -/

/-- A pseudo-channel (Table 12-6). -/
structure Pc where
  state : Nat := 0 -- 2 bits; Table 12-6 (12); 0 in service
  withheld : List (Nat × Nat) := [] -- bank and row; R496 (12); none
  cause : Nat := 0 -- 3 bits; Table 12-6 (12); 0
  remapped : Option Nat := none -- pseudo-channel that holds its counter area; R491 (12); none
  area : List Nat := [] -- its spill slots that hold counter segments; R491 R496 (12); none
deriving DecidableEq, Repr

/-- A channel's training state (R483-R490). -/
structure HbmChan where
  evacAt : Option Nat := none -- tick at which evacuation began; R486 R488 (12); none
  retrain : Bool := false -- training follows the evacuation; R486 (12); no
  retire : Tbl Nat := [] -- pseudo-channels to retire after the evacuation, with their cause; R493 R497 (12); none
  training : Option Bool := none -- training, true when planned; R486 R489 (12); none
  trainAt : Nat := 0 -- tick of the last training; R485 (12); 0
  trainTemp : Nat := 0 -- temperature at it; R485 (12); DESIGN CHOICE 0 log 4
  queued : Bool := false -- waits its turn for a planned retrain; R485 (12); no
  replay : Option Nat := none -- position in the retry buffer being replayed; R480 (12); none
  failed : Nat := 0 -- consecutive failed replays; R481 (12); 0
  retry : List Nat := [] -- retry buffer: numbers of the last 32 commands; R480 (12); none
  started : Bool := false -- trained at start; R483 (12); no
deriving DecidableEq, Repr

/-- A bank (R468-R470). -/
structure Bank where
  h : Nat := 1 -- 2 bits; R468 (12); 0b01
  lastRow : Nat := 0 -- row; R468 (12); DESIGN CHOICE 0 log 4
  openRow : Option Nat := none -- row left open; R468 (12); none
  owed : Nat := 0 -- refresh intervals postponed; R470 (12); 0
  repairs : List (Nat × Bool × Bool) := [] -- rows under repair, the first in hand: row, whether the memory has a spare, whether the error was correctable; R494 (12); none
deriving DecidableEq, Repr

/-- A request waiting in the controller (R461-R463). -/
structure HbmReq where
  id : Nat
  pc : Nat
  port : Nat
  bank : Nat
  row : Nat
  write : Bool
  at_ : Nat
  urgency : Nat := 0
  held : Bool := false
deriving DecidableEq, Repr

/-- A stack (R472-R475). -/
structure Stack where
  temp : Nat := 0 -- degrees C; Table 12-6 (12); DESIGN CHOICE 0 log 4
  selfRefresh : Bool := false -- 1 bit; Table 12-6 (12); 0
  closing : Bool := false -- its rows are closed, the entry command is not yet issued; R473 R474 (12); no
  entryAt : Nat := 0 -- tick of the entry command; R475 (12); 0
  exitAt : Option Nat := none -- tick of the exit command; R475 (12); none
  lastReq : Nat := 0 -- tick of the last request; R473 (12); 0
  hot : Bool := false -- event 0x0B87 raised; Table 12-8 (12); no
  halfRefresh : Bool := false -- refresh at half the interval; R469 (12); no
deriving DecidableEq, Repr

structure HbmSt where
  srIdleUs : Nat := 200 -- Table 12-5 (12); 200
  retrainS : Nat := 3600 -- Table 12-5 (12); 3,600
  evacGbps : Nat := 2000 -- Table 12-5 (12); 2,000
  evacMs : Nat := 1000 -- Table 12-5 (12); 1,000
  pcs : Tbl Pc := [] -- PC0-PC127; Table 12-6 (12)
  chans : Tbl HbmChan := [] -- 64 channels; R485 (12)
  banks : Tbl Bank := [] -- by 32 x PC + bank; R468 (12)
  stackRecs : Tbl Stack := [] -- HS0-HS3; R472 (12)
  reqs : List HbmReq := [] -- requests waiting, oldest first; R463 (12); none
  reqSeq : Nat := 0 -- number of the next request; model's own; 0
  served : List Nat := [] -- requests served, oldest first; R463 (12); none
  writeMode : List Nat := [] -- pseudo-channels whose bus is turned to writes; R466 (12); none
  segs : Tbl Nat := [] -- queue that holds each segment in use; R460 (12); none
  words : Tbl SegWord := [] -- control words of the segments written; R262 R456 (07, 12); none
  oldSegs : List Nat := [] -- old slots of relocated segments, not yet freed; R487 (12); none
  rot : Nat := 0 -- pseudo-channel of the next grant; R460 (12); DESIGN CHOICE 0 log 4
  pairs : Tbl (Nat × Nat) := [] -- counter pairs: packets, bytes; R213 R459 (05, 12); DESIGN CHOICE 0 log 4
  meters : Tbl (Nat × Nat) := [] -- rates of CP0, CP2, CP5 and of spilled segments: tick, what was left; R263 R465 (07, 12); full
  refreshed : List Nat := [] -- pseudo-channels whose next command slot a forced refresh takes; R463 R470 (12); none
  starve : Tbl Nat := [] -- slots of a pseudo-channel since its last counter access while counter requests wait; R464 (12); 0
  limited : Bool := false -- event 0x0B86 raised; R492 (12); no
deriving DecidableEq, Repr

/-! ### Hierarchy (15_device_hierarchy.md) -/

/-- A member as this device knows it. -/
structure Member where
  cl0 : Option Nat := none -- tick of the last heartbeat on CL0; R591 (15); none
  cl1 : Option Nat := none -- tick of the last heartbeat on CL1; R591 (15); none
  silent0 : Bool := true -- CL0 silent; R591 (15); yes
  silent1 : Bool := true -- CL1 silent; R591 (15); yes
  silentAt : Option Nat := none -- tick since which both paths are silent; R594 R597 (15); none
  role : Nat := 0 -- last role heard; Table 15-4 (15); 0
  mode : Nat := 0 -- last mode heard; Table 15-4 (15); 0
  epoch : Nat := 0 -- last mode epoch heard; Table 15-2 (15); 0
  uncertain : Bool := false -- mode uncertain; Table 15-4 (15); no
  priority : Option Nat := none -- manager priority, once it has been heard; R577 (15); none
  seen : List Nat := [] -- last 1,024 message numbers delivered; R588 (15); none
deriving DecidableEq, Repr

/-- A coordination message to send: type of Table 15-3, destination (none: all members), acknowledgement requested, body. -/
structure Msg where
  type : Nat
  dst : Option Nat
  ack : Bool
  body : Bytes
deriving DecidableEq, Repr

/-- A coordination message as sent (Table 15-2), on the path 0 CL0, 1 CL1 or 2 control cells. -/
structure SentMsg where
  path : Nat
  seq : Nat
  term : Nat
  epoch : Nat
  msg : Msg
  bytes : Bytes -- Ethernet frame without FCS, or message bytes in control cells; R586 Table 15-2 (15)
deriving DecidableEq, Repr

/-- A message sent with acknowledgement requested (R588). -/
structure Unacked where
  seq : Nat
  msg : Msg
  resends : Nat := 0
  at_ : Nat
deriving DecidableEq, Repr

/-- A command relayed to a worker (R604). -/
structure Relay where
  id : Nat
  fdi : Nat
  at_ : Nat
  dist : Option Nat := none
  /-- result bytes that have arrived -/
  data : Bytes := []
deriving DecidableEq, Repr

/-- A relayed command being received (R603). -/
structure RelayRx where
  entry : CmdEntry
  total : Nat
  data : Bytes
deriving DecidableEq, Repr

/-- HIER_DISTRIBUTE in progress (R605). -/
structure Dist where
  id : Nat
  members : Nat
  statuses : Tbl Nat
deriving DecidableEq, Repr

/-- A mode change at the manager (R607-R614). -/
structure Change where
  epoch : Nat
  mode : Nat
  t : T32
  members : Nat
  ready : List Nat := []
  decided : Option Bool := none
  at_ : Nat
  /-- HIER_MODE_CHANGE has completed (R614) -/
  completed : Bool := false
  lastResend : Nat := 0
deriving DecidableEq, Repr

/-- A mode change staged at a member (R608-R611). -/
structure Staged where
  epoch : Nat
  mode : Nat
  t : T32
  members : Nat
  committed : Bool := false
  uncertain : Bool := false
deriving DecidableEq, Repr

structure HierSt where
  member : Bool := false -- membership; R577 (15); DESIGN CHOICE standalone log 4
  systemId : Nat := 0 -- 16 bits; R577 (15); DESIGN CHOICE 0 log 4
  priority : Nat := 0 -- 8 bits; R577 (15); DESIGN CHOICE 0 log 4
  electionMs : Nat := 2000 -- Table 15-9 (15); 2,000
  coordMs : Nat := 5 -- Table 15-9 (15); 5
  takeoverMs : Nat := 50 -- Table 15-9 (15); 50
  leaveMs : Nat := 1000 -- Table 15-9 (15); 1,000
  relayS : Nat := 30 -- Table 15-9 (15); 30
  role : Nat := 0 -- 2 bits; Table 14-2 (14); 0
  term : Nat := 0 -- 32 bits, highest term accepted or own; R580 R600 (15); DESIGN CHOICE 0 log 4
  highTerm : Nat := 0 -- highest term heard; R580 R599 (15); 0
  manager : Option Nat := none -- FDI of the manager; R600 (15); none
  deputy : Option Nat := none -- FDI of the deputy; R584 (15); none
  depNamed : Option Nat := none -- worker named by HIER_DEPUTY_SET; R584 (15); none
  table : List Nat := [] -- FDIs of the member table; R583 (15); none
  members : Tbl Member := [] -- what is known of each FDI; R591 (15)
  linkUp : List Nat := [] -- coordination links that are up; R590 (15); none
  election : Option (Nat × Nat) := none -- tick of the open election window and its number; R579 R580 (15); none
  announced : Tbl Nat := [] -- priority of each FDI heard in ANNOUNCE; R580 (15); none
  announceAt : Nat := 0 -- tick of the last ANNOUNCE sent; R580 (15); 0
  rejectedAt : Option Nat := none -- tick of the last JOIN_REQUEST after a rejection; R582 (15); none
  msgSeq : Nat := 0 -- 32 bits; Table 15-2 (15); DESIGN CHOICE 0 log 4
  unacked : List Unacked := [] -- R588 (15); none
  queued : List Msg := [] -- messages that wait for the acknowledgement of an earlier one to their destination; R589 (15); none
  sent : List SentMsg := [] -- messages sent, oldest first; R588 (15); none
  hbAt : Nat := 0 -- tick of the last coordination heartbeat; R590 (15); 0
  relays : List Relay := [] -- R604 (15); none
  relaySeq : Nat := 0 -- next relay_id; Table 15-5 (15); DESIGN CHOICE 0 log 4
  relayRx : Tbl RelayRx := [] -- by relay_id; R603 (15); none
  dists : List Dist := [] -- R605 (15); none
  change : Option Change := none -- mode change open at the manager; R607 (15); none
  lastChange : Option (Nat × Nat) := none -- epoch and mode of the last committed change; R612 (15); none
  joining : Option Nat := none -- manager asked to join; R579 (15); none
  staged : Option Staged := none -- mode change staged here; R608 (15); none
  queryAt : Nat := 0 -- tick of the last MODE_QUERY; R611 (15); 0
  epoch : Nat := 0 -- 32 bits mode epoch; 15_device_hierarchy.md Mode changes; DESIGN CHOICE 0 log 4
  withheldAt : Nat := 0 -- tick of the last takeover check; R598 (15); 0
  offers : Tbl Bytes := [] -- devices offering Snowdrop recovery; R650 (16); none
  push : Option (Nat × Nat) := none -- FDI and next offset of FW_SNOWDROP_PUSH; R651 (16); none
  syncAt : Nat := 0 -- tick of the last time-sync exchange sent; R529 (13); 0
deriving DecidableEq, Repr

/-! ### Firmware (16_firmware.md) -/

/-- An image as the device holds it (Table 16-1): header fields, key, signature, the bytes it was read from. -/
structure Image where
  bytes : Bytes := []
deriving DecidableEq, Repr

/-- A boot record (Table 16-4). -/
structure BootRec where
  state : Nat := 0 -- image_state; Table 16-4 (16)
  attempts : Nat := 0 -- 0-2; Table 16-4 (16)
  retainedValid : Bool := false -- Table 16-4 (16)
  hostGate : Bool := false -- Table 16-4 (16)
  digest : Bytes := [] -- 32 bytes; Table 16-4 (16)
  version : Nat := 0 -- Table 16-4 (16)
  length : Nat := 0 -- Table 16-4 (16)
  svn : Nat := 0 -- Table 16-4 (16)
  lastFdi : Nat := 0 -- Table 16-4 (16)
  lastSystem : Nat := 0 -- Table 16-4 (16)
  windowS : Nat := 60 -- Table 16-4 (16); DESIGN CHOICE 60 log 10
  retDigest : Bytes := [] -- 32 bytes; Table 16-4 (16)
  retVersion : Nat := 0 -- Table 16-4 (16)
  retLength : Nat := 0 -- Table 16-4 (16)
  retSvn : Nat := 0 -- Table 16-4 (16)
deriving DecidableEq, Repr

/-- What a settings copy holds (R577, R642, R754): its schema and the settings the spec says it keeps. -/
structure Settings where
  schema : Nat := 0
  groups : Tbl Nat := []
  ports : Tbl (PortCfg × Bool × Bool) := []
  secys : Tbl SecY := []
  hier : List Nat := []
  role : Nat := 0
deriving DecidableEq, Repr

/-- One copy of the attestation log (R656): its entries of 32 bytes, in the order they were appended. -/
structure AttestLog where
  entries : List Bytes := []
deriving DecidableEq, Repr

/-- An activation or a restore in progress (R631-R634, R640). -/
structure Activation where
  /-- tick of step 1 of R631 -/
  at_ : Nat
  image : Image
  /-- tick at which the FE service cores started the image (R631 step 4, R639) -/
  startAt : Nat := 0
  prevMode : Nat
  /-- version that was running, or that failed -/
  oldVersion : Nat
  /-- none for FW_ACTIVATE; the cause of event 0x0F83 for a restore or after a start failure -/
  cause : Option Nat := none
  /-- the old image is being started again (R634) -/
  failed : Bool := false
  paused : Bool := false
deriving DecidableEq, Repr

structure FwSt where
  recA : Copy (Option BootRec) := { body := none } -- flash; Table 16-3 R623 (16); DESIGN CHOICE erased log 10
  recB : Copy (Option BootRec) := { body := none } -- flash; Table 16-3 R623 (16); DESIGN CHOICE erased log 10
  imageRegion : Image := {} -- flash; Table 16-3 (16); DESIGN CHOICE erased log 10
  retainedRegion : Image := {} -- flash; Table 16-3 (16); DESIGN CHOICE erased log 10
  setA : Copy Settings := { body := {} } -- flash; Table 16-3 (16); DESIGN CHOICE erased log 10
  setB : Copy Settings := { body := {} } -- flash; Table 16-3 (16); DESIGN CHOICE erased log 10
  setMine : Bool := false -- copy in use is B; R644 (16); no
  attA : Copy AttestLog := { body := {} } -- flash; R656 (16); DESIGN CHOICE erased log 10
  attB : Copy AttestLog := { body := {} } -- flash; R656 (16); DESIGN CHOICE erased log 10
  fuses : List (Bool × Bool) := List.replicate 64 (false, false) -- 64 steps of two fuse bits, efuse; R619 (16); DESIGN CHOICE unburned log 10
  staging : Image := {} -- 8 MiB staging area; R627 (16); empty
  stagedTotal : Nat := 0 -- announced total; R627 (16); 0
  verified : Bool := false -- R628 (16); no
  running : Image := {} -- image in service memory; R631 (16); none
  runs : Bool := false -- FE service cores execute an image and fetch commands; R631 R692 (16, 17); no
  pending : Bool := false -- pending_confirm; Table 14-2 (14); 0
  startTick : Nat := 0 -- tick at which the image started; R639 (16); 0
  hbSince : Nat := 0 -- tick since which every core's heartbeat has run; R638 (16); 0
  hostOk : Bool := false -- FW_CONFIRM received; R638 (16); no
  windowS : Nat := 60 -- confirm window of the pending start; R639 (16); DESIGN CHOICE 60 log 10
  hostGate : Bool := false -- host gate of the pending start; R638 (16); DESIGN CHOICE 0 log 10
  roleWanted : Nat := 0 -- hierarchy role recorded in the settings; R638 (16); DESIGN CHOICE 0 log 10
  settingsOk : Bool := false -- settings read or migrated; R638 (16); no
  defaults : Bool := false -- settings_defaults; Table 14-3 (14); 0
  act : Option Activation := none -- activation or restore in progress; R631 (16); none
  flashBusy : Bool := false -- flash update of an activation in progress; R629 R635 (16); no
  flashImage : Image := {} -- the image that update writes; R635 (16); none
  tokens : Nat := 12000000000 -- signature bucket, 1/750,000,000; R659 (16); DESIGN CHOICE full log 10
  tokensAt : Nat := 0 -- tick of its last refill; R659 (16); 0
  nextIndex : Option Nat := none -- next signature index; R655 (16); none
  lowIndex : Bool := false -- event 0x0F87 raised; R660 (16); no
  snowNext : Nat := 0 -- next offset of a Snowdrop transfer; R648 (16); 0
  snowTotal : Nat := 0 -- total of it; R648 (16); 0
  snowSender : Option Nat := none -- sender of the transfer over CL0; R651 (16); none
  snowAt : Nat := 0 -- tick of the last SNOWDROP_OFFER; R650 (16); 0
  snowDone : Option Nat := none -- path of a Snowdrop recovery (0 PCIe, 1 CL0), for event 0x0F86; Table 16-11 (16); none
  bootFail : List (Nat × Nat) := [] -- region and result code of failed verifications; R626 (16); none
  reverted : Option Nat := none -- cause of event 0x0F83 not yet raised; R626 (16); none
  failedVersion : Nat := 0 -- version that failed; Table 16-11 (16); 0
deriving DecidableEq, Repr

/-! ### Modes and repair (17_modes_and_repair.md) -/

/-- A repair map record (Table 17-7). -/
structure Repair where
  kind : Nat
  die : Nat
  cause : Nat
  flags : Nat := 0
  unit : Nat
  index : Nat
  hours : Nat
deriving DecidableEq, Repr

/-- Spares of one SRAM macro (R680): used rows and columns, and the row being replaced. -/
structure Macro where
  rows : Nat := 0
  cols : Nat := 0
  filling : Option Nat := none
  withheld : List Nat := []
deriving DecidableEq, Repr

structure ModeSt where
  mode : Nat := 2 -- 4 bits; Table 14-2 (14); 0x2
  prev : Nat := 0 -- 4 bits; Table 14-2 (14); 0x0
  changes : Nat := 0 -- 16 bits mode_changes; Table 14-2 (14); 0
  target : Nat := 255 -- Table 17-10 (17); 0xFF
  cause : Nat := 0 -- quarantine_cause; Table 17-10 (17); 0
  conds : Nat := 0 -- 12 bits; Table 17-3 (17); 0
  entered : T32 := 0 -- Table 17-10 (17); 0 (the time base stands still in Boot, log 3)
  tmDeputy : Bool := false -- Table 14-3 (14); 0
  gaveUp : Bool := false -- restarts given up; Table 17-10 (17); 0
  drainSaid : Bool := false -- event 0x1082 raised in this Drain; R670 (17); no
  held : Bool := false -- both dies held in reset by a fault; R725 R747 (19); no
  resetAt : Option Nat := none -- tick at which DEVICE_RESET was accepted; 17_modes_and_repair.md; none
  macros : Tbl Macro := [] -- 2,304 SRAM macros; R680 (17); no spare used
  repairs : List Repair := [] -- repair map in use; R684 (17); the committed copy
  uncommitted : Nat := 0 -- records not yet committed; R684 R686 (17); 0
  mapA : Copy (List Repair) := { body := [] } -- flash; R684 (17); DESIGN CHOICE erased log 10
  mapB : Copy (List Repair) := { body := [] } -- flash; R684 (17); DESIGN CHOICE erased log 10
  mapFailedAt : Option Nat := none -- tick of the last failed commit; R688 (17); none
  rateAlarm : Nat := 25 -- R683 (17); 25
  rateRaised : Bool := false -- event 0x1089 raised; R683 (17); no
  cores : Nat := 4 -- FE service cores in use; Table 17-6 (17); 4
  coreSpares : Nat := 1 -- FE spare cores left; Table 17-6 (17); 1
  coresDead : List Nat := [] -- FE cores retired; R692 R693 (17); none
  tmDead : List Nat := [] -- TM cores retired; R697 (17); none
  tmRestarts : Tbl (List Nat) := [] -- ticks of restarts by TM core; R697 (17); none
  restarts : List Nat := [] -- ticks of FE restarts in the window; R694 (17); none
  restartAt : Option Nat := none -- tick of the restart in progress; R694 (17); none
  lastFail : Nat := 0 -- last failure cause (event 0x108A); Table 17-12 (17); 0
  coreWords : List Nat := List.replicate 5 0 -- heartbeat words of the FE service cores; R690 (17); DESIGN CHOICE 0 log 4
  d2dLanes : Tbl Nat := [] -- redundant lanes used by 2 x module + direction; Table 17-6 (17); none
  d2dOut : List Nat := [] -- modules retired; R14 (01); none
  d2dReplays : Nat := 0 -- flits replayed; R13 (01); 0
deriving DecidableEq, Repr

/-! ### Counters and telemetry (18_counters.md) -/

/-- A performance counter (Table 18-1). -/
structure Perf where
  enable : Bool := false -- 1 bit; Table 18-1 (18); 0
  chain : Bool := false -- 1 bit; Table 18-1 (18); 0
  overflow : Bool := false -- 1 bit; Table 18-1 (18); 0
  unit : Nat := 0 -- 8 bits; Table 18-1 (18); 0
  inst : Nat := 0 -- 8 bits; Table 18-1 (18); 0
  event : Nat := 0 -- 8 bits; Table 18-1 (18); 0
  value : Nat := 0 -- 32 bits; R698 (18); DESIGN CHOICE 0 log 4
deriving DecidableEq, Repr

/-- The closed bank of a histogram, to be written as a record (R706). -/
structure HistBank where
  start : T32 := 0
  bins : Tbl Nat := []
  max : Nat := 0
  total : Nat := 0
  saturated : Bool := false
  skipped : Bool := false
deriving DecidableEq, Repr

/-- A latency histogram (R704-R706). -/
structure Hist where
  enable : Bool := false -- 1 bit; Table 18-8 (18); DESIGN CHOICE 0 log 4
  source : Nat := 0 -- Table 18-3 (18); DESIGN CHOICE 0 log 4
  shift : Nat := 0 -- 0-15; R704 (18); DESIGN CHOICE 0 log 4
  first : Nat := 0 -- queue or instance; Table 18-8 (18); DESIGN CHOICE 0 log 4
  count : Nat := 0 -- queues; Table 18-8 (18); DESIGN CHOICE 0 log 4
  intervalMs : Nat := 0 -- R705 (18); DESIGN CHOICE 0 log 4
  start : T32 := 0 -- start of the open window; R705 (18); DESIGN CHOICE 0 log 4
  begun : Bool := false -- its first window has begun; R705 (18); no
  bins : Tbl Nat := [] -- 32 bins of 32 bits; R704 (18); 0
  max : Nat := 0 -- Table 18-7 (18); 0
  total : Nat := 0 -- Table 18-7 (18); 0
  saturated : Bool := false -- R704 (18); no
  skipped : Bool := false -- Table 18-7 (18); no
  ended : Option HistBank := none -- second bank, to be written; R706 (18); none
  early : List (T32 × Nat) := [] -- stamps and values of windows not yet open; R705 (18); none
deriving DecidableEq, Repr

/-- A telemetry record: type, T32 and body (Table 18-6). -/
structure TelRec where
  type : Nat
  t32 : T32
  body : Bytes
deriving DecidableEq, Repr

/-- A staged PERF_CONTROL (R702). -/
structure PerfOp where
  op : Nat
  fe : Nat
  tm : Nat
  t : T32
deriving DecidableEq, Repr

structure TelSt where
  perf : Tbl Perf := [] -- by 256 x die + counter; R698 (18)
  perfOp : Option PerfOp := none -- R702 (18); none
  perfNext : List PerfOp := [] -- operations of the next tick; R702 (18); none
  hists : Tbl Hist := [] -- H0-H63; R704 (18)
  engines : Nat := 0 -- bitmap of engines sampled; R707 (18); DESIGN CHOICE 0 log 4
  feCores : Nat := 0 -- bitmap of FE cores sampled; R707 (18); DESIGN CHOICE 0 log 4
  tmCores : Nat := 0 -- bitmap of TM cores sampled; R707 (18); DESIGN CHOICE 0 log 4
  interval : Nat := 1 -- N; R707 (18); DESIGN CHOICE 1 log 4
  ran : Tbl Nat := [] -- instructions of each edit engine since its last sample; R707 (18); 0
  ring : List TelRec := [] -- sample ring, 4,096 records; R709 (18); none
  channel : Nat := 0 -- telemetry channel, 0 none; R710 (18); DESIGN CHOICE none log 4
  flushUs : Nat := 100 -- R711 (18); 100
  block : List TelRec := [] -- records of the open block, oldest first; R711 (18); none
  blockAt : Nat := 0 -- tick of its first record; R711 (18); 0
  blockSeq : Nat := 0 -- 32 bits; Table 18-5 (18); DESIGN CHOICE 0 log 4
  lost : Nat := 0 -- records lost since the last delivered block; R713 (18); 0
  blockBuf : Option Nat := none -- pool-2 buffer of the open block; R710 (18); none
deriving DecidableEq, Repr

/-! ### Package and aux block (19_package_power.md) -/

/-- A debounced, rate-limited input (Table 19-7). -/
structure Input where
  asserts : List Nat := [] -- ticks of the last events counted; Table 19-7 (19); none
  masked : Bool := false -- latched and masked; Table 19-7 (19); no
  low : Bool := false -- level after debounce is asserted; R733 (19); DESIGN CHOICE released log 4
  since : Nat := 0 -- tick of the last change; R733 R735 (19); 0
deriving DecidableEq, Repr

structure AuxSt where
  lastCause : Nat := 0 -- bits 31:28; Table 19-8 (19); 0
  rail : Nat := 0 -- bits 27:24; Table 19-8 (19); 0
  railAt : Nat := 0 -- tick of the rail fault that stands; R724 (19); 0
  pllTryAt : Option Nat := none -- tick of the last retry of the root PLL in Boot; R729 (19); none
  hb : Nat := 0 -- bits 23:16 aux_hb; Table 19-8 (19); 0
  vauxOk : Bool := false -- bit 13; Table 19-8 R718 (19); 0
  mainGood : Bool := false -- bit 12; Table 19-8 (19); 0
  pllLocked : Bool := false -- bit 11; Table 19-8 (19); 0
  resetStuck : Bool := false -- bit 10; Table 19-8 (19); 0
  recoveryStuck : Bool := false -- bit 9; Table 19-8 (19); 0
  latched : Nat := 0 -- bits 8:6 and 4:1; Table 19-8 (19); 0
  hbPin : Bool := false -- AUX_HB; R738 (19); DESIGN CHOICE low log 4
  hbPhase : Nat := 0 -- advances since the last toggle; R738 (19); 0
  hbAt : Nat := 0 -- tick of the last advance; R738 (19); 0
  tripN : Bool := true -- THERM_TRIP_N level; R726 (19); high
  alertThermN : Bool := true -- THERM_ALERT_N level; Table 19-5 (19); high
  vaux : Nat := 0 -- VAUX in mV; R718 (19); DESIGN CHOICE 0 log 4
  temps : Tbl Int := [] -- 40 sensors in degrees C, those that have been reported; Table 19-9 (19); free value log 20
  alarmC : Nat := 100 -- alarm threshold; Table 19-5 (19); 100
  alarm : Bool := false -- thermal_alarm; Table 14-3 (14); 0
  cold : Bool := false -- event 0x1284 raised; Table 19-5 (19); no
  sysReset : Input := {} -- SYS_RESET_N; Table 19-7 (19)
  perst : Input := {} -- PERST_N; Table 19-7 (19)
  alarms : Tbl Input := [] -- ALARM_IN[3:0]; Table 19-7 (19)
  alarmCfg : Tbl (Bool × Nat) := [] -- active level and debounce_ms; R737 (19); DESIGN CHOICE low, 10 ms log 4
  reported : Bool := false -- event 0x1285 decided after this Boot; R741 (19); no
  flResetN : Bool := false -- FL_RESET_N; R731 (19); low, just after entry into Boot
  flResetAt : Nat := 0 -- tick of the last entry into Boot; R731 (19); 0
  railsOut : Bool := false -- a rail fault stands until the rails are back; R725 (19); no
deriving DecidableEq, Repr

/-- The named counters of the chapters (Tables 02-7, 03-7, 04-12, 05-19, 06-8, 07-11, 08-9, 09-8, 10-13, 11-13, 12-7,
13-6, 14-18, 15-12, 17-11, 18-9): table, row position in the table counted from 0 name by name, and two indices. -/
structure CKey where
  table : Nat
  name : Nat
  i : Nat := 0
  j : Nat := 0
deriving DecidableEq, Repr

/-- Why the model stops: an event names a unit that the part does not have (a port above 95, a lane above 127). Raised by
the meaning of any row with such an operand. Safe: no such unit can act on the hardware. -/
inductive Fault where
  | noSuchUnit
deriving DecidableEq, Repr

/-- Why a command has no meaning. -/
inductive Refusal where
  /-- Raised by exec's arm of a row that has no meaning yet. Safe: nothing follows from it. -/
  | notModelled (mnemonic : String)
deriving DecidableEq, Repr

/-- The F9640: the queue of waiting commands and the state of each chapter. -/
structure State where
  pending : List Instr := [] -- commands waiting, first in first out; the model's own; empty
  time : TimeSt := {}
  hif : HifSt := {}
  port : PortsSt := {}
  sec : SecSt := {}
  parse : ParseSt := {}
  tbl : TablesSt := {}
  tcam : TcamSt := {}
  buf : BufSt := {}
  sched : SchedSt := {}
  pool : PoolSt := {}
  fab : FabSt := {}
  edit : EditSt := {}
  hbm : HbmSt := {}
  hier : HierSt := {}
  fw : FwSt := {}
  mode : ModeSt := {}
  tel : TelSt := {}
  aux : AuxSt := {}
  ctr : List (CKey × Nat) := [] -- named counters, 64 bits, wrapping; R99 R745 (02, 14); 0
deriving DecidableEq, Repr

/-- The machine right after a reset into Boot with every table erased: the queue is empty, the mode is Boot (Table 14-2). -/
def State.reset : State := {}

end Sys2Proof.Machine
end

