-- ==== Sys2Proof/Machine/Operands.lean ====
section
/-! DEFINITION. The operand forms: fields of a command payload (little-endian, R7), fields of a network header or a cell
(network byte order, R8), bit fields, and the bytes of a result. -/
namespace Sys2Proof.Machine
open Sys2Proof

/-- The value of the first `n` bytes, least significant first; bytes that are not there count as 0. -/
def leValue : Nat → Bytes → Nat
  | 0, _ => 0
  | _, [] => 0
  | n + 1, b :: r => b.toNat + 256 * leValue n r

/-- R7: a little-endian field of `n` bytes at an offset of a payload. -/
def le (b : Bytes) (off n : Nat) : Nat := leValue n (b.drop off)

/-- The value of bytes, most significant first. -/
def beValue (acc : Nat) : Bytes → Nat
  | [] => acc
  | b :: r => beValue (acc * 256 + b.toNat) r

/-- The bytes from an offset, `n` of them or as many as there are. -/
def slice (b : Bytes) (off n : Nat) : Bytes := (b.drop off).take n

/-- R8: a field of `n` bytes in network byte order. -/
def be (b : Bytes) (off n : Nat) : Nat := beValue 0 (slice b off n)

/-- One byte of a payload. -/
def byteAt (b : Bytes) (off : Nat) : Nat := le b off 1

/-- A value read as a signed number of `bits` bits. -/
def signed (bits v : Nat) : Int :=
  if v % 2 ^ bits < 2 ^ (bits - 1) then (v % 2 ^ bits : Nat) else ((v % 2 ^ bits : Nat) : Int) - (2 ^ bits : Nat)

/-- R7: a signed little-endian field. -/
def leS (b : Bytes) (off n : Nat) : Int := signed (8 * n) (le b off n)

/-- Bits hi:lo of a value. -/
def field (v hi lo : Nat) : Nat := v / 2 ^ lo % 2 ^ (hi + 1 - lo)

/-- One bit of a value. -/
def bit (v i : Nat) : Bool := v / 2 ^ i % 2 == 1

/-- A bit as a number. -/
def b2n (b : Bool) : Nat := if b then 1 else 0

/-- A value as `n` bytes, least significant first (R7). -/
def toLe : Nat → Nat → Bytes
  | 0, _ => []
  | n + 1, v => BitVec.ofNat 8 v :: toLe n (v / 256)

/-- A value as `n` bytes, most significant first (R8). -/
def toBe (n v : Nat) : Bytes := (toLe n v).reverse

/-- A signed value as `n` little-endian bytes. -/
def toLeS (n : Nat) (v : Int) : Bytes := toLe n (v % (2 ^ (8 * n) : Nat)).toNat

/-- `n` zero bytes: a reserved field of a result (R6). -/
def zeros (n : Nat) : Bytes := List.replicate n 0

/-- Bytes cut or padded with zeros to a length. -/
def padTo (n : Nat) (b : Bytes) : Bytes := b.take n ++ zeros (n - b.length)

/-- R749: a reserved field of `n` bytes at `off` is zero. -/
def rsv (b : Bytes) (off n : Nat) : Bool := le b off n == 0

/-- A flag byte has no bit set above its `n` defined ones (R749). -/
def flagsIn (b : Bytes) (off n : Nat) : Bool := byteAt b off < 2 ^ n

/-- A value lies in a range, its ends included. -/
def inRange (v lo hi : Nat) : Bool := lo ≤ v && v ≤ hi

/-- The set bits of a bitmap held in `n` little-endian bytes, ascending. -/
def bitmapOf (v n : Nat) : List Nat := (List.range (8 * n)).filter (bit v)

/-- A bitmap from the numbers it names. -/
def toBitmap (l : List Nat) : Nat := l.eraseDups.foldl (fun a i => a + 2 ^ i) 0

/-- Writes bytes over a string at an offset; bytes past the end are dropped. -/
def overwrite (b : Bytes) (off : Nat) (d : Bytes) : Bytes :=
  if b.length ≤ off then b else b.take off ++ d.take (b.length - off) ++ b.drop (off + d.length)

/-- Puts a value at a position of a list, where the list has that position. -/
def setAt {α : Type} : List α → Nat → α → List α
  | [], _, _ => []
  | _ :: r, 0, v => v :: r
  | a :: r, i + 1, v => a :: setAt r i v

/-- The elements of a list, numbered from `n`. -/
def numbered {α : Type} (n : Nat) : List α → List (Nat × α)
  | [] => []
  | a :: r => (n, a) :: numbered (n + 1) r

/-- R742: one byte into the CRC-16 register: polynomial 0x1021, most significant bit first. -/
def crcByte (r : BitVec 16) (b : Byte) : BitVec 16 :=
  (List.range 8).foldl (fun (x : BitVec 16) i =>
    let top := x.msb != b.getLsbD (7 - i)
    if top then (x <<< 1) ^^^ 0x1021#16 else x <<< 1) r

/-- R742: the CRC-16 of the cell header and of the coordination message header. -/
def crc16 (b : Bytes) : BitVec 16 := b.foldl crcByte 0xFFFF#16

/-- One byte into the CRC-32 register of the Ethernet FCS, reflected, polynomial 0x04C11DB7 (IEEE 802.3). -/
def crc32Byte (r : BitVec 32) (b : Byte) : BitVec 32 :=
  (List.range 8).foldl (fun (x : BitVec 32) i =>
    if x.getLsbD 0 != b.getLsbD i then (x >>> 1) ^^^ 0xEDB88320#32 else x >>> 1) r

/-- The CRC-32 of IEEE 802.3 as a number. -/
def crc32 (b : Bytes) : Nat := (~~~ (b.foldl crc32Byte 0xFFFFFFFF#32)).toNat

/-- The FCS of a frame in the order of its bytes on the wire (IEEE 802.3: the CRC's least significant byte first). -/
def fcsOf (b : Bytes) : Bytes := toLe 4 (crc32 b)

end Sys2Proof.Machine

namespace Sys2Proof
open Sys2Proof.Machine

/-- Table 15-2, R8: bytes 0-21 of a coordination message header. -/
def CoordHdr.bytes (h : CoordHdr) : Bytes :=
  toBe 1 h.version ++ toBe 1 h.type ++ toBe 2 h.systemId ++ toBe 1 h.src ++ toBe 1 h.dst ++ toBe 1 h.flags ++ zeros 1 ++
    toBe 4 h.term ++ toBe 4 h.msgSeq ++ toBe 4 h.epoch ++ toBe 2 h.length

/-- R586: the frame carries EtherType 0x88B5. -/
def CoordHdr.etherOk (h : CoordHdr) : Bool := h.etherType == 0x88B5

/-- R587: the header check is right. -/
def CoordHdr.checkOk (h : CoordHdr) : Bool := h.check == crc16 h.bytes

end Sys2Proof
end

