-- ==== Sys2Proof/Machine/Flags.lean ====
section
/-! DEFINITION. The status words, computed from the state: HIF_MODE_STATUS (Table 14-2), HIF_HEALTH (Table 14-3), the aux
status block (Table 19-8), the time status word (Table 13-2), and the conditions that follow from counts of units. -/
namespace Sys2Proof.Machine
open Sys2Proof

/-- R507: ticks of the time clock (750 MHz) in microseconds, milliseconds and seconds. -/
def us (n : Nat) : Nat := 750 * n
def ms (n : Nat) : Nat := 750000 * n
def secs (n : Nat) : Nat := 750000000 * n

/-- R10: the half-open window [start, start + len) has ended. -/
def State.ended (s : State) (start len : Nat) : Bool := start + len ≤ s.time.ticks

/-- The mode codes of Table 00-4. -/
abbrev mdStandby : Nat := 0
abbrev mdRecovery : Nat := 1
abbrev mdBoot : Nat := 2
abbrev mdConfigure : Nat := 3
abbrev mdBringUp : Nat := 4
abbrev mdForwarding : Nat := 5
abbrev mdParked : Nat := 6
abbrev mdDrain : Nat := 7
abbrev mdMaintenance : Nat := 8
abbrev mdActivation : Nat := 9
abbrev mdDegraded : Nat := 10
abbrev mdQuarantine : Nat := 11

/-- The mode whose rules the ports and the data plane follow: in Activation, the mode held before (R671). -/
def State.planeMode (s : State) : Nat :=
  if s.mode.mode == mdActivation then (s.fw.act.map (·.prevMode)).getD s.mode.prev else s.mode.mode

/-- Table 14-2 fw_running: HIF_FW_HEARTBEAT advanced within the last 100 ms. -/
def State.fwRunning (s : State) : Bool := s.hif.fwRunning && s.time.ticks < s.hif.hbTick + ms 100

/-- HIF_MODE_STATUS (Table 14-2). -/
def State.modeStatus (s : State) : Nat :=
  s.mode.changes % 65536 * 65536 + s.hier.role * 2048 + b2n (s.hier.role != 0) * 1024 + b2n s.fw.pending * 512 +
    b2n s.fwRunning * 256 + s.mode.prev * 16 + s.mode.mode

/-- HIF_HEALTH (Table 14-3). -/
def State.health (s : State) : Nat :=
  b2n s.fw.defaults * 2048 + b2n s.mode.tmDeputy * 1024 + b2n s.hif.fwHalted * 512 + b2n s.time.holdover * 256 +
    b2n s.aux.alarm * 128 + b2n (s.mode.mode == mdQuarantine) * 64 + b2n (s.mode.mode == mdDegraded) * 32 +
    s.hif.healthW1c % 16

/-- The latched bits of the status block: 8-6 and 4-1 (Table 19-8). -/
def auxLatchedMask : Nat := 0x1DE

/-- The aux status block (Table 19-8), which HIF_AUX_STATUS mirrors. -/
def State.auxStatus (s : State) : Nat :=
  s.aux.lastCause * 268435456 + s.aux.rail * 16777216 + s.aux.hb % 256 * 65536 + b2n s.aux.vauxOk * 8192 +
    b2n s.aux.mainGood * 4096 + b2n s.aux.pllLocked * 2048 + b2n s.aux.resetStuck * 1024 +
    b2n s.aux.recoveryStuck * 512 + s.aux.latched + b2n (!s.aux.alertThermN) * 32

/-- AUX_ALERT_N is low while any latched bit of the status block is set (R740). -/
def State.auxAlertN (s : State) : Bool := s.aux.latched == 0

/-- The time status word (Table 13-2). -/
def State.timeStatus (s : State) : Nat :=
  b2n s.time.ppsOutEn * 128 + b2n s.time.ppsInMasked * 64 + b2n s.time.ppsInLost * 32 + b2n s.time.step.isSome * 16 +
    b2n s.time.syncLost * 8 + b2n (s.hier.role == 0 || s.hier.role == 1) * 4 + b2n s.time.holdover * 2

/-- T32: bits 63:32 of the accumulator (R498). -/
def State.t32 (s : State) : T32 := s.time.acc.extractLsb' 32 32

/-- The modes in which the data plane forwards packets (Table 01-8): Bring-up, Forwarding, Parked, Maintenance, Degraded,
and Drain, which only transmits. -/
def State.dataPlaneOn (s : State) : Bool :=
  s.aux.pllLocked && (inRange s.planeMode mdBringUp mdMaintenance || s.planeMode == mdDegraded)

/-- The receive path of the ports is open (Table 01-8): the data plane is on and the mode is not Drain. -/
def State.ingressOn (s : State) : Bool := s.dataPlaneOn && s.planeMode != mdDrain

/-- A condition bit of Table 17-3. -/
def State.cond (s : State) (b : Nat) : Bool := bit s.mode.conds b

/-- Parser and lookup pipelines in service: 17 built, 16 used (R160, R163, Table 17-6). -/
def State.parsersIn (s : State) : Nat := min 16 (17 - s.parse.pipesOut.length)
/-- The pipelines in service: the spare, number 16, is brought in for the first one that is retired (R160, R163). -/
def pipesIn (out : List Nat) : List Nat := (List.range (if out.isEmpty then 16 else 17)).filter (fun p => !out.contains p)

def State.lookupsIn (s : State) : Nat := min 16 (17 - s.tbl.pipesOut.length)

/-- A lane is live when it has trained, holds lock and has not been removed (R369, R372). -/
def Lane.live (l : Lane) : Bool := l.trained && l.lock && !l.removed && !l.adminOut

def State.lane (s : State) (l : Nat) : Lane := s.fab.lanes.getD l {}

/-- The live lanes of a link group of a plane (Table 10-1, R369). -/
def State.liveLanes (s : State) (plane g : Nat) : List Nat :=
  ((List.range 8).map (fun i => 64 * plane + 8 * g + i)).filter (fun l => (s.lane l).live)

def State.peer (s : State) (f : Nat) : Peer := s.fab.peers.getD f {}
def Peer.plane (p : Peer) (k : Nat) : PeerPlane := if k == 0 then p.a else p.b
def Peer.setPlane (p : Peer) (k : Nat) (q : PeerPlane) : Peer := if k == 0 then { p with a := q } else { p with b := q }

/-- The FDI is in the peer table (R407, R415). -/
def State.isPeer (s : State) (f : Nat) : Bool := (s.peer f).present

/-- Plane `k` is usable toward peer `f` (R410). -/
def State.usable (s : State) (f k : Nat) : Bool := ((s.peer f).plane k).usable

/-- The device hears the peer on either plane: the fabric path to it is not silent (R409, R592). -/
def State.fabricHeard (s : State) (f : Nat) : Bool := (s.peer f).a.heard || (s.peer f).b.heard

/-- The manager or a standalone device; and a worker or deputy (Table 15-1). -/
def State.isManager (s : State) : Bool := s.hier.role == 1
def State.isWorker (s : State) : Bool := s.hier.role == 2 || s.hier.role == 3

/-- Commands are served by FE firmware that fetches, or by the TM die service cores once restarts were given up (R695):
not in Standby, Recovery and Boot (Table 17-2), not in the pause of an activation (R631), not without the root PLL (R674). -/
def State.serving (s : State) : Bool :=
  s.aux.pllLocked && !(s.mode.mode == mdStandby || s.mode.mode == mdRecovery || s.mode.mode == mdBoot) &&
    ((s.fw.runs && !((s.fw.act.map (·.paused)).getD false)) || (s.mode.gaveUp && s.mode.tmDead.length < 2))

/-- FE firmware itself runs: it handles coordination messages, modules and the ledger. -/
def State.fwRuns (s : State) : Bool := s.fw.runs && s.aux.pllLocked

end Sys2Proof.Machine
end

