-- ==== Sys2Proof/Machine/Images.lean ====
section
/-! DEFINITION. The header of a firmware image (Table 16-1) and its verification (R617). -/
namespace Sys2Proof.Machine
open Sys2Proof

def Image.magic (i : Image) : Nat := le i.bytes 0 4
def Image.headerVersion (i : Image) : Nat := le i.bytes 4 2
def Image.deviceCode (i : Image) : Nat := le i.bytes 6 2
def Image.minRevision (i : Image) : Nat := byteAt i.bytes 8
def Image.svn (i : Image) : Nat := byteAt i.bytes 9
def Image.version (i : Image) : Nat := le i.bytes 12 4
def Image.bodyLength (i : Image) : Nat := le i.bytes 16 4
def Image.entry (i : Image) : Nat := le i.bytes 20 4
def Image.bodyDigest (i : Image) : Bytes := slice i.bytes 24 32
def Image.schema (i : Image) : Nat := le i.bytes 56 4
def Image.schemaMin (i : Image) : Nat := le i.bytes 60 4
def Image.vendorKey (i : Image) : Bytes := slice i.bytes 64 60
def Image.signature (i : Image) : Bytes := slice i.bytes 128 3284

/-- The image without what lies after its body (R615). -/
def Image.cut (i : Image) : Image := { bytes := i.bytes.take (4096 + i.bodyLength) }

/-- R615: the image digest is the SHA-256 of header and body. -/
def Image.digest (i : Image) : Bytes := Config.sha256 i.cut.bytes

/-- R617: the first code of the procedure; 0x02 for a good image. -/
def Image.verify (i : Image) (floor : Nat) : Nat :=
  if i.magic != 0x96401F0D || i.headerVersion != 1 then 0x10
  else if i.deviceCode != 0x9640 || 0xB1 < i.minRevision then 0x11
  else if i.bodyLength < 1 || 8384512 < i.bodyLength || i.bodyLength ≤ i.entry then 0x12
  else if Config.sha256 i.vendorKey != Config.vendorKeyHash then 0x13
  else if !Config.hssVerify i.vendorKey (i.bytes.take 128) i.signature then 0x14
  else if i.svn < Nat.max 1 floor || 64 < i.svn then 0x15
  else if Config.sha256 (slice i.bytes 4096 i.bodyLength) != i.bodyDigest then 0x16
  else 0x02

/-- R619: a step of the security-version floor is burned when either of its two fuse bits reads 1; the floor is their number. -/
def FwSt.floor (f : FwSt) : Nat := (f.fuses.filter (fun x => x.1 || x.2)).length

/-- R619, R620: burns steps in ascending order until the floor equals `n`, both bits of each. -/
def FwSt.burn (f : FwSt) (n : Nat) : FwSt :=
  { f with fuses := f.fuses.mapIdx (fun i x => if i < n && !(x.1 || x.2) then (true, true) else x) }

end Sys2Proof.Machine
end

