-- ==== Sys2Proof/Machine/Ops.lean ====
section
/-! DEFINITION. The shared operations: counters, MSI-X messages, fabric cells, coordination messages, event records,
and the serving of a mailbox command from its header checks to its completion. -/
namespace Sys2Proof.Machine
open Sys2Proof

/-- The three outcomes of a step of this machine. -/
abbrev Out := Host.Outcome State Fault Refusal

/-! ### Storage addressed by byte (the Snowdrop window and the MSI-X table of BAR0, Table 14-1) -/

/-- The byte at an address; an unlisted address reads 0. -/
def memRead (m : List Host.Cell) (a : Nat) : Byte := Tbl.getD m a 0

/-- Writes a byte; writing what an unlisted address reads as removes the entry. -/
def memWrite (m : List Host.Cell) (a : Nat) (v : Byte) : List Host.Cell :=
  if v == 0 then Tbl.del m a else Tbl.set m a v

/-- Writes bytes at rising addresses. -/
def memWrites (m : List Host.Cell) (a : Nat) : Bytes → List Host.Cell
  | [] => m
  | b :: r => memWrites (memWrite m a b) (a + 1) r

/-- Canonical form: addresses strictly rising, no entry that equals what an unlisted address reads as. -/
def Memory.wf (m : List Host.Cell) : Bool := Tbl.wf m && m.all (fun e => e.2 != 0)

/-! ### Counters (R99, R745) -/

/-- The value of a named counter. -/
def ctrGet : List (CKey × Nat) → CKey → Nat
  | [], _ => 0
  | (k, v) :: r, i => if k = i then v else ctrGet r i

/-- Adds to a counter, which wraps at 64 bits. -/
def ctrAdd : List (CKey × Nat) → CKey → Nat → List (CKey × Nat)
  | [], i, n => [(i, n % 18446744073709551616)]
  | (k, v) :: r, i, n => if k = i then (k, (v + n) % 18446744073709551616) :: r else (k, v) :: ctrAdd r i n

/-- Counts `n` under a named counter: its table, its position in the table and its indices. -/
def State.count (s : State) (table name i j n : Nat) : State :=
  { s with ctr := ctrAdd s.ctr ⟨table, name, i, j⟩ n }

/-- Counts one. -/
def State.bump (s : State) (table name : Nat) (i : Nat := 0) (j : Nat := 0) : State := s.count table name i j 1

def State.ctrVal (s : State) (table name : Nat) (i : Nat := 0) (j : Nat := 0) : Nat := ctrGet s.ctr ⟨table, name, i, j⟩

/-- The values of one name of a counter table over its indices, the last index fastest (R745). -/
def snapName (val : Nat → Nat → Nat) (ni nj : Nat) : Bytes :=
  (List.range ni).flatMap (fun i => (List.range nj).flatMap (fun j => toLe 8 (val i j)))

/-- R745: a counter table as one snapshot. `dims` gives for each name in order the numbers of values of its indices;
`current` gives the value of a name that is a current total, a watermark or a lowest count. -/
def State.snapFrom (s : State) (table : Nat) (current : Nat → Nat → Nat → Option Nat) : Nat → List (Nat × Nat) → Bytes
  | _, [] => []
  | n, (ni, nj) :: r =>
    snapName (fun i j => (current n i j).getD (s.ctrVal table n i j)) ni nj ++ s.snapFrom table current (n + 1) r

/-- The size of a snapshot in bytes. -/
def snapSize (dims : List (Nat × Nat)) : Nat := 8 * (dims.map (fun d => d.1 * d.2)).sum

def State.snap (s : State) (table : Nat) (dims : List (Nat × Nat))
    (current : Nat → Nat → Nat → Option Nat := fun _ _ _ => none) : Bytes := s.snapFrom table current 0 dims

/-! ### MSI-X (R557-R559) -/

def State.vec (s : State) (v : Nat) : Vec := s.hif.vecs.getD v {}
def State.setVec (s : State) (v : Nat) (x : Vec) : State := { s with hif.vecs := s.hif.vecs.set v x }

/-- What a byte of the Snowdrop window and the MSI-X table holds at reset: the mask bit of each vector is 1, as PCIe
defines (log 4), everything else 0. -/
def barReset (a : Nat) : Byte := if 0x20000 ≤ a && a < 0x20400 && a % 16 == 12 then 1 else 0

/-- A byte of the Snowdrop window or the MSI-X table. -/
def barRead (m : List Host.Cell) (a : Nat) : Byte := memRead m a ^^^ barReset a

/-- Writes a byte there. -/
def barWrite (m : List Host.Cell) (a : Nat) (v : Byte) : List Host.Cell := memWrite m a (v ^^^ barReset a)

/-- The message of a vector is masked: bit 0 of its vector control word (R559). -/
def State.vecMasked (s : State) (v : Nat) : Bool := (barRead s.hif.bar (0x2000C + 16 * v)).getLsbD 0

/-- Sends the message of a vector, or sets its pending bit when it is masked (R559). Nothing is sent without a link. -/
def State.sendMsix (s : State) (v : Nat) : State :=
  let t := s.setVec v { s.vec v with waiting := 0 }
  if !t.hif.linkUp then t
  else if t.vecMasked v then t.setVec v { t.vec v with pendingBit := true }
  else { t with hif.msix := t.hif.msix ++ [v] }.bump 1418 4 v

/-- R558: `n` more items wait for the message of a vector; it is sent when they reach the count or the timer is 0. -/
def State.signal (s : State) (v n : Nat) : State :=
  let x := s.vec v
  let w := x.waiting + n
  let t := s.setVec v { x with waiting := w, since := if x.waiting == 0 then s.time.ticks else x.since }
  if n == 0 then s else if x.count ≤ w || x.timerUs == 0 then t.sendMsix v else t

/-- R557: vector 2 signals a change of HIF_MODE_STATUS or HIF_HEALTH between two states, at once (R558). -/
def signalStatus (s t : State) : State :=
  if s.modeStatus == t.modeStatus && s.health == t.health then t else t.sendMsix 2

/-- A step that ends in state `t` having begun in `s`. -/
def done (s t : State) : Out := .next (signalStatus s t)

/-! ### The die-to-die interface (R13-R16) -/

/-- The modules in service. -/
def State.d2dIn (s : State) : List Nat := (List.range 16).filter (fun m => !s.mode.d2dOut.contains m)

/-- A new flit: the flits go over the modules in service in turn (DESIGN CHOICE: the spec gives no order). -/
def State.flit (s : State) (no : Nat) : Flit := { no, module := s.d2dIn.getD (no % Nat.max 1 s.d2dIn.length) 0 }

/-- R13: a flit of a module that is not acknowledged is replayed. -/
def Flit.replay (f : Flit) (m : Nat) : Flit := if f.module == m then { f with replays := f.replays + 1 } else f

/-- R15: a flit of a retired module is replayed on one of the remaining modules, where its number keeps its place. -/
def State.reroute (s : State) (m : Nat) (f : Flit) : Flit :=
  if f.module == m then { s.flit f.no with replays := f.replays + 1 } else f

/-- Changes every unacknowledged flit: the descriptors that cross to the TM die, and the packets that cross back. -/
def State.mapFlits (s : State) (f : Flit → Flit) : State :=
  { s with
    parse.d2dQ := s.parse.d2dQ.map (fun d => { d with flit := f d.flit })
    port.ports := s.port.ports.map (fun e => (e.1, { e.2 with feQ := e.2.feQ.map (fun p => { p with flit := p.flit.map f }) })) }

/-- The number of the oldest flit of a module that waits for its acknowledgement, toward the FE die or the TM die. -/
def State.oldestFlit (s : State) (m : Nat) (toFe : Bool) : Option Nat :=
  let l := if toFe then s.port.ports.flatMap (fun e => e.2.feQ.filterMap (fun p => p.flit)) else s.parse.d2dQ.map (fun d => d.flit)
  (l.filter (fun f => f.module == m)).foldl (fun (a : Option Nat) f => match a with
    | some n => some (min n f.no)
    | none => some f.no) none

/-! ### Cells toward the fabric (R369, R373, R379, R392) -/

/-- R373: the link group that serves flows of group `g` on a plane: `g`, or the next in ascending order with a live lane. -/
def State.groupFor (s : State) (plane g : Nat) : Option Nat :=
  ((List.range 8).map (fun i => (g + i) % 8)).find? (fun h => !(s.liveLanes plane h).isEmpty)

/-- The device sends on the plane: a mode of R408, and the plane not set down by PLANE_ADMIN. -/
def State.sends (s : State) (plane : Nat) : Bool :=
  s.aux.pllLocked && inRange s.mode.mode mdConfigure mdDegraded && !s.fab.planesDown.contains plane

/-- The header of a cell without its check, bits 127 to 16 of Table 10-2. -/
def cellValue (c : Cell) : Nat :=
  c.type * 2 ^ 108 + c.src * 2 ^ 100 + c.dst * 2 ^ 92 + c.plane * 2 ^ 91 + c.lgroup * 2 ^ 88 + c.cseq * 2 ^ 72 + c.tc * 2 ^ 69 +
    b2n c.prot * 2 ^ 68 + c.stream * 2 ^ 64 + c.pseq * 2 ^ 40 + b2n c.sop * 2 ^ 39 + b2n c.eop * 2 ^ 38 + b2n c.abort * 2 ^ 37 +
    b2n c.early * 2 ^ 36 + c.startSlot * 2 ^ 33 + c.endOff * 2 ^ 25

/-- R742: the header check over header bytes 0-13. -/
def cellCheck (c : Cell) : BitVec 16 := crc16 (toBe 14 (cellValue c))

/-- R8, Table 10-2: the 16 header bytes of a cell, most significant first. -/
def cellHeader (c : Cell) : Bytes := toBe 14 (cellValue c) ++ toBe 2 c.hcrc.toNat

/-- R368, R378: the header check of a received cell is right. -/
def cellHcrcOk (c : Cell) : Bool := c.hcrc == cellCheck c

/-- The cell with its header check. -/
def cellSealed (c : Cell) : Cell := { c with hcrc := cellCheck c }

/-- R392: the next live lane of a link group in round-robin order from a lane on. -/
def State.nextLane (s : State) (plane h from_ : Nat) : Option Nat :=
  let ls := s.liveLanes plane h
  (ls.find? (fun l => from_ ≤ l)).or ls.head?

/-- R379: the rank of a cell type on its lane. -/
def cellRank (type : Nat) : Nat := if type == 1 || type == 5 then 0 else if type == 2 || type == 3 then 1 else if type == 4 then 2 else 3

/-- R379: a cell takes its place among those that wait for a lane, behind its equals. -/
def putCell (c : Cell) (l : List Cell) : List Cell :=
  l.takeWhile (fun x => cellRank x.type ≤ cellRank c.type) ++ c :: l.dropWhile (fun x => cellRank x.type ≤ cellRank c.type)

/-- Hands a cell to a lane of link group `g` of a plane, where it waits for a cell slot (R379); data cells go round the live
lanes in turn (R392), and the others too, on their own. It is lost when the plane sends nothing or has no live lane (R373). -/
def State.sendCell (s : State) (plane g : Nat) (c : Cell) : State :=
  match s.sends plane, s.groupFor plane g with
  | true, some h =>
    let key := 8 * plane + h
    let data := c.type == 0
    match s.nextLane plane h ((if data then s.fab.stripe else s.fab.stripeC).getD key 0) with
    | some l =>
      let t := { s with
        fab.laneQ := s.fab.laneQ.upd l [] (putCell { c with plane := plane, lgroup := h, src := s.fab.fdi }) }
      if data then { t with fab.stripe := t.fab.stripe.set key (l + 1) } else { t with fab.stripeC := t.fab.stripeC.set key (l + 1) }
    | none => s
  | _, _ => s

/-- A cell that is not a data cell: its type, its destination and its payload (Table 10-2). -/
def plainCell (type dst : Nat) (payload : Bytes) : Cell :=
  { type, src := 0, dst, plane := 0, lgroup := 0, cseq := 0, tc := 0, prot := false, stream := 0, pseq := 0, sop := false,
    eop := false, abort := false, early := false, startSlot := 0, endOff := 0, payload := padTo 256 payload }

/-- The plane of credit and control cells: A while it is usable toward the peer, B otherwise (R388, R423). -/
def State.creditPlane (s : State) (f : Nat) : Nat := if s.usable f 0 then 0 else 1

/-! ### Coordination messages (Table 15-2, R585-R589) -/

/-- The header that a device sends before a message (Table 15-2). -/
def State.msgHeader (s : State) (path seq : Nat) (m : Msg) : CoordHdr :=
  { version := 1, type := m.type, systemId := s.hier.systemId, src := s.fab.fdi, dst := m.dst.getD 0
    flags := b2n m.dst.isNone + 2 * b2n m.ack + 4 * b2n (path == 2), term := s.hier.highTerm, msgSeq := seq
    epoch := s.hier.epoch, length := m.body.length }

/-- Bytes of a message: the header of Table 15-2 with its check, then the body. -/
def msgBytes (h : CoordHdr) (body : Bytes) : Bytes := h.bytes ++ toBe 2 (crc16 h.bytes).toNat ++ body

/-- R586: the MAC address of a device, or the group address of every member. -/
def coordMac (systemId : Nat) : Option Nat → Bytes
  | some f => toBe 3 0x029640 ++ toBe 2 systemId ++ toBe 1 f
  | none => toBe 3 0x039640 ++ toBe 2 systemId ++ toBe 1 0xFF

/-- R586: what travels on a path: on CL0 and CL1 an Ethernet frame, in control cells the message alone. -/
def State.msgFrame (s : State) (path seq : Nat) (m : Msg) : Bytes :=
  let b := msgBytes (s.msgHeader path seq m) m.body
  if path == 2 then b
  else coordMac s.hier.systemId m.dst ++ coordMac s.hier.systemId (some s.fab.fdi) ++ toBe 2 0x88B5 ++ b

/-- R423: the fragments of a control message, each 248 bytes or the rest. -/
def fragments : Nat → Bytes → List Bytes
  | 0, _ => []
  | n + 1, b => if b.length ≤ 248 then [b] else b.take 248 :: fragments n (b.drop 248)

/-- R425: the control messages that wait: those with a cell that waits for its lane. -/
def State.controlWaiting (s : State) : Nat :=
  (((s.fab.laneQ.flatMap (fun e => e.2)).filter (fun c => c.type == 4)).map (fun c => be c.payload 0 2)).eraseDups.length

/-- R423: sends a message as control cells to a peer; beyond a queue of 64 messages it is dropped (R425). -/
def State.sendControl (s : State) (f : Nat) (bytes : Bytes) : State :=
  if 64 ≤ s.controlWaiting then s.bump 1013 17
  else
  let fs := fragments 16 bytes
  let id := s.fab.ctrlSeq
  let k := s.creditPlane f
  let t := (numbered 0 fs).foldl (fun (a : State) p =>
    a.sendCell k 0 (plainCell 4 f (toBe 2 id ++ toBe 1 p.1 ++ toBe 1 fs.length ++ toBe 2 p.2.length ++ zeros 2 ++ p.2))) s
  { t with fab.ctrlSeq := (id + 1) % 65536 }.bump 1013 14

def State.member (s : State) (f : Nat) : Member := s.hier.members.getD f {}

/-- R589: the path toward a device: CL0 when it is heard there, else CL1, else control cells; toward a device that is no
peer, which takes no control cells, the first coordination link that is up. -/
def State.pathTo (s : State) (f : Nat) : Nat :=
  if !(s.member f).silent0 then 0 else if !(s.member f).silent1 then 1
  else if s.isPeer f then 2 else ([0, 1].find? (fun l => s.hier.linkUp.contains l)).getD 2

def State.setMember (s : State) (f : Nat) (x : Member) : State := { s with hier.members := s.hier.members.set f x }

/-- R593, R594: both paths to a member of the table are silent. -/
def State.bothSilent (s : State) (f : Nat) : Bool :=
  (s.member f).silent0 && (s.member f).silent1 && !s.fabricHeard f

/-- R594, R597: keeps the instant since which both paths to a member of the table have been silent. -/
def State.noteSilence (s : State) (f : Nat) : State :=
  let x := s.member f
  if !s.hier.table.contains f || f == s.fab.fdi || s.bothSilent f == x.silentAt.isSome then s
  else s.setMember f { x with silentAt := if s.bothSilent f then some s.time.ticks else none }

/-- Sends a message on a path under a number already chosen. -/
def State.putMsg (s : State) (path seq : Nat) (m : Msg) : State :=
  let x : SentMsg := { path, seq, term := s.hier.highTerm, epoch := s.hier.epoch, msg := m, bytes := s.msgFrame path seq m }
  let t := { s with hier.sent := s.hier.sent ++ [x] }.bump 1512 0 path
  if path == 2 then t.sendControl (m.dst.getD 0) x.bytes else t

/-- R588: sends a message under a new number; it waits for its acknowledgement where one is requested. -/
def State.numberMsg (s : State) (path : Nat) (m : Msg) : State :=
  let q := s.hier.msgSeq
  let t := { s with hier.msgSeq := (q + 1) % 4294967296 }.putMsg path q m
  if m.ack then { t with hier.unacked := t.hier.unacked ++ [{ seq := q, msg := m, at_ := s.time.ticks }] } else t

/-- R588, R589: sends a new message. One that requests an acknowledgement waits while an earlier one to its destination has none, so
that resending keeps the order of msg_seq (DESIGN CHOICE: the spec does not say how the order is kept). -/
def State.newMsg (s : State) (path : Nat) (m : Msg) : State :=
  if m.ack && s.hier.unacked.any (fun u => u.msg.dst == m.dst) then { s with hier.queued := s.hier.queued ++ [m] }
  else s.numberMsg path m

/-- R589: the next message that waits for a destination goes out once no earlier one lacks its acknowledgement; a chunk of a
Snowdrop image over CL0 (R651), every other on the path in force. -/
def State.nextMsg (s : State) (dst : Option Nat) : State :=
  match s.hier.queued.find? (fun m => m.dst == dst) with
  | none => s
  | some m =>
    if s.hier.unacked.any (fun u => u.msg.dst == dst) then s
    else { s with hier.queued := s.hier.queued.erase m }.numberMsg (if m.type == 0x31 then 0 else s.pathTo (m.dst.getD 0)) m

/-- Sends a message to one device. A standalone device sends none (R578). -/
def State.sendMsg (s : State) (f type : Nat) (ack : Bool) (body : Bytes) : State :=
  if s.hier.member then s.newMsg (s.pathTo f) { type, dst := some f, ack, body } else s

/-- Sends a message to the group address on every coordination link that is up. -/
def State.sendGroup (s : State) (type : Nat) (body : Bytes) : State :=
  if s.hier.member then
    [0, 1].foldl (fun (a : State) l =>
      if a.hier.linkUp.contains l then a.newMsg l { type, dst := none, ack := false, body } else a) s
  else s

/-- Sends one message to each of the devices named. -/
def State.sendAll (s : State) (fs : List Nat) (type : Nat) (ack : Bool) (body : Bytes) : State :=
  fs.foldl (fun (a : State) f => a.sendMsg f type ack body) s

/-! ### Events (R551-R556, R746) -/

/-- The number of entries of a ring: 2^(6 + size_code), codes above 9 taken as 9 (Table 14-4). -/
def Ring.entries (r : Ring) : Nat := 2 ^ (6 + min 9 r.sizeCode)

/-- Entries between the host-side and the device-side index. -/
def Ring.used (r : Ring) : Nat := (r.dev + 65536 - r.host) % 65536

/-- The 64 bytes of an event record (Table 14-9). -/
def recordBytes (e : EventRec) : Bytes :=
  toLe 2 e.code ++ toLe 1 e.src ++ toLe 1 (b2n e.phase + 2 * b2n e.lostBefore) ++ toLe 4 e.t32.toNat ++ toLe 4 e.seq ++
    toLe 2 e.lost ++ toLe 2 e.data.length ++ padTo 48 e.data

/-- R553: the class of the event is suppressed. -/
def State.eventMasked (s : State) (code : Nat) : Bool :=
  bit s.hif.evtMask (code / 256) && code / 256 != 0x0D && code / 256 != 0 && code != 0x0C81

/-- R551, R556: writes an event record, or counts it as masked or lost. -/
def State.writeEvent (s : State) (code src : Nat) (t : T32) (data : Bytes) : State :=
  if s.eventMasked code then s.bump 1418 3
  else if !s.hif.evtRing.enable || s.hif.evtRing.entries ≤ s.hif.evtRing.used then
    { s with hif.healthW1c := s.hif.healthW1c ||| 4, hif.evtLost := s.hif.evtLost + 1 }.bump 1418 2
  else
    let e : EventRec :=
      { code, src, phase := s.hif.evtSeq / s.hif.evtRing.entries % 2 == 0, lostBefore := s.hif.evtLost != 0, t32 := t,
        seq := s.hif.evtSeq, lost := min 65535 s.hif.evtLost, data := data }
    let t : State := { s with
      hif.events := s.hif.events ++ [e], hif.evtSeq := (s.hif.evtSeq + 1) % 4294967296, hif.evtLost := 0
      hif.evtRing.dev := (s.hif.evtRing.dev + 1) % 65536 }
    (t.bump 1418 1).signal 1 1

/-- Raises an event: into the own ring, or from a worker to the manager in a RELAY_EVENT message (R554, Table 15-3). -/
def State.raise (s : State) (code : Nat) (data : Bytes) : State :=
  if s.isWorker then
    if s.eventMasked code then s.bump 1418 3
    else match s.hier.manager with
      | some m =>
        if s.fwRuns then
          s.sendMsg m 0x0B true (recordBytes
            { code, src := s.fab.fdi, phase := false, lostBefore := false, t32 := s.t32, seq := 0, lost := 0, data })
        else s
      | none => s
  else s.writeEvent code s.fab.fdi s.t32 data

/-- Items of event data (R746): 4 bytes, signed 4 bytes, 8 bytes. -/
def d4 (n : Nat) : Bytes := toLe 4 n
def d4s (n : Int) : Bytes := toLeS 4 n
def d8 (n : Nat) : Bytes := toLe 8 n
def d4o (n : Option Nat) : Bytes := toLe 4 (n.getD 0xFFFFFFFF)

/-- An event raised at most once per 1 s window (R10): `data` takes the hits of the window before. -/
def State.raiseLim (s : State) (code idx : Nat) (data : Nat → Bytes) : State :=
  let key := code * 16777216 + idx
  match s.hif.limits.get? key with
  | none => { s with hif.limits := s.hif.limits.set key (s.time.ticks, 1) }.raise code (data 0)
  | some (start, n) =>
    if s.ended start (secs 1) then { s with hif.limits := s.hif.limits.set key (s.time.ticks, 1) }.raise code (data n)
    else { s with hif.limits := s.hif.limits.set key (start, n + 1) }

/-! ### Histograms and performance counters (R698-R704) -/

/-- R704: the bin of a value: 0 below 2 after the shift, else the position of its highest bit. -/
def histBin (shift v : Nat) : Nat := if v / 2 ^ shift < 2 then 0 else min 31 (Nat.log2 (v / 2 ^ shift))

/-- R704: a value enters a bank of bins. -/
def HistBank.add (b : HistBank) (shift v : Nat) : HistBank :=
  let i := histBin shift v
  let n := b.bins.getD i 0
  { b with
    bins := if n == 4294967295 then b.bins else b.bins.set i (n + 1), saturated := b.saturated || n == 4294967295
    max := Nat.max b.max v, total := b.total + 1 }

/-- The bank of the open window. -/
def Hist.open_ (h : Hist) : HistBank :=
  { start := h.start, bins := h.bins, max := h.max, total := h.total, saturated := h.saturated, skipped := h.skipped }

/-- R705: a value belongs to the window that contains its stamp: the open one, the one that has just ended, or one that is still to
open. A value of a window that is already written goes into the open one (DESIGN CHOICE: none is lost). -/
def Hist.put (h : Hist) (stamp : T32) (v : Nat) : Hist :=
  let into (b : HistBank) : Hist := { h with bins := b.bins, max := b.max, total := b.total, saturated := b.saturated }
  let later := stamp.reached (h.start + BitVec.ofNat 32 (h.intervalMs * 1000000))
  if !stamp.reached h.start then
    if !h.begun then h
    else match h.ended with
      | some b => { h with ended := some (b.add h.shift v) }
      | none => into (h.open_.add h.shift v)
  else if later || !h.begun then { h with early := h.early ++ [(stamp, v)] }
  else into (h.open_.add h.shift v)

/-- R704, Table 18-3: a value of a source and instance enters every histogram that observes it, by its stamp. -/
def State.histAt (s : State) (source inst v : Nat) (stamp : T32) : State :=
  { s with tel.hists := s.tel.hists.map (fun e =>
    if e.2.enable && e.2.source == source && e.2.first ≤ inst && inst < e.2.first + e.2.count then (e.1, e.2.put stamp v) else e) }

/-- A value stamped now. -/
def State.histAdd (s : State) (source inst v : Nat) : State := s.histAt source inst v s.t32

/-- A performance counter by die and number. -/
def State.perf (s : State) (die n : Nat) : Perf := s.tel.perf.getD (256 * die + n) {}
def State.setPerf (s : State) (die n : Nat) (x : Perf) : State := { s with tel.perf := s.tel.perf.set (256 * die + n) x }

/-- R701: a counter without a successor wraps: overflow, with event 0x1181 once until a clearing read. -/
def State.perfWrap (s : State) (die n : Nat) : State :=
  if (s.perf die n).overflow then s
  else (s.setPerf die n { s.perf die n with overflow := true }).raise 0x1181 (d4 die ++ d4 n)

/-- R698, R700: a counter takes `k` more; its carry passes into the next counter of its chain. -/
def State.perfAdd (s : State) (die n k : Nat) : Nat → State
  | 0 => s
  | fuel + 1 =>
    let x := s.perf die n
    let v := x.value + k
    let t := s.setPerf die n { x with value := v % 4294967296 }
    if v < 4294967296 then t
    else if x.chain && n < 255 then t.perfAdd die (n + 1) (v / 4294967296) fuel
    else t.perfWrap die n

/-- R698: `k` occurrences of an event of Table 18-2 reach the counters that select it; a counter that takes the carry of
another ignores its own selector (R700). -/
def State.perfCount (s : State) (die unit inst event : Nat) (k : Nat := 1) : State :=
  ((s.tel.perf.filter (fun e => e.1 / 256 == die && e.2.enable && e.2.unit == unit && e.2.inst == inst &&
      e.2.event == event && !(e.1 % 256 != 0 && (s.perf die (e.1 % 256 - 1)).chain))).map Prod.fst).foldl
    (fun (a : State) n => a.perfAdd die (n % 256) k 4) s

/-- A pipeline among those in service serves a packet (R159); the counters of its instance that select the events take them. -/
def State.servedBy (s : State) (unit : Nat) (pipes : List Nat) (events : List (Nat × Nat)) : State :=
  let a : State := { s with tbl.freeIx := s.tbl.freeIx + 1 }
  match pipes[Config.servingPipe s.tbl.freeIx % pipes.length]? with
  | some p => events.foldl (fun (x : State) e => if e.2 == 0 then x else x.perfCount 0 unit p e.1 e.2) a
  | none => a

/-! ### Mailbox commands (R542-R550) -/

/-- Completion status codes (Table 14-8). -/
abbrev stOk : Nat := 0
abbrev stBusy : Nat := 1
abbrev stBadOpcode : Nat := 2
abbrev stBadParam : Nat := 3
abbrev stNoResource : Nat := 4
abbrev stWrongMode : Nat := 5
abbrev stNotOwner : Nat := 6
abbrev stExists : Nat := 7
abbrev stNotFound : Nat := 8
abbrev stTimeout : Nat := 9
abbrev stRefused : Nat := 10
abbrev stNotInGrade : Nat := 11
abbrev stPartial : Nat := 12

/-- What executing a command gives: the state, and what its completion carries, or what it still waits for. `keep` says
that a failure keeps its effects by a rule of the command's own chapter (R548). -/
structure Res where
  st : State
  status : Nat := stOk
  result : Bytes := []
  applied : Nat := 0
  failIndex : Nat := 0xFFFFFFFF
  detail : Nat := 0
  needed : Nat := 0
  async : Option OpenKind := none
  keep : Bool := false

/-- A command that fails and leaves the device as it was (R548). -/
def Res.err (s : State) (status : Nat) (detail : Nat := 0) : Res := { st := s, status, detail }

/-- What the header checks and the gates of a command need to know of it. -/
structure CmdSpec where
  opcode : Nat
  /-- the payload is long enough for the opcode (R546) -/
  long : Bytes → Bool := fun _ => true
  /-- every reserved field and bit of the payload is zero (R749) -/
  clean : Bytes → Bool := fun _ => true
  /-- the size of the result, or the largest the payload can produce (R545) -/
  size : Bytes → Nat := fun _ => 0
  /-- the command's own mode check: 0, or the status it completes with -/
  mode : Bytes → State → Nat := fun _ _ => 0
  /-- served in Quarantine outside classes 0x00, 0x0F, 0x10, 0x11 (R674) -/
  reads : Bool := false
  /-- served by the TM die service cores under R695 -/
  tm : Bytes → Bool := fun _ => false
  /-- relayed to a worker; otherwise naming one completes with REFUSED (R530) -/
  relayed : Bool := true
  /-- changes data-plane state, through the table write port (R21): it waits there for the work ahead of it (R194) -/
  ported : Bytes → Bool := fun _ => inRange (opcode / 256) 1 0x0B && !reads

/-- R546: the header checks. -/
def badHeader (x : CmdSpec) (c : Cmd) : Bool :=
  4 ≤ c.flags || 1048576 < c.payload.length || 1048576 < c.capacity || !x.long c.payload

/-- Command header bytes 0-31 with the host addresses zeroed (Table 15-5). -/
def headerBytes (opcode : Nat) (c : Cmd) : Bytes :=
  toLe 2 opcode ++ toLe 2 c.seq ++ toLe 1 c.target ++ toLe 1 c.flags ++ [0xFF] ++ zeros 1 ++ toLe 4 c.payload.length ++
    toLe 4 c.capacity ++ zeros 16

/-- The pieces of a relayed payload or result, each with its offset (Table 15-5). -/
def pieces : Nat → Nat → Bytes → List (Nat × Bytes)
  | 0, _, _ => []
  | n + 1, off, b => if b.length ≤ 3896 then [(off, b)] else (off, b.take 3896) :: pieces n (off + 3896) (b.drop 3896)

/-- R38, R603: relays a command to a member in RELAY_COMMAND segments; `dist` names the HIER_DISTRIBUTE it is part of. -/
def State.relayTo (s : State) (opcode : Nat) (c : Cmd) (dist : Option Nat) : State :=
  let id := s.hier.relaySeq
  let t := { s with
    hier.relaySeq := (id + 1) % 4294967296
    hier.relays := s.hier.relays ++ [{ id, fdi := c.target, at_ := s.time.ticks, dist }] }
  (pieces 270 0 c.payload).foldl (fun (a : State) p =>
    a.sendMsg c.target 0x09 true
      (toBe 4 id ++ toBe 4 p.1 ++ toBe 4 c.payload.length ++ zeros 4 ++ headerBytes opcode c ++ p.2)) t

/-- R21, R194: a command takes its place in the table write port behind the work that is there. -/
def State.portWait (s : State) (e : CmdEntry) : Res :=
  { st := { s with
      tbl.batchSeq := s.tbl.batchSeq + 1
      tbl.port := s.tbl.port ++ [{ id := s.tbl.batchSeq, opcode := e.opcode, entry := some e }] }
    async := some (.batch s.tbl.batchSeq) }

/-- R2, R695, R674, the command's own mode check, R749 and R545, in this order, and then the command itself. That a failed
mode check decides before a set reserved bit (R5, R749) is the model's choice; the spec orders only R546, R2 and the rest. -/
def runLocal (x : CmdSpec) (body : Cmd → State → Res) (c : Cmd) (s : State) : Res :=
  if x.opcode / 256 == 2 && !s.sec.gradeS then Res.err s stNotInGrade
  else if s.mode.gaveUp && !x.tm c.payload then Res.err s stRefused
  else if s.mode.mode == mdQuarantine && !(x.reads || [0, 0xF, 0x10, 0x11].contains (x.opcode / 256)) then
    Res.err s stWrongMode
  else if x.mode c.payload s != 0 then Res.err s (x.mode c.payload s)
  else if !x.clean c.payload then Res.err s stBadParam
  else if c.capacity < x.size c.payload then { st := s, status := stBadParam, needed := x.size c.payload }
  else if x.ported c.payload && !s.tbl.port.isEmpty then s.portWait { opcode := x.opcode, cmd := c }
  else
    let r := body c s
    if r.status == stOk || r.status == stPartial || r.keep then r else { r with st := s }

/-- A command from its header checks on: R546, then R547, then the local gates. -/
def gate (x : CmdSpec) (body : Cmd → State → Res) (c : Cmd) (s : State) : Res :=
  if badHeader x c then Res.err s stBadParam
  else if c.target != s.fab.fdi then
    if s.isManager && s.hier.table.contains c.target then
      if x.relayed then { st := s.relayTo x.opcode c none, async := some (.relay s.hier.relaySeq) }
      else Res.err s stRefused
    else Res.err s stNotFound
  else runLocal x body c s

/-- R7, Table 14-7: the completion area of a command entry, bytes 32-63. -/
def completionArea (resultLength applied failIndex detail : Nat) (t : T32) : Bytes :=
  toLe 4 resultLength ++ toLe 4 applied ++ toLe 4 failIndex ++ toLe 4 t.toNat ++ toLe 4 detail ++ zeros 12

/-- Writes a completion into the command ring (R544), unless no completion can be written (R574, R575). -/
def State.completeRing (s : State) (c : Cmd) (silent : Bool) (since : T32) (status : Nat) (result : Bytes)
    (resultLength applied failIndex detail : Nat) : State :=
  if silent || s.hif.dmaHeld || !s.hif.linkUp then s
  else
    let t : State := { s with hif.completions := s.hif.completions ++
      [{ seq := c.seq, target := c.target, status, result, resultLength, applied, failIndex, detail, doneT32 := s.t32
         area := completionArea resultLength applied failIndex detail s.t32 }] }
    let u := (t.bump 1418 0 status).histAdd 3 0 (s.t32 - since).toNat
    if bit c.flags 0 then u.signal 0 1 else u

/-- The status bytes of a HIER_DISTRIBUTE, 0xFF for an FDI not named, and its own status: OK where every device named
returned OK, else PARTIAL (R605, R606). -/
def Dist.answer (d : Dist) : Nat × Bytes :=
  (if (bitmapOf d.members 32).all (fun f => d.statuses.get? f == some stOk) then stOk else stPartial,
    (List.range 256).flatMap (fun f => toLe 1 ((d.statuses.get? f).getD 0xFF)))

/-- Every device that a HIER_DISTRIBUTE names has returned its status. -/
def Dist.complete (d : Dist) : Bool := (bitmapOf d.members 32).all (fun f => (d.statuses.get? f).isSome)

/-- How many devices returned OK. -/
def Dist.oks (d : Dist) : Nat := ((bitmapOf d.members 32).filter (fun f => d.statuses.get? f == some stOk)).length

/-- R606: a HIER_DISTRIBUTE completes once every device named has returned its status. -/
def State.reviewDist (s : State) (id : Nat) : State :=
  match s.hier.dists.find? (fun (d : Dist) => d.id == id) with
  | some d =>
    if d.complete then
      let t := { s with hier.dists := s.hier.dists.filter (fun (x : Dist) => x.id != id) }
      (s.hif.openCmds.filter (fun o => o.kind == .distribute id)).foldl (fun (a : State) o =>
        ({ a with hif.openCmds := a.hif.openCmds.erase o }).completeRing o.cmd o.silent o.at_ d.answer.1 d.answer.2 256 d.oks
          0xFFFFFFFF 0) t
    else s
  | none => s

/-- Records the status of one device of a HIER_DISTRIBUTE. -/
def State.distNote (s : State) (id f st : Nat) : State :=
  { s with hier.dists := s.hier.dists.map (fun (d : Dist) =>
      if d.id == id then { d with statuses := d.statuses.set f st } else d) }

/-- Records it, and completes the command with the last of them (R606). -/
def State.distStatus (s : State) (id f st : Nat) : State := (s.distNote id f st).reviewDist id

/-- Writes the completion of a command: into the ring, to the manager that relayed it (Table 15-3), or into the
HIER_DISTRIBUTE whose local part it is (R605). -/
def State.complete (s : State) (c : Cmd) (silent : Bool) (since : T32) (status : Nat) (result : Bytes)
    (resultLength applied failIndex detail : Nat) : State :=
  match c.relay with
  | some (m, id) =>
    if m == s.fab.fdi then s.distStatus id m status
    else (pieces 270 0 result).foldl (fun (a : State) p =>
      a.sendMsg m 0x0A true (toBe 4 id ++ toBe 4 p.1 ++ toBe 4 result.length ++ toBe 1 status ++ zeros 3 ++
        toLe 4 resultLength ++ toLe 4 applied ++ toLe 4 failIndex ++ toLe 4 s.t32.toNat ++ toLe 4 detail ++ zeros 12 ++
        p.2)) s
  | none => s.completeRing c silent since status result resultLength applied failIndex detail

/-- Ends the execution of a command: completes it, or keeps it among the commands that have not completed. -/
def Res.finish (r : Res) (c : Cmd) : State :=
  match r.async with
  | some k => { r.st with hif.openCmds := r.st.hif.openCmds ++ [{ cmd := c, kind := k, at_ := r.st.t32 }] }
  | none =>
    r.st.complete c false r.st.t32 r.status r.result (if r.needed == 0 then r.result.length else r.needed) r.applied r.failIndex
      r.detail

/-- Completes an unfinished command and removes it. While firmware does not run no completion is written, and its outcome
waits (R32, Table 01-5). -/
def State.finishOpen (s : State) (o : OpenCmd) (status : Nat) (result : Bytes := []) (applied : Nat := 0)
    (failIndex : Nat := 0xFFFFFFFF) (detail : Nat := 0) : State :=
  if o.answer.isSome then s
  else if s.serving then
    { s with hif.openCmds := s.hif.openCmds.erase o }.complete o.cmd o.silent o.at_ status result result.length applied
      failIndex detail
  else { s with hif.openCmds := s.hif.openCmds.map (fun x =>
    if x == o then { x with answer := some { status, result, applied, failIndex, detail } } else x) }

/-- Firmware runs again: it writes the completions that waited for it (Table 01-5). -/
def State.writeAnswers (s : State) : State :=
  if s.serving then
    s.hif.openCmds.foldl (fun (a : State) o =>
      match o.answer with
      | some w => { a with hif.openCmds := a.hif.openCmds.erase o }.complete o.cmd o.silent o.at_ w.status w.result
          w.result.length w.applied w.failIndex w.detail
      | none => a) s
  else s

/-- Completes every unfinished command of a kind. -/
def State.finishKind (s : State) (k : OpenKind) (status : Nat) (applied : Nat := 0) (detail : Nat := 0) : State :=
  (s.hif.openCmds.filter (fun o => o.kind == k)).foldl
    (fun (a : State) o => a.finishOpen o status [] applied 0xFFFFFFFF detail) s

/-- R612: the device shows the epoch of a mode change, in its own state or in a heartbeat on either path. -/
def State.showsEpoch (s : State) (e f : Nat) : Bool :=
  if f == s.fab.fdi then s.hier.epoch == e else (s.member f).epoch == e || (s.peer f).epoch == e

/-- The members named in a mode change that do not show its epoch. -/
def State.laggards (s : State) (c : Change) : List Nat := (bitmapOf c.members 32).filter (fun f => !s.showsEpoch c.epoch f)

/-- R614: a committed mode change is over once no laggard is left: OK, or event 0x0E8B where the command has completed. -/
def State.reviewChange (s : State) : State :=
  match s.hier.change with
  | some c =>
    if c.decided == some true && (s.laggards c).isEmpty then
      let t := { s with hier.change := none }
      if c.completed then t.raise 0x0E8B (d4 c.epoch)
      else t.finishKind .modeChange stOk (bitmapOf c.members 32).length
    else s
  | none => s

/-- R543: a command of the ring may not start yet: it is ordered and an earlier one of the ring is open, or an open one of
the ring is ordered. -/
def State.blocked (s : State) (c : Cmd) : Bool :=
  let own := s.hif.openCmds.filter (fun o => o.cmd.relay.isNone)
  c.relay.isNone && ((bit c.flags 1 && !own.isEmpty) || own.any (fun o => bit o.cmd.flags 1))

/-- One execution of a mailbox command. Where firmware serves no command, or R543 holds this one back, nothing happens:
the entry waits in the ring (R550, Table 01-5). -/
def serve (c : Cmd) (f : Cmd → State → Res) (s : State) : Out :=
  if s.serving && !s.blocked c then done s ((f c s).finish c) else .next s

end Sys2Proof.Machine
end

