-- ==== Sys2Proof/Machine/PortOps.lean ====
section
/-! DEFINITION. Operations on ports, lane groups and their buffers that several chapters share: which ports exist
(R41, R42), training (R78), going down (R51, R53), low-power idle (R67, R69), timestamp records (R519). -/
namespace Sys2Proof.Machine
open Sys2Proof

def State.prt (s : State) (p : Nat) : Port := s.port.ports.getD p {}
def State.setPrt (s : State) (p : Nat) (x : Port) : State := { s with port.ports := s.port.ports.set p x }
def State.updPrt (s : State) (p : Nat) (f : Port → Port) : State := s.setPrt p (f (s.prt p))
def State.grp (s : State) (g : Nat) : Group := s.port.groups.getD g {}
def State.setGrp (s : State) (g : Nat) (x : Group) : State := { s with port.groups := s.port.groups.set g x }

/-- Lanes per port of a group mode (Table 02-1); 0 for mode 0x0 and for no mode. -/
def modeLanes (m : Nat) : Nat := [0, 8, 4, 2, 1, 4, 1].getD m 0

/-- The mode runs lanes at 106.25 Gb/s (Table 02-1). -/
def mode100G (m : Nat) : Bool := m == 5 || m == 6

/-- Lane rate in Mb/s (Table 02-1). -/
def laneRate (m : Nat) : Nat := if mode100G m then 106250 else 212500

/-- Rate of a port in Gb/s (Table 02-1). -/
def modeRate (m : Nat) : Nat := [0, 1600, 800, 400, 200, 400, 100].getD m 0

/-- The counterpart of a mode in rate fallback, if it has one. -/
def fallbackOf (m : Nat) : Option Nat := if m == 2 then some 5 else if m == 4 then some 6 else none

/-- R41, R42: the ports that a mode defines in group `g`. -/
def modePorts (g m : Nat) : List Nat :=
  if modeLanes m == 0 then [] else (List.range (16 / modeLanes m)).map (fun i => 16 * g + modeLanes m * i)

/-- R42: the port exists in the configured mode of its group. -/
def State.portExists (s : State) (p : Nat) : Bool := p < 96 && (modePorts (p / 16) (s.grp (p / 16)).mode).contains p

/-- R41: the lanes of a port. -/
def State.portLanes (s : State) (p : Nat) : List Nat :=
  (List.range (modeLanes (s.grp (p / 16)).mode)).map (fun i => p + i)

/-- The port that a lane belongs to, if its group's mode defines one. -/
def State.laneOwner (s : State) (l : Nat) : Option Nat :=
  (modePorts (l / 16) (s.grp (l / 16)).mode).find? (fun p => (s.portLanes p).contains l)

/-- R435, R438: the edit engines that serve the lanes of a port, each lane's own or its spare. -/
def State.engines (s : State) (p : Nat) : List Nat :=
  ((s.portLanes p).map (fun l => s.edit.engineOf.getD l l)).filter (fun e => !s.edit.dead.contains e)

/-- R438: the port keeps at least one lane that is served by an edit engine. -/
def State.hasEngine (s : State) (p : Nat) : Bool := !(s.engines p).isEmpty

/-- The ports that exist. -/
def State.ports (s : State) : List Nat := (List.range 6).flatMap (fun g => modePorts g (s.grp g).mode)

/-- Table 17-2: the ports train and come up in Bring-up and every mode that forwards. -/
def State.portsMayTrain (s : State) : Bool := s.dataPlaneOn

/-- R78: starts a training sequence on lanes of a port. -/
def State.train (s : State) (p : Nat) (lanes : List Nat) : State :=
  let x := s.prt p
  if lanes.isEmpty then s
  else s.setPrt p { x with
    trained := x.trained.filter (fun l => !lanes.contains l)
    training := x.training.filter (fun l => !lanes.contains l) ++ lanes
    trainAt := lanes.foldl (fun (t : Tbl Nat) l => t.set l s.time.ticks) x.trainAt
    attempts := 0, retryAt := none, conditions := false, upSince := none }

/-- The lanes of a port that hold no training and are not in an attempt. -/
def State.lostLanes (s : State) (p : Nat) : List Nat :=
  let x := s.prt p
  (s.portLanes p).filter (fun l => !x.trained.contains l && !x.training.contains l)

/-- R748: retrains the lanes of a port that have lost training, where the port may train. -/
def State.retrainLost (s : State) (p : Nat) : State :=
  if s.portsMayTrain && (s.prt p).adminUp then s.train p (s.lostLanes p) else s

/-- R519, Table 13-3: writes a TX_TIMESTAMP record and counts it by status. -/
def State.txTimestamp (s : State) (p status tag : Nat) (t : Nat) (f : TxFrame) (launch : Nat) : State :=
  (s.raise 0x0C81 (toLe 1 p ++ toLe 1 status ++ toLe 2 tag ++ toLe 4 t ++ toLe 2 f.ptpSeq ++ toLe 1 f.ptpType ++
    toLe 1 f.ptpDomain ++ toLe 4 launch)).bump 1306 4 status

/-- R519: the record of a requesting frame that is dropped before transmission. -/
def State.tsDropped (s : State) (p : Nat) (tsReq : Option Nat) : State :=
  match tsReq with
  | some tag => s.txTimestamp p 1 tag 0 { frame := [], rxT32 := 0 } 0
  | none => s

/-- Drops one frame of a port before transmission: code 0x0B or 0x0C (R53, R64). -/
def State.txDrop (s : State) (p code : Nat) (tsReq : Option Nat) : State :=
  (s.bump 207 (if code == 0x0B then 5 else 6) p).tsDropped p tsReq

/-- R53: discards the frames in the transmit buffer of a port with code 0x0C. -/
def State.clearTx (s : State) (p : Nat) : State :=
  let fs := (s.prt p).txBuf
  let t := s.updPrt p (fun x => { x with txBuf := [], sending := none, txEmpty := s.time.ticks })
  fs.foldl (fun (a : State) f => a.txDrop p 0x0C f.tsReq) t

/-- Ends transmit LPI of a port; the next frame starts no earlier than Tw_tx later (R69). -/
def State.endLpi (s : State) (p : Nat) : State :=
  let x := s.prt p
  if x.lpi then
    (s.setPrt p { x with lpi := false, lpiWake := some (s.time.ticks + us x.cfg.twTx) }).count 207 13 p 0
      ((s.time.ticks - x.lpiSince) / 750)
  else s

/-- R67: ends LPI on every port. -/
def State.endAllLpi (s : State) : State := s.ports.foldl (fun (a : State) p => a.endLpi p) s

/-- R51, R53: a port goes down for a reason of event 0x0182, which is raised unless `quiet`. -/
def State.portDown (s : State) (p reason : Nat) (quiet : Bool := false) : State :=
  if (s.prt p).up then
    let t := (s.endLpi p).updPrt p (fun x => { x with
      up := false, lastDown := reason, lastChange := s.t32, upSince := none, downSince := none })
    let u := (t.clearTx p).bump 207 10 p
    if quiet then u else u.raise 0x0182 (d4 p ++ d4 reason)
  else s.updPrt p (fun x => { x with upSince := none, downSince := none })

/-- R50: the port's conditions hold and it may come up: its link-up hold starts. -/
def State.startUpHold (s : State) (p : Nat) : State :=
  let x := s.prt p
  if !x.up && x.conditions && !x.localFault && !x.remoteFault && x.adminUp && x.upSince.isNone then
    s.setPrt p { x with upSince := some s.time.ticks }
  else s

/-- R158: a local port has come up: event 0x0383 may be raised again for the LAGs that have it as a member. -/
def State.lagsUp (s : State) (p : Nat) : State :=
  { s with parse.lags := s.parse.lags.map (fun e =>
    (e.1, if e.2.members.any (fun m => m.2 == 128 * s.fab.fdi + p) then { e.2 with dead := false } else e.2)) }

/-- The lanes of a port hold no training and are in no attempt. -/
def State.untrain (s : State) (p : Nat) : State :=
  s.updPrt p (fun x => { x with trained := [], training := [], attempts := 0, retryAt := none, conditions := false })

/-- R73: the ports of a group go down for a rate change and their lanes retrain in the new mode; those of a port that may not
train now (R748) have lost their training. -/
def State.rateChange (s : State) (g newMode : Nat) : State :=
  let t := (modePorts g (s.grp g).mode).foldl (fun (a : State) p =>
    let b := (a.portDown p 5).clearTx p
    (if s.portsMayTrain && (s.prt p).adminUp then b.train p (s.portLanes p) else b.untrain p).bump 207 14 p) s
  t.setGrp g { t.grp g with running := newMode, lowWindows := 0, fbSince := none }

/-! ### Pluggable modules (R80, R81, R84) -/

def State.mod_ (s : State) (m : Nat) : Mod := s.port.mods.getD m {}
def State.setMod (s : State) (m : Nat) (x : Mod) : State := { s with port.mods := s.port.mods.set m x }

/-- The address of a CMIS byte: bytes 0-127 are in no page. -/
def cmisAddr (page bank off : Nat) : Nat := if off < 128 then off else (bank * 256 + page) * 256 + off

/-- A CMIS byte of a module; one that nothing has written is a free value (log 9). -/
def State.cmisByte (s : State) (m a : Nat) : Byte := (Tbl.get? (s.mod_ m).mem a).getD (Config.moduleByte m a)

/-- The bus of a module is not marked failed (R84). -/
def State.busUp (s : State) (m : Nat) : Bool := !s.port.busFailed.contains (m / 8)

/-- R80: the first of a module's eight application descriptors (bytes 86-117, four each) that names the host interface of a
group mode. -/
def State.cmisApp (s : State) (m mode : Nat) : Option Nat :=
  ((List.range 8).find? (fun i => s.cmisByte m (86 + 4 * i) == Config.cmisInterface mode)).map (fun i => i + 1)

/-- R80, R84: where a module's lanes are known, their group has a mode and its bus works, firmware selects the application
that matches the mode and activates the data path. -/
def State.activateModule (s : State) (m : Nat) : State :=
  let x := s.mod_ m
  match x.lanes with
  | some (f, _) =>
    let g := (s.grp (f / 16)).mode
    if x.present && g != 0 && s.busUp m then s.setMod m { x with active := true, app := s.cmisApp m g } else s
  | none => s

/-- Frees the module transmitters, or holds them disabled (R81), where the module's bus works (R84). -/
def State.modulesTx (s : State) (disabled : Bool) : State :=
  { s with port.mods := s.port.mods.map (fun e =>
      (e.1, if s.busUp e.1 then { e.2 with txDisabled := disabled } else e.2)) }

/-- Starts training on every port that is not up and may train: on entry into a mode in which ports train (Table 17-2). A port
that waits for its next sequence goes on waiting (R79). -/
def State.trainAll (s : State) : State :=
  s.ports.foldl (fun (a : State) p => if (a.prt p).up || (a.prt p).retryAt.isSome then a else a.retrainLost p) s

/-- R106: deletes every secure association of a port and its key. -/
def State.zeroKeys (s : State) (p : Nat) : State :=
  { s with sec.secys := (match s.sec.secys.get? p with
      | some x => s.sec.secys.set p { x with sas := [], txInUse := none, switch := none, lost := [] }
      | none => s.sec.secys) }

/-- R106: deletes every key. -/
def State.zeroAllKeys (s : State) : State :=
  { s with sec.secys := s.sec.secys.map (fun e => (e.1, { e.2 with sas := [], txInUse := none, switch := none, lost := [] })) }

end Sys2Proof.Machine
end

