-- ==== Sys2Proof/Machine/QueueOps.lean ====
section
/-! DEFINITION. Operations on queues and the cell store: their runs (R257-R260), admission (R268-R278), release, drops,
flushes (R291), segments in HBM (R460), counter pairs (R213), and the observations of the sample sets (R331-R333). -/
namespace Sys2Proof.Machine
open Sys2Proof

/-! ### Counter pairs and samples -/

/-- R12, R213: sends one counter update, `bytes` for one packet, toward the pair in HBM. -/
def State.pairAdd (s : State) (pair bytes : Nat) : State := { s with tbl.updates := s.tbl.updates ++ [(pair, bytes)] }

/-- The sample sets that observe a queue: enabled, naming it, and begun (R331). -/
def State.samplers (s : State) (q : Nat) : List Nat :=
  (s.sched.samples.filter (fun e => e.2.enable && e.2.first ≤ q && q < e.2.first + e.2.count && e.2.begun)).map Prod.fst

/-- Records something about a queue in every sample set that observes it. -/
def State.observe (s : State) (q : Nat) (f : QStat → QStat) : State :=
  (s.samplers q).foldl (fun (a : State) k =>
    { a with sched.samples := a.sched.samples.upd k {} (fun x => { x with stats := x.stats.upd q {} f }) }) s

/-! ### Runs of a queue -/

def State.queue (s : State) (q : Nat) : Queue := s.buf.queues.getD q {}
def State.setQueue (s : State) (q : Nat) (x : Queue) : State := { s with buf.queues := s.buf.queues.set q x }
def State.updQueue (s : State) (q : Nat) (f : Queue → Queue) : State := s.setQueue q (f (s.queue q))
def State.admProf (s : State) (i : Nat) : AdmProf := s.buf.profs.getD i {}
def State.profOf (s : State) (q : Nat) : AdmProf := s.admProf (s.queue q).adm
def State.wredProf (s : State) (i : Nat) : Wred := s.buf.wreds.getD i {}

/-- R250, R251: the queue is a VOQ. -/
def isVoq (q : Nat) : Bool := q < 262144

/-- Segments of the middle that are held in HBM, and those that still wait in the backlog. -/
def Queue.segments (x : Queue) : Nat := (x.mid.filter (fun g => g.slot.isSome)).length
def Queue.waitingSegs (x : Queue) : Nat := (x.mid.filter (fun g => g.slot.isNone)).length

/-- The runs of the queue on die: cells dequeued, head run and tail run. -/
def Queue.runs (x : Queue) : List QCell := x.out ++ x.head ++ x.tail

/-- On-die cells, tail run and backlog included (Table 07-9). -/
def Queue.die (x : Queue) : Nat := x.runs.length + 16 * x.waitingSegs + x.extra

/-- The cell belongs to a packet that the queue holds. A cell of a packet that has left stays in its segment. -/
def Queue.live (x : Queue) (c : QCell) : Bool := x.pkts.any (fun p => p.pid == c.pid)

/-- Queue length in cells, on die and in HBM. -/
def Queue.len (x : Queue) : Nat :=
  x.runs.length + x.extra + ((x.mid.map (fun g => (g.cells.filter x.live).length)).sum)

/-- R252: the cells a frame of `n` bytes (without its FCS: `n` is frame_len) occupies. -/
def cellsFor (n : Nat) : Nat := ceilDiv (n + 32) 256

/-- The partition counts of the queue's kind change by cells taken and cells released (R254). -/
def State.partAdd (s : State) (q take free : Nat) : State :=
  if isVoq q then
    let u := s.buf.voqUsed + take - free
    { s with buf.voqUsed := u, buf.voqPeak := Nat.max s.buf.voqPeak u }
  else
    let u := s.buf.egressUsed + take - free
    { s with buf.egressUsed := u, buf.egressPeak := Nat.max s.buf.egressPeak u }

/-- The reassembly partition's count changes (R273). -/
def State.reasmAdd (s : State) (take free : Nat) : State :=
  let u := s.buf.reasmUsed + take - free
  { s with buf.reasmUsed := u, buf.reasmPeak := Nat.max s.buf.reasmPeak u }

/-! ### The cell store (R252-R255) -/

/-- The `n` lowest free cells from `k` on (log 13), given the cells in use in ascending order. -/
def freeCells : List Nat → Nat → Nat → List Nat
  | [], k, n => (List.range n).map (fun i => k + i)
  | u :: r, k, n =>
    if n ≤ u - k then (List.range n).map (fun i => k + i)
    else (List.range (u - k)).map (fun i => k + i) ++ freeCells r (u + 1) (n - (u - k))

/-- R682: the cells of withheld rows that no queue holds any longer. -/
def State.goneCells (s : State) : List Nat := s.buf.withheld.filter (fun c => (s.buf.cells.get? c).isNone)

/-- The cells of the store that a packet may take, whatever its partition (R252, R254, R682). -/
def State.storeFree (s : State) : Nat :=
  524288 - s.buf.voqUsed - s.buf.reasmUsed - s.buf.egressUsed - s.goneCells.length

/-- Takes `n` free cells for a queue, which count against its partition (R254). -/
def State.takeCells (s : State) (q n : Nat) : List Nat × State :=
  let l := freeCells ((s.goneCells.foldl (fun (t : Tbl StoreCell) c => t.set c {}) s.buf.cells).map Prod.fst) 0 n
  (l, { s with buf.cells := l.foldl (fun (t : Tbl StoreCell) c => t.set c { voq := isVoq q }) s.buf.cells }.partAdd q n 0)

/-- R255: one more queue holds cells that are in use. -/
def State.holdCells (s : State) (l : List Nat) : State :=
  { s with buf.cells := l.foldl (fun (t : Tbl StoreCell) c => t.upd c {} (fun x => { x with holds := x.holds + 1 })) s.buf.cells }

/-- R255, R256: a queue gives up one cell: it is free once no other queue holds it. -/
def State.freeCell (s : State) (c : Nat) : State :=
  match s.buf.cells.get? c with
  | none => s
  | some x =>
    if x.holds ≤ 1 then { s with buf.cells := s.buf.cells.del c }.partAdd (if x.voq then 0 else 262144) 0 1
    else { s with buf.cells := s.buf.cells.set c { x with holds := x.holds - 1 } }

def State.freeCellList (s : State) (l : List QCell) : State :=
  (l.filterMap (fun c => c.cell)).foldl State.freeCell s

/-- R253: writes a link word, both copies. -/
def State.setLink (s : State) (c next : Nat) : State :=
  match s.buf.cells.get? c with
  | none => s
  | some x => { s with buf.cells := s.buf.cells.set c { x with linkA := next, linkB := next } }

/-- R253: links the cells of a chain, each to the next one. A cell that several queues hold has one link word: it names the
next cell of the queue that was linked last (DESIGN CHOICE). -/
def State.linkCells (s : State) : List Nat → State
  | a :: b :: r => (s.setLink a b).linkCells (b :: r)
  | _ => s

/-- The cells of a run, by number. -/
def cellNumbers (l : List QCell) : List Nat := l.filterMap (fun c => c.cell)

/-- Cells join the end of a run. -/
def State.linkRun (s : State) (run more : List QCell) : State :=
  s.linkCells (cellNumbers (run.drop (run.length - 1) ++ more))

/-- R258: segments of 16 cells leave the tail run for the middle while it holds 16 or more; returns how many. -/
def Queue.formSegs (x : Queue) : Queue × Nat :=
  let n := x.tail.length / 16
  ({ x with
    tail := x.tail.drop (16 * n)
    mid := x.mid ++ (List.range n).map (fun i => { slot := none, cells := (x.tail.drop (16 * i)).take 16 }) }, n)

/-- R258: the queue forms segments, which enter the backlog. -/
def State.formSegs (s : State) (q : Nat) : State :=
  let r := (s.queue q).formSegs
  { s with buf.queues := s.buf.queues.set q r.1, buf.backlog := s.buf.backlog ++ List.replicate r.2 q }

/-- R260: with an empty middle the queue stops spilling and its tail run joins the head run. -/
def State.endSpill (s : State) (q : Nat) : State :=
  let x := s.queue q
  if x.spilling && x.mid.isEmpty then
    (s.setQueue q { x with spilling := false, head := x.head ++ x.tail, tail := [] }).linkRun (x.out ++ x.head) x.tail
  else s

/-- Frees the cells of a queue's runs that belong to packets which have left it; `free` is off where their release was
rejected (R363). -/
def State.sweep (s : State) (q : Nat) (free : Bool) : State :=
  let x := s.queue q
  let t := s.setQueue q { x with out := x.out.filter x.live, head := x.head.filter x.live, tail := x.tail.filter x.live }
  if free then t.freeCellList (x.runs.filter (fun c => !x.live c)) else t

/-- Cells join the head run. -/
def State.joinHead (s : State) (q : Nat) (l : List QCell) : State :=
  let x := s.queue q
  ((s.setQueue q { x with head := x.head ++ l }).linkRun (x.out ++ x.head) l).sweep q true

/-- The oldest segments that need no further HBM access (they were in the backlog) join the head run (R259). -/
def State.joinBacklog : Nat → State → Nat → State
  | 0, s, _ => s
  | n + 1, s, q =>
    let x := s.queue q
    match x.mid with
    | g :: r => if g.slot.isNone && g.refill then State.joinBacklog n ((s.setQueue q { x with mid := r }).joinHead q g.cells) q else s
    | [] => s

/-- Marks the oldest segment that is not yet being moved (R259). -/
def markRefill : List Seg → List Seg
  | [] => []
  | g :: r => if g.refill then g :: markRefill r else { g with refill := true } :: r

/-- R259: a move of the oldest segment of the middle is due: the head run holds head_keep less 16 cells or fewer (the
head_keep in force, R274), and fewer than two moves are outstanding. -/
def Queue.refillDue (x : Queue) : Bool :=
  x.head.length + 16 ≤ x.keep && (x.mid.filter (fun g => g.refill)).length < 2 && x.mid.any (fun g => !g.refill)

/-- R259: moves the oldest segment of the middle toward the head run, where that is due. -/
def State.refillOnce (s : State) (q : Nat) : State :=
  let x := s.queue q
  if x.refillDue then
    let inBacklog := ((x.mid.find? (fun g => !g.refill)).map (fun g => g.slot.isNone)).getD false
    let t := { s with buf.backlog := if inBacklog then s.buf.backlog.erase q else s.buf.backlog }
    let u := State.joinBacklog (x.mid.length) (t.setQueue q { x with mid := markRefill x.mid }) q
    (u.endSpill q).count 711 6 0 0 (b2n inBacklog)
  else s

/-- R259: moves segments of the middle while they are due. -/
def State.issueRefills : Nat → State → Nat → State
  | 0, s, _ => s
  | n + 1, s, q =>
    if (s.queue q).refillDue then State.issueRefills n (s.refillOnce q) q else s

/-- R267: a refill stall begins when the head run of a spilling queue is empty while a refill is outstanding. -/
def State.noteStall (s : State) (q : Nat) : State :=
  let x := s.queue q
  let now := x.spilling && x.head.isEmpty && x.mid.any (fun g => g.refill && g.slot.isSome)
  if now && !x.stalled then (s.setQueue q { x with stalled := true, stall := true }).bump 711 7
  else if !now && x.stalled then s.setQueue q { x with stalled := false } else s

/-! ### Segments in HBM (R457, R460) -/

/-- A pseudo-channel. -/
def State.pcOf (s : State) (p : Nat) : Pc := s.hbm.pcs.getD p {}

/-- A channel: pseudo-channels 2c and 2c + 1 (R454). -/
def State.hbmChan (s : State) (c : Nat) : HbmChan := s.hbm.chans.getD c {}
def State.setHbmChan (s : State) (c : Nat) (x : HbmChan) : State := { s with hbm.chans := s.hbm.chans.set c x }
def State.stack (s : State) (k : Nat) : Stack := s.hbm.stackRecs.getD k {}
def State.setStack (s : State) (k : Nat) (x : Stack) : State := { s with hbm.stackRecs := s.hbm.stackRecs.set k x }

/-- The controller issues nothing to a pseudo-channel: its stack is in self-refresh or left it less than 1,000 ns ago (R475),
its channel trains or replays (R480, R489), or it is retired (R491). -/
def State.pcWaits (s : State) (p : Nat) : Bool :=
  (s.stack (p / 32)).selfRefresh || (s.stack (p / 32)).exitAt.any (fun t => s.time.ticks < t + 750) ||
    (s.hbmChan (p / 2)).training.isSome || (s.hbmChan (p / 2)).replay.isSome || (s.pcOf p).state == 2

/-- Pseudo-channels that are retired. -/
def State.retiredPcs (s : State) : Nat := ((List.range 128).filter (fun p => (s.pcOf p).state == 2)).length

/-- R492: the spill budget in Mb/s. -/
def State.spillBudget (s : State) : Nat := if s.retiredPcs ≤ 8 then 14400000 else 14400000 * (128 - s.retiredPcs) / 120

/-- The rate in Mb/s of a meter of the packet memory: accesses of CP0, CP2 and CP5 (R465), segments written (8) and read (9)
(R263, R492). -/
def State.meterRate (s : State) (k : Nat) : Nat :=
  if k == 5 then 1000 * s.hbm.evacGbps else if 8 ≤ k then s.spillBudget else 14400000

/-- What one unit of a meter takes, in 1/750 bit: an access of 256 bits, or a segment of 32,768. -/
def meterCost (k : Nat) : Nat := if 8 ≤ k then 24576000 else 192000

/-- What a meter holds now, in 1/750 bit: at 1 Mb/s it gains one in a tick. Accesses keep what one tick gives and what does not
make an access; segments keep one for each pseudo-channel (DESIGN CHOICE: the spec does not say over which time a rate is held). -/
def State.meterNow (s : State) (k : Nat) : Nat :=
  let cap := if 8 ≤ k then 128 * meterCost k else s.meterRate k + meterCost k
  match s.hbm.meters.get? k with
  | none => cap
  | some (t, n) => min cap (n + s.meterRate k * (s.time.ticks - t))

/-- The rate of a meter allows one more unit. -/
def State.meterOk (s : State) (k : Nat) : Bool := meterCost k ≤ s.meterNow k

/-- Takes one unit from a meter. -/
def State.meterTake (s : State) (k : Nat) : State :=
  { s with hbm.meters := s.hbm.meters.set k (s.time.ticks, s.meterNow k - meterCost k) }

/-- R465: the ports whose accesses have a limited rate. -/
def meteredPort (port : Nat) : Bool := port == 0 || port == 2 || port == 5

/-- The slots of a pseudo-channel that withheld rows take from the allocator (R458, R496): row r of bank b holds one
quarter of slot 8r + 2(b mod 4) + b ÷ 16. -/
def withheldSlots (x : Pc) : List Nat := x.withheld.map (fun e => 8 * e.2 + 2 * (e.1 % 4) + e.1 / 16)

/-- The segment is granted, waiting to be freed after relocation, or lies in a withheld row. -/
def State.segTaken (s : State) (seg : Nat) : Bool :=
  (s.hbm.segs.get? seg).isSome || s.hbm.oldSegs.contains seg || (withheldSlots (s.pcOf (seg % 128))).contains (seg / 128) ||
    (s.pcOf (seg % 128)).area.contains (seg / 128)

/-- Free spill slots of a pseudo-channel (Table 12-6); a retired one has none (R262). -/
def State.freeSlots (s : State) (p : Nat) : Nat :=
  if (s.pcOf p).state == 2 then 0
  else 130560 - ((s.hbm.segs.filter (fun e => e.1 % 128 == p)).length + (s.hbm.oldSegs.filter (fun x => x % 128 == p)).length +
    ((withheldSlots (s.pcOf p)).filter (fun n => n < 130560 && !(s.pcOf p).area.contains n && !(s.hbm.segs.get? (128 * n + p)).isSome)).eraseDups.length +
      (s.pcOf p).area.length)

/-- Free spill segments of the device (R271, Table 07-13). -/
def State.freeSegs (s : State) : Nat := ((List.range 128).map s.freeSlots).sum

/-- The lowest free slot of a pseudo-channel, looking at `fuel` slots from `n`. -/
def State.freeSlot (s : State) (p : Nat) : Nat → Nat → Option Nat
  | 0, _ => none
  | fuel + 1, n => if 130560 ≤ n then none else if s.segTaken (128 * n + p) then s.freeSlot p fuel (n + 1) else some n

/-- R460: grants a segment for a queue from the next pseudo-channel in rotation that is in service and has a free slot;
of its free slots, the lowest (log 13). -/
def State.grantSeg (s : State) (q : Nat) : Option (Nat × State) :=
  match ((List.range 128).map (fun i => (s.hbm.rot + i) % 128)).find? (fun p => (s.pcOf p).state == 0 && 0 < s.freeSlots p) with
  | none => none
  | some p =>
    match s.freeSlot p (s.hbm.segs.length + s.hbm.oldSegs.length + (s.pcOf p).withheld.length + (s.pcOf p).area.length + 1) 0 with
    | none => none
    | some n => some (128 * n + p, { s with hbm.segs := s.hbm.segs.set (128 * n + p) q, hbm.rot := (p + 1) % 128 })

/-- Table 07-12: event 0x0685 when the free spill segments fall below 5 %, again only after they have exceeded 10 %. -/
def State.noteSegLow (s : State) : State :=
  let f := s.freeSegs
  if !s.buf.segLow && f * 20 < 16711680 then { s with buf.segLow := true }.raise 0x0685 (d4 f)
  else if s.buf.segLow && 16711680 < f * 10 then { s with buf.segLow := false } else s

/-- Frees segments. -/
def State.freeSegList (s : State) (l : List Nat) : State :=
  (l.foldl (fun (a : State) g => { a with hbm.segs := a.hbm.segs.del g, hbm.words := a.hbm.words.del g }) s).noteSegLow

/-- Frees segments of a queue unread, with the cells of those that wait in the backlog. -/
def State.freeMiddle (s : State) (q : Nat) (l : List Seg) : State :=
  let n := (l.filter (fun g => g.slot.isNone && !g.refill)).length
  let t := { s with buf.backlog := (List.range n).foldl (fun (b : List Nat) _ => b.erase q) s.buf.backlog }
  (t.freeCellList (l.flatMap (fun g => g.cells))).freeSegList (l.filterMap (fun g => g.slot))

/-- A queue without a packet keeps no middle: what is left there are cells of packets that were dropped (DESIGN CHOICE: they are
freed unread, as R284 and R291 free segments). -/
def State.clearMiddle (s : State) (q : Nat) : State :=
  let x := s.queue q
  if x.pkts.isEmpty && !x.mid.isEmpty then (s.setQueue q { x with mid := [] }).freeMiddle q x.mid else s

/-- After any change of a queue's runs: refills that are due (R259), the end of spilling (R260) and the stall flag (R267). -/
def State.settleQueue (s : State) (q : Nat) : State :=
  let a := s.clearMiddle q
  let t := State.issueRefills ((a.queue q).mid.length + 1) (a.endSpill q) q
  let u := t.noteStall q
  u.observe q (fun z => { z with maxLen := Nat.max z.maxLen (u.queue q).len })

/-! ### Release and drop -/

/-- Counts a rejected release with event 0x0882; sources 0 command, 1 data plane, 2 queue. -/
def State.rejectRelease (s : State) (h owner reason source : Nat) : State :=
  (s.bump 908 11 (if source == 2 then reason + 3 else reason)).raiseLim 0x0882 0
    (fun n => d4 h ++ d4 owner ++ d4 reason ++ d4 source ++ d4 n)

/-- What a release of a shared packet comes to: rejected, accepted while others still own it, or by its last owner. -/
inductive Hold where
  | rejected | kept | last
deriving DecidableEq, Repr

/-- R354, R355, R362, R363: a queue gives up its hold of a shared packet. -/
def State.dropShare (s : State) (rec q : Nat) : Hold × State :=
  match s.buf.shared.get? rec with
  | none => (.rejected, s.rejectRelease rec q 1 2)
  | some r =>
    if !r.owners.contains q then (.rejected, s.rejectRelease rec q 2 2)
    else
      let o := r.owners.erase q
      if o.isEmpty then (.last, { s with buf.shared := s.buf.shared.del rec })
      else (.kept, { s with buf.shared := s.buf.shared.set rec { r with owners := o } })

/-- A packet leaves its queue: its cells on die are released, by the last owner where they are shared (R256, R362, R363); those in
the middle leave with their segments. -/
def State.leave (s : State) (q pid : Nat) : State :=
  let x := s.queue q
  match x.pkts.find? (fun p => p.pid == pid) with
  | none => s
  | some p =>
    let r := x.pkts.filter (fun z => z.pid != pid)
    let h := match p.shared with | some k => s.dropShare k q | none => (.last, s)
    let t := h.2.setQueue q { x with
      pkts := r, extra := x.extra - p.extra, emptyAt := if r.isEmpty then s.time.ticks else x.emptyAt }
    (t.partAdd q 0 (if h.1 == .last then p.extra else 0)).sweep q (h.1 != .rejected)

/-- The head packet of a queue leaves it. -/
def State.popHead (s : State) (q : Nat) : State :=
  match (s.queue q).pkts with
  | [] => s
  | p :: _ => (s.leave q p.pid).settleQueue q

/-- R256, R258: the scheduler dequeues the cells of the head packet that its head run holds, and goes on while the backlog brings
more; true when it has the whole packet. -/
def State.gather : Nat → State → Nat → Bool × State
  | 0, s, _ => (false, s)
  | n + 1, s, q =>
    let x := s.queue q
    match x.pkts with
    | [] => (false, s)
    | p :: _ =>
      let got := x.head.takeWhile (fun c => c.pid == p.pid)
      let y := { x with out := x.out ++ got, head := x.head.drop got.length }
      if p.cells ≤ y.out.length then (true, s.setQueue q y)
      else if got.isEmpty then (false, s)
      else State.gather n ((s.setQueue q y).settleQueue q) q

/-- Counts a packet dropped by a queue: under its code, and in the drop pair when admission or aging dropped it (R287). -/
def State.countDrop (s : State) (q code len : Nat) (pair : Bool) (tsReq : Option Nat) (port : Nat) : State :=
  let t := if code == 0x40 then s.bump 711 2 else s.bump 711 1 (code - 0x30)
  let u := if pair then (t.pairAdd (3145728 + q) len).observe q (fun z => { z with dropped := z.dropped + 1 }) else t
  u.tsDropped port tsReq

/-- Drops the head packet of a queue under a code. -/
def State.dropHead (s : State) (q code : Nat) : State :=
  match (s.queue q).pkts with
  | [] => s
  | p :: _ => (s.popHead q).countDrop q code p.frameLen (code == 0x40) p.tsReq p.port

/-- Drops one packet of a queue under a code, its runs not yet settled. -/
def State.dropPkt (s : State) (q code : Nat) (p : QPkt) : State :=
  (s.leave q p.pid).countDrop q code p.frameLen (code == 0x40) p.tsReq p.port

/-- R281: the packet has reached the age limit of its queue. -/
def State.expired (s : State) (q : Nat) (p : QPkt) : Bool :=
  (((s.queue q).ageUs * 1000 : Nat) : Int) ≤ s.t32.diff p.entry

/-- R284: frees at the front of the middle, unread, the segments that hold nothing but cells of packets that have left: their
newest packet had expired. A segment that is already on its way is read. -/
def State.dropDeadSegs : Nat → State → Nat → State
  | 0, s, _ => s
  | n + 1, s, q =>
    let x := s.queue q
    match x.mid with
    | g :: r =>
      if g.refill || g.cells.any x.live then s
      else State.dropDeadSegs n ((s.setQueue q { x with mid := r }).freeMiddle q [g]) q
    | [] => s

/-- R282-R284: drops expired packets from the head of a queue until one has not expired. -/
def State.ageQueue : Nat → State → Nat → State
  | 0, s, _ => s
  | n + 1, s, q =>
    match (s.queue q).pkts with
    | p :: _ => if s.expired q p then State.ageQueue n (s.dropPkt q 0x40 p) q else s
    | [] => s

/-- R283, R284: removes every expired packet at the head of a queue, and the segments that then hold none. -/
def State.ageHead (s : State) (q : Nat) : State :=
  let t := State.ageQueue (s.queue q).pkts.length s q
  (State.dropDeadSegs (t.queue q).mid.length t q).settleQueue q

/-- R291, R415: removes every packet of a queue at once, counting them under a code; its segments are freed unread. -/
def State.flushQueue (s : State) (q : Nat) (count : QPkt → State → State) : State :=
  let x := s.queue q
  if x.pkts.isEmpty && x.mid.isEmpty then s
  else
    let t := x.pkts.foldl (fun (a : State) p => count p (a.leave q p.pid)) s
    (t.clearMiddle q).updQueue q (fun y => { y with spilling := false, stalled := false })

/-- QUEUE_FLUSH (R291): code 0x38. -/
def State.flush38 (s : State) (q : Nat) : State :=
  s.flushQueue q (fun p a => a.countDrop q 0x38 p.frameLen false p.tsReq p.port)

/-- The queues that hold anything. -/
def State.busyQueues (s : State) : List Nat :=
  (s.buf.queues.filter (fun e => !e.2.pkts.isEmpty || !e.2.mid.isEmpty)).map Prod.fst

/-- R670: every VOQ and every egress queue is empty. -/
def State.queuesEmpty (s : State) : Bool := s.buf.queues.all (fun e => e.2.pkts.isEmpty)

/-! ### Admission (Table 07-4) -/

/-- The cells, and the cells in use, of the partition of a queue. -/
def State.partOf (s : State) (q : Nat) : Nat × Nat :=
  if isVoq q then (s.buf.voqCells, s.buf.voqUsed) else (s.buf.egressCells, s.buf.egressUsed)

/-- The sum of min_cells over the queues of the partition of a kind, with some profiles or queues changed. -/
def State.minSum (s : State) (voq : Bool) : Nat :=
  let l := s.buf.queues.filter (fun e => isVoq e.1 == voq)
  (l.map (fun e => (s.admProf e.2.adm).minCells)).sum + (262144 - l.length) * (s.admProf 0).minCells

/-- R271: the shared free cells of the partition of a queue, with the min_cells in force (R274): 0 in a queue to which nothing
has been offered. -/
def State.sharedFree (s : State) (q : Nat) : Int :=
  let l := s.buf.queues.filter (fun e => isVoq e.1 == isVoq q)
  (((s.partOf q).1 : Nat) : Int) - ((l.map (fun e => e.2.minNow)).sum : Nat) -
    ((l.map (fun e => e.2.die - e.2.minNow)).sum : Nat)

/-- R274: the settings of a queue take effect at an admission to it. -/
def State.adoptSettings (s : State) (q : Nat) : State :=
  let f := s.profOf q
  s.updQueue q (fun x => { x with keep := f.headKeep, minNow := f.minCells })

/-- R274: a min_cells that a command has lowered is in force at once. -/
def State.lowerMins (s : State) : State :=
  { s with buf.queues := s.buf.queues.map (fun e => (e.1, { e.2 with minNow := Nat.min e.2.minNow (s.admProf e.2.adm).minCells })) }

/-- R276: the average of a queue that was empty for `m` units of 1,024 ns. -/
def avgIdle (avg w m : Nat) : Nat := avg * (2 ^ w - 1) ^ m / 2 ^ (w * m)

/-- R275: the average takes in the queue length `l` in cells; both in 1/256 cell, fractions below 1/256 not held. -/
def avgStep (avg w l : Nat) : Nat := (((avg : Nat) : Int) + ((l * 256 : Nat) - (avg : Nat) : Int) / ((2 ^ w : Nat) : Int)).toNat

/-- R277: the random value acts on the packet of a curve. -/
def wredHits (c : Curve) (avg r : Nat) : Bool :=
  if avg < c.minTh * 256 then false
  else if c.maxTh * 256 ≤ avg then true
  else r * ((c.maxTh - c.minTh) * 256) < c.maxP * (avg - c.minTh * 256)

def Wred.curve (w : Wred) (colour : Nat) : Curve := if colour == 0 then w.green else if colour == 1 then w.yellow else w.red

/-- R271: alpha(c) × a is exceeded by u. -/
def alphaBelow (c : Nat) (u a : Int) : Bool := if c == 0 then 0 < u else (2 ^ c : Nat) * a < u * 256

/-- What admission decides of a packet: its drop code, or its CE mark. -/
structure Verdict where
  st : State
  code : Option Nat
  ce : Bool

/-- R275-R278: brings the average of the queue up to date and draws for the packet's colour. -/
def State.wredCheck (s : State) (q : Nat) (p : QPkt) : Verdict :=
  let x := s.queue q
  let w := s.wredProf x.wred
  let idle := if x.pkts.isEmpty then avgIdle x.avg w.w (min 1023 ((s.time.ticks - x.emptyAt) * 4 / 3 / 1024)) else x.avg
  let avg := avgStep idle w.w x.len
  let t := s.setQueue q { x with avg := avg }
  let c := w.curve p.colour
  if c.enable then
    let n := t.tbl.freeIx
    let u := { t with tbl.freeIx := n + 1 }
    if wredHits c avg (Config.wredRandom n).toNat then
      if !c.mark then ⟨u, some 0x34, false⟩ else if p.ecn == 0 then ⟨u, some 0x35, false⟩ else ⟨u, none, true⟩
    else ⟨u, none, false⟩
  else ⟨t, none, false⟩

/-- R270: the checks of Table 07-4 in order for `n` cells, of which `store` take new cells of the partition. -/
def State.admitCheck (s : State) (q n store : Nat) (p : QPkt) : Verdict :=
  let v := (s.adoptSettings q).wredCheck q p
  let t := v.st
  let x := t.queue q
  let f := t.profOf q
  let part := t.partOf q
  let u : Int := ((x.die + n : Nat) : Int) - (f.minCells : Nat)
  let code : Option Nat :=
    if !x.enabled then some 0x38
    else if Nat.min (part.1 - part.2) t.storeFree < store then some 0x30
    else if f.maxCells < x.len + n then some 0x31
    else if v.code.isSome then v.code
    else if 0 < u && alphaBelow f.alphaDie u (t.sharedFree q) then some 0x32
    else if x.spilling && (f.alphaHbm == 0 || 2 ^ f.alphaHbm * t.freeSegs ≤ x.segments * 256) then some 0x33
    else if x.spilling && t.buf.backlogMax ≤ 16 * t.buf.backlog.length then some 0x36
    else none
  { v with code := code }

/-- Counts a packet that admission refuses, with events 0x0681 and 0x0682 (Table 07-12). -/
def State.refuse (s : State) (q code : Nat) (p : QPkt) : State :=
  let t := (s.countDrop q code p.frameLen true p.tsReq p.port).perfCount 1 0x21 (if isVoq q then 0 else 2) 2
  if code == 0x30 then t.raiseLim 0x0681 0 (fun _ => d4 (if isVoq q then 0 else 2))
  else if code == 0x36 then t.raiseLim 0x0682 0 (fun _ => d4 (16 * s.buf.backlog.length)) else t

/-- The cells of a packet as a chain. -/
def chainOf (pid : Nat) (l : List Nat) : List QCell := (numbered 0 l).map (fun e => ⟨pid, e.1, some e.2⟩)

/-- Puts an admitted packet at the end of its queue in the given cells: spill start (R257, R258), counters (R287). -/
def State.enqueue (s : State) (q : Nat) (l : List Nat) (p : QPkt) : State :=
  let x := s.queue q
  let f := s.profOf q
  let c := chainOf p.pid l
  let y := { x with pkts := x.pkts ++ [{ p with queue := q }], extra := x.extra + p.extra }
  let z := if y.spilling then { y with tail := y.tail ++ c } else { y with head := y.head ++ c }
  let w := if !z.spilling && f.spillEn && f.spillOn ≤ z.die then
      { z with spilling := true, head := z.head.take f.headKeep, tail := z.head.drop f.headKeep }
    else z
  let t := (s.setQueue q { w with watermark := Nat.max w.watermark w.len }).linkRun (if y.spilling then y.tail else y.out ++ y.head) c
  let u := if w.spilling then t.formSegs q else t
  ((((u.settleQueue q).pairAdd (2621440 + q) p.frameLen).bump 711 0).count 711 3 0 0 (b2n p.ce)).perfCount 1 0x21
    (if isVoq q then 0 else 2) 1

/-- Admits a packet into new cells of the queue's partition, with the cells it is charged besides (R269); the cells. -/
def State.enqueueNew (s : State) (q : Nat) (p : QPkt) : List Nat × State :=
  let r := s.takeCells q p.cells
  (r.1, (r.2.partAdd q p.extra 0).enqueue q r.1 p)

/-- R268-R278: admission of a packet to a queue. The packet is marked CE where WRED marks it. -/
def State.takeIn (s : State) (q : Nat) (p : QPkt) : State :=
  let n := p.cells + p.extra
  let v := s.admitCheck q n n p
  match v.code with
  | some c => v.st.refuse q c p
  | none => (v.st.enqueueNew q { p with ce := p.ce || v.ce }).2

end Sys2Proof.Machine
end

