-- ==== Sys2Proof/Machine/Pools.lean ====
section
/-! DEFINITION. The buffer pool manager (09_buffer_pools.md): pools and pages, charges, owner sets, and the commands of
class 0x08. -/
namespace Sys2Proof.Machine
open Sys2Proof

/-! ### Pools, channels and allocation (R339-R351) -/

/-- Table 09-1: buffer size and buffers per page of a pool. -/
def poolSize (p : Nat) : Nat := [256, 1024, 4096, 10240, 65536].getD p 0
def poolPerPage (p : Nat) : Nat := [256, 64, 16, 6, 1].getD p 0

/-- The buffers of a pool. -/
def State.poolCount (s : State) (p : Nat) : Nat := s.pool.pages.getD p 0 * poolPerPage p

def State.poolBuf (s : State) (p i : Nat) : PoolBuf := s.pool.bufs.getD (65536 * p + i) {}
def State.setPoolBuf (s : State) (p i : Nat) (b : PoolBuf) : State :=
  { s with pool.bufs := s.pool.bufs.set (65536 * p + i) b }

/-- The allocated buffers of a pool, and its free ones. -/
def State.poolUsed (s : State) (p : Nat) : Nat :=
  (s.pool.bufs.filter (fun e => e.1 / 65536 == p && e.2.state == 1)).length
def State.poolFree (s : State) (p : Nat) : Nat := s.poolCount p - s.poolUsed p

/-- The pool settings of a channel; CH0-CH3 are always privileged (R344). -/
def State.chanPool (s : State) (c : Nat) : ChanPool :=
  let x := s.pool.chans.getD c {}
  if c < 4 then { x with privileged := true } else x

/-- Channel c as an owner (R344). -/
def ownerOf (c : Nat) : Nat := 0x80000 + c

/-- R346: the free buffers of a pool that the minimums of ordinary channels hold back. -/
def State.poolRu (s : State) (p : Nat) : Nat :=
  ((s.pool.chans.filter (fun e => 4 ≤ e.1 && !e.2.privileged)).map
    (fun e => e.2.mins.getD p 0 - e.2.charged.getD p 0)).sum

/-- Table 09-9: event 0x0883 when free - ru falls below 5 % of a pool's buffers, again only after it has exceeded 10 %. -/
def State.notePoolLow (s : State) (p : Nat) : State :=
  let n := s.poolCount p
  let x := s.poolFree p - s.poolRu p
  if x * 20 < n && !s.pool.lowRaised.contains p then
    { s with pool.lowRaised := p :: s.pool.lowRaised }.raise 0x0883 (d4 p)
  else if n < x * 10 then { s with pool.lowRaised := s.pool.lowRaised.filter (fun q => q != p) } else s

/-- R346: the channel may take a buffer of the pool now. -/
def State.poolAllows (s : State) (c p : Nat) : Bool :=
  let x := s.chanPool c
  let ch := x.charged.getD p 0
  (!x.privileged && ch < x.mins.getD p 0) ||
    ((x.privileged || ch < x.maxs.getD p 0) && s.poolRu p + 1 ≤ s.poolFree p)

/-- The lowest free buffer of a pool, looking at `fuel` of them from `i` (log 13). -/
def State.freeBuf (s : State) (p : Nat) : Nat → Nat → Option Nat
  | 0, _ => none
  | fuel + 1, i =>
    if s.poolCount p ≤ i then none else if (s.poolBuf p i).state == 1 then s.freeBuf p fuel (i + 1) else some i

/-- The charges of a channel change in one pool; its highest total follows (Table 09-8). -/
def State.chargeAdd (s : State) (c p take free : Nat) : State :=
  let x := s.pool.chans.getD c {}
  let l := setAt x.charged p (x.charged.getD p 0 + take - free)
  { s with pool.chans := s.pool.chans.set c { x with charged := l, high := Nat.max x.high l.sum } }

/-- Table 09-2. -/
def handleOf (gen p i : Nat) : Nat := gen * 16777216 + p * 65536 + i

/-- R346 take, R351: a buffer of the pool for the channel, with its content; the handle. The settings of the channel take effect
here (R349). -/
def State.poolTake (s : State) (c p : Nat) (data : Bytes) : Option (Nat × State) :=
  match s.freeBuf p (s.poolUsed p + 1) 0 with
  | none => none
  | some i =>
    let g := (s.poolBuf p i).gen
    let f := s.chanPool c
    let b : PoolBuf := { gen := g, charge := c, owners := [ownerOf c], state := 1, data, retainMs := f.retainMs }
    let t := (s.setPoolBuf p i b).chargeAdd c p 1 0
    let u := { t with
      pool.low := t.pool.low.set p (Nat.min (t.pool.low.getD p (t.poolCount p)) (t.poolFree p))
      pool.chans := t.pool.chans.upd c {} (fun x => { x with strictNow := f.strict }) }
    some (handleOf g p i, (u.bump 908 3 p).notePoolLow p)

/-- R341, R342: tries a pool and then the next larger ones, `n` further pools at most. -/
def State.poolTry (s : State) (c first : Nat) (data : Bytes) : Nat → Nat → Option (Nat × State)
  | 0, _ => none
  | n + 1, p =>
    if 4 < p then none
    else if s.poolAllows c p then (if p == first then s else s.bump 908 5 p).poolTake c p data
    else s.poolTry c first data n (p + 1)

/-- R341: the smallest pool that holds `n` bytes. -/
def poolFor (n : Nat) : Nat := ((List.range 5).find? (fun p => n ≤ poolSize p)).getD 4

/-- An allocation for a channel; a failure is counted under alloc_fail of the smallest pool that fits. -/
def State.poolAlloc (s : State) (c : Nat) (data : Bytes) : Option Nat × State :=
  let p := poolFor (Nat.max 1 data.length)
  match s.poolTry c p data ((s.chanPool c).upsize + 1) p with
  | some (h, t) => (some h, t)
  | none => (none, s.bump 908 4 p)

/-- R350: drops a frame of a channel for want of a buffer, with event 0x0881. -/
def State.drop3B (s : State) (c p : Nat) : State :=
  (s.bump 908 9 c).raiseLim 0x0881 0 (fun _ => d4 p ++ d4 c)

/-! ### Owner sets (R352-R358) -/

/-- The pool, index and generation that a handle names, where such a buffer exists (Table 09-2). -/
def State.handle (s : State) (h : Nat) : Option (Nat × Nat × Nat) :=
  let p := field h 18 16
  let i := h % 65536
  if field h 23 19 == 0 && p < 5 && i < s.poolCount p && h < 4294967296 then some (p, i, field h 31 24) else none

/-- The buffer of a handle while its generation is current and it is allocated. -/
def State.liveBuf (s : State) (h : Nat) : Option PoolBuf :=
  match s.handle h with
  | some (p, i, g) => let b := s.poolBuf p i; if b.gen == g && b.state == 1 then some b else none
  | none => none

/-- The owner owns the buffer of a handle. -/
def State.owns (s : State) (h owner : Nat) : Bool := ((s.liveBuf h).map (fun b => b.owners.contains owner)).getD false

/-- The content of a live buffer. -/
def State.bufData (s : State) (h : Nat) : Bytes := ((s.liveBuf h).map (fun b => b.data)).getD []

/-- R355: why a release is rejected: 0 stale generation, 1 buffer free, 2 owner not in the set. -/
def rejectReason (b : PoolBuf) (g owner : Nat) : Option Nat :=
  if b.gen != g then some 0 else if b.state != 1 then some 1 else if !b.owners.contains owner then some 2 else none

/-- R354, R355: a release; true when it is accepted. -/
def State.release (s : State) (h owner source : Nat) : Bool × State :=
  match s.handle h with
  | none => (false, s)
  | some (p, i, g) =>
    let b := s.poolBuf p i
    match rejectReason b g owner with
    | some r => (false, s.rejectRelease h owner r source)
    | none =>
      let o := b.owners.erase owner
      if o.isEmpty then
        (true, ((s.setPoolBuf p i { gen := (b.gen + 1) % 256 }).chargeAdd b.charge p 0 1).notePoolLow p)
      else (true, s.setPoolBuf p i { b with owners := o })

/-- R352, R353: one new owner of a share: its outcome and handle. The strict setting of the requester is the one in force since
its last allocation (R349); that of the new owner is read now, since it decides an allocation for it (DEDUCED). A copy whose
read finds lost data is dropped with code 0x3C (R365); the owner's outcome is then NO_RESOURCE (DESIGN CHOICE). -/
def State.shareOne (s : State) (h req owner : Nat) : Nat × Nat × State :=
  match s.handle h, s.liveBuf h with
  | some (p, i, _), some b =>
    if b.owners.contains owner then (stExists, 0, s)
    else if b.owners.length == 8 || (s.chanPool (req % 64)).strictNow || (s.chanPool (owner % 64)).strict then
      if b.lost then (stNoResource, 0, s.bump 908 10)
      else match s.poolAlloc (owner % 64) b.data with
      | (some k, t) => (stOk, k, t.bump 908 6 (field k 18 16))
      | (none, t) => (stNoResource, 0, t)
    else (stOk, h, s.setPoolBuf p i { b with owners := b.owners ++ [owner] })
  | _, _ => (stNotOwner, 0, s)

/-- R352: the new owners in list order, with their outcomes. -/
def State.shareAll (s : State) (h req : Nat) : List Nat → List (Nat × Nat) × State
  | [] => ([], s)
  | o :: r =>
    let x := s.shareOne h req o
    let y := State.shareAll x.2.2 h req r
    ((x.1, x.2.1) :: y.1, y.2)

/-- R359: a channel owner. -/
def isOwner (o : Nat) : Bool := inRange o 0x80000 0x8003F

/-! ### Commands of class 0x08 (Table 09-6) -/

/-- POOL_CARVE_SET (R340). Generations stay with the pool and index. -/
def poolCarveSetSpec : CmdSpec :=
  { opcode := 0x0801, long := fun b => 8 ≤ b.length, clean := fun b => rsv b 5 3
    mode := fun _ s => if s.mode.mode == mdConfigure then 0 else stWrongMode }

def cmdPoolCarveSet (c : Cmd) (s : State) : Res :=
  gate poolCarveSetSpec (fun c s =>
    let l := (List.range 5).map (fun p => byteAt c.payload p)
    if l.sum != 128 then Res.err s stBadParam
    else if s.pool.bufs.any (fun e => e.2.state == 1) then Res.err s stBusy
    else
      let t := { s with pool.pages := l, pool.low := [] }
      { st := (List.range 5).foldl (fun (a : State) p => a.notePoolLow p) t }) c s

def execPoolCarveSet (c : Cmd) (s : State) : Out := serve c cmdPoolCarveSet s

/-- CHANNEL_POOL_SET (R348, R349, Table 09-7). Minimums and maximums are ignored when the channel is privileged. -/
def channelPoolSetSpec : CmdSpec :=
  { opcode := 0x0802, long := fun b => 28 ≤ b.length, clean := fun b => flagsIn b 1 3 && rsv b 3 1 && rsv b 6 2 }

def cmdChannelPoolSet (c : Cmd) (s : State) : Res :=
  gate channelPoolSetSpec (fun c s =>
    let b := c.payload
    let ch := byteAt b 0
    let fl := byteAt b 1
    let priv := bit fl 0
    let mins := (List.range 5).map (fun p => le b (8 + 4 * p) 2)
    let maxs := (List.range 5).map (fun p => le b (10 + 4 * p) 2)
    if !inRange ch 4 63 then Res.err s stNotFound
    else if 4 < byteAt b 2 || !inRange (le b 4 2) 1 60000 || (bit fl 2 && (s.hif.channels.getD ch {}).inject) ||
        (!priv && (List.range 5).any (fun p => maxs.getD p 0 < mins.getD p 0 || 32768 < maxs.getD p 0)) then
      Res.err s stBadParam
    else
      let old := s.pool.chans.getD ch {}
      let oldMin (p : Nat) : Nat := if old.privileged then 0 else old.mins.getD p 0
      let others (p : Nat) : Nat :=
        ((s.pool.chans.filter (fun e => e.1 != ch && 4 ≤ e.1 && !e.2.privileged)).map (fun e => e.2.mins.getD p 0)).sum
      if !priv && (List.range 5).any (fun p =>
          oldMin p < mins.getD p 0 &&
            (s.poolCount p < 2 * (others p + mins.getD p 0) || s.poolFree p - s.poolRu p < mins.getD p 0 - oldMin p)) then
        Res.err s stNoResource
      else
        let x := { old with
          privileged := priv, strict := bit fl 1, retain := bit fl 2, upsize := byteAt b 2, retainMs := le b 4 2
          mins := if priv then old.mins else mins, maxs := if priv then old.maxs else maxs }
        let t := { s with pool.chans := s.pool.chans.set ch x }
        { st := (List.range 5).foldl (fun (a : State) p => a.notePoolLow p) t }) c s

def execChannelPoolSet (c : Cmd) (s : State) : Out := serve c cmdChannelPoolSet s

/-- BUF_SHARE (R352, R353, R359). -/
def bufShareSpec : CmdSpec :=
  { opcode := 0x0803, long := fun b => 12 + 4 * byteAt b 8 ≤ b.length, clean := fun b => rsv b 9 3
    size := fun b => 8 * byteAt b 8 }

def cmdBufShare (c : Cmd) (s : State) : Res :=
  gate bufShareSpec (fun c s =>
    let b := c.payload
    let h := le b 0 4
    let req := le b 4 4
    let n := byteAt b 8
    let owners := (List.range n).map (fun i => le b (12 + 4 * i) 4)
    if !inRange n 1 7 || (s.handle h).isNone || !isOwner req || !owners.all isOwner then Res.err s stBadParam
    else if !s.owns h req then Res.err s stNotOwner
    else
      let r := s.shareAll h req owners
      let done := (r.1.filter (fun e => e.1 == stOk)).length
      { st := r.2, keep := true
        status := if done == n then stOk else if done == 0 then ((r.1.head?).map Prod.fst).getD stOk else stPartial
        result := r.1.flatMap (fun e => toLe 1 e.1 ++ zeros 3 ++ toLe 4 e.2), applied := done
        failIndex := (r.1.findIdx? (fun e => e.1 != stOk)).getD 0xFFFFFFFF }) c s

def execBufShare (c : Cmd) (s : State) : Out := serve c cmdBufShare s

/-- Applies the entries of a BUF_RELEASE, each on its own. -/
def State.releaseAll (s : State) : List (Nat × Nat) → List Bool × State
  | [] => ([], s)
  | (h, o) :: r =>
    let x := s.release h o 0
    let y := State.releaseAll x.2 r
    (x.1 :: y.1, y.2)

/-- BUF_RELEASE (R354, R355). -/
def bufReleaseSpec : CmdSpec :=
  { opcode := 0x0804, long := fun b => 4 + 8 * le b 0 2 ≤ b.length, clean := fun b => rsv b 2 2
    size := fun b => le b 0 2 }

def cmdBufRelease (c : Cmd) (s : State) : Res :=
  gate bufReleaseSpec (fun c s =>
    let b := c.payload
    let n := le b 0 2
    let es := (List.range n).map (fun i => (le b (4 + 8 * i) 4, le b (8 + 8 * i) 4))
    if !inRange n 1 256 || es.any (fun e => (s.handle e.1).isNone || !isOwner e.2) then Res.err s stBadParam
    else
      let r := s.releaseAll es
      let done := (r.1.filter id).length
      { st := r.2, keep := true, status := if done == n then stOk else if done == 0 then stNotOwner else stPartial
        result := r.1.flatMap (fun ok => toLe 1 (if ok then stOk else stNotOwner)), applied := done
        failIndex := (r.1.findIdx? (fun ok => !ok)).getD 0xFFFFFFFF }) c s

def execBufRelease (c : Cmd) (s : State) : Out := serve c cmdBufRelease s

/-- The control record of a buffer as a 256-bit value, least significant byte first (Table 09-3). -/
def poolRecord (b : PoolBuf) : Bytes :=
  toLe 32 (b.gen * 2 ^ 248 + b.charge * 2 ^ 242 + b.owners.length * 2 ^ 238 + b.state * 2 ^ 236 +
    b.data.length * 2 ^ 219 + b.owners.foldr (fun o a => a * 2 ^ 20 + o % 2 ^ 20) 0)

/-- BUF_INFO (R355): the record of a buffer, whatever the generation of the handle. -/
def bufInfoSpec : CmdSpec := { opcode := 0x0805, long := fun b => 4 ≤ b.length, size := fun _ => 32, reads := true }

def cmdBufInfo (c : Cmd) (s : State) : Res :=
  gate bufInfoSpec (fun c s =>
    match s.handle (le c.payload 0 4) with
    | some (p, i, _) => { st := s, result := poolRecord (s.poolBuf p i) }
    | none => Res.err s stNotFound) c s

def execBufInfo (c : Cmd) (s : State) : Out := serve c cmdBufInfo s

/-- BUF_CELL_SHARE_SET (R360). -/
def bufCellShareSetSpec : CmdSpec := { opcode := 0x0806, long := fun b => 4 ≤ b.length, clean := fun b => rsv b 1 3 }

def cmdBufCellShareSet (c : Cmd) (s : State) : Res :=
  gate bufCellShareSetSpec (fun c s =>
    if 1 < byteAt c.payload 0 then Res.err s stBadParam
    else { st := { s with buf.shareOn := byteAt c.payload 0 == 1 } }) c s

def execBufCellShareSet (c : Cmd) (s : State) : Out := serve c cmdBufCellShareSet s

/-- Names of Table 09-8 with the numbers of their values. -/
def poolDims : List (Nat × Nat) :=
  [(5, 1), (5, 1), (5, 1), (5, 1), (5, 1), (5, 1), (5, 1), (64, 5), (64, 1), (64, 1), (1, 1), (6, 1), (64, 1), (1, 1), (1, 1),
    (1, 1), (1, 1)]

/-- Values of Table 09-8 that are current totals, highest or lowest counts. -/
def State.poolCurrent (s : State) (n i j : Nat) : Option Nat :=
  if n == 0 then some (s.poolCount i)
  else if n == 1 then some (s.poolFree i)
  else if n == 2 then some (s.pool.low.getD i (s.poolCount i))
  else if n == 7 then some ((s.chanPool i).charged.getD j 0)
  else if n == 8 then some (s.chanPool i).high
  else if n == 15 then some s.buf.shared.length
  else none

/-- POOL_STATUS_GET (R745, Table 09-8). -/
def poolStatusGetSpec : CmdSpec := { opcode := 0x0807, size := fun _ => snapSize poolDims, reads := true }

def cmdPoolStatusGet (c : Cmd) (s : State) : Res :=
  gate poolStatusGetSpec (fun _ s =>
    { st := { s with
        pool.low := (List.range 5).map (fun p => (p, s.poolFree p))
        pool.chans := s.pool.chans.map (fun e => (e.1, { e.2 with high := e.2.charged.sum })) }
      result := s.snap 908 poolDims s.poolCurrent }) c s

def execPoolStatusGet (c : Cmd) (s : State) : Out := serve c cmdPoolStatusGet s

/-! ### Events -/

/-- RETAIN_EXPIRY (R358): the channel still owns the buffer retain_ms after its DMA completed. -/
def execRetainExpiry (handle : Nat) (s : State) : Out :=
  if !s.aux.pllLocked then .next s
  else match s.handle handle, s.liveBuf handle with
  | some (p, i, _), some b =>
    match b.dmaDone, b.owners.contains (ownerOf b.charge) with
    | some t, true =>
      if s.ended t (ms b.retainMs) then
        let r := (s.setPoolBuf p i { b with dmaDone := none }).release handle (ownerOf b.charge) 1
        done s ((r.2.bump 908 12 b.charge).raiseLim 0x0884 0 (fun n => d4 b.charge ++ d4 n))
      else .next s
    | _, _ => .next s
  | _, _ => .next s

end Sys2Proof.Machine
end

