-- ==== Sys2Proof/Machine/TelOps.lean ====
section
/-! DEFINITION. The telemetry channel (R710-R714) and the sample ring (R709): records, blocks and losses. -/
namespace Sys2Proof.Machine
open Sys2Proof

/-- R713: `l` records of types 1, 2 and 3 are lost; the first loss in a 1 s window raises event 0x1183 with the losses of
the window before. -/
def State.telLost (s : State) (l : List Nat) : State :=
  let key (k : Nat) : Nat := 0x1183 * 16777216 + k
  let get (k : Nat) : Nat := ((s.hif.limits.get? (key k)).map Prod.snd).getD 0
  let t := (numbered 0 l).foldl (fun (a : State) e => a.count 1809 1 e.1 0 e.2) s
  let u := { t with tel.lost := t.tel.lost + l.sum }
  let put (v : State) (k n : Nat) : State := { v with hif.limits := v.hif.limits.set (key k) (s.time.ticks, n) }
  let fresh := match s.hif.limits.get? (key 0) with | none => true | some (start, _) => s.ended start (secs 1)
  if l.sum == 0 then s
  else if fresh then
    let w := (numbered 1 l).foldl (fun (a : State) e => put a e.1 e.2) (put u 0 1)
    w.raise 0x1183 (d4 (get 1) ++ d4 (get 2) ++ d4 (get 3))
  else (numbered 1 l).foldl (fun (a : State) e => put a e.1 (get e.1 + e.2)) u

/-- How many records of types 1, 2 and 3 stand in a list. -/
def countTypes (l : List TelRec) : List Nat := [1, 2, 3].map (fun k => (l.filter (fun r => r.type == k)).length)

/-- A record as it lies in a block: the header of Table 18-6 and the body. -/
def TelRec.encode (r : TelRec) : Bytes := toLe 1 r.type ++ toLe 1 (r.body.length / 8) ++ zeros 2 ++ toLe 4 r.t32.toNat ++ r.body

/-- The bytes of a block (Table 18-5). -/
def blockBytes (seq lost fdi : Nat) (l : List TelRec) : Bytes :=
  let body := l.flatMap TelRec.encode
  toLe 2 1 ++ toLe 2 l.length ++ toLe 4 seq ++ toLe 4 (min 4294967295 lost) ++
    toLe 4 ((l.head?.map (fun r => r.t32.toNat)).getD 0) ++ toLe 2 (32 + body.length) ++ toLe 1 fdi ++ zeros 13 ++ body

/-- R711, R712: closes the open block, which then waits at the telemetry channel. -/
def State.closeBlock (s : State) : State :=
  match s.tel.blockBuf with
  | none => s
  | some h =>
    let c := s.tel.channel
    let bytes := blockBytes s.tel.blockSeq s.tel.lost s.fab.fdi s.tel.block
    let t := match s.handle h with
      | some (p, i, _) => s.setPoolBuf p i { s.poolBuf p i with data := bytes }
      | none => s
    let x := t.hif.channels.getD c {}
    { t with
      hif.channels := t.hif.channels.set c { x with
        held := x.held ++ [{ handle := h, bytes, telemetry := some (s.tel.lost :: countTypes s.tel.block) }] }
      tel.block := [], tel.blockBuf := none, tel.lost := 0, tel.blockSeq := (s.tel.blockSeq + 1) % 4294967296 }

/-- R710: opens a block in a pool-2 buffer charged to the telemetry channel. -/
def State.openBlock (s : State) : Option State :=
  if s.tel.channel == 0 then none
  else if s.poolAllows s.tel.channel 2 then
    (s.poolTake s.tel.channel 2 []).map (fun x =>
      { x.2 with tel.blockBuf := some x.1, tel.block := [], tel.blockAt := s.time.ticks })
  else none

/-- R711, R713: a record enters the telemetry channel (true), or is lost where no block buffer can be had. -/
def State.telPut (s : State) (r : TelRec) : Bool × State :=
  let room := 32 + ((s.tel.block ++ [r]).flatMap TelRec.encode).length ≤ 4096
  let t := if s.tel.blockBuf.isSome && !room then s.closeBlock else s
  let u := if t.tel.blockBuf.isSome then some t else t.openBlock
  match u with
  | some v => (true, { v with tel.block := v.tel.block ++ [r] })
  | none => (false, t.telLost (countTypes [r]))

def State.telRecord (s : State) (r : TelRec) : State := (s.telPut r).2

/-- The records of the sample ring go into the channel while one is named (R709, R710). -/
def State.drainRing (s : State) : State :=
  if s.tel.channel == 0 then s
  else s.tel.ring.foldl (fun (a : State) r => a.telRecord r) { s with tel.ring := [] }

/-- R709: a precise sample enters the sample ring, which drops it when it holds 4,096. -/
def State.psample (s : State) (body : Bytes) : State :=
  if 4096 ≤ s.tel.ring.length then (s.bump 1809 5).raiseLim 0x1182 0 (fun n => d4 n)
  else
    let t : State := { s with tel.ring := s.tel.ring ++ [{ type := 3, t32 := s.t32, body := body }] }
    (t.bump 1809 4).drainRing

/-! ### Windows of the sample sets and histograms (R331-R336, R509, R705, R706) -/

/-- The queues of a sample set that hold cells, at the start of a window. -/
def State.windowStats (s : State) (x : SampleSet) : Tbl QStat :=
  (s.buf.queues.filter (fun e => x.first ≤ e.1 && e.1 < x.first + x.count && e.2.len != 0)).map (fun e => (e.1, { maxLen := e.2.len }))

/-- R334: the queues of a sample set at the end of a window. -/
def State.windowRows (s : State) (x : SampleSet) : Tbl QSample :=
  (s.buf.queues.filter (fun e => x.first ≤ e.1 && e.1 < x.first + x.count)).map (fun e =>
    (e.1, { stat := x.stats.getD e.1 {}, len := e.2.len, spilling := e.2.spilling }))

/-- R331, R336, R509: a set whose first window begins at this tick begins; one whose window has ended keeps that window to be
written and opens the next. A window not written by then is missed, and so are those that a step crossed whole. -/
def State.rollSamples (s : State) (k : Nat) (x : SampleSet) : State :=
  let span := x.intervalUs * 1000
  let put (a : State) (y : SampleSet) : State := { a with sched.samples := a.sched.samples.set k y }
  if !x.enable || span == 0 then s
  else if !x.begun then
    if s.t32.reached x.start then put s { x with begun := true, stats := s.windowStats x } else s
  else if !s.t32.reached (x.start + BitVec.ofNat 32 span) then s
  else
    let n := (s.t32 - x.start).toNat / span
    let missed := b2n x.ended.isSome + (n - 1)
    let a := put s { x with
      start := x.start + BitVec.ofNat 32 (n * span), stats := s.windowStats x, skipped := 2 ≤ n
      ended := some { start := x.start, rows := s.windowRows x, skipped := x.skipped || x.ended.isSome } }
    (List.range missed).foldl (fun (z : State) _ => z.raiseLim 0x0784 k (fun h => d4 k ++ d4 h))
      (if missed == 0 then a else a.count 809 6 0 0 (missed * x.count))

/-- Table 18-7. -/
def Hist.body (x : Hist) (k : Nat) (b : HistBank) : Bytes :=
  toLe 1 k ++ toLe 1 x.source ++ toLe 1 x.shift ++ toLe 1 (b2n b.saturated + 2 * b2n b.skipped) ++ toLe 4 b.start.toNat ++
    toLe 4 b.max ++ toLe 4 (min 4294967295 b.total) ++ (List.range 32).flatMap (fun i => toLe 4 (b.bins.getD i 0))

/-- R706: the closed bank of a histogram is written as a record and cleared. -/
def State.writeHist (s : State) (k : Nat) : State :=
  let x := s.tel.hists.getD k {}
  match x.ended with
  | none => s
  | some b =>
    let a := (s.telRecord { type := 2, t32 := s.t32, body := x.body k b }).bump 1809 6
    { a with tel.hists := a.tel.hists.set k { x with ended := none } }

/-- R705: the values that wait for a later window enter the one that has opened, where it is theirs. -/
def Hist.absorb (h : Hist) : Hist := h.early.foldl (fun (a : Hist) e => a.put e.1 e.2) { h with early := [] }

/-- R705, R706, R509: the same of a histogram, which switches to its other bank of bins; a bank that waits to be written is written
first, so no value is lost. -/
def State.rollHist (s : State) (k : Nat) : State :=
  let x := s.tel.hists.getD k {}
  let span := x.intervalMs * 1000000
  if !x.enable || span == 0 then s
  else if !x.begun then
    if s.t32.reached x.start then { s with tel.hists := s.tel.hists.set k { x with begun := true }.absorb } else s
  else if !s.t32.reached (x.start + BitVec.ofNat 32 span) then s
  else
    let n := (s.t32 - x.start).toNat / span
    let a := s.writeHist k
    let y := { x with
      start := x.start + BitVec.ofNat 32 (n * span), bins := [], max := 0, total := 0, saturated := false, skipped := 2 ≤ n
      ended := some x.open_ }
    { a with tel.hists := a.tel.hists.set k y.absorb }

/-- R10: what the new T32 of a tick ends, before anything else is stamped with it. -/
def State.rollWindows (s : State) : State :=
  let a := s.sched.samples.foldl (fun (z : State) e => z.rollSamples e.1 e.2) s
  (a.tel.hists.map Prod.fst).foldl State.rollHist a

/-- The body of a precise sample (Table 18-4). -/
def psampleBody (kind unit : Nat) (fault : Bool) (code insn address stall packetId : Nat) (t : T32) : Bytes :=
  toLe 1 kind ++ toLe 1 unit ++ toLe 1 (b2n fault) ++ toLe 1 code ++ toLe 4 insn ++ toLe 4 address ++
    toLe 4 (min 4294967295 stall) ++ toLe 4 packetId ++ toLe 4 t.toNat ++ zeros 8

end Sys2Proof.Machine
end

