-- ==== Sys2Proof/Machine/HostIf.lean ====
section
/-! DEFINITION. The host interface (14_host_interface.md): rings and doorbells, channels, MSI-X moderation, PCIe errors
and resets, and the commands of classes 0x00 and 0x0D. Injection stands in Inject.lean, the fetch of commands in
Fetch.lean. -/
namespace Sys2Proof.Machine
open Sys2Proof

/-! ### Commands of class 0x00 (Table 14-15) -/

/-- NOP. -/
def nopSpec : CmdSpec := { opcode := 0x0001, tm := fun _ => true }

def cmdNop (c : Cmd) (s : State) : Res := gate nopSpec (fun _ s => { st := s }) c s

def execNop (c : Cmd) (s : State) : Out := serve c cmdNop s

/-- DEVICE_INFO_GET. -/
def deviceInfoGetSpec : CmdSpec := { opcode := 0x0002, size := fun _ => 32, tm := fun _ => true }

def cmdDeviceInfoGet (c : Cmd) (s : State) : Res :=
  gate deviceInfoGetSpec (fun _ s =>
    { st := s
      result := toLe 2 0x9640 ++ toLe 1 s.hif.revisionId ++ toLe 1 (if s.sec.gradeS then 0x53 else 0x4E) ++ toLe 1 s.fab.fdi ++
        toLe 1 s.hier.role ++ zeros 2 ++ toLe 4 s.fw.running.version ++ toLe 1 s.fw.running.svn ++ zeros 3 ++
        padTo 8 Config.dieFe ++ padTo 8 Config.dieTm }) c s

def execDeviceInfoGet (c : Cmd) (s : State) : Out := serve c cmdDeviceInfoGet s

/-- EVENT_MASK_SET (R553). -/
def eventMaskSetSpec : CmdSpec := { opcode := 0x0003, long := fun b => 4 ≤ b.length }

def cmdEventMaskSet (c : Cmd) (s : State) : Res :=
  gate eventMaskSetSpec (fun c s =>
    if 2 ^ 19 ≤ le c.payload 0 4 then Res.err s stBadParam
    else { st := { s with hif.evtMask := le c.payload 0 4 } }) c s

def execEventMaskSet (c : Cmd) (s : State) : Out := serve c cmdEventMaskSet s

/-- EVENT_MASK_GET (R553). -/
def eventMaskGetSpec : CmdSpec := { opcode := 0x0004, size := fun _ => 4 }

def cmdEventMaskGet (c : Cmd) (s : State) : Res :=
  gate eventMaskGetSpec (fun _ s => { st := s, result := toLe 4 s.hif.evtMask }) c s

def execEventMaskGet (c : Cmd) (s : State) : Out := serve c cmdEventMaskGet s

/-- ECHO. -/
def echoSpec : CmdSpec :=
  { opcode := 0x0005, long := fun b => 1 ≤ b.length && b.length ≤ 65536, size := fun b => b.length }

def cmdEcho (c : Cmd) (s : State) : Res := gate echoSpec (fun c s => { st := s, result := c.payload }) c s

def execEcho (c : Cmd) (s : State) : Out := serve c cmdEcho s

/-! ### Rings and doorbells (R537-R541, R550) -/

/-- The value a write gives to a 64-bit register, none when only its upper dword is written (R537), and the upper dword
held then. -/
def regValue (upper : Nat) : RegWrite → Option Nat × Nat
  | .full v => (some v.toNat, v.toNat / 4294967296)
  | .lower v => (some (upper * 4294967296 + v.toNat), upper)
  | .upper v => (none, v.toNat)

/-- R539: a value written to a ring base register; true when enable goes from 0 to 1. Reserved bits are ignored. -/
def Ring.write (r : Ring) (v : Nat) : Ring × Bool :=
  let addr := v / 4096 * 4096
  let en := bit v 4
  let sz := v % 16
  if r.enable && (addr != r.addr || sz != r.sizeCode) then (r, false)
  else if en && !r.enable then ({ r with addr := addr, sizeCode := sz, enable := true, dev := 0, host := 0 }, true)
  else ({ r with addr := addr, sizeCode := sz, enable := en }, false)

/-- Table 14-19: event 0x0D82 when the event ring next has room after records were lost. -/
def State.eventRoom (s : State) : State :=
  if s.hif.evtLost != 0 && s.hif.evtRing.enable && s.hif.evtRing.used < s.hif.evtRing.entries then
    s.writeEvent 0x0D82 s.fab.fdi s.t32 (d4 s.hif.evtLost)
  else s

/-- A write to HIF_CMD_RING_BASE (R539). Enabling lets fetching and command DMA go on again (R550, R574). -/
def State.writeCmdBase (s : State) (w : RegWrite) : State :=
  let x := regValue s.hif.cmdRing.upper w
  let r := { s.hif.cmdRing with upper := x.2 }
  match x.1 with
  | none => { s with hif.cmdRing := r }
  | some v =>
    let y := r.write v
    if y.2 then { s with hif.cmdRing := y.1, hif.fetchStopped := false, hif.dmaHeld := false }
    else { s with hif.cmdRing := y.1 }

/-- A write to HIF_EVT_RING_BASE (R539, R551). -/
def State.writeEvtBase (s : State) (w : RegWrite) : State :=
  let x := regValue s.hif.evtRing.upper w
  let r := { s.hif.evtRing with upper := x.2 }
  match x.1 with
  | none => { s with hif.evtRing := r }
  | some v =>
    let y := r.write v
    if y.2 then { s with hif.evtRing := y.1, hif.evtSeq := 0, hif.events := [] }.eventRoom
    else { s with hif.evtRing := y.1 }

/-- HIF_CMD_RING_BASE. A register answers while the link is up (R536). -/
def execHifCmdRingBase (w : RegWrite) (s : State) : Out := if s.hif.linkUp then done s (s.writeCmdBase w) else .next s

/-- HIF_EVT_RING_BASE. -/
def execHifEvtRingBase (w : RegWrite) (s : State) : Out := if s.hif.linkUp then done s (s.writeEvtBase w) else .next s

/-- Table 14-3: clears the W1C bits that the value names. -/
def State.writeHealth (s : State) (v : Nat) : State :=
  { s with hif.healthW1c := toBitmap ((bitmapOf s.hif.healthW1c 1).filter (fun i => i < 4 && !bit v i)) }

/-- HIF_HEALTH. -/
def execHifHealth (v : BitVec 32) (s : State) : Out := if s.hif.linkUp then done s (s.writeHealth v.toNat) else .next s

/-- Sets a W1C bit of HIF_HEALTH. -/
def State.setHealth (s : State) (b : Nat) : State := { s with hif.healthW1c := s.hif.healthW1c ||| 2 ^ b }

/-- R541: an ignored doorbell is counted and sets doorbell_ignored. -/
def State.doorbellIgnored (s : State) : State := (s.setHealth 0).bump 1418 12

/-- Doorbell kind 0 (R550). -/
def State.doorbellCmd (s : State) (channel rsv index : Nat) : State :=
  let r := s.hif.cmdRing
  if channel != 0 || rsv != 0 || !r.enable then s.doorbellIgnored
  else if r.entries < (index + 65536 - r.dev) % 65536 then
    ({ s with hif.fetchStopped := true }.setHealth 1).raise 0x0D81 (d4 r.dev ++ d4 (index % 65536))
  else { s with hif.cmdRing.host := index % 65536 }

/-- Doorbell kind 1: the consumer index; room in the ring may end an overflow (R556). -/
def State.doorbellEvt (s : State) (channel rsv index : Nat) : State :=
  let r := s.hif.evtRing
  if channel != 0 || rsv != 0 || !r.enable then s.doorbellIgnored
  else
    { s with
      hif.evtRing.host := index % 65536
      hif.events := s.hif.events.drop ((index + 65536 - r.host) % 65536) }.eventRoom

/-- COMMAND_PRODUCER_INDEX. -/
def execCommandProducerIndex (channel rsv index : Nat) (s : State) : Out :=
  if s.hif.linkUp then done s (s.doorbellCmd channel rsv index) else .next s

/-- EVENT_CONSUMER_INDEX. -/
def execEventConsumerIndex (channel rsv index : Nat) (s : State) : Out :=
  if s.hif.linkUp then done s (s.doorbellEvt channel rsv index) else .next s

/-! ### Channels -/

def State.chan (s : State) (c : Nat) : Chan := s.hif.channels.getD c {}
def State.setChan (s : State) (c : Nat) (x : Chan) : State := { s with hif.channels := s.hif.channels.set c x }

/-- Drops a frame of a channel with code 0x3D, 0x3E or 0x3F (Table 14-14). -/
def State.chanDrop (s : State) (c code : Nat) : State := s.bump 1418 (code - 0x34) c

/-- Drops a frame that lies in a pool buffer under a code; the records of a telemetry block are lost instead (R712, R713). -/
def State.dropHeld (s : State) (c code : Nat) (h : Held) : State :=
  let t := (s.release h.handle (ownerOf c) 1).2
  let u := match h.telemetry with
    | some (n :: l) => ({ t with tel.lost := t.tel.lost + n }.telLost l).bump 1809 3
    | _ => t
  if code == 0x3C then u.bump 908 10 else if h.telemetry.isSome then u else u.chanDrop c code

/-- R357: an inject channel releases the buffers that the descriptors of a dropped frame name and that it owns. -/
def State.freeHandles (s : State) (c : Nat) (l : List Posted) : State :=
  l.foldl (fun (a : State) p =>
    if p.desc.handle && a.owns p.desc.addr (ownerOf c) then (a.release p.desc.addr (ownerOf c) 1).2 else a) s

/-- R364, R365: the DMA in progress ends without a descriptor written; those reserved for its frame are free again (DESIGN
CHOICE, as R562 has it of a frame dropped before its DMA). -/
def State.cutReading (s : State) (c : Nat) : State :=
  let x := s.chan c
  s.setChan c { x with
    reading := none, taken := [], posted := x.taken ++ x.posted, dev := (x.dev + 65536 - x.taken.length) % 65536 }

/-- R573-R576: the channel is disabled and its frames are dropped with code 0x3F; the frame whose DMA is in progress too,
unless `finish`. -/
def State.chanOff (s : State) (c : Nat) (finish : Bool) : State :=
  let x := s.chan c
  let keep := finish && x.reading.isSome
  let t := s.setChan c { x with
    enabled := false, posted := [], held := [], headSince := none, sopSince := none
    reading := if keep then x.reading else none, taken := if keep then x.taken else [] }
  (x.held ++ (if keep then [] else x.reading.toList)).foldl (fun (a : State) h => a.dropHeld c 0x3F h) t

/-- R561: the descriptors a frame of `n` bytes needs, in ring order, where enough are posted. -/
def reserve (n : Nat) : List Posted → Option (List Posted × List Posted)
  | [] => if n == 0 then some ([], []) else none
  | p :: r =>
    if n ≤ p.desc.bufLen then some ([p], r)
    else (reserve (n - p.desc.bufLen) r).map (fun x => (p :: x.1, x.2))

/-- R561, R365: the frame at the head of a punt channel reserves its descriptors, or goes on waiting; a frame whose data is
lost is dropped with code 0x3C, and a telemetry block that finds too few descriptors at once (R712). -/
def State.puntHead (s : State) (c : Nat) : State :=
  let x := s.chan c
  match x.reading, x.held with
  | none, h :: r =>
    if ((s.liveBuf h.handle).map (fun b => b.lost)).getD false then
      (s.setChan c { x with held := r, headSince := none }).dropHeld c 0x3C h
    else match reserve h.bytes.length x.posted with
      | some (d, rest) =>
        s.setChan c { x with
          held := r, headSince := none, reading := some h, taken := d, posted := rest, dev := (x.dev + d.length) % 65536 }
      | none =>
        if h.telemetry.isSome then (s.setChan c { x with held := r, headSince := none }).dropHeld c 0x3F h
        else s.setChan c { x with headSince := some (x.headSince.getD s.time.ticks) }
  | _, _ => s

/-- PUNT_FRAME_AT_HEAD (R561-R563). -/
def execPuntFrameAtHead (channel : Nat) (s : State) : Out :=
  if 64 ≤ channel then .fault .noSuchUnit
  else if !s.aux.pllLocked then .next s
  else if (s.chan channel).enabled && !(s.chan channel).inject && (s.chan channel).headSince.isNone then
    done s (s.puntHead channel)
  else .next s

/-- PUNT_HOLD_EXPIRY (R562): the frame is dropped whole and takes no frame_seq. -/
def execPuntHoldExpiry (channel : Nat) (s : State) : Out :=
  if 64 ≤ channel then .fault .noSuchUnit
  else if !s.aux.pllLocked then .next s
  else
    let x := s.chan channel
    match x.headSince, x.held with
    | some t, h :: r =>
      if s.ended t (us x.holdUs) && x.reading.isNone then
        done s (((s.setChan channel { x with held := r, headSince := none }).dropHeld channel 0x3D h).raiseLim 0x0D83 channel
          (fun n => d4 channel ++ d4 n))
      else .next s
    | _, _ => .next s

/-- R7, Table 14-10: the 16 bytes of a descriptor, least significant byte first; as host software writes it, `wbLen`, the flags above
bit 2, `status` and `seq` are 0. -/
def descBytes (d : Desc) (sop eop : Bool) (wbLen : Nat) (ts error done_ : Bool) (status seq : Nat) : Bytes :=
  toLe 8 d.addr ++ toLe 2 d.bufLen ++ toLe 2 wbLen ++
    toLe 1 (b2n sop + 2 * b2n eop + 4 * b2n d.handle + 8 * b2n ts + 64 * b2n error + 128 * b2n done_) ++ toLe 1 status ++ toLe 2 seq

/-- R560: the bytes of a frame over its descriptors, every one but the last filled. -/
def fillDescs : Bytes → List Posted → List (Posted × Bytes)
  | _, [] => []
  | b, p :: r => (p, b.take p.desc.bufLen) :: fillDescs (b.drop p.desc.bufLen) r

/-- R564: the write-backs of a punted frame in the order they are written: descriptors 2 to k, then the first. -/
def puntBacks (c seq : Nat) (l : List (Posted × Bytes)) : List WriteBack :=
  let k := l.length
  let w := (numbered 0 l).map (fun e =>
    ({ channel := c, idx := e.2.1.idx, sop := e.1 == 0, eop := e.1 + 1 == k, wbLen := e.2.2.length, wbStatus := 0
       frameSeq := seq, error := false, ts := false, data := e.2.2
       bytes := descBytes e.2.1.desc (e.1 == 0) (e.1 + 1 == k) e.2.2.length false false true 0 seq } : WriteBack))
  w.drop 1 ++ w.take 1

/-- R572: a channel may take the link: what it moved before has taken its time at dma_gbps. -/
def State.mayMove (s : State) (x : Chan) : Bool := x.linkAt ≤ s.time.ticks

/-- R572: a transfer of `n` bytes takes 6n / dma_gbps ticks of the channel's share; the cap is held from one transfer to the next
(DESIGN CHOICE: the spec does not say over which time). -/
def State.moves (s : State) (x : Chan) (n : Nat) : Chan := { x with linkAt := s.time.ticks + ceilDiv (6 * n) x.dmaGbps }

/-- PUNT_DMA_COMPLETE (R357, R358, R365, R563, R564, R572): the write-backs, and the channel releases the buffer or retains it. -/
def execPuntDmaComplete (channel : Nat) (s : State) : Out :=
  if 64 ≤ channel then .fault .noSuchUnit
  else if !s.aux.pllLocked then .next s
  else
    let x := s.chan channel
    match x.reading with
    | none => .next s
    | some h =>
      if (s.liveBuf h.handle).any (fun b => b.lost) then done s ((s.cutReading channel).dropHeld channel 0x3C h)
      else if !s.mayMove x then .next s
      else
      let a := s.setChan channel { s.moves x h.bytes.length with reading := none, taken := [], frameSeq := (x.frameSeq + 1) % 65536 }
      let b := { a with hif.writeBacks := a.hif.writeBacks ++ puntBacks channel x.frameSeq (fillDescs h.bytes x.taken) }
      let d := if h.telemetry.isNone && bit (byteAt h.bytes 51) 0 && b.owns h.handle (ownerOf channel) then
          match b.handle h.handle with
          | some (p, i, _) => b.setPoolBuf p i { b.poolBuf p i with dmaDone := some s.time.ticks }
          | none => b
        else (b.release h.handle (ownerOf channel) 1).2
      let e := match h.telemetry with
        | some (_ :: l) => ((numbered 0 l).foldl (fun (a : State) (e : Nat × Nat) => a.count 1809 0 e.1 0 e.2) d).bump 1809 2
        | _ => d
      done s (((e.bump 1418 5 channel).count 1418 6 channel 0 h.bytes.length).signal x.vector 1)

/-- R565: the first inject frame of the posted descriptors, sop through eop, or what stands before a new sop; none while
its eop is not posted (R566). -/
def injectUnit : List Posted → List Posted → Option (List Posted × List Posted)
  | _, [] => none
  | acc, p :: r =>
    if p.desc.sop && !acc.isEmpty then some (acc, p :: r)
    else if p.desc.eop then some (acc ++ [p], r)
    else injectUnit (acc ++ [p]) r

/-- The descriptors after the last complete inject frame, looking at `n` frames. -/
def injectTail : Nat → List Posted → List Posted
  | 0, l => l
  | n + 1, l => match injectUnit [] l with | some (_, r) => injectTail n r | none => l

/-- Doorbell kind 2 (R540, R562, R566): posts the descriptors between the old and the new producer index. -/
def State.doorbellChan (s : State) (channel rsv index : Nat) (descs : List Desc) : State :=
  let x := s.chan channel
  if rsv != 0 || channel < 4 || !x.enabled then s.doorbellIgnored
  else if (index + 65536 - x.prod) % 65536 != descs.length then s
  else
    let l := x.posted ++ (numbered 0 descs).map (fun e => { idx := (x.prod + e.1) % 65536, desc := e.2 })
    let old := injectTail x.posted.length x.posted
    let new := injectTail l.length l
    let since := if new.isEmpty then none
      else if (old.head?.map (·.idx)) == (new.head?.map (·.idx)) then some (x.sopSince.getD s.time.ticks) else some s.time.ticks
    let t := s.setChan channel { x with
      posted := l, prod := index % 65536, sopSince := if x.inject then since else none }
    if !x.inject && x.headSince.isSome then t.puntHead channel else t

/-- CHANNEL_PRODUCER_INDEX. -/
def execChannelProducerIndex (channel rsv index : Nat) (descs : List Desc) (s : State) : Out :=
  if s.hif.linkUp then done s (s.doorbellChan channel rsv index descs) else .next s

/-- The write-backs of an inject frame (R567, R571). -/
def injectBacks (c seq status : Nat) (ts : Bool) (l : List Posted) : List WriteBack :=
  l.map (fun p =>
    { channel := c, idx := p.idx, sop := p.desc.sop, eop := p.desc.eop, wbLen := 0, wbStatus := status, frameSeq := seq
      error := status != 0, ts := ts, data := []
      bytes := descBytes p.desc p.desc.sop p.desc.eop 0 ts (status != 0) true status seq })

/-- The descriptors of an inject frame are done; the frame takes the next frame_seq. -/
def State.injectDone (s : State) (c status : Nat) (ts : Bool) (l : List Posted) : State :=
  let x := s.chan c
  let t := s.setChan c { x with frameSeq := (x.frameSeq + 1) % 65536, dev := (x.dev + l.length) % 65536 }
  { t with hif.writeBacks := t.hif.writeBacks ++ injectBacks c x.frameSeq status ts l }.signal x.vector 1

/-- INJECT_HOLD_EXPIRY (R566). -/
def execInjectHoldExpiry (channel : Nat) (s : State) : Out :=
  if 64 ≤ channel then .fault .noSuchUnit
  else if !s.aux.pllLocked then .next s
  else
    let x := s.chan channel
    match x.sopSince with
    | some t =>
      if x.inject && s.ended t (us x.holdUs) then
        let tail := injectTail x.posted.length x.posted
        let a := s.setChan channel { x with
          posted := x.posted.take (x.posted.length - tail.length), sopSince := none }
        done s (((a.injectDone channel 0x3E false tail).chanDrop channel 0x3E).freeHandles channel tail)
      else .next s
    | none => .next s

/-! ### Link errors and resets (R573-R575) -/

/-- Position of a PCIe error kind in the list of event 0x0D84 (R746). -/
def pcieErrCode : PcieErr → Nat
  | .completionTimeout => 0
  | .unsupported => 1
  | .poisoned => 2
  | .writeFailed => 3

/-- DMA_ERROR (R573). A failed write that belongs to no channel is neither a fetch nor a payload read: it only sets
dma_error. -/
def execDmaError (channel : Option Nat) (addr : Nat) (err : PcieErr) (s : State) : Out :=
  let t := (s.setHealth 3).bump 1418 13
  match channel with
  | none =>
    if err == .writeFailed then done s t
    else done s (({ t with hif.fetchStopped := true }.setHealth 1).raise 0x0D84 (d4o none ++ d8 addr ++ d4 (pcieErrCode err)))
  | some c =>
    if 64 ≤ c then .fault .noSuchUnit
    else
      let x := s.chan c
      let u := match injectUnit [] x.posted with
        | some (unit, _) => if x.inject && x.enabled then (t.chanDrop c 0x3F).freeHandles c unit else t
        | none => t
      done s ((u.chanOff c false).raise 0x0D84 (d4 c ++ d8 addr ++ d4 (pcieErrCode err)))

/-- R574, R575: every ring enable and channel enable is cleared, and no completion is written for the commands already
fetched. -/
def State.linkReset (s : State) : State :=
  let t : State := { s with
    hif.cmdRing.enable := false, hif.evtRing.enable := false, hif.dmaHeld := true
    hif.openCmds := s.hif.openCmds.map (fun o => { o with silent := true }) }
  ((t.hif.channels.map Prod.fst).foldl (fun (a : State) c => a.chanOff c false) t).bump 1418 14

/-- FUNCTION_LEVEL_RESET (R574). -/
def execFunctionLevelReset (s : State) : Out := done s s.linkReset

/-- PCIE_LINK_LOSS (R574): a hot reset or a loss of the link. -/
def execPcieLinkLoss (s : State) : Out :=
  let t := s.linkReset
  done s { t with hif.linkUp := false }

/-- BUS_MASTER_OFF (R574). -/
def execBusMasterOff (s : State) : Out := done s s.linkReset

/-- PCIE_LINK_UP (R534, R536): the endpoint has trained, so PERST_N is released; not in Standby. -/
def execPcieLinkUp (s : State) : Out :=
  if s.mode.mode == mdStandby then .next s else done s { s with hif.linkUp := true, aux.perst.low := false }

/-! ### Commands of class 0x0D (Table 14-16) -/

/-- DMA_CHANNEL_SET (R576, Table 14-17). -/
def dmaChannelSetSpec : CmdSpec := { opcode := 0x0D01, long := fun b => 16 ≤ b.length }

def cmdDmaChannelSet (c : Cmd) (s : State) : Res :=
  gate dmaChannelSetSpec (fun c s =>
    let b := c.payload
    let ch := byteAt b 0
    if !inRange ch 4 63 then Res.err s stNotFound
    else if 1 < byteAt b 1 || 9 < byteAt b 2 || !inRange (byteAt b 3) 4 63 || 10000 < le b 4 2 ||
        !inRange (le b 6 2) 1 200 || le b 8 8 % 4096 != 0 then Res.err s stBadParam
    else if (s.chan ch).enabled then Res.err s stBusy
    else { st := s.setChan ch { s.chan ch with
        configured := true, inject := byteAt b 1 == 1, sizeCode := byteAt b 2, vector := byteAt b 3, holdUs := le b 4 2
        dmaGbps := le b 6 2, ringBase := le b 8 8 } }) c s

def execDmaChannelSet (c : Cmd) (s : State) : Out := serve c cmdDmaChannelSet s

/-- DMA_CHANNEL_ENABLE (R576). A channel that was never set does not exist. -/
def dmaChannelEnableSpec : CmdSpec := { opcode := 0x0D02, long := fun b => 4 ≤ b.length, clean := fun b => rsv b 2 2 }

def cmdDmaChannelEnable (c : Cmd) (s : State) : Res :=
  gate dmaChannelEnableSpec (fun c s =>
    let ch := byteAt c.payload 0
    let en := byteAt c.payload 1
    let x := s.chan ch
    if !inRange ch 4 63 || !x.configured then Res.err s stNotFound
    else if 1 < en then Res.err s stBadParam
    else if en == 1 then
      { st := if x.enabled then s else s.setChan ch { x with enabled := true, prod := 0, dev := 0, posted := [] } }
    else { st := if x.enabled then s.chanOff ch true else s }) c s

def execDmaChannelEnable (c : Cmd) (s : State) : Out := serve c cmdDmaChannelEnable s

/-- DMA_CHANNEL_STATUS_GET. -/
def dmaChannelStatusGetSpec : CmdSpec :=
  { opcode := 0x0D03, long := fun b => 4 ≤ b.length, clean := fun b => rsv b 1 3, size := fun _ => 16, reads := true }

def cmdDmaChannelStatusGet (c : Cmd) (s : State) : Res :=
  gate dmaChannelStatusGetSpec (fun c s =>
    let ch := byteAt c.payload 0
    let x := s.chan ch
    if !inRange ch 4 63 then Res.err s stNotFound
    else
      { st := s
        result := toLe 1 (b2n x.enabled) ++ toLe 1 (b2n x.inject) ++ zeros 2 ++ toLe 2 x.prod ++ toLe 2 x.dev ++
          toLe 4 (x.held.length + b2n x.reading.isSome) ++ toLe 2 x.frameSeq ++ zeros 2 }) c s

def execDmaChannelStatusGet (c : Cmd) (s : State) : Out := serve c cmdDmaChannelStatusGet s

/-- MSIX_MODERATION_SET (R558). Items already waiting are held to the new threshold. -/
def msixModerationSetSpec : CmdSpec :=
  { opcode := 0x0D04, long := fun b => 8 ≤ b.length, clean := fun b => rsv b 1 1 && rsv b 6 2 }

def cmdMsixModerationSet (c : Cmd) (s : State) : Res :=
  gate msixModerationSetSpec (fun c s =>
    let b := c.payload
    let v := byteAt b 0
    if 63 < v || !inRange (le b 2 2) 1 256 || 1000 < le b 4 2 then Res.err s stBadParam
    else
      let x := { s.vec v with count := le b 2 2, timerUs := le b 4 2 }
      let t := s.setVec v x
      { st := if x.waiting != 0 && (x.count ≤ x.waiting || x.timerUs == 0) then t.sendMsix v else t }) c s

def execMsixModerationSet (c : Cmd) (s : State) : Out := serve c cmdMsixModerationSet s

/-- Names of Table 14-18 with the numbers of their values. -/
def hifDims : List (Nat × Nat) :=
  [(13, 1), (1, 1), (1, 1), (1, 1), (64, 1), (64, 1), (64, 1), (64, 1), (64, 1), (64, 1), (64, 1), (64, 1), (1, 1), (1, 1),
    (1, 1)]

/-- HIF_COUNTERS_GET (R745, Table 14-18). -/
def hifCountersGetSpec : CmdSpec := { opcode := 0x0D05, size := fun _ => snapSize hifDims, reads := true }

def cmdHifCountersGet (c : Cmd) (s : State) : Res :=
  gate hifCountersGetSpec (fun _ s => { st := s, result := s.snap 1418 hifDims }) c s

def execHifCountersGet (c : Cmd) (s : State) : Out := serve c cmdHifCountersGet s

/-- MSIX_TIMER (R558): the timer has run since the first unsignalled item of the vector. -/
def execMsixTimer (vector : Nat) (s : State) : Out :=
  if 64 ≤ vector then .fault .noSuchUnit
  else if (s.vec vector).waiting != 0 && s.ended (s.vec vector).since (us (s.vec vector).timerUs) then
    done s (s.sendMsix vector)
  else .next s

/-! ### Punting (R350, R560, R563, R575, R753) -/

/-- R753, R575: the channel is an enabled punt channel. -/
def State.puntOpen (s : State) (c : Nat) : Bool := c != 0 && (s.chan c).enabled && !(s.chan c).inject

/-- The punt header of Table 14-11. -/
def puntHeader (parse : Bytes) (rxT32 : T32) (handle iface cls : Nat) (retained byHit : Bool) (now : T32) : Bytes :=
  padTo 40 parse ++ toLe 4 rxT32.toNat ++ toLe 4 (if retained then handle else 0) ++ toLe 2 iface ++ toLe 1 cls ++
    toLe 1 (b2n retained + 2 * b2n byHit) ++ toLe 4 now.toNat ++ zeros 8

/-- Punts a frame (its bytes without FCS) to a channel: dropped with code 0x3F where the channel is not open, with 0x3B
where no buffer is to be had (R350). -/
def State.punt (s : State) (c : Nat) (parse : Bytes) (rxT32 : T32) (iface cls : Nat) (byHit : Bool) (frame : Bytes) :
    State :=
  if !s.puntOpen c then s.chanDrop c 0x3F
  else
    let retained := (s.chanPool c).retain
    let body := frame ++ fcsOf frame
    match s.poolAlloc c (puntHeader parse rxT32 0 iface cls retained byHit s.t32 ++ body) with
    | (none, t) => t.drop3B c (poolFor (64 + body.length))
    | (some h, t) =>
      let bytes := puntHeader parse rxT32 h iface cls retained byHit s.t32 ++ body
      let u := match t.handle h with
        | some (p, i, _) => t.setPoolBuf p i { t.poolBuf p i with data := bytes }
        | none => t
      u.setChan c { u.chan c with held := (u.chan c).held ++ [{ handle := h, bytes }] }

end Sys2Proof.Machine
end

