-- ==== Sys2Proof/Machine/ModeOps.lean ====
section
/-! DEFINITION. Operations that change the mode of the device (R661-R676), its degraded conditions, the entry into
Quarantine (R672, R673), the reset into Boot (R662), and the repair of SRAM rows with its map (R677-R689). -/
namespace Sys2Proof.Machine
open Sys2Proof

/-- Causes of event 0x1081 in the order of Table 17-12; 5 stands for a start from Boot, which that list does not name. -/
abbrev mcCommand : Nat := 0
abbrev mcHierarchy : Nat := 1
abbrev mcCondition : Nat := 2
abbrev mcQuarantine : Nat := 3
abbrev mcActivation : Nat := 4
abbrev mcStart : Nat := 5

/-- R476: brings every stack out of self-refresh. -/
def State.wakeStacks (s : State) : State :=
  (List.range 4).foldl (fun (a : State) k =>
    let x := a.stack k
    if x.closing then a.setStack k { x with closing := false }
    else if x.selfRefresh then
      (a.setStack k { x with selfRefresh := false, exitAt := some a.time.ticks, lastReq := a.time.ticks }).count 1207 9 k 0
        ((a.time.ticks - x.entryAt) / 750)
    else a) s

/-- R661: one transition: LPI and self-refresh end first (R67, R476), then the mode code, prev_mode and mode_changes
change together (R538), with event 0x1081; ports and modules follow the new mode (Table 17-2, R81). -/
def State.changeMode (s : State) (new target cause : Nat) : State :=
  let old := s.mode.mode
  let a := if new == mdForwarding || new == mdParked then s else s.endAllLpi
  let b := if old == mdParked then a.wakeStacks else a
  let c := { b with
    mode.prev := old, mode.mode := new, mode.changes := (b.mode.changes + 1) % 65536, mode.target := target
    mode.entered := b.t32, mode.drainSaid := false }
  let d := (c.bump 1711 0 new).raise 0x1081 (d4 old ++ d4 new ++ d4 target ++ d4 cause)
  if new == mdConfigure || new == mdQuarantine then d.modulesTx true
  else if old == mdConfigure && new != mdActivation then (d.modulesTx false).trainAll else d

/-- R663: the modes whose place Degraded takes while a condition stands. -/
def degradable (m : Nat) : Bool := m == mdBringUp || m == mdForwarding || m == mdParked || m == mdMaintenance

/-- R663, R665: a transition to a requested mode, decided by the standing conditions; in Degraded it sets the target. -/
def State.requestMode (s : State) (m cause : Nat) : State :=
  if s.mode.conds != 0 && degradable m then
    if s.mode.mode == mdDegraded then { s with mode.target := m } else s.changeMode mdDegraded m cause
  else s.changeMode m 0xFF cause

/-- R675, R664: a degraded condition arises. -/
def State.setCond (s : State) (b : Nat) : State :=
  if s.cond b then s
  else
    let t := { s with mode.conds := s.mode.conds + 2 ^ b }.raise 0x1083 (d4 b ++ d4 0)
    if degradable s.mode.mode then t.changeMode mdDegraded s.mode.mode mcCondition else t

/-- R675: a degraded condition clears; the device does not leave Degraded by itself (R665). -/
def State.clearCond (s : State) (b : Nat) : State :=
  if s.cond b then { s with mode.conds := s.mode.conds - 2 ^ b }.raise 0x1083 (d4 b ++ d4 1) else s

/-- Sets or clears a condition that follows from a count of units. -/
def State.fixCond (s : State) (b : Nat) (holds : Bool) : State := if holds then s.setCond b else s.clearCond b

/-- The last_cause code of a quarantine cause (Table 17-4). -/
def lastCauseOf (cause : Nat) : Nat := [0, 1, 2, 3, 5, 6, 7].getD cause 0

/-- R672: entry into Quarantine with the root PLL locked, causes 2 to 6; not from Standby, Recovery, Boot or Quarantine. -/
def State.quarantine (s : State) (cause : Nat) : State :=
  if s.mode.mode == mdStandby || s.mode.mode == mdRecovery || s.mode.mode == mdBoot || s.mode.mode == mdQuarantine then s
  else
    let a := { s with mode.cause := cause, time.ppsOut := false }.changeMode mdQuarantine 0xFF mcQuarantine
    let b := (List.range 96).foldl (fun (x : State) p => if (x.prt p).up then x.portDown p 6 else x) a
    let c := (b.modulesTx true).zeroAllKeys
    let d := c.busyQueues.foldl (fun (x : State) q => x.flush38 q) c
    { d with aux.lastCause := lastCauseOf cause }.raise 0x1084 (d4 cause)

/-- R36, R673: the steps of the aux block when the root PLL has lost lock: the drivers, the key store, the status block. -/
def State.pllSteps (s : State) : State :=
  let t : State := { s with
    time.ppsOut := false
    port.ports := s.port.ports.map (fun e => (e.1, { e.2 with up := false, conditions := false, upSince := none, downSince := none, lpi := false }))
    hier.linkUp := [], fab.lanes := s.fab.lanes.map (fun e => (e.1, { e.2 with trained := false, trainAt := none, lock := false }))
    fab.peers := s.fab.peers.map (fun e => (e.1, { e.2 with
      a := { e.2.a with usable := false, heard := false }, b := { e.2.b with usable := false, heard := false } }))
    aux.pllLocked := false, aux.lastCause := 1, aux.latched := s.aux.latched ||| 4 }
  t.zeroAllKeys

/-- R673: entry into Quarantine with cause 1, done by the aux block: no event, no flush, nothing counted. -/
def State.quarantinePll (s : State) : State :=
  { s with
    mode.prev := s.mode.mode, mode.mode := mdQuarantine, mode.changes := (s.mode.changes + 1) % 65536, mode.cause := 1
    mode.target := 0xFF, mode.entered := s.t32 }.pllSteps

/-- R662, R731, R754: both dies start again from their reset values, in Boot, whose entry drives FL_RESET_N low. What stays is outside them: the aux block, the flash, the
modules, the command queue, and the tick count of the model. -/
def State.resetDies (s : State) : State :=
  { State.reset with
    pending := s.pending
    time := { ticks := s.time.ticks }
    port := {
      mods := s.port.mods.map (fun e => (e.1, { mem := e.2.mem }))
      ledgerA := s.port.ledgerA, ledgerB := s.port.ledgerB, opSeconds := s.port.opSeconds }
    sec := { gradeS := s.sec.gradeS }
    fw := {
      recA := s.fw.recA, recB := s.fw.recB, imageRegion := s.fw.imageRegion, retainedRegion := s.fw.retainedRegion
      setA := s.fw.setA, setB := s.fw.setB, attA := s.fw.attA, attB := s.fw.attB, fuses := s.fw.fuses, lowIndex := s.fw.lowIndex
      tokens := s.fw.tokens, tokensAt := s.fw.tokensAt }
    mode := { mapA := s.mode.mapA, mapB := s.mode.mapB, held := s.mode.held || s.aux.railsOut }
    aux := { s.aux with
      pllLocked := false, alarm := false, alertThermN := true, alarmC := 100, cold := false, reported := false
      pllTryAt := none, flResetN := false, flResetAt := s.time.ticks } }

/-! ### A/B pairs and settings in flash (R623, R642-R646, R754) -/

/-- Copy B holds the highest committed sequence number. -/
def newerB {α : Type} (a b : Copy α) : Bool := b.committed && (!a.committed || a.seq < b.seq)

/-- The flash regions, offset and size in bytes, in the order of Table 16-3. -/
def flashRegions : List (Nat × Nat) :=
  [(0x0, 0x10000), (0x10000, 0x10000), (0x20000, 0x10000), (0x30000, 0x10000), (0x40000, 0x100000), (0x140000, 0x100000),
    (0x240000, 0x100000), (0x340000, 0x100000), (0x440000, 0x800000), (0xC40000, 0x800000), (0x1440000, 0x1000000),
    (0x2440000, 0x1000000)]

/-- The address of a 64 KiB sector of a region (R622). -/
def inRegion (row a : Nat) : Bool :=
  match flashRegions[row]? with
  | some r => r.1 ≤ a && a < r.1 + r.2 && a % 65536 == 0
  | none => false

/-- R623: what a reader of the pair uses. -/
def pairRead {α : Type} (a b : Copy α) : Option α :=
  if newerB a b then some b.body else if a.committed then some a.body else none

/-- R623: a write goes to copy B: copy A holds the highest committed sequence number. -/
def writesB {α : Type} (a b : Copy α) : Bool := a.committed && !newerB a b

/-- R623: the highest committed sequence number of a pair, 0 for none. -/
def pairSeq {α : Type} (a b : Copy α) : Nat :=
  Nat.max (if a.committed then a.seq else 0) (if b.committed then b.seq else 0)

/-- The next copy of a pair. -/
def nextCopy {α : Type} (a b : Copy α) (v : α) : Copy α := { seq := pairSeq a b + 1, committed := true, body := v }

/-- R623: a write of the pair. -/
def pairWrite {α : Type} (a b : Copy α) (v : α) : Copy α × Copy α :=
  if writesB a b then (a, nextCopy a b v) else (nextCopy a b v, b)

/-- The settings that firmware keeps (R577, R754, R107), in the schema of the running image. -/
def State.settingsNow (s : State) : Settings :=
  let bare (y : SecY) : SecY :=
    { suite := y.suite, enabled := y.enabled, validation := y.validation, includeSci := y.includeSci
      confidential := y.confidential, verify := y.verify, confOffset := y.confOffset, launchUs := y.launchUs
      txSci := y.txSci, pnWarn := y.pnWarn }
  { schema := s.fw.running.schema, groups := s.port.groups.map (fun e => (e.1, e.2.mode))
    ports := s.port.ports.map (fun e => (e.1, e.2.cfg, e.2.adminUp, e.2.rxDisabled))
    secys := s.sec.secys.map (fun e => (e.1, bare e.2))
    hier := [b2n s.hier.member, s.hier.systemId, s.hier.priority, s.hier.electionMs, s.hier.coordMs, s.hier.takeoverMs,
      s.hier.leaveMs, s.hier.relayS]
    role := s.hier.role }

/-- R623, R644: a settings write; while an image is pending it goes to the copy that the image reads. -/
def State.saveSettings (s : State) : State :=
  let a := s.fw.setA
  let b := s.fw.setB
  let v := s.settingsNow
  if if s.fw.pending then s.fw.setMine else writesB a b then { s with fw.setB := nextCopy a b v, fw.setMine := true }
  else { s with fw.setA := nextCopy a b v, fw.setMine := false }

/-- The boot record that a reader uses (R623). -/
def State.bootRec (s : State) : Option BootRec := (pairRead s.fw.recA s.fw.recB).bind id

/-- Commits a boot record. -/
def State.commitRec (s : State) (r : BootRec) : State :=
  let w := pairWrite s.fw.recA s.fw.recB (some r)
  { s with fw.recA := w.1, fw.recB := w.2 }

/-- last_fdi and last_system_id follow the device's FDI and system_id, where a record is committed (Table 16-4). -/
def State.noteIdentity (s : State) : State :=
  match s.bootRec with
  | some r =>
    if r.lastFdi == s.fab.fdi && r.lastSystem == s.hier.systemId then s
    else s.commitRec { r with lastFdi := s.fab.fdi, lastSystem := s.hier.systemId }
  | none => s

/-- Takes a hierarchy role and records it in the settings (R638). -/
def State.setRole (s : State) (role : Nat) : State :=
  if s.hier.role == role then s else { s with hier.role := role }.saveSettings

/-- R579: a member that enters Configure listens for election_window. -/
def State.startElection (s : State) : State :=
  if s.hier.member && s.hier.role == 0 then
    { s with hier.election := some (s.time.ticks, 1), hier.announced := [], hier.joining := none, hier.rejectedAt := none }
  else s

/-- Device operating hours. -/
def State.hours (s : State) : Nat := s.port.opSeconds / 3600

/-- R684, R689: records a replacement, retirement or withholding, and counts it by kind. -/
def State.record (s : State) (r : Repair) : State :=
  let t := s.bump 1711 4 (r.kind - 1)
  if t.mode.repairs.length < 65280 then
    { t with mode.repairs := t.mode.repairs ++ [r], mode.uncommitted := t.mode.uncommitted + 1 }
  else t.setCond 10

/-- R683: SRAM repairs made in the last 720 operating hours. -/
def State.sramRepairs (s : State) : Nat :=
  (s.mode.repairs.filter (fun r => (r.kind == 1 || r.kind == 2) && s.hours < r.hours + 720)).length

/-- R683: event 0x1089 once when the rate exceeds the alarm, again only after it has fallen below half of it. -/
def State.noteRate (s : State) : State :=
  let n := s.sramRepairs
  if s.mode.rateAlarm < n && !s.mode.rateRaised then
    { s with mode.rateRaised := true }.raise 0x1089 (d4 n ++ d4 s.mode.rateAlarm)
  else if s.mode.rateRaised && n * 2 < s.mode.rateAlarm then { s with mode.rateRaised := false } else s

def State.macro_ (s : State) (m : Nat) : Macro := s.mode.macros.getD m {}
def State.setMacro (s : State) (m : Nat) (x : Macro) : State := { s with mode.macros := s.mode.macros.set m x }

/-- R680, R682: the next spare row, else a spare column, else the row is withheld. -/
def State.sramSpare (s : State) (die m row col cause : Nat) : State :=
  let s := s.noteRate
  let x := s.macro_ m
  let rec_ (k i : Nat) : Repair := { kind := k, die, cause, unit := m, index := i, hours := s.hours }
  if x.rows < 8 then
    ((s.setMacro m { x with rows := x.rows + 1, filling := some row }).bump 1711 1 die).record (rec_ 1 row) |>.noteRate
  else if x.cols < 2 then
    ((s.setMacro m { x with cols := x.cols + 1 }).bump 1711 2 die).record (rec_ 2 col) |>.noteRate
  else
    (((s.setMacro m { x with withheld := x.withheld ++ [row] }).bump 1711 3).record (rec_ 3 row)).raise 0x1085
      (d4 die ++ d4 m ++ d4 row) |>.setCond 8

/-- R677, R678, R681: an error in a row of a macro. A row number of 65,536 + k names spare row k; an error in the spare that
is being filled consumes it and starts the next; an error in the row being replaced, or in a withheld row, only counts. -/
def State.sramRepair (s : State) (die m row col : Nat) (correctable : Bool) : State :=
  let x := s.macro_ m
  let cause := if correctable then 0 else 1
  match x.filling with
  | some r =>
    if row == 65535 + x.rows then s.sramSpare die m r col cause
    else if row == r || x.withheld.contains row then s else s.sramSpare die m row col cause
  | none => if x.withheld.contains row then s else s.sramSpare die m row col cause

/-- The parser and lookup pipeline conditions, and Quarantine below 8 (R160, R163, Table 17-4 cause 5). -/
def State.pipelineCheck (s : State) : State :=
  if s.parsersIn < 8 || s.lookupsIn < 8 then s.quarantine 5
  else (if s.parsersIn ≤ 15 then s.setCond 1 else s) |> fun t => if t.lookupsIn ≤ 15 then t.setCond 2 else t

end Sys2Proof.Machine
end

