-- ==== Sys2Proof/Machine/Ports.lean ====
section
/-! DEFINITION. Network ports (02_ports.md): group modes, port settings, link state, training, low-power idle and rate
fallback. -/
namespace Sys2Proof.Machine
open Sys2Proof

/-! ### Group modes and port settings -/

/-- R45: a port that exists in both modes runs its SecY with suite 0x1 or 0x2. -/
def State.suiteBars (s : State) (g newMode : Nat) : Bool :=
  ((modePorts g (s.grp g).mode).filter (fun p => (modePorts g newMode).contains p)).any (fun p =>
    match s.sec.secys.get? p with
    | some y => y.enabled && (y.suite == 1 || y.suite == 2)
    | none => false)

/-- The settings of a port whose mode no longer defines it: every setting of its own at its reset value, what it has counted
down and up as it was (R44). -/
def Port.discarded (x : Port) : Port :=
  { lastDown := x.lastDown, lastChange := x.lastChange, rxBuf := x.rxBuf, rxCross := x.rxCross, feQ := x.feQ }

/-- R44: the port settings of a group after a mode change: those of a port that the new mode does not define are discarded,
in every chapter whose commands name the port, and LPI is off where the mode is neither 0x5 nor 0x6. -/
def State.regroup (s : State) (g newMode : Nat) : State :=
  (modePorts g (s.grp g).mode).foldl (fun (a : State) p =>
    let x := a.prt p
    let y := { x with
      trained := [], training := [], attempts := 0, retryAt := none, conditions := false, upSince := none
      downSince := none, localFault := false, remoteFault := false }
    if (modePorts g newMode).contains p then
      a.setPrt p { y with cfg := if mode100G newMode then y.cfg else { y.cfg with lpiEn := false } }
    else
      { a.setPrt p y.discarded with sec.secys := a.sec.secys.del p, fab.credits := a.fab.credits.del p }) s

/-- The modules that serve lanes of a group. -/
def State.modulesOf (s : State) (g : Nat) : List Nat :=
  (s.port.mods.filter (fun e => (e.2.lanes.map (fun l => l.1 / 16 == g)).getD false)).map Prod.fst

/-- PORT_GROUP_SET_MODE (R42-R45, R106). -/
def portGroupSetModeSpec : CmdSpec :=
  { opcode := 0x0101, long := fun b => 2 ≤ b.length
    mode := fun _ s => if s.mode.mode == mdConfigure || s.mode.mode == mdBringUp || s.mode.mode == mdMaintenance then 0
      else stWrongMode }

def cmdPortGroupSetMode (c : Cmd) (s : State) : Res :=
  gate portGroupSetModeSpec (fun c s =>
    let g := byteAt c.payload 0
    let m := byteAt c.payload 1
    if 5 < g || 6 < m then Res.err s stBadParam
    else if (m == 1 || m == 2) && s.suiteBars g m then Res.err s stBadParam
    else
      let old := modePorts g (s.grp g).mode
      let a := old.foldl (fun (x : State) p => ((x.portDown p 4).clearTx p).zeroKeys p) s
      let b := a.regroup g m
      let d := b.setGrp g { b.grp g with mode := m, running := m, fbSince := none, lowWindows := 0 }
      let e := (s.modulesOf g).foldl (fun (x : State) k => x.activateModule k)
        ((modePorts g m).foldl (fun (x : State) p => x.retrainLost p) d)
      { st := (e.fixCond 6 (e.ports.any (fun p => !e.hasEngine p))).saveSettings }) c s

def execPortGroupSetMode (c : Cmd) (s : State) : Out := serve c cmdPortGroupSetMode s

/-- The address filter of a PORT_CONFIG payload (Table 02-6). -/
def filterOf (b : Bytes) : List Filt :=
  (List.range 8).map (fun i => { addr := be b (16 + 8 * i) 6, valid := bit (byteAt b (22 + 8 * i)) 0 })

/-- PORT_CONFIG (R66, R69, R97, R98). A port number outside its field's range is BAD_PARAM; of a port that does not exist the
status is NOT_FOUND, whatever the other fields hold (DESIGN CHOICE: the spec does not order the two). -/
def portConfigSpec : CmdSpec :=
  { opcode := 0x0102, long := fun b => 80 ≤ b.length
    clean := fun b => flagsIn b 1 6 && rsv b 14 2 &&
      (List.range 8).all (fun i => flagsIn b (22 + 8 * i) 1 && rsv b (23 + 8 * i) 1) }

def cmdPortConfig (c : Cmd) (s : State) : Res :=
  gate portConfigSpec (fun c s =>
    let b := c.payload
    let p := byteAt b 0
    let fl := byteAt b 1
    let lpi := bit fl 4
    if 95 < p then Res.err s stBadParam
    else if !s.portExists p then Res.err s stNotFound
    else if field fl 3 2 == 3 || !inRange (le b 2 2) 1518 9728 || 1000 < le b 4 2 || 1000 < le b 6 2 ||
        le b 12 2 == 0 || (lpi && (!mode100G (s.grp (p / 16)).mode || le b 8 2 < 4 || le b 10 2 < 4)) then
      Res.err s stBadParam
    else
      let x := s.prt p
      let t := s.setPrt p { x with cfg := {
        promisc := bit fl 0, bcast := bit fl 1, mclass := field fl 3 2, filter := filterOf b, lpiEn := lpi
        fbEn := bit fl 5, twTx := if lpi then le b 8 2 else x.cfg.twTx, twRx := if lpi then le b 10 2 else x.cfg.twRx
        lpiIdle := le b 12 2, maxFrame := le b 2 2, upHold := le b 4 2, downHold := le b 6 2 } }
      { st := (if lpi then t else t.endLpi p).saveSettings }) c s

def execPortConfig (c : Cmd) (s : State) : Out := serve c cmdPortConfig s

/-- PORT_ADMIN (R51, R77, R79, R748). -/
def portAdminSpec : CmdSpec := { opcode := 0x0103, long := fun b => 2 ≤ b.length, clean := fun b => flagsIn b 1 2 }

def cmdPortAdmin (c : Cmd) (s : State) : Res :=
  gate portAdminSpec (fun c s =>
    let p := byteAt c.payload 0
    let up := bit (byteAt c.payload 1) 0
    if !s.portExists p then Res.err s stNotFound
    else
      let t := s.updPrt p (fun x => { x with adminUp := up, rxDisabled := bit (byteAt c.payload 1) 1 })
      let u := if up then ((if (s.prt p).adminUp then t else t.retrainLost p)).startUpHold p
        else (t.portDown p 3).updPrt p (fun x => { x with retryAt := none })
      { st := u.saveSettings }) c s

def execPortAdmin (c : Cmd) (s : State) : Out := serve c cmdPortAdmin s

/-- The record of Table 02-9. -/
def State.portStatus (s : State) (p : Nat) : Bytes :=
  let x := s.prt p
  let g := s.grp (p / 16)
  toLe 1 p ++ toLe 1 (if x.up then 2 else if x.training.isEmpty then 0 else 1) ++
    toLe 1 (b2n x.adminUp + 2 * b2n x.rxDisabled) ++ toLe 1 x.lastDown ++ toLe 1 g.mode ++ toLe 1 g.running ++
    toLe 1 (b2n x.cfg.fbEn + 2 * b2n (g.running != g.mode) + 4 * b2n g.fbDisabled) ++
    toLe 1 (b2n x.localFault + 2 * b2n x.remoteFault) ++ toLe 4 x.lastChange.toNat ++ zeros 4

/-- PORT_STATUS_GET (R757). -/
def portStatusGetSpec : CmdSpec :=
  { opcode := 0x0104, long := fun b => 1 ≤ b.length, size := fun _ => 16, reads := true }

def cmdPortStatusGet (c : Cmd) (s : State) : Res :=
  gate portStatusGetSpec (fun c s =>
    if !s.portExists (byteAt c.payload 0) then Res.err s stNotFound
    else { st := s, result := s.portStatus (byteAt c.payload 0) }) c s

def execPortStatusGet (c : Cmd) (s : State) : Out := serve c cmdPortStatusGet s

/-- Numbers of values of the names of Table 02-7 for one port. -/
def portCounts : List Nat := [1, 1, 10, 1, 1, 1, 1, 1, 1, 8, 1, 1, 1, 1, 1]

/-- The counters of one port (R99); the time of an LPI interval in progress is included. -/
def State.portCounters (s : State) (p : Nat) : Bytes :=
  (numbered 0 portCounts).flatMap (fun e => (List.range e.2).flatMap (fun j =>
    toLe 8 ((s.ctrVal 207 e.1 p j) +
      (if e.1 == 13 && (s.prt p).lpi then (s.time.ticks - (s.prt p).lpiSince) / 750 else 0))))

/-- PORT_COUNTERS_GET (R99, R745). -/
def portCountersGetSpec : CmdSpec :=
  { opcode := 0x0105, long := fun b => 1 ≤ b.length, size := fun _ => 8 * portCounts.sum, reads := true }

def cmdPortCountersGet (c : Cmd) (s : State) : Res :=
  gate portCountersGetSpec (fun c s =>
    if !s.portExists (byteAt c.payload 0) then Res.err s stNotFound
    else { st := s, result := s.portCounters (byteAt c.payload 0) }) c s

def execPortCountersGet (c : Cmd) (s : State) : Out := serve c cmdPortCountersGet s

/-- PORT_RATE_RESTORE (R76). -/
def portRateRestoreSpec : CmdSpec :=
  { opcode := 0x010B, long := fun b => 2 ≤ b.length, clean := fun b => flagsIn b 1 1
    mode := fun _ s => if inRange s.mode.mode mdBringUp mdMaintenance || s.mode.mode == mdDegraded then 0
      else stWrongMode }

def cmdPortRateRestore (c : Cmd) (s : State) : Res :=
  gate portRateRestoreSpec (fun c s =>
    let g := byteAt c.payload 0
    let x := s.grp g
    if 5 < g || x.mode == 0 then Res.err s stNotFound
    else
      let t := if bit (byteAt c.payload 1) 0 then s.setGrp g { x with fbDisabled := false } else s
      if x.running == x.mode then { st := t }
      else { st := (t.rateChange g x.mode).raise 0x0184 (d4 g ++ d4 1 ++ d4 0) }) c s

def execPortRateRestore (c : Cmd) (s : State) : Out := serve c cmdPortRateRestore s

/-! ### Link state (R50-R54, R748) -/

/-- A command or event about a port that the part does not have. -/
def onPort (p : Nat) (s : State) (f : State → Out) : Out :=
  if 96 ≤ p then .fault .noSuchUnit else f s

/-- All lanes of the port have trained. -/
def State.allTrained (s : State) (p : Nat) : Bool :=
  (s.portLanes p).all (fun l => (s.prt p).trained.contains l)

/-- LINK_CONDITIONS_MET (R50): lanes trained, PCS and FEC locked; a link-down hold that runs is over. -/
def execLinkConditionsMet (port : Nat) (s : State) : Out :=
  onPort port s (fun s =>
    if s.portExists port && s.portsMayTrain && s.allTrained port then
      let t := s.updPrt port (fun x => { x with
        conditions := true, localFault := false, downSince := if x.remoteFault then x.downSince else none })
      done s (t.startUpHold port)
    else .next s)

/-- LINK_UP_HOLD_EXPIRY (R50): the port comes up, with event 0x0181. -/
def execLinkUpHoldExpiry (port : Nat) (s : State) : Out :=
  onPort port s (fun s =>
    let x := s.prt port
    match x.upSince with
    | some t =>
      if s.ended t (ms x.cfg.upHold) && s.portExists port && s.portsMayTrain && x.conditions && x.adminUp &&
          !x.localFault && !x.remoteFault && !x.up && s.hasEngine port then
        let a := s.setPrt port { x with
          up := true, upSince := none, lastChange := s.t32, txEmpty := s.time.ticks, attempts := 0, retryAt := none }
        let g := a.grp (port / 16)
        let allUp := (modePorts (port / 16) g.mode).all (fun p => (a.prt p).up)
        let b := if allUp then a.setGrp (port / 16) { g with fbSince := none } else a
        done s ((b.lagsUp port).raise 0x0181 (d4 port ++ d4 (laneRate g.running)))
      else .next s
    | none => .next s)

/-- R51: a condition of R50 is lost: the link-down hold starts, and with a hold of 0 the port goes down at once. A port that
is down already retrains what it lost, unless an attempt is going on or it waits for its next sequence (R79). -/
def State.loseLink (s : State) (p reason : Nat) : State :=
  let x := s.prt p
  if x.up then
    if x.cfg.downHold == 0 then (s.portDown p reason).retrainLost p
    else if x.downSince.isNone then s.setPrt p { x with downSince := some (s.time.ticks, reason) } else s
  else
    let t := s.setPrt p { x with upSince := none }
    if x.retryAt.isSome || !x.training.isEmpty then t else t.retrainLost p

/-- LINK_CONDITION_LOST (R51, R748). -/
def execLinkConditionLost (port : Nat) (fault : Bool) (lanesLost : List Nat) (s : State) : Out :=
  onPort port s (fun s =>
    if s.portExists port then
      let t := s.updPrt port (fun x => { x with
        conditions := false, localFault := fault || x.localFault
        trained := x.trained.filter (fun l => !lanesLost.contains l) })
      done s (t.loseLink port (b2n fault))
    else .next s)

/-- LINK_DOWN_HOLD_EXPIRY (R51, R53, R748). -/
def execLinkDownHoldExpiry (port : Nat) (s : State) : Out :=
  onPort port s (fun s =>
    let x := s.prt port
    match x.downSince with
    | some (t, reason) =>
      if s.ended t (ms x.cfg.downHold) && x.up && (!x.conditions || x.remoteFault || x.localFault) then
        done s ((s.portDown port reason).retrainLost port)
      else .next s
    | none => .next s)

/-- REMOTE_FAULT (R52): idles go out in place of frames; a condition of R50 is lost. -/
def execRemoteFault (port : Nat) (s : State) : Out :=
  onPort port s (fun s =>
    if s.portExists port then done s ((s.updPrt port (fun x => { x with remoteFault := true })).loseLink port 1)
    else .next s)

/-- REMOTE_FAULT_CLEARED (R52). -/
def execRemoteFaultCleared (port : Nat) (s : State) : Out :=
  onPort port s (fun s =>
    if s.portExists port then
      done s ((s.updPrt port (fun x => { x with
        remoteFault := false, downSince := if x.conditions then none else x.downSince })).startUpHold port)
    else .next s)

/-- R99, R54: counts what the FEC of a port reports, and notes the uncorrectable codewords of the last 10 ms. -/
def State.fecReport (s : State) (p : Nat) (f : Fec) : State :=
  let a := (s.count 207 7 p 0 f.corrected).count 207 8 p 0 f.uncorrectable
  let b := (numbered 0 (f.symbols.take 8)).foldl (fun (x : State) e => x.count 207 9 p e.1 e.2) a
  b.updPrt p (fun x => { x with
    fecTimes := x.fecTimes.filter (fun t => s.time.ticks < t + ms 10) ++ List.replicate (min 11 f.uncorrectable) s.time.ticks })

/-- FEC_THRESHOLD (R54): the FEC reports codewords; with more than 10 uncorrectable ones in 10 ms the port goes down and
every one of its lanes retrains. -/
def execFecThreshold (report : PortFec) (s : State) : Out :=
  onPort report.port s (fun s =>
    let port := report.port
    if s.portExists port && s.portsMayTrain then
      let a := s.fecReport port report.fec
      if (a.prt port).fecTimes.length ≤ 10 then done s a
      else
        let t := (a.portDown port 2).updPrt port (fun x => { x with conditions := false, fecTimes := [] })
        done s (if (s.prt port).adminUp then t.train port (s.portLanes port) else t)
    else .next s)

/-! ### Training (R78, R79) -/

/-- R78: an attempt of a port has ended. -/
def State.attemptEnd (s : State) (p : Nat) : State :=
  let x := s.prt p
  let failed := (s.portLanes p).filter (fun l => !x.trained.contains l)
  if failed.isEmpty then s.setPrt p { x with attempts := 0, retryAt := none }
  else if 3 ≤ x.attempts + 1 then
    ((s.setPrt p { x with attempts := 0, retryAt := if x.adminUp then some s.time.ticks else none }).bump 207 11 p).raise
      0x0183 (d4 p ++ d4o failed.head?)
  else if x.adminUp then
    s.setPrt p { x with
      attempts := x.attempts + 1, training := failed
      trainAt := failed.foldl (fun (t : Tbl Nat) l => t.set l s.time.ticks) x.trainAt }
  else s.setPrt p { x with attempts := 0 }

/-- LANE_TRAINING_END (R78): one lane's attempt ends, in success within 500 ms or without it after 500 ms; the port's attempt
ends with the last of its lanes. -/
def execLaneTrainingEnd (lane : Nat) (trained : Bool) (s : State) : Out :=
  onPort lane s (fun s =>
    match s.laneOwner lane with
    | none => .next s
    | some p =>
      let late := s.ended ((s.prt p).trainAt.getD lane 0) (ms 500)
      if (s.prt p).training.contains lane && (trained || late) then
        let t := s.updPrt p (fun x => { x with
          training := x.training.filter (fun l => l != lane)
          trained := if trained && !late then x.trained ++ [lane] else x.trained })
        done s (if (t.prt p).training.isEmpty then t.attemptEnd p else t)
      else .next s)

/-- TRAINING_RETRY (R79): 10 s after a failed sequence the next one starts. -/
def execTrainingRetry (port : Nat) (s : State) : Out :=
  onPort port s (fun s =>
    let x := s.prt port
    match x.retryAt with
    | some t =>
      if s.ended t (secs 10) && s.portExists port && s.portsMayTrain && x.adminUp && !x.up then
        done s (s.train port (s.lostLanes port))
      else .next s
    | none => .next s)

/-! ### Rate fallback (R70-R75) -/

/-- R70: the group may fall back or return by itself. -/
def State.mayFallBack (s : State) (g : Nat) : Bool :=
  (s.mode.mode == mdBringUp || s.mode.mode == mdMaintenance || s.mode.mode == mdDegraded) &&
    (modePorts g (s.grp g).mode).all (fun p => (s.prt p).cfg.fbEn) && !(s.grp g).fbDisabled

/-- Receive and transmit utilisation of a port in millionths of its configured rate. -/
def useOf (l : List (Nat × Nat × Nat)) (p : Nat) : Nat × Nat :=
  ((l.find? (fun e => e.1 == p)).map Prod.snd).getD (0, 0)

/-- R71, R72: the decision at the end of a 100 ms window. A group of which no port is up does not fall back (DESIGN CHOICE). -/
def State.fallbackStep (s : State) (g : Nat) (use : List (Nat × Nat × Nat)) : State :=
  let x := s.grp g
  let ports := modePorts g x.mode
  if x.running != x.mode then
    if ports.any (fun p => 400000 < (useOf use p).1 || 400000 < (useOf use p).2) then
      let t := s.rateChange g x.mode
      (t.setGrp g { t.grp g with fbSince := none }).raise 0x0184 (d4 g ++ d4 1 ++ d4 0)
    else s
  else
    let up := ports.filter (fun p => (s.prt p).up)
    let low := !up.isEmpty && up.all (fun p => (useOf use p).1 < 200000 && (useOf use p).2 < 200000)
    match fallbackOf x.mode with
    | none => s
    | some m =>
      if !low then s.setGrp g { x with lowWindows := 0 }
      else if x.lowWindows + 1 < 10 then s.setGrp g { x with lowWindows := x.lowWindows + 1 }
      else
        let t := s.rateChange g m
        (t.setGrp g { t.grp g with fbSince := some s.time.ticks }).raise 0x0184 (d4 g ++ d4 0 ++ d4 0)

/-- FALLBACK_WINDOW (R70-R72). A window that ends while the group may not fall back does not count towards the ten, and the
count begins again after it (DESIGN CHOICE). -/
def execFallbackWindow (group : Nat) (rxTx : List (Nat × Nat × Nat)) (s : State) : Out :=
  if 6 ≤ group then .fault .noSuchUnit
  else if s.ended (s.grp group).winStart (ms 100) then
    let t := s.setGrp group { s.grp group with winStart := s.time.ticks }
    done s (if s.mayFallBack group then t.fallbackStep group rxTx
      else t.setGrp group { t.grp group with lowWindows := 0 })
  else .next s

/-- FALLBACK_TIMEOUT (R70, R74, R75): the partner did not follow within 2 s; outside the three modes, or with fallback off at a
port, the group stays as it is. -/
def execFallbackTimeout (group : Nat) (s : State) : Out :=
  if 6 ≤ group then .fault .noSuchUnit
  else
    let x := s.grp group
    match x.fbSince with
    | some t =>
      if s.ended t (secs 2) && x.running != x.mode && s.mayFallBack group then
        let a := s.rateChange group x.mode
        done s ((a.setGrp group { a.grp group with fbDisabled := true, fbSince := none }).raise 0x0184
          (d4 group ++ d4 1 ++ d4 1))
      else .next s
    | none => .next s

/-! ### Low-power idle (R66-R69) -/

/-- LPI_IDLE_ENTRY (R66-R68). -/
def execLpiIdleEntry (port : Nat) (s : State) : Out :=
  onPort port s (fun s =>
    let x := s.prt port
    if s.portExists port && x.up && x.cfg.lpiEn && mode100G (s.grp (port / 16)).mode && !x.lpi && x.txBuf.isEmpty &&
        x.sending.isNone && (s.mode.mode == mdForwarding || s.mode.mode == mdParked) &&
        s.ended x.txEmpty (us x.cfg.lpiIdle) then
      done s ((s.setPrt port { x with lpi := true, lpiSince := s.time.ticks }).bump 207 12 port)
    else .next s)

/-- FRAME_TRANSMITTED (R68): the last byte has left; with an empty buffer the idle-entry delay starts. -/
def execFrameTransmitted (port : Nat) (s : State) : Out :=
  onPort port s (fun s =>
    if !s.aux.pllLocked then .next s
    else
    let x := s.prt port
    if x.sending.isSome then
      done s (s.setPrt port { x with sending := none, txEmpty := if x.txBuf.isEmpty then s.time.ticks else x.txEmpty })
    else .next s)

end Sys2Proof.Machine
end

