-- ==== Sys2Proof/Machine/Modules.lean ====
section
/-! DEFINITION. Pluggable modules and the optics life ledger (R80-R96, 02_ports.md). -/
namespace Sys2Proof.Machine
open Sys2Proof

/-- The modules are inputs M0-M47. -/
def onModule (m : Nat) (s : State) (f : State → Out) : Out := if 48 ≤ m then .fault .noSuchUnit else f s

/-! ### Ledger (R90-R95) -/

/-- R90: the position of a module's record. -/
def ledgerFind (l : List LedgerRec) (vendor serial : Bytes) : Option Nat :=
  l.findIdx? (fun r => r.vendor == vendor && r.serial == serial)

/-- Changes the record of a module, if it has one. -/
def State.ledgerUpd (s : State) (vendor serial : Bytes) (f : LedgerRec → LedgerRec) : State :=
  { s with port.ledger := s.port.ledger.map (fun r => if r.vendor == vendor && r.serial == serial then f r else r) }

/-- The record belongs to a module that is inserted. -/
def State.inserted (s : State) (r : LedgerRec) : Bool :=
  s.port.mods.any (fun e => e.2.present && e.2.vendor == r.vendor && e.2.serial == r.serial)

/-- R95: the record that a new module takes when all are in use: the oldest last_seen_h of those not inserted, the first of
several with the same (DESIGN CHOICE). -/
def State.ledgerVictim (s : State) : Option LedgerRec :=
  (s.port.ledger.filter (fun r => !s.inserted r)).foldl (fun (a : Option LedgerRec) r =>
    match a with | none => some r | some q => if r.lastSeenH < q.lastSeenH then some r else some q) none

/-- R90, R95: the record of a module that is inserted. Until its first removal or flush the last_seen_h of a new record is that
of the insertion (DESIGN CHOICE). -/
def State.ledgerInsert (s : State) (vendor serial : Bytes) : State :=
  let seen (r : LedgerRec) : LedgerRec := { r with insertions := min 65535 (r.insertions + 1) }
  let new : LedgerRec := { vendor, serial, firstSeenH := s.hours, lastSeenH := s.hours, insertions := 1 }
  if (ledgerFind s.port.ledger vendor serial).isSome then s.ledgerUpd vendor serial seen
  else if s.port.ledger.length < 16320 then { s with port.ledger := s.port.ledger ++ [new] }
  else match s.ledgerVictim with
    | some v =>
      { s with port.ledger := s.port.ledger.map (fun (r : LedgerRec) =>
          if r.vendor == v.vendor && r.serial == v.serial then new else r) }.raise 0x018B (padTo 16 v.vendor ++ padTo 16 v.serial)
    | none => s

/-- R94: the rating of an inserted module is met for the first time. -/
def State.ratingCheck (s : State) (m : Nat) : State :=
  let x := s.mod_ m
  match (ledgerFind s.port.ledger x.vendor x.serial).bind (fun i => s.port.ledger[i]?) with
  | some r =>
    if r.ratedH != 0 && !r.passed && 60 * r.ratedH ≤ r.weightedQSec / 240 then
      (s.ledgerUpd x.vendor x.serial (fun q => { q with passed := true })).raise 0x018A
        (d4 m ++ d4 (r.weightedQSec / 240) ++ d4 r.ratedH)
    else s
  | none => s

/-- R92, R623: the ledger goes to the copy without the highest committed sequence number; the flush is the last_seen_h of
every module that is inserted (Table 02-3). -/
def State.ledgerWrite (s : State) : State :=
  let l := s.port.ledger.map (fun r => if s.inserted r then { r with lastSeenH := s.hours } else r)
  let w := pairWrite s.port.ledgerA s.port.ledgerB l
  { s with port.ledger := l, port.ledgerA := w.1, port.ledgerB := w.2 }

/-- The 64 bytes of a record (Table 02-3). -/
def ledgerBytes (r : LedgerRec) : Bytes :=
  let b := padTo 16 r.vendor ++ padTo 16 r.serial ++ toLe 4 (r.laserOnSec / 60) ++ toLe 4 (r.weightedQSec / 240) ++
    toLe 4 r.firstSeenH ++ toLe 4 r.lastSeenH ++ toLe 2 r.insertions ++ toLe 2 r.alarms ++ toLe 1 (b2n r.passed) ++
    zeros 3 ++ toLe 4 r.ratedH
  b ++ toLe 4 (crc32 b)

/-- Table 02-4: the temperature weight in quarters. -/
def tempWeight (t : Int) : Nat :=
  if t < 35 then 1 else if t < 45 then 2 else if t < 55 then 4 else if t < 65 then 8 else if t < 75 then 16 else 32

/-! ### Accesses (R83-R85) -/

/-- The bytes of a MODULE_READ payload. -/
def State.moduleBytes (s : State) (b : Bytes) : Bytes :=
  (List.range (byteAt b 4)).map (fun i => s.cmisByte (byteAt b 0) (cmisAddr (byteAt b 1) (byteAt b 2) (byteAt b 3 + i)))

/-- Writes the bytes of a MODULE_WRITE payload. -/
def State.moduleStore (s : State) (b : Bytes) : State :=
  let m := byteAt b 0
  let x := s.mod_ m
  s.setMod m { x with mem := (numbered 0 (slice b 5 (byteAt b 4))).foldl (fun (a : List Host.Cell) e =>
    Tbl.set a (cmisAddr (byteAt b 1) (byteAt b 2) (byteAt b 3 + e.1)) e.2) x.mem }

/-- The module answers: accesses that waited complete, and it is no longer unresponsive (DESIGN CHOICE: the spec does not say
when that mark goes). -/
def State.moduleAnswers (s : State) (m : Nat) : State :=
  let t := s.setMod m { s.mod_ m with retries := 0, unresponsive := false }
  (t.hif.openCmds.filter (fun o => o.kind == .moduleAccess m false || o.kind == .moduleAccess m true)).foldl
    (fun (a : State) o =>
      if o.kind == .moduleAccess m false then a.finishOpen o stOk (a.moduleBytes o.cmd.payload)
      else (a.moduleStore o.cmd.payload).finishOpen o stOk) t

/-- Accesses that waited for a module end with a status. -/
def State.moduleAborts (s : State) (m status : Nat) : State :=
  (s.finishKind (.moduleAccess m false) status).finishKind (.moduleAccess m true) status

/-- The lanes of a module, and whether one of the ports on them is up (R96). -/
def State.modulePortsUp (s : State) (m : Nat) : Bool :=
  match (s.mod_ m).lanes with
  | some (f, n) => (List.range n).any (fun i => ((s.laneOwner (f + i)).map (fun p => (s.prt p).up)).getD false)
  | none => false

/-- R96: the write reaches page 00h bytes 128-255. -/
def identityWrite (b : Bytes) : Bool := byteAt b 1 == 0 && 128 < byteAt b 3 + byteAt b 4

/-- R96: the write would change the module's data path: CMIS page 10h, which holds the data path and lane controls, or byte
26 of the lower memory, which holds low power and reset (PRESUMED, log 14). -/
def dataPathWrite (b : Bytes) : Bool :=
  (byteAt b 1 == 0x10 && 128 < byteAt b 3 + byteAt b 4) || (byteAt b 3 ≤ 26 && 26 < byteAt b 3 + byteAt b 4)

/-- The access may not be tried: no such module, or none inserted; then the range of the access. -/
def State.accessStatus (s : State) (b : Bytes) : Nat :=
  let m := byteAt b 0
  if 47 < m || !(s.mod_ m).present then stNotFound
  else if !inRange (byteAt b 4) 1 128 || 256 < byteAt b 3 + byteAt b 4 then stBadParam
  else 0

/-- MODULE_READ (R83-R85). While an access to the module goes unacknowledged, the command waits for it. -/
def moduleReadSpec : CmdSpec :=
  { opcode := 0x0106, long := fun b => 5 ≤ b.length, size := fun b => byteAt b 4, reads := true }

def cmdModuleRead (c : Cmd) (s : State) : Res :=
  gate moduleReadSpec (fun c s =>
    let b := c.payload
    let m := byteAt b 0
    if s.accessStatus b != 0 then Res.err s (s.accessStatus b)
    else if !s.busUp m || (s.mod_ m).unresponsive then Res.err s stTimeout
    else if (s.mod_ m).retries != 0 then { st := s, async := some (.moduleAccess m false) }
    else { st := s, result := s.moduleBytes b }) c s

def execModuleRead (c : Cmd) (s : State) : Out := serve c cmdModuleRead s

/-- MODULE_WRITE (R83-R85, R96). -/
def moduleWriteSpec : CmdSpec :=
  { opcode := 0x0107, long := fun b => 5 ≤ b.length && 5 + byteAt b 4 ≤ b.length }

def cmdModuleWrite (c : Cmd) (s : State) : Res :=
  gate moduleWriteSpec (fun c s =>
    let b := c.payload
    let m := byteAt b 0
    if s.accessStatus b != 0 then Res.err s (s.accessStatus b)
    else if identityWrite b || (dataPathWrite b && s.modulePortsUp m) then Res.err s stRefused
    else if !s.busUp m || (s.mod_ m).unresponsive then Res.err s stTimeout
    else if (s.mod_ m).retries != 0 then { st := s, async := some (.moduleAccess m true) }
    else { st := s.moduleStore b }) c s

def execModuleWrite (c : Cmd) (s : State) : Out := serve c cmdModuleWrite s

/-- MODULE_INT_UNMASK (R89). -/
def moduleIntUnmaskSpec : CmdSpec := { opcode := 0x0108, long := fun b => 2 ≤ b.length, clean := fun b => flagsIn b 1 2 }

def cmdModuleIntUnmask (c : Cmd) (s : State) : Res :=
  gate moduleIntUnmaskSpec (fun c s =>
    let m := byteAt c.payload 0
    let f := byteAt c.payload 1
    let x := s.mod_ m
    if 47 < m then Res.err s stNotFound
    else { st := s.setMod m { x with
        intMasked := x.intMasked && !bit f 0, presMasked := x.presMasked && !bit f 1
        intTimes := if bit f 0 then [] else x.intTimes, intClearedAt := if bit f 0 then none else x.intClearedAt } }) c s

def execModuleIntUnmask (c : Cmd) (s : State) : Out := serve c cmdModuleIntUnmask s

/-- LEDGER_READ (R90): records that are not in use read as zero. -/
def ledgerReadSpec : CmdSpec :=
  { opcode := 0x0109, long := fun b => 4 ≤ b.length, size := fun b => 64 * le b 2 2, reads := true }

def cmdLedgerRead (c : Cmd) (s : State) : Res :=
  gate ledgerReadSpec (fun c s =>
    let f := le c.payload 0 2
    let n := le c.payload 2 2
    if !inRange n 1 64 || 16320 < f + n then Res.err s stBadParam
    else { st := s, result := (List.range n).flatMap (fun i =>
        match s.port.ledger[f + i]? with | some r => ledgerBytes r | none => zeros 64) }) c s

def execLedgerRead (c : Cmd) (s : State) : Out := serve c cmdLedgerRead s

/-- LEDGER_SET_RATING (R94). Flags bit 0, once set, stays when the rating changes (DESIGN CHOICE). -/
def ledgerSetRatingSpec : CmdSpec := { opcode := 0x010A, long := fun b => 36 ≤ b.length }

def cmdLedgerSetRating (c : Cmd) (s : State) : Res :=
  gate ledgerSetRatingSpec (fun c s =>
    let v := slice c.payload 0 16
    let n := slice c.payload 16 16
    if (ledgerFind s.port.ledger v n).isNone then Res.err s stNotFound
    else { st := s.ledgerUpd v n (fun r => { r with ratedH := le c.payload 32 4 }) }) c s

def execLedgerSetRating (c : Cmd) (s : State) : Out := serve c cmdLedgerSetRating s

/-- The lanes that other modules serve. -/
def State.lanesTaken (s : State) (m : Nat) : List Nat :=
  s.port.mods.flatMap (fun e => if e.1 == m then [] else
    match e.2.lanes with | some (f, n) => (List.range n).map (fun i => f + i) | none => [])

/-- MODULE_MAP_SET (R80). -/
def moduleMapSetSpec : CmdSpec := { opcode := 0x010C, long := fun b => 3 ≤ b.length }

def cmdModuleMapSet (c : Cmd) (s : State) : Res :=
  gate moduleMapSetSpec (fun c s =>
    let m := byteAt c.payload 0
    let f := byteAt c.payload 1
    let n := byteAt c.payload 2
    if 47 < m || !inRange n 1 8 || 96 < f + n then Res.err s stBadParam
    else if (List.range n).any (fun i => (s.lanesTaken m).contains (f + i)) then Res.err s stExists
    else { st := (s.setMod m { s.mod_ m with lanes := some (f, n) }).activateModule m }) c s

def execModuleMapSet (c : Cmd) (s : State) : Out := serve c cmdModuleMapSet s

/-! ### Events of modules -/

/-- R82: alarm flags that the module newly sets, each with event 0x0189 and a count in the ledger. -/
def State.moduleFlags (s : State) (m : Nat) (flags : List CmisFlag) : State :=
  let x := s.mod_ m
  let new := flags.filter (fun f => !x.alarms.contains f)
  let t := (s.setMod m { x with alarms := flags }).ledgerUpd x.vendor x.serial (fun r =>
    { r with alarms := min 65535 (r.alarms + new.length) })
  new.foldl (fun (a : State) f => a.raise 0x0189 (d4 m ++ d4 0 ++ d4 (f.page * 65536 + f.byte * 256 + f.bit))) t

/-- R89: the ticks of the changes of a presence input in the last 1 s, the one that is seen now among them. -/
def State.recentChanges (s : State) (m : Nat) : List Nat :=
  (s.mod_ m).presTimes.filter (fun t => s.time.ticks < t + secs 1) ++ [s.time.ticks]

/-- R89: a presence input is latched and masked, and the module treated as absent. That is no removal: the ledger is not
written and no event 0x0187 raised (DESIGN CHOICE). -/
def State.maskPresence (s : State) (m : Nat) : State :=
  let a := s.setMod m { s.mod_ m with presMasked := true, present := false, active := false, app := none, presTimes := [] }
  (a.moduleAborts m stNotFound).raise 0x0188 (d4 m ++ d4 1 ++ d4 1)

/-- R89: more than 10 changes within 1 s mask the input. -/
def State.presenceCheck (s : State) (m : Nat) : State :=
  if 10 < (s.mod_ m).presTimes.length then s.maskPresence m else s

/-- MODULE_INSERTED (R80, R81, R84, R89, R90, R94, R95): of a module on a failed bus nothing is read. -/
def execModuleInserted (module : Nat) (page0 : Bytes) (s : State) : Out :=
  onModule module s (fun s =>
    let x := s.mod_ module
    if x.present || x.presMasked || !s.fwRuns then .next s
    else
      let mem := (numbered 0 (page0.take 256)).foldl (fun (a : List Host.Cell) e => Tbl.set a e.1 e.2) []
      let a := s.setMod module { x with
        present := true, active := false, app := none, alarms := [], unresponsive := false, retries := 0
        intMasked := false, intTimes := [], intClearedAt := none, monitorAt := s.time.ticks
        presTimes := s.recentChanges module }
      if s.busUp module then
        let b := a.setMod module { a.mod_ module with
          mem := mem, vendor := slice page0 129 16, serial := slice page0 166 16
          txDisabled := s.mode.mode == mdConfigure || s.mode.mode == mdQuarantine }
        let d := ((b.ledgerInsert (slice page0 129 16) (slice page0 166 16)).activateModule module).raise 0x0186
          (d4 module ++ padTo 16 (slice page0 129 16) ++ padTo 16 (slice page0 166 16))
        done s ((d.ratingCheck module).presenceCheck module)
      else done s (a.presenceCheck module))

/-- MODULE_REMOVED (R85, R89, R92). -/
def execModuleRemoved (module : Nat) (s : State) : Out :=
  onModule module s (fun s =>
    let x := s.mod_ module
    if !x.present || x.presMasked || !s.fwRuns then .next s
    else
      let a := s.setMod module { lanes := x.lanes, intMasked := x.intMasked, presTimes := s.recentChanges module }
      let b := (a.ledgerUpd x.vendor x.serial (fun r => { r with lastSeenH := s.hours })).ledgerWrite
      done s (((b.moduleAborts module stNotFound).raise 0x0187 (d4 module)).presenceCheck module))

/-- R88: an interrupt input is masked, with event 0x0188 once. -/
def State.maskInterrupt (s : State) (m condition : Nat) : State :=
  if (s.mod_ m).intMasked then s
  else (s.setMod m { s.mod_ m with
    intMasked := true, intClearedAt := none, polledAt := s.time.ticks }).raise 0x0188 (d4 m ++ d4 0 ++ d4 condition)

/-- MODULE_INTERRUPT (R82, R86-R88): more than 100 assertions of the input in 1 s are chattering; firmware, where it runs and
the module can be reached, reads and clears the flags. -/
def execModuleInterrupt (module : Nat) (flags : List CmisFlag) (s : State) : Out :=
  onModule module s (fun s =>
    if !s.aux.pllLocked then .next s
    else
    let x := s.mod_ module
    if x.intMasked then .next s
    else
      let times := x.intTimes.filter (fun t => s.time.ticks < t + secs 1) ++ [s.time.ticks]
      let a := s.setMod module { x with intTimes := times }
      let b := if x.present && s.fwRuns && s.busUp module then
          let r := (a.moduleAnswers module).moduleFlags module flags
          r.setMod module { r.mod_ module with intClearedAt := some s.time.ticks }
        else a
      done s (if 100 < times.length then b.maskInterrupt module 1 else b))

/-- INTERRUPT_STUCK (R86, R88): the input is active more than 1 s after the flags were cleared. -/
def execInterruptStuck (module : Nat) (s : State) : Out :=
  onModule module s (fun s =>
    if !s.aux.pllLocked then .next s
    else
    match (s.mod_ module).intClearedAt with
    | some t => if s.ended t (secs 1) then done s (s.maskInterrupt module 0) else .next s
    | none => .next s)

/-- PRESENCE_CHATTER (R89): the input has changed too fast for its debouncing; with the changes of the last
1 s that were debounced, more than 10 mask it. -/
def execPresenceChatter (input : PresenceChanges) (s : State) : Out :=
  onModule input.module s (fun s =>
    let module := input.module
    let x := s.mod_ module
    let times := x.presTimes.filter (fun t => s.time.ticks < t + secs 1) ++ List.replicate (min 11 input.changes) s.time.ticks
    if x.presMasked || !s.aux.pllLocked then .next s
    else done s ((s.setMod module { x with presTimes := times }).presenceCheck module))

/-- MASKED_INPUT_POLL (R88): every 100 ms. -/
def execMaskedInputPoll (module : Nat) (flags : List CmisFlag) (s : State) : Out :=
  onModule module s (fun s =>
    if (s.mod_ module).present && (s.mod_ module).intMasked && s.fwRuns && s.busUp module &&
        s.ended (s.mod_ module).polledAt (ms 100) then
      done s (((s.setMod module { s.mod_ module with polledAt := s.time.ticks }).moduleAnswers module).moduleFlags module flags)
    else .next s)

/-- MODULE_MONITOR_POLL (R82): once per second. -/
def execModuleMonitorPoll (module : Nat) (tempC : Int) (bias power : Nat) (flags : List CmisFlag) (s : State) : Out :=
  onModule module s (fun s =>
    if (s.mod_ module).present && s.fwRuns && s.busUp module && s.ended (s.mod_ module).monitorAt (secs 1) then
      let a := s.setMod module { s.mod_ module with tempC, bias, power, monitorAt := s.time.ticks }
      done s ((a.moduleAnswers module).moduleFlags module flags)
    else .next s)

/-- LEDGER_ACCUMULATION (R91, R94): one second of operation, and of laser-on time of every active module. -/
def execLedgerAccumulation (s : State) : Out :=
  if s.fwRuns && s.ended s.port.accumAt (secs 1) then
    let a : State := { s with port.accumAt := s.time.ticks, port.opSeconds := s.port.opSeconds + 1 }
    done s (a.port.mods.foldl (fun (t : State) e =>
      if !e.2.present then t
      else
        let u := if e.2.active && !e.2.txDisabled then
            t.ledgerUpd e.2.vendor e.2.serial (fun r => { r with
              laserOnSec := r.laserOnSec + 1, weightedQSec := r.weightedQSec + tempWeight e.2.tempC })
          else t
        u.ratingCheck e.1) a)
  else .next s

/-- LEDGER_HOURLY_WRITE (R92). -/
def execLedgerHourlyWrite (s : State) : Out :=
  if s.fwRuns && s.ended s.port.ledgerAt (secs 3600) then
    done s ({ s with port.ledgerAt := s.time.ticks }.ledgerWrite)
  else .next s

/-- MODULE_ACCESS_UNACKNOWLEDGED (R83): retried up to 3 times; when the third retry fails too (DESIGN CHOICE: the "third
failure"), the module is unresponsive. -/
def execModuleAccessUnacknowledged (module : Nat) (s : State) : Out :=
  onModule module s (fun s =>
    let x := s.mod_ module
    if !x.present || x.unresponsive || !s.fwRuns then .next s
    else if x.retries < 3 then done s (s.setMod module { x with retries := x.retries + 1 })
    else
      let a := s.setMod module { x with retries := 0, unresponsive := true }
      done s ((a.moduleAborts module stTimeout).raise 0x0189 (d4 module ++ d4 1 ++ d4 0)))

/-- BUS_DATA_LINE_LOW (R84): 9 clock pulses recover the bus, or it is marked failed; the event names the bus by its first
module. A failed bus stays so until the next Boot (DESIGN CHOICE). -/
def execBusDataLineLow (bus : Nat) (recovered : Bool) (s : State) : Out :=
  if 6 ≤ bus then .fault .noSuchUnit
  else if !s.aux.pllLocked then .next s
  else if recovered || s.port.busFailed.contains bus then .next s
  else
    let a : State := { s with port.busFailed := s.port.busFailed ++ [bus] }
    let b := (List.range 8).foldl (fun (t : State) i => t.moduleAborts (8 * bus + i) stTimeout) a
    done s (b.raise 0x0189 (d4 (8 * bus) ++ d4 2 ++ d4 0))

end Sys2Proof.Machine
end

