-- ==== Sys2Proof/Machine/Security.lean ====
section
/-! DEFINITION. Inline link security (03_link_security.md): the commands of class 0x02, the receive checks of Table 03-2 and
the protection of a transmitted frame. -/
namespace Sys2Proof.Machine
open Sys2Proof

def State.secy (s : State) (p : Nat) : SecY := s.sec.secys.getD p {}
def State.setSecy (s : State) (p : Nat) (y : SecY) : State := { s with sec.secys := s.sec.secys.set p y }

/-- Table 03-1: the suite uses 64-bit packet numbers; its key length in bytes; its last packet number. -/
def suiteXpn (c : Nat) : Bool := c == 3 || c == 4
def suiteKey (c : Nat) : Nat := if c == 1 || c == 3 then 16 else 32
def suiteMaxPn (c : Nat) : Nat := if suiteXpn c then 0xFFFFFFFFFFFFFFFF else 0xFFFFFFFF

/-- R125: the warning threshold in use. -/
def SecY.warnAt (y : SecY) : Nat :=
  if y.pnWarn != 0 then y.pnWarn else if suiteXpn y.suite then 0xC000000000000000 else 0xC0000000

/-- The SA of a slot and SA slot, where one is installed (R102). -/
def SecY.sa (y : SecY) (slot n : Nat) : Option Sa := Tbl.get? y.sas (2 * slot + n)

/-- R108: the transmit SA in use has been invalidated. -/
def SecY.txLost (y : SecY) : Bool := (y.txInUse.map (fun n => (y.sa 0 n).isNone && (Tbl.get? y.lost n).isSome)).getD false

/-- R113: the lowest acceptable packet number. -/
def lowestPn (next window : Nat) : Nat := Nat.max 1 (next - window)

/-! ### Commands (Table 03-4) -/

/-- SECY_CONFIG (R100). -/
def secyConfigSpec : CmdSpec :=
  { opcode := 0x0201, long := fun b => 24 ≤ b.length, clean := fun b => flagsIn b 2 6 && rsv b 6 2 }

def cmdSecyConfig (c : Cmd) (s : State) : Res :=
  gate secyConfigSpec (fun c s =>
    let b := c.payload
    let p := byteAt b 0
    let su := byteAt b 1
    let fl := byteAt b 2
    let gm := (s.grp (p / 16)).mode
    if !s.portExists p then Res.err s stNotFound
    else if !inRange su 1 4 || field fl 2 1 == 3 || !([0, 30, 50].contains (byteAt b 3)) || !inRange (le b 4 2) 1 100 ||
        (su ≤ 2 && (gm == 1 || gm == 2)) then Res.err s stBadParam
    else { st := State.saveSettings <| s.setSecy p { s.secy p with
        suite := su, enabled := bit fl 0, validation := field fl 2 1, includeSci := bit fl 3, confidential := bit fl 4
        verify := bit fl 5, confOffset := byteAt b 3, launchUs := le b 4 2, txSci := le b 8 8, pnWarn := le b 16 8 } }) c s

def execSecyConfig (c : Cmd) (s : State) : Out := serve c cmdSecyConfig s

/-- Removes the SAs of a slot with their keys (R106). -/
def SecY.dropSas (y : SecY) (slot : Nat) : SecY :=
  { y with sas := Tbl.del (Tbl.del y.sas (2 * slot)) (2 * slot + 1), lost := Tbl.del (Tbl.del y.lost (2 * slot)) (2 * slot + 1) }

/-- SC_SET (R101, R113). An occupied slot takes the new channel; its SAs stay only with the same SCI. -/
def scSetSpec : CmdSpec := { opcode := 0x0202, long := fun b => 14 ≤ b.length }

def cmdScSet (c : Cmd) (s : State) : Res :=
  gate scSetSpec (fun c s =>
    let b := c.payload
    let p := byteAt b 0
    let k := byteAt b 1
    let sci := le b 2 8
    let w := le b 10 4
    let y := s.secy p
    if !s.portExists p then Res.err s stNotFound
    else if !inRange k 1 3 || (suiteXpn y.suite && 1073741824 < w) then Res.err s stBadParam
    else if y.rx.any (fun e => e.1 != k && e.2.sci == sci) then Res.err s stExists
    else
      let z := if ((Tbl.get? y.rx k).map (fun x => x.sci == sci)).getD true then y else y.dropSas k
      { st := s.setSecy p { z with rx := z.rx.set k { sci, window := w } } }) c s

def execScSet (c : Cmd) (s : State) : Out := serve c cmdScSet s

/-- SC_CLEAR (R101). -/
def scClearSpec : CmdSpec := { opcode := 0x0203, long := fun b => 2 ≤ b.length }

def cmdScClear (c : Cmd) (s : State) : Res :=
  gate scClearSpec (fun c s =>
    let p := byteAt c.payload 0
    let k := byteAt c.payload 1
    let y := s.secy p
    if !s.portExists p || (Tbl.get? y.rx k).isNone then Res.err s stNotFound
    else
      let z := y.dropSas k
      { st := s.setSecy p { z with rx := z.rx.del k } }) c s

def execScClear (c : Cmd) (s : State) : Out := serve c cmdScClear s

/-- SA_INSTALL (R102-R104, R108). What is reserved depends on the suite of the port. A new SA ends the drops of R108 for the
invalidated SAs of its channel that it stands for: those of its slot or its AN, and on the transmit channel all; an invalidated
SA is then no longer the transmit SA in use. -/
def saInstallSpec : CmdSpec := { opcode := 0x0204, long := fun b => 64 ≤ b.length }

def cmdSaInstall (c : Cmd) (s : State) : Res :=
  gate saInstallSpec (fun c s =>
    let b := c.payload
    let p := byteAt b 0
    let k := byteAt b 1
    let n := byteAt b 2
    let y := s.secy p
    let reservedSet := (suiteKey y.suite == 16 && !rsv b 32 16) || (!suiteXpn y.suite && !rsv b 48 16)
    if s.portExists p && reservedSet then Res.err s stBadParam
    else if !s.portExists p then Res.err s stNotFound
    else if 3 < k || 1 < n || 3 < byteAt b 3 || le b 8 8 == 0 || suiteMaxPn y.suite < le b 8 8 then Res.err s stBadParam
    else if k != 0 && (Tbl.get? y.rx k).isNone then Res.err s stNotFound
    else if (y.sa k n).isSome || ((y.sa k (1 - n)).map (fun a => a.an == byteAt b 3)).getD false then Res.err s stExists
    else
      let sa : Sa := {
        an := byteAt b 3, keyId := le b 4 4, key := slice b 16 (suiteKey y.suite), salt := le b 48 12, ssci := le b 60 4
        nextPn := le b 8 8 }
      { st := s.setSecy p { y with
          sas := y.sas.set (2 * k + n) sa
          lost := y.lost.filter (fun e => !(e.1 / 2 == k && (k == 0 || e.1 == 2 * k + n || e.2 == byteAt b 3)))
          txInUse := if k == 0 && y.txLost then none else y.txInUse } }) c s

def execSaInstall (c : Cmd) (s : State) : Out := serve c cmdSaInstall s

/-- SA_ENABLE_RX (R122). -/
def saEnableRxSpec : CmdSpec := { opcode := 0x0205, long := fun b => 4 ≤ b.length }

def cmdSaEnableRx (c : Cmd) (s : State) : Res :=
  gate saEnableRxSpec (fun c s =>
    let b := c.payload
    let p := byteAt b 0
    let k := byteAt b 1
    let n := byteAt b 2
    let y := s.secy p
    if !s.portExists p || !inRange k 1 3 || 1 < n then Res.err s stNotFound
    else match y.sa k n with
      | none => Res.err s stNotFound
      | some a =>
        if 1 < byteAt b 3 then Res.err s stBadParam
        else { st := s.setSecy p { y with sas := y.sas.set (2 * k + n) { a with rxEn := byteAt b 3 == 1 } } }) c s

def execSaEnableRx (c : Cmd) (s : State) : Out := serve c cmdSaEnableRx s

/-- SA_TX_SWITCH (R116, R123, R511): at the next frame, or staged for a commit time. A port holds one staged switch: a later
timed one replaces it, and an immediate one leaves it staged (DESIGN CHOICE). -/
def saTxSwitchSpec : CmdSpec := { opcode := 0x0206, long := fun b => 8 ≤ b.length, clean := fun b => rsv b 2 2 }

def cmdSaTxSwitch (c : Cmd) (s : State) : Res :=
  gate saTxSwitchSpec (fun c s =>
    let p := byteAt c.payload 0
    let n := byteAt c.payload 1
    let t := BitVec.ofNat 32 (le c.payload 4 4)
    let y := s.secy p
    if !s.portExists p || 1 < n || (y.sa 0 n).isNone then Res.err s stNotFound
    else if t == 0 then { st := s.setSecy p { y with txInUse := some n } }
    else if !T32.validCommit s.t32 t then Res.err s stBadParam
    else { st := s.setSecy p { y with switch := some (n, t) } }) c s

def execSaTxSwitch (c : Cmd) (s : State) : Out := serve c cmdSaTxSwitch s

/-- SA_DELETE (R106, R124). -/
def saDeleteSpec : CmdSpec := { opcode := 0x0207, long := fun b => 3 ≤ b.length }

def cmdSaDelete (c : Cmd) (s : State) : Res :=
  gate saDeleteSpec (fun c s =>
    let p := byteAt c.payload 0
    let k := byteAt c.payload 1
    let n := byteAt c.payload 2
    let y := s.secy p
    if !s.portExists p || 3 < k || 1 < n || (y.sa k n).isNone then Res.err s stNotFound
    else if k == 0 && y.txInUse == some n then Res.err s stRefused
    else { st := s.setSecy p { y with sas := y.sas.del (2 * k + n) } }) c s

def execSaDelete (c : Cmd) (s : State) : Out := serve c cmdSaDelete s

/-- The 24 bytes of one SA slot in SA_STATUS_GET. -/
def saStatus (y : SecY) (slot n : Nat) : Bytes :=
  match y.sa slot n with
  | none => zeros 24
  | some a =>
    toLe 1 a.an ++ toLe 1 (1 + 2 * b2n (slot == 0 && y.txInUse == some n) + 4 * b2n a.rxEn) ++ zeros 2 ++ toLe 4 a.keyId ++
      toLe 8 a.nextPn ++ toLe 8 (if slot == 0 then 0 else
        lowestPn a.nextPn (((Tbl.get? y.rx slot).map (fun x => x.window)).getD 0))

/-- SA_STATUS_GET (R104, R107). -/
def saStatusGetSpec : CmdSpec :=
  { opcode := 0x0208, long := fun b => 2 ≤ b.length, size := fun _ => 48, reads := true }

def cmdSaStatusGet (c : Cmd) (s : State) : Res :=
  gate saStatusGetSpec (fun c s =>
    let p := byteAt c.payload 0
    let k := byteAt c.payload 1
    let y := s.secy p
    if !s.portExists p || 3 < k || (k != 0 && (Tbl.get? y.rx k).isNone) then Res.err s stNotFound
    else { st := s, result := saStatus y k 0 ++ saStatus y k 1 }) c s

def execSaStatusGet (c : Cmd) (s : State) : Out := serve c cmdSaStatusGet s

/-- Numbers of values of the names of Table 03-7 for one port. -/
def secyCounts : List Nat := [1, 1, 1, 1, 1, 6, 1, 1, 1, 1, 1, 1]

/-- SECY_COUNTERS_GET (R745, Table 03-7). -/
def secyCountersGetSpec : CmdSpec :=
  { opcode := 0x0209, long := fun b => 1 ≤ b.length, size := fun _ => 8 * secyCounts.sum, reads := true }

def cmdSecyCountersGet (c : Cmd) (s : State) : Res :=
  gate secyCountersGetSpec (fun c s =>
    let p := byteAt c.payload 0
    if !s.portExists p then Res.err s stNotFound
    else { st := s, result := (numbered 0 secyCounts).flatMap (fun e =>
        (List.range e.2).flatMap (fun j => toLe 8 (s.ctrVal 307 e.1 p j))) }) c s

def execSecyCountersGet (c : Cmd) (s : State) : Out := serve c cmdSecyCountersGet s

/-- SA_SWITCH_DUE (R123, R512). -/
def execSaSwitchDue (port : Nat) (s : State) : Out :=
  onPort port s (fun s =>
    if !s.aux.pllLocked then .next s
    else
    let y := s.secy port
    match y.switch with
    | some (n, t) =>
      if s.t32.reached t then
        done s (s.setSecy port { y with
          switch := none, txInUse := if (y.sa 0 n).isSome then some n else y.txInUse })
      else .next s
    | none => .next s)

/-! ### Receive (Table 03-2) -/

/-- A SecTAG as IEEE 802.1AE lays it out after the addresses: TCI and AN, SL, PN and the SCI that it carries. -/
structure SecTag where
  tci : Nat
  sl : Nat
  pn : Nat
  sci : Option Nat
  /-- bytes from the EtherType to the end of the tag -/
  len : Nat
deriving DecidableEq, Repr

def SecTag.eBit (t : SecTag) : Bool := bit t.tci 3
def SecTag.an (t : SecTag) : Nat := t.tci % 4

/-- The SecTAG of a frame without FCS whose EtherType is 0x88E5. -/
def secTagOf (f : Bytes) : SecTag :=
  let tci := be f 14 1
  let sc := bit tci 5
  { tci, sl := be f 15 1, pn := be f 16 4, sci := if sc then some (be f 20 8) else none, len := if sc then 16 else 8 }

/-- The secure data bytes between the SecTAG and the ICV, where the frame is long enough. -/
def secDataLen (f : Bytes) (t : SecTag) : Nat := f.length - (12 + t.len + 16)

/-- Check 2: the V bit; ES with SC; an SL that does not match the frame, which may be padded to 64 bytes; a PN of 0. -/
def secMalformed (f : Bytes) (t : SecTag) : Bool :=
  bit t.tci 7 || (bit t.tci 6 && bit t.tci 5) || f.length < 12 + t.len + 16 ||
    (t.sl != 0 && !(t.sl == secDataLen f t || (f.length == 60 && t.sl < secDataLen f t))) || t.pn == 0

/-- The SCI of a frame: the one its SecTAG carries; with ES set the source address and port number 1; else that of the only
receive SC (IEEE 802.1AE; log 15). -/
def secSci (y : SecY) (f : Bytes) (t : SecTag) : Option Nat :=
  match t.sci with
  | some x => some x
  | none => if bit t.tci 6 then some (be f 6 6 * 65536 + 1) else match y.rx with | [e] => some e.2.sci | _ => none

/-- The receive SC of a frame: its slot (R101). -/
def secSlot (y : SecY) (f : Bytes) (t : SecTag) : Option Nat :=
  (secSci y f t).bind (fun x => (y.rx.find? (fun e => e.2.sci == x)).map Prod.fst)

/-- The enabled SA of a channel for an AN (R122). -/
def secSa (y : SecY) (slot an : Nat) : Option (Nat × Sa) :=
  [0, 1].findSome? (fun n => match y.sa slot n with
    | some a => if a.an == an && a.rxEn then some (n, a) else none
    | none => none)

/-- The 64-bit packet number of an XPN frame, recovered from its low 32 bits and the next expected PN (IEEE 802.1AE). -/
def recoverPn (xpn : Bool) (next pn : Nat) : Nat :=
  if !xpn then pn
  else
    let hi := next / 4294967296
    if bit next 31 && !bit pn 31 then (hi + 1) * 4294967296 + pn else hi * 4294967296 + pn

/-- The outcome of the MACsec engine for a received frame. -/
structure SecVerdict where
  st : State
  frame : Bytes
  drop : Option Nat := none
  /-- the frame fails check 6 at its last byte -/
  badIcv : Bool := false
  secured : Bool := false
  scIndex : Nat := 0

/-- Where the ICV starts. -/
def icvAt (f : Bytes) (t : SecTag) : Nat := if t.sl == 0 then f.length - 16 else 12 + t.len + t.sl

/-- R111: the frame without its SecTAG and ICV. -/
def secStrip (f : Bytes) (t : SecTag) : Bytes :=
  if f.length < 12 + t.len + 16 then f else f.take 12 ++ slice f (12 + t.len) (icvAt f t - (12 + t.len))

/-- GCM keeps the length of the text it turns. -/
def secText (a : Sa) (sci pn : Nat) (aad text : Bytes) : Bytes :=
  padTo text.length ((Config.gcmCipher a.key a.salt a.ssci sci pn aad text).take text.length)

/-- The plaintext of a frame, and whether its ICV is right. -/
def secOpen (y : SecY) (a : Sa) (sci pn : Nat) (f : Bytes) (t : SecTag) : Bytes × Bool :=
  let body := slice f (12 + t.len) (icvAt f t - (12 + t.len))
  let off := if t.eBit then y.confOffset else body.length
  let aad := f.take (12 + t.len) ++ body.take off
  let plain := if t.eBit then secText a sci pn aad (body.drop off) else []
  (f.take 12 ++ body.take off ++ plain,
    slice f (icvAt f t) 16 == Config.gcmIcv a.key a.salt a.ssci sci pn aad (body.drop off))

/-- A frame that is dropped under a code of Table 03-2. -/
def secDrop (s : State) (p code : Nat) (f : Bytes) : SecVerdict :=
  { st := s.bump 307 5 p (code - 0x10), frame := f, drop := some code }

/-- R108-R114: the checks of Table 03-2 in order on a frame without FCS. `early` says that the frame goes on before its last
byte: a failure of check 6 is counted, and the tail shows it later (R114). A frame that passes unchecked keeps its SecTAG and ICV
under Disabled validation (04_parsing.md, after R132) and loses them under Check. -/
def State.secReceive (s : State) (p : Nat) (f : Bytes) (early : Bool) : SecVerdict :=
  let y := s.secy p
  let strict := y.validation == 2
  let off := y.validation == 0
  let et := be f 12 2
  if !s.sec.gradeS || !y.enabled || et == 0x888E then { st := s, frame := f }
  else if et != 0x88E5 then
    if strict then secDrop s p 0x12 f else { st := s.bump 307 2 p, frame := f }
  else
    let t := secTagOf f
    let unchecked (z : State) : SecVerdict := { st := z.bump 307 3 p, frame := if off then f else secStrip f t }
    if secMalformed f t then if off then unchecked s else secDrop s p 0x15 f
    else match secSlot y f t with
      | none => if strict || (t.eBit && !off) then secDrop s p 0x11 f else unchecked s
      | some slot =>
        match secSa y slot t.an with
        | none =>
          let gone := y.lost.any (fun e => e.1 / 2 == slot && e.2 == t.an)
          if gone || strict || (t.eBit && !off) then secDrop s p 0x14 f else unchecked s
        | some (n, a) =>
          let xpn := suiteXpn y.suite
          let pn := recoverPn xpn a.nextPn t.pn
          let window := ((Tbl.get? y.rx slot).map (fun x => x.window)).getD 0
          if suiteMaxPn y.suite < a.nextPn || pn < lowestPn a.nextPn window then
            if off then unchecked s else secDrop s p 0x13 f
          else
            let r := secOpen y a ((secSci y f t).getD 0) pn f t
            if r.2 then
              let z := s.setSecy p { y with sas := y.sas.set (2 * slot + n) { a with nextPn := Nat.max a.nextPn (pn + 1) } }
              { st := (z.bump 307 0 p).count 307 1 p 0 (f.length + 4), frame := r.1, secured := true, scIndex := slot }
            else if off then unchecked s
            else if strict || t.eBit then
              if early then { st := s.bump 307 5 p, frame := r.1, badIcv := true, secured := true, scIndex := slot }
              else secDrop s p 0x10 f
            else { st := s.bump 307 4 p, frame := secStrip f t }

/-! ### Transmit (R116-R118, R125, R126) -/

/-- What the transmit side of a SecY makes of a frame without FCS: the frame that goes out, or a drop code. -/
structure TxVerdict where
  st : State
  frame : Bytes
  drop : Option Nat := none

/-- The SecTAG of a transmitted frame (IEEE 802.1AE). -/
def secTagBytes (y : SecY) (an pn dataLen : Nat) : Bytes :=
  toBe 2 0x88E5 ++ toBe 1 (32 * b2n y.includeSci + 12 * b2n y.confidential + an) ++
    toBe 1 (if dataLen < 48 then dataLen else 0) ++ toBe 4 (pn % 4294967296) ++ (if y.includeSci then toBe 8 y.txSci else [])

/-- R108, R116-R118: protects a frame with the transmit SA in use; without one every frame but injected EAPOL is dropped. While
the SA in use is invalidated every frame is dropped with code 0x14. -/
def State.secTransmit (s : State) (p : Nat) (f : Bytes) (injectedEapol : Bool) : TxVerdict :=
  let y := s.secy p
  if !s.sec.gradeS || !y.enabled then { st := s, frame := f }
  else match y.txInUse, y.txInUse.bind (fun n => y.sa 0 n) with
    | some n, some a =>
      if suiteMaxPn y.suite < a.nextPn then
        let z := if a.exhausted then s
          else (s.setSecy p { y with sas := y.sas.set n { a with exhausted := true } }).raise 0x0282 (d4 p ++ d4 n ++ d4 a.an)
        { st := z.bump 307 9 p, frame := f, drop := some 0x16 }
      else
        let pn := a.nextPn
        let body := f.drop 12
        let tag := secTagBytes y a.an pn body.length
        let off := if y.confidential then y.confOffset else body.length
        let aad := f.take 12 ++ tag ++ body.take off
        let text := if y.confidential then secText a y.txSci pn aad (body.drop off) else []
        let warn := !a.warned && y.warnAt ≤ pn + 1
        let z := s.setSecy p { y with sas := y.sas.set n { a with nextPn := pn + 1, warned := a.warned || warn } }
        let u := if warn then z.raise 0x0281 (d4 p ++ d4 n ++ d4 a.an ++ d8 (pn + 1)) else z
        { st := (u.bump 307 7 p).count 307 8 p 0 (b2n y.confidential)
          frame := aad ++ text ++ padTo 16 (Config.gcmIcv a.key a.salt a.ssci y.txSci pn aad text) }
    | _, _ =>
      if y.txLost then { st := s.bump 307 5 p 4, frame := f, drop := some 0x14 }
      else if injectedEapol then { st := s, frame := f } else { st := s.bump 307 10 p, frame := f, drop := some 0x17 }

/-- R108: the SA of a slot is invalidated by an error of its storage. -/
def State.saFault (s : State) (p slot n : Nat) : State :=
  let y := s.secy p
  match y.sa slot n with
  | none => s
  | some a =>
    (s.setSecy p { y with sas := y.sas.del (2 * slot + n), lost := y.lost.set (2 * slot + n) a.an }).raise 0x0283
      (d4 p ++ d4 slot ++ d4 n)

end Sys2Proof.Machine
end

