-- ==== Sys2Proof/Machine/Parser.lean ====
section
/-! DEFINITION. The parser (R128-R142, R146-R149, R751 of 04_parsing.md): one pass over the first 192 bytes of a frame, the
parse result of Table 04-2, and the flow hashes. -/
namespace Sys2Proof.Machine
open Sys2Proof

/-- Bits of Table 04-3. -/
abbrev pfSecured : Nat := 23
abbrev pfPtp : Nat := 22
abbrev pfInner : Nat := 21
abbrev pfHbh : Nat := 20
abbrev pfRouting : Nat := 19
abbrev pfL4Absent : Nat := 18
abbrev pfFragNonfirst : Nat := 17
abbrev pfFrag : Nat := 16
abbrev pfOptions : Nat := 15
abbrev pfDepth : Nat := 14
abbrev pfLenExcess : Nat := 13
abbrev pfL2 : Nat := 12

def Parse.has (p : Parse) (b : Nat) : Bool := bit p.flags b
def Parse.setFlag (p : Parse) (b : Nat) : Parse := if bit p.flags b then p else { p with flags := p.flags + 2 ^ b }
def Parse.clearFlag (p : Parse) (b : Nat) : Parse := if bit p.flags b then { p with flags := p.flags - 2 ^ b } else p
def Parse.vlanCount (p : Parse) : Nat := field p.flags 11 10
def Parse.ipKind (p : Parse) : Nat := field p.flags 9 8

/-- The parse result as it travels (Table 04-2). -/
def Parse.encode (p : Parse) : Bytes :=
  toLe 4 p.flags ++ toLe 4 p.hashA ++ toLe 4 p.hashB ++ toLe 2 p.frameLen ++ toLe 1 p.port ++ toLe 1 p.scIndex ++
    toLe 1 p.status ++ toLe 1 p.puntClass ++ toLe 1 p.resolved ++ toLe 1 p.mplsCount ++ toLe 1 p.l3Off ++ toLe 1 p.l4Off ++
    toLe 1 p.innerL3Off ++ toLe 1 p.innerL4Off ++ toLe 1 p.l4Proto ++ toLe 1 p.tos ++ toLe 1 p.ttl ++ zeros 1 ++
    toLe 2 p.outerTag ++ toLe 2 p.innerTag ++ toLe 2 p.etherType ++ toLe 4 p.entropy ++ zeros 2

/-- What the parser has found so far: the parse result, the fields that only the hash uses, and the bytes to cut (R138). -/
structure Walk where
  p : Parse
  cut : Nat := 0
  labels : List Nat := []
  entropyOn : Bool := false
  src : Bytes := zeros 16
  dst : Bytes := zeros 16
  flow : Nat := 0
  sport : Nat := 0
  dport : Nat := 0
  innerSrc : Bytes := zeros 16
  innerDst : Bytes := zeros 16
  innerSport : Nat := 0
  innerDport : Nat := 0
  key : Nat := 0

/-- The frame being parsed: its bytes without FCS and the policy of its port. -/
structure PIn where
  d : Bytes
  pol : Policy

/-- R142: the class of the first condition met. -/
def Walk.cls (w : Walk) (c : Nat) : Walk := if w.p.puntClass == 0 then { w with p := { w.p with puntClass := c } } else w

/-- R137: the packet is dropped under a code. -/
def Walk.drop (w : Walk) (code : Nat) : Walk := { w with p := { w.p with status := code, puntClass := 0 } }

def Walk.flag (w : Walk) (b : Nat) : Walk := { w with p := w.p.setFlag b }

/-- R134, R136: the depth is exceeded. -/
def Walk.deep (i : PIn) (w : Walk) : Walk := if i.pol.depthPunt then (w.flag pfDepth).cls 4 else w.flag pfDepth

/-- R134, R135: a header of `len` bytes at `off` is complete; else the packet is truncated or the depth exceeded. -/
def Walk.need (i : PIn) (off len : Nat) (w : Walk) (go : Walk → Walk) : Walk :=
  if i.d.length < off + len then w.drop 0x1C else if 192 < off + len then w.deep i else go w

/-- Bytes of a header that are inside the frame and the parser window: what an inner header may use (R132). -/
def PIn.has (i : PIn) (off len : Nat) : Bool := off + len ≤ i.d.length && off + len ≤ 192

/-! ### Inner headers (R132) -/

/-- Ones' complement sum of 16-bit words. -/
def sum16 : Bytes → Nat
  | a :: b :: r => a.toNat * 256 + b.toNat + sum16 r
  | [a] => a.toNat * 256
  | [] => 0

/-- Folds a sum into 16 bits. -/
def fold16 (n : Nat) : Nat := if n == 0 then 0 else let r := n % 65535; if r == 0 then 65535 else r

/-- The IPv4 header checksum is right. -/
def ipv4SumOk (h : Bytes) : Bool := fold16 (sum16 h) == 65535

/-- Inner TCP or UDP ports. -/
def innerL4 (i : PIn) (off proto : Nat) (w : Walk) : Walk :=
  if (proto == 6 || proto == 17) && i.has off 4 then
    { w with p := { w.p with innerL4Off := off }, innerSport := be i.d off 2, innerDport := be i.d (off + 2) 2 }
  else w

/-- An inner IPv4 header. -/
def innerV4 (i : PIn) (off : Nat) (w : Walk) : Walk :=
  let hl := 4 * (be i.d off 1 % 16)
  let tl := be i.d (off + 2) 2
  if !i.has off 20 || be i.d off 1 / 16 != 4 || hl < 20 || !i.has off hl || tl < hl || i.d.length < off + tl ||
      !ipv4SumOk (slice i.d off hl) then w
  else
    let fr := be i.d (off + 6) 2
    let x := { (w.flag pfInner) with innerSrc := zeros 12 ++ slice i.d (off + 12) 4, innerDst := zeros 12 ++ slice i.d (off + 16) 4 }
    let y := { x with p := { x.p with innerL3Off := off } }
    if bit fr 13 || fr % 8192 != 0 then y else innerL4 i (off + hl) (be i.d (off + 9) 1) y

/-- An inner IPv6 header, without extension headers. -/
def innerV6 (i : PIn) (off : Nat) (w : Walk) : Walk :=
  if !i.has off 40 || be i.d off 1 / 16 != 6 || i.d.length < off + 40 + be i.d (off + 4) 2 then w
  else
    let x := { (w.flag pfInner) with innerSrc := slice i.d (off + 8) 16, innerDst := slice i.d (off + 24) 16 }
    innerL4 i (off + 40) (be i.d (off + 6) 1) { x with p := { x.p with innerL3Off := off } }

/-- The inner IP header that an EtherType announces. -/
def innerIp (i : PIn) (off et : Nat) (w : Walk) : Walk :=
  if et == 0x0800 then innerV4 i off w else if et == 0x86DD then innerV6 i off w else w

/-- A VLAN TPID (Table 04-1). -/
def isTpid (et : Nat) : Bool := et == 0x8100 || et == 0x88A8 || et == 0x9100

/-- An inner Ethernet header with at most one VLAN tag. -/
def innerEth (i : PIn) (off : Nat) (w : Walk) : Walk :=
  if !i.has off 14 then w
  else if isTpid (be i.d (off + 12) 2) then
    if i.has (off + 14) 4 then innerIp i (off + 18) (be i.d (off + 16) 2) w else w
  else innerIp i (off + 14) (be i.d (off + 12) 2) w

/-! ### Outer headers -/

/-- PTP: a message type of 0-3 is an event (Table 04-3). -/
def parsePtp (i : PIn) (off : Nat) (w : Walk) : Walk :=
  w.need i off 34 (fun w => if be i.d off 1 % 16 ≤ 3 then w.flag pfPtp else w)

/-- The outer L4 header is resolved (R133). -/
def Walk.l4 (w : Walk) (off : Nat) : Walk := { w with p := { w.p.clearFlag pfL4Absent with l4Off := off } }

/-- GRE of version 0 (R133); inner headers only where the port parses GRE. Its first two bytes give its version and length. -/
def parseGre (i : PIn) (off : Nat) (w : Walk) : Walk :=
  let f := if i.has off 2 then be i.d off 2 else 0
  let len := 4 + 4 * b2n (bit f 15) + 4 * b2n (bit f 13) + 4 * b2n (bit f 12)
  if f % 8 != 0 then w
  else w.need i off len (fun w =>
    let x := w.l4 off
    let y := if bit f 13 then { x with key := be i.d (off + 4 + 4 * b2n (bit f 15)) 4 } else x
    let et := be i.d (off + 2) 2
    if !i.pol.gre then y else if et == 0x6558 then innerEth i (off + len) y else innerIp i (off + len) et y)

/-- A VXLAN header. -/
def parseVxlan (i : PIn) (off : Nat) (w : Walk) : Walk :=
  w.need i off 8 (fun w => innerEth i (off + 8) { w with key := be i.d (off + 4) 3 })

/-- The outer L4 header of an unfragmented packet (Table 04-1). -/
def parseL4 (i : PIn) (v6 : Bool) (off proto : Nat) (w : Walk) : Walk :=
  let ports (w : Walk) : Walk := { w.l4 off with sport := be i.d off 2, dport := be i.d (off + 2) 2 }
  if proto == 6 then w.need i off 20 ports
  else if proto == 132 then w.need i off 12 ports
  else if proto == 17 then
    w.need i off 8 (fun w =>
      let x := ports w
      if i.pol.vxlan && x.dport == i.pol.vxlanPort && i.has (off + 8) 1 && bit (be i.d (off + 8) 1) 3 then parseVxlan i (off + 8) x
      else if x.dport == 319 then parsePtp i (off + 8) x else x)
  else if proto == (if v6 then 58 else 1) then
    w.need i off 4 (fun w =>
      let x := { w.l4 off with sport := be i.d off 2 }
      if v6 && inRange (be i.d off 1) 133 137 && x.p.ttl == 255 then x.cls 3 else x)
  else if proto == 47 then parseGre i off w
  else w

/-- R137, R138: the IP length against the bytes available. -/
def Walk.ipLen (i : PIn) (off len code : Nat) (w : Walk) (go : Walk → Walk) : Walk :=
  let avail := i.d.length - off
  if avail < len then w.drop code
  else if avail - len > 46 - len then go ((w.flag pfLenExcess).cls 5)
  else go { w with cut := avail - len }

/-- R139: the packet is a fragment at an offset. -/
def Walk.frag (off : Nat) (w : Walk) : Walk := if off == 0 then w.flag pfFrag else (w.flag pfFrag).flag pfFragNonfirst

/-- The outer IPv4 header. -/
def parseV4 (i : PIn) (off : Nat) (w : Walk) : Walk :=
  let v := be i.d off 1
  let hl := 4 * (v % 16)
  let tl := be i.d (off + 2) 2
  w.need i off 20 (fun w =>
    if v / 16 != 4 || hl < 20 then w.drop 0x1A
    else if i.d.length < off + hl then w.drop 0x1C
    else if tl < hl then w.drop 0x1A
    else w.need i off hl (fun w =>
      if !ipv4SumOk (slice i.d off hl) then w.drop 0x1A
      else
        let fr := be i.d (off + 6) 2
        let proto := be i.d (off + 9) 1
        let x := { w with
          p := { w.p with
            flags := w.p.flags + 256, resolved := 2, l3Off := off, l4Proto := proto, tos := be i.d (off + 1) 1
            ttl := be i.d (off + 8) 1 }
          src := zeros 12 ++ slice i.d (off + 12) 4, dst := zeros 12 ++ slice i.d (off + 16) 4 }
        let y := if 20 < hl then x.flag pfOptions else x
        y.ipLen i off tl 0x18 (fun w =>
          if bit fr 13 || fr % 8192 != 0 then
            if fr % 8192 == 1 && proto == 6 then (w.frag (fr % 8192)).drop 0x1D else w.frag (fr % 8192)
          else parseL4 i false (off + hl) proto w)))

/-- The extension headers of an IPv6 packet and then its L4 header; `n` have been parsed. -/
def parseExt (i : PIn) : Nat → Nat → Nat → Nat → Bool → Walk → Walk
  | 0, _, _, _, _, w => w
  | fuel + 1, n, off, nh, fragged, w =>
    let w := { w with p := { w.p with l4Proto := nh } }
    if nh == 0 && n != 0 then w.drop 0x1E
    else if nh == 0 || nh == 43 || nh == 44 || nh == 60 then
      let len := if nh == 44 then 8 else 8 * (be i.d (off + 1) 1 + 1)
      if i.d.length < off + 8 || i.d.length < off + len then w.drop 0x1C
      else if n == 2 then w.deep i
      else w.need i off 8 (fun w => w.need i off len (fun w =>
        let x := if nh == 0 then (if i.pol.hbhPunt then (w.flag pfHbh).cls 8 else w.flag pfHbh)
          else if nh == 43 then w.flag pfRouting
          else if nh == 44 then w.frag (be i.d (off + 2) 2 / 8) else w
        parseExt i fuel (n + 1) (off + len) (be i.d off 1) (fragged || nh == 44) x))
    else if fragged then w
    else parseL4 i true off nh w

/-- The outer IPv6 header. -/
def parseV6 (i : PIn) (off : Nat) (w : Walk) : Walk :=
  w.need i off 40 (fun w =>
    if be i.d off 1 / 16 != 6 then w.drop 0x1B
    else
      let x := { w with
        p := { w.p with
          flags := w.p.flags + 512, resolved := 3, l3Off := off, l4Proto := be i.d (off + 6) 1
          tos := be i.d off 2 / 16 % 256, ttl := be i.d (off + 7) 1 }
        flow := be i.d off 4 % 1048576, src := slice i.d (off + 8) 16, dst := slice i.d (off + 24) 16 }
      x.ipLen i off (40 + be i.d (off + 4) 2) 0x19 (fun w => parseExt i 4 0 (off + 40) (be i.d (off + 6) 1) false w))

/-- The label stack (R130, R131): `n` labels parsed; `el` says that the label before was the entropy label indicator. -/
def parseMpls (i : PIn) : Nat → Nat → Nat → Bool → Walk → Walk
  | 0, _, _, _, w => w
  | fuel + 1, n, off, el, w =>
    if i.d.length < off + 4 then w.drop 0x1C
    else if n == 12 then w.deep i
    else w.need i off 4 (fun w =>
      let v := be i.d off 4
      let label := v / 4096
      let x := { w with p := { w.p with resolved := 1, mplsCount := n + 1 }, labels := w.labels ++ [label] }
      let y := if el then { x with p := { x.p with entropy := label }, entropyOn := true } else x
      if bit v 8 then
        let nib := be i.d (off + 4) 1 / 16
        if i.d.length ≤ off + 4 then y
        else if nib == 4 then parseV4 i (off + 4) y
        else if nib == 6 then parseV6 i (off + 4) y else y
      else parseMpls i fuel (n + 1) (off + 4) (label == 7) y)

/-- R146: an EtherType that Table 04-1 does not recognise, or a length. -/
def parseUnknown (i : PIn) (w : Walk) : Walk :=
  if w.p.puntClass != 0 then w
  else if i.pol.unknown == 0 then w.drop 0x1F else if i.pol.unknown == 1 then w.cls 9 else w

/-- What the EtherType after the tags announces. -/
def parseType (i : PIn) (off et : Nat) (w : Walk) : Walk :=
  if et == 0x8847 || et == 0x8848 then parseMpls i 13 0 off false w
  else if et == 0x0800 then parseV4 i off w
  else if et == 0x86DD then parseV6 i off w
  else if et == 0x0806 then w.need i off 28 (fun w => w.cls 2)
  else if et == 0x88F7 then parsePtp i off w
  else if et == 0x8809 || et == 0x88CC || et == 0x888E then (w.flag pfL2).cls 1
  else parseUnknown i w

/-- The VLAN tags, of which `n` have been parsed; `et` is the EtherType read last. -/
def parseTags (i : PIn) : Nat → Nat → Nat → Nat → Walk → Walk
  | 0, _, _, _, w => w
  | fuel + 1, n, off, et, w =>
    let w := { w with p := { w.p with etherType := et } }
    if isTpid et then
      if i.d.length < off + 4 then w.drop 0x1C
      else if n == 2 then w.deep i
      else
        let tci := be i.d off 2
        let x := { w with p := { w.p with
          flags := w.p.flags + 1024, outerTag := if n == 0 then tci else w.p.outerTag
          innerTag := if n == 1 then tci else w.p.innerTag } }
        parseTags i fuel (n + 1) (off + 4) (be i.d (off + 2) 2) x
    else parseType i off et w

/-- The destination lies in 01-80-C2-00-00-00 to 01-80-C2-00-00-0F (R58, R751). -/
def reservedDest (f : Bytes) : Bool := be f 0 6 / 16 == 0x0180C200000

/-! ### Hashes (R147, R148) -/

/-- One byte into a 32-bit CRC register, most significant bit first. -/
def crcMsb (poly : BitVec 32) (r : BitVec 32) (b : Byte) : BitVec 32 :=
  (List.range 8).foldl (fun (x : BitVec 32) k =>
    if x.msb != b.getLsbD (7 - k) then (x <<< 1) ^^^ poly else x <<< 1) r

/-- R148: function 0 CRC-32, 1 CRC-32C, 2 CRC-32K, from a seed. -/
def flowHash (fn seed : Nat) (key : Bytes) : Nat :=
  let poly := if fn == 0 then 0x04C11DB7#32 else if fn == 1 then 0x1EDC6F41#32 else 0x741B8CD7#32
  (key.foldl (crcMsb poly) (BitVec.ofNat 32 seed)).toNat

/-- Two fields, the lower value first where the profile is symmetric. -/
def pairOf (sym : Bool) (a b : Bytes) : Bytes := if sym && beValue 0 b < beValue 0 a then b ++ a else a ++ b

/-- Two fields of Table 07 under their mask bits; a symmetric pair counts only where both are selected. -/
def pairIf (mask i j : Nat) (a b : Bytes) : Bytes :=
  if bit mask i && bit mask j then pairOf (bit mask 15) a b
  else (if bit mask i then a else []) ++ (if bit mask j then b else [])

/-- R147: the hash key of Table 04-7. -/
def hashKey (mask : Nat) (d : Bytes) (w : Walk) : Bytes :=
  let sel (i : Nat) (b : Bytes) : Bytes := if bit mask i then b else []
  let sym := bit mask 15
  sel 0 (toBe 1 w.p.port) ++ pairIf mask 1 2 (padTo 6 (slice d 0 6)) (padTo 6 (slice d 6 6)) ++ sel 3 (toBe 2 w.p.etherType) ++
    sel 4 (toBe 2 (w.p.outerTag % 4096)) ++
    sel 5 (if w.entropyOn then toBe 3 w.p.entropy ++ zeros 6
      else padTo 9 ((w.labels.take 3).flatMap (fun l => toBe 3 l))) ++
    pairIf mask 6 7 w.src w.dst ++ sel 8 (toBe 1 w.p.l4Proto) ++ sel 9 (toBe 3 w.flow) ++
    pairIf mask 10 11 (toBe 2 w.sport) (toBe 2 w.dport) ++ sel 12 (pairOf sym w.innerSrc w.innerDst) ++
    sel 13 (pairOf sym (toBe 2 w.innerSport) (toBe 2 w.innerDport)) ++ sel 14 (toBe 4 w.key)

/-- The parse of a frame without FCS: the parse result, and the excess to be cut (R138). -/
def parseFrame (pol : Policy) (prof : HashProf) (port scIndex : Nat) (secured : Bool) (d : Bytes) : Parse × Nat :=
  let i : PIn := { d, pol }
  let p0 : Parse := {
    flags := 2 ^ pfL4Absent + (if secured then 2 ^ pfSecured else 0), frameLen := d.length + 4, port, scIndex }
  let w0 : Walk := { p := p0 }
  let w := w0.need i 0 14 (fun w =>
    parseTags i 4 0 14 (be d 12 2) (if reservedDest d then (w.flag pfL2).cls 1 else w))
  let q := if w.p.has pfFrag || w.p.has pfDepth && w.p.l4Off == 0 then { w.p.setFlag pfL4Absent with l4Off := 0 } else w.p
  ({ q with
      hashA := flowHash prof.fnA prof.seedA (hashKey prof.mask d w)
      hashB := flowHash prof.fnB prof.seedB (hashKey prof.mask d w) },
    if q.puntClass == 5 || q.has pfLenExcess then 0 else w.cut)

/-- The hash profile of a port. -/
def State.hashProf (s : State) (p : Nat) : HashProf := s.parse.profiles.getD ((s.prt p).policy.hashProfile) {}

/-! ### Commands -/

/-- PARSE_POLICY_SET (R150, Table 04-10). -/
def parsePolicySetSpec : CmdSpec :=
  { opcode := 0x0301, long := fun b => 8 ≤ b.length, clean := fun b => flagsIn b 1 6 && rsv b 5 3 }

def cmdParsePolicySet (c : Cmd) (s : State) : Res :=
  gate parsePolicySetSpec (fun c s =>
    let b := c.payload
    let p := byteAt b 0
    let fl := byteAt b 1
    if !s.portExists p then Res.err s stNotFound
    else if field fl 2 1 == 3 || le b 2 2 == 0 || 15 < byteAt b 4 then Res.err s stBadParam
    else { st := s.updPrt p (fun x => { x with policy := {
        depthPunt := bit fl 0, unknown := field fl 2 1, hbhPunt := bit fl 3, vxlan := bit fl 4, gre := bit fl 5
        vxlanPort := le b 2 2, hashProfile := byteAt b 4 } }) }) c s

def execParsePolicySet (c : Cmd) (s : State) : Out := serve c cmdParsePolicySet s

/-- PARSE_POLICY_GET. -/
def parsePolicyGetSpec : CmdSpec :=
  { opcode := 0x0302, long := fun b => 1 ≤ b.length, size := fun _ => 8, reads := true }

def cmdParsePolicyGet (c : Cmd) (s : State) : Res :=
  gate parsePolicyGetSpec (fun c s =>
    let p := byteAt c.payload 0
    let x := (s.prt p).policy
    if !s.portExists p then Res.err s stNotFound
    else
      { st := s
        result := toLe 1 p ++ toLe 1 (b2n x.depthPunt + 2 * x.unknown + 8 * b2n x.hbhPunt + 16 * b2n x.vxlan +
          32 * b2n x.gre) ++ toLe 2 x.vxlanPort ++ toLe 1 x.hashProfile ++ zeros 3 }) c s

def execParsePolicyGet (c : Cmd) (s : State) : Out := serve c cmdParsePolicyGet s

/-- HASH_PROFILE_SET (R150, Table 04-11). -/
def hashProfileSetSpec : CmdSpec := { opcode := 0x0304, long := fun b => 12 ≤ b.length, clean := fun b => flagsIn b 1 4 }

def cmdHashProfileSet (c : Cmd) (s : State) : Res :=
  gate hashProfileSetSpec (fun c s =>
    let b := c.payload
    let f := byteAt b 1
    if 15 < byteAt b 0 || f % 4 == 3 || f / 4 == 3 then Res.err s stBadParam
    else { st := { s with parse.profiles := s.parse.profiles.set (byteAt b 0) {
        fnA := f % 4, fnB := f / 4, mask := le b 2 2, seedA := le b 4 4, seedB := le b 8 4 } } }) c s

def execHashProfileSet (c : Cmd) (s : State) : Out := serve c cmdHashProfileSet s

/-- Numbers of values of the names of Table 04-12 for one port. -/
def parseCounts : List Nat := [1, 12, 1, 1, 1, 9]

/-- PARSE_COUNTERS_GET (R745, Table 04-12). -/
def parseCountersGetSpec : CmdSpec :=
  { opcode := 0x0309, long := fun b => 1 ≤ b.length, size := fun _ => 8 * (parseCounts.sum + 64), reads := true }

def cmdParseCountersGet (c : Cmd) (s : State) : Res :=
  gate parseCountersGetSpec (fun c s =>
    let p := byteAt c.payload 0
    if !s.portExists p then Res.err s stNotFound
    else
      { st := s
        result := (numbered 0 parseCounts).flatMap (fun e =>
            (List.range e.2).flatMap (fun j => toLe 8 (s.ctrVal 412 e.1 p j))) ++
          (List.range 63).flatMap (fun k => toLe 8 (s.ctrVal 412 6 k)) ++ toLe 8 (s.ctrVal 412 7) }) c s

def execParseCountersGet (c : Cmd) (s : State) : Out := serve c cmdParseCountersGet s

/-- PARSE_TEST (R128). -/
def parseTestSpec : CmdSpec :=
  { opcode := 0x030A, long := fun b => 4 ≤ b.length && 4 + le b 2 2 ≤ b.length, clean := fun b => rsv b 1 1
    size := fun _ => 40 }

def cmdParseTest (c : Cmd) (s : State) : Res :=
  gate parseTestSpec (fun c s =>
    let p := byteAt c.payload 0
    let n := le c.payload 2 2
    if !s.portExists p then Res.err s stNotFound
    else if !inRange n 14 192 then Res.err s stBadParam
    else
      { st := s
        result := (parseFrame (s.prt p).policy (s.hashProf p) p 0 false (slice c.payload 4 n)).1.encode }) c s

def execParseTest (c : Cmd) (s : State) : Out := serve c cmdParseTest s

/-! ### Receiving a frame and taking a parser slot -/

/-- Checks 5 to 9 of Table 02-2 on a frame without FCS. -/
def State.headChecks (s : State) (p : Nat) (f : Bytes) : Option Nat :=
  let x := s.prt p
  let et := be f 12 2
  let et1 := if isTpid et then be f 16 2 else et
  let et2 := if isTpid et && isTpid et1 then be f 20 2 else et1
  let da := be f 0 6
  let group := bit (be f 0 1) 0
  let listed := x.cfg.filter.any (fun e => e.valid && e.addr == da)
  if et2 == 0x8808 then some 0x08
  else if x.rxDisabled || s.planeMode == mdDrain then some 0x09
  else if reservedDest f then none
  else if !group then if listed || x.cfg.promisc then none else some 0x05
  else if da == 0xFFFFFFFFFFFF then if x.cfg.bcast then none else some 0x07
  else if x.cfg.mclass == 2 || (x.cfg.mclass == 1 && listed) then none else some 0x06

/-- Checks 1 to 4 of Table 02-2 on a frame with FCS. -/
def State.frameChecks (s : State) (p : Nat) (b : Bytes) (errAt : Option Nat) : Option Nat :=
  let mx := (s.prt p).cfg.maxFrame
  let early := (errAt.map (fun k => decide (k < mx))).getD false
  if early then some 0x04
  else if mx < b.length then some 0x03
  else if errAt.isSome then some 0x04
  else if b.length < 4 || slice b (b.length - 4) 4 != fcsOf (b.take (b.length - 4)) then some 0x01
  else if b.length < 64 then some 0x02
  else none

/-- The bytes that the frames of a port hold in its receive buffer (R59): frames that wait for a parser slot hold all of
theirs as received, parsed ones those beyond byte 191 that have not crossed. -/
def Port.rxHeld (x : Port) : Nat := (x.rxBuf.map (fun f => f.wire)).sum + x.rxCross

/-- R59, R750: the bytes of a parsed frame beyond byte 191 leave the receive buffer. -/
def State.rxCrossed (s : State) (k : LkPkt) : State :=
  if k.wire == 0 then s else s.updPrt k.parse.port (fun x => { x with rxCross := x.rxCross - k.wire })

/-- Counts a frame dropped on receive (Table 02-7, Table 18-2). -/
def State.rxDrop (s : State) (p code : Nat) : State := (s.bump 207 2 p (code - 1)).perfCount 0 1 p 2

/-- RECEIVE_FRAME (R55-R61, R99, R109, R516, R517): the checks of Tables 02-2 and 03-2. A frame whose head takes its parser slot
before its last byte arrives goes on, and what its tail will show travels with it: one that fails check 1, 2 or 3 then is counted
under that code alone and leaves the SecY as it was (R113). -/
def execReceiveFrame (port : Nat) (f : RxInput) (s : State) : Out :=
  onPort port s (fun s =>
    let x := s.prt port
    if !(s.portExists port && x.up && s.dataPlaneOn) then .next s
    else
      let g := s.fecReport port f.fec
      let b := f.bytes
      let body := b.take (b.length - 4)
      let cap := 16384 * modeLanes (s.grp (port / 16)).running
      let early := f.headFirst && x.rxBuf.isEmpty && 192 < b.length && (f.errAt.map (fun k => decide (192 ≤ k))).getD true &&
        (g.headChecks port body).isNone
      let tailCode := g.frameChecks port b f.errAt
      let stamp := s.t32 + BitVec.ofInt 32 x.rxAdjust
      match tailCode, early with
      | some c, false => done s (g.rxDrop port c)
      | some c, true =>
        let v := g.secReceive port body true
        match v.drop with
        | some _ => done s (g.rxDrop port c)
        | none => done s ((g.rxDrop port c).updPrt port (fun y => { y with rxBuf := y.rxBuf ++
            [{ frame := v.frame, rxT32 := stamp, secured := v.secured, scIndex := v.scIndex, tail := .bad c }] }))
      | none, _ =>
        match g.headChecks port body with
        | some c => done s (g.rxDrop port c)
        | none =>
          if !early && cap < x.rxHeld + b.length then done s (g.rxDrop port 0x0A)
          else
            let a := ((g.bump 207 0 port).count 207 1 port 0 b.length).perfCount 0 1 port 1
            let v := a.secReceive port body early
            match v.drop with
            | some _ => done s v.st
            | none => done s (v.st.updPrt port (fun y => { y with rxBuf := y.rxBuf ++
                [{ frame := v.frame, rxT32 := stamp, secured := v.secured, scIndex := v.scIndex
                   tail := if !early then .here else if v.badIcv then .bad 0x10 else .good
                   wire := if early then 0 else b.length }] })))

/-- Counts what a parse shows (Table 04-12). -/
def State.countParse (s : State) (p : Parse) : State :=
  let a := s.bump 412 0 p.port
  let b := if p.has pfDepth then a.bump 412 2 p.port else a
  let c := if p.has pfLenExcess then b.bump 412 3 p.port else b
  let d := if p.has pfFrag then c.bump 412 4 p.port else c
  if p.status != 0 then d.bump 412 1 p.port (p.status - 0x18) else d

/-- PARSER_SLOT (R59, R128-R142): the oldest frame of the port is parsed; a failed check drops it, else it enters the lookup
pipelines. -/
def execParserSlot (port : Nat) (s : State) : Out :=
  onPort port s (fun s =>
    match (s.prt port).rxBuf with
    | [] => .next s
    | f :: r =>
      if !s.dataPlaneOn || s.parsersIn == 0 then .next s
      else
        let p := parseFrame (s.prt port).policy (s.hashProf port) port f.scIndex f.secured f.frame
        let a := ((s.updPrt port (fun y => { y with rxBuf := r })).countParse p.1).servedBy 2 (pipesIn s.parse.pipesOut)
          [(1, 1), (2, b2n (p.1.puntClass != 0)), (3, b2n (p.1.has pfDepth))]
        if p.1.status != 0 then done s (a.tsDropped port f.tsReq)
        else
          let d := a.updPrt port (fun y => { y with rxCross := y.rxCross + (f.wire - 192) })
          done s { d with parse.lookupQ := d.parse.lookupQ ++
            [{ frame := f.frame, parse := p.1, cut := p.2, rxT32 := f.rxT32, tail := f.tail, tsReq := f.tsReq
               wire := f.wire - 192 }] })

/-- Removes the packets at the given places of a list, and hands them out. -/
def takeAt {α : Type} (l : List α) (at_ : List Nat) : List α × List α :=
  (((numbered 0 l).filter (fun e => at_.contains e.1)).map Prod.snd,
    ((numbered 0 l).filter (fun e => !at_.contains e.1)).map Prod.snd)

/-- PARSER_PIPELINE_ERROR (R160): the packets that the pipeline holds, named by their places in the queue of parsed packets,
are dropped with code 0x22; the pipeline is retired. -/
def execParserPipelineError (pipeline : Nat) (held : List Nat) (s : State) : Out :=
  if 17 ≤ pipeline then .fault .noSuchUnit
  else if !s.aux.pllLocked then .next s
  else if s.parse.pipesOut.contains pipeline || (pipeline == 16 && s.parse.pipesOut.isEmpty) then .next s
  else
    let l := takeAt s.parse.lookupQ held
    let a := l.1.foldl (fun (x : State) k => ((x.rxCrossed k).bump 412 1 k.parse.port 10).tsDropped k.parse.port k.tsReq)
      { s with parse.lookupQ := l.2 }
    let b := { a with parse.pipesOut := a.parse.pipesOut ++ [pipeline] }.bump 412 7
    let d := b.record { kind := 5, die := 0, cause := 2, unit := pipeline, index := 16, hours := s.hours }
    done s ((d.raise 0x0382 (d4 pipeline ++ d4o (if s.parse.pipesOut.isEmpty then some 16 else none))).pipelineCheck)

end Sys2Proof.Machine
end

