-- ==== Sys2Proof/Machine/LoadBal.lean ====
section
/-! DEFINITION. Load spreading and the slow path (R142-R145, R151-R158, R753, R758 of 04_parsing.md): ECMP groups and LAGs
with their slots, and the token buckets of the slow-path classes. The table write port and what a table index names. -/
namespace Sys2Proof.Machine
open Sys2Proof

/-! ### Slow-path classes -/

/-- Default rate and burst of a class (Tables 04-6, 05-15). -/
def classDefault (c : Nat) : Nat × Nat :=
  if inRange c 1 3 || c == 0x0B then (20000, 256)
  else if c == 7 || c == 0x0A || c == 0x0C || c == 0x0D then (10000, 128)
  else if c == 4 || c == 5 || c == 6 || c == 8 || c == 9 then (1000, 64)
  else (0, 0)

/-- One packet of a class's bucket. -/
abbrev packetToken : Nat := 750000000

/-- A class with its bucket as last written; full at reset (R753). -/
def State.slowClass (s : State) (c : Nat) : SlowClass :=
  let d := classDefault c
  s.parse.classes.getD c { channel := 0, rate := d.1, burst := d.2, tokens := d.2 * packetToken, at_ := 0 }

/-- R143: the class with its bucket refilled to now. -/
def State.slowNow (s : State) (c : Nat) : SlowClass :=
  let x := s.slowClass c
  { x with
    tokens := Nat.min (x.burst * packetToken) (x.tokens + x.rate * (s.time.ticks - x.at_)), at_ := s.time.ticks }

/-- SLOWPATH_CLASS_SET (R143, R753). A rate of 0 disables the class, whatever the burst. -/
def slowpathClassSetSpec : CmdSpec :=
  { opcode := 0x0303, long := fun b => 12 ≤ b.length, clean := fun b => rsv b 2 2 && rsv b 10 2 }

def cmdSlowpathClassSet (c : Cmd) (s : State) : Res :=
  gate slowpathClassSetSpec (fun c s =>
    let b := c.payload
    let k := byteAt b 0
    let ch := byteAt b 1
    let rate := le b 4 4
    let burst := le b 8 2
    if !inRange k 1 0x3F || k == 0x0E || 10000000 < rate || (rate != 0 && burst == 0) then Res.err s stBadParam
    else if ch != 0 && !((s.chan ch).configured && !(s.chan ch).inject) then Res.err s stNotFound
    else
      let x := s.slowNow k
      let tokens := if x.rate == 0 then burst * packetToken else Nat.min x.tokens (burst * packetToken)
      { st := { s with parse.classes := s.parse.classes.set k { channel := ch, rate, burst, tokens, at_ := s.time.ticks } } })
    c s

def execSlowpathClassSet (c : Cmd) (s : State) : Out := serve c cmdSlowpathClassSet s

/-! ### The table write port (R22-R24) -/

/-- Counts entries applied by the table write port (Table 05-19). -/
def State.wrote (s : State) (n : Nat) : State := (s.count 519 5 0 0 n).perfCount 0 5 0 1 n

/-! ### Objects that a table entry may name (R190) -/

/-- R190, R200: the object is set and not retiring: kind 0 next-hop, 1 ECMP group, 2 encapsulation. -/
def State.retiring (s : State) (kind i : Nat) : Bool := s.tbl.retiring.any (fun r => r.kind == kind && r.index == i)
def State.nexthop (s : State) (i : Nat) : Nexthop := s.tbl.nexthops.getD i {}
def State.nexthopSet? (s : State) (i : Nat) : Bool := (s.nexthop i).type != 0 && !s.retiring 0 i
def State.ecmpSet? (s : State) (g : Nat) : Bool := (s.tbl.ecmps.get? g).isSome && !s.retiring 1 g
def State.encap (s : State) (i : Nat) : Encap := s.edit.encaps.getD i {}
def State.encapSet? (s : State) (i : Nat) : Bool := (s.encap i).valid && !s.retiring 2 i
def State.mcGroup? (s : State) (g : Nat) : Option McGroup := (s.edit.groups.get? g).filter (fun x => x.deletedAt.isNone)

/-! ### The poison list (R209, R211) -/

/-- The poison list holds an entry of a table (2 label, 3 next-hop, 4 ECMP record, 5 member entry) at an index. -/
def State.poisonedEntry (s : State) (table i : Nat) : Bool := s.tbl.poison.any (fun e => e.2.table == table && e.2.index == i)

/-- R209, R760: a written entry leaves the poison list; the condition poison_list clears with a free entry (Table 17-3). -/
def State.unpoison (s : State) (table i : Nat) : State :=
  if s.poisonedEntry table i then
    { s with tbl.poison := s.tbl.poison.filter (fun e => !(e.2.table == table && e.2.index == i)) }.clearCond 3
  else s

/-- R209, R760: the member entries from `base` on are written. -/
def State.unpoisonRun (s : State) (base n : Nat) : State := (List.range n).foldl (fun (a : State) i => a.unpoison 5 (base + i)) s

/-- R209, R764: the members of a group are copied to a new run. What the new entries held is overwritten; a member entry that is
lost cannot be copied and stays lost at its new place (DEDUCED: the host has not written it again). -/
def State.movePoison (s : State) (old new n : Nat) : State :=
  let t := s.unpoisonRun new n
  { t with tbl.poison := t.tbl.poison.map (fun e =>
    if e.2.table == 5 && old ≤ e.2.index && e.2.index < old + n then (e.1, { e.2 with index := new + (e.2.index - old) }) else e) }

/-! ### Slots and members (R151-R157) -/

/-- The slots that hold a position. -/
def slotCount (l : List Nat) (m : Nat) : Nat := (l.filter (fun x => x == m)).length

/-- The position of `ms` with the fewest slots, the lowest on a tie. -/
def fewest (l : List Nat) : List Nat → Option Nat
  | [] => none
  | m :: r => match fewest l r with
    | none => some m
    | some k => if slotCount l m ≤ slotCount l k then some m else some k

/-- The position of `ms` with the most slots, the highest on a tie. -/
def most (l : List Nat) : List Nat → Option Nat
  | [] => none
  | m :: r => match most l r with
    | none => some m
    | some k => if slotCount l k < slotCount l m then some m else some k

/-- R154: the slots of a removed position are dealt to the remaining ones. -/
def dealSlots (m : Nat) (rest : List Nat) (l : List Nat) : List Nat :=
  (List.range 256).foldl (fun a i =>
    if a.getD i 0 == m then match fewest a rest with | some t => setAt a i t | none => a else a) l

/-- R154: a new position takes slots until it holds its share; the highest-numbered slot of the position with the most. -/
def takeSlots (m target : Nat) (rest : List Nat) : Nat → List Nat → List Nat
  | 0, l => l
  | n + 1, l =>
    if slotCount l m < target then
      match (most l rest).bind (fun d => ((List.range 256).reverse).find? (fun i => l.getD i 0 == d)) with
      | some i => takeSlots m target rest n (setAt l i m)
      | none => l
    else l

/-- R153: the lowest empty position. -/
def emptyPos (members : Tbl Nat) : Nat :=
  ((List.range 128).find? (fun p => (members.get? p).isNone)).getD 128

/-- R153, R154: members and slots after a member joins. -/
def addMember (members : Tbl Nat) (slots : List Nat) (v : Nat) : Tbl Nat × List Nat :=
  let m := emptyPos members
  let ms := members.set m v
  if members.isEmpty then (ms, List.replicate 256 m)
  else (ms, takeSlots m (256 / ms.length) (members.map Prod.fst) 256 slots)

/-- R154: members and slots after the member at a position has left. -/
def dropMember (members : Tbl Nat) (slots : List Nat) (m : Nat) : Tbl Nat × List Nat :=
  let ms := members.del m
  (ms, dealSlots m (ms.map Prod.fst) slots)

/-- Slots whose entry differs. -/
def changedSlots (a b : List Nat) : Nat := ((List.range 256).filter (fun i => a.getD i 0 != b.getD i 0)).length

/-- The position of a member. -/
def memberPos (members : Tbl Nat) (v : Nat) : Option Nat := (members.find? (fun e => e.2 == v)).map Prod.fst

/-! ### The ECMP member pool (R764) -/

/-- The runs of the pool that are in use: base and entries. -/
def State.poolRuns (s : State) : List (Nat × Nat) :=
  s.tbl.ecmps.map (fun e => (e.2.base, e.2.capacity)) ++ s.tbl.oldRuns.map (fun r => (r.2.1, r.2.2))

/-- The lowest start, the pool's start or the end of a run, at which `n` entries are free. -/
def State.freeRun (s : State) (n : Nat) : Option Nat :=
  ((0 :: (s.poolRuns.map (fun r => r.1 + r.2))).filter (fun b =>
    b + n ≤ 524288 && s.poolRuns.all (fun r => r.1 + r.2 ≤ b || b + n ≤ r.1))).min?

/-- Member pool entries allocated to groups. -/
def State.poolEntriesUsed (s : State) : Nat := (s.poolRuns.map Prod.snd).sum

/-- Table 05-18: event 0x0482 when an area passes 90 % of its slots, again only after it has fallen below 80 %. -/
def State.noteFill (s : State) (area used slots : Nat) (raised : Bool) (set : Bool → State → State) : State :=
  if !raised && slots * 9 < used * 10 then (set true s).raise 0x0482 (d4 area)
  else if raised && used * 10 < slots * 8 then set false s else s

def State.notePoolFill (s : State) : State :=
  s.noteFill 2 s.poolEntriesUsed 524288 s.tbl.fillPool (fun b t => { t with tbl.fillPool := b })

/-! ### Commands -/

/-- LB_MEMBER_ADD (R153-R156, R764). -/
def lbMemberAddSpec : CmdSpec := { opcode := 0x0305, long := fun b => 8 ≤ b.length, clean := fun b => rsv b 1 1 }

def cmdLbMemberAdd (c : Cmd) (s : State) : Res :=
  gate lbMemberAddSpec (fun c s =>
    let b := c.payload
    let g := le b 2 2
    let v := le b 4 4
    if byteAt b 0 == 0 then
      match s.tbl.ecmps.get? g with
      | none => Res.err s stNotFound
      | some x =>
        if s.retiring 1 g then Res.err s stBusy
        else if !(v < 1048576 && s.nexthopSet? v) then Res.err s stNotFound
        else if (memberPos x.members v).isSome then Res.err s stExists
        else if 128 ≤ x.members.length then Res.err s stNoResource
        else
          let r := addMember x.members x.slots v
          let y := { x with members := r.1, slots := r.2 }
          if x.members.length < x.capacity then
            { st := ({ s with tbl.ecmps := s.tbl.ecmps.set g y }.unpoison 5 (x.base + emptyPos x.members)).wrote
                (1 + changedSlots x.slots r.2) }
          else match s.freeRun (x.capacity + 8) with
            | none => Res.err s stNoResource
            | some base =>
              let t := (s.movePoison x.base base x.capacity).unpoison 5 (base + emptyPos x.members)
              { st := (({ t with
                  tbl.ecmps := t.tbl.ecmps.set g { y with capacity := x.capacity + 8, base := base }
                  tbl.oldRuns := t.tbl.oldRuns ++ [(g, x.base, x.capacity)] }).notePoolFill).wrote
                    (2 + x.members.length + changedSlots x.slots r.2) }
    else if byteAt b 0 == 1 then
      let x := s.parse.lags.getD g {}
      if 128 ≤ g then Res.err s stNotFound
      else if 32768 ≤ v then Res.err s stBadParam
      else if (memberPos x.members v).isSome then Res.err s stExists
      else if 64 ≤ x.members.length then Res.err s stNoResource
      else
        let r := addMember x.members x.slots v
        { st := { s with parse.lags := s.parse.lags.set g { x with members := r.1, slots := r.2 } }.wrote
            (1 + changedSlots x.slots r.2) }
    else Res.err s stBadParam) c s

def execLbMemberAdd (c : Cmd) (s : State) : Out := serve c cmdLbMemberAdd s

/-- LB_MEMBER_REMOVE (R154, R156). -/
def lbMemberRemoveSpec : CmdSpec := { opcode := 0x0306, long := fun b => 8 ≤ b.length, clean := fun b => rsv b 1 1 }

def cmdLbMemberRemove (c : Cmd) (s : State) : Res :=
  gate lbMemberRemoveSpec (fun c s =>
    let b := c.payload
    let g := le b 2 2
    let v := le b 4 4
    if byteAt b 0 == 0 then
      match s.tbl.ecmps.get? g with
      | none => Res.err s stNotFound
      | some x =>
        match memberPos x.members v with
        | none => if s.retiring 1 g then Res.err s stBusy else Res.err s stNotFound
        | some m =>
          if s.retiring 1 g then Res.err s stBusy
          else if x.members.length == 1 then Res.err s stRefused
          else
            let r := dropMember x.members x.slots m
            { st := ({ s with tbl.ecmps := s.tbl.ecmps.set g { x with members := r.1, slots := r.2 } }.unpoison 5
                (x.base + m)).wrote (changedSlots x.slots r.2) }
    else if byteAt b 0 == 1 then
      let x := s.parse.lags.getD g {}
      if 128 ≤ g then Res.err s stNotFound
      else match memberPos x.members v with
        | none => Res.err s stNotFound
        | some m =>
          if x.members.length == 1 then Res.err s stRefused
          else
            let r := dropMember x.members x.slots m
            { st := { s with parse.lags := s.parse.lags.set g { x with members := r.1, slots := r.2 } }.wrote
                (changedSlots x.slots r.2) }
    else Res.err s stBadParam) c s

def execLbMemberRemove (c : Cmd) (s : State) : Out := serve c cmdLbMemberRemove s

/-- LB_SLOTS_SET (R155). -/
def lbSlotsSetSpec : CmdSpec := { opcode := 0x0307, long := fun b => 260 ≤ b.length, clean := fun b => rsv b 1 1 }

def cmdLbSlotsSet (c : Cmd) (s : State) : Res :=
  gate lbSlotsSetSpec (fun c s =>
    let b := c.payload
    let g := le b 2 2
    let l := (List.range 256).map (fun i => byteAt b (4 + i))
    if byteAt b 0 == 0 then
      match s.tbl.ecmps.get? g with
      | none => Res.err s stNotFound
      | some x =>
        if s.retiring 1 g then Res.err s stBusy
        else if l.any (fun m => (x.members.get? m).isNone) then Res.err s stBadParam
        else
          { st := ({ s with tbl.ecmps := s.tbl.ecmps.set g { x with slots := l } }.unpoison 4 g).wrote
              (changedSlots x.slots l) }
    else if byteAt b 0 == 1 then
      let x := s.parse.lags.getD g {}
      if 128 ≤ g then Res.err s stNotFound
      else if l.any (fun m => (x.members.get? m).isNone) then Res.err s stBadParam
      else { st := { s with parse.lags := s.parse.lags.set g { x with slots := l } }.wrote (changedSlots x.slots l) }
    else Res.err s stBadParam) c s

def execLbSlotsSet (c : Cmd) (s : State) : Out := serve c cmdLbSlotsSet s

/-- R157: a LAG member is live: on another device, or a local port that is up. -/
def State.memberLive (s : State) (sp : Nat) : Bool := sp / 128 != s.fab.fdi || (s.prt (sp % 128)).up

/-- LB_SLOTS_GET (R758, Table 04-14). -/
def lbSlotsGetSpec : CmdSpec :=
  { opcode := 0x0308, long := fun b => 4 ≤ b.length, clean := fun b => rsv b 1 1, size := fun _ => 776, reads := true }

/-- Table 04-14 from members, slots and the live state of a member. -/
def slotsRecord (kind g : Nat) (members : Tbl Nat) (slots : List Nat) (live : Nat → Bool) : Bytes :=
  toLe 1 kind ++ zeros 1 ++ toLe 2 g ++ toLe 1 members.length ++ zeros 3 ++
    (List.range 256).flatMap (fun i => toLe 1 (slots.getD i 0)) ++
    (List.range 128).flatMap (fun p => match members.get? p with
      | some v => toLe 4 (2147483648 + b2n (live v) * 1073741824 + v)
      | none => zeros 4)

def cmdLbSlotsGet (c : Cmd) (s : State) : Res :=
  gate lbSlotsGetSpec (fun c s =>
    let g := le c.payload 2 2
    if byteAt c.payload 0 == 0 then
      match s.tbl.ecmps.get? g with
      | none => Res.err s stNotFound
      | some x => { st := s, result := slotsRecord 0 g x.members x.slots (fun _ => true) }
    else if byteAt c.payload 0 == 1 then
      let x := s.parse.lags.getD g {}
      if 128 ≤ g then Res.err s stNotFound
      else { st := s, result := slotsRecord 1 g x.members x.slots s.memberLive }
    else Res.err s stBadParam) c s

def execLbSlotsGet (c : Cmd) (s : State) : Out := serve c cmdLbSlotsGet s

/-! ### Resolving a LAG (R151, R157, R158) -/

/-- R151, R157: the system port that slot hash_b[7:0] of a LAG gives, if it has a live member. -/
def State.lagPort (s : State) (x : Lag) (hashB : Nat) : Option Nat :=
  let slot := hashB % 256
  let live := (x.members.filter (fun e => s.memberLive e.2)).map Prod.snd
  match x.members.get? (x.slots.getD slot 0) with
  | some v => if s.memberLive v then some v else live[slot % live.length]?
  | none => live[slot % live.length]?

/-- R158: no member of a LAG is live: event 0x0383 once. -/
def State.lagDead (s : State) (g : Nat) : State :=
  let x := s.parse.lags.getD g {}
  if x.dead then s else { s with parse.lags := s.parse.lags.set g { x with dead := true } }.raise 0x0383 (d4 g)

end Sys2Proof.Machine
end

