-- ==== Sys2Proof/Machine/Fib.lean ====
section
/-! DEFINITION. The FIB (R164-R179, R744, R759 of 05_forwarding_tables.md): where hash tables hold a key, the search of a
lookup, the markers, and the operations of ROUTE_ADD and ROUTE_DELETE. -/
namespace Sys2Proof.Machine
open Sys2Proof

/-! ### Hash tables (R166-R171, R744) -/

/-- Address bits of a family, and the key of its directory entry. -/
def famBits (fam : Nat) : Nat := if fam == 4 then 32 else 128
def dirKey (vrf fam : Nat) : Nat := 2 * vrf + b2n (fam == 6)

/-- A number for each hash table: of a VRF, family and length, and of an exact-match table. -/
def fibTable (vrf fam len : Nat) : Nat := 256 * dirKey vrf fam + len
def emTable (t : Nat) : Nat := 4194304 + t

/-- Buckets of 64 bytes of the area in which a table lies (Tables 05-2, 05-3). -/
def State.areaBuckets (s : State) (t : Nat) : Nat :=
  262144 * (if t < 4194304 then 14 - s.tbl.emBanks else s.tbl.emBanks)

/-- R166, R744: the largest N of a table: four ways lie wholly within its area. -/
def State.maxN (s : State) (t : Nat) : Nat := Nat.min 1048576 (s.areaBuckets t / 4)

/-- Buckets per way of a table, and how often it has moved. -/
def State.tableSize (s : State) (t : Nat) : Nat × Nat :=
  s.tbl.sizes.getD t (1 + Config.tableN t % Nat.max 1 (s.maxN t), 0)

/-- R744: the base bucket of a table, wherever its four ways lie wholly within its area. -/
def State.tableBase (s : State) (t : Nat) : Nat :=
  Config.tableBase t (s.tableSize t).2 % (s.areaBuckets t - 4 * (s.tableSize t).1 + 1)

/-- The seed of a table, 16 bits. -/
def State.tableSeed (s : State) (t : Nat) : Nat := Config.tableSeed t (s.tableSize t).2 % 65536

/-- R167: the bucket of way `w` that holds a key, given as its hash key bytes. -/
def State.bucket (s : State) (t w : Nat) (key : Bytes) : Nat :=
  let z := s.tableSize t
  s.tableBase t + w * z.1 + flowHash 1 (s.tableSeed t * 65536 + w) key * z.1 / 4294967296

/-- Hash key bytes of Table 05-4. -/
def fibKeyBytes (vrf fam len key : Nat) : Bytes := toBe 2 vrf ++ toBe 1 len ++ toBe (famBits fam / 8) key
def emKeyBytes (t : Nat) (wide : Bool) (key : Nat) : Bytes := toBe 1 t ++ toBe (if wide then 32 else 16) key

/-- R206: a probe of a key reads a poisoned bucket of a table of kind `kind` (0 FIB, 1 exact-match). -/
def State.probeLost (s : State) (kind fam len vrf t : Nat) (key : Bytes) : Bool :=
  s.tbl.poison.any (fun e => e.2.table == kind && e.2.fam == fam && e.2.len == len && e.2.vrf == vrf &&
    e.2.way < 4 && e.2.index == s.bucket t e.2.way key)

/-- R171, R744: whether an insert that adds entries finds its places; the draw is a free value. -/
def State.placed (s : State) : Bool × State :=
  (!Config.placeFails s.tbl.freeIx, { s with tbl.freeIx := s.tbl.freeIx + 1 })

/-- R168: N grows by one eighth, rounded up, until `used` entries are at most 90 % of the slots, and to `most` at most. -/
def grownSize (most : Nat) : Nat → Nat → Nat → Nat → Nat
  | 0, n, _, _ => n
  | fuel + 1, n, used, per =>
    if 4 * n * per * 9 < used * 10 && n + ceilDiv n 8 ≤ most then grownSize most fuel (n + ceilDiv n 8) used per else n

/-- R168: grows a table that holds `used` entries, `per` to a bucket; its old copy, `units` slots, waits to be freed. -/
def State.growTable (s : State) (t used per units : Nat) : State :=
  let z := s.tableSize t
  let n := grownSize (s.maxN t) 200 z.1 used per
  if n == z.1 then s
  else { s with
    tbl.sizes := s.tbl.sizes.set t (n, z.2 + 1), tbl.oldTables := s.tbl.oldTables.set t (s.tbl.oldTables.getD t 0 + units) }

/-! ### Result words (Table 05-7) -/

/-- The result word has a defined type and a value in range for it; type 0x7 stands in table 63 only. -/
def resultOk (r : Nat) (table63 : Bool) : Bool :=
  let v := r % 1048576
  match r / 1048576 with
  | 0 => v == 0
  | 1 => true
  | 2 => v < 65536
  | 3 => v == 0
  | 4 => v == 0
  | 5 => inRange v 1 0x3F
  | 6 => v < 65536
  | 7 => table63 && v < 65536
  | _ => false

/-- R190: what the result word names is set and not retiring. -/
def State.resultSet (s : State) (r : Nat) : Bool :=
  let v := r % 1048576
  match r / 1048576 with
  | 1 => s.nexthopSet? v
  | 2 => s.ecmpSet? v
  | 6 => (s.mcGroup? v).isSome
  | _ => true

/-! ### The search (R172-R174) -/

def State.dir (s : State) (vrf fam : Nat) : FibDir := s.tbl.dirs.getD (dirKey vrf fam) {}
def State.setDir (s : State) (vrf fam : Nat) (d : FibDir) : State := { s with tbl.dirs := s.tbl.dirs.set (dirKey vrf fam) d }

/-- A key with the bits past `len` zeroed. -/
def maskKey (fam len key : Nat) : Nat := let h := 2 ^ (famBits fam - len); key / h * h

/-- The entry of a table at a key. -/
def State.fibEnt (s : State) (vrf fam len key : Nat) : Option FibEnt :=
  s.tbl.fib.find? (fun e => e.vrf == vrf && e.fam == fam && e.len == len && e.key == key)

/-- The outcome of a search. -/
structure Search where
  lost : Bool := false
  best : Nat
  ent : Option FibEnt := none
  probes : Nat := 0
  /-- probes that hit -/
  hits : Nat := 0

/-- R174: the binary search over len_list between positions `lo` and `hi` (one past the last). `strict` makes a probe of a
poisoned bucket end the search (R206). -/
def State.fibSearch (s : State) (vrf fam addr : Nat) (lens : List Nat) (strict : Bool) : Nat → Nat → Nat → Search → Search
  | 0, _, _, r => r
  | fuel + 1, lo, hi, r =>
    if hi ≤ lo then r
    else
      let m := (lo + hi - 1) / 2
      let k := lens.getD m 0
      let key := maskKey fam k addr
      let r := { r with probes := r.probes + 1 }
      if strict && s.probeLost 0 fam k vrf (fibTable vrf fam k) (fibKeyBytes vrf fam k key) then { r with lost := true }
      else match s.fibEnt vrf fam k key with
        | none => s.fibSearch vrf fam addr lens strict fuel lo m r
        | some e =>
          s.fibSearch vrf fam addr lens strict fuel (m + 1) hi
            { (if e.result / 1048576 != 0 then { r with best := e.result, ent := some e } else r) with hits := r.hits + 1 }

/-- R174: the lookup of an address. -/
def State.fibLookup (s : State) (vrf fam addr : Nat) (strict : Bool) : Search :=
  let d := s.dir vrf fam
  s.fibSearch vrf fam addr d.lens strict 8 0 d.lens.length { best := d.dflt }

/-! ### Markers (R176, R177) -/

/-- R176: the lengths below `l` that the search for length `l` visits, between positions `lo` and `hi` of the list. -/
def pathOf (lens : List Nat) (l : Nat) : Nat → Nat → Nat → List Nat
  | 0, _, _ => []
  | fuel + 1, lo, hi =>
    if hi ≤ lo then []
    else
      let m := (lo + hi - 1) / 2
      let k := lens.getD m 0
      if k == l then [] else if k < l then k :: pathOf lens l fuel (m + 1) hi else pathOf lens l fuel lo m

def lenPath (lens : List Nat) (l : Nat) : List Nat := pathOf lens l 8 0 lens.length

/-- A prefix of one VRF and family: its length and key, the length it was added at, its result. -/
structure Pfx where
  len : Nat
  key : Nat
  orig : Nat
  result : Nat
deriving DecidableEq, Repr

/-- R176: the result of the longest prefix of length `len` or less that covers a key, or type 0x0. -/
def bestMatch (fam : Nat) (ps : List Pfx) (len key : Nat) : Nat :=
  ((ps.foldl (fun (a : Option Pfx) p =>
    if p.len ≤ len && maskKey fam p.len key == p.key && (match a with | some q => q.len < p.len | none => true) then some p
    else a) none).map (·.result)).getD 0

/-- R176: the entries of one VRF and family for its prefixes and its len_list: prefixes, markers, refs and results. -/
def fibEntries (vrf fam : Nat) (ps : List Pfx) (lens : List Nat) : List FibEnt :=
  let used := ps.flatMap (fun p => (lenPath lens p.len).map (fun k => (k, maskKey fam k p.key)))
  let refs (k key : Nat) : Nat := (used.filter (fun u => u == (k, key))).length
  ps.map (fun p =>
    { vrf, fam, len := p.len, key := p.key, orig := p.orig, pfx := true, marker := refs p.len p.key != 0
      refs := refs p.len p.key, result := p.result }) ++
    (used.eraseDups.filter (fun u => !ps.any (fun p => (p.len, p.key) == u))).map (fun u =>
      { vrf, fam, len := u.1, key := u.2, orig := u.1, pfx := false, marker := true, refs := refs u.1 u.2
        result := bestMatch fam ps u.1 u.2 })

/-- The prefixes of one VRF and family that were added at length 8 or more. -/
def State.fibPrefixes (s : State) (vrf fam : Nat) : List Pfx :=
  (s.tbl.fib.filter (fun e => e.vrf == vrf && e.fam == fam && e.pfx && e.orig == e.len)).map
    (fun e => ⟨e.len, e.key, e.orig, e.result⟩)

/-- R173: the expansion of the prefixes shorter than 8 over the keys of length 8 that no prefix of length 8 holds. -/
def expandShorts (fam : Nat) (ps : List Pfx) (shorts : List (Nat × Nat × Nat)) : List Pfx :=
  if shorts.isEmpty then []
  else (List.range 256).filterMap (fun i =>
    let key := i * 2 ^ (famBits fam - 8)
    if ps.any (fun p => p.len == 8 && p.key == key) then none
    else
      (shorts.foldl (fun (a : Option (Nat × Nat × Nat)) x =>
        if maskKey fam x.1 key == x.2.1 && (match a with | some y => y.1 < x.1 | none => true) then some x else a) none).map
          (fun x => ⟨8, key, x.1, x.2.2⟩))

/-- Lengths that occur in a list, ascending, each once. -/
def sortLens (l : List Nat) : List Nat := (List.range 129).filter l.contains

/-- R176-R179: the FIB of one VRF and family from its prefixes, its shorter prefixes and its reserved lengths. A prefix lost
with a poisoned bucket holds no entry until it is sent again, but its markers and its length stand (R206, R207). -/
def State.fibStore (s : State) (vrf fam : Nat) (ps : List Pfx) (d : FibDir) : State :=
  let all := ps ++ expandShorts fam ps d.shorts
  let here (e : FibEnt) : Bool := e.vrf == vrf && e.fam == fam
  let gone := s.tbl.fibLost.filter (fun e => here e && !all.any (fun p => p.len == e.len && p.key == e.key))
  let every := all ++ gone.map (fun e => (⟨e.len, e.key, e.orig, e.result⟩ : Pfx))
  let lens := sortLens (d.reserved ++ every.map (·.len))
  let ents := (fibEntries vrf fam every lens).filterMap (fun e =>
    if gone.any (fun g => g.len == e.len && g.key == e.key) then
      if e.marker then some { e with pfx := false, result := bestMatch fam all e.len e.key } else none
    else some e)
  { s with
    tbl.fib := s.tbl.fib.filter (fun e => !here e) ++ ents
    tbl.fibLost := s.tbl.fibLost.filter (fun e => !here e) ++ gone
    tbl.dirs := s.tbl.dirs.set (dirKey vrf fam) { d with lens := lens } }

/-! ### Area fill (R164, Table 05-3, Table 05-21) -/

def State.fibSlots (s : State) : Nat := (14 - s.tbl.emBanks) * 1048576
def State.emSlots (s : State) : Nat := s.tbl.emBanks * 524288
def State.emWide (s : State) (t : Nat) : Bool := t < 62 && (s.tbl.emCfg.getD t {}).wide

/-- Slots of the FIB area in use: an IPv6 entry counts 2; tables that have grown count until they are freed. -/
def State.fibUsed (s : State) : Nat :=
  (s.tbl.fib.map (fun e => if e.fam == 4 then 1 else 2)).sum +
    ((s.tbl.oldTables.filter (fun e => e.1 < 4194304)).map Prod.snd).sum

def State.emUsed (s : State) : Nat :=
  (s.tbl.em.map (fun e => if s.emWide e.table then 2 else 1)).sum +
    ((s.tbl.oldTables.filter (fun e => 4194304 ≤ e.1)).map Prod.snd).sum

def State.noteFibFill (s : State) : State :=
  s.noteFill 0 s.fibUsed s.fibSlots s.tbl.fillFib (fun b t => { t with tbl.fillFib := b })
def State.noteEmFill (s : State) : State :=
  s.noteFill 1 s.emUsed s.emSlots s.tbl.fillEm (fun b t => { t with tbl.fillEm := b })

/-- Grows every table of one VRF and family that needs it (R168). -/
def State.growFib (s : State) (vrf fam : Nat) (old : List FibEnt) : State :=
  let w := if fam == 4 then 1 else 2
  let count (l : List FibEnt) (k : Nat) : Nat := (l.filter (fun e => e.vrf == vrf && e.fam == fam && e.len == k)).length
  (s.dir vrf fam).lens.foldl (fun (a : State) k =>
    a.growTable (fibTable vrf fam k) (count s.tbl.fib k) (4 / w) (w * count old k)) s

/-- R176-R178: the entry writes that take the FIB of one VRF and family from one state to another: each entry that comes,
goes or changes its kind or result, the result of a new marker that the changed prefix rewrites once more, and len_list. -/
def fibWrites (s t : State) (vrf fam : Nat) : Nat :=
  let here (x : State) : List FibEnt := x.tbl.fib.filter (fun e => e.vrf == vrf && e.fam == fam)
  let o := here s
  let n := here t
  let ps := (o.filter (fun e => e.pfx)).map (fun e => (⟨e.len, e.key, e.orig, e.result⟩ : Pfx))
  let find (l : List FibEnt) (e : FibEnt) : Option FibEnt := l.find? (fun x => x.len == e.len && x.key == e.key)
  let cost (e : FibEnt) : Nat := match find o e with
    | some x => b2n ((x.pfx, x.marker, x.result) != (e.pfx, e.marker, e.result))
    | none => 1 + b2n (!e.pfx && bestMatch fam ps e.len e.key != e.result)
  (n.map cost).sum + (o.filter (fun e => (find n e).isNone)).length + b2n ((s.dir vrf fam).lens != (t.dir vrf fam).lens)

/-- A change of the FIB takes place where the area holds it; else NO_RESOURCE and nothing changes (R171). -/
def State.fibChange (s t : State) (vrf fam : Nat) : Nat × State :=
  let n := Nat.max 1 (fibWrites s t vrf fam)
  if t.tbl.fib.length ≤ s.tbl.fib.length then (stOk, t.noteFibFill.wrote n)
  else
    let p := s.placed
    if t.fibSlots < t.fibUsed || !p.1 then (stNoResource, p.2)
    else (stOk, (({ t with tbl.freeIx := p.2.tbl.freeIx }.growFib vrf fam s.tbl.fib).noteFibFill).wrote n)

/-! ### The operations of ROUTE_ADD and ROUTE_DELETE -/

/-- R170, R172, R173, R176: one insert. -/
def State.routeInsert (s : State) (vrf fam len key res : Nat) (replace : Bool) : Nat × State :=
  let d := s.dir vrf fam
  let ps := s.fibPrefixes vrf fam
  if len == 0 then
    if d.dflt / 1048576 != 0 && !replace then (stExists, s) else (stOk, (s.setDir vrf fam { d with dflt := res }).wrote 1)
  else if len < 8 then
    let here := d.shorts.any (fun x => x.1 == len && x.2.1 == key)
    if here && !replace then (stExists, s)
    else
      let l := d.shorts.filter (fun x => !(x.1 == len && x.2.1 == key)) ++ [(len, key, res)]
      s.fibChange (s.fibStore vrf fam ps { d with shorts := l }) vrf fam
  else
    let here := ps.any (fun p => p.len == len && p.key == key)
    if here && !replace then (stExists, s)
    else
      let l := ps.filter (fun p => !(p.len == len && p.key == key)) ++ [⟨len, key, len, res⟩]
      s.fibChange (s.fibStore vrf fam l d) vrf fam

/-- A delete always takes place; where it changes len_list, tables may grow by markers (R177). -/
def State.fibShrink (s t : State) (vrf fam : Nat) : Nat × State := 
  (stOk, ((t.growFib vrf fam s.tbl.fib).noteFibFill).wrote (fibWrites s t vrf fam))

/-- R172, R173, R177: one delete. -/
def State.routeRemove (s : State) (vrf fam len key : Nat) : Nat × State :=
  let d := s.dir vrf fam
  let ps := s.fibPrefixes vrf fam
  if len == 0 then
    if d.dflt / 1048576 == 0 then (stNotFound, s) else (stOk, (s.setDir vrf fam { d with dflt := 0 }).wrote 1)
  else if len < 8 then
    if d.shorts.any (fun x => x.1 == len && x.2.1 == key) then
      s.fibShrink
        (s.fibStore vrf fam ps { d with shorts := d.shorts.filter (fun x => !(x.1 == len && x.2.1 == key)) }) vrf fam
    else (stNotFound, s)
  else if ps.any (fun p => p.len == len && p.key == key) then
    s.fibShrink (s.fibStore vrf fam (ps.filter (fun p => !(p.len == len && p.key == key))) d) vrf fam
  else (stNotFound, s)

/-- One operation of a ROUTE_ADD or ROUTE_DELETE: VRF, family, length and prefix in range, host bits zero (Table 05-17). -/
def State.routeOp (s : State) (add replace : Bool) (b : Bytes) : Nat × State :=
  let vrf := le b 0 2
  let fam := byteAt b 2
  let len := byteAt b 3
  let res := le b 4 3
  let key := be b 8 (famBits fam / 8)
  if 4095 < vrf || !(fam == 4 || fam == 6) || famBits fam < len || maskKey fam len key != key ||
      (fam == 4 && be b 12 12 != 0) || (add && !resultOk res false) then (stBadParam, s)
  else if add then if s.resultSet res then s.routeInsert vrf fam len key res replace else (stNotFound, s)
  else s.routeRemove vrf fam len key

end Sys2Proof.Machine
end

