-- ==== Sys2Proof/Machine/Tcam.lean ====
section
/-! DEFINITION. The TCAM (06_associative_search.md): chains over logical tiles, placement and holes (R231-R235), searches,
key and search profiles, tile errors and spares, and the commands of class 0x05 that are no timed batches. -/
namespace Sys2Proof.Machine
open Sys2Proof

/-! ### Chains and their places -/

/-- Table 06-1: logical tiles of a rank, by width code. -/
def widthTiles (w : Nat) : Nat := [1, 2, 4].getD w 0

/-- The chain's width in bits. -/
def Chain.bits (c : Chain) : Nat := 160 * widthTiles c.width

/-- The logical tiles of a rank at a base. -/
def rankTiles (w base : Nat) : List Nat := (List.range (widthTiles w)).map (fun i => base + i)

/-- The logical tiles of a chain. -/
def Chain.tiles (c : Chain) : List Nat := c.bases.flatMap (rankTiles c.width)

def State.chain? (s : State) (c : Nat) : Option Chain := s.tcam.chains.get? c
def State.setChain (s : State) (c : Nat) (x : Chain) : State := { s with tcam.chains := s.tcam.chains.set c x }

/-- The chain that a logical tile belongs to. -/
def State.tileChain (s : State) (lt : Nat) : Option Nat := (s.tcam.chains.find? (fun e => e.2.tiles.contains lt)).map Prod.fst

/-- The ranks of a chain whose tiles are all mapped: the rows of the others are no places (R248). -/
def State.goodRanks (s : State) (x : Chain) : List Nat :=
  (List.range x.bases.length).filter (fun k =>
    (rankTiles x.width (x.bases.getD k 0)).all (fun t => !s.tcam.unmapped.contains t))

/-- The places of a chain. -/
def State.chainCap (s : State) (x : Chain) : Nat := 2048 * (s.goodRanks x).length

/-- The entry index of the n-th place, and the place of an entry index. -/
def placeIndex (ranks : List Nat) (n : Nat) : Nat := 2048 * ranks.getD (n / 2048) 0 + n % 2048
def indexPlace (ranks : List Nat) (i : Nat) : Nat := 2048 * ((ranks.findIdx? (fun k => k == i / 2048)).getD 0) + i % 2048

/-! ### Placement (R231-R234), over places: an entry's index field holds its place here -/

/-- How many entries from the front of a list lie at consecutive places, going down or up from the first. -/
def runLen (up : Bool) : List TcamEnt → Nat
  | a :: b :: r => if (if up then b.index == a.index + 1 else b.index + 1 == a.index) then 1 + runLen up (b :: r) else 1
  | [_] => 1
  | [] => 0

/-- Moves needed to free the place next to the insertion point on one side, if that side has a free place. -/
def movesBelow (below : List TcamEnt) : Option Nat :=
  let l := below.reverse
  let n := runLen false l
  match l.head? with
  | some e => if n ≤ e.index then some n else none
  | none => none
def movesAbove (cap : Nat) (above : List TcamEnt) : Option Nat :=
  let n := runLen true above
  match above.head? with
  | some e => if e.index + n < cap then some n else none
  | none => none

/-- The outcome of a placement: the entries before and after, shifted, the place, and the moves made. -/
structure Placed where
  below : List TcamEnt
  above : List TcamEnt
  at_ : Nat
  moves : Nat

/-- Shifts the first `n` entries of a list by one place. -/
def shiftUp (n : Nat) (l : List TcamEnt) : List TcamEnt :=
  (l.take n).map (fun e => { e with index := e.index + 1 }) ++ l.drop n
def shiftDown (n : Nat) (l : List TcamEnt) : List TcamEnt :=
  l.take (l.length - n) ++ (l.drop (l.length - n)).map (fun e => { e with index := e.index - 1 })

/-- R232: the place between two neighbours: a free one between them, the lowest (log 13), or one that moves free. -/
def placeBetween (cap : Nat) (below above : List TcamEnt) : Option Placed :=
  let lo := (below.getLast?.map (fun e => e.index + 1)).getD 0
  let hi := (above.head?.map (fun e => e.index)).getD cap
  if lo < hi then some { below, above, at_ := lo, moves := 0 }
  else match movesBelow below, movesAbove cap above with
    | some a, some b =>
      if a ≤ b then some { below := shiftDown a below, above, at_ := lo - 1, moves := a }
      else some { below, above := shiftUp b above, at_ := hi, moves := b }
    | some a, none => some { below := shiftDown a below, above, at_ := lo - 1, moves := a }
    | none, some b => some { below, above := shiftUp b above, at_ := hi, moves := b }
    | none, none => none

/-- R231: the place of entry `k` of `n` after a rebalance; where the holes do not fit, the last entries close up. -/
def layoutAt (hole cap n k : Nat) : Nat := Nat.min (if hole == 0 then k else k + k / (hole - 1)) (cap - n + k)

/-- R231, R234: lays the entries out; the number of entries that moved. -/
def rebalance (hole cap : Nat) (l : List TcamEnt) : List TcamEnt × Nat :=
  let r := (numbered 0 l).map (fun e => { e.2 with index := layoutAt hole cap l.length e.1 })
  (r, ((l.zip r).filter (fun p => p.1.index != p.2.index)).length)

/-- The entries of a chain with places for indices, and back. -/
def State.toPlaces (s : State) (x : Chain) : List TcamEnt :=
  x.ents.map (fun e => { e with index := indexPlace (s.goodRanks x) e.index })
def State.fromPlaces (s : State) (x : Chain) (l : List TcamEnt) : List TcamEnt :=
  l.map (fun e => { e with index := placeIndex (s.goodRanks x) e.index })

/-- R235: event 0x0583 when a chain passes 90 % of its entries, again only after it has fallen below 80 %. -/
def State.noteChainFill (s : State) (c : Nat) : State :=
  match s.chain? c with
  | none => s
  | some x =>
    let n := x.ents.length
    let cap := s.chainCap x
    if !x.filled && cap * 9 < n * 10 then (s.setChain c { x with filled := true }).raise 0x0583 (d4 c ++ d4 n ++ d4 cap)
    else if x.filled && n * 10 < cap * 8 then s.setChain c { x with filled := false } else s

/-- A handle that is inserted again is no longer that of a lost entry. -/
def State.foundAgain (s : State) (h : Nat) : State :=
  { s with tcam.chains := s.tcam.chains.map (fun e => (e.1, { e.2 with lost := e.2.lost.filter (fun k => k != h) })) }

/-- R232-R235, R243: places an entry between the first `k` entries of a chain and the rest, of which `drop` are then
invalidated (R238); none when the chain has no free entry. -/
def State.placeEntry (s : State) (c : Nat) (x : Chain) (k drop : Nat) (e : TcamEnt) : Option State :=
  let cap := s.chainCap x
  let l := s.toPlaces x
  if cap ≤ l.length then none
  else
    let first := placeBetween cap (l.take k) (l.drop k)
    let again : Bool := match first with | some p => decide (64 < p.moves) | none => true
    let r := if again then rebalance x.hole cap l else (l, 0)
    match (if again then placeBetween cap (r.1.take k) (r.1.drop k) else first) with
    | none => none
    | some p =>
      let m := r.2 + p.moves
      let ents := s.fromPlaces x (p.below ++ { e with index := p.at_ } :: p.above.drop drop)
      let y := { x with ents := ents, gen := (x.gen + m + 1 + drop + b2n again) % 4294967296 }
      let t := (((s.setChain c y).foundAgain e.handle).count 608 5 c 0 m).count 608 6 c 0 (b2n again)
      some ((t.wrote (2 * m)).noteChainFill c)

/-! ### Actions (Table 06-3) and searches -/

abbrev actDisposition (a : Nat) : Nat := field a 63 62
abbrev actResult (a : Nat) : Nat := field a 61 38
abbrev actFinal (a : Nat) : Bool := bit a 11

/-- A chain that search profiles name in slot B and in no slot A. -/
def State.slotBOnly (s : State) (c : Nat) : Bool :=
  s.tcam.profs.any (fun p => (p.2.b.map Prod.fst) == some c) && !s.tcam.profs.any (fun p => (p.2.a.map Prod.fst) == some c)

/-- The action record may be written into a chain. -/
def State.actionOk (s : State) (c a : Nat) : Bool :=
  let r := actResult a
  (actDisposition a != 2 || inRange (r % 256) 0x0F 0x3F) &&
    (actDisposition a != 3 || ((r / 1048576 == 1 || r / 1048576 == 2 || r / 1048576 == 6) && resultOk r false)) &&
    !(actFinal a && s.slotBOnly c)

/-- R216, R217: an entry matches a key of the chain's width. -/
def TcamEnt.hit (e : TcamEnt) (key : Nat) : Bool := (key ^^^ e.value) &&& e.mask == 0

/-- R219: the matching entries of a chain in index order. -/
def Chain.hits (x : Chain) (key : Nat) : List TcamEnt := x.ents.filter (fun e => e.hit key)

/-- Entries of a chain that are lost (R247, R248). -/
def Chain.lostCount (x : Chain) : Nat := x.lost.length + (x.ents.filter (fun e => e.poisoned)).length

/-- The chain that holds a handle, and its entry. -/
def State.tcamFind (s : State) (h : Nat) : Option (Nat × Chain × TcamEnt) :=
  (s.tcam.chains.filterMap (fun e => (e.2.ents.find? (fun x => x.handle == h)).map (fun x => (e.1, e.2, x)))).head?

/-- The handle's delete has not completed (R239, R240). -/
def State.tcamDeleting (s : State) (h : Nat) : Bool := s.tcam.deleting.any (fun d => d.1 == h)

/-- The value and mask of an entry operation for a chain: the leading bytes of the 80 (Table 06-7). -/
def opKey (x : Chain) (b : Bytes) (off : Nat) : Nat := be b off (x.bits / 8)

/-- One operation of a TCAM_ENTRY_INSERT (R231, R235, R240). -/
def State.tcamInsertOp (s : State) (b : Bytes) : Nat × State :=
  let h := le b 0 4
  let c := byteAt b 4
  let a := le b 8 8
  match s.chain? c with
  | none => (stBadParam, s)
  | some x =>
    let v := opKey x b 16
    let m := opKey x b 96
    let p := le b 6 2
    if 131072 ≤ h || v &&& m != v || !s.actionOk c a then (stBadParam, s)
    else if (s.tcamFind h).isSome || s.tcamDeleting h then (stExists, s)
    else if actDisposition a == 3 && !s.resultSet (actResult a) then (stNotFound, s)
    else
      let k := (x.ents.takeWhile (fun e => e.prio ≤ p)).length
      match s.placeEntry c x k 0 { index := 0, handle := h, prio := p, value := v, mask := m, action := a } with
      | none => (stNoResource, s)
      | some t => (stOk, t)

/-- One operation of a TCAM_ENTRY_MODIFY (R236-R238, R240): the entry keeps its chain and its priority. -/
def State.tcamModifyOp (s : State) (hitless actionOnly : Bool) (b : Bytes) : Nat × State :=
  let h := le b 0 4
  let a := le b 8 8
  if 131072 ≤ h then (stBadParam, s)
  else if s.tcamDeleting h then (stBusy, s)
  else match s.tcamFind h with
    | none => (stNotFound, s)
    | some (c, x, e) =>
      let v := opKey x b 16
      let m := opKey x b 96
      if !s.actionOk c a then (stBadParam, s)
      else if !actionOnly && (byteAt b 4 != c || le b 6 2 != e.prio || v &&& m != v) then (stBadParam, s)
      else if actDisposition a == 3 && !s.resultSet (actResult a) then (stNotFound, s)
      else
        let n := if actionOnly then { e with action := a, poisoned := false }
          else { e with value := v, mask := m, action := a, poisoned := false }
        let rekey := n.value != e.value || n.mask != e.mask
        if hitless && !actionOnly then
          match s.placeEntry c x ((x.ents.takeWhile (fun z => z.handle != h)).length) 1 n with
          | none => (stNoResource, s)
          | some t => (stOk, t)
        else
          (stOk, s.setChain c { x with
            ents := x.ents.map (fun z => if z.handle == h then n else z), gen := (x.gen + b2n rekey) % 4294967296 })

/-! ### Chain commands -/

/-- Bases at which a rank of a width may stand: multiples of its tiles. -/
def baseOk (w base : Nat) : Bool := base + widthTiles w ≤ 64 && base % widthTiles w == 0

/-- TCAM_CHAIN_CONFIG (R218, R220). -/
def tcamChainConfigSpec : CmdSpec :=
  { opcode := 0x0501, long := fun b => 8 ≤ b.length && 8 + byteAt b 5 ≤ b.length
    clean := fun b => flagsIn b 4 2 && rsv b 6 2
    mode := fun _ s => if s.mode.mode == mdConfigure then 0 else stWrongMode }

def cmdTcamChainConfig (c : Cmd) (s : State) : Res :=
  gate tcamChainConfigSpec (fun c s =>
    let b := c.payload
    let k := byteAt b 0
    let w := byteAt b 1
    let hole := le b 2 2
    let n := byteAt b 5
    let bases := (List.range n).map (fun i => byteAt b (8 + i))
    let tiles := bases.flatMap (rankTiles w)
    if 15 < k then Res.err s stBadParam
    else if bit (byteAt b 4) 1 then
      if (s.chain? k).isNone then Res.err s stBadParam
      else { st := { s with tcam.chains := s.tcam.chains.del k }.wrote 1 }
    else if 2 < w || n == 0 || !(hole == 0 || [8, 16, 32, 64, 128, 256].contains hole) then Res.err s stBadParam
    else if 64 / widthTiles w < n then Res.err s stNoResource
    else if !bases.all (baseOk w) || tiles.eraseDups.length != tiles.length ||
        tiles.any (fun t => (s.tileChain t).any (fun j => j != k)) then Res.err s stBadParam
    else if tiles.any s.tcam.unmapped.contains then Res.err s stNoResource
    else
      let old := (s.chain? k).map (·.gen)
      { st := (s.setChain k { width := w, hole, failClosed := bit (byteAt b 4) 0, bases, gen := old.getD 0 }).wrote 1 }) c s

def execTcamChainConfig (c : Cmd) (s : State) : Out := serve c cmdTcamChainConfig s

/-- TCAM_CHAIN_EXTEND (R221). -/
def tcamChainExtendSpec : CmdSpec :=
  { opcode := 0x0502, long := fun b => 2 ≤ b.length
    mode := fun _ s => if s.mode.mode == mdQuarantine then stWrongMode else 0 }

def cmdTcamChainExtend (c : Cmd) (s : State) : Res :=
  gate tcamChainExtendSpec (fun c s =>
    let k := byteAt c.payload 0
    let base := byteAt c.payload 1
    match s.chain? k with
    | none => Res.err s stBadParam
    | some x =>
      let tiles := rankTiles x.width base
      if !baseOk x.width base then Res.err s stBadParam
      else if 64 / widthTiles x.width ≤ x.bases.length then Res.err s stNoResource
      else if tiles.any (fun t => (s.tileChain t).isSome) then Res.err s stBadParam
      else if tiles.any s.tcam.unmapped.contains then Res.err s stNoResource
      else { st := ((s.setChain k { x with bases := x.bases ++ [base] }).wrote 1).noteChainFill k }) c s

def execTcamChainExtend (c : Cmd) (s : State) : Out := serve c cmdTcamChainExtend s

/-- TCAM_COMPACT (R234). -/
def tcamCompactSpec : CmdSpec := { opcode := 0x050B, long := fun b => 6 ≤ b.length, clean := fun b => rsv b 1 3 }

def cmdTcamCompact (c : Cmd) (s : State) : Res :=
  gate tcamCompactSpec (fun c s =>
    let k := byteAt c.payload 0
    let v := le c.payload 4 2
    match s.chain? k with
    | none => Res.err s stNotFound
    | some x =>
      if !(v == 0xFFFF || v == 0 || [8, 16, 32, 64, 128, 256].contains v) then Res.err s stBadParam
      else
        let hole := if v == 0xFFFF then x.hole else v
        let r := rebalance hole (s.chainCap x) (s.toPlaces x)
        let y := { x with hole := hole, ents := s.fromPlaces x r.1, gen := (x.gen + r.2 + 1) % 4294967296 }
        { st := ((((s.setChain k y).count 608 5 k 0 r.2).bump 608 6 k).wrote (2 * r.2)) }) c s

def execTcamCompact (c : Cmd) (s : State) : Out := serve c cmdTcamCompact s

/-! ### Profiles (R223-R228) -/

/-- Width of a field of Table 06-2; 0 for the two of variable width. -/
def fieldWidth (code : Nat) : Option Nat :=
  [none, some 8, some 16, some 12, some 24, some 8, some 16, some 16, some 16, some 48, some 48, some 32, some 32, some 128,
    some 128, some 8, some 8, some 8, some 16, some 16, some 20, some 24, some 50, some 8, some 0, some 0].getD code none

/-- A segment stands within Table 06-2 and R226. -/
def KeySeg.ok (g : KeySeg) : Bool :=
  match fieldWidth g.code with
  | none => false
  | some 0 =>
    if g.code == 0x18 then g.anchor < 5 && g.offset < 64 && inRange g.width 8 64 && g.width % 8 == 0
    else inRange g.width 1 64
  | some n => g.width == n

/-- The width of a key profile. -/
def keyWidth (l : List KeySeg) : Nat := (l.map (·.width)).sum

def State.keyProfile (s : State) (k : Nat) : List KeySeg := s.tcam.keys.getD k []

/-- KEY_PROFILE_SET (R225, R227). -/
def keyProfileSetSpec : CmdSpec :=
  { opcode := 0x0503, long := fun b => 4 ≤ b.length && 4 + 4 * byteAt b 1 ≤ b.length, clean := fun b => rsv b 2 2 }

def cmdKeyProfileSet (c : Cmd) (s : State) : Res :=
  gate keyProfileSetSpec (fun c s =>
    let b := c.payload
    let n := byteAt b 1
    let l := (List.range n).map (fun i =>
      ({ code := byteAt b (4 + 4 * i), anchor := byteAt b (5 + 4 * i), offset := byteAt b (6 + 4 * i)
         width := byteAt b (7 + 4 * i) } : KeySeg))
    if 63 < byteAt b 0 || !inRange n 1 16 || !l.all KeySeg.ok || 640 < keyWidth l then Res.err s stBadParam
    else { st := { s with tcam.keys := s.tcam.keys.set (byteAt b 0) l }.wrote 1 }) c s

def execKeyProfileSet (c : Cmd) (s : State) : Out := serve c cmdKeyProfileSet s

/-- One slot of a search profile from its three bytes; none when a value is out of range or the key is wider (R224). -/
def State.slotOf (s : State) (b : Bytes) (off : Nat) : Option (Option (Nat × Nat)) :=
  let c := byteAt b (off + 1)
  let k := byteAt b (off + 2)
  if byteAt b off == 0 then some none
  else if 1 < byteAt b off || 15 < c || 63 < k || (s.chain? c).any (fun x => x.bits < keyWidth (s.keyProfile k)) then none
  else some (some (c, k))

/-- SEARCH_PROFILE_SET (R223, R224). The chain and key profile of a slot that is not enabled are ignored. -/
def searchProfileSetSpec : CmdSpec := { opcode := 0x0504, long := fun b => 8 ≤ b.length, clean := fun b => rsv b 7 1 }

def cmdSearchProfileSet (c : Cmd) (s : State) : Res :=
  gate searchProfileSetSpec (fun c s =>
    match s.slotOf c.payload 1, s.slotOf c.payload 4 with
    | some a, some b =>
      if 63 < byteAt c.payload 0 then Res.err s stBadParam
      else { st := { s with tcam.profs := s.tcam.profs.set (byteAt c.payload 0) { a, b } }.wrote 1 }
    | _, _ => Res.err s stBadParam) c s

def execSearchProfileSet (c : Cmd) (s : State) : Out := serve c cmdSearchProfileSet s

/-- SEARCH_PROFILE_MAP (R223). -/
def searchProfileMapSpec : CmdSpec := { opcode := 0x0505, long := fun b => 4 ≤ b.length, clean := fun b => rsv b 3 1 }

def cmdSearchProfileMap (c : Cmd) (s : State) : Res :=
  gate searchProfileMapSpec (fun c s =>
    let p := byteAt c.payload 0
    if !s.portExists p then Res.err s stNotFound
    else if 3 < byteAt c.payload 1 || 63 < byteAt c.payload 2 then Res.err s stBadParam
    else { st := { s with tcam.map := s.tcam.map.set (4 * p + byteAt c.payload 1) (byteAt c.payload 2) }.wrote 1 }) c s

def execSearchProfileMap (c : Cmd) (s : State) : Out := serve c cmdSearchProfileMap s

/-! ### Searching by command (R241-R243) -/

/-- Table 06-5. -/
def searchRecord (l : List TcamEnt) (gen : Nat) : Bytes :=
  match l with
  | e :: r =>
    toLe 1 (1 + 2 * b2n (!r.isEmpty)) ++ zeros 3 ++ toLe 4 e.index ++ toLe 4 e.handle ++ toLe 2 e.prio ++ zeros 2 ++
      toLe 8 e.action ++ toLe 4 gen ++ zeros 4
  | [] => zeros 24 ++ toLe 4 gen ++ zeros 4

/-- TCAM_SEARCH. -/
def tcamSearchSpec : CmdSpec :=
  { opcode := 0x0509, long := fun b => 84 ≤ b.length, clean := fun b => rsv b 1 3, size := fun _ => 32, reads := true }

def cmdTcamSearch (c : Cmd) (s : State) : Res :=
  gate tcamSearchSpec (fun c s =>
    match s.chain? (byteAt c.payload 0) with
    | none => Res.err s stNotFound
    | some x => { st := s, result := searchRecord (x.hits (opKey x c.payload 4)) x.gen }) c s

def execTcamSearch (c : Cmd) (s : State) : Out := serve c cmdTcamSearch s

/-- TCAM_SEARCH_CONTINUE. -/
def tcamSearchContinueSpec : CmdSpec :=
  { opcode := 0x050A, long := fun b => 92 ≤ b.length, clean := fun b => rsv b 1 3, size := fun _ => 32, reads := true }

def cmdTcamSearchContinue (c : Cmd) (s : State) : Res :=
  gate tcamSearchContinueSpec (fun c s =>
    match s.chain? (byteAt c.payload 0) with
    | none => Res.err s stNotFound
    | some x =>
      if le c.payload 8 4 != x.gen then Res.err s stRefused
      else
        { st := s
          result := searchRecord ((x.hits (opKey x c.payload 12)).filter (fun e => le c.payload 4 4 < e.index)) x.gen }) c s

def execTcamSearchContinue (c : Cmd) (s : State) : Out := serve c cmdTcamSearchContinue s

/-- TCAM_ENTRY_READ: Table 06-7 and the entry's index. -/
def tcamEntryReadSpec : CmdSpec :=
  { opcode := 0x050C, long := fun b => 4 ≤ b.length, size := fun _ => 180, reads := true }

def cmdTcamEntryRead (c : Cmd) (s : State) : Res :=
  gate tcamEntryReadSpec (fun c s =>
    match s.tcamFind (le c.payload 0 4) with
    | none => Res.err s stNotFound
    | some (k, x, e) =>
      { st := s
        result := toLe 4 e.handle ++ toLe 1 k ++ zeros 1 ++ toLe 2 e.prio ++ toLe 8 e.action ++
          padTo 80 (toBe (x.bits / 8) e.value) ++ padTo 80 (toBe (x.bits / 8) e.mask) ++ toLe 4 e.index }) c s

def execTcamEntryRead (c : Cmd) (s : State) : Out := serve c cmdTcamEntryRead s

/-! ### Delete (R239, R240) -/

/-- Deletes the handles of a list up to the first that fails: its status, and how many were deleted. The handle of an entry lost
under R247 or R248 is free, for its valid bits are cleared (R240; DEDUCED). -/
def State.tcamDeleteOps (s : State) : Nat → List Nat → Nat × Nat × State
  | n, [] => (stOk, n, s)
  | n, h :: r =>
    if s.tcamDeleting h then (stBusy, n, s)
    else match s.tcamFind h with
      | some (c, x, _) =>
        let t := s.setChain c { x with ents := x.ents.filter (fun e => e.handle != h), gen := (x.gen + 1) % 4294967296 }
        State.tcamDeleteOps ({ t with tcam.deleting := t.tcam.deleting ++ [(h, t.time.ticks)] }.noteChainFill c) (n + 1) r
      | none => (stNotFound, n, s)

/-- TCAM_ENTRY_DELETE: its completion is written by TCAM_DELETE_COMPLETE. -/
def tcamEntryDeleteSpec : CmdSpec :=
  { opcode := 0x0508, long := fun b => 4 + 4 * le b 0 2 ≤ b.length, clean := fun b => rsv b 2 2, size := fun b => 16 * le b 0 2 }

def cmdTcamEntryDelete (c : Cmd) (s : State) : Res :=
  gate tcamEntryDeleteSpec (fun c s =>
    let n := le c.payload 0 2
    let l := (List.range n).map (fun i => le c.payload (4 + 4 * i) 4)
    if !inRange n 1 256 then Res.err s stBadParam
    else
      let r := s.tcamDeleteOps 0 l
      if r.2.1 == 0 then { st := s, status := r.1, failIndex := 0 }
      else { st := r.2.2.wrote r.2.1, async := some (.tcamDelete (l.take r.2.1)) }) c s

def execTcamEntryDelete (c : Cmd) (s : State) : Out := serve c cmdTcamEntryDelete s

/-- Counter pair of a TCAM entry (R230). -/
def tcamPair (h : Nat) : Nat := 2490368 + h

/-- R239: the final counts of deleted handles, whose pairs are zeroed and which become free. -/
def State.tcamFree (s : State) (l : List Nat) : State :=
  { s with
    tcam.deleting := s.tcam.deleting.filter (fun d => !l.contains d.1)
    hbm.pairs := s.hbm.pairs.filter (fun p => !(l.map tcamPair).contains p.1) }

/-- The open command deletes the entry of a handle. -/
def OpenCmd.deletes (o : OpenCmd) (handle : Nat) : Bool :=
  match o.kind with
  | .tcamDelete l => l.contains handle
  | _ => false

/-- TCAM_DELETE_COMPLETE (R239): 50 µs after a delete, its command completes with the final counts. -/
def execTcamDeleteComplete (handle : Nat) (s : State) : Out :=
  if !s.aux.pllLocked then .next s
  else match s.tcam.deleting.find? (fun d => d.1 == handle) with
  | none => .next s
  | some d =>
    if !s.ended d.2 (us 50) then .next s
    else
      match s.hif.openCmds.find? (fun o => o.deletes handle) with
      | some o =>
        match o.kind with
        | .tcamDelete l =>
          let n := le o.cmd.payload 0 2
          let counts := l.flatMap (fun h => let p := s.hbm.pairs.getD (tcamPair h) (0, 0); toLe 8 p.1 ++ toLe 8 p.2)
          let t := s.tcamFree l
          if l.length == n then done s (t.finishOpen o stOk counts n)
          else done s (t.finishOpen o stPartial counts l.length l.length)
        | _ => .next s
      | none => done s (s.tcamFree [handle])

/-! ### Status -/

/-- TCAM_STATUS_GET (R745). -/
def tcamStatusGetSpec : CmdSpec := { opcode := 0x050D, size := fun _ => 16 * 16 + 68 + 16 * 64, reads := true }

/-- Physical tile of a logical tile, 0xFF when unmapped. -/
def State.tileOf (s : State) (lt : Nat) : Nat := if s.tcam.unmapped.contains lt then 0xFF else s.tcam.tiles.getD lt lt

def cmdTcamStatusGet (c : Cmd) (s : State) : Res :=
  gate tcamStatusGetSpec (fun _ s =>
    { st := s
      result := (List.range 16).flatMap (fun c => match s.chain? c with
          | some x => toLe 4 x.ents.length ++ toLe 4 (s.chainCap x - x.ents.length) ++ toLe 4 x.gen ++ toLe 4 x.lostCount
          | none => zeros 16) ++
        (List.range 64).flatMap (fun t => toLe 1 (s.tileOf t)) ++ toLe 1 s.tcam.spares.length ++ zeros 3 ++
        (List.range 16).flatMap (fun c => (List.range 8).flatMap (fun n => toLe 8 (s.ctrVal 608 n c))) }) c s

def execTcamStatusGet (c : Cmd) (s : State) : Out := serve c cmdTcamStatusGet s

/-! ### Tile errors and spares (R244-R249) -/

/-- R247: an action record is uncorrectable: the entry is poisoned, with event 0x0581. -/
def State.tcamPoison (s : State) (c i : Nat) : State :=
  match s.chain? c with
  | none => s
  | some x =>
    match x.ents.find? (fun e => e.index == i) with
    | none => s
    | some e =>
      (s.setChain c { x with ents := x.ents.map (fun z => if z.index == i then { z with poisoned := true } else z) }).raise
        0x0581 (d4 c ++ d4 i ++ d4 e.handle)

/-- R248: a tile with no spare left: its rank's entries stop matching, event 0x0584, Degraded. -/
def State.tileLost (s : State) (lt : Nat) : State :=
  let t := { s with tcam.unmapped := s.tcam.unmapped ++ [lt] }.record
    { kind := 4, die := 0, cause := 2, unit := s.tileOf lt, index := 0xFFFFFFFF, hours := s.hours }
  let u := match s.tileChain lt with
    | none => t.raise 0x0584 (d4 lt ++ d4o none ++ d4 0)
    | some c =>
      match s.chain? c with
      | none => t
      | some x =>
        let k := (x.bases.findIdx? (fun b => (rankTiles x.width b).contains lt)).getD 0
        let gone := x.ents.filter (fun (e : TcamEnt) => e.index / 2048 == k)
        ((t.setChain c { x with
          ents := x.ents.filter (fun (e : TcamEnt) => e.index / 2048 != k), lost := x.lost ++ gone.map TcamEnt.handle }).raise 0x0584
            (d4 lt ++ d4 c ++ d4 gone.length)).noteChainFill c
  u.setCond 4

/-- R245, R246: an error in a tile: the row is rewritten and counted, and a spare begins to be filled. -/
def State.tileError (s : State) (lt : Nat) : State :=
  let t := match s.tileChain lt with | some c => s.bump 608 7 c | none => s
  if s.tcam.unmapped.contains lt || s.tcam.filling.any (fun f => f.1 == lt) then t
  else match t.tcam.spares with
    | p :: r => { t with tcam.spares := r, tcam.filling := t.tcam.filling ++ [(lt, p)] }
    | [] => t.tileLost lt

/-- R247, R249: an uncorrectable shadow word is rebuilt from its row, where the row passes parity; else the row's entry is lost. -/
def State.shadowLost (s : State) (lt row : Nat) (good : Bool) : State :=
  match s.tileChain lt with
  | none => s
  | some c =>
    let t := s.bump 608 7 c
    match s.chain? c with
    | none => t
    | some x =>
      let i := 2048 * ((x.bases.findIdx? (fun b => (rankTiles x.width b).contains lt)).getD 0) + row
      if good || !x.ents.any (fun (e : TcamEnt) => e.index == i) then t
      else
        (t.setChain c { x with
          ents := x.ents.filter (fun (e : TcamEnt) => e.index != i)
          lost := x.lost ++ (x.ents.filter (fun (e : TcamEnt) => e.index == i)).map TcamEnt.handle }).noteChainFill c

/-- TCAM_SCRUB (R244, R245): the rows of mapped tiles that differ from their shadow, as logical tile and row. -/
def execTcamScrub (bad : List (Nat × Nat)) (s : State) : Out :=
  if bad.any (fun e => 64 ≤ e.1 || 2048 ≤ e.2) then .fault .noSuchUnit
  else if !s.aux.pllLocked then .next s
  else done s (bad.foldl (fun (a : State) e => a.tileError e.1) s)

/-- SPARE_TILE_FILLED (R245, R246): the mapping of the logical tile switches to the filled spare. -/
def execSpareTileFilled (lt : Nat) (s : State) : Out :=
  if !s.aux.pllLocked then .next s
  else match s.tcam.filling.find? (fun f => f.1 == lt) with
  | none => .next s
  | some f =>
    let old := s.tileOf lt
    let t := { s with
      tcam.filling := s.tcam.filling.filter (fun g => g.1 != lt), tcam.tiles := s.tcam.tiles.set lt f.2 }
    let u := t.record { kind := 4, die := 0, cause := 2, unit := old, index := f.2, hours := s.hours }
    done s (u.raise 0x0582 (d4 lt ++ d4 old ++ d4 f.2 ++ d4 u.tcam.spares.length))

end Sys2Proof.Machine
end

