-- ==== Sys2Proof/Machine/Tables.lean ====
section
/-! DEFINITION. The forwarding tables and their table write port (05_forwarding_tables.md): the commands of class 0x04,
batches (R22, R24, R194-R198), retirement epochs (R199-R204), the poison list (R206-R211), object counters (R212-R214). -/
namespace Sys2Proof.Machine
open Sys2Proof

/-! ### Exact-match entries (R170, R171) -/

def State.emEnt (s : State) (t key : Nat) : Option EmEnt := s.tbl.em.find? (fun e => e.table == t && e.key == key)

/-- The entries of an exact-match table. -/
def State.emCount (s : State) (t : Nat) : Nat := (s.tbl.em.filter (fun e => e.table == t)).length

/-- One operation of an EM_INSERT or EM_DELETE: table_id, result and override, key (Table 05-16). -/
def State.emOp (s : State) (add replace : Bool) (b : Bytes) : Nat × State :=
  let t := byteAt b 0
  let r := le b 4 3
  let wide := s.emWide t
  let key := be b 8 (if wide then 32 else 16)
  let other := s.tbl.em.filter (fun e => !(e.table == t && e.key == key))
  let x : EmEnt := { table := t, key, result := r, override := bit (byteAt b 7) 0 }
  if 63 < t || (add && (!resultOk r (t == 63) || (t == 63 && r / 1048576 != 7))) then (stBadParam, s)
  else if !add then
    if (s.emEnt t key).isSome then (stOk, { s with tbl.em := other }.noteEmFill) else (stNotFound, s)
  else if !s.resultSet r then (stNotFound, s)
  else if (s.emEnt t key).isSome then
    if replace then
      (stOk, { s with tbl.em := s.tbl.em.map (fun e => if e.table == t && e.key == key then x else e) })
    else (stExists, s)
  else
    let p := s.placed
    let u := { p.2 with tbl.em := s.tbl.em ++ [x] }
    if u.emSlots < u.emUsed || !p.1 then (stNoResource, p.2)
    else
      let n := s.emCount t
      (stOk, (u.growTable (emTable t) (n + 1) (if wide then 1 else 2) (if wide then 2 * n else n)).noteEmFill)

/-! ### Next-hop and label entries -/

/-- A next-hop record from its 48 bits (Table 05-11). -/
def nexthopOf (v : Nat) : Nexthop :=
  { type := field v 47 44, dest := field v 43 28, encap := field v 27 10, encapValid := bit v 9, countEn := bit v 8 }

/-- A next-hop record has a defined type and a destination in range for it. -/
def Nexthop.ok (n : Nexthop) : Bool :=
  match n.type with
  | 0 => true
  | 1 => n.dest < 32768
  | 2 => n.dest < 128
  | 3 => true
  | 4 => n.dest < 64
  | 5 => true
  | _ => false

/-- One operation of a NEXTHOP_SET: index, record. -/
def State.nexthopOp (s : State) (b : Bytes) : Nat × State :=
  let i := le b 0 4
  let n := nexthopOf (le b 4 6)
  if 1048576 ≤ i || !n.ok then (stBadParam, s)
  else if s.retiring 0 i then (stBusy, s)
  else if (n.encapValid && !s.encapSet? n.encap) || (n.type == 3 && (s.mcGroup? n.dest).isNone) then (stNotFound, s)
  else (stOk, { s with tbl.nexthops := s.tbl.nexthops.set i n }.unpoison 3 i)

/-- A label entry from its 128 bits (Table 05-10). -/
def labelOf (v : Nat) : LabelEnt :=
  { action := field v 127 124, newLabel := field v 123 104, vrf := field v 103 92, result := field v 91 68, pipe := bit v 67
    countEn := bit v 66 }

/-- One operation of a LABEL_SET: label, entry. A punt entry names a punt result. -/
def State.labelOp (s : State) (b : Bytes) : Nat × State :=
  let i := le b 0 4
  let n := labelOf (le b 16 16)
  if 1048576 ≤ i || 5 < n.action || !resultOk n.result false || (n.action == 5 && n.result / 1048576 != 5) then
    (stBadParam, s)
  else if !s.resultSet n.result then (stNotFound, s)
  else (stOk, { s with tbl.labels := s.tbl.labels.set i n }.unpoison 2 i)

/-! ### Encapsulation objects (Table 11-6, R445) -/

/-- An encapsulation object from its 512 bits, and its data_len. -/
def encapFrom (v : Nat) : Encap × Nat :=
  let n := field v 480 475
  ({ valid := bit v 511, program := field v 510 501, next := if bit v 482 then some (field v 500 483) else none
     countEn := bit v 481, data := (List.range n).map (fun j => BitVec.ofNat 8 (field v (447 - 8 * j) (440 - 8 * j))) }, n)

/-- R453: storage of the edit engines and groups that is written again is no longer lost. -/
def State.editMended (s : State) (kind : Nat) (l : List Nat) : State :=
  { s with edit.poison := s.edit.poison.filter (fun x => !(x.1 == kind && l.contains x.2)) }

/-- One operation of an ENCAP_SET: index, object. -/
def State.encapOp (s : State) (b : Bytes) : Nat × State :=
  let i := le b 0 4
  let x := encapFrom (le b 8 64)
  let e := x.1
  if 262144 ≤ i || 56 < x.2 || (e.valid && e.program != 0 && (s.edit.programs.get? e.program).isNone) then (stBadParam, s)
  else if s.retiring 2 i then (stBusy, s)
  else if e.next.any (s.retiring 2) then (stNotFound, s)
  else (stOk, { s with edit.encaps := s.edit.encaps.set i e }.editMended 0 [i])

/-! ### Batches (R194-R198) -/

/-! A batch runs through the table write port: its first entry is applied as the command starts, the others one to a tick of
the time clock (R22; that a tick applies one is a DESIGN CHOICE, timing), so that lookups fall between them (R24). -/

/-- The size of an operation of a batch opcode; exact-match operations depend on the table they name. -/
def State.opSize (s : State) (opcode : Nat) (b : Bytes) : Nat :=
  if opcode == 0x0401 || opcode == 0x0402 || opcode == 0x0407 then 32
  else if opcode == 0x0405 then 12
  else if opcode == 0x0506 || opcode == 0x0507 then 176
  else if opcode == 0x0A02 then 72
  else 8 + (if s.emWide (byteAt b 0) then 32 else 16)

/-- Every reserved bit of an operation is zero (R749). -/
def opClean (opcode : Nat) (b : Bytes) : Bool :=
  if opcode == 0x0401 then rsv b 7 1 && rsv b 24 8
  else if opcode == 0x0402 then rsv b 24 8
  else if opcode == 0x0405 then rsv b 4 1 && rsv b 10 2
  else if opcode == 0x0407 then rsv b 4 12 && le b 16 16 % 2 ^ 66 == 0
  else if opcode == 0x0408 then rsv b 1 3 && flagsIn b 7 1
  else if opcode == 0x0A02 then rsv b 4 4 && field (le b 8 64) 474 448 == 0
  else if opcode == 0x0506 || opcode == 0x0507 then rsv b 5 1 && le b 8 8 % 2048 == 0
  else rsv b 1 3

/-- The operations of a batch payload, where it holds them all. -/
def State.opsOf (s : State) (opcode : Nat) : Nat → Bytes → Option (List Bytes)
  | 0, _ => some []
  | n + 1, b =>
    let k := s.opSize opcode b
    if b.length < k then none else (s.opsOf opcode n (b.drop k)).map (fun r => b.take k :: r)

/-- One operation of a batch. -/
def State.batchOp (s : State) (opcode flags : Nat) (b : Bytes) : Nat × State :=
  let replace := bit flags 0
  if opcode == 0x0401 then s.routeOp true replace b
  else if opcode == 0x0402 then s.routeOp false replace b
  else if opcode == 0x0405 then s.nexthopOp b
  else if opcode == 0x0407 then s.labelOp b
  else if opcode == 0x0408 then s.emOp true replace b
  else if opcode == 0x0506 then s.tcamInsertOp b
  else if opcode == 0x0507 then s.tcamModifyOp (bit flags 2) (bit flags 3) b
  else if opcode == 0x0A02 then s.encapOp b
  else s.emOp false replace b

/-- What becomes of a batch when its next entry has been applied: the rest waits, or it ends with its status, the entries
applied and the failing one (R196). -/
inductive PortNext where
  | more (w : PortWork)
  | ended (status applied failIndex : Nat)
deriving DecidableEq, Repr

/-- R22, R196: applies the next entry of a batch. -/
def State.portOp (s : State) (w : PortWork) : PortNext × State :=
  match w.ops with
  | [] => (.ended stBadParam 0 0xFFFFFFFF, s)
  | b :: l =>
    let x := s.batchOp w.opcode w.flags b
    if x.1 == stOk then
      (if l.isEmpty then .ended stOk (w.applied + 1) 0xFFFFFFFF else .more { w with ops := l, applied := w.applied + 1 },
        if w.opcode == 0x0401 || w.opcode == 0x0402 then x.2 else x.2.wrote 1)
    else (.ended (if w.applied == 0 then x.1 else stPartial) w.applied w.applied, x.2)

/-- An untimed batch begins: its first entry is applied at once. -/
def State.portStart (s : State) (opcode flags : Nat) (l : List Bytes) : Res :=
  let x := s.portOp { id := s.tbl.batchSeq, opcode, flags, ops := l }
  match x.1 with
  | .more w =>
    { st := { x.2 with tbl.batchSeq := s.tbl.batchSeq + 1, tbl.port := w :: x.2.tbl.port }
      async := some (.batch s.tbl.batchSeq) }
  | .ended st n f => { st := x.2, keep := true, status := st, applied := n, failIndex := f }

/-- Operations in the staged timed batches (R198). -/
def State.stagedOps (s : State) : Nat := (s.tbl.batches.map (·.ops)).sum

/-- A batch command once its reserved bits are known to be zero: at once, or staged for its commit time (R197). -/
def State.startBatch (s : State) (opcode : Nat) (payload : Bytes) : Res :=
  let n := le payload 0 2
  if !inRange n 1 (if opcode / 256 == 5 then 256 else 1024) then Res.err s stBadParam
  else if (s.opsOf opcode n (payload.drop 8)).any (fun l => l.all (opClean opcode)) then
    if bit (byteAt payload 2) 1 then
      let t : T32 := BitVec.ofNat 32 (le payload 4 4)
      if !T32.validCommit s.t32 t then Res.err s stBadParam
      else if 65536 < s.stagedOps + n then Res.err s stNoResource
      else
        let id := s.tbl.batchSeq
        { st := { s with
            tbl.batchSeq := id + 1, tbl.batches := s.tbl.batches ++ [{ id, opcode, t, ops := n, payload }] }
          async := some (.batch id) }
    else s.portStart opcode (byteAt payload 2) ((s.opsOf opcode n (payload.drop 8)).getD [])
  else Res.err s stBadParam

/-- What the header checks of a batch need: `size` is that of the shortest operation. -/
def batchSpec (opcode size : Nat) : CmdSpec :=
  { opcode, long := fun b => 8 + size * le b 0 2 ≤ b.length, ported := fun b => !bit (byteAt b 2) 1
    clean := fun b => rsv b 3 1 &&
      (if opcode == 0x0506 || opcode == 0x0A02 then byteAt b 2 == 0 || byteAt b 2 == 2
        else if opcode == 0x0507 then byteAt b 2 % 2 == 0 && byteAt b 2 < 16 else flagsIn b 2 2) }

def cmdRouteAdd (c : Cmd) (s : State) : Res := gate (batchSpec 0x0401 32) (fun c s => s.startBatch 0x0401 c.payload) c s
def cmdRouteDelete (c : Cmd) (s : State) : Res := gate (batchSpec 0x0402 32) (fun c s => s.startBatch 0x0402 c.payload) c s
def cmdNexthopSet (c : Cmd) (s : State) : Res := gate (batchSpec 0x0405 12) (fun c s => s.startBatch 0x0405 c.payload) c s
def cmdLabelSet (c : Cmd) (s : State) : Res := gate (batchSpec 0x0407 32) (fun c s => s.startBatch 0x0407 c.payload) c s
def cmdEmInsert (c : Cmd) (s : State) : Res := gate (batchSpec 0x0408 24) (fun c s => s.startBatch 0x0408 c.payload) c s
def cmdEmDelete (c : Cmd) (s : State) : Res := gate (batchSpec 0x0409 24) (fun c s => s.startBatch 0x0409 c.payload) c s

def cmdEncapSet (c : Cmd) (s : State) : Res := gate (batchSpec 0x0A02 72) (fun c s => s.startBatch 0x0A02 c.payload) c s

def cmdTcamEntryInsert (c : Cmd) (s : State) : Res :=
  gate (batchSpec 0x0506 176) (fun c s => s.startBatch 0x0506 c.payload) c s
def cmdTcamEntryModify (c : Cmd) (s : State) : Res :=
  gate (batchSpec 0x0507 176) (fun c s => s.startBatch 0x0507 c.payload) c s

/-- ROUTE_ADD. -/
def execRouteAdd (c : Cmd) (s : State) : Out := serve c cmdRouteAdd s
/-- ROUTE_DELETE. -/
def execRouteDelete (c : Cmd) (s : State) : Out := serve c cmdRouteDelete s
/-- NEXTHOP_SET. -/
def execNexthopSet (c : Cmd) (s : State) : Out := serve c cmdNexthopSet s
/-- LABEL_SET. -/
def execLabelSet (c : Cmd) (s : State) : Out := serve c cmdLabelSet s
/-- EM_INSERT. -/
def execEmInsert (c : Cmd) (s : State) : Out := serve c cmdEmInsert s
/-- EM_DELETE. -/
def execEmDelete (c : Cmd) (s : State) : Out := serve c cmdEmDelete s

/-- ENCAP_SET. -/
def execEncapSet (c : Cmd) (s : State) : Out := serve c cmdEncapSet s
/-- TCAM_ENTRY_INSERT. -/
def execTcamEntryInsert (c : Cmd) (s : State) : Out := serve c cmdTcamEntryInsert s
/-- TCAM_ENTRY_MODIFY. -/
def execTcamEntryModify (c : Cmd) (s : State) : Out := serve c cmdTcamEntryModify s

/-- Completes the commands of a batch. -/
def State.portFinish (s : State) (id status applied failIndex : Nat) : State :=
  (s.hif.openCmds.filter (fun o => o.kind == .batch id)).foldl
    (fun (a : State) o => a.finishOpen o status [] applied failIndex) s

/-- R197, R512: the batches whose commit time T32 has reached go ahead of all other work, in posting order. -/
def State.portDue (s : State) : State :=
  let due := s.tbl.batches.filter (fun b => s.t32.reached b.t)
  if due.isEmpty then s
  else { s with
    tbl.batches := s.tbl.batches.filter (fun b => !s.t32.reached b.t)
    tbl.port := due.map (fun b => { id := b.id, opcode := b.opcode, flags := byteAt b.payload 2
                                    ops := (s.opsOf b.opcode b.ops (b.payload.drop 8)).getD [] }) ++ s.tbl.port }

/-- GROWN_TABLE_RELEASE (R168): the old copy of a grown table is freed. -/
def execGrownTableRelease (table : Nat) (s : State) : Out :=
  if !s.aux.pllLocked then .next s
  else if (s.tbl.oldTables.get? table).isNone then .next s
  else done s (({ s with tbl.oldTables := s.tbl.oldTables.del table }.noteFibFill).noteEmFill)

/-- ECMP_BLOCK_RELEASE (R764): the old member runs of a group are freed. -/
def execEcmpBlockRelease (group : Nat) (s : State) : Out :=
  if !s.aux.pllLocked then .next s
  else if s.tbl.oldRuns.any (fun r => r.1 == group) then
    done s ({ s with tbl.oldRuns := s.tbl.oldRuns.filter (fun r => r.1 != group) }.notePoolFill)
  else .next s

/-! ### Routes (Table 05-16) -/

/-- ROUTE_GET (R759, Table 05-20). -/
def routeGetSpec : CmdSpec :=
  { opcode := 0x0403, long := fun b => 20 ≤ b.length, size := fun _ => 16, reads := true }

/-- Kind of an entry (Table 05-5). -/
def FibEnt.kind (e : FibEnt) : Nat := b2n e.pfx + 2 * b2n e.marker

/-- Table 05-20. -/
def routeRecord (kind len probes refs result : Nat) : Bytes :=
  toLe 1 kind ++ toLe 1 len ++ toLe 1 probes ++ zeros 1 ++ toLe 4 refs ++ toLe 4 result ++ zeros 4

def cmdRouteGet (c : Cmd) (s : State) : Res :=
  gate routeGetSpec (fun c s =>
    let b := c.payload
    let vrf := le b 0 2
    let fam := byteAt b 2
    let len := byteAt b 3
    let addr := be b 4 (famBits fam / 8)
    let d := s.dir vrf fam
    if 4095 < vrf || !(fam == 4 || fam == 6) || (len != 0xFF && famBits fam < len) then Res.err s stBadParam
    else if len == 0xFF then
      let r := s.fibLookup vrf fam addr false
      match r.ent with
      | some e => { st := s, result := routeRecord e.kind e.len r.probes e.refs e.result }
      | none => { st := s, result := routeRecord (b2n (d.dflt / 1048576 != 0)) 0 r.probes 0 d.dflt }
    else if len == 0 then
      if d.dflt / 1048576 == 0 then Res.err s stNotFound
      else { st := s, result := routeRecord 1 0 0 0 d.dflt }
    else match s.fibEnt vrf fam len (maskKey fam len addr) with
      | some e => { st := s, result := routeRecord e.kind e.len 1 e.refs e.result }
      | none => Res.err s stNotFound) c s

def execRouteGet (c : Cmd) (s : State) : Out := serve c cmdRouteGet s

/-- LENGTH_RESERVE (R179). -/
def lengthReserveSpec : CmdSpec := { opcode := 0x0404, long := fun b => 20 ≤ b.length }

def cmdLengthReserve (c : Cmd) (s : State) : Res :=
  gate lengthReserveSpec (fun c s =>
    let b := c.payload
    let vrf := le b 0 2
    let fam := byteAt b 2
    let l := (bitmapOf (le b 4 16) 16).map (fun i => 8 + i)
    let d := s.dir vrf fam
    if 4095 < vrf || !(fam == 4 || fam == 6) || 1 < byteAt b 3 || l.any (fun k => famBits fam < k) then Res.err s stBadParam
    else
      let keep := if byteAt b 3 == 1 then sortLens (d.reserved ++ l) else d.reserved.filter (fun k => !l.contains k)
      { st := (s.fibShrink (s.fibStore vrf fam (s.fibPrefixes vrf fam) { d with reserved := keep }) vrf fam).2 }) c s

def execLengthReserve (c : Cmd) (s : State) : Out := serve c cmdLengthReserve s

/-! ### ECMP groups -/

/-- ECMP_CREATE (R752, R764). -/
def ecmpCreateSpec : CmdSpec := { opcode := 0x0406, long := fun b => 4 ≤ b.length && 4 + 4 * byteAt b 3 ≤ b.length }

def cmdEcmpCreate (c : Cmd) (s : State) : Res :=
  gate ecmpCreateSpec (fun c s =>
    let b := c.payload
    let g := le b 0 2
    let cap := byteAt b 2
    let n := byteAt b 3
    let l := (List.range n).map (fun i => le b (4 + 4 * i) 4)
    if !inRange cap 8 128 || !inRange n 1 cap || l.eraseDups.length != n || l.any (fun v => 1048576 ≤ v) then
      Res.err s stBadParam
    else if s.retiring 1 g then Res.err s stBusy
    else if (s.tbl.ecmps.get? g).isSome then Res.err s stExists
    else if !l.all s.nexthopSet? then Res.err s stNotFound
    else
      let size := 8 * ceilDiv cap 8
      match s.freeRun size with
      | none => Res.err s stNoResource
      | some base =>
        let x : Ecmp := {
          members := numbered 0 l, slots := (List.range 256).map (fun i => i % n), capacity := size, base }
        { st := ((({ s with tbl.ecmps := s.tbl.ecmps.set g x }.notePoolFill).unpoison 4 g).unpoisonRun base n).wrote 1 }) c s

def execEcmpCreate (c : Cmd) (s : State) : Out := serve c cmdEcmpCreate s

/-- ECMP_COUNT_SET (R764). -/
def ecmpCountSetSpec : CmdSpec := { opcode := 0x0413, long := fun b => 4 ≤ b.length, clean := fun b => rsv b 3 1 }

def cmdEcmpCountSet (c : Cmd) (s : State) : Res :=
  gate ecmpCountSetSpec (fun c s =>
    let g := le c.payload 0 2
    if 1 < byteAt c.payload 2 then Res.err s stBadParam
    else if s.retiring 1 g then Res.err s stBusy
    else match s.tbl.ecmps.get? g with
      | none => Res.err s stNotFound
      | some x =>
        { st := { s with tbl.ecmps := s.tbl.ecmps.set g { x with countEn := byteAt c.payload 2 == 1 } }.wrote 1 }) c s

def execEcmpCountSet (c : Cmd) (s : State) : Out := serve c cmdEcmpCountSet s

/-! ### Exact-match configuration, interfaces, router MACs -/

/-- EM_TABLE_CONFIG. -/
def emTableConfigSpec : CmdSpec := { opcode := 0x040A, long := fun b => 4 ≤ b.length }

def cmdEmTableConfig (c : Cmd) (s : State) : Res :=
  gate emTableConfigSpec (fun c s =>
    let b := c.payload
    let t := byteAt b 0
    let prof := s.keyProfile (le b 2 2)
    if 61 < t || 1 < byteAt b 1 || 63 < le b 2 2 || (if byteAt b 1 == 1 then 256 else 128) < keyWidth prof ||
        prof.any (fun g => g.code == 0x16) then Res.err s stBadParam
    else if 0 < s.emCount t then Res.err s stRefused
    else { st := { s with tbl.emCfg := s.tbl.emCfg.set t { wide := byteAt b 1 == 1, profile := le b 2 2 } }.wrote 1 }) c s

def execEmTableConfig (c : Cmd) (s : State) : Out := serve c cmdEmTableConfig s

/-- INTERFACE_SET (R756, Table 05-9). -/
def interfaceSetSpec : CmdSpec :=
  { opcode := 0x040B, long := fun b => 12 ≤ b.length, clean := fun b => rsv b 2 2 && le b 4 8 % 1048576 == 0 }

def cmdInterfaceSet (c : Cmd) (s : State) : Res :=
  gate interfaceSetSpec (fun c s =>
    let v := le c.payload 4 8
    let a := field v 31 26
    let b := field v 25 20
    if a == 62 || b == 62 then Res.err s stBadParam
    else
      { st := { s with tbl.ifaces := s.tbl.ifaces.set (le c.payload 0 2) {
          vrf := field v 63 52, rmac := field v 51 36, v4 := bit v 35, v6 := bit v 34, mpls := bit v 33, countEn := bit v 32
          emA := a, emB := b } }.wrote 1 }) c s

def execInterfaceSet (c : Cmd) (s : State) : Out := serve c cmdInterfaceSet s

/-- ROUTER_MAC_SET (R181). -/
def routerMacSetSpec : CmdSpec := { opcode := 0x040C, long := fun b => 8 ≤ b.length }

def cmdRouterMacSet (c : Cmd) (s : State) : Res :=
  gate routerMacSetSpec (fun c s =>
    let i := byteAt c.payload 0
    if 15 < i || 1 < byteAt c.payload 1 then Res.err s stBadParam
    else
      let l := if byteAt c.payload 1 == 1 then s.tbl.rmacs.set i (be c.payload 2 6) else s.tbl.rmacs.del i
      { st := { s with tbl.rmacs := l }.wrote 1 }) c s

def execRouterMacSet (c : Cmd) (s : State) : Out := serve c cmdRouterMacSet s

/-! ### Retirement (R199-R204) -/

/-- R199, R445: references to an object from routes, label entries, exact-match entries, ECMP members and next-hops; to an
encapsulation also from multicast members, site-map entries and next fields. -/
def State.references (s : State) (kind i : Nat) : Nat :=
  let word := (kind + 1) * 1048576 + i
  let hits (r : Nat) : Nat := if kind < 2 then b2n (r == word) else 0
  (s.tbl.dirs.map (fun e => hits e.2.dflt + (e.2.shorts.map (fun x => hits x.2.2)).sum)).sum +
    ((s.tbl.fib.filter (fun e => e.pfx && e.orig == e.len)).map (fun e => hits e.result)).sum +
    (s.tbl.labels.map (fun e => hits e.2.result)).sum + (s.tbl.em.map (fun e => hits e.result)).sum +
    (if kind == 0 then (s.tbl.ecmps.map (fun e => (e.2.members.filter (fun m => m.2 == i)).length)).sum else 0) +
    (if kind == 2 then
      (s.tbl.nexthops.filter (fun e => e.2.encapValid && e.2.encap == i)).length + b2n (s.sched.siteMap.get? i).isSome +
        (s.edit.encaps.filter (fun e => e.2.valid && e.2.next == some i)).length +
        (s.edit.groups.map (fun e => (e.2.members.filter (fun m => m.encap == some i)).length)).sum
      else 0)

/-- R202: the longest age limit of any queue, in microseconds; a queue not listed has its reset value. -/
def State.longestAge (s : State) : Nat :=
  let l := (s.buf.queues.map (fun e => e.2.ageUs)).foldl Nat.max 0
  if s.buf.queues.length < 524288 then Nat.max 1000000 l else l

/-- R202: epochs from acceptance to freedom. -/
def State.retireEpochs (s : State) : Nat := ceilDiv (Nat.max (s.tbl.retireAge * 1000) s.longestAge + 5) 1000

/-- OBJ_RETIRE (R199-R202). -/
def objRetireSpec : CmdSpec := { opcode := 0x040D, long := fun b => 8 ≤ b.length, clean := fun b => rsv b 1 3 }

def cmdObjRetire (c : Cmd) (s : State) : Res :=
  gate objRetireSpec (fun c s =>
    let k := byteAt c.payload 0
    let i := le c.payload 4 4
    if 2 < k then Res.err s stBadParam
    else if s.retiring k i then Res.err s stBusy
    else if !(if k == 0 then s.nexthopSet? i else if k == 1 then s.ecmpSet? i else s.encapSet? i) then Res.err s stNotFound
    else if s.references k i != 0 then Res.err s stRefused (s.references k i)
    else
      { st := { s with tbl.retiring := s.tbl.retiring ++
          [{ kind := k, index := i, freeAt := s.tbl.epoch + s.retireEpochs }] }
        async := some (.retire k i) }) c s

def execObjRetire (c : Cmd) (s : State) : Out := serve c cmdObjRetire s

/-- R203: a retired object becomes free: its counter pair is zeroed and it is unset. -/
def State.freeObject (s : State) (r : Retiring) : State :=
  let t := { s with tbl.retiring := s.tbl.retiring.filter (fun x => !(x.kind == r.kind && x.index == r.index)) }
  let zero (t : State) (pair : Nat) : State := { t with hbm.pairs := t.hbm.pairs.del pair }
  if r.kind == 0 then
    zero ({ t with tbl.nexthops := t.tbl.nexthops.del r.index }.unpoison 3 r.index) r.index
  else if r.kind == 1 then
    zero (({ t with tbl.ecmps := t.tbl.ecmps.del r.index }.unpoison 4 r.index).notePoolFill) (2097152 + r.index)
  else
    zero { t with edit.encaps := t.edit.encaps.upd r.index {} (fun e => { e with valid := false }) } (2228224 + r.index)

/-- R203: completes the OBJ_RETIRE commands whose object is no longer retiring. -/
def State.finishRetired (s : State) : State :=
  (s.hif.openCmds.filter (fun o => match o.kind with | .retire k i => !s.retiring k i | _ => false)).foldl
    (fun (a : State) o => a.finishOpen o stOk) s

/-- RETIREMENT_EPOCH_END (R201-R203): the epoch's 750,000 ticks are over; completions wait for firmware to run. -/
def execRetirementEpochEnd (s : State) : Out :=
  if s.ended s.tbl.epochTick 750000 then
    let t := (s.tbl.retiring.filter (fun r => r.freeAt ≤ s.tbl.epoch)).foldl (fun (a : State) r => a.freeObject r) s
    let u := { t with tbl.epoch := s.tbl.epoch + 1, tbl.epochTick := s.tbl.epochTick + 750000 }
    done s (if u.serving then u.finishRetired else u)
  else .next s

/-- R204: an offset step of -δ ns lengthens every retirement that runs. -/
def State.delayRetire (s : State) (δ : Nat) : State :=
  { s with tbl.retiring := s.tbl.retiring.map (fun r => { r with freeAt := r.freeAt + ceilDiv δ 1000000 }) }

/-! ### Object counters (R213, R214) -/

/-- OBJ_COUNTERS_GET (R214). -/
def objCountersGetSpec : CmdSpec :=
  { opcode := 0x040E, long := fun b => 8 ≤ b.length, clean := fun b => rsv b 7 1, size := fun b => 16 * le b 4 2
    reads := true }

def cmdObjCountersGet (c : Cmd) (s : State) : Res :=
  gate objCountersGetSpec (fun c s =>
    let b := c.payload
    let first := le b 0 4
    let n := le b 4 2
    if !inRange n 1 256 || 1 < byteAt b 6 || 16777216 < first + n then Res.err s stBadParam
    else
      let l := (List.range n).map (fun i => s.hbm.pairs.getD (first + i) (0, 0))
      { st := if byteAt b 6 == 1 then
          { s with hbm.pairs := s.hbm.pairs.filter (fun e => !(first ≤ e.1 && e.1 < first + n)) } else s
        result := l.flatMap (fun p => toLe 8 p.1 ++ toLe 8 p.2) }) c s

def execObjCountersGet (c : Cmd) (s : State) : Out := serve c cmdObjCountersGet s

/-- COUNTER_UPDATE (R12, R213, R459): the oldest update on its way reaches its pair in HBM. -/
def execCounterUpdate (s : State) : Out :=
  if !s.aux.pllLocked then .next s
  else match s.tbl.updates with
  | [] => .next s
  | (pair, n) :: r =>
    let p := s.hbm.pairs.getD pair (0, 0)
    done s { s with
      tbl.updates := r
      hbm.pairs := s.hbm.pairs.set pair ((p.1 + 1) % 18446744073709551616, (p.2 + n) % 18446744073709551616) }

/-! ### The poison list (R206-R211) -/

/-- The items of event 0x0481 (R746, Table 05-18): for an exact-match table, which has neither VRF nor prefix length, table_id
stands in the VRF's place; its length item is 0 (DESIGN CHOICE: the table gives none). -/
def poisonData (p : Poison) : Bytes :=
  if p.table < 2 then
    d4 0 ++ d4 p.table ++ d4 (if p.table == 0 then p.vrf else p.len) ++ d4 p.fam ++ d4 (if p.table == 0 then p.len else 0) ++ d4 p.way ++ d4 p.index ++ d4 p.seed
  else d4 1 ++ d4 (p.table - 2) ++ d4 p.index

/-- R209, R211: enters the poison list in its lowest free place, or leaves the error unguarded: the entry reads as empty. -/
def State.poisonAdd (s : State) (p : Poison) (empty : State → State) : State :=
  if s.tbl.poison.any (fun e => { e.2 with ready := p.ready } == p) then s
  else match (List.range 256).find? (fun i => (s.tbl.poison.get? i).isNone) with
    | some i => { s with tbl.poison := s.tbl.poison.set i p }.raise 0x0481 (poisonData p)
    | none => ((empty s).setCond 3).raise 0x0483 (poisonData p)

/-- The entries held in a bucket of a FIB table and of an exact-match table. -/
def State.inFibBucket (s : State) (vrf fam len way bucket : Nat) (e : FibEnt) : Bool :=
  let t := fibTable vrf fam len
  e.vrf == vrf && e.fam == fam && e.len == len && Config.keyWay t e.key % 4 == way &&
    s.bucket t way (fibKeyBytes vrf fam len e.key) == bucket
def State.inEmBucket (s : State) (table way bucket : Nat) (e : EmEnt) : Bool :=
  let t := emTable table
  e.table == table && Config.keyWay t e.key % 4 == way &&
    s.bucket t way (emKeyBytes table (s.emWide table) e.key) == bucket

/-- R206: an uncorrectable error in a FIB bucket: what it held is lost. -/
def State.poisonFib (s : State) (vrf fam len way bucket : Nat) : State :=
  let hit (e : FibEnt) : Bool := s.inFibBucket vrf fam len way bucket e
  let t := { s with
    tbl.fib := s.tbl.fib.filter (fun e => !hit e), tbl.fibLost := s.tbl.fibLost ++ s.tbl.fib.filter (fun e => hit e && e.pfx) }
  t.poisonAdd { ready := false, table := 0, fam, len, vrf, way, index := bucket, seed := s.tableSeed (fibTable vrf fam len) }
    (fun t => { t with tbl.fibLost := s.tbl.fibLost })

/-- R208: a bucket is no longer poisoned: the prefixes of it that were not sent again are gone, and their markers with them. -/
def State.fibMended (s : State) (p : Poison) : State :=
  let t := { s with tbl.fibLost := s.tbl.fibLost.filter (fun e => !s.inFibBucket p.vrf p.fam p.len p.way p.index e) }
  if t.tbl.fibLost.length == s.tbl.fibLost.length then s else t.fibStore p.vrf p.fam (t.fibPrefixes p.vrf p.fam) (t.dir p.vrf p.fam)

/-- R206: an uncorrectable error in an exact-match bucket. -/
def State.poisonEm (s : State) (table way bucket : Nat) : State :=
  let t := { s with tbl.em := s.tbl.em.filter (fun e => !s.inEmBucket table way bucket e) }
  t.poisonAdd { ready := true, table := 1, len := table, way, index := bucket, seed := s.tableSeed (emTable table) } id

/-- R209: an uncorrectable error in a label entry, a next-hop record, an ECMP record or a member entry. -/
def State.poisonLabel (s : State) (i : Nat) : State :=
  s.poisonAdd { ready := false, table := 2, index := i } (fun s => { s with tbl.labels := s.tbl.labels.del i })
def State.poisonNexthop (s : State) (i : Nat) : State :=
  s.poisonAdd { ready := false, table := 3, index := i } (fun s => { s with tbl.nexthops := s.tbl.nexthops.del i })
def State.poisonEcmp (s : State) (g : Nat) : State :=
  s.poisonAdd { ready := false, table := 4, index := g } (fun s =>
    { s with tbl.ecmps := s.tbl.ecmps.map (fun e => if e.1 == g then (g, { e.2 with members := [], slots := [], countEn := false }) else e) })
def State.poisonMember (s : State) (i : Nat) : State :=
  s.poisonAdd { ready := false, table := 5, index := i } (fun s =>
    { s with tbl.ecmps := s.tbl.ecmps.map (fun e =>
      if e.2.base ≤ i && i < e.2.base + e.2.capacity then (e.1, { e.2 with members := e.2.members.del (i - e.2.base) })
      else e) })

/-- MARKER_REBUILD_DONE (R207, R760): the marker-only entries of a poisoned FIB bucket are rebuilt. -/
def execMarkerRebuildDone (entry : Nat) (s : State) : Out :=
  match s.tbl.poison.get? entry with
  | some p =>
    if p.table == 0 && !p.ready && s.fwRuns then
      let t := s.fibStore p.vrf p.fam (s.fibPrefixes p.vrf p.fam) (s.dir p.vrf p.fam)
      done s { t with tbl.poison := t.tbl.poison.set entry { p with ready := true } }
    else .next s
  | none => .next s

/-- TABLE_REPAIR_DONE (R208, R760). -/
def tableRepairDoneSpec : CmdSpec := { opcode := 0x040F, long := fun b => 2 ≤ b.length }

def cmdTableRepairDone (c : Cmd) (s : State) : Res :=
  gate tableRepairDoneSpec (fun c s =>
    let i := le c.payload 0 2
    match s.tbl.poison.get? i with
    | some p =>
      if 1 < p.table then Res.err s stNotFound
      else if !p.ready then Res.err s stBusy
      else
        let t := { s with tbl.poison := s.tbl.poison.del i }.clearCond 3
        { st := if p.table == 0 then t.fibMended p else t }
    | none => Res.err s stNotFound) c s

def execTableRepairDone (c : Cmd) (s : State) : Out := serve c cmdTableRepairDone s

/-! ### Split, configuration and status -/

/-- TABLE_SPLIT_SET (R164, R165). -/
def tableSplitSetSpec : CmdSpec :=
  { opcode := 0x0410, long := fun b => 1 ≤ b.length, mode := fun _ s => if s.mode.mode == mdConfigure then 0 else stWrongMode }

def cmdTableSplitSet (c : Cmd) (s : State) : Res :=
  gate tableSplitSetSpec (fun c s =>
    let n := byteAt c.payload 0
    if !inRange n 1 10 then Res.err s stBadParam
    else
      let t := { s with
        tbl.emBanks := n, tbl.fib := [], tbl.fibLost := [], tbl.dirs := [], tbl.em := [], tbl.sizes := [], tbl.oldTables := [] }
      { st := (t.noteFibFill).noteEmFill }) c s

def execTableSplitSet (c : Cmd) (s : State) : Out := serve c cmdTableSplitSet s

/-- LOOKUP_CONFIG (R202). -/
def lookupConfigSpec : CmdSpec := { opcode := 0x0411, long := fun b => 2 ≤ b.length }

def cmdLookupConfig (c : Cmd) (s : State) : Res :=
  gate lookupConfigSpec (fun c s =>
    if !inRange (le c.payload 0 2) 1 1000 then Res.err s stBadParam
    else { st := { s with tbl.retireAge := le c.payload 0 2 } }) c s

def execLookupConfig (c : Cmd) (s : State) : Out := serve c cmdLookupConfig s

/-- Numbers of values of the names of Table 05-19. -/
def lookupDims : List (Nat × Nat) := [(1, 1), (8, 1), (4, 1), (1, 1), (1, 1), (1, 1)]

/-- A poison list entry (Table 05-22). -/
def Poison.encode (p : Poison) : Bytes :=
  toLe 1 (if p.ready then 2 else 1) ++ toLe 1 p.table ++ toLe 1 p.fam ++ toLe 1 p.len ++ toLe 2 p.vrf ++ toLe 1 p.way ++
    zeros 1 ++ toLe 4 p.index ++ toLe 4 p.seed

/-- TABLE_STATUS_GET (R760, Table 05-21). -/
def tableStatusGetSpec : CmdSpec := { opcode := 0x0412, size := fun _ => 4128 + snapSize lookupDims, reads := true }

def cmdTableStatusGet (c : Cmd) (s : State) : Res :=
  gate tableStatusGetSpec (fun _ s =>
    { st := s
      result := toLe 1 (14 - s.tbl.emBanks) ++ toLe 1 s.tbl.emBanks ++ toLe 2 s.tbl.poison.length ++ toLe 4 s.fibSlots ++
        toLe 4 s.fibUsed ++ toLe 4 s.emSlots ++ toLe 4 s.emUsed ++ toLe 4 524288 ++ toLe 4 s.poolEntriesUsed ++ zeros 4 ++
        (List.range 256).flatMap (fun i => match s.tbl.poison.get? i with | some p => p.encode | none => zeros 16) ++
        s.snap 519 lookupDims }) c s

def execTableStatusGet (c : Cmd) (s : State) : Out := serve c cmdTableStatusGet s

end Sys2Proof.Machine
end

