-- ==== Sys2Proof/Machine/Qos.lean ====
section
/-! DEFINITION. Traffic class, pre-colour and ingress policers (R292-R305, R321, R337 of 08_scheduling.md). -/
namespace Sys2Proof.Machine
open Sys2Proof

/-! ### QoS maps (R292-R294) -/

/-- The entry of a QoS map: traffic class and colour. -/
def State.qosEntry (s : State) (m i : Nat) : Nat × Nat := (s.sched.maps.getD m []).getD i (0, 0)

/-- R292, R293: traffic class and pre-colour of a packet from the field its port trusts, or the port's default. `frame` is
its bytes, in which the top label stands after the VLAN tags. -/
def State.classify (s : State) (p : Parse) (frame : Bytes) : Nat × Nat :=
  let q := (s.prt p.port).qos
  if q.trust == 1 && p.vlanCount != 0 then s.qosEntry q.map (64 + p.outerTag / 4096)
  else if q.trust == 2 && p.ipKind != 0 then s.qosEntry q.map (p.tos / 4)
  else if q.trust == 3 && p.mplsCount != 0 then s.qosEntry q.map (80 + be frame (16 + 4 * p.vlanCount) 1 / 2 % 8)
  else (q.tc, q.colour)

/-- QOS_MAP_SET. -/
def qosMapSetSpec : CmdSpec :=
  { opcode := 0x0706, long := fun b => 92 ≤ b.length
    clean := fun b => rsv b 1 3 && (List.range 88).all (fun i => flagsIn b (4 + i) 5) }

def cmdQosMapSet (c : Cmd) (s : State) : Res :=
  gate qosMapSetSpec (fun c s =>
    let l := (List.range 88).map (fun i => byteAt c.payload (4 + i))
    if 15 < byteAt c.payload 0 || l.any (fun v => v / 8 == 3) then Res.err s stBadParam
    else { st := { s with sched.maps := s.sched.maps.set (byteAt c.payload 0) (numbered 0 (l.map (fun v => (v % 8, v / 8)))) } })
    c s

def execQosMapSet (c : Cmd) (s : State) : Out := serve c cmdQosMapSet s

/-- QOS_PORT_SET. -/
def qosPortSetSpec : CmdSpec :=
  { opcode := 0x0707, long := fun b => 36 ≤ b.length
    clean := fun b => flagsIn b 3 5 && (List.range 8).all (fun i => field (le b (4 + 4 * i) 4) 30 20 == 0) }

def cmdQosPortSet (c : Cmd) (s : State) : Res :=
  gate qosPortSetSpec (fun c s =>
    let b := c.payload
    let p := byteAt b 0
    if !s.portExists p then Res.err s stNotFound
    else if 15 < byteAt b 1 || 3 < byteAt b 2 || byteAt b 3 / 8 == 3 then Res.err s stBadParam
    else
      let l := (List.range 8).filterMap (fun i =>
        let v := le b (4 + 4 * i) 4
        if bit v 31 then some (i, v % 1048576) else none)
      { st := s.updPrt p (fun x => { x with qos := {
          map := byteAt b 1, trust := byteAt b 2, tc := byteAt b 3 % 8, colour := byteAt b 3 / 8, policers := l } }) }) c s

def execQosPortSet (c : Cmd) (s : State) : Out := serve c cmdQosPortSet s

/-! ### Policers (R295-R305), buckets in 1/6,000,000 byte: a rate of r kb/s adds r of them each tick -/

abbrev bucketByte : Nat := 6000000

def State.polProf (s : State) (i : Nat) : PolProf := s.sched.polProfs.getD i {}
def State.policer (s : State) (i : Nat) : Policer := s.sched.policers.getD i {}
def State.setPolicer (s : State) (i : Nat) (x : Policer) : State := { s with sched.policers := s.sched.policers.set i x }

/-- R298, R301, R303: both buckets brought to `now` under the profile that is in force at that moment, after counts above its
depths are clipped. A changed profile acts here for the first time, over all the time since the last refill (DEDUCED). -/
def Policer.refill (x : Policer) (f : PolProf) (now : Nat) : Policer :=
  let c := f.cbs * bucketByte
  let e := f.ebs * bucketByte
  let bc := Nat.min c x.bc
  let be := Nat.min e x.be
  let dt := now - x.at_
  if f.mode == 0 then
    let t := bc + f.cir * dt
    { x with bc := Nat.min c t, be := Nat.min e (be + (t - c)), at_ := now }
  else { x with bc := Nat.min c (bc + f.cir * dt), be := Nat.min e (be + f.eir * dt), at_ := now }

/-- R298, R299: colours a packet of `b` bucket units by its pre-colour; the buckets it leaves. -/
def Policer.take (x : Policer) (f : PolProf) (b pre : Nat) : Nat × Policer :=
  let pre := if f.blind then 0 else pre
  if f.mode == 1 then
    if pre == 2 || x.be < b then (2, x)
    else if pre == 1 || x.bc < b then (1, { x with be := x.be - b })
    else (0, { x with be := x.be - b, bc := x.bc - b })
  else if pre == 0 && b ≤ x.bc then (0, { x with bc := x.bc - b })
  else if pre != 2 && b ≤ x.be then (1, { x with be := x.be - b })
  else (2, x)

/-- R297: the accounted length. -/
def accounted (len : Nat) (overhead : Int) (minLen : Nat) : Nat := Nat.max ((len : Int) + overhead).toNat minLen

/-- What policing decides of a packet: the state, its colour, or the code under which it is dropped. -/
structure Policed where
  st : State
  colour : Nat
  drop : Option Nat

/-- R296-R305, R337: applies policer `i` to a packet of `len` bytes. -/
def State.police (s : State) (i len pre : Nat) : Policed :=
  let x := s.policer i
  let f := s.polProf x.profile
  if !x.enabled then ⟨s, pre, none⟩
  else if x.lost then
    let t := s.setPolicer i { x with lost := false, bc := f.cbs * bucketByte, be := f.ebs * bucketByte, at_ := s.time.ticks }
    ⟨(t.bump 809 1 2).raise 0x0781 (d4 i), pre, some 0x43⟩
  else
    let r := (x.refill f s.time.ticks).take f (accounted len f.overhead f.minLen * bucketByte) pre
    let t := (s.setPolicer i r.2).bump 809 0 r.1
    let u := if x.countEn then t.pairAdd (3670016 + 3 * i + r.1) len else t
    if r.1 == 2 && f.redDrop then ⟨u.bump 809 1 0, r.1, some 0x41⟩
    else if r.1 == 1 && f.yellowDrop then ⟨u.bump 809 1 1, r.1, some 0x42⟩
    else ⟨u, r.1, none⟩

/-- POLICER_PROFILE_SET (R303, Table 08-1). No bucket changes before the next packet of its policer. -/
def policerProfileSetSpec : CmdSpec :=
  { opcode := 0x0708, long := fun b => 24 ≤ b.length, clean := fun b => flagsIn b 3 3 && rsv b 5 1 }

def cmdPolicerProfileSet (c : Cmd) (s : State) : Res :=
  gate policerProfileSetSpec (fun c s =>
    let b := c.payload
    let i := le b 0 2
    let f : PolProf := {
      mode := byteAt b 2, blind := bit (byteAt b 3) 0, yellowDrop := bit (byteAt b 3) 1, redDrop := bit (byteAt b 3) 2
      overhead := leS b 4 1, minLen := le b 6 2, cir := le b 8 4, eir := le b 12 4, cbs := le b 16 4, ebs := le b 20 4 }
    if 4095 < i || 2 < f.mode || f.overhead < -64 || 63 < f.overhead || 9728 < f.minLen || 1600000000 < f.cir ||
        (f.mode != 0 && 1600000000 < f.eir) || 16777215 < f.cbs || 16777215 < f.ebs || (f.mode == 1 && f.eir < f.cir) then
      Res.err s stBadParam
    else
      { st := { s with sched.polProfs := s.sched.polProfs.set i f } }) c s

def execPolicerProfileSet (c : Cmd) (s : State) : Out := serve c cmdPolicerProfileSet s

/-- One entry of a POLICER_SET (R304): with reset_full both buckets are full now, else they keep their counts. -/
def State.policerOp (s : State) (b : Bytes) : Nat × State :=
  let i := le b 0 4
  let k := le b 4 2
  let fl := byteAt b 6
  if 1048576 ≤ i || 4095 < k then (stBadParam, s)
  else
    let f := s.polProf k
    let x := { s.policer i with profile := k, enabled := bit fl 0, countEn := bit fl 1 }
    (stOk, s.setPolicer i (if bit fl 2 then
      { x with bc := f.cbs * bucketByte, be := f.ebs * bucketByte, at_ := s.time.ticks, lost := false } else x))

/-- R196: applies operations in order up to the first that fails: its status, and how many were applied. -/
def runEach (op : State → Bytes → Nat × State) : State → Nat → List Bytes → Nat × Nat × State
  | s, n, [] => (stOk, n, s)
  | s, n, b :: r =>
    let x := op s b
    if x.1 == stOk then runEach op x.2 (n + 1) r else (x.1, n, x.2)

/-- R196: the outcome of such operations as a completion reports it. -/
def eachRes (r : Nat × Nat × State) : Res :=
  { st := r.2.2, keep := true, applied := r.2.1
    status := if r.1 == stOk then stOk else if r.2.1 == 0 then r.1 else stPartial
    failIndex := if r.1 == stOk then 0xFFFFFFFF else r.2.1 }

/-- `n` pieces of `k` bytes from an offset. -/
def piecesAt (b : Bytes) (off k n : Nat) : List Bytes := (List.range n).map (fun i => slice b (off + k * i) k)

/-- POLICER_SET (R196, R304). -/
def policerSetSpec : CmdSpec :=
  { opcode := 0x0709, long := fun b => 4 + 8 * le b 0 2 ≤ b.length
    clean := fun b => rsv b 2 2 && (piecesAt b 4 8 (le b 0 2)).all (fun e => flagsIn e 6 3 && rsv e 7 1) }

def cmdPolicerSet (c : Cmd) (s : State) : Res :=
  gate policerSetSpec (fun c s =>
    let n := le c.payload 0 2
    if !inRange n 1 1024 then Res.err s stBadParam
    else eachRes (runEach State.policerOp s 0 (piecesAt c.payload 4 8 n))) c s

def execPolicerSet (c : Cmd) (s : State) : Out := serve c cmdPolicerSet s

/-- POLICER_STATUS_GET (R298): the buckets as a packet would find them now, in whole bytes; reading changes nothing. -/
def policerStatusGetSpec : CmdSpec :=
  { opcode := 0x070A, long := fun b => 4 ≤ b.length, size := fun _ => 12, reads := true }

def cmdPolicerStatusGet (c : Cmd) (s : State) : Res :=
  gate policerStatusGetSpec (fun c s =>
    let i := le c.payload 0 4
    if 1048576 ≤ i then Res.err s stNotFound
    else
      let old := s.policer i
      let x := old.refill (s.polProf old.profile) s.time.ticks
      { st := s
        result := toLe 2 x.profile ++ toLe 1 (b2n x.enabled + 2 * b2n x.countEn) ++ zeros 1 ++ toLe 4 (x.bc / bucketByte) ++
          toLe 4 (x.be / bucketByte) }) c s

def execPolicerStatusGet (c : Cmd) (s : State) : Out := serve c cmdPolicerStatusGet s

end Sys2Proof.Machine
end

