-- ==== Sys2Proof/Machine/Lookup.lean ====
section
/-! DEFINITION. The lookup pipeline (R161-R193, R222-R230 of 05 and 06, R140-R145 of 04): its eight stages for one packet, the
slow path, and the errors of lookup pipelines. -/
namespace Sys2Proof.Machine
open Sys2Proof

/-- How the lookup of a packet ends. -/
inductive Outcome where
  | drop (code : Nat)
  | slow (cls : Nat) (byHit : Bool)
  | forward (mcast : Bool) (dest : Nat) (encap : Option Nat)
deriving DecidableEq, Repr

/-- What the stages have found so far. -/
structure Look where
  st : State
  pkt : LkPkt
  /-- the forwarded length (R138) -/
  len : Nat
  iface : Nat := 0xFFFF
  obj : Iface := {}
  /-- the result word as the sources of R162 give it, and the stage-3 result -/
  result : Nat := 0
  fibRes : Nat := 0
  routed : Bool := false
  ttl : Nat := 255
  edit : EditWord := {}
  emA : Option Nat := none
  emB : Option Nat := none
  setTc : Option Nat := none
  setPolicer : Option Nat := none
  byHit : Bool := false
  /-- R187: the TTL that the label action decrements is used up -/
  labelTtl : Bool := false
  /-- FIB probes that hit (Table 18-2) -/
  fibHits : Nat := 0
  /-- R193: the objects used -/
  labels : List Nat := []
  ecmp : Option Nat := none
  hop : Option Nat := none
  out : Option Outcome := none

/-- Ends the lookup with a drop or a slow-path class. -/
def Look.dropAt (w : Look) (code : Nat) : Look := { w with out := some (.drop code) }
def Look.slowAt (w : Look) (cls : Nat) : Look := { w with out := some (.slow cls false) }

/-- A stage runs where no earlier one has ended the lookup. -/
def Look.stage (w : Look) (f : Look → Look) : Look := if w.out.isSome then w else f w

/-- R212: counts the packet in a pair where the object counts. -/
def Look.countIn (w : Look) (on : Bool) (pair : Nat) : Look :=
  if on then { w with st := w.st.pairAdd pair w.len } else w

/-! ### Stage 1: interface, router MAC and protocol (R180, R181, R184, R756) -/

/-- A probe of an exact-match table: none when a bucket is poisoned (R206), else the entry it finds. -/
def State.emProbe (s : State) (t key : Nat) : Option (Option EmEnt) :=
  if s.probeLost 1 0 t 0 (emTable t) (emKeyBytes t (s.emWide t) key) then none else some (s.emEnt t key)

/-- R181: the destination MAC lets the packet be routed or label-switched. -/
def State.routerMac (s : State) (mask dmac : Nat) (p : Parse) : Bool :=
  s.tbl.rmacs.any (fun e => bit mask e.1 && e.2 == dmac) ||
    (dmac / 16777216 == 0x01005E && (p.ipKind == 1 || p.mplsCount != 0)) ||
    (dmac / 4294967296 == 0x3333 && p.ipKind == 2 && p.mplsCount == 0)

def Look.stage1 (w : Look) : Look :=
  let p := w.pkt.parse
  let vid := if p.vlanCount == 0 then 0 else p.outerTag % 4096
  match w.st.emProbe 63 (p.port * 65536 + vid) with
  | none => w.dropAt 0x2D
  | some none => w.dropAt 0x28
  | some (some e) =>
    let i := e.result % 65536
    let o := w.st.tbl.ifaces.getD i {}
    let x := { w with iface := i, obj := o }.countIn o.countEn (2162688 + i)
    let on := if p.mplsCount != 0 then o.mpls else if p.ipKind == 1 then o.v4 else o.v6
    if p.resolved == 0 || (w.st.routerMac o.rmac (be w.pkt.frame 0 6) p && on) then x else x.dropAt 0x2C

/-! ### Stage 2: labels (R185-R188) -/

/-- The label stack entry at a position of the packet. -/
def LkPkt.label (k : LkPkt) (j : Nat) : Nat := be k.frame (14 + 4 * k.parse.vlanCount + 4 * j) 4

/-- R185-R187: the label lookups, from position `j` after `n` of them. pop_count counts the labels looked up that go; an
entropy label that R185 skips goes with the label before it. A stack that the parse cut short leaves no label to look up. A label
entry that punts gives its result word, which the later sources of R162 may replace. -/
def Look.lookLabels (w : Look) : Nat → Nat → Nat → Look
  | 0, _, _ => w.dropAt 0x2E
  | fuel + 1, j, n =>
    let k := w.pkt
    if k.parse.mplsCount ≤ j then w.dropAt 0x2E
    else
      let v := k.label j
      let lab := v / 4096
      if lab == 7 then w.lookLabels fuel (j + 2) n
      else if w.st.poisonedEntry 2 lab then w.dropAt 0x2D
      else
        let e := w.st.tbl.labels.getD lab {}
        let x := { w with labels := w.labels ++ [lab] }.countIn e.countEn (1048576 + lab)
        let outer := k.label 0 % 256
        let own := if e.pipe then v % 256 else outer
        let ew (op pops : Nat) : EditWord := { w.edit with op, ttlPipe := e.pipe, popCount := pops, newLabel := e.newLabel }
        match e.action with
        | 1 => { x with result := e.result, labelTtl := own ≤ 1, edit := ew 2 n }
        | 2 => { x with result := e.result, labelTtl := own ≤ 1, edit := { ew 3 (n + 1) with newLabel := 0 } }
        | 3 => if n == 2 || bit v 8 then x.dropAt 0x2E else x.lookLabels fuel (j + 1) (n + 1)
        | 4 =>
          { x with
            routed := true, obj := { x.obj with vrf := e.vrf }, ttl := if e.pipe then k.parse.ttl else outer
            edit := { ew 4 (n + 1) with newLabel := 0 } }
        | 5 => { x with result := e.result }
        | _ => x.dropAt 0x2A

/-! ### Stage 3: FIB or Ethernet layer (R172-R175, R183, R184) -/

/-- The outer IP destination. -/
def LkPkt.ipDest (k : LkPkt) : Nat :=
  if k.parse.ipKind == 1 then be k.frame (k.parse.l3Off + 16) 4 else be k.frame (k.parse.l3Off + 24) 16

/-- R183: a group address. -/
def LkPkt.ipGroup (k : LkPkt) : Bool :=
  if k.parse.ipKind == 1 then k.ipDest / 268435456 == 0xE else k.ipDest / 2 ^ 120 == 0xFF

def Look.stage3 (w : Look) (vrf : Nat) : Look :=
  let k := w.pkt
  if k.parse.resolved == 0 then
    match w.st.emProbe 62 (w.iface * 2 ^ 48 + be k.frame 0 6) with
    | none => w.dropAt 0x2D
    | some none => w.dropAt 0x29
    | some (some e) => { w with result := e.result, fibRes := e.result }
  else if !w.routed || k.parse.ipKind == 0 || k.ipGroup then w
  else
    let r := w.st.fibLookup vrf (if k.parse.ipKind == 1 then 4 else 6) k.ipDest true
    let x := { w with fibHits := r.hits }
    if r.lost then x.dropAt 0x2D else { x with result := r.best, fibRes := r.best }

/-! ### Keys (R225, R226) -/

/-- The value of a header slice: none when its anchor or one of its bytes is absent. -/
def LkPkt.slice (k : LkPkt) (anchor off n : Nat) : Nat :=
  let p := k.parse
  let a := [0, p.l3Off, p.l4Off, p.innerL3Off, p.innerL4Off].getD anchor 0
  if (anchor != 0 && a == 0) || Nat.min (p.frameLen - 4) 192 < a + off + n then 0 else be k.frame (a + off) n

/-- Table 06-2: the packet has an L4 source port, or the type and code of ICMP in its place (R148). -/
def Parse.hasPorts (p : Parse) : Bool := !p.has pfL4Absent && p.l4Proto != 47

/-- R148: ICMP and ICMPv6 have no L4 destination port. -/
def Parse.isIcmp (p : Parse) : Bool := p.l4Proto == 1 || p.l4Proto == 58

/-- The value of a field of Table 06-2 for the packet; 0 where it is absent. `vrf` is that of the interface object. -/
def Look.field (w : Look) (vrf : Nat) (g : KeySeg) : Nat :=
  let k := w.pkt
  let p := k.parse
  let v4 := p.ipKind == 1
  let ip (a4 a6 : Nat) : Nat :=
    if p.ipKind == 0 then 0 else if v4 then be k.frame (p.l3Off + a4) 4 else be k.frame (p.l3Off + a6) 16
  let hit (e : Option Nat) : Nat := match e with | some r => 16777216 + r | none => 0
  match g.code with
  | 0x01 => p.port
  | 0x02 => w.iface
  | 0x03 => vrf
  | 0x04 => p.flags % 16777216
  | 0x05 => 16 * p.resolved + p.mplsCount
  | 0x06 => p.etherType
  | 0x07 => p.outerTag
  | 0x08 => p.innerTag
  | 0x09 => be k.frame 0 6
  | 0x0A => be k.frame 6 6
  | 0x0B => if v4 then ip 12 8 else 0
  | 0x0C => if v4 then ip 16 24 else 0
  | 0x0D => ip 12 8
  | 0x0E => ip 16 24
  | 0x0F => p.l4Proto
  | 0x10 => p.tos
  | 0x11 => p.ttl
  | 0x12 => if p.hasPorts then be k.frame p.l4Off 2 else 0
  | 0x13 => if p.hasPorts && !p.isIcmp then be k.frame (p.l4Off + 2) 2 else 0
  | 0x14 => p.entropy % 1048576
  | 0x15 => w.fibRes
  | 0x16 => hit w.emA * 2 ^ 25 + hit w.emB
  | 0x17 => p.puntClass
  | 0x18 => k.slice g.anchor g.offset (g.width / 8)
  | _ => 0

/-- R225: the key of a profile at a width: segments from the most significant end, zeros below; cut to the width. -/
def Look.key (w : Look) (vrf : Nat) (prof : List KeySeg) (bits : Nat) : Nat :=
  let v := prof.foldl (fun a g => a * 2 ^ g.width + w.field vrf g % 2 ^ g.width) 0
  v * 2 ^ bits / 2 ^ keyWidth prof

/-! ### Stage 4: exact-match tables of the interface -/

/-- One lookup in a host-defined table: none when it is lost, else its entry. -/
def Look.emLook (w : Look) (vrf t : Nat) : Option (Option EmEnt) :=
  if 62 ≤ t then some none
  else
    let f := w.st.tbl.emCfg.getD t {}
    w.st.emProbe t (w.key vrf (w.st.keyProfile f.profile) (if f.wide then 256 else 128))

/-- R162, R183: a hit with override set replaces the result, table em_a first; a group packet has no other route. -/
def Look.stage4 (w : Look) (vrf : Nat) : Look :=
  match w.emLook vrf w.obj.emA, w.emLook vrf w.obj.emB with
  | some a, some b =>
    let overriding (e : Option EmEnt) : Option Nat := e.bind (fun x => if x.override then some x.result else none)
    let x := { w with emA := a.map (·.result), emB := b.map (·.result) }
    match (overriding a).or (overriding b) with
    | some r => { x with result := r }
    | none => if w.routed && w.pkt.parse.ipKind != 0 && w.pkt.ipGroup then x.dropAt 0x29 else x
  | _, _ => w.dropAt 0x2D

/-! ### Stage 5 and 6: associative search and merge (R222-R230, R249) -/

/-- What one slot finds: the chain and the entry it hits. -/
structure SlotHit where
  chain : Nat
  ent : TcamEnt

/-- A search that meets a lost entry of a fail-closed chain or a parity error, and one whose hit counts and is poisoned, drops
its packet under 0x2D (R245, R247, R249). -/
def Look.searchLost (w : Look) (c : Nat) (t : State) : Look := { w with st := t.bump 608 4 c }.dropAt 0x2D

/-- A search that hits entry `e`, with others behind it where `more` (R219, R230). -/
def Look.searchHit (w : Look) (c : Nat) (a : State) (e : TcamEnt) (more : Bool) : Look × Option SlotHit :=
  let n := b2n more
  ({ w with st := (((a.bump 608 1 c).count 608 2 c 0 n).perfCount 0 4 c 2).perfCount 0 4 c 3 n }.countIn
    (bit e.action 12) (tcamPair e.handle), some ⟨c, e⟩)

/-- R247: a hit whose entry's action is lost. -/
def Look.lostHit (w : Look) (h : Option SlotHit) : Look :=
  match h with
  | some x => if x.ent.poisoned && w.out.isNone then w.searchLost x.chain w.st else w
  | none => w

/-- One search: counts it, and ends the lookup on a lost entry, a fail-closed chain or a parity error. `parity` are the logical
tiles whose match path shows a parity error on this search. -/
def Look.search (w : Look) (vrf : Nat) (parity : List Nat) (slot : Option (Nat × Nat)) : Look × Option SlotHit :=
  match slot with
  | none => (w, none)
  | some (c, k) =>
    match w.st.chain? c with
    | none => (w, none)
    | some x =>
      let prof := w.st.keyProfile k
      let bad := x.tiles.filter parity.contains
      let a := (w.st.bump 608 0 c).perfCount 0 4 c 1
      if x.bits < keyWidth prof then (w, none)
      else if !bad.isEmpty then (w.searchLost c (bad.foldl (fun (t : State) l => t.tileError l) a), none)
      else if x.failClosed && x.lostCount != 0 then (w.searchLost c a, none)
      else match x.hits (w.key vrf prof x.bits) with
        | [] => ({ w with st := a }, none)
        | e :: r => w.searchHit c a e (!r.isEmpty)

/-- The two searches of a packet; both take place, and either may drop it (R222, R245, R249). A final hit of slot A makes that
of slot B count for nothing (R229). -/
def Look.searchPair (w : Look) (vrf : Nat) (parity : List Nat) : Look × Option SlotHit × Option SlotHit :=
  let p := w.pkt.parse
  let prof := w.st.tcam.profs.getD (w.st.tcam.map.getD (4 * p.port + p.resolved) 0) {}
  let a := w.search vrf parity prof.a
  let b := { a.1 with out := none }.search vrf parity prof.b
  let x := { b.1 with out := a.1.out.or b.1.out }.lostHit a.2
  if (a.2.map (fun h => actFinal h.ent.action)).getD false then (x, a.2, none) else (x.lostHit b.2, a.2, b.2)

/-- What the hit of one slot changes (R229): a punt or redirect replaces the result, set_tc and set_policer what they name. -/
def Look.act (w : Look) (h : Option SlotHit) : Look :=
  match h with
  | none => w
  | some h =>
    let a := h.ent.action
    let r := actResult a
    let x :=
      if actDisposition a == 2 then { w with result := 5 * 1048576 + r % 256, byHit := true }
      else if actDisposition a == 3 then { w with result := r, byHit := false }
      else w
    { x with
      setTc := if bit a 37 then some (Machine.field a 36 34) else x.setTc
      setPolicer := if bit a 33 then some (Machine.field a 32 13) else x.setPolicer }

/-- Stages 5 and 6: the searches and what their hits change (R222, R229). -/
def Look.stage5 (w : Look) (vrf : Nat) (parity : List Nat) : Look :=
  let x := w.searchPair vrf parity
  x.1.stage (fun w =>
    match (x.2.1.toList ++ x.2.2.toList).find? (fun h => actDisposition h.ent.action == 1) with
    | some h => { w with st := w.st.bump 608 3 h.chain }.dropAt 0x2B
    | none => (w.act x.2.1).act x.2.2)

/-! ### Stage 7 and 8: resolution, TTL and slow path (R140, R151, R157, R158, R175, R189-R192) -/

/-- R187, R192: where a packet goes, unless the TTL of the routed packet or of its label action is used up. -/
def Look.forwardTo (w : Look) (mcast : Bool) (dest : Nat) (encap : Option Nat) : Look :=
  if w.routed && w.ttl ≤ 1 then w.slowAt 0x0A
  else if w.labelTtl then w.slowAt 0x0D
  else { w with out := some (.forward mcast dest encap) }

/-- A next-hop (R189-R191). -/
def Look.nexthop (w : Look) (i : Nat) : Look :=
  if w.st.poisonedEntry 3 i then w.dropAt 0x2D
  else
    let n := w.st.nexthop i
    let x := { w with hop := some i }.countIn n.countEn i
    let encap := if n.encapValid then some n.encap else none
    match n.type with
    | 1 => x.forwardTo false n.dest encap
    | 2 =>
      match x.st.lagPort (x.st.parse.lags.getD n.dest {}) w.pkt.parse.hashB with
      | some sp => x.forwardTo false sp encap
      | none => { x with st := x.st.lagDead n.dest }.dropAt 0x23
    | 3 => x.forwardTo true n.dest encap
    | 4 => x.slowAt (if n.dest == 0 then 0x0C else n.dest)
    | 5 => x.dropAt 0x2B
    | _ => x.dropAt 0x2E

def Look.resolve (w : Look) : Look :=
  let v := w.result % 1048576
  let p := w.pkt.parse
  match w.result / 1048576 with
  | 0 => w.dropAt 0x29
  | 1 => w.nexthop v
  | 2 =>
    if w.st.poisonedEntry 4 v then w.dropAt 0x2D
    else match w.st.tbl.ecmps.get? v with
      | none => w.dropAt 0x2E
      | some g =>
        let x := { w with ecmp := some v }.countIn g.countEn (2097152 + v)
        let m := g.slots.getD (p.hashA % 256) 0
        if x.st.poisonedEntry 5 (g.base + m) then x.dropAt 0x2D
        else match g.members.get? m with
          | some n => x.nexthop n
          | none => x.dropAt 0x2E
  | 3 => w.slowAt (if p.has pfOptions then 6 else if p.has pfFrag then 7 else 0x0B)
  | 4 => w.dropAt 0x2B
  | 5 => { w with out := some (.slow (v % 256) w.byHit) }
  | 6 => w.forwardTo true v none
  | _ => w.dropAt 0x2E

/-- R161: the eight stages in order. An IP packet without labels is routed; one with labels only by pop and route. The
interface object's own VRF composes the keys, that of a pop and route the FIB lookup. -/
def State.lookup (s : State) (k : LkPkt) (parity : List Nat) : Look :=
  let p := k.parse
  let w0 : Look := { st := s.bump 519 0, pkt := k, len := p.frameLen - k.cut, edit := { ptp := p.has pfPtp } }
  let w1 := w0.stage1
  let vrf := w1.obj.vrf
  let w2 := w1.stage (fun w =>
    if p.mplsCount != 0 then w.lookLabels 12 0 0
    else if p.resolved == 0 then w
    else { w with routed := true, ttl := p.ttl, edit := { w.edit with op := 1 } })
  let w3 := w2.stage (fun w => w.stage3 w.obj.vrf)
  let w4 := w3.stage (fun w => w.stage4 vrf)
  let w5 := w4.stage (fun w => w.stage5 vrf parity)
  let w6 := w5.stage Look.resolve
  if p.puntClass != 0 then { w6 with out := some (.slow p.puntClass false) } else w6

/-! ### The slow path (R142-R145, R753) -/

/-- A packet of a slow-path class takes a token and goes to the class's punt channel. A frame whose tail turns out bad is not
delivered (R26, R61, R114). -/
def State.slowPath (s : State) (k : LkPkt) (iface cls : Nat) (byHit : Bool) : State :=
  let x := s.slowNow cls
  let p := k.parse
  let dropped (t : State) (code : Nat) : State := ((t.bump 412 6 (cls - 1)).bump 412 1 p.port (code - 0x18)).tsDropped p.port k.tsReq
  if x.rate == 0 then dropped s 0x21
  else if x.tokens < packetToken then
    (dropped { s with parse.classes := s.parse.classes.set cls x } 0x20).raiseLim 0x0381 cls (fun n => d4 cls ++ d4 n)
  else
    let a : State := { s with parse.classes := s.parse.classes.set cls { x with tokens := x.tokens - packetToken } }
    let b := if cls ≤ 9 then a.bump 412 5 p.port (cls - 1) else if cls ≤ 0x0D then a.bump 519 2 (cls - 0x0A) else a
    let c := b.tsDropped p.port k.tsReq
    if !c.puntOpen x.channel then c.bump 412 6 (cls - 1)
    else match k.tail with
      | .bad _ => c
      | _ => c.punt x.channel p.encode k.rxT32 iface cls byHit k.frame

/-! ### The commands -/

/-- The packet of a port that is first in the lookup pipelines, and the others (R159). -/
def firstOf (p : Nat) : List LkPkt → Option (LkPkt × List LkPkt)
  | [] => none
  | k :: r => if k.parse.port == p then some (k, r) else (firstOf p r).map (fun x => (x.1, k :: x.2))

/-- R193: the descriptor at the end of stage 8. -/
def Look.descriptor (w : Look) (k : LkPkt) (mcast : Bool) (dest : Nat) (encap : Option Nat) (tc colour : Nat) : Desc2 :=
  { pkt := k, flit := w.st.flit w.st.parse.flitSeq, nexthop := w.hop, ecmp := w.ecmp, labels := w.labels
    iface := some w.iface, mcast, dest, encap, edit := w.edit, tc, colour }

/-- A packet and its descriptor cross to the TM die (R13, R16). -/
def State.cross (s : State) (d : Desc2) : State :=
  { s with parse.d2dQ := s.parse.d2dQ ++ [d], parse.flitSeq := s.parse.flitSeq + 1 }.perfCount 0 8 d.flit.module 1

/-- The outcome of a lookup is a drop, the policer's among them. -/
def Look.drops (w : Look) : Bool := match w.out with | some (.drop _) => true | _ => false

/-- LOOKUP_RESULT (R140-R145, R161-R193, R222-R230, R292-R305): the oldest packet of the port ends its lookup: it is dropped,
goes to the slow path, or is policed and crosses to the TM die (R16), its excess cut (R138). -/
def execLookupResult (port : Nat) (parity : List Nat) (s : State) : Out :=
  if 96 ≤ port || parity.any (fun t => 64 ≤ t) then .fault .noSuchUnit
  else if !s.dataPlaneOn then .next s
  else match firstOf port s.parse.lookupQ with
    | none => .next s
    | some (k, r) =>
      let p := k.parse
      let w := { s with parse.lookupQ := r }.lookup k parity
      let pipes := pipesIn s.tbl.pipesOut
      let t := w.st.servedBy 3 pipes [(1, 1), (2, w.fibHits), (3, b2n w.drops)]
      match w.out with
      | some (.slow cls byHit) => done s ((t.rxCrossed k).slowPath k w.iface cls byHit)
      | some (.forward mcast dest encap) =>
        let q := t.classify p k.frame
        let tc := w.setTc.getD q.1
        match w.setPolicer.or ((t.prt p.port).qos.policers.get? tc) with
        | none => done s (t.cross (w.descriptor k mcast dest encap tc q.2))
        | some i =>
          let v := t.police i w.len q.2
          match v.drop with
          | some _ => done s ((v.st.rxCrossed k).tsDropped p.port k.tsReq)
          | none => done s (v.st.cross (w.descriptor k mcast dest encap tc v.colour))
      | some (.drop code) =>
        let u := if code == 0x23 then t.bump 412 1 p.port 11 else t.bump 519 1 (code - 0x28)
        done s ((u.rxCrossed k).tsDropped p.port k.tsReq)
      | none => .next s

/-- LOOKUP_PIPELINE_ERROR (R163): the packets that the pipeline holds, named by their places in the queue of parsed packets,
are dropped with code 0x2F; the pipeline is retired. -/
def execLookupPipelineError (pipeline : Nat) (held : List Nat) (s : State) : Out :=
  if 17 ≤ pipeline then .fault .noSuchUnit
  else if !s.aux.pllLocked then .next s
  else if s.tbl.pipesOut.contains pipeline || (pipeline == 16 && s.tbl.pipesOut.isEmpty) then .next s
  else
    let l := takeAt s.parse.lookupQ held
    let a := l.1.foldl (fun (x : State) k => ((x.rxCrossed k).bump 519 1 7).tsDropped k.parse.port k.tsReq)
      { s with parse.lookupQ := l.2 }
    let b := { a with tbl.pipesOut := a.tbl.pipesOut ++ [pipeline] }
    let d := b.record { kind := 6, die := 0, cause := 2, unit := pipeline, index := 16, hours := s.hours }
    done s ((d.raise 0x0484 (d4 pipeline ++ d4o (if s.tbl.pipesOut.isEmpty then some 16 else none))).pipelineCheck)

end Sys2Proof.Machine
end

