-- ==== Sys2Proof/Machine/Sched.lean ====
section
/-! DEFINITION. The egress hierarchy and the order of dispatch (R306-R330), site map (R308, R309), and sample sets
(R331-R336) of 08_scheduling.md. -/
namespace Sys2Proof.Machine
open Sys2Proof

/-! ### Nodes (Table 08-2) -/

/-- A node identifier and its parts. -/
def nodeId (level i : Nat) : Nat := level * 1073741824 + i
def nodeLevel (n : Nat) : Nat := n / 1073741824
def nodeIndex (n : Nat) : Nat := n % 524288

/-- Nodes of a level. -/
def levelCount (level : Nat) : Nat := [96, 8192, 32768, 262144].getD level 0

/-- The identifier names a node that exists. -/
def isNode (n : Nat) : Bool := n < 4294967296 && field n 29 19 == 0 && nodeIndex n < levelCount (nodeLevel n)

/-- A node; ports and queues are attached from reset on (R307). -/
def State.node (s : State) (n : Nat) : Node :=
  s.sched.nodes.getD n { attached := nodeLevel n == 0 || nodeLevel n == 3 }
def State.setNode (s : State) (n : Nat) (x : Node) : State := { s with sched.nodes := s.sched.nodes.set n x }
def State.lenProf (s : State) (i : Nat) : LenProf := s.sched.lens.getD i {}

/-- The parent of a node: for a queue its fixed site (R251), for sites and site groups the one they name. -/
def parentOf (n : Nat) (x : Node) : Nat :=
  if nodeLevel n == 3 then nodeId 2 (nodeIndex n / 8) else nodeId (nodeLevel n - 1) x.parent

/-- R320, R322: the node with its balance brought up to an instant. -/
def Node.settle (x : Node) (now : Nat) : Node :=
  if x.rate == 0xFFFFFFFF || x.rate == 0 then { x with balAt := now }
  else
    let gained := x.bal + (x.rate * (now - x.balAt) : Nat)
    { x with bal := min gained ((x.depth * bucketByte : Nat) : Int), balAt := now }

/-- R317: the node's own conditions, its children apart. -/
def Node.open_ (x : Node) (now : Nat) : Bool :=
  x.attached && x.rate != 0 && (x.rate == 0xFFFFFFFF || 0 ≤ (x.settle now).bal)

/-! ### Eligibility (R310-R316, R329) -/

/-- R267: the queue holds a head packet that no refill holds back. -/
def Queue.ready (x : Queue) : Bool :=
  !x.pkts.isEmpty && !(x.spilling && x.head.isEmpty && x.mid.any (fun g => g.refill && g.slot.isSome))

/-- R317: whether a node may be served now; its children's flags are up to date. -/
def State.nodeOk (s : State) (n : Nat) : Bool :=
  (s.node n).open_ s.time.ticks &&
    (if nodeLevel n == 3 then (s.queue (262144 + nodeIndex n)).ready
     else if nodeLevel n == 2 then (List.range 8).any (fun i => (s.node (nodeId 3 (8 * nodeIndex n + i))).elig)
     else s.sched.nodes.any (fun e =>
       nodeLevel e.1 == nodeLevel n + 1 && e.2.parent == nodeIndex n && e.2.attached && e.2.elig))

/-- R314, R315: brings the eligibility of the children of one parent up to date: a child that wakes takes
S = max(V, F); a set without an eligible child takes as V its largest finish tag. -/
def State.refreshKids (s : State) (parent : Nat) (kids : List Nat) : State :=
  let ok := kids.map (fun n => (n, s.nodeOk n))
  let p := s.node parent
  let stays (k : Nat) : Bool := ok.any (fun e => e.2 && (s.node e.1).elig && (s.node e.1).set == k)
  let v := (List.range 3).map (fun k => if stays k then p.v.getD k 0 else p.maxF.getD k 0)
  let changed := ok.filter (fun e => e.2 != (s.node e.1).elig)
  let t := if v == p.v then s else s.setNode parent { p with v := v }
  changed.foldl (fun (a : State) e =>
    let x := a.node e.1
    if e.2 then a.setNode e.1 { x with elig := true, sTag := tagMax (v.getD x.set 0) x.fTag }
    else a.setNode e.1 { x with elig := false }) t

/-- The nodes of a level whose eligibility may change, by parent; a parent whose last child has been detached is among them
(R315). -/
def State.kidsOf (s : State) (level : Nat) : List (Nat × List Nat) :=
  if level == 3 then
    let held := (s.buf.queues.filter (fun e => !isVoq e.1)).map (fun e => (e.1 - 262144) / 8)
    let known := (s.sched.nodes.filter (fun e => nodeLevel e.1 == 2)).map (fun e => nodeIndex e.1)
    let sites := (held ++ known).eraseDups
    sites.map (fun i => (nodeId 2 i, (List.range 8).map (fun j => nodeId 3 (8 * i + j))))
  else
    let ns := (s.sched.nodes.filter (fun e => nodeLevel e.1 == level && e.2.attached)).map (fun e => (e.1, parentOf e.1 e.2))
    let ps := (s.sched.nodes.filter (fun e => nodeLevel e.1 + 1 == level)).map Prod.fst
    ((ns.map Prod.snd ++ ps).eraseDups).map (fun (p : Nat) => (p, (ns.filter (fun (e : Nat × Nat) => e.2 == p)).map Prod.fst))

/-- R114, R115, R269: the head packet of a VOQ may begin to leave before its tail has arrived. -/
def State.mayStart (s : State) (p : QPkt) : Bool := p.tail == .here || (s.fab.early && !p.verify)

/-- R400: the protected stream of a packet, where its class is protected. -/
def State.streamOf (s : State) (p : QPkt) : Option Nat :=
  let x := s.fab.prot.getD p.tc {}
  if x.prot then some (x.base + p.hashA / 4096 % 8 % x.count) else none

/-- The planes that carry a packet toward a device: of a protected packet those that are usable and have completed R418
(R390); of another the plane of its hash while that is usable and restored, else the other one (R389, R421). -/
def State.planesFor (s : State) (dst : Nat) (p : QPkt) : List Nat :=
  let y := s.peer dst
  match s.streamOf p with
  | some _ => [0, 1].filter (fun k => (y.plane k).usable && (y.plane k).protecting)
  | none =>
    let k := p.hashA / 2048 % 2
    ([k, 1 - k].find? (fun i => (y.plane i).usable && (y.plane i).restored)).toList

/-- The link group of a packet (R152, R390). -/
def State.groupOf (s : State) (p : QPkt) : Nat := ((s.streamOf p).map (fun k => k % 8)).getD (p.hashA / 256 % 8)

/-- A VOQ's packet in hand (R398) uses a reassembly context that the head packet of `q` needs too: same destination and plane, and
the same protected stream, or the same traffic class and the same link group as R373 serves it (R391, R393). -/
def State.contextBusy (s : State) (q : Nat) (p : QPkt) : Bool :=
  let ks := s.planesFor (q / 1024) p
  s.fab.sending.any (fun e => e.1 / 1024 == q / 1024 &&
    (s.queue e.1).pkts.head?.any (fun h => s.streamOf h == s.streamOf p && ks.any (fun k => bit e.2 k &&
      ((s.streamOf p).isSome || (h.tc == p.tc && s.groupFor k (s.groupOf h) == s.groupFor k (s.groupOf p))))))

/-- R329, R386, R414: the VOQ may be served: its head packet is there, its credit above 0, a plane usable. -/
def State.voqOk (s : State) (q : Nat) : Bool :=
  let x := s.queue q
  0 < x.credit && x.ready && (s.fab.sending.get? q).isNone &&
    ((x.pkts.head?).map (fun p =>
      s.mayStart p && !(s.planesFor (q / 1024) p).isEmpty && !s.contextBusy q p)).getD false

def State.classNode (s : State) (tc : Nat) : ClassNode := s.sched.classes.getD tc {}
def State.setClass (s : State) (tc : Nat) (x : ClassNode) : State :=
  { s with sched.classes := s.sched.classes.set tc x }

/-- R314, R315 for the VOQs of a traffic class. -/
def State.refreshClass (s : State) (tc : Nat) : State :=
  let qs := (s.buf.queues.filter (fun e => isVoq e.1 && e.1 % 8 == tc)).map (fun e => (e.1, s.voqOk e.1))
  let c := s.classNode tc
  let v := if qs.any (fun e => e.2 && (s.queue e.1).elig) then c.v else c.maxF
  let t := if v == c.v then s else s.setClass tc { c with v := v }
  (qs.filter (fun e => e.2 != (s.queue e.1).elig)).foldl (fun (a : State) e =>
    a.updQueue e.1 (fun x => if e.2 then { x with elig := true, sTag := tagMax v x.fTag } else { x with elig := false })) t

/-- R314, R315 for the traffic classes under the root of dispatch (R327). -/
def State.refreshRoot (s : State) : State :=
  let ok := (List.range 8).map (fun tc => (tc, s.buf.queues.any (fun e => isVoq e.1 && e.1 % 8 == tc && e.2.elig)))
  let stays (k : Nat) : Bool := ok.any (fun e => e.2 && (s.classNode e.1).elig && (s.classNode e.1).set == k)
  let v := (List.range 3).map (fun k => if stays k then s.sched.rootV.getD k 0 else s.sched.rootMaxF.getD k 0)
  (ok.filter (fun e => e.2 != (s.classNode e.1).elig)).foldl (fun (a : State) e =>
    let x := a.classNode e.1
    if e.2 then a.setClass e.1 { x with elig := true, sTag := tagMax (v.getD x.set 0) x.fTag }
    else a.setClass e.1 { x with elig := false }) { s with sched.rootV := v }

/-- Brings the eligibility of every node of both schedulers up to date, children before parents. -/
def State.refreshTm (s : State) : State :=
  let lv (a : State) (level : Nat) : State := (a.kidsOf level).foldl (fun (b : State) e => b.refreshKids e.1 e.2) a
  let t := lv (lv (lv s 3) 2) 1
  ((List.range 8).foldl (fun (a : State) tc => a.refreshClass tc) t).refreshRoot

/-- R310, R311: of eligible children (number, set, start tag) in ascending order of number, the first set that has one and in
it the smallest start tag. -/
def pickChild (l : List (Nat × Nat × Nat)) : Option Nat :=
  let best (k : Nat) : Option (Nat × Nat × Nat) :=
    (l.filter (fun e => e.2.1 == k)).foldl (fun (b : Option (Nat × Nat × Nat)) e => match b with
      | none => some e
      | some m => if tagLt e.2.2 m.2.2 then some e else some m) none
  (((best 0).or (best 1)).or (best 2)).map Prod.fst

/-- R312: the finish tag of a child selected at S with accounted length A and weight w. -/
def finishTag (sTag a w : Nat) : Nat := (sTag + a * (1048576 / w)) % 1099511627776

/-! ### Egress selection (R310-R326) -/

/-- The eligible child that a parent selects. -/
def State.pickKid (s : State) (kids : List Nat) : Option Nat :=
  pickChild ((kids.filter (fun n => (s.node n).elig)).map (fun n => (n, (s.node n).set, (s.node n).sTag)))

/-- The path that a port selects: site group, site, queue node. -/
def State.pickPath (s : State) (port : Nat) : Option (Nat × Nat × Nat) :=
  let kids (level p : Nat) : List Nat :=
    (s.sched.nodes.filter (fun e => nodeLevel e.1 == level && e.2.attached && e.2.parent == p)).map Prod.fst
  (s.pickKid (kids 1 port)).bind fun g =>
    (s.pickKid (kids 2 (nodeIndex g))).bind fun t =>
      (s.pickKid ((List.range 8).map (fun j => nodeId 3 (8 * nodeIndex t + j)))).map fun q => (g, t, q)

/-- R312, R313: the tags of a child that its parent selects. -/
def State.chargeTags (s : State) (parent child len : Nat) : State :=
  let x := s.node child
  let p := s.node parent
  let l := s.lenProf x.lp
  let f := finishTag x.sTag (accounted len l.overhead l.minLen) x.weight
  (s.setNode parent { p with v := setAt p.v x.set x.sTag, maxF := setAt p.maxF x.set (tagMax (p.maxF.getD x.set 0) f) }).setNode
    child { x with sTag := f, fTag := f }

/-- R319, R320: the bucket of a shaped node; true when the charge leaves it in debt. -/
def State.chargeBucket (s : State) (n len : Nat) : Bool × State :=
  let x := (s.node n).settle s.time.ticks
  let l := s.lenProf x.lp
  if x.rate == 0xFFFFFFFF then (false, s)
  else
    let b := x.bal - ((accounted len l.overhead l.minLen * bucketByte : Nat) : Int)
    (decide (b < 0), s.setNode n { x with bal := b })

/-- Bytes that the transmit buffer of a port holds or has been promised, FCS included (R318). -/
def Port.txHeld (x : Port) : Nat :=
  (x.txBuf.map (fun f => f.frame.length + 4)).sum + (x.feQ.map (fun p => p.frameLen)).sum + x.sending.getD 0

/-- R318: the transmit buffer of a port can take the whole of a packet. -/
def State.txRoom (s : State) (port : Nat) (p : QPkt) : Bool :=
  (s.prt port).txHeld + p.frameLen ≤ 32768 * modeLanes (s.grp (port / 16)).mode

/-- R317, R318: the port node is eligible: besides its own conditions, it is up and its transmit buffer can take the head frame
that it would select. -/
def State.portOk (s : State) (port : Nat) : Bool :=
  (s.prt port).up && s.nodeOk (nodeId 0 port) &&
    (s.pickPath port).any (fun x => (s.queue (262144 + nodeIndex x.2.2)).pkts.head?.any (s.txRoom port))

/-- R332, R333, R704: a packet leaves its queue: its delay enters the sample sets and histograms. -/
def State.noteRelease (s : State) (q : Nat) (p : QPkt) : State :=
  let d := (s.t32.diff p.entry).toNat
  (s.observe q (fun z => { z with released := z.released + 1, maxDelay := Nat.max z.maxDelay d })).histAdd 0 q d

/-- Selects for a port (R282, R288, R310-R326): expired and lost packets at the head are removed and charged to nothing. A
packet of which HBM still holds cells gives up those on die and is selected again, and charged, once the rest is there
(DEDUCED from R258 and R267). -/
def State.selectEgress (port : Nat) : Nat → State → State
  | 0, s => s
  | fuel + 1, s =>
    match s.pickPath port with
    | none => s
    | some (g, t, qn) =>
      let q := 262144 + nodeIndex qn
      match (s.queue q).pkts with
      | [] => s
      | p :: _ =>
        if s.expired q p then State.selectEgress port fuel (s.ageHead q).refreshTm
        else if p.lost then State.selectEgress port fuel (s.dropHead q 0x3A).refreshTm
        else if !s.txRoom port p then s
        else
          let h := State.gather ((s.queue q).mid.length + 1) s q
          if !h.1 then State.selectEgress port fuel h.2.refreshTm
          else
            let a := ((h.2.chargeTags (nodeId 0 port) g p.frameLen).chargeTags g t p.frameLen).chargeTags t qn p.frameLen
            let b := [nodeId 0 port, g, t, qn].foldl (fun (x : Bool × State) n =>
              let y := x.2.chargeBucket n p.frameLen; (x.1 || y.1, y.2)) (false, a)
            let c := (b.2.noteRelease q p).popHead q
            let d := ((c.bump 809 2).count 809 4 0 0 (b2n b.1)).perfCount 1 0x24 port 1
            let e := if b.1 then d.perfCount 1 0x24 port 2 else d
            let f := { e with port.flitSeq := e.port.flitSeq + 1 }
            (f.updPrt port (fun x => { x with feQ := x.feQ ++ [{ p with flit := some (e.flit e.port.flitSeq) }] })).refreshTm

/-- EGRESS_SELECTION: the packet selected crosses to the FE die in the same step and frees its cells (R256). -/
def execEgressSelection (port : Nat) (s : State) : Out :=
  if 96 ≤ port then .fault .noSuchUnit
  else if !(s.portExists port && (s.prt port).up && s.dataPlaneOn) then .next s
  else
    let t := s.refreshTm
    done s (if (t.node (nodeId 0 port)).open_ t.time.ticks then
      t.selectEgress port ((t.buf.queues.map (fun e => e.2.pkts.length + 1)).sum + 1) else t)

/-- SHAPER_PAYOFF (R314): once its balance is 0 or more, a node takes part again with a fresh start tag. -/
def execShaperPayoff (node : Nat) (s : State) : Out :=
  if !isNode node then .fault .noSuchUnit else if !s.aux.pllLocked then .next s else .next s.refreshTm

/-! ### The commands on nodes, profiles and the site map -/

/-- One entry of SCHED_NODE_SET (Table 08-7, R306, R307, R314, R322-R325). A child that changes its set joins it as one newly
attached. -/
def State.nodeOp (s : State) (b : Bytes) : Nat × State :=
  let n := le b 0 4
  let level := nodeLevel n
  let parent := le b 4 4
  let set := byteAt b 8
  let w := le b 10 2
  let rate := le b 12 4
  let depth := le b 16 4
  let att := bit (byteAt b 20) 0
  let mid := level == 1 || level == 2
  if !isNode n then (stNotFound, s)
  else if (level != 0 && (2 < set || !inRange w 1 4096)) || 63 < byteAt b 9 || (2000000000 < rate && rate != 0xFFFFFFFF) ||
      !inRange depth 64 16777215 || (mid && att && levelCount (level - 1) ≤ parent) then (stBadParam, s)
  else if level == 1 && !att && s.sched.nodes.any (fun e =>
      nodeLevel e.1 == 2 && e.2.attached && e.2.parent == nodeIndex n) then (stRefused, s)
  else
    let t := s.refreshTm
    let x := (t.node n).settle t.time.ticks
    let bal := if depth < x.depth then min x.bal ((depth * bucketByte : Nat) : Int) else x.bal
    let y : Node := { x with
      attached := att, set := if level == 0 then x.set else set, lp := byteAt b 9, weight := if level == 0 then x.weight else w
      rate, depth, bal, parent := if mid && att then parent else x.parent, elig := x.elig && att }
    let joins := level != 0 && att && (!x.attached || y.parent != x.parent || y.set != x.set)
    let u := t.setNode n y
    let v := (u.node (parentOf n y)).v.getD y.set 0
    (stOk, (if joins then u.setNode n { y with sTag := v, elig := u.nodeOk n } else u).refreshTm)

def schedNodeSetSpec : CmdSpec :=
  { opcode := 0x0701, long := fun b => 4 + 24 * le b 0 2 ≤ b.length
    clean := fun b => rsv b 2 2 && (piecesAt b 4 24 (le b 0 2)).all (fun e => flagsIn e 20 1 && rsv e 21 3) }

def cmdSchedNodeSet (c : Cmd) (s : State) : Res :=
  gate schedNodeSetSpec (fun c s =>
    let n := le c.payload 0 2
    if !inRange n 1 256 then Res.err s stBadParam
    else eachRes (runEach State.nodeOp s 0 (piecesAt c.payload 4 24 n))) c s

def execSchedNodeSet (c : Cmd) (s : State) : Out := serve c cmdSchedNodeSet s

/-- SCHED_NODE_GET: the balance in whole bytes, rounded down. -/
def schedNodeGetSpec : CmdSpec := { opcode := 0x0702, long := fun b => 4 ≤ b.length, size := fun _ => 45, reads := true }

def cmdSchedNodeGet (c : Cmd) (s : State) : Res :=
  gate schedNodeGetSpec (fun c s =>
    let n := le c.payload 0 4
    if !isNode n then Res.err s stNotFound
    else
      let t := s.refreshTm
      let x := (t.node n).settle t.time.ticks
      let parent := if nodeLevel n == 3 then nodeIndex n / 8 else x.parent
      let elig := if nodeLevel n == 0 then t.portOk n else x.elig
      { st := t
        result := toLe 4 n ++ toLe 4 parent ++ toLe 1 x.set ++ toLe 1 x.lp ++ toLe 2 x.weight ++ toLe 4 x.rate ++
          toLe 4 x.depth ++ toLe 1 (b2n x.attached) ++ zeros 3 ++ toLeS 4 (x.bal / 6000000) ++ toLe 8 x.sTag ++ toLe 8 x.fTag ++
          toLe 1 (b2n elig) }) c s

def execSchedNodeGet (c : Cmd) (s : State) : Out := serve c cmdSchedNodeGet s

/-- LENGTH_PROFILE_SET. -/
def lengthProfileSetSpec : CmdSpec := { opcode := 0x0703, long := fun b => 4 ≤ b.length }

def cmdLengthProfileSet (c : Cmd) (s : State) : Res :=
  gate lengthProfileSetSpec (fun c s =>
    let b := c.payload
    let o := leS b 1 1
    if 63 < byteAt b 0 || o < -64 || 63 < o || 9728 < le b 2 2 then Res.err s stBadParam
    else { st := { s with sched.lens := s.sched.lens.set (byteAt b 0) { overhead := o, minLen := le b 2 2 } } }) c s

def execLengthProfileSet (c : Cmd) (s : State) : Out := serve c cmdLengthProfileSet s

/-- SITE_MAP_SET (R200, R308). -/
def siteMapSetSpec : CmdSpec :=
  { opcode := 0x0704, long := fun b => 12 ≤ b.length, clean := fun b => rsv b 1 3 && rsv b 11 1 }

def cmdSiteMapSet (c : Cmd) (s : State) : Res :=
  gate siteMapSetSpec (fun c s =>
    let b := c.payload
    let i := le b 4 4
    let site := le b 8 2
    let on := byteAt b 10 == 1
    if 1 < byteAt b 0 || 32768 ≤ site || 1 < byteAt b 10 then Res.err s stBadParam
    else if byteAt b 0 == 0 then
      if !s.portExists i then Res.err s stNotFound
      else { st := s.updPrt i (fun x => { x with defaultSite := if on then some site else none }) }
    else if 262144 ≤ i || (on && s.retiring 2 i) then Res.err s stNotFound
    else { st := { s with sched.siteMap := if on then s.sched.siteMap.set i site else s.sched.siteMap.del i } }) c s

def execSiteMapSet (c : Cmd) (s : State) : Out := serve c cmdSiteMapSet s

/-- DISPATCH_PROFILE_SET (R328). A class that changes its set joins it with S = V. -/
def dispatchProfileSetSpec : CmdSpec :=
  { opcode := 0x0705, long := fun b => 32 ≤ b.length, clean := fun b => (List.range 8).all (fun i => rsv b (4 * i + 1) 1) }

def cmdDispatchProfileSet (c : Cmd) (s : State) : Res :=
  gate dispatchProfileSetSpec (fun c s =>
    let b := c.payload
    if (List.range 8).any (fun i => 2 < byteAt b (4 * i) || !inRange (le b (4 * i + 2) 2) 1 4096) then Res.err s stBadParam
    else
      { st := ((List.range 8).foldl (fun (a : State) i =>
          let x := a.classNode i
          let k := byteAt b (4 * i)
          a.setClass i { x with
            set := k, weight := le b (4 * i + 2) 2
            sTag := if k == x.set then x.sTag else a.sched.rootV.getD k 0 }) s.refreshTm).refreshTm }) c s

def execDispatchProfileSet (c : Cmd) (s : State) : Out := serve c cmdDispatchProfileSet s

/-! ### Sample sets (R331-R336) -/

/-- SAMPLE_SET_CONFIG (R331, R335). Every field is checked of a set that is switched off too: none is marked as ignored (R749). -/
def sampleSetConfigSpec : CmdSpec := { opcode := 0x070B, long := fun b => 20 ≤ b.length, clean := fun b => rsv b 2 2 }

/-- Adds a count over an interval in microseconds to a fraction. -/
def addRate (f : Nat × Nat) (count us : Nat) : Nat × Nat := (f.1 * us + count * f.2, f.2 * us)

/-- R335: the samples per microsecond that the enabled sets produce, but for one set, as a fraction. -/
def State.sampleRate (s : State) (skip : Nat) : Nat × Nat :=
  (s.sched.samples.filter (fun e => e.1 != skip && e.2.enable)).foldl (fun f e => addRate f e.2.count e.2.intervalUs) (0, 1)

def cmdSampleSetConfig (c : Cmd) (s : State) : Res :=
  gate sampleSetConfigSpec (fun c s =>
    let b := c.payload
    let k := byteAt b 0
    let first := le b 4 4
    let n := le b 8 4
    let i := le b 12 4
    let start : T32 := BitVec.ofNat 32 (le b 16 4)
    let f := addRate (s.sampleRate k) n i
    if 15 < k || 1 < byteAt b 1 || !inRange n 1 524288 || 524288 < first + n || !inRange i 10 1000000 ||
        !T32.validCommit s.t32 start then Res.err s stBadParam
    else if byteAt b 1 == 0 then
      { st := { s with sched.samples := s.sched.samples.upd k {} (fun x => { x with enable := false, stats := [], ended := none }) } }
    else if 50 * f.2 < f.1 then Res.err s stNoResource
    else { st := { s with sched.samples := s.sched.samples.set k { enable := true, first, count := n, intervalUs := i, start } } })
    c s

def execSampleSetConfig (c : Cmd) (s : State) : Out := serve c cmdSampleSetConfig s

/-- Table 08-4. -/
def sampleBody (k : Nat) (w : EndedWindow) (q : Nat) : Bytes :=
  let y := w.rows.getD q {}
  toLe 4 q ++ toLe 4 w.start.toNat ++ toLe 4 (Nat.max y.stat.maxLen y.len) ++ toLe 4 y.len ++
    toLe 4 (min 4294967295 y.stat.maxDelay) ++ toLe 4 y.stat.released ++ toLe 4 y.stat.dropped ++ toLe 1 k ++
    toLe 1 (b2n y.spilling + 2 * b2n w.skipped) ++ zeros 2

/-- SAMPLE_WINDOW_END (R331-R336): writes the samples of the window that has ended, one per queue. A record that a full channel
loses is not counted as written. -/
def execSampleWindowEnd (k : Nat) (s : State) : Out :=
  if 16 ≤ k then .fault .noSuchUnit
  else if !s.aux.pllLocked then .next s
  else
    let x := s.sched.samples.getD k {}
    match x.ended with
    | none => .next s
    | some w =>
      let a := ((List.range x.count).map (fun i => x.first + i)).foldl (fun (a : State) q =>
        let r := a.telPut { type := 1, t32 := s.t32, body := sampleBody k w q }
        r.2.count 809 5 0 0 (b2n r.1)) s
      done s { a with sched.samples := a.sched.samples.set k { x with ended := none } }

/-- SCHED_COUNTERS_GET (Table 08-9). -/
def schedDims : List (Nat × Nat) := [(3, 1), (4, 1), (1, 1), (1, 1), (1, 1), (1, 1), (1, 1), (1, 1)]

def schedCountersGetSpec : CmdSpec := { opcode := 0x070C, size := fun _ => snapSize schedDims, reads := true }

def cmdSchedCountersGet (c : Cmd) (s : State) : Res :=
  gate schedCountersGetSpec (fun _ s => { st := s, result := s.snap 809 schedDims }) c s

def execSchedCountersGet (c : Cmd) (s : State) : Out := serve c cmdSchedCountersGet s

/-! ### Placing a packet in an egress queue (R308, R309) -/

/-- The site of a packet, where it is attached through its site group to the port; the site found, attached or not. -/
def State.siteFor (s : State) (port : Nat) (encap : Option Nat) : Option Nat :=
  ((encap.bind (fun i => s.sched.siteMap.get? i))).or (s.prt port).defaultSite

def State.siteOnPort (s : State) (site port : Nat) : Bool :=
  let t := s.node (nodeId 2 site)
  let g := s.node (nodeId 1 t.parent)
  t.attached && g.attached && g.parent == port

/-- The egress queue of a packet, or the drop with code 0x44 and event 0x0783. -/
def State.egressQueue (s : State) (port tc : Nat) (encap : Option Nat) : Option Nat × State :=
  let drop (t : State) (site : Option Nat) : State :=
    (t.bump 809 1 3).raiseLim 0x0783 0 (fun _ => d4 port ++ d4o site)
  match s.siteFor port encap with
  | none => (none, drop s none)
  | some site => if s.siteOnPort site port then (some (262144 + 8 * site + tc), s) else (none, drop s (some site))

end Sys2Proof.Machine
end

