-- ==== Sys2Proof/Machine/Queues.lean ====
section
/-! DEFINITION. Queues and their settings (class 0x06 of 07_packet_buffer.md), admission at the TM die with the device copies of
multicast (R268-R274, R426-R428), segments (R263-R267), aging and the audit, and the credit requests of VOQs (R380, R387). -/
namespace Sys2Proof.Machine
open Sys2Proof

/-! ### VOQs becoming non-empty or empty (R380, R387) -/

/-- R380: a credit request of a VOQ is pending. -/
def State.creditReq (s : State) (q : Nat) (active : Bool) : State :=
  if (s.fab.reqs.reverse.find? (fun e => e.1 == q)) == some (q, active) then s
  else { s with fab.reqs := s.fab.reqs ++ [(q, active)] }

/-- R387: a VOQ that became empty keeps at most credit_keep_units of positive balance; the rest expires at once. -/
def State.keepCredit (s : State) (q : Nat) : State :=
  let x := s.queue q
  let keep : Int := (s.fab.keepUnits * 4096 : Nat)
  (s.setQueue q { x with credit := min x.credit keep, keepAt := some s.time.ticks }).count 1013 11 0 0 (x.credit - keep).toNat

/-- R380, R387: what follows from a change of a VOQ since the state `s0`: requests and kept credit. -/
def State.voqEdge (s s0 : State) (q : Nat) : State :=
  let was := (s0.queue q).pkts.isEmpty
  let now := (s.queue q).pkts.isEmpty
  if !isVoq q || was == now then s
  else if now then (s.creditReq q false).keepCredit q
  else (s.creditReq q true).updQueue q (fun x => { x with keepAt := none, reqAt := s.time.ticks })

/-! ### Admission into queues that may share the packet's cells (R360-R362, R427) -/

/-- The lowest free shared-packet record. -/
def State.freeShared (s : State) : Nat := ((List.range (s.buf.shared.length + 1)).find? (fun k => (s.buf.shared.get? k).isNone)).getD 0

/-- Marks the packet `pid` of a queue as shared. -/
def State.markShared (s : State) (q pid k : Nat) : State :=
  s.updQueue q (fun x => { x with pkts := x.pkts.map (fun p => if p.pid == pid then { p with shared := some k } else p) })

/-- The result of offering a packet to one more queue: the owners of the current cell chain, its packet number and its cells, and
whether the packet was admitted. -/
structure Offer where
  st : State
  chain : List Nat := []
  pid : Nat := 0
  cells : List Nat := []
  ok : Bool := false

/-- R360 copies: no chain yet, the owner set full, sharing off, or no record free. -/
def Offer.copies (a : Offer) : Bool :=
  a.chain.isEmpty || 8 ≤ a.chain.length || !a.st.buf.shareOn || (a.chain.length == 1 && 65536 ≤ a.st.buf.shared.length)

/-- R360, R361: offers a packet to a queue. An owner of the current chain holds it already (EXISTS of R352); else the queue joins
the chain where that has room for one more owner, or takes a copy in a new chain. -/
def Offer.next (a : Offer) (q : Nat) (p : QPkt) : Offer :=
  if a.chain.contains q then { a with ok := false }
  else
    let n := p.cells + p.extra
    let v := a.st.admitCheck q n (if a.copies then n else 0) p
    let p := { p with ce := p.ce || v.ce, shared := none }
    match v.code with
    | some c => { a with st := v.st.refuse q c p, ok := false }
    | none =>
      if a.copies then
        let pid := if p.tail == .here then v.st.buf.pidSeq else p.pid
        let r := ({ v.st with buf.pidSeq := v.st.buf.pidSeq + 1 }).enqueueNew q { p with pid }
        { st := r.2.count 908 14 0 0 (b2n (!a.chain.isEmpty)), chain := [q], pid, cells := r.1, ok := true }
      else
        let h := a.chain.headD 0
        let old := (((v.st.queue h).pkts.find? (fun z => z.pid == a.pid)).bind (fun z => z.shared))
        let k := old.getD v.st.freeShared
        let t := if old.isSome then v.st else v.st.markShared h a.pid k
        let u : State := { t with buf.shared := t.buf.shared.set k { owners := a.chain ++ [q], cells := a.cells } }
        { a with
          st := ((u.holdCells a.cells).enqueue q a.cells { p with pid := a.pid, shared := some k }).bump 908 13
          chain := a.chain ++ [q], ok := true }

/-- R415: drops with code 0x4F a packet for an FDI that is no peer. -/
def State.dropNoPeer (s : State) (p : QPkt) : State := (s.bump 1013 2 7).tsDropped p.port p.tsReq

/-- R427, R428: the device copies of a multicast packet, one to each FDI of the map that is a peer. The first carries its
timestamp request. -/
def State.copies (s : State) (p : QPkt) (fdis : List Nat) : State :=
  ((numbered 0 fdis).foldl (fun (a : Offer) e =>
    let f := e.2
    let p := if e.1 == 0 then p else { p with tsReq := none }
    if !a.st.isPeer f then { a with st := a.st.dropNoPeer p }
    else
      let q := (f * 128 + 127) * 8 + p.tc
      let o := a.next q p
      let t := if o.ok then o.st.bump 1113 3 else o.st
      { o with st := t.voqEdge a.st q }) { st := s }).st

/-- Drops a multicast packet under code 0x5B or 0x5C (R428, R432, R453). -/
def State.dropMcast (s : State) (code port : Nat) (tsReq : Option Nat) : State :=
  (s.bump 1113 1 (code - 0x58)).tsDropped port tsReq

/-- R268: admission of a packet at its ingress TM die, unicast or multicast. -/
def State.admitIngress (s : State) (p : QPkt) : State :=
  let p := { p with pid := s.buf.pidSeq, entry := s.t32 }
  let s := { s with buf.pidSeq := s.buf.pidSeq + 1 }
  if p.mcast then
    if s.edit.poison.contains (2, p.dest) then s.dropMcast 0x5C p.port p.tsReq
    else match s.mcGroup? p.dest with
      | none => s.dropMcast 0x5B p.port p.tsReq
      | some g =>
        if g.map == 0 then s.dropMcast 0x5B p.port p.tsReq else (s.copies p (bitmapOf g.map 32)).refreshTm
  else if !(p.dest < 32768 && s.isPeer (p.dest / 128)) then s.dropNoPeer p
  else
    let q := p.dest * 8 + p.tc
    ((s.takeIn q p).voqEdge s q).refreshTm

/-- The packet of a port that is first among those crossing to the TM die, and the others (R16). -/
def firstDesc (p : Nat) : List Desc2 → Option (Desc2 × List Desc2)
  | [] => none
  | k :: r => if k.pkt.parse.port == p then some (k, r) else (firstDesc p r).map (fun x => (x.1, k :: x.2))

/-- The cell-store packet of a descriptor: its excess cut (R138), charged for its port's maximum frame while its tail has not
arrived (R269). -/
def State.packetOf (s : State) (d : Desc2) : QPkt :=
  let k := d.pkt
  let len := k.parse.frameLen - k.cut
  let n := cellsFor len
  let secured := k.parse.has pfSecured
  { pid := 0, entry := s.t32, frameLen := len, tc := d.tc, colour := d.colour
    ecn := if k.parse.ipKind == 0 then 0 else k.parse.tos % 4, mcast := d.mcast, dest := d.dest, encap := d.encap
    rxT32 := k.rxT32, edit := d.edit, hashA := k.parse.hashA, port := k.parse.port, frame := k.frame.take (len - 4), cells := n
    extra := if k.tail == .here then 0 else cellsFor (s.prt k.parse.port).cfg.maxFrame - n, tail := k.tail, tsReq := k.tsReq
    verify := k.tail != .here && secured && (s.secy k.parse.port).verify, early := k.tail != .here }

/-- HEADER_CELL_ADMISSION (R268-R278, R415, R426-R428): the oldest packet of the port that crosses to the TM die. -/
def execHeaderCellAdmission (port : Nat) (s : State) : Out :=
  if 96 ≤ port then .fault .noSuchUnit
  else if !s.dataPlaneOn then .next s
  else match firstDesc port s.parse.d2dQ with
    | none => .next s
    | some (d, r) => done s (State.admitIngress ({ s with parse.d2dQ := r }.rxCrossed d.pkt) (s.packetOf d))

/-! ### Segments (R258-R267) -/

/-- The stack of a pseudo-channel. -/
def stackOf (pc : Nat) : Nat := pc / 32

/-- The first segment of a middle that waits in the backlog takes its slot. -/
def fillSlot (i : Nat) : List Seg → List Seg
  | [] => []
  | g :: r =>
    if g.slot.isNone && !g.refill then { g with slot := some i, cells := g.cells.map (fun c => { c with cell := none }) } :: r
    else g :: fillSlot i r

/-- The packets of a queue that start in some cells. -/
def Queue.starts (x : Queue) (l : List QCell) : List QPkt :=
  (l.filter (fun c => c.k == 0)).filterMap (fun c => x.pkts.find? (fun p => p.pid == c.pid))

/-- The later of two stamps (R281). -/
def laterT32 (a b : T32) : T32 := if 0 < a.diff b then a else b

/-- R262, Table 07-2: the control word of a segment of a queue; next_seg follows when the next segment has its index. -/
def Queue.segWord (x : Queue) (l : List QCell) : SegWord :=
  let ps := x.starts l
  { newestT32 := (ps.map (fun p => p.entry)).foldl laterT32 ((ps.head?.map (fun p => p.entry)).getD 0)
    bytes := (ps.map (fun p => p.frameLen)).sum, pkts := ps.length, firstStart := l.findIdx (fun c => c.k == 0) }

/-- Table 07-2: the control word as 128 bits. -/
def SegWord.encode (w : SegWord) : Nat :=
  w.newestT32.toNat * 2 ^ 96 + w.bytes % 2 ^ 17 * 2 ^ 79 + w.pkts % 32 * 2 ^ 74 + w.firstStart % 32 * 2 ^ 69 + 16 * 2 ^ 64 +
    w.nextSeg % 2 ^ 24 * 2 ^ 16

/-- R456: the meta bits of an access 0-127 of a segment: bits 16i + 15 to 16i of its control word in access i of the first cell
burst, zero in every other access. -/
def State.segMeta (s : State) (seg access : Nat) : Nat :=
  match s.hbm.words.get? seg with
  | none => 0
  | some w => if access < 8 then field w.encode (16 * access + 15) (16 * access) else 0

/-- The index of the segment before one of a middle, where that lies in HBM. -/
def segBefore (seg : Nat) : List Seg → Option Nat
  | a :: b :: r => if b.slot == some seg then a.slot else segBefore seg (b :: r)
  | _ => none

/-- R262, R487: next_seg of the segment before one names it. -/
def State.chainSeg (s : State) (q seg : Nat) : State :=
  match segBefore seg (s.queue q).mid with
  | none => s
  | some i => { s with hbm.words := s.hbm.words.upd i {} (fun w => { w with nextSeg := seg }) }

/-- SEGMENT_WRITTEN (R262, R263, R265): the oldest segment of the backlog has been written to HBM with its control word, and its
cells are freed. Without a free segment, with its stack in self-refresh, or beyond the spill budget, it stays. -/
def execSegmentWritten (s : State) : Out :=
  match s.buf.backlog with
  | [] => .next s
  | q :: r =>
    match s.grantSeg q with
    | none => .next s
    | some (i, t) =>
      if s.pcWaits (i % 128) || !s.dataPlaneOn || !s.meterOk 8 then .next s
      else
        let x := t.queue q
        let l := ((x.mid.find? (fun g => g.slot.isNone && !g.refill)).map (fun g => g.cells)).getD []
        let w := { t with buf.backlog := r, hbm.words := t.hbm.words.set i (x.segWord l) }
        let u := ((w.updQueue q (fun x => { x with mid := fillSlot i x.mid })).freeCellList l).chainSeg q i
        done s ((((u.bump 711 4).perfCount 1 0x22 0 1).noteSegLow.meterTake 8).settleQueue q).refreshTm

/-- R266: segment `j` of a queue's middle is lost, or with it every later one when its control word is lost (`word`): every packet
with a cell in what is lost is dropped with code 0x37, event 0x0683. Segments that can no longer be reached stay granted until
the audit (R290). -/
def State.segmentLost (s : State) (q j : Nat) (word : Bool) : State :=
  let x := s.queue q
  match x.mid[j]? with
  | none => s
  | some g =>
    let n := if word then x.mid.length - j else 1
    let gone := (x.mid.drop j).take n
    let drops := x.pkts.filter (fun p => gone.any (fun e => e.cells.any (fun c => c.pid == p.pid)))
    let a := (s.setQueue q { x with mid := x.mid.take j ++ x.mid.drop (j + n) }).freeMiddle q
      (g :: (gone.drop 1).filter (fun e => e.slot.isNone))
    let b := drops.foldl (fun (e : State) p => e.dropPkt q 0x37 p) a
    ((b.raise 0x0683 (d4o (g.slot.map (fun i => i % 128)) ++ d4o g.slot ++ d4 q ++ d4 drops.length)).settleQueue q).voqEdge s q

/-- R266: the segment `seg` is lost where a queue reaches it. -/
def State.segLost (s : State) (seg : Nat) (word : Bool) : State :=
  match s.hbm.segs.get? seg with
  | none => s
  | some q =>
    match (s.queue q).mid.findIdx? (fun g => g.slot == some seg) with
    | none => s
    | some j => s.segmentLost q j word

/-- REFILL_ARRIVAL (R259, R260): the oldest segment on its way arrives in free cells and joins the head run; cells of packets that
have left are discarded (R284). It waits while the cell store has no room for it (DESIGN CHOICE), and for the spill budget (R263). -/
def execRefillArrival (queue : Nat) (s : State) : Out :=
  if 524288 ≤ queue then .fault .noSuchUnit
  else
    let x := s.queue queue
    match x.mid with
    | g :: r =>
      if !(g.refill && g.slot.isSome) || !s.dataPlaneOn || g.slot.any (fun i => s.pcWaits (i % 128)) ||
          524288 < s.buf.cells.length + 16 || !s.meterOk 9 then .next s
      else
        let live := g.cells.filter x.live
        let c := s.takeCells queue live.length
        let l := (live.zip c.1).map (fun e => { e.1 with cell := some e.2 })
        let a := (c.2.setQueue queue { x with mid := r }).freeSegList g.slot.toList
        let b := (State.joinBacklog r.length (a.joinHead queue l) queue).endSpill queue
        done s (((b.bump 711 5).perfCount 1 0x22 0 2).meterTake 9 |>.settleQueue queue).refreshTm
    | [] => .next s

/-! ### Aging and the audit (R282-R284, R290) -/

/-- AGE_EXPIRY (R282-R284): removes the expired packets at the head of a queue. A packet whose cells are being sent goes on. -/
def execAgeExpiry (queue : Nat) (s : State) : Out :=
  if 524288 ≤ queue then .fault .noSuchUnit
  else if !s.dataPlaneOn || (s.fab.sending.get? queue).isSome then .next s
  else done s ((s.ageHead queue).voqEdge s queue).refreshTm

/-- The segments that are granted and that no queue reaches (R290). -/
def State.lostSegs (s : State) : List Nat :=
  (s.hbm.segs.filter (fun e => !(s.queue e.2).mid.any (fun g => g.slot == some e.1))).map Prod.fst

/-- A queue, the backlog or an owner set reaches the cell (R290). -/
def State.reached (s : State) (c : Nat) : Bool :=
  s.buf.queues.any (fun e => (cellNumbers (e.2.runs ++ e.2.mid.flatMap (fun g => g.cells))).contains c) ||
    s.buf.shared.any (fun e => e.2.cells.contains c)

/-- The cells in use that nothing reaches (R290). -/
def State.lostCells (s : State) : List Nat := (s.buf.cells.map Prod.fst).filter (fun c => !s.reached c)

/-- R290: a cell returns to the free list, whatever held it. -/
def State.reclaim (s : State) (c : Nat) : State :=
  { s with buf.cells := s.buf.cells.upd c {} (fun x => { x with holds := 1 }) }.freeCell c

/-- CELL_AUDIT (R290): once per second, frees what no queue, backlog, reassembly or owner set reaches. -/
def execCellAudit (s : State) : Out :=
  if !s.aux.pllLocked then .next s
  else if !s.ended s.buf.auditAt (secs 1) then .next s
  else
    let l := s.lostSegs
    let n := s.lostCells
    let t := n.foldl State.reclaim ({ s with buf.auditAt := s.time.ticks }.freeSegList l)
    done s (if l.isEmpty && n.isEmpty then t
      else (t.count 711 10 0 0 (l.length + n.length)).raise 0x0686 (d4 n.length ++ d4 l.length))

/-! ### The commands of class 0x06 -/

/-- BUFFER_PARTITION_SET (R254). -/
def bufferPartitionSetSpec : CmdSpec :=
  { opcode := 0x0601, long := fun b => 12 ≤ b.length, mode := fun _ s => if s.mode.mode == mdConfigure then 0 else stWrongMode }

def cmdBufferPartitionSet (c : Cmd) (s : State) : Res :=
  gate bufferPartitionSetSpec (fun c s =>
    let v := le c.payload 0 4
    let r := le c.payload 4 4
    let e := le c.payload 8 4
    if v + r + e != 524288 || v % 1024 != 0 || r % 1024 != 0 || e % 1024 != 0 then Res.err s stBadParam
    else { st := { s with buf.voqCells := v, buf.reasmCells := r, buf.egressCells := e } }) c s

def execBufferPartitionSet (c : Cmd) (s : State) : Out := serve c cmdBufferPartitionSet s

/-- R272: between two settings the sum of min_cells of a partition rises above half of its cells. -/
def minTooHigh (old new : State) : Bool :=
  [true, false].any (fun v =>
    let cells := if v then new.buf.voqCells else new.buf.egressCells
    old.minSum v < new.minSum v && cells < 2 * new.minSum v)

/-- ADMISSION_PROFILE_SET (R271, R272, Table 07-6). -/
def admissionProfileSetSpec : CmdSpec :=
  { opcode := 0x0602, long := fun b => 16 ≤ b.length, clean := fun b => flagsIn b 1 1 }

def cmdAdmissionProfileSet (c : Cmd) (s : State) : Res :=
  gate admissionProfileSetSpec (fun c s =>
    let b := c.payload
    let f : AdmProf := {
      spillEn := bit (byteAt b 1) 0, alphaDie := byteAt b 2, alphaHbm := byteAt b 3, minCells := le b 4 4
      maxCells := le b 8 4, spillOn := le b 12 2, headKeep := le b 14 2 }
    if 0xB < f.alphaDie || 0xB < f.alphaHbm || 131071 < f.minCells || !inRange f.maxCells 39 268435455 ||
        !inRange f.headKeep 16 2048 || f.headKeep % 16 != 0 || f.spillOn < f.headKeep + 32 then Res.err s stBadParam
    else
      let t := { s with buf.profs := s.buf.profs.set (byteAt b 0) f }
      if minTooHigh s t then Res.err s stNoResource else { st := t.lowerMins }) c s

def execAdmissionProfileSet (c : Cmd) (s : State) : Out := serve c cmdAdmissionProfileSet s

/-- WRED_PROFILE_SET (R277, Table 07-7). -/
def wredProfileSetSpec : CmdSpec :=
  { opcode := 0x0603, long := fun b => 40 ≤ b.length
    clean := fun b => rsv b 2 2 && [4, 16, 28].all (fun o => flagsIn b o 2 && rsv b (o + 1) 1) }

def cmdWredProfileSet (c : Cmd) (s : State) : Res :=
  gate wredProfileSetSpec (fun c s =>
    let b := c.payload
    let curve (o : Nat) : Curve := {
      enable := bit (byteAt b o) 0, mark := bit (byteAt b o) 1, maxP := le b (o + 2) 2, minTh := le b (o + 4) 4
      maxTh := le b (o + 8) 4 }
    let w : Wred := { w := byteAt b 1, green := curve 4, yellow := curve 16, red := curve 28 }
    if 63 < byteAt b 0 || 15 < w.w || [w.green, w.yellow, w.red].any (fun c => c.maxTh ≤ c.minTh) then Res.err s stBadParam
    else { st := { s with buf.wreds := s.buf.wreds.set (byteAt b 0) w } }) c s

def execWredProfileSet (c : Cmd) (s : State) : Out := serve c cmdWredProfileSet s

/-- QUEUE_CONFIG for one queue (R272, R274). -/
def State.queueOp (adm wred age : Nat) (on : Bool) (s : State) (b : Bytes) : Nat × State :=
  let t := s.updQueue (le b 0 4) (fun x => { x with
    adm, wred, ageUs := age, enabled := on, minNow := Nat.min x.minNow (s.admProf adm).minCells })
  if minTooHigh s t then (stNoResource, s) else (stOk, t)

/-- QUEUE_CONFIG (R196, R274, R279, Table 07-8): its queues in ascending order up to the first that fails R272. -/
def queueConfigSpec : CmdSpec :=
  { opcode := 0x0604, long := fun b => 16 ≤ b.length, clean := fun b => flagsIn b 10 1 && rsv b 11 1 }

def cmdQueueConfig (c : Cmd) (s : State) : Res :=
  gate queueConfigSpec (fun c s =>
    let b := c.payload
    let first := le b 0 4
    let n := le b 4 4
    if 524288 ≤ first then Res.err s stNotFound
    else if n == 0 || 524288 < first + n || 63 < byteAt b 9 || !inRange (le b 12 4) 1 1000000 then Res.err s stBadParam
    else eachRes (runEach (State.queueOp (byteAt b 8) (byteAt b 9) (le b 12 4) (bit (byteAt b 10) 0)) s 0
      ((List.range n).map (fun i => toLe 4 (first + i))))) c s

def execQueueConfig (c : Cmd) (s : State) : Out := serve c cmdQueueConfig s

/-- QUEUE_FLUSH (R291). A packet whose cells are partly sent is not completed. -/
def queueFlushSpec : CmdSpec := { opcode := 0x0605, long := fun b => 4 ≤ b.length }

def cmdQueueFlush (c : Cmd) (s : State) : Res :=
  gate queueFlushSpec (fun c s =>
    let q := le c.payload 0 4
    if 524288 ≤ q then Res.err s stNotFound
    else
      let t := s.flush38 q
      { st := ({ t with fab.sending := t.fab.sending.del q }.voqEdge s q).refreshTm }) c s

def execQueueFlush (c : Cmd) (s : State) : Out := serve c cmdQueueFlush s

/-- Table 07-9. -/
def State.queueRecord (s : State) (q : Nat) : Bytes :=
  let x := s.queue q
  toLe 4 q ++ toLe 4 x.die ++ toLe 4 x.segments ++ toLe 4 x.pkts.length ++ toLe 4 x.avg ++
    toLe 4 (Nat.max x.watermark x.len) ++ toLe 4 ((x.pkts.head?.map (fun p => p.entry.toNat)).getD 0) ++
    toLe 1 (b2n x.spilling + 2 * b2n x.enabled + 4 * b2n x.stall) ++ zeros 3

/-- QUEUE_STATUS_GET (R286): clears the watermark, which starts again at the present length, and the stall flag. -/
def queueStatusGetSpec : CmdSpec :=
  { opcode := 0x0606, long := fun b => 8 ≤ b.length, reads := true
    size := fun b => if le b 4 4 ≤ 64 then 32 * le b 4 4 else 0 }

def cmdQueueStatusGet (c : Cmd) (s : State) : Res :=
  gate queueStatusGetSpec (fun c s =>
    let first := le c.payload 0 4
    let n := le c.payload 4 4
    if !inRange n 1 64 then Res.err s stBadParam
    else if 524288 < first + n then Res.err s stNotFound
    else
      let qs := (List.range n).map (fun i => first + i)
      { st := { s with buf.queues := s.buf.queues.map (fun e =>
          if qs.contains e.1 then (e.1, { e.2 with watermark := e.2.len, stall := false }) else e) }
        result := qs.flatMap s.queueRecord }) c s

def execQueueStatusGet (c : Cmd) (s : State) : Out := serve c cmdQueueStatusGet s

/-- Table 07-11. -/
def bufDims : List (Nat × Nat) :=
  [(1, 1), (11, 1), (1, 1), (1, 1), (1, 1), (1, 1), (1, 1), (1, 1), (1, 1), (1, 1), (1, 1)]

/-- BUFFER_STATUS_GET (R761, Table 07-13). -/
def bufferStatusGetSpec : CmdSpec := { opcode := 0x0607, size := fun _ => 32 + snapSize bufDims, reads := true }

def cmdBufferStatusGet (c : Cmd) (s : State) : Res :=
  gate bufferStatusGetSpec (fun _ s =>
    let b := s.buf
    { st := { s with buf.voqPeak := b.voqUsed, buf.reasmPeak := b.reasmUsed, buf.egressPeak := b.egressUsed }
      result := toLe 4 b.voqUsed ++ toLe 4 b.voqPeak ++ toLe 4 b.reasmUsed ++ toLe 4 b.reasmPeak ++ toLe 4 b.egressUsed ++
        toLe 4 b.egressPeak ++ toLe 4 s.freeSegs ++ toLe 4 (16 * b.backlog.length) ++ s.snap 711 bufDims }) c s

def execBufferStatusGet (c : Cmd) (s : State) : Out := serve c cmdBufferStatusGet s

/-- BUFFER_GLOBAL_SET (R264). -/
def bufferGlobalSetSpec : CmdSpec := { opcode := 0x0608, long := fun b => 4 ≤ b.length }

def cmdBufferGlobalSet (c : Cmd) (s : State) : Res :=
  gate bufferGlobalSetSpec (fun c s =>
    let n := le c.payload 0 4
    if !inRange n 4096 262144 then Res.err s stBadParam else { st := { s with buf.backlogMax := n } }) c s

def execBufferGlobalSet (c : Cmd) (s : State) : Out := serve c cmdBufferGlobalSet s

end Sys2Proof.Machine
end

