-- ==== Sys2Proof/Machine/Fabric.lean ====
section
/-! DEFINITION. Planes, peers and lanes of the fabric (R367-R373, R407-R425 of 10_fabric.md) and the commands of class 0x09. -/
namespace Sys2Proof.Machine
open Sys2Proof

def State.setPeer (s : State) (f : Nat) (x : Peer) : State := { s with fab.peers := s.fab.peers.set f x }
def State.updPlane (s : State) (f k : Nat) (g : PeerPlane → PeerPlane) : State :=
  let x := s.peer f
  s.setPeer f (x.setPlane k (g (x.plane k)))

/-- The FDIs of the peer table. -/
def State.peerList (s : State) : List Nat := (s.fab.peers.filter (fun e => e.2.present)).map Prod.fst

/-- R408: the modes in which the device takes part in the fabric. -/
def State.fabricOn (s : State) : Bool := s.aux.pllLocked && inRange s.mode.mode mdConfigure mdDegraded

/-! ### Receiving a cell (R378) -/

/-- R378: the code under which a received cell is discarded. -/
def State.cellError (s : State) (c : Cell) : Option Nat :=
  if !cellHcrcOk c || !c.badWords.isEmpty || 7 ≤ c.type then some 0x4D
  else if c.dst != s.fab.fdi || !s.isPeer c.src then some 0x4E
  else none

/-- Drops something under a code of Table 10-9. -/
def State.dropFab (s : State) (code : Nat) : State := s.bump 1013 2 (code - 0x48)

/-! ### Reassembly contexts (R393) -/

/-- The key of a reassembly context: (source, plane, link group, class), or (source, plane, stream) of protected cells. -/
def ctxKey (src plane lgroup tc : Nat) (prot : Bool) (stream : Nat) : Nat :=
  if prot then 65536 + 16 * (2 * src + plane) + stream else 64 * (2 * src + plane) + 8 * lgroup + tc

/-- The context belongs to a source and plane. -/
def ctxOn (src plane key : Nat) : Bool :=
  if key < 65536 then key / 64 == 2 * src + plane else (key - 65536) / 16 == 2 * src + plane

/-- Ends the open packet of a context under a drop code, unless the drop is counted already; its cells are released. -/
def State.discardCtx (s : State) (key code : Nat) : State :=
  let x := s.fab.ctxs.getD key {}
  if !x.open_ then s
  else
    let t := { s with fab.ctxs := s.fab.ctxs.set key { last := x.last } }.reasmAdd 0 x.cells
    if x.discard then t else t.dropFab code

/-! ### Plane state (R409-R414) -/

/-- Takes the packets in hand toward a device off a plane: one that no plane carries any more is abandoned and freed. -/
def State.abandon (s : State) (f k : Nat) : State :=
  (s.fab.sending.filter (fun e => e.1 / 1024 == f && bit e.2 k)).foldl (fun (a : State) e =>
    let left := e.2 - 2 ^ k
    let b := a.bump 1013 7
    if left == 0 then ({ b with fab.sending := b.fab.sending.del e.1 }.popHead e.1).voqEdge b e.1
    else { b with fab.sending := b.fab.sending.set e.1 left }) s

/-- R412: the data and credit cells to a device that still wait for lanes of a plane are not sent; a packet whose last cell is
among them counts in abandoned. -/
def State.unsend (s : State) (f k : Nat) : State :=
  let ends := (s.fab.laneQ.flatMap (fun e => e.2)).filter (fun c => c.plane == k && c.dst == f && c.type == 0 && c.eop && !c.abort)
  let t : State := { s with fab.laneQ := s.fab.laneQ.map (fun e =>
      if e.1 / 64 == k then (e.1, e.2.filter (fun c => c.dst != f || !(c.type == 0 || c.type == 2 || c.type == 3))) else e) }
  t.count 1013 7 0 0 ends.length

/-- R412, R414: plane `k` goes down toward peer `f`, for a cause of event 0x0981. -/
def State.planeDown (s : State) (f k cause : Nat) : State :=
  let a := s.updPlane f k (fun x => { x with
    usable := false, wasDown := true, protecting := false, restored := false, waitAck := false, failed := false })
  let b := ((a.fab.ctxs.filter (fun e => ctxOn f k e.1)).map Prod.fst).foldl (fun (x : State) key => x.discardCtx key 0x4B) a
  let c := (List.range 16).foldl (fun (x : State) t =>
    { x with fab.fences := x.fab.fences.del (2 * (16 * f + t) + k) }) b
  let d := (((c.abandon f k).unsend f k).bump 1013 13 k).raise 0x0981 (d4 f ++ d4 k ++ d4 cause)
  let p := d.peer f
  (if p.present && !p.a.usable && !p.b.usable && !p.unreachable then
    (d.setPeer f { p with unreachable := true }).raise 0x0984 (d4 f)
  else d).refreshTm

/-- R373: the plane has a live lane in some link group. -/
def State.planeAlive (s : State) (k : Nat) : Bool := (List.range 8).any (fun g => !(s.liveLanes k g).isEmpty)

/-- R410: brings the usability of both planes toward a peer up to date; a plane that fails goes down for the cause given. -/
def State.reviewPeer (s : State) (f cause : Nat) : State :=
  [0, 1].foldl (fun (a : State) k =>
    let p := a.peer f
    let x := p.plane k
    let now := p.present && x.heard && x.reported && !a.fab.planesDown.contains k && a.planeAlive k
    if x.usable && !now then a.planeDown f k cause
    else if !x.usable && now then
      ((a.updPlane f k (fun y => { y with usable := true, usableAt := a.time.ticks })).setPeer f
        { (a.peer f).setPlane k { x with usable := true, usableAt := a.time.ticks } with unreachable := false }).refreshTm
    else a) s

/-- Brings every peer up to date. -/
def State.reviewPeers (s : State) (cause : Nat) : State := s.peerList.foldl (fun (a : State) f => a.reviewPeer f cause) s

/-- Takes a plane down toward every peer, for a cause (R373, PLANE_ADMIN). -/
def State.planeDownAll (s : State) (k cause : Nat) : State :=
  s.peerList.foldl (fun (a : State) f => if a.usable f k then a.planeDown f k cause else a) s

/-! ### Lanes (R368-R373) -/

def State.setLane (s : State) (l : Nat) (x : Lane) : State := { s with fab.lanes := s.fab.lanes.set l x }
def lanePlane (l : Nat) : Nat := l / 64
def laneGroup (l : Nat) : Nat := l / 8 % 8

/-- Lanes of a link group that failures have removed, without those taken out with FABRIC_LANE_ADMIN (R372). -/
def State.removedIn (s : State) (k g : Nat) : Nat :=
  ((List.range 8).filter (fun i => let x := s.lane (64 * k + 8 * g + i); x.removed && !x.adminOut)).length

/-- R372: event 0x0988 when more than 2 lanes of a link group are removed that were not before (`s0`). -/
def State.noteGroup (s s0 : State) (l : Nat) : State :=
  let k := lanePlane l
  let g := laneGroup l
  if s0.removedIn k g ≤ 2 && 2 < s.removedIn k g then s.raise 0x0988 (d4 k ++ d4 g ++ d4 (s.liveLanes k g).length) else s

/-- What follows from a lane that is no longer live: a plane without live lanes goes down (R373). -/
def State.afterLane (s : State) (l : Nat) : State :=
  if s.planeAlive (lanePlane l) then s else s.planeDownAll (lanePlane l) 3

/-- The condition of R372. -/
def State.lanesCond (s : State) : State :=
  s.fixCond 5 ([0, 1].any (fun k => (List.range 8).any (fun g => 2 < s.removedIn k g)))

/-- R370-R372: removes a lane for a cause of event 0x0986, and retrains it. -/
def State.removeLane (s : State) (l cause : Nat) : State :=
  let k := lanePlane l
  let g := laneGroup l
  let t := (s.setLane l { s.lane l with removed := true, trained := false, attempts := 0, retryAt := none, trainAt := some s.time.ticks, fecTimes := [] }).bump 1013 19 l
  let u := t.raise 0x0986 (d4 l ++ d4 cause ++ d4 (t.liveLanes k g).length)
  ((u.noteGroup s l).lanesCond).afterLane l

/-- One uncorrectable codeword on a lane (R370): more than 10 in any 10 ms window remove it. -/
def State.badCodeword (s : State) (l : Nat) : State :=
  let x := s.lane l
  let y := { x with fecTimes := x.fecTimes.filter (fun t => s.time.ticks < t + ms 10) ++ [s.time.ticks] }
  let t := (s.bump 1013 18 l).setLane l y
  if 10 < y.fecTimes.length && !x.removed then t.removeLane l 0 else t

/-- R368: the lane declares lock, or loses it. -/
def State.declareLock (s : State) (l : Nat) : State :=
  ((s.setLane l { s.lane l with lock := true, goodRun := 0, badRun := 0 }).reviewPeers 3).refreshTm

def State.loseLock (s : State) (l : Nat) : State :=
  (s.setLane l { s.lane l with lock := false, lockLost := s.time.ticks, goodRun := 0, badRun := 0 }).afterLane l

/-- R368, R370: what a lane receiver learns from a cell: the run of right or wrong header checks, and the uncorrectable codewords
in which it lies, each counted once. -/
def State.laneCell (s : State) (l : Nat) (c : Cell) : State :=
  let x := s.lane l
  let y := if cellHcrcOk c then { x with goodRun := min 6 (x.goodRun + 1), badRun := 0 }
    else { x with goodRun := 0, badRun := min 4 (x.badRun + 1) }
  let new := c.badWords.filter (fun w => !x.words.contains w)
  let a := s.setLane l { y with words := (new ++ x.words).take 8 }
  let b := if !x.lock && 6 ≤ y.goodRun then a.declareLock l else if x.lock && 4 ≤ y.badRun then a.loseLock l else a
  new.foldl (fun (z : State) _ => z.badCodeword l) b

/-! ### A cell received on a lane (R368, R378) -/

/-- What a cell of a type does once it has passed R378; it is counted, or discarded under its code. A lane out of lock discards
every cell (R368). -/
def receiveCell (type lane : Nat) (c : Cell) (s : State) (f : State → State) : Out :=
  if 128 ≤ lane then .fault .noSuchUnit
  else if !s.fabricOn || (c.type < 7 && c.type != type) then .next s
  else
    let t := s.laneCell lane c
    if !(s.lane lane).lock then done s t
    else match t.cellError c with
      | some code => done s (t.dropFab code)
      | none => done s (f (t.bump 1013 1 c.plane c.type))

/-! ### Heartbeats (R407-R411) -/

/-- Table 10-6. -/
def State.hbPayload (s : State) (f seq : Nat) : Bytes :=
  let p := s.peer f
  toBe 4 seq ++ toBe 4 s.t32.toNat ++ toBe 4 s.hier.epoch ++ toBe 1 s.mode.mode ++
    toBe 1 (b2n p.a.heard + 2 * b2n p.b.heard + 4 * b2n (s.hier.role == 1) + 8 * b2n (s.hier.role == 3))

/-- Sends one heartbeat to a peer on a plane, on the next live link group (R407). -/
def State.heartbeat (s : State) (f k : Nat) : State :=
  if !s.sends k then s
  else
    let g := s.fab.hbGroup.getD (2 * f + k) 0
    match s.groupFor k g with
    | none => s
    | some h =>
      let n := ((s.peer f).plane k).hbSeq
      let t := (s.updPlane f k (fun x => { x with hbSeq := (n + 1) % 4294967296 })).sendCell k h
        (plainCell 1 f (s.hbPayload f n))
      { t with fab.hbGroup := t.fab.hbGroup.set (2 * f + k) ((h + 1) % 8) }

/-- FABRIC_HEARTBEAT_SEND (R407, R408): one round every 10 µs. A heartbeat of a peer that has been heard before and is more
than one period old counts as missed (Table 10-13). -/
def execFabricHeartbeatSend (s : State) : Out :=
  if !s.fabricOn || !s.ended s.fab.hbAt (us 10) then .next s
  else
    let t := s.peerList.foldl (fun (a : State) f => [0, 1].foldl (fun (b : State) k =>
      let late := (((b.peer f).plane k).lastTick.map (fun t => b.ended t (us 10))).getD false
      (b.heartbeat f k).count 1013 12 k 0 (b2n late)) a) { s with fab.hbAt := s.time.ticks }
    done s t

/-- The device has heard nothing from a peer on a plane for 40 µs. -/
def State.hearingOver (s : State) (f k : Nat) : Bool :=
  let x := (s.peer f).plane k
  s.isPeer f && x.heard && x.lastTick.any (fun t => s.ended t (us 40))

/-- R409-R411: the device stops hearing a peer on a plane. -/
def State.stopHearing (s : State) (f k : Nat) : State :=
  let t := (s.updPlane f k (fun y => { y with heard := false })).reviewPeer f 0
  (t.heartbeat f (1 - k)).noteSilence f

/-- HEARTBEAT_CELL (R409, R410). Hearing that ended before it ends first: the window of R409 is half-open (R10). -/
def execHeartbeatCell (rx : LaneCell) (s : State) : Out :=
  receiveCell 1 rx.lane rx.cell s (fun s0 =>
    let b := rx.cell.payload
    let fl := be b 13 1
    let k := rx.cell.plane % 2
    let s := if s0.hearingOver rx.cell.src k then s0.stopHearing rx.cell.src k else s0
    let p := s.peer rx.cell.src
    let x := { p with mode := be b 12 1, epoch := be b 8 4, flags := fl, a := { p.a with reported := bit fl 0 }, b := { p.b with reported := bit fl 1 } }
    let y := x.setPlane k { x.plane k with heard := true, lastTick := some s.time.ticks, lastT32 := s.t32 }
    (((s.setPeer rx.cell.src y).reviewPeer rx.cell.src 1).noteSilence rx.cell.src).reviewChange)

/-- HEAR_TIMEOUT (R409-R411). -/
def execHearTimeout (peer plane : Nat) (s : State) : Out :=
  if 256 ≤ peer || 2 ≤ plane then .fault .noSuchUnit
  else if !s.aux.pllLocked then .next s
  else if s.hearingOver peer plane then done s (s.stopHearing peer plane) else .next s

/-! ### Recovery of a plane (R416-R422) -/

/-- A cell of Table 10-7 on every usable plane toward a peer. -/
def State.sendResync (s : State) (f kind flags plane hs : Nat) (fences : Bytes) : State :=
  let body := toBe 1 kind ++ toBe 1 flags ++ toBe 1 plane ++ zeros 1 ++ toBe 4 hs ++ fences
  [0, 1].foldl (fun (a : State) k => if a.usable f k then a.sendCell k 0 (plainCell 5 f body) else a) s

/-- R416, R420: sends a RESYNC for a plane toward a peer under a handshake identifier. -/
def State.resyncTo (s : State) (f k hs : Nat) : State :=
  let fences := (List.range 16).flatMap (fun t => toBe 4 (s.fab.pseq.getD (16 * f + t) 0))
  s.sendResync f 1 (b2n !(s.peer f).resetAcked) k hs fences

/-- Starts a new handshake. -/
def State.startResync (s : State) (f k : Nat) : State :=
  let hs := s.fab.hsSeq
  let t := { s with fab.hsSeq := (hs + 1) % 4294967296 }.updPlane f k (fun x => { x with
    hsId := hs, waitAck := true, failed := false, resends := 0, sentAt := s.time.ticks })
  t.resyncTo f k hs

/-- UP_HOLD_EXPIRY (R416). -/
def execUpHoldExpiry (peer plane : Nat) (s : State) : Out :=
  if 256 ≤ peer || 2 ≤ plane then .fault .noSuchUnit
  else
    let x := (s.peer peer).plane plane
    if !(s.fabricOn && s.isPeer peer && x.usable && s.ended x.usableAt (ms s.fab.upHoldMs)) || x.protecting || x.waitAck || x.failed then .next s
    else done s (s.startResync peer plane)

/-- RESYNC (R417): sets the fences of the plane named, once per handshake, and acknowledges. -/
def execResync (rx : LaneCell) (s : State) : Out :=
  receiveCell 5 rx.lane rx.cell s (fun s =>
    let b := rx.cell.payload
    let f := rx.cell.src
    let k := be b 2 1
    let hs := be b 4 4
    if be b 0 1 != 1 || 2 ≤ k then s
    else
      let known := ((s.peer f).plane k).rxHs == some hs
      let a := if known then s else
        (List.range 16).foldl (fun (x : State) t =>
          { x with fab.fences := x.fab.fences.set (2 * (16 * f + t) + k) (be b (8 + 4 * t) 4 % 16777216) })
          (s.updPlane f k (fun y => { y with rxHs := some hs }))
      let c := if !known && bit (be b 1 1) 0 then
          { a with fab.windows := a.fab.windows.filter (fun e => e.1 / 16 != f) } else a
      c.sendResync f 2 (be b 1 1 % 2) k hs (zeros 64))

/-- RESYNC_ACK (R418, R420). -/
def execResyncAck (rx : LaneCell) (s : State) : Out :=
  receiveCell 5 rx.lane rx.cell s (fun s =>
    let b := rx.cell.payload
    let f := rx.cell.src
    let k := be b 2 1
    let x := (s.peer f).plane k
    if be b 0 1 != 2 || 2 ≤ k || !x.waitAck || x.hsId != be b 4 4 || !x.usable then s
    else
      let t := s.updPlane f k (fun y => { y with waitAck := false, protecting := true })
      ((t.setPeer f { t.peer f with resetAcked := true }).raise 0x0982 (d4 f ++ d4 k)).refreshTm)

/-- RESYNC_RESEND (R419): every 100 µs, ten times; after that event 0x0985 and a new handshake 10 ms later. -/
def execResyncResend (peer plane : Nat) (s : State) : Out :=
  if 256 ≤ peer || 2 ≤ plane then .fault .noSuchUnit
  else
    let x := (s.peer peer).plane plane
    if !(s.fabricOn && s.isPeer peer && x.usable) then .next s
    else if x.waitAck && s.ended x.sentAt (us 100) then
      if x.resends < 10 then
        done s ((s.updPlane peer plane (fun y => { y with resends := y.resends + 1, sentAt := s.time.ticks })).resyncTo
          peer plane x.hsId)
      else
        done s ((s.updPlane peer plane (fun y => { y with waitAck := false, failed := true, sentAt := s.time.ticks })).raise
          0x0985 (d4 peer ++ d4 plane ++ d4 x.hsId))
    else if x.failed && s.ended x.sentAt (ms 10) then done s (s.startResync peer plane)
    else .next s

/-! ### Control cells (R423-R425) -/

/-- CONTROL_CELL (R424): a fragment; with the last one the message is complete. What the message does is its own row. -/
def execControlCell (rx : LaneCell) (s : State) : Out :=
  receiveCell 4 rx.lane rx.cell s (fun s =>
    let b := rx.cell.payload
    let key := 65536 * rx.cell.src + be b 0 2
    let i := be b 2 1
    let n := be b 3 1
    let len := be b 4 2
    if !inRange n 1 16 || n ≤ i || !inRange len 1 248 then s
    else
      let x := s.fab.ctrlRx.getD key { frags := [], count := n, since := s.time.ticks }
      let y := { x with frags := x.frags.set i (slice b 8 len) }
      if y.frags.length == y.count then { s with fab.ctrlRx := s.fab.ctrlRx.del key }.bump 1013 15
      else { s with fab.ctrlRx := s.fab.ctrlRx.set key y })

/-- CONTROL_MESSAGE_TIMEOUT (R424). -/
def execControlMessageTimeout (src msgId : Nat) (s : State) : Out :=
  if 256 ≤ src || 65536 ≤ msgId then .fault .noSuchUnit
  else if !s.aux.pllLocked then .next s
  else match s.fab.ctrlRx.get? (65536 * src + msgId) with
    | none => .next s
    | some x =>
      if s.ended x.since (ms 1) then done s ({ s with fab.ctrlRx := s.fab.ctrlRx.del (65536 * src + msgId) }.bump 1013 16) else .next s

/-! ### Lane events (R368-R373) -/

/-- FABRIC_LANE_FAULT (R370). -/
def execFabricLaneFault (lane : Nat) (lockLost : Bool) (s : State) : Out :=
  if 128 ≤ lane then .fault .noSuchUnit
  else
    let x := s.lane lane
    if !s.aux.pllLocked || x.removed || !x.trained || x.adminOut then .next s
    else if lockLost then (if !x.lock && s.ended x.lockLost (ms 1) then done s (s.removeLane lane 1) else .next s)
    else done s (s.removeLane lane 0)

/-- FABRIC_LANE_TRAINING_END (R371): an attempt ends in success within 500 ms, or without it after 500 ms; the spec does not say
when the first attempt since reset begins, so that one ends when the command says (DESIGN CHOICE). A lane that has trained is live
once it declares lock (R368, R369). -/
def execFabricLaneTrainingEnd (lane : Nat) (trained : Bool) (s : State) : Out :=
  if 128 ≤ lane then .fault .noSuchUnit
  else
    let x := s.lane lane
    let late := x.trainAt.any (fun t => s.ended t (ms 500))
    if !s.aux.pllLocked || x.trained || x.retryAt.isSome || !(trained || late || x.trainAt.isNone) then .next s
    else if trained && !late then
      let t := s.setLane lane { x with
        trained := true, removed := false, attempts := 0, lock := false, lockLost := s.time.ticks, goodRun := 0, badRun := 0 }
      done s (if x.removed then
        (t.raise 0x0987 (d4 lane ++ d4 (t.liveLanes (lanePlane lane) (laneGroup lane)).length)).lanesCond
      else t)
    else if x.attempts < 2 then done s (s.setLane lane { x with attempts := x.attempts + 1, trainAt := some s.time.ticks })
    else
      let t := s.setLane lane { x with attempts := 0, removed := true, retryAt := some s.time.ticks }
      let u := t.raise 0x0986 (d4 lane ++ d4 2 ++ d4 (t.liveLanes (lanePlane lane) (laneGroup lane)).length)
      done s (u.noteGroup s lane).lanesCond

/-- FABRIC_TRAINING_RETRY (R371). -/
def execFabricTrainingRetry (lane : Nat) (s : State) : Out :=
  if 128 ≤ lane then .fault .noSuchUnit
  else
    let x := s.lane lane
    if s.aux.pllLocked && (x.retryAt.map (fun t => s.ended t (secs 10))).getD false then
      done s (s.setLane lane { x with retryAt := none, trainAt := some s.time.ticks })
    else .next s

/-- LANE_LOCK_DECLARED (R368). -/
def execLaneLockDeclared (lane : Nat) (s : State) : Out :=
  if 128 ≤ lane then .fault .noSuchUnit else if !s.aux.pllLocked then .next s else done s (s.declareLock lane)

/-- LANE_LOCK_LOST (R368). -/
def execLaneLockLost (lane : Nat) (s : State) : Out :=
  if 128 ≤ lane then .fault .noSuchUnit
  else if !s.aux.pllLocked then .next s
  else if !(s.lane lane).lock then .next s
  else done s (s.loseLock lane)

/-! ### Cell slots of the lanes (R330, R379, R380, R425) -/

/-- The first waiting cell that may go: a control cell only where `ctrl` says so. -/
def takeWaiting (ctrl : Bool) : List Cell → Option (Cell × List Cell)
  | [] => none
  | c :: r => if c.type != 4 || ctrl then some (c, r) else (takeWaiting ctrl r).map (fun x => (x.1, c :: x.2))

/-- One cell slot of a lane: the first cell that waits for it goes, a control cell at most once in 64 slots (R425). The cells of a
lane that has failed are lost; one taken out by FABRIC_LANE_ADMIN sends its last cells (R373). -/
def State.laneSlot (s : State) (slot l : Nat) : State :=
  let x := s.lane l
  let q := s.fab.laneQ.getD l []
  let put (r : List Cell) : State := { s with fab.laneQ := if r.isEmpty then s.fab.laneQ.del l else s.fab.laneQ.set l r }
  if !s.sends (lanePlane l) || !x.trained || !x.lock || x.removed then put []
  else match takeWaiting (x.ctrlSlot.all (fun n => n + 64 ≤ slot)) q with
    | none => put q
    | some (c, r) =>
      let a := put r
      let b := { a with fab.cells := a.fab.cells ++ [(l, cellSealed c)] }.bump 1013 0 c.plane c.type
      if c.type == 4 then b.setLane l { x with ctrlSlot := some slot } else b

/-- R330: the pending credit request that is sent next: the class that the dispatch profile selects, its VOQs in turn. It goes in a
credit cell of its own (DESIGN CHOICE), on the plane of credit cells, where one is usable (R388). -/
def State.requestSlot (s : State) : State :=
  let start (tc : Nat) : Nat := tagMax (s.fab.reqV.getD (s.classNode tc).set 0) (s.fab.reqF.getD tc 0)
  let cls := (List.range 8).filter (fun tc => s.fab.reqs.any (fun e => e.1 % 8 == tc))
  match pickChild (cls.map (fun tc => (tc, (s.classNode tc).set, start tc))) with
  | none => s
  | some tc =>
    match s.fab.reqs.find? (fun e => e.1 % 8 == tc) with
    | none => s
    | some e =>
      let c := s.classNode tc
      let a := { s with
        fab.reqs := s.fab.reqs.erase e, fab.reqV := setAt s.fab.reqV c.set (start tc)
        fab.reqF := s.fab.reqF.set tc (finishTag (start tc) 1 c.weight) }
      let f := e.1 / 1024
      let k := a.creditPlane f
      if a.usable f k then
        a.sendCell k 0 (plainCell 2 f (toBe 2 1 ++ zeros 2 ++ toBe 4 ((if e.2 then 1 else 2) * 1073741824 + e.1)))
      else a

/-- The number of cell slots that a lane has had: 2,176 bits at 200 Gb/s are 8.16 ticks (R367). -/
def cellSlots (ticks : Nat) : Nat := 100 * ticks / 816

/-- A tick of the fabric: in a new cell slot one pending credit request joins the cells that wait, and every lane with a waiting
cell sends one. -/
def State.fabricSlots (s : State) : State :=
  let n := cellSlots s.time.ticks
  if n == cellSlots (s.time.ticks - 1) then s
  else
    let a := if s.fab.reqs.isEmpty then s else s.requestSlot
    (a.fab.laneQ.map Prod.fst).foldl (fun (z : State) l => z.laneSlot n l) a

/-! ### The commands of class 0x09 -/

/-- R415: an FDI leaves the peer table: every VOQ of its system ports is flushed under code 0x4F. -/
def State.removePeer (s : State) (f : Nat) : State :=
  let t : State := { s with
    fab.peers := s.fab.peers.del f, fab.sending := s.fab.sending.filter (fun e => e.1 / 1024 != f) }
  ((t.buf.queues.filter (fun e => isVoq e.1 && e.1 / 1024 == f)).map Prod.fst).foldl (fun (a : State) q =>
    (a.flushQueue q (fun p x => x.dropNoPeer p)).voqEdge a q) t |>.refreshTm

/-- An FDI enters the peer table, or stays in it. -/
def State.addPeer (s : State) (f : Nat) (byManager : Bool) : State :=
  if s.isPeer f then s else s.setPeer f { present := true, byManager }

/-- FABRIC_CONFIG (R547, Table 10-11). A new own FDI takes the place of the old one in the peer table. -/
def fabricConfigSpec : CmdSpec :=
  { opcode := 0x0901, long := fun b => 12 ≤ b.length, clean := fun b => flagsIn b 1 1 && rsv b 11 1
    mode := fun _ s => if s.mode.mode == mdConfigure then 0 else stWrongMode }

def cmdFabricConfig (c : Cmd) (s : State) : Res :=
  gate fabricConfigSpec (fun c s =>
    let b := c.payload
    if !inRange (le b 2 2) 1 50 || !inRange (le b 4 2) 1 1000 || !inRange (byteAt b 6) 1 100 || !inRange (byteAt b 7) 1 100 ||
        !inRange (le b 8 2) 1 1000 || 4 < byteAt b 10 then Res.err s stBadParam
    else
      let f := byteAt b 0
      let t := if f == s.fab.fdi then s else (s.removePeer s.fab.fdi).addPeer f false
      { st := State.noteIdentity { t with
          fab.fdi := f, fab.early := bit (byteAt b 1) 0, fab.reseqUs := le b 2 2, fab.reasmUs := le b 4 2
          fab.windowMs := byteAt b 6, fab.upHoldMs := byteAt b 7, fab.keepUs := le b 8 2, fab.keepUnits := byteAt b 10 } }) c s

def execFabricConfig (c : Cmd) (s : State) : Out := serve c cmdFabricConfig s

/-- FABRIC_PEER_SET (R415). The own FDI stays in the table (R407). -/
def fabricPeerSetSpec : CmdSpec := { opcode := 0x0902, long := fun b => 4 ≤ b.length, clean := fun b => rsv b 2 2 }

def cmdFabricPeerSet (c : Cmd) (s : State) : Res :=
  gate fabricPeerSetSpec (fun c s =>
    let f := byteAt c.payload 0
    let on := byteAt c.payload 1
    if 1 < on || (on == 0 && f == s.fab.fdi) then Res.err s stBadParam
    else { st := if on == 1 then s.addPeer f false else if s.isPeer f then s.removePeer f else s }) c s

def execFabricPeerSet (c : Cmd) (s : State) : Out := serve c cmdFabricPeerSet s

/-- PROTECT_CLASS_SET (R400). -/
def protectClassSetSpec : CmdSpec :=
  { opcode := 0x0903, long := fun b => 32 ≤ b.length
    clean := fun b => (List.range 8).all (fun i => flagsIn b (4 * i) 1 && rsv b (4 * i + 3) 1) }

def cmdProtectClassSet (c : Cmd) (s : State) : Res :=
  gate protectClassSetSpec (fun c s =>
    let b := c.payload
    let get (i : Nat) : ProtClass := { prot := bit (byteAt b (4 * i)) 0, base := byteAt b (4 * i + 1), count := byteAt b (4 * i + 2) }
    let l := (List.range 8).map get
    if l.any (fun x => 15 < x.base || !([1, 2, 4, 8].contains x.count) || 16 < x.base + x.count) then Res.err s stBadParam
    else { st := { s with fab.prot := numbered 0 l }.refreshTm }) c s

def execProtectClassSet (c : Cmd) (s : State) : Out := serve c cmdProtectClassSet s

def State.credit (s : State) (p : Nat) : Credit := s.fab.credits.getD p {}
def State.setCredit (s : State) (p : Nat) (x : Credit) : State := { s with fab.credits := s.fab.credits.set p x }

/-- CREDIT_PROFILE_SET (R382, R383, R429). -/
def creditProfileSetSpec : CmdSpec :=
  { opcode := 0x0904, long := fun b => 40 ≤ b.length
    clean := fun b => rsv b 2 2 && (List.range 8).all (fun i => rsv b (9 + 4 * i) 1) }

def cmdCreditProfileSet (c : Cmd) (s : State) : Res :=
  gate creditProfileSetSpec (fun c s =>
    let b := c.payload
    let p := byteAt b 0
    if !(s.portExists p || p == 127) then Res.err s stNotFound
    else if !inRange (byteAt b 1) 100 125 || !inRange (le b 4 4) 256 1048576 ||
        (List.range 8).any (fun i => 2 < byteAt b (8 + 4 * i) || !inRange (le b (10 + 4 * i) 2) 1 4096) then Res.err s stBadParam
    else
      let x := s.credit p
      { st := s.setCredit p { x with
          ratio := byteAt b 1, stop := le b 4 4
          classes := (List.range 8).map (fun i =>
            let y := x.classes.getD i {}
            let k := byteAt b (8 + 4 * i)
            (i, { y with set := k, weight := le b (10 + 4 * i) 2, sTag := if k == y.set then y.sTag else x.v.getD k 0 })) } })
    c s

def execCreditProfileSet (c : Cmd) (s : State) : Out := serve c cmdCreditProfileSet s

/-- PLANE_ADMIN (R410): a plane set down sends nothing and is usable toward no peer. -/
def planeAdminSpec : CmdSpec := { opcode := 0x0905, long := fun b => 2 ≤ b.length }

def cmdPlaneAdmin (c : Cmd) (s : State) : Res :=
  gate planeAdminSpec (fun c s =>
    let k := byteAt c.payload 0
    let up := byteAt c.payload 1
    if 1 < k || 1 < up then Res.err s stBadParam
    else
      let l := s.fab.planesDown.filter (fun x => x != k)
      if up == 1 then { st := { s with fab.planesDown := l }.reviewPeers 2 }
      else { st := { s with fab.planesDown := l ++ [k] }.planeDownAll k 2 }) c s

def execPlaneAdmin (c : Cmd) (s : State) : Out := serve c cmdPlaneAdmin s

/-- PLANE_RESTORE (R421, R422): refused while the plane has not completed R418 toward a peer it names. -/
def planeRestoreSpec : CmdSpec := { opcode := 0x0906, long := fun b => 4 ≤ b.length, clean := fun b => rsv b 1 1 }

def cmdPlaneRestore (c : Cmd) (s : State) : Res :=
  gate planeRestoreSpec (fun c s =>
    let k := byteAt c.payload 0
    let f := le c.payload 2 2
    let l := if f == 0xFFFF then s.peerList else [f]
    if 1 < k || (255 < f && f != 0xFFFF) then Res.err s stBadParam
    else if f != 0xFFFF && !s.isPeer f then Res.err s stNotFound
    else if l.any (fun g => !((s.peer g).plane k).protecting) then Res.err s stRefused
    else
      let t := l.foldl (fun (a : State) g => a.updPlane g k (fun x => { x with restored := true })) s
      { st := (t.raise 0x0983 (d4 f ++ d4 k)).refreshTm }) c s

def execPlaneRestore (c : Cmd) (s : State) : Out := serve c cmdPlaneRestore s

/-- FABRIC_LANE_ADMIN (R372, R373). -/
def fabricLaneAdminSpec : CmdSpec := { opcode := 0x0907, long := fun b => 2 ≤ b.length }

def cmdFabricLaneAdmin (c : Cmd) (s : State) : Res :=
  gate fabricLaneAdminSpec (fun c s =>
    let l := byteAt c.payload 0
    let on := byteAt c.payload 1
    let x := s.lane l
    let live (t : State) : Nat := (t.liveLanes (lanePlane l) (laneGroup l)).length
    if 127 < l || 1 < on then Res.err s stBadParam
    else if on == 0 then
      if x.adminOut then { st := s }
      else
        let t := s.setLane l { x with adminOut := true }
        { st := ((t.raise 0x0986 (d4 l ++ d4 3 ++ d4 (live t))).lanesCond).afterLane l }
    else if !x.adminOut then { st := s }
    else
      let t := s.setLane l { x with adminOut := false }
      let u := if (t.lane l).live then t.raise 0x0987 (d4 l ++ d4 (live t)) else t
      { st := ((u.noteGroup s l).lanesCond.reviewPeers 3).refreshTm }) c s

def execFabricLaneAdmin (c : Cmd) (s : State) : Out := serve c cmdFabricLaneAdmin s

/-- The record of one FDI in Table 10-14. -/
def State.peerRecord (s : State) (f : Nat) : Bytes :=
  let p := s.peer f
  let fl := if p.present then
      1 + 2 * b2n p.a.usable + 4 * b2n p.b.usable + 8 * b2n (!p.a.protecting) + 16 * b2n (!p.b.protecting) +
        32 * b2n p.a.restored + 64 * b2n p.b.restored
    else 0
  toLe 1 fl ++ toLe 1 p.mode ++ zeros 2 ++ toLe 4 p.epoch ++ toLe 4 p.a.lastT32.toNat ++ toLe 4 p.b.lastT32.toNat

/-- FABRIC_STATUS_GET (R762, Table 10-14). -/
def fabricStatusGetSpec : CmdSpec := { opcode := 0x0908, size := fun _ => 4128, reads := true }

def cmdFabricStatusGet (c : Cmd) (s : State) : Res :=
  gate fabricStatusGetSpec (fun _ s =>
    { st := s
      result := toLe 1 s.fab.fdi ++ zeros 7 ++
        (List.range 16).flatMap (fun i => toLe 1 (s.liveLanes (i / 8) (i % 8)).length) ++ zeros 8 ++
        (List.range 256).flatMap s.peerRecord }) c s

def execFabricStatusGet (c : Cmd) (s : State) : Out := serve c cmdFabricStatusGet s

/-- Table 10-13. -/
def fabDims : List (Nat × Nat) :=
  [(2, 16), (2, 16), (8, 1), (2, 1), (2, 1), (1, 1), (1, 1), (1, 1), (1, 1), (1, 1), (1, 1), (1, 1), (2, 1), (2, 1), (1, 1),
   (1, 1), (1, 1), (1, 1), (128, 1), (128, 1)]

/-- FABRIC_COUNTERS_GET (R745). -/
def fabricCountersGetSpec : CmdSpec := { opcode := 0x0909, size := fun _ => snapSize fabDims, reads := true }

def cmdFabricCountersGet (c : Cmd) (s : State) : Res :=
  gate fabricCountersGetSpec (fun _ s => { st := s, result := s.snap 1013 fabDims }) c s

def execFabricCountersGet (c : Cmd) (s : State) : Out := serve c cmdFabricCountersGet s

end Sys2Proof.Machine
end

