-- ==== Sys2Proof/Machine/Cells.lean ====
section
/-! DEFINITION. Data cells (R374-R377, R389-R399), the eliminator (R400-R406), expansion at egress (R430-R432) and credits
(R381-R387) of 10_fabric.md and 11_egress_editing.md. -/
namespace Sys2Proof.Machine
open Sys2Proof

/-! ### The packet header across the fabric (Tables 07-1, 11-3, 11-4, R377) -/

def EditWord.encode (e : EditWord) : Nat :=
  e.op * 536870912 + b2n e.ttlPipe * 268435456 + e.popCount * 67108864 + b2n e.ptp * 33554432 + e.newLabel

def editWordOf (v : Nat) : EditWord :=
  { op := field v 31 29, ttlPipe := bit v 28, popCount := field v 27 26, ptp := bit v 25, newLabel := field v 19 0 }

/-- The 32-byte header. A timestamp request (R519) travels in its reserved bytes 12-15: bit 31 and the tag. -/
def QPkt.header (p : QPkt) (frameLen : Nat) : Bytes :=
  toBe 4 p.entry.toNat ++ toBe 2 frameLen ++ toBe 1 p.tc ++
    toBe 1 (p.colour + 4 * p.ecn + 16 * b2n p.ce + 32 * b2n p.prot + 64 * b2n p.shared.isSome) ++ toBe 4 p.queue ++
    toBe 4 ((p.tsReq.map (fun t => 2147483648 + t)).getD 0) ++ toBe 4 (2147483648 * b2n p.mcast + p.dest) ++
    toBe 4 ((p.encap.map (fun e => 2147483648 + e)).getD 0) ++ toBe 4 p.rxT32.toNat ++ toBe 4 p.edit.encode

/-- The packet that a reassembled byte string holds: header and frame, whose last 4 bytes are the FCS. -/
def packetFrom (b : Bytes) : QPkt :=
  let fl := be b 7 1
  let d := be b 16 4
  let e := be b 20 4
  let t := be b 12 4
  { pid := 0, entry := BitVec.ofNat 32 (be b 0 4), frameLen := be b 4 2, tc := be b 6 1 % 8, colour := fl % 4, ecn := fl / 4 % 4
    ce := bit fl 4, prot := bit fl 5, mcast := bit d 31, dest := d % 65536
    encap := if bit e 31 then some (e % 262144) else none
    rxT32 := BitVec.ofNat 32 (be b 24 4), edit := editWordOf (be b 28 4), hashA := 0, port := d % 128
    frame := slice b 32 (be b 4 2 - 4), cells := cellsFor (be b 4 2)
    tsReq := if bit t 31 then some (t % 65536) else none }

/-! ### Sending (R327-R330, R385-R392, R398) -/

/-- Sends one data cell on each plane of a bitmap, in the link group of its packet, numbered per (destination, plane, link
group) (R392); 256 bytes of credit once (R385). -/
def State.sendData (s : State) (q planes g : Nat) (c : Cell) : State :=
  let dst := q / 1024
  let t := [0, 1].foldl (fun (a : State) k =>
    if !bit planes k then a
    else match a.groupFor k g with
      | none => a
      | some h =>
        let key := 8 * (2 * dst + k) + h
        let n := a.fab.cseq.getD key 0
        (({ a with
          fab.cseq := a.fab.cseq.set key ((n + 1) % 65536)
          fab.ctxLast := a.fab.ctxLast.set (ctxKey dst k h c.tc c.prot c.stream) n }.sendCell k h { c with dst, cseq := n })).perfCount
            1 0x23 k 1) s
  t.updQueue q (fun x => { x with credit := x.credit - 256 })

/-- The cells of a packet as they differ from each other: the payload and the marks of start and end. -/
def State.packetCell (s : State) (q : Nat) (p : QPkt) (pseq : Nat) (bytes : Bytes) (i : Nat) (early : Bool) : Cell :=
  let n := ceilDiv bytes.length 256
  let stream := s.streamOf p
  { type := 0, src := s.fab.fdi, dst := q / 1024, plane := 0, lgroup := 0, cseq := 0, tc := p.tc, prot := stream.isSome
    stream := stream.getD 0, pseq := if stream.isSome then pseq else 0, sop := i == 0, eop := i + 1 == n, abort := false
    early := early && i == 0, startSlot := 0, endOff := if i + 1 == n then (bytes.length - 1) % 256 else 0
    payload := padTo 256 (slice bytes (256 * i) 256) }

/-- The bytes of a packet in its cells (R374); one dispatched early announces its port's maximum frame (R397). -/
def State.packetBytes (s : State) (p : QPkt) (early : Bool) : Bytes :=
  p.header (if early then (s.prt p.port).cfg.maxFrame else p.frameLen) ++ p.frame ++ fcsOf p.frame

/-- R376: the cell that ends the newest packet of a packet's context on a plane, while it still waits for its lane, with that lane. -/
def State.endingCell (s : State) (k dst : Nat) (p : QPkt) : Option (Nat × Cell) :=
  (s.groupFor k (s.groupOf p)).bind fun h =>
    (s.fab.ctxLast.get? (ctxKey dst k h p.tc (s.streamOf p).isSome ((s.streamOf p).getD 0))).bind fun n =>
      (s.fab.laneQ.flatMap (fun e => e.2.map (fun c => (e.1, c)))).find? (fun e =>
        e.2.type == 0 && e.2.dst == dst && e.2.plane == k && e.2.lgroup == h && e.2.cseq == n && e.2.eop && !e.2.sop && !e.2.abort)

/-- Bytes of a cell from the first slot after its ending packet. -/
def slotRoom (c : Cell) : Nat := 256 - 32 * (c.endOff / 32 + 1)

/-- R376: the start of a packet takes the slots after the end of the one before it. -/
def State.packStart (s : State) (lane : Nat) (c : Cell) (pseq : Nat) (bytes : Bytes) : State :=
  let d := { c with
    sop := true, startSlot := c.endOff / 32 + 1, pseq := pseq
    payload := c.payload.take (256 - slotRoom c) ++ bytes.take (slotRoom c) }
  { s with fab.laneQ := s.fab.laneQ.upd lane [] (fun l => l.map (fun x => if x == c then d else x)) }

/-- Sends a whole packet from its first byte, or from byte `from_` where its start is packed into a cell already (R376, R391). -/
def State.sendBytes (s : State) (q planes pseq : Nat) (p : QPkt) (from_ : Nat) : State :=
  let b := (s.packetBytes p false).drop from_
  (List.range (ceilDiv b.length 256)).foldl (fun (a : State) i =>
    let c := s.packetCell q p pseq b i false
    a.sendData q planes (s.groupOf p) { c with sop := c.sop && from_ == 0 }) s

/-- R376: sends a whole packet, its start in the cell that ends the packet before it in its context where that cell still waits
on every plane that carries it, and the packet ends in a later cell (R375: a cell holds one end). A cell is built when it leaves for
its lane, and a packet dispatched early is not ready (DESIGN CHOICES). -/
def State.sendWhole (s : State) (q planes pseq : Nat) (p : QPkt) : State :=
  let ends := ([0, 1].filter (fun k => bit planes k)).map (fun k => s.endingCell k (q / 1024) p)
  let rooms := ends.map (fun e => (e.map (fun x => slotRoom x.2)).getD 0)
  let r := rooms.headD 0
  if 0 < r && r < 32 + p.frameLen && rooms.all (fun x => x == r) then
    let b := s.packetBytes p false
    ((ends.filterMap id).foldl (fun (a : State) e => a.packStart e.1 e.2 pseq b) s).sendBytes q planes pseq p r
  else s.sendBytes q planes pseq p 0

/-- Sends cells `from_` to `to_ - 1` of the head packet of a VOQ on the planes of a bitmap. -/
def State.sendCells (s : State) (q planes pseq : Nat) (p : QPkt) (early : Bool) (from_ to_ : Nat) : State :=
  let b := s.packetBytes p early
  (List.range (to_ - from_)).foldl (fun (a : State) i =>
    a.sendData q planes (s.groupOf p) (s.packetCell q p pseq b (from_ + i) early)) s

/-- The head packet of a VOQ has been sent: its cells are released (R256). -/
def State.sentHead (s : State) (q : Nat) (p : QPkt) : State :=
  let t := { s with fab.sending := s.fab.sending.del q }
  ((t.noteRelease q p).popHead q).voqEdge s q

/-- R312, R313, R327: the tags of a selection of VOQ `q`, of class `tc`, for a packet of `len` bytes. -/
def State.chargeDispatch (s : State) (q len : Nat) : State :=
  let tc := q % 8
  let c := s.classNode tc
  let x := s.queue q
  let fc := finishTag c.sTag len c.weight
  let fq := finishTag x.sTag len 1
  let t := s.setQueue q { x with sTag := fq, fTag := fq }
  let u := t.setClass tc { c with sTag := fc, fTag := fc, v := x.sTag, maxF := tagMax c.maxF fq }
  { u with
    sched.rootV := setAt s.sched.rootV c.set c.sTag
    sched.rootMaxF := setAt s.sched.rootMaxF c.set (tagMax (s.sched.rootMaxF.getD c.set 0) fc) }

/-- R310, R311, R327: the VOQ that the dispatch scheduler selects. -/
def State.pickVoq (s : State) : Option Nat :=
  (pickChild (((List.range 8).filter (fun tc => (s.classNode tc).elig)).map (fun tc =>
    (tc, (s.classNode tc).set, (s.classNode tc).sTag)))).bind fun tc =>
      pickChild ((s.buf.queues.filter (fun e => isVoq e.1 && e.1 % 8 == tc && e.2.elig)).map (fun e => (e.1, 2, e.2.sTag)))

/-- Sends the packet selected: whole, or all but its last cell while its tail has not arrived (R18, R391, R398, R401). -/
def State.dispatchHead (s : State) (q : Nat) (p0 : QPkt) : State :=
  let dst := q / 1024
  let p := { p0 with prot := (s.streamOf p0).isSome }
  let planes := toBitmap (s.planesFor dst p)
  let skey := 16 * dst + (s.streamOf p).getD 0
  let pseq := s.fab.pseq.getD skey 0
  let a := if p.prot then { s with fab.pseq := s.fab.pseq.set skey ((pseq + 1) % 16777216) } else s
  let early := p.tail != .here
  let b := (a.chargeDispatch q p.frameLen).bump 809 3
  let n := ceilDiv (32 + p.frameLen) 256
  if early then
    let c := b.updQueue q (fun x => { x with pkts := p :: x.pkts.drop 1 })
    (c.sendCells q planes pseq p true 0 (n - 1)) |> fun d => { d with fab.sending := d.fab.sending.set q planes }
  else (b.sendWhole q planes pseq p).sentHead q p

/-- Selects VOQs until one packet is sent; expired and lost packets at the head are removed and charged to nothing
(R282, R288, R326). A packet of which HBM still holds cells gives up those on die and is selected again once the rest is there
(DEDUCED from R258 and R267). -/
def State.selectDispatch : Nat → State → State
  | 0, s => s
  | fuel + 1, s =>
    match s.pickVoq with
    | none => s
    | some q =>
      match (s.queue q).pkts with
      | [] => s
      | p :: _ =>
        if s.expired q p then State.selectDispatch fuel ((s.ageHead q).voqEdge s q).refreshTm
        else if p.lost then State.selectDispatch fuel ((s.dropHead q 0x3A).voqEdge s q).refreshTm
        else
          let h := State.gather ((s.queue q).mid.length + 1) s q
          if h.1 then (h.2.dispatchHead q p).refreshTm else State.selectDispatch fuel h.2.refreshTm

/-- DISPATCH_SELECTION (R310-R316, R327-R330). -/
def execDispatchSelection (s : State) : Out :=
  if !s.dataPlaneOn then .next s
  else done s (s.refreshTm.selectDispatch ((s.buf.queues.map (fun e => e.2.pkts.length + 1)).sum + 1))

/-! ### The tail of a frame (R61, R114, R269, R397, R398, R750) -/

/-- The VOQs that hold a packet whose tail has not arrived, of a port: the number of the oldest such packet. -/
def State.oldestTail (s : State) (port : Nat) : Option Nat :=
  (s.buf.queues.flatMap (fun e => if isVoq e.1 then
    (e.2.pkts.filter (fun p => p.port == port && p.tail != .here)).map (fun p => p.pid) else [])).foldl
    (fun (m : Option Nat) n => some (match m with | none => n | some k => Nat.min k n)) none

/-- Marks the tail of a packet as arrived in a queue: its surplus charge goes; `free` says that its cells count there. -/
def State.tailHere (s : State) (q pid extra : Nat) (free : Bool) : State :=
  (s.updQueue q (fun x => { x with
    extra := x.extra - extra
    pkts := x.pkts.map (fun p => if p.pid == pid then { p with tail := .here, extra := 0, verify := false } else p) })).partAdd q 0
    (if free then extra else 0)

/-- Takes a packet out of a queue whose tail turned out bad (R269). -/
def State.removePkt (s : State) (q pid : Nat) : State := (s.leave q pid).settleQueue q

/-- What the tail does to the packet in one VOQ: a good one completes a packet in hand; a bad one ends it with the abort cell
(R398), or frees a packet that waits. -/
def State.tailAt (s : State) (q pid : Nat) (good first : Bool) : State :=
  let x := s.queue q
  match x.pkts.find? (fun p => p.pid == pid) with
  | none => s
  | some p =>
    let skey := 16 * (q / 1024) + (s.streamOf p).getD 0
    let pseq := (s.fab.pseq.getD skey 0 + 16777215) % 16777216
    let n := ceilDiv (32 + p.frameLen) 256
    match s.fab.sending.get? q, x.pkts.head?.map (fun h => h.pid == pid) with
    | some planes, some true =>
      if good then
        let t := s.tailHere q pid p.extra first
        (t.sendCells q planes pseq p true (n - 1) n).sentHead q { p with extra := 0 }
      else
        let cell := s.packetCell q p pseq [] 1 false
        let t := if n == 1 then s else
          (s.sendData q planes (s.groupOf p) { cell with eop := true, abort := true, payload := zeros 256 }).bump 1013 5
        ({ t with fab.sending := t.fab.sending.del q }.popHead q).voqEdge t q
    | _, _ => if good then s.tailHere q pid p.extra first else (s.removePkt q pid).voqEdge s q

/-- The tail of a packet of this port has arrived: every queue that holds a copy settles it, a shared record once. -/
def State.tailAll (s : State) (pid : Nat) : State :=
  let hold := s.buf.queues.filter (fun e => isVoq e.1 && e.2.pkts.any (fun p => p.pid == pid))
  let tailOf (x : Queue) : Option QPkt := x.pkts.find? (fun p => p.pid == pid)
  let good := hold.all (fun e => (tailOf e.2).all (fun p => p.tail == .good))
  (hold.foldl (fun (a : List Nat × State) e =>
    let sh := (tailOf e.2).bind (fun p => p.shared)
    let first := match sh with | none => true | some k => !a.1.contains k
    (a.1 ++ sh.toList, a.2.tailAt e.1 pid good first)) ([], s)).2

/-- R114: a packet in hand of more than one cell ends with an abort because its ICV failed. -/
def State.abortsSecured (s : State) (pid : Nat) : Bool :=
  s.buf.queues.any (fun e => isVoq e.1 && (s.fab.sending.get? e.1).isSome &&
    e.2.pkts.head?.any (fun p => p.pid == pid && p.tail == .bad 0x10 && 224 < p.frameLen))

/-- FRAME_TAIL (R750): the tail of the oldest packet of the port that waits for one. -/
def execFrameTail (port : Nat) (s : State) : Out :=
  if 96 ≤ port then .fault .noSuchUnit
  else if !s.dataPlaneOn then .next s
  else match s.oldestTail port with
    | none => .next s
    | some pid =>
      done s ((s.tailAll pid).count 307 6 port 0 (b2n (s.abortsSecured pid))).refreshTm

/-! ### Receiving data cells (R374, R375, R393-R399) -/

def State.setCtx (s : State) (k : Nat) (x : Ctx) : State := { s with fab.ctxs := s.fab.ctxs.set k x }

/-- A packet starts in a context (R273, R375, R378): its cells are reserved for the length it announces, or it is dropped. -/
def State.openCtx (s : State) (k : Nat) (c : Cell) (b : Bytes) : State :=
  let p := packetFrom b
  let n := cellsFor p.frameLen
  let x : Ctx := { bytes := b, open_ := true, last := s.time.ticks, early := c.early, pseq := c.pseq, lgroup := c.lgroup }
  if !p.mcast && p.dest / 128 != s.fab.fdi then (s.setCtx k { x with discard := true }).dropFab 0x4E
  else if Nat.min (s.buf.reasmCells - s.buf.reasmUsed) s.storeFree < n then
    ((s.setCtx k { x with discard := true }).bump 711 1 9).perfCount 1 0x21 1 2
  else ((s.setCtx k { x with cells := n }).reasmAdd n 0).perfCount 1 0x21 1 1

/-- The FCS that ends a reassembled frame of `len` bytes is right. -/
def fcsRight (bytes : Bytes) (len : Nat) : Bool := fcsOf (slice bytes 32 (len - 4)) == slice bytes (28 + len) 4

/-- A packet ends in a context: it leaves reassembly, its length checked, or set from the bytes when it came early (R397). R394: a
packet that was open while a cseq was given up had a cell there unless its length and its FCS are right (DESIGN CHOICE: a
missing cell does not show its context). -/
def State.endCtx (s : State) (k src plane : Nat) (c : Cell) : State :=
  let x := s.fab.ctxs.getD k {}
  if x.discard then s.discardCtx k 0x4B
  else
    let len := x.bytes.length - 32
    let ok := (if x.early then inRange len 18 9728 else be x.bytes 4 2 == len) && (!x.gap || fcsRight x.bytes len)
    if !ok then s.discardCtx k 0x4B
    else
      let keep := Nat.min x.cells (cellsFor len)
      let bytes := if x.early then overwrite x.bytes 4 (toBe 2 len) else x.bytes
      let d : Done := { src, plane, stream := c.stream, pseq := x.pseq, prot := c.prot, bytes, cells := keep }
      let t := (s.setCtx k { last := s.time.ticks }).reasmAdd 0 (x.cells - keep)
      if c.prot then { t with fab.copies := t.fab.copies ++ [d] } else { t with fab.done := t.fab.done ++ [d] }

/-- A data cell in its sequence reaches its context (R375, R399). A missing start or end is found from the cells that follow,
and its packet is dropped with code 0x4B (R394). -/
def State.passCell (s : State) (c : Cell) : State :=
  let k := ctxKey c.src c.plane c.lgroup c.tc c.prot c.stream
  let x := s.fab.ctxs.getD k {}
  let slot := 32 * c.startSlot
  let tailBytes := c.payload.take (c.endOff + 1)
  if c.abort then (s.discardCtx k 0x48).bump 1013 6
  else
    let startAfter (t : State) : State := t.openCtx k c (c.payload.drop slot)
    if x.open_ && c.eop && !(c.sop && slot ≤ c.endOff) then
      let t := (s.setCtx k { x with bytes := x.bytes ++ tailBytes }).endCtx k c.src c.plane c
      if c.sop then startAfter t else t
    else if x.open_ && !c.sop then s.setCtx k { x with bytes := x.bytes ++ c.payload, last := s.time.ticks }
    else
      let t := s.discardCtx k 0x4B
      if c.sop && c.eop && slot ≤ c.endOff then
        (t.openCtx k c (slice c.payload slot (c.endOff + 1 - slot))).endCtx k c.src c.plane c
      else if c.sop then startAfter (if c.eop then t.dropFab 0x4B else t)
      else if c.eop then t.dropFab 0x4B
      else (t.dropFab 0x4B).setCtx k { open_ := true, discard := true, last := s.time.ticks, lgroup := c.lgroup }

def reseqKey (src plane lgroup : Nat) : Nat := 8 * (2 * src + plane) + lgroup

/-- Passes on the waiting cells that are next in order. -/
def State.drainSeq : Nat → State → Nat → State
  | 0, s, _ => s
  | n + 1, s, key =>
    let x := s.fab.reseq.getD key {}
    match x.waiting.find? (fun e => e.2.cseq == x.next) with
    | none => s
    | some e =>
      let y := { x with next := (x.next + 1) % 65536, waiting := x.waiting.erase e }
      State.drainSeq n ({ s with fab.reseq := s.fab.reseq.set key y }.passCell e.2) key

/-- R394: gives up what is missing before the nearest waiting cell, and passes on what follows; every packet that is open in the
sequence may have had a cell there, which its end shows. -/
def State.giveUp (s : State) (src plane lgroup : Nat) : State :=
  let key := reseqKey src plane lgroup
  let x := s.fab.reseq.getD key {}
  let near := x.waiting.foldl (fun (m : Option Nat) e =>
    let d := (e.2.cseq + 65536 - x.next) % 65536
    some (match m with | none => d | some k => Nat.min k d)) none
  match near with
  | none => s
  | some d =>
    let t := { s with
      fab.reseq := s.fab.reseq.set key { x with next := (x.next + d) % 65536 }
      fab.ctxs := s.fab.ctxs.map (fun e =>
        if ctxOn src plane e.1 && e.2.lgroup == lgroup && e.2.open_ then (e.1, { e.2 with gap := true }) else e) }
    State.drainSeq (x.waiting.length + 1) t key

/-- A good data cell enters its resequencer (R393, R394): in sequence it passes with what waits behind it, ahead of sequence it
waits, late or double it is left. -/
def State.takeCell (t : State) (cell : Cell) : State :=
  let key := reseqKey cell.src cell.plane cell.lgroup
  let x := t.fab.reseq.getD key {}
  let next := if x.started then x.next else cell.cseq
  let d := (cell.cseq + 65536 - next) % 65536
  let u := t.perfCount 1 0x23 cell.plane 2
  if d == 0 then
    let v := ({ u with fab.reseq := u.fab.reseq.set key { x with started := true, next := (next + 1) % 65536 } }).passCell cell
    State.drainSeq (x.waiting.length + 1) v key
  else if 32768 ≤ d || x.waiting.any (fun e => e.2.cseq == cell.cseq) then u
  else
    let y := { x with waiting := x.waiting ++ [(t.time.ticks, cell)] }
    let v := { u with fab.reseq := u.fab.reseq.set key y }
    if 1024 ≤ y.waiting.length then v.giveUp cell.src cell.plane cell.lgroup else v

/-- DATA_CELL (R368, R378, R393, R394). -/
def execDataCell (lane : Nat) (cell : Cell) (s : State) : Out :=
  receiveCell 0 lane cell s (fun t => t.takeCell cell)

/-- RESEQUENCE_TIMEOUT (R394): of the cells that wait, all later than the missing cseq, the one that arrived first decides. -/
def execResequenceTimeout (src plane lgroup : Nat) (s : State) : Out :=
  if 256 ≤ src || 2 ≤ plane || 8 ≤ lgroup then .fault .noSuchUnit
  else if !s.aux.pllLocked then .next s
  else
    let x := s.fab.reseq.getD (reseqKey src plane lgroup) {}
    if x.waiting.any (fun e => s.ended e.1 (us s.fab.reseqUs)) then done s (s.giveUp src plane lgroup) else .next s

/-- REASSEMBLY_TIMEOUT (R395): of a protected context, `tc` is the stream. -/
def execReassemblyTimeout (src plane lgroup tc : Nat) (prot : Bool) (s : State) : Out :=
  if 256 ≤ src || 2 ≤ plane || 8 ≤ lgroup || 16 ≤ tc || (8 ≤ tc && !prot) then .fault .noSuchUnit
  else if !s.aux.pllLocked then .next s
  else
    let k := ctxKey src plane lgroup tc prot tc
    let x := s.fab.ctxs.getD k {}
    if !x.open_ || !s.ended x.last (us s.fab.reasmUs) then .next s else done s (s.discardCtx k 0x4C)

/-! ### The eliminator (R402-R405) -/

/-- R403: what becomes of a protected copy: delivered, a duplicate, or dropped under a code; and the state. -/
inductive Elim where
  | deliver | duplicate | drop (code : Nat)
deriving DecidableEq, Repr

def State.eliminate (s : State) (src stream plane seq : Nat) : Elim × State :=
  let key := 16 * src + stream
  let put (w : Window) : State := { s with fab.windows := s.fab.windows.set key w }
  match s.fab.fences.get? (2 * key + plane) with
  | none => (.drop 0x4A, s)
  | some f =>
    if 8388608 ≤ (seq + 16777216 - f) % 16777216 then (.drop 0x4A, s)
    else match s.fab.windows.get? key with
      | none => (.deliver, put { h := seq, seen := [seq], last := s.time.ticks })
      | some w =>
        let d := (seq + 16777216 - w.h) % 16777216
        if 0 < d && d < 8388608 then
          let inWin (z : Nat) : Bool := (seq + 16777216 - z) % 16777216 < 2048
          (.deliver, put { h := seq, seen := w.seen.filter inWin ++ [seq], last := s.time.ticks })
        else
          let back := (w.h + 16777216 - seq) % 16777216
          if back < 2048 then
            if w.seen.contains seq then (.duplicate, s)
            else (.deliver, put { w with seen := w.seen ++ [seq], last := s.time.ticks })
          else (.drop 0x49, s)

/-- The oldest completed copy of a stream and plane, and the others. -/
def takeCopy (src plane stream : Nat) : List Done → Option (Done × List Done)
  | [] => none
  | d :: r =>
    if d.src == src && d.plane == plane && d.stream == stream then some (d, r)
    else (takeCopy src plane stream r).map (fun x => (x.1, d :: x.2))

/-- PROTECTED_COPY_COMPLETE (R403, R404). -/
def execProtectedCopyComplete (src plane stream : Nat) (s : State) : Out :=
  if 256 ≤ src || 2 ≤ plane || 16 ≤ stream then .fault .noSuchUnit
  else if !s.aux.pllLocked then .next s
  else match takeCopy src plane stream s.fab.copies with
    | none => .next s
    | some (d, r) =>
      let e := ({ s with fab.copies := r }).eliminate src stream plane d.pseq
      match e.1 with
      | .deliver => done s ({ e.2 with fab.done := e.2.fab.done ++ [d] }.bump 1013 4 plane)
      | .duplicate => done s ((e.2.reasmAdd 0 d.cells).bump 1013 3 plane)
      | .drop code => done s ((e.2.reasmAdd 0 d.cells).dropFab code)

/-- WINDOW_IDLE_EXPIRY (R405). -/
def execWindowIdleExpiry (src stream : Nat) (s : State) : Out :=
  if 256 ≤ src || 16 ≤ stream then .fault .noSuchUnit
  else if !s.aux.pllLocked then .next s
  else match s.fab.windows.get? (16 * src + stream) with
    | none => .next s
    | some w =>
      if s.ended w.last (ms s.fab.windowMs) then
        done s { s with fab.windows := s.fab.windows.del (16 * src + stream) }
      else .next s

/-! ### Placing reassembled packets (R273, R308, R309, R430-R432) -/

/-- R430: offers a device copy to the members of its group in pool order. -/
def State.expand (s : State) (p : QPkt) (base : Nat) (members : List McMember) : State :=
  ((numbered 0 members).foldl (fun (a : Offer) e =>
    let m := e.2
    if a.st.edit.poison.contains (3, base + e.1) then { a with st := a.st.dropMcast 0x5C m.port none }
    else
      let r := a.st.egressQueue m.port p.tc m.encap
      match r.1 with
      | none => { a with st := r.2 }
      | some q =>
        let o := ({ a with st := r.2 }).next q { p with encap := m.encap, dest := m.port, port := m.port }
        { o with st := if o.ok then o.st.bump 1113 5 else o.st }) { st := s }).st

/-- A reassembled packet at its destination: the copies of its multicast group, or its egress queue. -/
def State.deliver (a : State) (p : QPkt) : State :=
  if p.mcast then
    let c := a.bump 1113 4
    if c.edit.poison.contains (2, p.dest) then c.dropMcast 0x5C 127 none
    else match c.mcGroup? p.dest with
      | none => c.dropMcast 0x5B 127 none
      | some g => if g.members.isEmpty then c.dropMcast 0x5B 127 none else c.expand p g.base g.members
  else
    let x := a.egressQueue p.port p.tc p.encap
    match x.1 with
    | none => x.2.tsDropped p.port p.tsReq
    | some q => x.2.takeIn q p

/-- REASSEMBLY_COMPLETE: the oldest reassembled packet enters its egress queue, or is expanded; then its reservation is
released (R273, R431). -/
def execReassemblyComplete (s : State) : Out :=
  match s.fab.done with
  | [] => .next s
  | d :: r =>
    if !s.dataPlaneOn then .next s
    else
      let p := { packetFrom d.bytes with pid := s.buf.pidSeq, cells := cellsFor (be d.bytes 4 2) }
      let a := { s with fab.done := r, buf.pidSeq := s.buf.pidSeq + 1 }
      done s (((a.deliver p).reasmAdd 0 d.cells).refreshTm)

/-! ### Credits (R381-R387) -/

/-- The entries of a credit cell (Table 10-4), its count bounded by what the cell holds. -/
def creditEntries (b : Bytes) : List Nat := (List.range (Nat.min 63 (be b 0 2))).map (fun i => be b (4 + 4 * i) 4)

/-- The VOQs that ask a port of this device, by key 524,288 x source + VOQ. -/
def Credit.asking (x : Credit) (tc : Nat) : List Nat := (x.active.filter (fun e => e.1 % 8 == tc)).map Prod.fst

/-- R381, R314, R315: a VOQ becomes active for a port, or stays so. -/
def Credit.join (x : Credit) (key now : Nat) : Credit :=
  if (x.active.get? key).isSome then { x with active := x.active.set key now }
  else
    let tc := key % 8
    let c := x.classes.getD tc {}
    let v := if (x.asking tc).isEmpty then c.maxF else c.v
    let t := x.tags.getD key (0, 0)
    let alone := !(List.range 8).any (fun k => (x.classes.getD k {}).set == c.set && !(x.asking k).isEmpty)
    let rv := if alone then x.maxF.getD c.set 0 else x.v.getD c.set 0
    let c2 := { c with v := v, sTag := if (x.asking tc).isEmpty then tagMax rv c.fTag else c.sTag }
    { x with
      active := x.active.set key now, classes := x.classes.set tc c2, tags := x.tags.set key (tagMax v t.2, t.2)
      v := setAt x.v c.set rv }

/-- A VOQ is no longer active (R381). -/
def Credit.leave (x : Credit) (key : Nat) : Credit := { x with active := x.active.del key }

/-- CREDIT_REQUEST (R380, R381). -/
def execCreditRequest (rx : LaneCell) (s : State) : Out :=
  receiveCell 2 rx.lane rx.cell s (fun s =>
    (creditEntries rx.cell.payload).foldl (fun (a : State) e =>
      let q := e % 262144
      let p := q / 8 % 128
      let key := 524288 * rx.cell.src + q
      if q / 1024 != a.fab.fdi then a
      else if e / 1073741824 == 1 then a.setCredit p ((a.credit p).join key a.time.ticks)
      else if e / 1073741824 == 2 then a.setCredit p ((a.credit p).leave key)
      else a) s)

/-- CREDIT_REQUEST_REFRESH (R380). -/
def execCreditRequestRefresh (voq : Nat) (s : State) : Out :=
  if 262144 ≤ voq then .fault .noSuchUnit
  else
    let x := s.queue voq
    if x.pkts.isEmpty || !s.fabricOn || !s.ended x.reqAt (us 50) then .next s
    else done s ((s.creditReq voq true).updQueue voq (fun y => { y with reqAt := s.time.ticks }))

/-- VOQ_ACTIVE_TIMEOUT (R381). -/
def execVoqActiveTimeout (src voq : Nat) (s : State) : Out :=
  if 256 ≤ src || 262144 ≤ voq then .fault .noSuchUnit
  else if !s.aux.pllLocked then .next s
  else
    let p := voq / 8 % 128
    let key := 524288 * src + voq
    match (s.credit p).active.get? key with
    | none => .next s
    | some t => if s.ended t (us 200) then done s (s.setCredit p ((s.credit p).leave key)) else .next s

/-- Cells that the egress queues of a port hold, on die and in HBM; for port 127, those that multicast packets hold, a chain that
several queues share once (R383, R429). -/
def State.portCells (s : State) (port : Nat) : Nat :=
  if port == 127 then
    let l := s.buf.queues.flatMap (fun e => if isVoq e.1 then [] else e.2.pkts.filter (fun p => p.mcast))
    let chains := (l.filterMap (fun p => p.shared.map (fun k => (k, p.cells)))).eraseDups
    ((l.filter (fun p => p.shared.isNone)).map (fun p => p.cells)).sum + (chains.map Prod.snd).sum
  else
    ((s.buf.queues.filter (fun e => !isVoq e.1 && s.siteOnPort ((e.1 - 262144) / 8) port)).map (fun e => e.2.len)).sum

/-- R384: sends the grants formed for a source. -/
def State.sendGrants (s : State) (src : Nat) : State :=
  match s.fab.grants.get? src with
  | none => s
  | some g =>
    let t := { s with fab.grants := s.fab.grants.del src }
    let k := t.creditPlane src
    let body := toBe 2 g.entries.length ++ zeros 2 ++ g.entries.flatMap (fun e => toBe 4 (e.2 * 262144 + e.1))
    if t.usable src k then t.sendCell k 0 (plainCell 3 src body) else t

/-- R384: one more unit for a VOQ of a source; a batch of 63 entries goes at once. -/
def State.addGrant (s : State) (src voq : Nat) : State :=
  let g := s.fab.grants.getD src { entries := [], since := s.time.ticks }
  let es := if g.entries.any (fun e => e.1 == voq && e.2 < 63) then
      g.entries.map (fun e => if e.1 == voq && e.2 < 63 then (e.1, e.2 + 1) else e)
    else g.entries ++ [(voq, 1)]
  let t := { s with fab.grants := s.fab.grants.set src { g with entries := es } }
  if 63 ≤ es.length then t.sendGrants src else t

/-- R382, R429: the time a credit unit takes at a port, in 1/1,000 tick; 0 where the port has no rate. -/
def State.unitTime (s : State) (port : Nat) : Nat :=
  let rate := if port == 127 then s.edit.mcastRate else if s.portExists port then modeRate (s.grp (port / 16)).running else 0
  2457600000 / (rate * (s.credit port).ratio)

/-- CREDIT_ISSUE (R310-R316, R382, R383): one unit, when it is due, to the VOQ that the port's credit tree selects. -/
def execCreditIssue (port : Nat) (s : State) : Out :=
  if !(port < 96 || port == 127) then .fault .noSuchUnit
  else
    let x := s.credit port
    let dt := s.unitTime port
    let now := 1000 * s.time.ticks
    if dt == 0 || !s.fabricOn || now < x.budgetAt + dt || x.stop < s.portCells port ||
        s.buf.reasmCells - s.buf.reasmUsed < 4096 then .next s
    else
      let cls := (List.range 8).filter (fun tc => !(x.asking tc).isEmpty)
      match pickChild (cls.map (fun tc => (tc, (x.classes.getD tc {}).set, (x.classes.getD tc {}).sTag))) with
      | none => .next s
      | some tc =>
        match pickChild ((x.asking tc).map (fun k => (k, 2, (x.tags.getD k (0, 0)).1))) with
        | none => .next s
        | some key =>
          let c := x.classes.getD tc {}
          let t := x.tags.getD key (0, 0)
          let fq := finishTag t.1 4096 1
          let fc := finishTag c.sTag 4096 c.weight
          let y := { x with
            budgetAt := Nat.max (x.budgetAt + dt) (now - dt)
            tags := x.tags.set key (fq, fq)
            classes := x.classes.set tc { c with sTag := fc, fTag := fc, v := t.1, maxF := tagMax c.maxF fq }
            v := setAt x.v c.set c.sTag, maxF := setAt x.maxF c.set (tagMax (x.maxF.getD c.set 0) fc) }
          done s (((s.setCredit port y).bump 1013 8).addGrant (key / 524288) (key % 262144))

/-- GRANT_BATCH_TIMEOUT (R384). -/
def execGrantBatchTimeout (src : Nat) (s : State) : Out :=
  if 256 ≤ src then .fault .noSuchUnit
  else if !s.aux.pllLocked then .next s
  else match s.fab.grants.get? src with
    | none => .next s
    | some g => if s.ended g.since (us 1) then done s (s.sendGrants src) else .next s

/-- R387: a VOQ that is empty when credit reaches it keeps no more than it would have kept, for no longer than it would have kept
it; credit that comes after that time is kept for a time of its own (DESIGN CHOICE). -/
def State.boundKept (s : State) (q : Nat) : State :=
  let x := s.queue q
  if !x.pkts.isEmpty then s
  else (s.keepCredit q).updQueue q (fun y => { y with keepAt := x.keepAt.or y.keepAt })

/-- CREDIT_GRANT (R385): for VOQs toward the device that sent it. -/
def execCreditGrant (rx : LaneCell) (s : State) : Out :=
  receiveCell 3 rx.lane rx.cell s (fun s =>
    ((creditEntries rx.cell.payload).foldl (fun (a : State) e =>
      let q := e % 262144
      let n := e / 262144 % 64
      if q / 1024 != rx.cell.src then a
      else
        let x := a.queue q
        let room := (16384 - x.credit).toNat
        let add := 4096 * n
        ((((a.setQueue q { x with credit := x.credit + (Nat.min add room : Nat) }).count 1013 9 0 0 n).count 1013 10 0 0
          (add - room)).perfCount 1 0x23 rx.cell.plane 3 n).boundKept q) s).refreshTm)

/-- CREDIT_KEEP_EXPIRY (R387). -/
def execCreditKeepExpiry (voq : Nat) (s : State) : Out :=
  if 262144 ≤ voq then .fault .noSuchUnit
  else if !s.aux.pllLocked then .next s
  else
    let x := s.queue voq
    if !x.pkts.isEmpty || !((x.keepAt.map (fun t => s.ended t (us s.fab.keepUs))).getD false) then .next s
    else
      done s ((s.setQueue voq { x with credit := min x.credit 0, keepAt := none }).count 1013 11 0 0 x.credit.toNat).refreshTm

end Sys2Proof.Machine
end

