-- ==== Sys2Proof/Machine/Inject.lean ====
section
/-! DEFINITION. Reading an inject frame (R565-R571 of 14_host_interface.md). -/
namespace Sys2Proof.Machine
open Sys2Proof

/-- The byte stream of an inject frame and the pool buffer it lies in, if a handle names one: none where the descriptors break
R570. `data` is what the reads from host memory return. -/
def State.injectStream (s : State) (channel : Nat) (l : List Posted) (data : Bytes) : Option (Bytes × Option Nat) :=
  if l.any (fun p => p.desc.handle) then
    match l with
    | [a, b] =>
      let h := b.desc.addr
      if b.desc.handle && b.desc.eop && a.desc.sop && !a.desc.handle && a.desc.bufLen == 32 && b.desc.bufLen == 0 &&
          h < 4294967296 && s.owns h (ownerOf channel) then
        some (padTo 32 data ++ (s.bufData h).drop 64, some h)
      else none
    | _ => none
  else if l.any (fun p => p.desc.bufLen == 0) then none
  else some (padTo (l.map (fun p => p.desc.bufLen)).sum data, none)

/-- R567: the header of Table 14-13 and the length are as they must be. -/
def State.injectOk (s : State) (b : Bytes) : Bool :=
  let mode := byteAt b 0
  let d := le b 4 4
  let e := le b 8 4
  let len := le b 18 2
  32 ≤ b.length && mode ≤ 1 && byteAt b 2 < 4 && (slice b 20 12).all (fun x => x == 0) && inRange len 18 9728 &&
    len + 32 == b.length &&
    (if mode == 1 then s.portExists (byteAt b 3)
     else byteAt b 3 == 0 && byteAt b 1 < 8 && field d 30 16 == 0 && (bit d 31 || d < 32768) && field e 30 18 == 0 &&
       field (le b 12 4) 24 20 == 0)

/-- R568: a direct frame as a packet for admission; it has no parse result, and its hashes are 0. -/
def injectPacket (b : Bytes) (t : T32) : QPkt :=
  let d := le b 4 4
  let e := le b 8 4
  let len := le b 18 2
  { pid := 0, entry := t, frameLen := len, tc := byteAt b 1, colour := b2n (bit (byteAt b 2) 1), ecn := 0, mcast := bit d 31
    dest := d % 65536, encap := if bit e 31 then some (e % 262144) else none, rxT32 := t, edit := editWordOf (le b 12 4)
    hashA := 0, port := d % 128, frame := slice b 32 (len - 4), cells := cellsFor len
    tsReq := if bit (byteAt b 2) 0 then some (le b 16 2) else none }

/-- R568, R569: hands a valid inject frame to admission, or to the parser of the port it names. -/
def State.injectHand (s : State) (b : Bytes) : State :=
  let p := injectPacket b s.t32
  if byteAt b 0 == 1 then
    s.updPrt (byteAt b 3) (fun x => { x with rxBuf := x.rxBuf ++
      [{ frame := p.frame, rxT32 := s.t32, inject := true, tsReq := p.tsReq }] })
  else s.admitIngress p

/-- INJECT_FRAME_READ (R350, R357, R365, R565-R572). -/
def execInjectFrameRead (channel : Nat) (data : Bytes) (s : State) : Out :=
  if 64 ≤ channel then .fault .noSuchUnit
  else
    let x := s.chan channel
    if !(x.enabled && x.inject && s.hif.linkUp && s.dataPlaneOn && s.mayMove x) then .next s
    else match injectUnit [] x.posted with
      | none => .next s
      | some (unit, rest) =>
        let a := s.setChan channel { s.moves x data.length with posted := rest }
        let reject (t : State) : State :=
          ((t.injectDone channel 0x3E false unit).chanDrop channel 0x3E).raiseLim 0x0D85 channel (fun n =>
            d4 channel ++ d4 x.frameSeq ++ d4 0x3E ++ d4 n)
        let free (t : State) (h : Nat) : State := (t.release h (ownerOf channel) 1).2
        match a.injectStream channel unit data with
        | none => done s ((reject a).freeHandles channel unit)
        | some (b, h) =>
          let ts := bit (byteAt b 2) 0
          let accept (t : State) (h : Nat) : State :=
            let u := ((t.injectDone channel 0 ts unit).bump 1418 7 channel).count 1418 8 channel 0 (b.length - 32)
            free (u.injectHand b) h
          if h.any (fun k => (a.liveBuf k).any (fun z => z.lost)) then
            done s (((a.injectDone channel 0x3C false unit).bump 908 10).freeHandles channel unit)
          else if !a.injectOk b then done s (match h with | some k => free (reject a) k | none => reject a)
          else match h with
            | some k => done s (accept a k)
            | none =>
              match a.poolAlloc channel b with
              | (some k, t) => done s (accept t k)
              | (none, t) =>
                let p := injectPacket b s.t32
                done s (((t.injectDone channel 0x3B ts unit).drop3B channel (poolFor b.length)).tsDropped p.port p.tsReq)

end Sys2Proof.Machine
end

