-- ==== Sys2Proof/Machine/Edit.lean ====
section
/-! DEFINITION. Edit engines and transmission (11_egress_editing.md; R62-R64, R69 of 02_ports.md; R116-R121 of
03_link_security.md; R518-R521 of 13_time.md), and the commands of class 0x0A. -/
namespace Sys2Proof.Machine
open Sys2Proof

/-! ### A frame with its anchors (Table 11-8, R446) -/

/-- A frame without FCS, and where its headers stand: the EtherType, the top label, the outer IP and L4 headers and the PTP
header. The frame start, anchor 0, is always position 0. -/
structure EFrame where
  d : Bytes
  et : Nat
  label : Option Nat
  ip : Option Nat
  l4 : Option Nat
  ptp : Option Nat
  labels : Nat

/-- R439 step 1, R133: the outer headers of a frame. GRE of version 0 counts whatever the setting of the ingress port. -/
def locate (d : Bytes) : EFrame × Parse :=
  let p := (parseFrame { gre := true, vxlan := false } {} 0 0 false d).1
  let et := 12 + 4 * p.vlanCount
  let l4 := if p.has pfL4Absent then none else some p.l4Off
  ({ d, et, labels := p.mplsCount
     label := if p.mplsCount == 0 then none else some (et + 2)
     ip := if p.ipKind == 0 then none else some p.l3Off, l4
     ptp := if !p.has pfPtp then none else if p.etherType == 0x88F7 then some (et + 2) else l4.map (· + 8) }, p)

/-- Moves every anchor by `f`. -/
def EFrame.move (x : EFrame) (f : Nat → Nat) : EFrame :=
  { x with et := f x.et, label := x.label.map f, ip := x.ip.map f, l4 := x.l4.map f, ptp := x.ptp.map f }

/-- R446: inserts bytes at `p`; anchors at `p` or beyond move on. -/
def EFrame.insert (x : EFrame) (p : Nat) (b : Bytes) : EFrame :=
  { x with d := x.d.take p ++ b ++ x.d.drop p }.move (fun a => if p ≤ a then a + b.length else a)

/-- R446: removes `n` bytes at `p`; anchors among them move to `p`, anchors beyond move back. -/
def EFrame.remove (x : EFrame) (p n : Nat) : EFrame :=
  { x with d := x.d.take p ++ x.d.drop (p + n) }.move (fun a => if p + n ≤ a then a - n else if p < a then p else a)

/-- The anchor of a code (Table 11-8). -/
def EFrame.anchor (x : EFrame) (k : Nat) : Option Nat :=
  if k == 0 then some 0 else if k == 1 then some x.et else if k == 2 then x.label else if k == 3 then x.ip
  else if k == 4 then x.l4 else none

/-- RFC 1624: updates the checksum at `at_` for a 16-bit sum that changes from `old` to `new`. -/
def fixSum (d : Bytes) (at_ old new : Nat) : Bytes :=
  overwrite d at_ (toBe 2 (65535 - fold16 (65535 - be d at_ 2 + (65535 - old) + new)))

/-! ### Base actions (Table 11-5, R440, R441) -/

/-- TTL - 1; of a TTL of 0 the spec gives no result (log 16). -/
def ttlLess (t : Nat) : Nat := if t == 0 then Config.ttlBelowZero.toNat else t - 1

/-- The header at `ip` is IPv4. -/
def isV4 (d : Bytes) (ip : Nat) : Bool := be d ip 1 / 16 == 4

/-- Sets the TTL or hop limit of an IP header, with the IPv4 checksum updated. -/
def setTtl (d : Bytes) (ip v : Nat) : Bytes :=
  if isV4 d ip then
    let e := overwrite d (ip + 8) (toBe 1 v)
    fixSum e (ip + 10) (be d (ip + 8) 2) (be e (ip + 8) 2)
  else overwrite d (ip + 7) (toBe 1 v)

def ttlOf (d : Bytes) (ip : Nat) : Nat := be d (if isV4 d ip then ip + 8 else ip + 7) 1

/-- R185, R440: the stack entries that go when `n` labels are removed from position `j`: an entropy label and its indicator, which
the lookup skips and pop_count does not count, go with the label after them (DEDUCED); `swap` says that one more label follows, which
is swapped. None where the stack is too short. -/
def EFrame.popped (x : EFrame) (l : Nat) (swap : Bool) : Nat → Nat → Nat → Option Nat
  | 0, _, _ => none
  | fuel + 1, j, n =>
    if n == 0 && !swap then some j
    else if x.labels ≤ j then none
    else if be x.d (l + 4 * j) 4 / 4096 == 7 then x.popped l swap fuel (j + 2) n
    else if n == 0 then some j
    else x.popped l swap fuel (j + 1) (n - 1)

/-- R440: removes labels from the stack; one that is the bottom label gives the EtherType. Says whether it was removed. -/
def EFrame.pop (x : EFrame) (n : Nat) : EFrame × Bool :=
  match x.label with
  | none => (x, false)
  | some l =>
    let bottom := n != 0 && bit (be x.d (l + 4 * (n - 1)) 4) 8
    let y := x.remove l (4 * n)
    let nib := be y.d l 1 / 16
    (if bottom && (nib == 4 || nib == 6) then { y with d := overwrite y.d y.et (toBe 2 (if nib == 4 then 0x0800 else 0x86DD)) }
      else y, bottom)

/-- R439 step 2: the base action: a drop code or 0, and the frame. -/
def EFrame.base (x : EFrame) (e : EditWord) : Nat × EFrame :=
  let ttl (y : EFrame) (v : Nat → Nat) : EFrame :=
    match y.ip with | some ip => { y with d := setTtl y.d ip (v (ttlOf y.d ip)) } | none => y
  let first := match x.label with | some l => be x.d (l + 3) 1 | none => 0
  if e.op == 0 then (0, x)
  else if 4 < e.op then (0x58, x)
  else if e.op == 1 then (0, ttl x ttlLess)
  else match x.popped (x.label.getD 0) (e.op == 2) 16 0 e.popCount with
  | none => (0x5E, x)
  | some n =>
    let y := x.pop n
    let l := y.1.label.getD 0
    let old := be y.1.d l 4
    let left := x.labels != 0 && !y.2
    if e.op == 2 then
      let new := e.newLabel * 4096 + field old 11 8 * 256 + ttlLess (if e.ttlPipe then old % 256 else first)
      (0, { y.1 with d := overwrite y.1.d l (toBe 4 new) })
    else if e.op == 3 then
      (0, if left && !e.ttlPipe then { y.1 with d := overwrite y.1.d (l + 3) (toBe 1 (ttlLess first)) } else y.1)
    else (0, if e.ttlPipe then ttl y.1 ttlLess else if x.labels == 0 then y.1 else ttl y.1 (fun _ => ttlLess first))

/-- R439 step 3, R441: sets the ECN field of the outer IP header to 0b11. -/
def EFrame.setCe (x : EFrame) : EFrame :=
  match x.ip with
  | none => x
  | some p =>
    if isV4 x.d p then
      let e := overwrite x.d (p + 1) (toBe 1 (be x.d (p + 1) 1 ||| 3))
      { x with d := fixSum e (p + 10) (be x.d p 2) (be e p 2) }
    else { x with d := overwrite x.d (p + 1) (toBe 1 (be x.d (p + 1) 1 ||| 48)) }

/-! ### Edit programs (Tables 11-7 and 11-9, R446-R448) -/

/-- The header that an UPDATE expects stands at `p`, before E and byte 255: 0 IPv4, 1 IPv6, 2 UDP. -/
def headerAt (d : Bytes) (p kind : Nat) : Bool :=
  let e := min d.length 256
  if kind == 0 then
    p + 20 ≤ e && be d p 1 / 16 == 4 && 5 ≤ be d p 1 % 16 && p + 4 * (be d p 1 % 16) ≤ e
  else if kind == 1 then p + 40 ≤ e && be d p 1 / 16 == 6
  else p + 8 ≤ e

/-- One instruction other than END: a drop code or 0, and the frame. -/
def EFrame.insn (x : EFrame) (data : Bytes) (w : Nat) : Nat × EFrame :=
  let op := field w 31 28
  let len := field w 17 12
  let doff := field w 11 5
  let aux := field w 4 0
  let e := x.d.length
  if 6 < op then (0x58, x)
  else match x.anchor (field w 27 25) with
  | none => (0x59, x)
  | some a =>
    let p := a + field w 24 18
    let piece := slice data doff len
    let past := e < p + len || 256 < p + len
    if e < p || 255 < p then (0x58, x)
    else if op == 1 then if data.length < doff + len then (0x58, x) else (0, x.insert p piece)
    else if op == 2 then
      if past || data.length < doff + len then (0x58, x) else (0, { x with d := overwrite x.d p piece })
    else if op == 3 then if past then (0x58, x) else (0, x.remove p len)
    else if op == 4 then (0, x.remove 0 p)
    else if op == 5 then
      if 2 < aux || !headerAt x.d p aux then (0x58, x)
      else
        let v := toBe 2 (if aux == 1 then e - p - 40 else e - p)
        (0, { x with d := overwrite x.d (if aux == 0 then p + 2 else p + 4) v })
    else if 1 < aux || !headerAt x.d p (2 * aux) then (0x58, x)
    else if aux == 1 then (0, { x with d := overwrite x.d (p + 6) (zeros 2) })
    else
      let d := overwrite x.d (p + 10) (zeros 2)
      (0, { x with d := overwrite d (p + 10) (toBe 2 (65535 - fold16 (sum16 (slice d p (4 * (be d p 1 % 16)))))) })

/-- What editing a packet gives: the frame, or a drop code and, for a drop under R447 or R448, the faulting instruction. -/
structure Edited where
  x : EFrame
  code : Nat := 0
  fault : Option (Nat × Nat) := none
  program : Nat := 0
  /-- instructions executed -/
  ran : Nat := 0

/-- Runs a program from instruction `n`; `len` is the frame's length at its start (R447). -/
def runProgram (lost : Nat → Bool) (prog : Nat) (data : Bytes) (len n : Nat) : List (BitVec 32) → EFrame → Edited
  | [], x => { x, program := prog, ran := n }
  | w :: r, x =>
    if lost n then { x, code := 0x5C, program := prog, ran := n }
    else if field w.toNat 31 28 == 0 then { x, program := prog, ran := n + 1 }
    else
      let y := x.insn data w.toNat
      let code := if y.1 == 0 && (len + 128 < y.2.d.length || y.2.d.length < 14) then 0x58 else y.1
      if code == 0 then runProgram lost prog data len (n + 1) r y.2
      else { x := y.2, code, fault := some (n, w.toNat), program := prog, ran := n + 1 }

/-- R442: the data of the chain of a head object, or the drop code of a chain that cannot be used. -/
def State.chainData (s : State) (head : Nat) : Nat × Bytes :=
  let e := s.encap head
  if s.edit.poison.contains (0, head) then (0x5C, [])
  else if !e.valid then (0x5A, [])
  else match e.next with
    | none => (0, e.data)
    | some n =>
      if s.edit.poison.contains (0, n) then (0x5C, [])
      else if !(s.encap n).valid || (s.encap n).next.isSome then (0x5A, [])
      else (0, e.data ++ (s.encap n).data)

/-- R439 steps 1 to 4: edits a frame. -/
def State.editFrame (s : State) (d : Bytes) (e : EditWord) (ce : Bool) (encap : Option Nat) : Edited :=
  let b := (locate d).1.base e
  let x := if ce then b.2.setCe else b.2
  if b.1 != 0 then { x := b.2, code := b.1 }
  else match encap with
    | none => { x }
    | some h =>
      let c := s.chainData h
      let prog := (s.encap h).program
      if c.1 != 0 then { x, code := c.1 }
      else
        runProgram (fun n => s.edit.poison.contains (1, prog * 32 + n)) prog c.2 x.d.length 0
          (if prog == 0 then [] else s.edit.programs.getD prog []) x

/-! ### Transparent clock (R119, R451, R452) -/

/-- Adds a residence time in ns to the correctionField; an IPv4 UDP checksum becomes 0, an IPv6 one is updated. -/
def correct (d : Bytes) (ptp : Nat) (udp : Option Nat) (v4 : Bool) (ns : Nat) : Bytes :=
  let old := slice d (ptp + 8) 8
  let new := toBe 8 ((be d (ptp + 8) 8 + ns * 65536) % 18446744073709551616)
  let e := overwrite d (ptp + 8) new
  match udp with
  | none => e
  | some u =>
    if v4 then overwrite e (u + 6) (zeros 2)
    else
      let f := fixSum e (u + 6) (fold16 (sum16 old)) (fold16 (sum16 new))
      if be f (u + 6) 2 == 0 then overwrite f (u + 6) (toBe 2 65535) else f

/-- The PTP header of an edited frame that carries a PTP event: where it stands, its UDP header, and whether that is IPv4. -/
def EFrame.ptpEvent (x : EFrame) (e : EditWord) : Option (Nat × Option Nat × Bool) :=
  match x.ptp with
  | some p =>
    if e.ptp && p + 34 ≤ x.d.length then
      some (p, if x.ip.isSome then x.l4 else none, match x.ip with | some i => isV4 x.d i | none => false)
    else none
  | none => none

/-- The port has a transmit SA in use (R117). -/
def State.txSa (s : State) (p : Nat) : Bool :=
  s.sec.gradeS && (s.secy p).enabled && ((s.secy p).txInUse.bind (fun n => (s.secy p).sa 0 n)).isSome

/-! ### EDIT_PACKET -/

/-- Drops a packet at an edit engine. -/
def State.editDrop (s : State) (code port : Nat) (tsReq : Option Nat) : State :=
  (s.bump 1113 1 (code - 0x58)).tsDropped port tsReq

/-- R447-R449, R708: counts, reports and samples a program fault. -/
def State.editFault (s : State) (engine prog : Nat) (head : Option Nat) (code n w : Nat) : State :=
  let i := s.tbl.freeIx
  let t := (({ s with tbl.freeIx := i + 1 }.bump 1113 2 prog).perfCount 0 6 engine 3).raiseLim 0x0A81 0 (fun k =>
    d4 prog ++ d4o head ++ d4 code ++ d4 n ++ d4 k)
  t.psample (psampleBody 0 engine true code w (prog * 65536 + n) (Config.editStall i).toNat
    (engine * 33554432 + s.edit.pktSeq.getD engine 0) s.t32)

/-- R63: the length of a frame on the wire. -/
def wireLen (d : Bytes) : Nat := max 60 d.length + 4

/-- R439 step 5: the edited frame is encrypted where the port is secured, checked (R53, R64) and enters the transmit buffer.
`eapol` says that the packet was injected as EAPOL. -/
def State.toMac (s : State) (port : Nat) (x : EFrame) (e : EditWord) (rx : T32) (tsReq : Option Nat) (eapol : Bool) : State :=
  let q := s.prt port
  let ev := x.ptpEvent e
  let l : T32 := s.t32 + BitVec.ofNat 32 (1000 * (s.secy port).launchUs + 1000 * (if q.lpi then q.cfg.twTx else 0))
  let fixed := s.txSa port && ev.isSome
  let d := match ev with
    | some (p, u, v4) => if fixed then correct x.d p u v4 (l - rx).toNat else x.d
    | none => x.d
  let a := if fixed then s.bump 1113 6 else s
  let v := a.secTransmit port d (eapol && be d 12 2 == 0x888E)
  if v.drop.isSome then v.st.tsDropped port tsReq
  else if !(s.portExists port && q.up) then v.st.txDrop port 0x0C tsReq
  else if q.cfg.maxFrame < wireLen v.frame then v.st.txDrop port 0x0B tsReq
  else
    let at_ := ev.map (fun z => z.1)
    let tag (f : Nat → Nat) : Nat := match at_ with | some p => f p | none => 0
    let plain := if fixed then none else ev
    let f : TxFrame := {
      frame := v.frame, rxT32 := rx, ptpOff := plain.map (fun z => z.1), udpOff := (plain.bind (fun z => z.2.1)).getD 0
      ipv4Udp := plain.any (fun z => z.2.2), launch := if fixed then some l else none, tsReq
      tsOver := tsReq.isSome && 32 ≤ (q.txBuf.filter (fun z => z.tsReq.isSome && !z.tsOver)).length
      ptpSeq := tag (fun p => be x.d (p + 30) 2), ptpType := tag (fun p => be x.d p 1 % 16)
      ptpDomain := tag (fun p => be x.d (p + 4) 1) }
    (v.st.endLpi port).updPrt port (fun z => { z with txBuf := z.txBuf ++ [f] })

/-- EDIT_PACKET (R435, R439): the oldest packet that the TM die has released to the port is edited by the engine whose turn it
is. -/
def execEditPacket (port : Nat) (s : State) : Out :=
  if 96 ≤ port then .fault .noSuchUnit
  else match (s.prt port).feQ with
  | [] => .next s
  | p :: r =>
    if !s.dataPlaneOn then .next s
    else
      let a := s.updPrt port (fun x => { x with feQ := r })
      let es := s.engines port
      match es[s.edit.rr.getD port 0 % es.length]? with
      | none => done s (if s.portExists port then a.editDrop 0x5D port p.tsReq else a.txDrop port 0x0C p.tsReq)
      | some n =>
        let seq := (s.edit.pktSeq.getD n 0 + 1) % 33554432
        let y := s.editFrame p.frame p.edit p.ce p.encap
        let b := ({ a with
          edit.rr := a.edit.rr.set port ((s.edit.rr.getD port 0 + 1) % es.length)
          edit.pktSeq := a.edit.pktSeq.set n seq
          tel.ran := if bit s.tel.engines n then a.tel.ran.upd n 0 (fun k => k + y.ran) else a.tel.ran }.bump 1113 0 n).perfCount 0 6 n 1
        if y.code != 0 then
          let c := b.editDrop y.code port p.tsReq
          done s (match y.fault with | some (i, w) => c.editFault n y.program p.encap y.code i w | none => c)
        else
          let c := match p.encap with
            | some h => if (s.encap h).countEn then b.pairAdd (2228224 + h) (y.x.d.length + 4) else b
            | none => b
          done s (c.toMac port y.x p.edit p.rxT32 p.tsReq (be p.frame 12 2 == 0x888E))

/-! ### TRANSMIT_START -/

/-- TRANSMIT_START (R52, R62, R63, R69, R119, R121, R451, R452, R516-R520): the MAC commits to start the oldest frame of the
transmit buffer; one with a launch time starts no earlier, and on time where T32 has just reached it. -/
def execTransmitStart (port : Nat) (s : State) : Out :=
  if 96 ≤ port then .fault .noSuchUnit
  else
    let q := s.prt port
    match q.txBuf with
    | [] => .next s
    | f :: r =>
      let now : T32 := s.t32 + BitVec.ofInt 32 q.txAdjust
      let held := match f.launch with | some l => !T32.reached now l | none => false
      if !(s.portExists port && q.up && s.dataPlaneOn) || q.remoteFault || q.sending.isSome || held ||
          q.lpiWake.any (fun t => s.time.ticks < t) then .next s
      else
        let late := match f.launch with | some l => decide (1 < (now - l).toNat) | none => false
        let tTx := match f.launch with | some l => if late then now else l | none => now
        let res := (tTx - f.rxT32).toNat
        let fix := q.tcEnable && f.launch.isNone
        let udp := if f.udpOff == 0 then none else some f.udpOff
        let d := match f.ptpOff with | some p => if fix then correct f.frame p udp f.ipv4Udp res else f.frame | none => f.frame
        let w := padTo (max 60 d.length) d
        let bytes := w ++ fcsOf w
        let sent := s.port.sent ++ [{ port, bytes, tTx : Sent }]
        let a := { s.setPrt port { q with txBuf := r, sending := some bytes.length, lpiWake := none } with port.sent := sent }
        let b := (((a.bump 207 3 port).count 207 4 port 0 bytes.length).perfCount 0 1 port 3).histAt 1 port res tTx
        let c := if fix && f.ptpOff.isSome then b.bump 1113 6 else b
        let e := match f.tsReq with
          | some tag => if f.tsOver then c.txTimestamp port 2 tag 0 f 0 else c.txTimestamp port 0 tag tTx.toNat f 0
          | none => c
        done s (if late then (e.bump 307 11 port).txTimestamp port 3 0 tTx.toNat f ((f.launch.map (·.toNat)).getD 0) else e)

/-! ### Engines and storage (R438, R453) -/

/-- R438: an engine is retired: its lane goes to a spare; a port left with no engine goes down. -/
def State.retireEngine (s : State) (engine : Nat) : State :=
  let lane := if engine < 96 then some engine else (s.edit.engineOf.find? (fun e => e.2 == engine)).map Prod.fst
  let a := { s with edit.dead := s.edit.dead ++ [engine], edit.sparesLeft := s.edit.sparesLeft.filter (· != engine) }
  match lane with
  | none => a
  | some l =>
    let spare := a.edit.sparesLeft.head?
    let b := match spare with
      | some k => { a with edit.engineOf := a.edit.engineOf.set l k, edit.sparesLeft := a.edit.sparesLeft.drop 1 }
      | none => a
    let c := b.raise 0x0A82 (d4 engine ++ d4 l ++ d4o spare)
    match c.laneOwner l with
    | some p => if c.hasEngine p then c else (c.portDown p 7).setCond 6
    | none => c

/-- EDIT_ENGINE_ERROR (R438): the packets that the engine holds are the oldest released to its port. -/
def execEditEngineError (engine held : Nat) (s : State) : Out :=
  if 100 ≤ engine then .fault .noSuchUnit
  else if s.edit.dead.contains engine || !s.dataPlaneOn then .next s
  else
    let lane := if engine < 96 then some engine else (s.edit.engineOf.find? (fun e => e.2 == engine)).map Prod.fst
    let a := match lane.bind s.laneOwner with
      | some p =>
        ((s.prt p).feQ.take held).foldl (fun (t : State) (k : QPkt) => t.editDrop 0x5D p k.tsReq)
          (s.updPrt p (fun x => { x with feQ := x.feQ.drop held }))
      | none => s
    let spare := if lane.isSome then (s.edit.sparesLeft.filter (· != engine)).head? else none
    done s ((a.retireEngine engine).record
      { kind := 7, die := 0, cause := 2, unit := engine, index := spare.getD 0xFFFFFFFF, hours := s.hours })

/-- R453: an uncorrectable object, instruction, group record or member entry: kind 0 to 3 and index. -/
def State.editStoreLost (s : State) (kind index : Nat) : State :=
  if s.edit.poison.contains (kind, index) then s
  else { s with edit.poison := s.edit.poison ++ [(kind, index)] }.raise 0x0A83 (d4 kind ++ d4 index)

/-! ### The commands of class 0x0A -/

/-- EDIT_PROGRAM_SET (R443, R450). -/
def editProgramSetSpec : CmdSpec :=
  { opcode := 0x0A01, long := fun b => 4 ≤ b.length && 4 + 4 * byteAt b 2 ≤ b.length, clean := fun b => rsv b 3 1 }

def cmdEditProgramSet (c : Cmd) (s : State) : Res :=
  gate editProgramSetSpec (fun c s =>
    let p := le c.payload 0 2
    let n := byteAt c.payload 2
    if !inRange p 1 1023 || !inRange n 1 32 then Res.err s stBadParam
    else
      let l := (List.range n).map (fun i => BitVec.ofNat 32 (le c.payload (4 + 4 * i) 4))
      { st := { s with edit.programs := s.edit.programs.set p l }.editMended 1 ((List.range 32).map (fun i => p * 32 + i)) })
    c s

def execEditProgramSet (c : Cmd) (s : State) : Out := serve c cmdEditProgramSet s

/-- The blocks of the member pool that are taken: base and count. -/
def State.mcastBlocks (s : State) : List (Nat × Nat) :=
  ((s.edit.groups.map (fun e => (e.2.base, e.2.members.length))) ++ s.edit.oldBlocks.map (fun b => b.2)).filter
    (fun b => b.2 != 0)

/-- R433: the lowest free run of `n` entries of the member pool. -/
def State.mcastRun (s : State) (n : Nat) : Option Nat :=
  let l := s.mcastBlocks
  ((0 :: l.map (fun b => b.1 + b.2)).filter (fun b => b + n ≤ 262144 && l.all (fun r => r.1 + r.2 ≤ b || b + n ≤ r.1))).min?

/-- A member entry from its 32 bits (Table 11-2). -/
def memberOf (v : Nat) : McMember := { port := field v 31 25, encap := if bit v 6 then some (field v 24 7) else none }

/-- MCAST_GROUP_SET (R433, R434). -/
def mcastGroupSetSpec : CmdSpec :=
  { opcode := 0x0A03, long := fun b => 36 ≤ b.length && 36 + 4 * le b 2 2 ≤ b.length
    clean := fun b => (List.range (le b 2 2)).all (fun i => le b (36 + 4 * i) 4 % 64 == 0) }

def cmdMcastGroupSet (c : Cmd) (s : State) : Res :=
  gate mcastGroupSetSpec (fun c s =>
    let b := c.payload
    let g := le b 0 2
    let n := le b 2 2
    let map := le b 4 32
    let l := (List.range n).map (fun i => memberOf (le b (36 + 4 * i) 4))
    let old := s.edit.groups.getD g {}
    if 1024 < n || l.any (fun m => 95 < m.port) then Res.err s stBadParam
    else if map == 0 && n == 0 then
      let x : McGroup := { deletedAt := some (s.tbl.epoch + s.retireEpochs) }
      let t := { s with edit.oldBlocks := s.edit.oldBlocks ++
        (if old.members.isEmpty then [] else [(g, old.base, old.members.length)]) }
      { st := if (s.mcGroup? g).isSome then { t with edit.groups := s.edit.groups.set g x }.editMended 2 [g] else s }
    else if old.deletedAt.any (fun k => s.tbl.epoch ≤ k) then Res.err s stBusy
    else if l.any (fun m => m.encap.any (fun e => !s.encapSet? e)) then Res.err s stNotFound
    else match (if n == 0 then some 0 else s.mcastRun n) with
      | none => Res.err s stNoResource
      | some base =>
        let t := { s with
          edit.groups := s.edit.groups.set g { map, base, members := l }
          edit.oldBlocks := s.edit.oldBlocks ++
            (if old.members.isEmpty then [] else [(g, old.base, old.members.length)]) }
        { st := (t.editMended 2 [g]).editMended 3 ((List.range n).map (· + base)) }) c s

def execMcastGroupSet (c : Cmd) (s : State) : Out := serve c cmdMcastGroupSet s

/-- MCAST_BLOCK_RELEASE (R433). -/
def execMcastBlockRelease (group : Nat) (s : State) : Out :=
  if !s.aux.pllLocked then .next s
  else if s.edit.oldBlocks.any (fun b => b.1 == group) then
    done s { s with edit.oldBlocks := s.edit.oldBlocks.filter (fun b => b.1 != group) }
  else .next s

/-- The 320 bits of a group record (Table 11-1). -/
def McGroup.encode (x : McGroup) : Nat :=
  x.map * 18446744073709551616 + x.base * 70368744177664 + x.members.length * 34359738368

/-- The 32 bits of a member entry (Table 11-2). -/
def McMember.encode (m : McMember) : Nat := m.port * 33554432 + m.encap.getD 0 * 128 + b2n m.encap.isSome * 64

/-- MCAST_GROUP_GET. -/
def mcastGroupGetSpec : CmdSpec :=
  { opcode := 0x0A04, long := fun b => 2 ≤ b.length, size := fun _ => 4136, reads := true }

def cmdMcastGroupGet (c : Cmd) (s : State) : Res :=
  gate mcastGroupGetSpec (fun c s =>
    let x := s.edit.groups.getD (le c.payload 0 2) {}
    { st := s, result := toLe 40 x.encode ++ x.members.flatMap (fun m => toLe 4 m.encode) }) c s

def execMcastGroupGet (c : Cmd) (s : State) : Out := serve c cmdMcastGroupGet s

/-- EDIT_PORT_SET (R451). -/
def editPortSetSpec : CmdSpec := { opcode := 0x0A05, long := fun b => 2 ≤ b.length, clean := fun b => flagsIn b 1 1 }

def cmdEditPortSet (c : Cmd) (s : State) : Res :=
  gate editPortSetSpec (fun c s =>
    let p := byteAt c.payload 0
    if !s.portExists p then Res.err s stNotFound
    else { st := s.updPrt p (fun x => { x with tcEnable := byteAt c.payload 1 == 1 }) }) c s

def execEditPortSet (c : Cmd) (s : State) : Out := serve c cmdEditPortSet s

/-- MCAST_CONFIG (R429). -/
def mcastConfigSpec : CmdSpec := { opcode := 0x0A06, long := fun b => 4 ≤ b.length }

def cmdMcastConfig (c : Cmd) (s : State) : Res :=
  gate mcastConfigSpec (fun c s =>
    let r := le c.payload 0 4
    if !inRange r 1 4800 then Res.err s stBadParam else { st := { s with edit.mcastRate := r } }) c s

def execMcastConfig (c : Cmd) (s : State) : Out := serve c cmdMcastConfig s

/-- EDIT_TEST (R763, Table 11-15). -/
def editTestSpec : CmdSpec :=
  { opcode := 0x0A07, long := fun b => 12 ≤ b.length && 12 + le b 10 2 ≤ b.length
    clean := fun b => rsv b 9 1 && field (le b 0 4) 30 18 == 0 && field (le b 4 4) 24 20 == 0
    size := fun b => 4 + le b 10 2 + 128, reads := true }

def cmdEditTest (c : Cmd) (s : State) : Res :=
  gate editTestSpec (fun c s =>
    let b := c.payload
    let e := le b 0 4
    let n := le b 10 2
    if !inRange n 14 9728 || 1 < byteAt b 8 then Res.err s stBadParam
    else if bit e 31 && !(s.encap (e % 262144)).valid then Res.err s stNotFound
    else
      let y := s.editFrame (slice b 12 n) (editWordOf (le b 4 4)) (byteAt b 8 == 1)
        (if bit e 31 then some (e % 262144) else none)
      { st := s, result := if y.code != 0 then toLe 1 y.code ++ zeros 3
          else zeros 2 ++ toLe 2 y.x.d.length ++ y.x.d }) c s

def execEditTest (c : Cmd) (s : State) : Out := serve c cmdEditTest s

/-- Table 11-13. -/
def editDims : List (Nat × Nat) := [(100, 1), (7, 1), (1024, 1), (1, 1), (1, 1), (1, 1), (1, 1)]

/-- EDIT_COUNTERS_GET. -/
def editCountersGetSpec : CmdSpec := { opcode := 0x0A08, size := fun _ => snapSize editDims, reads := true }

def cmdEditCountersGet (c : Cmd) (s : State) : Res :=
  gate editCountersGetSpec (fun _ s => { st := s, result := s.snap 1113 editDims }) c s

def execEditCountersGet (c : Cmd) (s : State) : Out := serve c cmdEditCountersGet s

end Sys2Proof.Machine
end

