-- ==== Sys2Proof/Machine/Hbm.lean ====
section
/-! DEFINITION. The packet memory controller (12_packet_memory.md): requests and urgency, page policy, refresh, self-refresh,
replay, training, evacuation and retirement, row repair, and the commands of class 0x0B. -/
namespace Sys2Proof.Machine
open Sys2Proof

def State.setPc (s : State) (p : Nat) (x : Pc) : State := { s with hbm.pcs := s.hbm.pcs.set p x }
def State.bank (s : State) (p b : Nat) : Bank := s.hbm.banks.getD (32 * p + b) {}
def State.setBank (s : State) (p b : Nat) (x : Bank) : State := { s with hbm.banks := s.hbm.banks.set (32 * p + b) x }

/-! ### Requests (R461-R468) -/

/-- Latency target of a controller port in ticks (Table 12-2). -/
def cpTarget (port : Nat) : Nat := [1125, 3000, 7500, 15000, 75000, 750000, 7500000].getD port 0

/-- R461: the urgency of an age. -/
def urgencyOf (port age : Nat) : Nat :=
  let t := cpTarget port
  if age * 100 < t * 50 then 0 else if age * 100 < t * 75 then 1 else if age < t then 2 else 3

/-- R462: counts a deadline miss of a port. -/
def State.deadlineMiss (s : State) (port : Nat) : State := (s.bump 1207 4 port).perfCount 1 0x25 port 2

/-- R461, R462: the urgency of a request follows its age; at level 3 it counts one miss, unless it has counted its miss under R475. -/
def State.riseReq (s : State) (r : HbmReq) : State :=
  let u := urgencyOf r.port (s.time.ticks - r.at_)
  if u ≤ r.urgency then s
  else
    let a := { s with hbm.reqs := s.hbm.reqs.map (fun z => if z.id == r.id then { z with urgency := u } else z) }
    if u == 3 && !r.held then a.deadlineMiss r.port else a

/-- R468: an access to a row of a bank: page hit, miss or conflict, the history, and whether the row stays open. -/
def State.access (s : State) (p b row : Nat) : State :=
  let x := s.bank p b
  let h := if row == x.lastRow then min 3 (x.h + 1) else x.h - 1
  let name := match x.openRow with | none => 11 | some r => if r == row then 10 else 12
  (s.setBank p b { x with h, lastRow := row, openRow := if 2 ≤ h then some row else none }).bump 1207 name

/-- R467, R494: a request may be issued: its bank is not under repair, and no older request to the same row writes or is
overtaken by its write. -/
def State.mayIssue (s : State) (r : HbmReq) : Bool :=
  (s.bank r.pc r.bank).repairs.isEmpty &&
    !s.hbm.reqs.any (fun o => o.pc == r.pc && o.bank == r.bank && o.row == r.row && o.id < r.id && (o.write || r.write))

/-- R463: the request `a` is issued before `b`: urgency, an open row, the lower port, the older. -/
def State.issuesFirst (s : State) (a b : HbmReq) : Bool :=
  let isOpen (r : HbmReq) : Bool := (s.bank r.pc r.bank).openRow == some r.row
  if a.urgency != b.urgency then b.urgency < a.urgency
  else if isOpen a != isOpen b then isOpen a
  else if a.port != b.port then a.port < b.port
  else a.id < b.id

/-- R466: whether the bus of a pseudo-channel is turned to writes, given its waiting requests. -/
def State.turned (s : State) (p : Nat) (l : List HbmReq) : Bool :=
  let w := l.filter (·.write)
  if s.hbm.writeMode.contains p then
    !(w.isEmpty || l.any (fun r => !r.write && 2 ≤ r.urgency && s.mayIssue r))
  else 16 ≤ w.length || w.any (fun r => 2 ≤ r.urgency)

/-- The latency of a request in ns (Table 18-3): ticks of 4/3 ns. -/
def ticksNs (n : Nat) : Nat := n * 4 / 3

/-- R464: a counter request of CP3 or CP4. -/
def counterPort (r : HbmReq) : Bool := r.port == 3 || r.port == 4

/-- The requests of a pseudo-channel that may take a command slot whose bus is turned to writes or not (R464-R467). Once 19 slots have
passed without a counter access while counter requests wait, the next slot is theirs, in whichever direction (DESIGN CHOICE: one in
20 slots is 5 % of every window). -/
def State.slotRequests (s : State) (p : Nat) (w : Bool) (l : List HbmReq) : List HbmReq :=
  let own := l.filter (fun r => counterPort r && s.mayIssue r)
  if 19 ≤ s.hbm.starve.getD p 0 && !own.isEmpty then own
  else l.filter (fun r => r.write == w && s.mayIssue r && (!meteredPort r.port || s.meterOk r.port))

/-- R464: counts the slots that a pseudo-channel's counter requests have waited, given its requests and the one served. -/
def State.noteStarve (s : State) (p : Nat) (l : List HbmReq) (served : Option HbmReq) : State :=
  if served.any counterPort || !l.any counterPort then { s with hbm.starve := s.hbm.starve.del p }
  else { s with hbm.starve := s.hbm.starve.upd p 0 (fun n => n + 1) }

/-- One command slot of a pseudo-channel (R463-R466). -/
def State.hbmSlot (s : State) (p : Nat) : State :=
  if s.pcWaits p then s
  else if s.hbm.refreshed.contains p then { s with hbm.refreshed := s.hbm.refreshed.filter (· != p) }
  else
    let l := s.hbm.reqs.filter (fun r => r.pc == p)
    let w := s.turned p l
    let a := { s with hbm.writeMode := if w then (if s.hbm.writeMode.contains p then s.hbm.writeMode else p :: s.hbm.writeMode)
      else s.hbm.writeMode.filter (· != p) }
    match s.slotRequests p w l with
    | [] => a.noteStarve p l none
    | r :: rest =>
      let k := rest.foldl (fun (b : HbmReq) c => if s.issuesFirst c b then c else b) r
      let n := p / 2
      let m := (if meteredPort k.port then a.meterTake k.port else a).noteStarve p l (some k)
      let b := { m with
        hbm.reqs := m.hbm.reqs.filter (fun z => z.id != k.id), hbm.served := m.hbm.served ++ [k.id] }
      let c := b.setHbmChan n { b.hbmChan n with
        retry := (b.hbmChan n).retry.drop ((b.hbmChan n).retry.length - 31) ++ [k.id] }
      let st := c.stack (p / 32)
      ((c.setStack (p / 32) { st with lastReq := s.time.ticks }).access p k.bank k.row).histAdd 2 k.port
        (ticksNs (s.time.ticks - k.at_))

/-- One command slot of every pseudo-channel that has requests waiting, after their urgencies have risen. -/
def State.hbmSlots (s : State) : State :=
  ((s.hbm.reqs.map (fun r => r.pc)).eraseDups).foldl (fun (a : State) p => a.hbmSlot p)
    (s.hbm.reqs.foldl (fun (a : State) r => a.riseReq r) s)

/-- HBM_REQUEST (R463, R474, R475): a request arrives; it cancels a self-refresh entry that is not yet issued, or waits for
the exit and counts a miss. -/
def execHbmRequest (pc port bank row : Nat) (write : Bool) (s : State) : Out :=
  if 128 ≤ pc || 7 ≤ port || 32 ≤ bank || 16384 ≤ row then .fault .noSuchUnit
  else if !s.aux.pllLocked || (s.pcOf pc).state == 2 then .next s
  else
    let k := pc / 32
    let st := s.stack k
    let r : HbmReq := { id := s.hbm.reqSeq, pc, port, bank, row, write, at_ := s.time.ticks, held := st.selfRefresh }
    let a := { s with hbm.reqs := s.hbm.reqs ++ [r], hbm.reqSeq := s.hbm.reqSeq + 1 }.perfCount 1 0x25 port 1
    let b := a.setStack k { st with lastReq := s.time.ticks, closing := false }
    let c := if st.closing then b.bump 1207 8 k else b
    done s (if st.selfRefresh then c.deadlineMiss port else c)

/-- REQUEST_URGENCY_RISE (R461, R462). -/
def execRequestUrgencyRise (req : Nat) (s : State) : Out :=
  if !s.aux.pllLocked then .next s
  else match s.hbm.reqs.find? (fun r => r.id == req) with
  | none => .next s
  | some r => if urgencyOf r.port (s.time.ticks - r.at_) ≤ r.urgency then .next s else done s (s.riseReq r)

/-! ### Refresh and self-refresh (R469-R476) -/

/-- HBM_REFRESH_DUE (R463, R469, R470): postponed while urgent requests wait for the bank, up to 8 intervals; a ninth takes
precedence, and the next command slot. Postponed refreshes are made up as soon as no urgent request waits. -/
def execHbmRefreshDue (pc bank : Nat) (s : State) : Out :=
  if 128 ≤ pc || 32 ≤ bank then .fault .noSuchUnit
  else if !s.aux.pllLocked || (s.stack (pc / 32)).selfRefresh || (s.pcOf pc).state == 2 then .next s
  else
    let x := s.bank pc bank
    let urgent := s.hbm.reqs.any (fun r => r.pc == pc && r.bank == bank && 2 ≤ r.urgency)
    if urgent && x.owed < 8 then done s ((s.setBank pc bank { x with owed := x.owed + 1 }).bump 1207 5)
    else if urgent then
      done s (({ s with hbm.refreshed := s.hbm.refreshed ++ [pc] }.setBank pc bank { x with openRow := none }).bump 1207 6)
    else done s (s.setBank pc bank { x with owed := 0, openRow := none })

/-- The keys of the banks of a stack. -/
def inStack (k key : Nat) : Bool := key / 1024 == k

/-- SELF_REFRESH_IDLE (R472, R473): an idle stack closes its rows; once they are closed, the entry command is issued. -/
def execSelfRefreshIdle (stack : Nat) (s : State) : Out :=
  if 4 ≤ stack then .fault .noSuchUnit
  else if !s.aux.pllLocked then .next s
  else
    let x := s.stack stack
    if s.mode.mode != mdParked || x.selfRefresh then .next s
    else if x.closing then
      done s ((s.setStack stack { x with closing := false, selfRefresh := true, entryAt := s.time.ticks, exitAt := none }).bump
        1207 7 stack)
    else if s.ended x.lastReq (us s.hbm.srIdleUs) && !s.hbm.reqs.any (fun r => r.pc / 32 == stack) &&
        !s.hbm.banks.any (fun e => inStack stack e.1 && e.2.owed != 0) then
      done s (({ s with
        hbm.banks := s.hbm.banks.map (fun (e : Nat × Bank) => if inStack stack e.1 then (e.1, { e.2 with openRow := none }) else e) }).setStack
          stack { x with closing := true })
    else .next s

/-- SELF_REFRESH_EXIT (R475): the exit command, 400 ns after the entry command at the earliest. -/
def execSelfRefreshExit (stack : Nat) (s : State) : Out :=
  if 4 ≤ stack then .fault .noSuchUnit
  else if !s.aux.pllLocked then .next s
  else
    let x := s.stack stack
    if x.selfRefresh && s.hbm.reqs.any (fun r => r.pc / 32 == stack) && s.ended x.entryAt 300 then
      done s ((s.setStack stack { x with selfRefresh := false, exitAt := some s.time.ticks }).count 1207 9 stack 0
        ((s.time.ticks - x.entryAt) / 750))
    else .next s

/-! ### Counter areas (R459, R479, R491) -/

/-- R479: both pairs of a counter access become zero, with event 0x0B85. -/
def State.zeroPairs (s : State) (first n : Nat) (which : Nat → Bool) : State :=
  { s with hbm.pairs := s.hbm.pairs.filter (fun e => !which e.1) }.raise 0x0B85 (d4 first ++ d4 n)

/-- The lowest `n` free slots of a pseudo-channel. -/
def State.someSlots (s : State) (p n : Nat) : List Nat :=
  let used := (s.hbm.segs.filter (fun e => e.1 % 128 == p)).length + (s.hbm.oldSegs.filter (fun x => x % 128 == p)).length +
    (s.pcOf p).withheld.length + (s.pcOf p).area.length
  ((List.range (min 130560 (n + used))).filter (fun i => !s.segTaken (128 * i + p))).take n

/-- R491: the counter area whose home is `x` moves to the next pseudo-channel in service with 512 free slots. -/
def State.moveArea (s : State) (x : Nat) : State :=
  let from_ := (s.pcOf x).remapped.getD x
  match ((List.range 127).map (fun i => (from_ + 1 + i) % 128)).find? (fun p =>
      (s.pcOf p).state == 0 && 512 ≤ s.freeSlots p) with
  | none => s
  | some t =>
    let l := s.someSlots t 512
    let a := s.setPc t { s.pcOf t with area := (s.pcOf t).area ++ l }
    a.setPc x { a.pcOf x with remapped := some t }

/-- R487, R491: the counter areas that lie in a pseudo-channel move away; `lost` says that their values are gone. -/
def State.moveAreas (s : State) (p : Nat) (lost : Bool) : State :=
  let homes := (List.range 128).filter (fun x => (s.pcOf x).remapped.getD x == p)
  let a := homes.foldl (fun (b : State) x =>
    let c := b.moveArea x
    if lost then c.zeroPairs (2 * x) 131072 (fun pair => pair / 2 % 128 == x) else c) s
  a.setPc p { a.pcOf p with area := [] }

/-! ### Retirement and evacuation (R486-R493) -/

/-- The segments in use in a pseudo-channel, with the queue that holds each. -/
def State.segsOf (s : State) (p : Nat) : List (Nat × Nat) := s.hbm.segs.filter (fun e => e.1 % 128 == p)

/-- R266, R490: every segment of a pseudo-channel is lost. -/
def State.loseSegs (s : State) (p : Nat) : State :=
  let a := (s.segsOf p).foldl (fun (b : State) e => b.segLost e.1 true) s
  ({ a with
    hbm.segs := a.hbm.segs.filter (fun e => e.1 % 128 != p), hbm.words := a.hbm.words.filter (fun e => e.1 % 128 != p) }).refreshTm

/-- R492: the limit of 8 retired pseudo-channels. -/
def State.retireLimit (s : State) : State :=
  let n := s.retiredPcs
  if 8 < n then
    let t := if s.hbm.limited then s
      else { s with hbm.limited := true }.raise 0x0B86 (d4 (128 - n) ++ d4 (14400000 * (128 - n) / 120))
    t.setCond 7
  else { s with hbm.limited := false }.clearCond 7

/-- R490-R493, R497: retires a pseudo-channel for a cause of Table 12-6; `lost` says that it was not evacuated. -/
def State.retirePc (s : State) (p cause : Nat) (lost : Bool) : State :=
  let n := if lost then (s.segsOf p).length else 0
  let a := s.setPc p { s.pcOf p with state := 2, cause }
  let b := { (if lost then a.loseSegs p else a) with hbm.reqs := s.hbm.reqs.filter (fun r => r.pc != p) }
  let c := b.moveAreas p (lost && cause != 1)
  let d := c.record { kind := 0xE, die := 2, cause := if cause == 5 then 4 else if cause == 4 then 1 else 3, unit := p
                      index := 0, hours := s.hours }
  (d.raise 0x0B81 (d4 p ++ d4 cause ++ d4 n ++ d4 (128 - d.retiredPcs))).retireLimit

/-- A planned retrain is in progress (R485). -/
def State.retraining (s : State) : Bool := s.hbm.chans.any (fun e => (e.2.evacAt.isSome && e.2.retrain) || e.2.training == some true)

/-- Starts the evacuation of pseudo-channels of a channel (R487 step 1). -/
def State.startEvac (s : State) (c : Nat) (pcs : List Nat) : State :=
  let a := pcs.foldl (fun (b : State) p => if (b.pcOf p).state == 0 then b.setPc p { b.pcOf p with state := 1 } else b) s
  if (s.hbmChan c).evacAt.isSome then a else a.setHbmChan c { a.hbmChan c with evacAt := some s.time.ticks }

/-- R485, R486: starts the planned retrain that has waited, of the lowest channel, while none is in progress. -/
def State.nextRetrain (s : State) : State :=
  if s.retraining then s
  else match s.hbm.chans.find? (fun e => e.2.queued && e.2.evacAt.isNone && e.2.training.isNone) with
  | none => s
  | some (c, x) =>
    if (s.pcOf (2 * c)).state == 2 && (s.pcOf (2 * c + 1)).state == 2 then s.setHbmChan c { x with queued := false }
    else (s.setHbmChan c { x with queued := false, retrain := true }).startEvac c [2 * c, 2 * c + 1]

/-- Asks for a planned retrain of a channel (R485). -/
def State.askRetrain (s : State) (c : Nat) : State := (s.setHbmChan c { s.hbmChan c with queued := true }).nextRetrain

/-- R489: an unplanned retrain takes the channel out of service at once. -/
def State.unplanned (s : State) (c : Nat) : State :=
  let a := [2 * c, 2 * c + 1].foldl (fun (b : State) p =>
    if (b.pcOf p).state == 2 then b else b.setPc p { b.pcOf p with state := 3 }) s
  a.setHbmChan c { a.hbmChan c with training := some false, trainAt := s.time.ticks, replay := none, failed := 0 }

/-- R487: copies one live segment to a granted slot and switches the reference; a segment that no queue reaches is left to the
audit. None where no slot can be granted. -/
def State.relocate (s : State) (seg q : Nat) : Option State :=
  if (s.queue q).mid.any (fun g => g.slot == some seg) then
    match s.grantSeg q with
    | none => none
    | some (i, t) =>
      let u := t.updQueue q (fun x => { x with mid := x.mid.map (fun g => if g.slot == some seg then { g with slot := some i } else g) })
      let w := (u.hbm.words.del seg).set i (u.hbm.words.getD seg {})
      some (({ u with hbm.segs := u.hbm.segs.del seg, hbm.words := w, hbm.oldSegs := u.hbm.oldSegs ++ [seg] }.chainSeg q i).bump
        1207 13)
  else some s

/-- The segments that are left in the evacuating pseudo-channels of a channel. -/
def State.evacLeft (s : State) (c : Nat) : List (Nat × Nat) :=
  [2 * c, 2 * c + 1].flatMap (fun p => if (s.pcOf p).state == 1 then s.segsOf p else [])

/-- R486, R491: what follows a finished evacuation: pseudo-channels are retired, or the channel trains. -/
def State.evacuated (s : State) (c : Nat) : State :=
  let x := s.hbmChan c
  let pcs := [2 * c, 2 * c + 1].filter (fun p => (s.pcOf p).state == 1)
  let a := pcs.foldl (fun (b : State) p => b.moveAreas p false) s
  let r := x.retire.foldl (fun (b : State) e => (b.retirePc e.1 e.2 false).finishKind (.pcRetire e.1) stOk) a
  let d := pcs.foldl (fun (b : State) p => if (b.pcOf p).state == 1 then b.setPc p { b.pcOf p with state := if x.retrain then 3 else 0 } else b) r
  let y := { d.hbmChan c with evacAt := none, retire := [], retrain := false }
  if x.retrain then d.setHbmChan c { y with training := some true, trainAt := s.time.ticks }
  else (d.setHbmChan c y).nextRetrain

/-- Moves segments in list order; none where one finds no place. -/
def State.relocateAll (s : State) (l : List (Nat × Nat)) : Option State :=
  l.foldl (fun (a : Option State) e => a.bind (fun b => b.relocate e.1 e.2)) (some s)

/-- R465: the 1/750 bits that CP5 copies in the evacuation of a channel: its live segments and its counter areas of 512. -/
def State.evacCost (s : State) (c : Nat) : Nat :=
  let homes := (List.range 128).filter (fun x =>
    let p := (s.pcOf x).remapped.getD x
    p / 2 == c && (s.pcOf p).state == 1)
  meterCost 8 * ((s.evacLeft c).length + 512 * homes.length)

/-- EVACUATION_COMPLETE (R465, R486, R487): CP5 has copied every live segment; it cannot finish before its rate allows, nor without
free slots. -/
def execEvacuationComplete (channel : Nat) (s : State) : Out :=
  if 64 ≤ channel then .fault .noSuchUnit
  else if !s.aux.pllLocked then .next s
  else if (s.hbmChan channel).training.isSome ||
      !(s.hbmChan channel).evacAt.any (fun t => s.evacCost channel ≤ s.meterRate 5 * (s.time.ticks - t)) then .next s
  else match s.relocateAll (s.evacLeft channel) with
    | none => .next s
    | some t => done s (t.evacuated channel)

/-- EVACUATION_TIMEOUT (R488, R493). -/
def execEvacuationTimeout (channel : Nat) (s : State) : Out :=
  if 64 ≤ channel then .fault .noSuchUnit
  else if !s.aux.pllLocked then .next s
  else
    let x := s.hbmChan channel
    match x.evacAt with
    | none => .next s
    | some t =>
      if !s.ended t (ms s.hbm.evacMs) || x.training.isSome then .next s
      else
        let n := (s.evacLeft channel).length
        let a := [2 * channel, 2 * channel + 1].foldl (fun (b : State) p =>
          if (b.pcOf p).state == 1 then b.setPc p { b.pcOf p with state := 0 } else b) s
        let b := (a.setHbmChan channel { x with evacAt := none, retrain := false, retire := [] }).raise 0x0B83
          (d4 (channel / 16) ++ d4 (channel % 16) ++ d4 n)
        done s (x.retire.foldl (fun (d : State) e => d.finishKind (.pcRetire e.1) stTimeout) b).nextRetrain

/-- EVACUATION_SLOT_RELEASE (R487 step 4). -/
def execEvacuationSlotRelease (segment : Nat) (s : State) : Out :=
  if !s.aux.pllLocked then .next s
  else if s.hbm.oldSegs.contains segment then
    done s ({ s with hbm.oldSegs := s.hbm.oldSegs.filter (· != segment) }.noteSegLow)
  else .next s

/-- Marks that a pseudo-channel is to be retired for a cause after evacuation (R493, R497). -/
def State.askRetire (s : State) (p cause : Nat) : State :=
  let c := p / 2
  if (s.pcOf p).state == 2 || ((s.hbmChan c).retire.get? p).isSome then s
  else (s.setHbmChan c { s.hbmChan c with retire := (s.hbmChan c).retire.set p cause }).startEvac c [p]

/-! ### Training (R483-R490) -/

/-- HBM_TRACKING (R484, R489). -/
def execHbmTracking (channel : Nat) (marginLost : Bool) (s : State) : Out :=
  if 64 ≤ channel then .fault .noSuchUnit
  else if !marginLost || !s.aux.pllLocked || (s.hbmChan channel).training.isSome ||
      ((s.pcOf (2 * channel)).state == 2 && (s.pcOf (2 * channel + 1)).state == 2) then .next s
  else done s (s.unplanned channel)

/-- The planned retrain of a channel is due: by its interval or by a temperature that has moved by more than 15 degrees. -/
def State.retrainDue (s : State) (c : Nat) : Bool :=
  let x := s.hbmChan c
  let t := (s.stack (c / 16)).temp
  s.ended x.trainAt (secs s.hbm.retrainS) || 15 < t - x.trainTemp || 15 < x.trainTemp - t

/-- PLANNED_RETRAIN_TRIGGER (R485). -/
def execPlannedRetrainTrigger (channel : Nat) (s : State) : Out :=
  if 64 ≤ channel then .fault .noSuchUnit
  else if s.aux.pllLocked && s.retrainDue channel && !(s.hbmChan channel).queued then done s (s.askRetrain channel)
  else .next s

/-- CHANNEL_TRAINING_END (R483, R490): a training of the channel has ended; `ok0` and `ok1` say whether each pseudo-channel
found a working setting. The first one, in Configure, is the training at start. -/
def execChannelTrainingEnd (channel : Nat) (ok0 ok1 : Bool) (s : State) : Out :=
  if 64 ≤ channel then .fault .noSuchUnit
  else if !s.aux.pllLocked then .next s
  else
    let x := s.hbmChan channel
    let start := x.training.isNone && !x.started && s.mode.mode == mdConfigure
    if !start && x.training.isNone then .next s
    else
      let planned := x.training == some true
      let cause := if start then 1 else if planned then 2 else 3
      let a := s.setHbmChan channel { x with
        training := none, started := true, trainAt := s.time.ticks, trainTemp := (s.stack (channel / 16)).temp }
      let b := [(2 * channel, ok0), (2 * channel + 1, ok1)].foldl (fun (d : State) e =>
        if (d.pcOf e.1).state == 2 then d
        else if !e.2 then
          let g := (d.retirePc e.1 cause (cause == 3)).finishKind (.pcRetire e.1) stOk
          g.setHbmChan channel { g.hbmChan channel with retire := (g.hbmChan channel).retire.del e.1 }
        else if (d.pcOf e.1).state != 3 then d
        else
          let evac := x.evacAt.isSome && (x.retrain || (x.retire.get? e.1).isSome)
          d.setPc e.1 { d.pcOf e.1 with state := if evac then 1 else 0 }) a
      let d := if start then b
        else (b.bump 1207 14 channel).raise 0x0B82 (d4 (channel / 16) ++ d4 (channel % 16) ++ d4 (b2n (!planned)) ++
          d4 ((s.time.ticks - x.trainAt) / 750))
      done s d.nextRetrain

/-- STACK_TEMPERATURE_REPORT (R469, R485, event 0x0B87). -/
def execStackTemperatureReport (stack tempC : Nat) (s : State) : Out :=
  if 4 ≤ stack then .fault .noSuchUnit
  else if !s.aux.pllLocked then .next s
  else
    let x := s.stack stack
    let a := s.setStack stack { x with
      temp := tempC, halfRefresh := 85 ≤ tempC, hot := if x.hot then 90 ≤ tempC else 95 ≤ tempC }
    let b := if !x.hot && 95 ≤ tempC then a.raise 0x0B87 (d4 stack ++ d4 tempC) else a
    done s (((List.range 16).map (fun i => 16 * stack + i)).foldl (fun (d : State) c =>
      let t := (d.hbmChan c).trainTemp
      if (d.hbmChan c).started && (15 < tempC - t || 15 < t - tempC) && !(d.hbmChan c).queued &&
          (d.hbmChan c).training.isNone && !(d.hbmChan c).retrain then d.askRetrain c else d) b)

/-! ### Replay (R480, R481) -/

/-- HBM_PARITY_ERROR (R480, R481): the indication identifies a command of the retry buffer. One that comes before the reissue has
ended fails the replay; after three such, the channel retrains without evacuation. -/
def execHbmParityError (channel from_ : Nat) (s : State) : Out :=
  if 64 ≤ channel then .fault .noSuchUnit
  else if !s.aux.pllLocked then .next s
  else
    let x := s.hbmChan channel
    if x.training.isSome || !x.retry.contains from_ then .next s
    else if x.replay.isSome then
      let a := s.bump 1207 3 channel
      if 3 ≤ x.failed + 1 then done s (a.unplanned channel)
      else done s ((a.setHbmChan channel { x with replay := some from_, failed := x.failed + 1 }).bump 1207 2 channel)
    else done s ((s.setHbmChan channel { x with replay := some from_ }).bump 1207 2 channel)

/-- REPLAY_REISSUE (R480): the commands are reissued in their order and leave memory as an error-free run would. -/
def execReplayReissue (channel : Nat) (s : State) : Out :=
  if 64 ≤ channel then .fault .noSuchUnit
  else if !s.aux.pllLocked then .next s
  else
    let x := s.hbmChan channel
    if x.replay.isNone then .next s
    else done s (s.setHbmChan channel { x with replay := none, failed := 0 })

/-! ### Access errors and row repair (R477-R479, R494-R497) -/

/-- R494: the repair of a row starts. -/
def State.rowError (s : State) (p b row : Nat) (correctable repairable : Bool) : State :=
  let x := s.bank p b
  if (s.pcOf p).withheld.contains (b, row) || x.repairs.any (fun r => r.1 == row) then s
  else s.setBank p b { x with repairs := x.repairs ++ [(row, repairable, correctable)] }

/-- HBM_READ_ERROR (R477-R479, R494). -/
def execHbmReadError (pc bank row : Nat) (correctable repairable : Bool) (use : HbmUse) (s : State) : Out :=
  if 128 ≤ pc || 32 ≤ bank || 16384 ≤ row then .fault .noSuchUnit
  else if (s.pcOf pc).state == 2 || !s.aux.pllLocked then .next s
  else
    let a := s.bump 1207 (if correctable then 0 else 1) pc
    let b := if correctable then a
      else match use with
        | .segment seg first =>
          (a.segLost seg first).refreshTm
        | .counter i => a.zeroPairs (2 * i) 2 (fun p => p / 2 == i)
    done s (b.rowError pc bank row correctable repairable)

/-- Bank and row of a counter access (R458, R459). -/
def counterPlace (i : Nat) : Nat × Nat :=
  let n := i / 128
  let q := 4 * (130560 + n / 128) + n % 128 / 32
  (q % 8 * 4 + q / 8 % 4, q / 32)

/-- COUNTER_SCRUB (R482): CP6 reads a counter access and finds no error, or one. -/
def execCounterScrub (access : Nat) (correctable : Option Bool) (repairable : Bool) (s : State) : Out :=
  if 8388608 ≤ access then .fault .noSuchUnit
  else
    let p := (s.pcOf (access % 128)).remapped.getD (access % 128)
    match correctable with
    | none => .next s
    | some good =>
      if !s.aux.pllLocked || s.pcWaits p then .next s
      else
        let a := s.bump 1207 (if good then 0 else 1) p
        let b := if good then a else a.zeroPairs (2 * access) 2 (fun x => x / 2 == access)
        done s (b.rowError p (counterPlace access).1 (counterPlace access).2 good repairable)

/-- ROW_REPAIR_DONE (R494, R496, R497): the row in hand is repaired, or withheld where the bank has no resource left. A counter
segment in a withheld row moves to a free spill slot of the pseudo-channel. -/
def execRowRepairDone (pc bank : Nat) (s : State) : Out :=
  if 128 ≤ pc || 32 ≤ bank then .fault .noSuchUnit
  else if !s.aux.pllLocked then .next s
  else
    let x := s.bank pc bank
    match x.repairs with
    | [] => .next s
    | (row, spare, good) :: r =>
      let a := s.setBank pc bank { x with repairs := r, openRow := none }
      let rec_ (k : Nat) : Repair :=
        { kind := k, die := 2, cause := b2n (!good), unit := pc, index := bank * 65536 + row, hours := s.hours }
      if spare then
        done s (((a.bump 1207 15).record (rec_ 0xC)).raise 0x0B84 (d4 pc ++ d4 bank ++ d4 row ++ d4 0))
      else
        let y := a.pcOf pc
        let moved := if 130560 ≤ 8 * row then a.someSlots pc 1 else []
        let b := a.setPc pc { y with withheld := y.withheld ++ [(bank, row)], area := y.area ++ moved }
        let c := ((b.bump 1207 16).record (rec_ 0xD)).raise 0x0B84 (d4 pc ++ d4 bank ++ d4 row ++ d4 1)
        done s (if 64 ≤ (c.pcOf pc).withheld.length then c.askRetire pc 4 else c)

/-! ### The commands of class 0x0B -/

/-- HBM_CONFIG (Table 12-5). -/
def hbmConfigSpec : CmdSpec := { opcode := 0x0B01, long := fun b => 16 ≤ b.length, clean := fun b => rsv b 12 4 }

def cmdHbmConfig (c : Cmd) (s : State) : Res :=
  gate hbmConfigSpec (fun c s =>
    let b := c.payload
    if !inRange (le b 0 4) 10 10000 || !inRange (le b 4 4) 60 86400 || !inRange (le b 8 2) 100 4000 ||
        !inRange (le b 10 2) 10 10000 then Res.err s stBadParam
    else { st := { s with
      hbm.srIdleUs := le b 0 4, hbm.retrainS := le b 4 4, hbm.evacGbps := le b 8 2, hbm.evacMs := le b 10 2 } }) c s

def execHbmConfig (c : Cmd) (s : State) : Out := serve c cmdHbmConfig s

/-- Table 12-6. -/
def State.pcRecord (s : State) (p : Nat) : Nat :=
  let x := s.pcOf p
  let k := s.stack (p / 32)
  x.state * 4611686018427387904 + s.freeSlots p * 17592186044416 + x.withheld.length % 128 * 137438953472 +
    k.temp % 256 * 536870912 + b2n k.selfRefresh * 268435456 + b2n x.remapped.isSome * 134217728 + x.cause * 16777216

/-- HBM_STATUS_GET. -/
def hbmStatusGetSpec : CmdSpec :=
  { opcode := 0x0B02, long := fun b => 4 ≤ b.length, clean := fun b => rsv b 2 2, size := fun b => 8 * byteAt b 1
    reads := true }

def cmdHbmStatusGet (c : Cmd) (s : State) : Res :=
  gate hbmStatusGetSpec (fun c s =>
    let p := byteAt c.payload 0
    let n := byteAt c.payload 1
    if !inRange n 1 128 || 128 < p + n then Res.err s stBadParam
    else { st := s, result := (List.range n).flatMap (fun i => toLe 8 (s.pcRecord (p + i))) }) c s

def execHbmStatusGet (c : Cmd) (s : State) : Out := serve c cmdHbmStatusGet s

/-- HBM_RETRAIN (R485). -/
def hbmRetrainSpec : CmdSpec := { opcode := 0x0B03, long := fun b => 4 ≤ b.length, clean := fun b => rsv b 2 2 }

def cmdHbmRetrain (c : Cmd) (s : State) : Res :=
  gate hbmRetrainSpec (fun c s =>
    let k := byteAt c.payload 0
    let n := byteAt c.payload 1
    if 3 < k || 15 < n then Res.err s stBadParam
    else if s.retraining then Res.err s stBusy
    else { st := s.askRetrain (16 * k + n) }) c s

def execHbmRetrain (c : Cmd) (s : State) : Out := serve c cmdHbmRetrain s

/-- HBM_PC_RETIRE (R488, R493). -/
def hbmPcRetireSpec : CmdSpec := { opcode := 0x0B04, long := fun b => 4 ≤ b.length, clean := fun b => rsv b 1 3 }

def cmdHbmPcRetire (c : Cmd) (s : State) : Res :=
  gate hbmPcRetireSpec (fun c s =>
    let p := byteAt c.payload 0
    if 127 < p then Res.err s stBadParam
    else if (s.pcOf p).state == 2 then { st := s }
    else { st := s.askRetire p 5, async := some (.pcRetire p) }) c s

def execHbmPcRetire (c : Cmd) (s : State) : Out := serve c cmdHbmPcRetire s

/-- HBM_PC_RESTORE (R492, R493): whether training succeeds is not stated (log 17). -/
def hbmPcRestoreSpec : CmdSpec :=
  { opcode := 0x0B05, long := fun b => 4 ≤ b.length, clean := fun b => rsv b 1 3
    mode := fun _ s => if s.mode.mode == mdConfigure then 0 else stWrongMode }

def cmdHbmPcRestore (c : Cmd) (s : State) : Res :=
  gate hbmPcRestoreSpec (fun c s =>
    let p := byteAt c.payload 0
    let n := s.tbl.freeIx
    let a := { s with tbl.freeIx := n + 1 }
    if 127 < p || (s.pcOf p).state != 2 then Res.err s stBadParam
    else if !Config.pcTrains n then { st := a, status := stRefused, keep := true }
    else
      let b := a.setPc p { a.pcOf p with state := 0, cause := 0 }
      let l := s.mode.repairs.map (fun r => if r.kind == 0xE && r.unit == p then { r with flags := r.flags ||| 2 } else r)
      { st := { b with mode.repairs := l, mode.uncommitted := s.mode.uncommitted + 1 }.retireLimit }) c s

def execHbmPcRestore (c : Cmd) (s : State) : Out := serve c cmdHbmPcRestore s

/-- Table 12-7. -/
def hbmDims : List (Nat × Nat) :=
  [(128, 1), (128, 1), (64, 1), (64, 1), (7, 1), (1, 1), (1, 1), (4, 1), (4, 1), (4, 1), (1, 1), (1, 1), (1, 1), (1, 1),
    (64, 1), (1, 1), (1, 1)]

/-- HBM_COUNTERS_GET. -/
def hbmCountersGetSpec : CmdSpec := { opcode := 0x0B06, size := fun _ => snapSize hbmDims, reads := true }

def cmdHbmCountersGet (c : Cmd) (s : State) : Res :=
  gate hbmCountersGetSpec (fun _ s => { st := s, result := s.snap 1207 hbmDims }) c s

def execHbmCountersGet (c : Cmd) (s : State) : Out := serve c cmdHbmCountersGet s

end Sys2Proof.Machine
end

