-- ==== Sys2Proof/Machine/Time.lean ====
section
/-! DEFINITION. The time base (13_time.md): increment, steps, holdover, the PPS pins, and the commands of class 0x0C. -/
namespace Sys2Proof.Machine
open Sys2Proof

/-! ### The accumulator (R498-R510) -/

/-- R498: on every tick the accumulator takes the increment, modulo 2^64; it runs whenever the root PLL is locked (R499).
The count of ticks by which durations are measured (R507) goes on in every state. -/
def State.advance (s : State) : State :=
  { s with
    time.ticks := s.time.ticks + 1
    time.acc := if s.aux.pllLocked then s.time.acc + s.time.inc.setWidth 64 else s.time.acc }

/-- R731: FL_RESET_N goes high 10 µs after the entry into Boot. -/
def State.flashPin (s : State) : State :=
  if !s.aux.flResetN && s.mode.mode != mdStandby && s.ended s.aux.flResetAt (us 10) then { s with aux.flResetN := true } else s

/-- A tick of the time base, with the windows that end at it. -/
def State.tickTime (s : State) : State := s.advance.rollWindows.flashPin

/-- R501, R514: an accepted increment, which the next tick adds; it ends holdover. -/
def State.writeInc (s : State) (v : BitVec 40) : State :=
  let a := { s with time.inc := v }.tickTime
  let b := { a with time.incTick := a.time.ticks, time.incT32 := a.t32, time.holdover := false }.bump 1306 0
  if s.time.holdover then b.raise 0x0C85 (d8 v.toNat) else b

/-- R510: the T32 values of staged operations, of sample sets and histograms that have not begun, and of the PPS output. -/
def State.stagedTimes (s : State) : List T32 :=
  (s.time.step.map (·.t)).toList ++ s.tbl.batches.map (·.t) ++ s.sec.secys.filterMap (fun e => e.2.switch.map (·.2)) ++
    (s.tel.perfOp.map (·.t)).toList ++ (s.hier.staged.map (·.t)).toList ++
    (s.sched.samples.filter (fun e => e.2.enable && !e.2.begun)).map (fun e => e.2.start) ++
    (s.tel.hists.filter (fun e => e.2.enable && !e.2.begun)).map (fun e => e.2.start) ++
    (if s.time.ppsOutEn then [s.time.ppsTarget] else [])

/-- R510: after a step of `off` ns no such time lies 2,000,000,000 ns or more ahead. -/
def State.stepFits (s : State) (off : Int) : Bool :=
  0 ≤ off || (s.stagedTimes.filter (fun t => !s.t32.reached t)).all (fun t =>
    (t - (s.t32 + BitVec.ofInt 32 off)).toNat < 2000000000)

/-- R526: a rising edge of PPS_OUT; `k` periods take the target on. -/
def State.ppsRises (s : State) (k : Nat) : State :=
  { s with
    time.ppsOut := true, time.ppsRise := s.time.ticks
    time.ppsTarget := s.time.ppsTarget + BitVec.ofNat 32 (k * s.time.ppsPeriod) }.bump 1306 7

/-- PPS_OUT may go high (R528). -/
def State.ppsDrives (s : State) : Bool := s.time.ppsOutEn && s.aux.pllLocked && s.mode.mode != mdQuarantine

/-- What a step of `off` ns moves besides T32: retirements (R204) and the PPS output (R527). `s0` is the state before it. -/
def State.afterStep (s s0 : State) (off : Int) : State :=
  let a := if off < 0 then s.delayRetire off.natAbs else s
  if 0 < off && s.ppsDrives && !s0.t32.reached s.time.ppsTarget && s.t32.reached s.time.ppsTarget then
    (a.ppsRises ((s.t32 - s.time.ppsTarget).toNat / s.time.ppsPeriod + 1)).bump 1306 8
  else a

/-- R502: adds an offset to T32 at one tick and leaves the fraction unchanged. -/
def State.applyStep (s : State) (off : Int) : State :=
  (({ s with time.acc := s.time.acc + (BitVec.ofInt 64 off <<< 32) }.rollWindows).afterStep s off).bump 1306 1

/-- R503, R510: a step is refused: event 0x0C83. -/
def State.refuseStep (s : State) (off : Int) : State := (s.bump 1306 2).raise 0x0C83 (d4s off ++ d4 s.time.stepThreshold)

/-! ### Commands -/

/-- TIME_GET (R514, Table 13-4). -/
def timeGetSpec : CmdSpec := { opcode := 0x0C01, size := fun _ => 24, reads := true }

def cmdTimeGet (c : Cmd) (s : State) : Res :=
  gate timeGetSpec (fun _ s =>
    { st := s, result := toLe 4 s.t32.toNat ++ toLe 4 (s.time.acc.toNat % 4294967296) ++ toLe 8 s.time.inc.toNat ++
        toLe 4 s.timeStatus ++ toLe 4 s.time.incT32.toNat }) c s

def execTimeGet (c : Cmd) (s : State) : Out := serve c cmdTimeGet s

/-- R530: a worker's clock is steered by its own firmware. -/
def steered (s : State) : Nat := if s.isWorker then stRefused else 0

/-- TIME_INCREMENT_SET (R500, R501). -/
def timeIncrementSetSpec : CmdSpec :=
  { opcode := 0x0C02, long := fun b => 8 ≤ b.length, clean := fun b => rsv b 5 3, size := fun _ => 4
    mode := fun _ s => steered s, relayed := false }

def cmdTimeIncrementSet (c : Cmd) (s : State) : Res :=
  gate timeIncrementSetSpec (fun c s =>
    let v := le c.payload 0 5
    if !inRange v 0x0154FDF3B6 0x0155ACB6F4 then Res.err s stBadParam
    else
      let t := s.writeInc (BitVec.ofNat 40 v)
      { st := t, result := toLe 4 t.time.incT32.toNat }) c s

def execTimeIncrementSet (c : Cmd) (s : State) : Out := serve c cmdTimeIncrementSet s

/-- TIME_STEP (R502-R504, R510, R743): the step of an untimed command takes place at the next tick. -/
def timeStepSpec : CmdSpec :=
  { opcode := 0x0C03, long := fun b => 8 ≤ b.length, size := fun _ => 4, mode := fun _ s => steered s, relayed := false }

def cmdTimeStep (c : Cmd) (s : State) : Res :=
  gate timeStepSpec (fun c s =>
    let off := leS c.payload 0 4
    let t : T32 := BitVec.ofNat 32 (le c.payload 4 4)
    let refused : Res := { st := s.refuseStep off, status := stRefused, keep := true }
    if t != 0 && !T32.validCommit s.t32 t then Res.err s stBadParam
    else if t != 0 && s.time.step.isSome then Res.err s stBusy
    else if s.time.stepThreshold < off.natAbs then refused
    else if !s.stepFits off then refused
    else if t != 0 then { st := { s with time.step := some { offset := off, t } }, result := zeros 4 }
    else
      let u := s.advance.applyStep off
      { st := u, result := toLe 4 u.t32.toNat }) c s

def execTimeStep (c : Cmd) (s : State) : Out := serve c cmdTimeStep s

/-- TIMED_STEP_DUE (R504, R510, R512). -/
def execTimedStepDue (s : State) : Out :=
  if !s.aux.pllLocked then .next s
  else match s.time.step with
  | none => .next s
  | some x =>
    if !s.t32.reached x.t then .next s
    else
      let a := { s with time.step := none }
      done s (if a.stepFits x.offset then a.applyStep x.offset else a.refuseStep x.offset)

/-- TIME_SET (R506). -/
def timeSetSpec : CmdSpec :=
  { opcode := 0x0C04, long := fun b => 8 ≤ b.length, relayed := false
    mode := fun _ s => if s.isWorker then stRefused else if s.mode.mode == mdConfigure then 0 else stWrongMode }

def cmdTimeSet (c : Cmd) (s : State) : Res :=
  gate timeSetSpec (fun c s =>
    let v := le c.payload 0 4
    let d : Int := T32.diff (BitVec.ofNat 32 v) s.t32
    if !s.stepFits d then { st := s.refuseStep d, status := stRefused, keep := true }
    else
      let a : State := { s with time.acc := BitVec.ofNat 64 (v * 4294967296 + le c.payload 4 4) }
      { st := a.rollWindows.afterStep s d }) c s

def execTimeSet (c : Cmd) (s : State) : Out := serve c cmdTimeSet s

/-- TIME_CONFIG (R503, R513). -/
def timeConfigSpec : CmdSpec := { opcode := 0x0C05, long := fun b => 8 ≤ b.length, clean := fun b => rsv b 6 2 }

def cmdTimeConfig (c : Cmd) (s : State) : Res :=
  gate timeConfigSpec (fun c s =>
    let t := le c.payload 0 4
    let h := le c.payload 4 2
    if !inRange t 1000 1000000000 || !inRange h 1 600 then Res.err s stBadParam
    else { st := { s with time.stepThreshold := t, time.holdoverS := h } }) c s

def execTimeConfig (c : Cmd) (s : State) : Out := serve c cmdTimeConfig s

/-- TS_PORT_SET (R516). -/
def tsPortSetSpec : CmdSpec :=
  { opcode := 0x0C06, long := fun b => 8 ≤ b.length, clean := fun b => rsv b 1 1 && rsv b 6 2 }

def cmdTsPortSet (c : Cmd) (s : State) : Res :=
  gate tsPortSetSpec (fun c s =>
    let p := byteAt c.payload 0
    if !s.portExists p then Res.err s stNotFound
    else { st := s.updPrt p (fun x => { x with rxAdjust := leS c.payload 2 2, txAdjust := leS c.payload 4 2 }) }) c s

def execTsPortSet (c : Cmd) (s : State) : Out := serve c cmdTsPortSet s

/-- PPS_CONFIG (R524, R526, R528, Table 13-5). -/
def ppsConfigSpec : CmdSpec :=
  { opcode := 0x0C07, long := fun b => 20 ≤ b.length, clean := fun b => flagsIn b 0 2 && rsv b 1 1 && rsv b 6 2 }

def cmdPpsConfig (c : Cmd) (s : State) : Res :=
  gate ppsConfigSpec (fun c s =>
    let b := c.payload
    let inEn := bit (byteAt b 0) 0
    let outEn := bit (byteAt b 0) 1
    let t : T32 := BitVec.ofNat 32 (le b 8 4)
    let period := le b 12 4
    let width := le b 16 4
    if (outEn && !T32.validCommit s.t32 t) || !inRange period 1000000 1000000000 || width < 1000 || period < 2 * width then
      Res.err s stBadParam
    else
      { st := { s with
          time.ppsInEn := inEn, time.ppsInMasked := s.time.ppsInMasked && !inEn
          time.ppsWin := if inEn then [] else s.time.ppsWin
          time.ppsInAdjust := leS b 2 2, time.ppsOutAdjust := leS b 4 2, time.ppsOutEn := outEn, time.ppsTarget := t
          time.ppsPeriod := period, time.ppsWidth := width, time.ppsOut := s.time.ppsOut && outEn } }) c s

def execPpsConfig (c : Cmd) (s : State) : Out := serve c cmdPpsConfig s

/-- Table 13-6. -/
def timeDims : List (Nat × Nat) :=
  [(1, 1), (1, 1), (1, 1), (1, 1), (4, 1), (1, 1), (1, 1), (1, 1), (1, 1), (1, 1)]

/-- TIME_COUNTERS_GET. -/
def timeCountersGetSpec : CmdSpec := { opcode := 0x0C08, size := fun _ => snapSize timeDims, reads := true }

def cmdTimeCountersGet (c : Cmd) (s : State) : Res :=
  gate timeCountersGetSpec (fun _ s => { st := s, result := s.snap 1306 timeDims }) c s

def execTimeCountersGet (c : Cmd) (s : State) : Out := serve c cmdTimeCountersGet s

/-! ### Holdover and the PPS pins (R513, R522-R528) -/

/-- HOLDOVER_TIMEOUT (R513). -/
def execHoldoverTimeout (s : State) : Out :=
  if !s.aux.pllLocked then .next s
  else if !s.time.holdover && s.ended s.time.incTick (secs s.time.holdoverS) then
    done s (({ s with time.holdover := true }.bump 1306 3).raise 0x0C84 (d4 s.time.incT32.toNat))
  else .next s

/-- PPS_OUT_TARGET (R526, R528). -/
def execPpsOutTarget (s : State) : Out :=
  if s.ppsDrives && s.t32.reached (s.time.ppsTarget - BitVec.ofInt 32 s.time.ppsOutAdjust) then done s (s.ppsRises 1)
  else .next s

/-- PPS_OUT_WIDTH_END (R526): width in ticks of 4/3 ns. -/
def execPpsOutWidthEnd (s : State) : Out :=
  if s.time.ppsOut && s.ended s.time.ppsRise (ceilDiv (s.time.ppsWidth * 3) 4) then done s { s with time.ppsOut := false }
  else .next s

/-- PPS_IN_EDGE (R522-R524): an edge is accepted, or ignored within 0.5 s of the last accepted one. -/
def execPpsInEdge (s : State) : Out :=
  if !s.time.ppsInEn || s.time.ppsInMasked || !s.aux.pllLocked then .next s
  else if s.time.ppsLast.any (fun a => s.time.ticks < a.1 + ms 500) then
    let l := s.time.ppsWin.filter (fun t => s.time.ticks < t + secs 1) ++ [s.time.ticks]
    let a := ({ s with time.ppsWin := l, time.ppsIgnored := s.time.ppsIgnored + 1 }.bump 1306 6).raiseLim 0x0C86 0 (fun n => d4 n)
    done s (if 100 < l.length then { a with time.ppsInMasked := true }.raise 0x0C88 (d4 l.length) else a)
  else
    let t : T32 := s.t32 + BitVec.ofInt 32 s.time.ppsInAdjust
    let a := { s with time.ppsLast := some (s.time.ticks, t), time.ppsInLost := false, time.ppsIgnored := 0 }.bump 1306 5
    done s (a.raise 0x0C82 (d4 t.toNat ++ d4 s.time.ppsIgnored))

/-- PPS_IN_LOST (R525). -/
def execPpsInLost (s : State) : Out :=
  if !s.aux.pllLocked then .next s
  else match s.time.ppsLast with
  | none => .next s
  | some (a, t) =>
    if s.time.ppsInEn && !s.time.ppsInLost && s.ended a (ms 1500) then
      done s ({ s with time.ppsInLost := true }.raise 0x0C87 (d4 t.toNat))
    else .next s

end Sys2Proof.Machine
end

