-- ==== Sys2Proof/Machine/Modes.lean ====
section
/-! DEFINITION. Operating modes and self-repair (17_modes_and_repair.md): the commands of class 0x10, the degraded
conditions, the repair map in flash, the watch of the TM die service cores, and the die-to-die modules (R13-R17). -/
namespace Sys2Proof.Machine
open Sys2Proof

/-! ### MODE_SET and the status commands -/

/-- The modes that MODE_SET or a committed hierarchy change may enter from a mode (Table 17-1). -/
def commanded (m : Nat) : List Nat :=
  if m == mdConfigure then [4]
  else if m == mdBringUp then [5, 8]
  else if m == mdForwarding then [6, 7, 8]
  else if m == mdParked then [5, 7, 8]
  else if m == mdDrain then [5, 6, 8]
  else if m == mdMaintenance then [5, 6, 7]
  else if m == mdDegraded then [5, 6, 7, 8]
  else []

/-- MODE_SET (R661-R668, R765). -/
def modeSetSpec : CmdSpec :=
  { opcode := 0x1001, long := fun b => 4 ≤ b.length, clean := fun b => rsv b 2 2
    tm := fun b => byteAt b 0 == mdQuarantine }

def cmdModeSet (c : Cmd) (s : State) : Res :=
  gate modeSetSpec (fun c s =>
    let m := byteAt c.payload 0
    if m == mdQuarantine then
      if byteAt c.payload 1 != 0xA5 then Res.err s stBadParam
      else { st := s.quarantine 6 }
    else if !inRange m mdBringUp mdMaintenance then Res.err s stBadParam
    else if s.hier.member && inRange m mdForwarding mdMaintenance then Res.err s stRefused
    else if !(commanded s.mode.mode).contains m then Res.err s stWrongMode
    else if s.mode.mode == mdDegraded && s.mode.conds != 0 && m != mdDrain then Res.err s stRefused s.mode.conds
    else { st := s.requestMode m mcCommand }) c s

def execModeSet (c : Cmd) (s : State) : Out := serve c cmdModeSet s

/-- MODE_STATUS_GET (Table 17-10). -/
def modeStatusGetSpec : CmdSpec := { opcode := 0x1002, size := fun _ => 20, reads := true, tm := fun _ => true }

def cmdModeStatusGet (c : Cmd) (s : State) : Res :=
  gate modeStatusGetSpec (fun _ s =>
    { st := s, result := toLe 1 s.mode.mode ++ toLe 1 s.mode.prev ++ toLe 1 s.mode.target ++ toLe 1 s.mode.cause ++
        toLe 4 s.mode.conds ++ toLe 4 s.hier.epoch ++ toLe 4 s.mode.entered.toNat ++
        toLe 1 (b2n s.mode.tmDeputy + 2 * b2n s.mode.gaveUp) ++ zeros 3 }) c s

def execModeStatusGet (c : Cmd) (s : State) : Out := serve c cmdModeStatusGet s

/-- Spares built and left of one unit kind, as REPAIR_STATUS_GET returns them: built, used, left. -/
def spareLine (built left : Nat) : Bytes := toLe 4 built ++ toLe 4 (built - left) ++ toLe 4 left

/-- Table 17-6: the spares of each unit kind, in the order of its rows. -/
def State.spareLines (s : State) : Bytes :=
  let rowsUsed := (s.mode.macros.map (fun e => e.2.rows)).sum
  let colsUsed := (s.mode.macros.map (fun e => e.2.cols)).sum
  let hbmBuilt := Config.hbmHardRows + 64 * 128
  let hbmUsed := (s.mode.repairs.filter (fun r => r.kind == 0xC || r.kind == 0xD)).length
  spareLine 18432 (18432 - rowsUsed) ++ spareLine 4608 (4608 - colsUsed) ++ spareLine 4 s.tcam.spares.length ++
    spareLine 1 (1 - s.parse.pipesOut.length) ++ spareLine 1 (1 - s.tbl.pipesOut.length) ++
    spareLine 4 s.edit.sparesLeft.length ++ spareLine 1 s.mode.coreSpares ++
    spareLine 64 (64 - (s.mode.d2dLanes.map Prod.snd).sum) ++ spareLine 5 (5 - s.mode.d2dOut.length) ++
    spareLine hbmBuilt (hbmBuilt - hbmUsed) ++ spareLine 8 (8 - s.retiredPcs)

/-- REPAIR_STATUS_GET (R683). -/
def repairStatusGetSpec : CmdSpec := { opcode := 0x1003, size := fun _ => 136, reads := true, tm := fun _ => true }

def cmdRepairStatusGet (c : Cmd) (s : State) : Res :=
  gate repairStatusGetSpec (fun _ s => { st := s, result := s.spareLines ++ toLe 4 s.sramRepairs }) c s

def execRepairStatusGet (c : Cmd) (s : State) : Out := serve c cmdRepairStatusGet s

/-- A record of the repair map, 16 bytes (Table 17-7). -/
def Repair.encode (r : Repair) : Bytes :=
  toLe 1 r.kind ++ toLe 1 r.die ++ toLe 1 r.cause ++ toLe 1 r.flags ++ toLe 4 r.unit ++ toLe 4 r.index ++ toLe 4 r.hours

/-- REPAIR_MAP_READ: the records that exist among those named; the map has 65,280 record slots. -/
def repairMapReadSpec : CmdSpec :=
  { opcode := 0x1004, long := fun b => 4 ≤ b.length, size := fun b => 16 * le b 2 2, reads := true, tm := fun _ => true }

def cmdRepairMapRead (c : Cmd) (s : State) : Res :=
  gate repairMapReadSpec (fun c s =>
    let first := le c.payload 0 2
    let n := le c.payload 2 2
    if !inRange n 1 256 || 65280 < first + n then Res.err s stBadParam
    else { st := s, result := ((s.mode.repairs.drop first).take n).flatMap Repair.encode }) c s

def execRepairMapRead (c : Cmd) (s : State) : Out := serve c cmdRepairMapRead s

/-- DEVICE_RESET: both dies are reset 10 ms after its completion. -/
def deviceResetSpec : CmdSpec :=
  { opcode := 0x1005
    mode := fun _ s => if s.mode.mode == mdConfigure || s.mode.mode == mdQuarantine then 0 else stWrongMode }

def cmdDeviceReset (c : Cmd) (s : State) : Res :=
  gate deviceResetSpec (fun _ s =>
    { st := if s.mode.resetAt.isSome then s else { s with mode.resetAt := some s.time.ticks } }) c s

def execDeviceReset (c : Cmd) (s : State) : Out := serve c cmdDeviceReset s

/-- RESET_DELAY_EXPIRY (R662). -/
def execResetDelayExpiry (s : State) : Out :=
  match s.mode.resetAt with
  | some t => if s.ended t (ms 10) then done s s.resetDies else .next s
  | none => .next s

/-- REPAIR_CONFIG (R683). -/
def repairConfigSpec : CmdSpec := { opcode := 0x1007, long := fun b => 4 ≤ b.length, clean := fun b => rsv b 2 2 }

def cmdRepairConfig (c : Cmd) (s : State) : Res :=
  gate repairConfigSpec (fun c s =>
    let v := le c.payload 0 2
    if !inRange v 1 10000 then Res.err s stBadParam
    else { st := { s with mode.rateAlarm := v }.noteRate }) c s

def execRepairConfig (c : Cmd) (s : State) : Out := serve c cmdRepairConfig s

/-! ### Conditions and Drain -/

/-- The state that a condition states still holds (Table 17-3). -/
def State.condHolds (s : State) (b : Nat) : Bool :=
  match b with
  | 0 => 6 ≤ s.mode.d2dOut.length
  | 1 => s.parsersIn ≤ 15
  | 2 => s.lookupsIn ≤ 15
  | 3 => (List.range 256).all (fun i => (s.tbl.poison.get? i).isSome)
  | 5 => [0, 1].any (fun k => (List.range 8).any (fun g => 2 < s.removedIn k g))
  | 6 => s.ports.any (fun p => !s.hasEngine p)
  | 7 => 8 < s.retiredPcs
  | _ => true

/-- The dies run with their root PLL locked: not in Standby, Recovery or Boot. -/
def State.inService (s : State) : Bool :=
  s.aux.pllLocked && !(s.mode.mode == mdStandby || s.mode.mode == mdRecovery || s.mode.mode == mdBoot)

/-- DEGRADED_CONDITION_ARISES (R664, R675). -/
def execDegradedConditionArises (bit : Nat) (s : State) : Out :=
  if 12 ≤ bit then .fault .noSuchUnit
  else if s.inService then done s (s.setCond bit)
  else .next s

/-- DEGRADED_CONDITION_CLEARS (R675): only when the stated state no longer holds. -/
def execDegradedConditionClears (bit : Nat) (s : State) : Out :=
  if 12 ≤ bit then .fault .noSuchUnit
  else if s.inService && !s.condHolds bit then done s (s.clearCond bit)
  else .next s

/-- DRAIN_COMPLETE (R670). -/
def execDrainComplete (s : State) : Out :=
  if s.aux.pllLocked && s.mode.mode == mdDrain && !s.mode.drainSaid && s.queuesEmpty then
    done s ({ s with mode.drainSaid := true }.raise 0x1082 (d4 s.t32.toNat))
  else .next s

/-! ### SRAM rows and the repair map -/

/-- SPARE_ROW_FILLED (R681): the row map switches to the filled spare. -/
def execSpareRowFilled (macro_ : Nat) (s : State) : Out :=
  if 2304 ≤ macro_ then .fault .noSuchUnit
  else if !s.aux.pllLocked then .next s
  else if (s.macro_ macro_).filling.isSome then done s (s.setMacro macro_ { s.macro_ macro_ with filling := none })
  else .next s

/-- R684, R688: one commit of the repair map, or its failure on a sector after the retries. -/
def State.commitMap (s : State) (failedSector : Option Nat) : State :=
  let a := s.mode.mapA
  let b := s.mode.mapB
  match failedSector with
  | none =>
    let w := pairWrite a b s.mode.repairs
    { s with mode.mapA := w.1, mode.mapB := w.2, mode.uncommitted := 0, mode.mapFailedAt := none }.bump 1711 8
  | some sector =>
    let e : Copy (List Repair) := { body := [] }
    let t := if writesB a b then { s with mode.mapB := e } else { s with mode.mapA := e }
    ({ t with mode.mapFailedAt := some s.time.ticks }.bump 1711 9).raise 0x1088
      (d4 1 ++ d4 (b2n (writesB a b)) ++ d4 sector)

/-- The sector lies in the region of the copy that a commit of the map writes (Table 16-3 rows 4 and 5). -/
def State.mapSector (s : State) (failedSector : Option Nat) : Bool :=
  failedSector.all (fun a => inRegion (if writesB s.mode.mapA s.mode.mapB then 5 else 4) a)

/-- REPAIR_MAP_COMMIT (R684). -/
def execRepairMapCommit (failedSector : Option Nat) (s : State) : Out :=
  if !s.mapSector failedSector then .fault .noSuchUnit
  else if s.fwRuns && s.mode.uncommitted != 0 && s.mode.mapFailedAt.isNone then done s (s.commitMap failedSector) else .next s

/-- REPAIR_MAP_RETRY (R688). -/
def execRepairMapRetry (failedSector : Option Nat) (s : State) : Out :=
  if !s.mapSector failedSector then .fault .noSuchUnit
  else match s.mode.mapFailedAt with
  | some t => if s.fwRuns && s.ended t (secs 60) then done s (s.commitMap failedSector) else .next s
  | none => .next s

/-! ### The heartbeat of firmware and the TM die service cores -/

/-- An FE service core in use: cores 0 to 3, and the spare core 4 once it has been brought in. -/
def State.coreInUse (s : State) (k : Nat) : Bool := (k < 4 || s.mode.coreSpares == 0) && !s.mode.coresDead.contains k

/-- FW_HEARTBEAT_TICK (R690, Table 14-1): HIF_FW_HEARTBEAT and the heartbeat words of the cores in use advance. -/
def execFwHeartbeatTick (s : State) : Out :=
  if s.fwRuns && (!s.hif.fwRunning || s.ended s.hif.hbTick (ms 1)) then
    done s ({ s with
      hif.heartbeat := (s.hif.heartbeat + 1) % 4294967296, hif.hbTick := s.time.ticks, hif.fwRunning := true
      hif.fwHalted := false
      mode.coreWords := s.mode.coreWords.mapIdx (fun k w => if s.coreInUse k then (w + 1) % 4294967296 else w) }.writeAnswers)
  else .next s

/-- FW_HALTED_TIMEOUT (Table 14-3, R626). -/
def execFwHaltedTimeout (s : State) : Out :=
  if !s.hif.fwHalted && s.hif.fwRunning && s.ended s.hif.hbTick (ms 200) && !(s.mode.mode == mdStandby ||
      s.mode.mode == mdRecovery || s.mode.mode == mdBoot) then
    done s { s with hif.fwHalted := true }
  else .next s

/-- TM_DEPUTY_CLEAR (R696): the restarted firmware's heartbeat has run for 10 s. -/
def execTmDeputyClear (s : State) : Out :=
  if s.mode.tmDeputy && s.fwRuns && s.ended s.fw.hbSince (secs 10) then done s { s with mode.tmDeputy := false }
  else .next s

/-- TM_CORE_FAILURE (R697): FE firmware restarts a failed TM core, at most 3 times in any 600 s, and then retires it. -/
def execTmCoreFailure (core : Nat) (s : State) : Out :=
  if 2 ≤ core then .fault .noSuchUnit
  else if !s.fwRuns || s.mode.tmDead.contains core then .next s
  else
    let l := (s.mode.tmRestarts.getD core []).filter (fun t => !s.ended t (secs 600))
    if l.length < 3 then
      done s ({ s with mode.tmRestarts := s.mode.tmRestarts.set core (l ++ [s.time.ticks]) }.bump 1711 7)
    else
      let a := { s with mode.tmDead := s.mode.tmDead ++ [core] }.record
        { kind := 9, die := 1, cause := 2, unit := core, index := 0, hours := s.hours }
      done s ((a.raise 0x1087 (d4 1 ++ d4 core ++ d4o none)).setCond 11)

/-! ### Die-to-die modules (R13-R17) -/

/-- D2D_FLIT_ERROR (R13): the CRC of a flit fails, so it is not acknowledged; the sending die replays the oldest flit of the
module that waits, and no data is lost. -/
def execD2dFlitError (at_ : FlitError) (s : State) : Out :=
  let module := at_.module
  if 16 ≤ module then .fault .noSuchUnit
  else if !s.aux.pllLocked || s.mode.d2dOut.contains module then .next s
  else
    let n := s.oldestFlit module at_.toFe
    let a := s.mapFlits (fun f => if some f.no == n then f.replay module else f)
    let b := { a with mode.d2dReplays := s.mode.d2dReplays + 1 }
    done s (if at_.toFe then b else b.perfCount 0 8 module 2)

/-- D2D_LANE_FAULT (R14-R17): one of two redundant lanes of the module and direction, else the module is retired; its
unacknowledged flits are replayed on the remaining modules, where their numbers keep their order before any newer flit
(R15, R16). -/
def execD2dLaneFault (module : Nat) (toFe : Bool) (lane : Nat) (s : State) : Out :=
  if 16 ≤ module || 66 ≤ lane then .fault .noSuchUnit
  else if !s.aux.pllLocked || s.mode.d2dOut.contains module then .next s
  else
    let key := 2 * module + b2n toFe
    let used := s.mode.d2dLanes.getD key 0
    let r (k i : Nat) : Repair := { kind := k, die := b2n toFe, cause := 2, unit := module, index := i, hours := s.hours }
    if used < 2 then done s ({ s with mode.d2dLanes := s.mode.d2dLanes.set key (used + 1) }.record (r 0xA lane))
    else
      let b := { s with mode.d2dOut := s.mode.d2dOut ++ [module] }.record (r 0xB 0)
      let moved := if toFe then [] else (b.parse.d2dQ.filter (fun d => d.flit.module == module)).map (fun d => (b.reroute module d.flit).module)
      let a := moved.foldl (fun (t : State) m => t.perfCount 0 8 m 2) (b.mapFlits (b.reroute module))
      if 12 ≤ a.mode.d2dOut.length then done s (a.quarantine 4)
      else if 6 ≤ a.mode.d2dOut.length then done s (a.setCond 0)
      else done s a

end Sys2Proof.Machine
end

