-- ==== Sys2Proof/Machine/Firmware.lean ====
section
/-! DEFINITION. Boot, firmware update and attestation (16_firmware.md), and the restart of FE firmware by the TM die service
cores (R690-R697). -/
namespace Sys2Proof.Machine
open Sys2Proof

/-! ### The ROM (R624, R685) -/

/-- An image is good under R617. -/
def State.good (s : State) (i : Image) : Bool := i.verify s.fw.floor == 2

/-- A failed verification of a region (0 image region, 1 retained-image region), for event 0x0F88. -/
def State.noteBad (s : State) (region : Nat) (i : Image) : State :=
  if s.good i then s else { s with fw.bootFail := s.fw.bootFail ++ [(region, i.verify s.fw.floor)] }

/-- R624 restore, for a cause of event 0x0F83. A retained image that does not verify is not started (R618). -/
def State.romRestore (s : State) (r : BootRec) (cause : Nat) : State × Bool :=
  let s := s.noteBad 1 s.fw.retainedRegion
  if !s.good s.fw.retainedRegion then (s, false)
  else
    let a := s.commitRec { r with state := 3 }
    let b := { a with
      fw.imageRegion := a.fw.retainedRegion, fw.reverted := some cause, fw.failedVersion := r.version, fw.flashBusy := false }
    (b.commitRec { r with
      state := 0, attempts := 0, digest := r.retDigest, version := r.retVersion, length := r.retLength, svn := r.retSvn }, true)

/-- R624 fail. -/
def State.romFail (s : State) (r : BootRec) (cause : Nat) : State × Bool :=
  if r.retainedValid then s.romRestore r cause else (s, false)

/-- R624 without the recovery request: the state with its boot record, and whether the image region runs. Causes of event
0x0F83: 1 attempts, 4 start failure, 5 power loss during write. -/
def State.romSelect (s : State) : State × Bool :=
  let img := s.fw.imageRegion
  match s.bootRec with
  | none =>
    if s.good img then
      (s.commitRec { digest := img.digest, version := img.version, length := 4096 + img.bodyLength, svn := img.svn }, true)
    else (s.noteBad 0 img, false)
  | some r =>
    let ok := s.good img && img.digest == r.digest
    if r.state == 3 then s.romRestore r 5
    else if r.state == 4 then s.romFail r 5
    else if r.state == 1 then
      if ok then
        (s.commitRec (if r.retainedValid then { r with state := 2, attempts := 2 } else { r with state := 0 }), true)
      else (s.noteBad 0 img).romFail r 5
    else if r.state == 2 && 2 ≤ r.attempts then s.romFail r 1
    else
      let a := if r.state == 2 then s.commitRec { r with attempts := r.attempts + 1 } else s
      if ok then (a, true) else (a.noteBad 0 img).romFail { r with attempts := if r.state == 2 then r.attempts + 1 else r.attempts } 4

/-- One record of the repair map as the ROM and the packet memory controller apply it at a start (R685, R493, R495). -/
def State.applyRepair (s : State) (r : Repair) : State :=
  match r.kind with
  | 1 => s.setMacro r.unit { s.macro_ r.unit with rows := (s.macro_ r.unit).rows + 1 }
  | 2 => s.setMacro r.unit { s.macro_ r.unit with cols := (s.macro_ r.unit).cols + 1 }
  | 3 => s.setMacro r.unit { s.macro_ r.unit with withheld := (s.macro_ r.unit).withheld ++ [r.index] }
  | 4 =>
    match (List.range 64).find? (fun lt => s.tileOf lt == r.unit && !s.tcam.unmapped.contains lt) with
    | none => s
    | some lt =>
      if r.index == 0xFFFFFFFF then { s with tcam.unmapped := s.tcam.unmapped ++ [lt] }
      else { s with tcam.tiles := s.tcam.tiles.set lt r.index, tcam.spares := s.tcam.spares.filter (· != r.index) }
  | 5 => { s with parse.pipesOut := s.parse.pipesOut ++ [r.unit] }
  | 6 => { s with tbl.pipesOut := s.tbl.pipesOut ++ [r.unit] }
  | 7 =>
    let lane := if r.unit < 96 then some r.unit else (s.edit.engineOf.find? (fun e => e.2 == r.unit)).map Prod.fst
    { s with
      edit.dead := s.edit.dead ++ [r.unit], edit.sparesLeft := s.edit.sparesLeft.filter (fun e => e != r.unit && e != r.index)
      edit.engineOf := match lane with
        | some l => if r.index == 0xFFFFFFFF then s.edit.engineOf else s.edit.engineOf.set l r.index
        | none => s.edit.engineOf }
  | 8 =>
    { s with
      mode.coresDead := s.mode.coresDead ++ [r.unit]
      mode.coreSpares := if r.index == 0xFFFFFFFF then s.mode.coreSpares else 0
      mode.cores := if r.index == 0xFFFFFFFF then s.mode.cores - 1 else s.mode.cores }
  | 9 => { s with mode.tmDead := s.mode.tmDead ++ [r.unit] }
  | 10 => { s with mode.d2dLanes := s.mode.d2dLanes.upd (2 * r.unit + r.die) 0 (· + 1) }
  | 11 => { s with mode.d2dOut := s.mode.d2dOut ++ [r.unit] }
  | 13 => s.setPc r.unit { s.pcOf r.unit with withheld := (s.pcOf r.unit).withheld ++ [(r.index / 65536, r.index % 65536)] }
  | 14 =>
    if bit r.flags 1 then s
    else (s.setPc r.unit { s.pcOf r.unit with
      state := 2, cause := if r.cause == 4 then 5 else if r.cause == 1 then 4 else 3 }).moveAreas r.unit false
  | _ => s

/-- R495: the hard repair of a recorded row of the packet memory sets flags bit 0 of its record. -/
def hardFlag (r : Repair) : Repair :=
  if r.kind == 0xC && !bit r.flags 0 && Config.hardRepair r.unit (r.index / 65536) (r.index % 65536) then
    { r with flags := r.flags + 1 }
  else r

/-- R685, R687: the repair map at a start. -/
def State.applyMap (s : State) : State :=
  match pairRead s.mode.mapA s.mode.mapB with
  | none => { s with mode.repairs := [] }
  | some l =>
    let a := l.foldl (fun (t : State) r => t.applyRepair r) s
    let m := l.map hardFlag
    { a with
      mode.repairs := m, mode.uncommitted := (m.filter (fun r => !l.contains r)).length, hbm.limited := 8 < a.retiredPcs }

/-- R676: the conditions that follow from the repair map. -/
def State.startConds (s : State) : State :=
  let l : List (Nat × Bool) := [(0, decide (6 ≤ s.mode.d2dOut.length)), (1, decide (s.parsersIn ≤ 15)),
    (2, decide (s.lookupsIn ≤ 15)), (4, !s.tcam.unmapped.isEmpty), (6, s.ports.any (fun p => !s.hasEngine p)),
    (7, decide (8 < s.retiredPcs)), (8, s.mode.repairs.any (fun r => r.kind == 3)), (9, decide (s.mode.cores < 4)),
    (11, !s.mode.tmDead.isEmpty)]
  l.foldl (fun (t : State) e => if e.2 then t.setCond e.1 else t) s

/-! ### Restores and the first run of an image -/

/-- R640: a restore of the retained image begins, for a cause of event 0x0F83; the staging area is discarded. -/
def State.startRestore (s : State) (cause : Nat) : State :=
  let s := s.noteBad 1 s.fw.retainedRegion
  if !s.good s.fw.retainedRegion then s
  else
    { s with
      fw.staging := s.fw.retainedRegion, fw.verified := false, fw.stagedTotal := s.fw.retainedRegion.bytes.length
      fw.act := some { at_ := s.time.ticks, image := s.fw.retainedRegion, prevMode := s.mode.mode
                       oldVersion := s.fw.running.version, cause := some cause } }

/-- Settings that a copy holds are readable by the running image (R642). -/
def State.readable (s : State) (c : Copy Settings) : Bool :=
  c.committed && inRange c.body.schema s.fw.running.schemaMin s.fw.running.schema

/-- R754, R577: the settings are applied in Configure, before the first command completes. -/
def State.applySettings (s : State) (v : Settings) : State :=
  let h (i d : Nat) : Nat := v.hier.getD i d
  { s with
    port.groups := v.groups.map (fun e => (e.1, { mode := e.2, running := e.2 }))
    port.ports := v.ports.map (fun e => (e.1, { cfg := e.2.1, adminUp := e.2.2.1, rxDisabled := e.2.2.2 }))
    sec.secys := v.secys
    hier.member := h 0 0 == 1, hier.systemId := h 1 0, hier.priority := h 2 0, hier.electionMs := h 3 2000
    hier.coordMs := h 4 5, hier.takeoverMs := h 5 50, hier.leaveMs := h 6 1000, hier.relayS := h 7 30 }

/-- R645: factory defaults: every port goes down and every setting takes its reset value. Keys and SA state stay (R107), and so
does what a port number has counted (R757). -/
def State.factory (s : State) : State :=
  let a := s.ports.foldl (fun (t : State) p => (t.portDown p 3).clearTx p) s
  { a with
    port.groups := []
    port.ports := a.port.ports.map (fun e => (e.1, Port.discarded e.2))
    sec.secys := a.sec.secys.map (fun e => (e.1,
      { sas := e.2.sas, rx := e.2.rx, txInUse := e.2.txInUse, switch := e.2.switch, lost := e.2.lost }))
    hier := { sent := a.hier.sent, msgSeq := a.hier.msgSeq, linkUp := a.hier.linkUp, epoch := a.hier.epoch } }

/-- R642-R646: a starting image reads its settings; `cold` after Boot, when they are applied to the hardware too. -/
def State.readSettings (s : State) (cold : Bool) : State :=
  let a := s.fw.setA
  let b := s.fw.setB
  let useB := s.readable b && (!s.readable a || a.seq < b.seq)
  if !s.readable a && !s.readable b then
    let t := { s.factory with fw.settingsOk := false, fw.defaults := true, fw.setMine := false }.raise 0x0F84
      (d4o (if a.committed then some a.body.schema else none) ++ d4o (if b.committed then some b.body.schema else none) ++
        d4 s.fw.running.schemaMin ++ d4 s.fw.running.schema)
    match t.bootRec with
    | some r => if r.retainedValid && t.fw.running.digest != r.retDigest then t.startRestore 2 else t
    | none => t
  else
    let v := if useB then b.body else a.body
    let t := { s with fw.settingsOk := true, fw.defaults := false, fw.roleWanted := v.role, fw.setMine := useB }
    let u := if v.schema == s.fw.running.schema then t
      else
        let w := { v with schema := s.fw.running.schema }
        if useB then { t with fw.setA := nextCopy a b w, fw.setMine := false }
        else { t with fw.setB := nextCopy a b w, fw.setMine := true }
    if cold then u.applySettings v else u

/-- An entry of the attestation log (R656): reserved_end, the CRC-32 of its bytes, the commit byte, which is written last. -/
def attEntry (e : Nat) : Bytes := toLe 4 e ++ toLe 4 (crc32 (toLe 4 e)) ++ List.replicate 23 0xFF ++ [0x5A]

/-- The reserved_end values of a copy's committed entries (R655, R656). -/
def attTops (x : Copy AttestLog) : List Nat :=
  if x.committed then
    (x.body.entries.filter (fun e => byteAt e 31 == 0x5A && le e 4 4 == crc32 (e.take 4))).map (fun e => le e 0 4)
  else []

/-- R660: event 0x0F87 once when fewer than 2^26 indices remain. -/
def State.noteIndices (s : State) : State :=
  match s.fw.nextIndex with
  | none => s
  | some i =>
    let left := 1073741824 - i
    if left < 67108864 && !s.fw.lowIndex then { s with fw.lowIndex := true }.raise 0x0F87 (d4 0 ++ d4 left) else s

/-- What the first run of an image reports and recovers: a restore, failed verifications, a Snowdrop recovery, the next
signature index (R626, R655, Table 16-11). -/
def State.firstRun (s : State) : State :=
  let a := match s.fw.reverted with
    | some c => { s with fw.reverted := none }.raise 0x0F83 (d4 s.fw.failedVersion ++ d4 s.fw.running.version ++ d4 c)
    | none => s
  let b := a.fw.bootFail.foldl (fun (t : State) e => t.raise 0x0F88 (d4 e.1 ++ d4 e.2)) { a with fw.bootFail := [] }
  let c := match b.fw.snowDone with
    | some p => { b with fw.snowDone := none }.raise 0x0F86 (d4 p ++ d4 b.fw.running.version)
    | none => b
  { c with fw.nextIndex := (attTops c.fw.attA ++ attTops c.fw.attB).max? }.noteIndices

/-- An image that the FE service cores started at tick `at_` runs (R631, R638, R639): what it remembers of its own start. -/
def State.imageStarts (s : State) (img : Image) (pending : Bool) (at_ : Nat) : State :=
  let r := s.bootRec.getD {}
  { s with
    fw.running := img.cut, fw.runs := true, fw.pending := pending, fw.startTick := at_, fw.hbSince := s.time.ticks
    fw.hostOk := false, fw.windowS := r.windowS, fw.hostGate := r.hostGate }

/-- The boot record says that the image is pending. -/
def State.recPending (s : State) : Bool := (s.bootRec.map (fun r => r.state == 2)).getD false

/-- R647, R650: the ROM enters Recovery, and the Snowdrop window opens; over CL0 it uses the identity of the boot record. -/
def State.enterRecovery (s : State) : State :=
  let r := s.bootRec.getD {}
  { s with fab.fdi := r.lastFdi, hier.systemId := r.lastSystem, fw.snowNext := 0, fw.snowSender := none
           fw.snowAt := s.time.ticks }.changeMode mdRecovery 0xFF mcStart

/-- ROM_START (R624, R685, R687, R642, R93, R741): in Boot with the root PLL locked and the dies not held in reset. Where no copy of
the repair map can be read, firmware begins a new one, which its next commit writes. -/
def execRomStart (recoveryReq : Bool) (s : State) : Out :=
  if s.mode.mode != mdBoot || !s.aux.pllLocked || s.mode.held || s.aux.sysReset.low then .next s
  else
    let unread := (pairRead s.mode.mapA s.mode.mapB).isNone
    let a := s.applyMap
    if recoveryReq then done s a.enterRecovery
    else
      let sel := a.romSelect
      if !sel.2 then done s sel.1.enterRecovery
      else
        let b := sel.1.imageStarts sel.1.fw.imageRegion sel.1.recPending s.time.ticks
        let recs : List LedgerRec := (pairRead b.port.ledgerA b.port.ledgerB).getD []
        let c := { b with
          port.ledger := recs.filter LedgerRec.crcOk, port.ledgerSkipped := (recs.filter (fun (r : LedgerRec) => !r.crcOk)).length
          port.ledgerAt := b.time.ticks, port.accumAt := b.time.ticks }
        let d := ((c.changeMode mdConfigure 0xFF mcStart).readSettings true).firstRun
        let e := if unread then { d with mode.uncommitted := d.mode.uncommitted + 1 }.raise 0x1088 (d4 0 ++ d4o none ++ d4o none) else d
        let f := if s.aux.latched % 32 / 2 != 0 then e.raise 0x1285 (d4 e.auxStatus) else e
        done s ({ f with aux.reported := true }.startConds).startElection

/-! ### Download, verification and activation (R627-R636) -/

/-- R697: no TM die service core runs. -/
def noTm (s : State) : Bool := 2 ≤ s.mode.tmDead.length

/-- FW_DOWNLOAD (R627, R628). -/
def fwDownloadSpec : CmdSpec := { opcode := 0x0F01, long := fun b => 8 ≤ b.length }

def cmdFwDownload (c : Cmd) (s : State) : Res :=
  gate fwDownloadSpec (fun c s =>
    let off := le c.payload 0 4
    let total := le c.payload 4 4
    let d := c.payload.drop 8
    let put (l : Bytes) (n : Nat) : Res := { st := { s with fw.staging := { bytes := l }, fw.stagedTotal := n, fw.verified := false } }
    if noTm s || s.fw.act.isSome || s.hier.push.isSome then Res.err s stBusy
    else if off == 0 then
      if 8388608 < total || total < d.length then Res.err s stBadParam else put d total
    else if off != s.fw.staging.bytes.length || s.fw.stagedTotal < off + d.length then Res.err s stBadParam
    else put (s.fw.staging.bytes ++ d) s.fw.stagedTotal) c s

def execFwDownload (c : Cmd) (s : State) : Out := serve c cmdFwDownload s

/-- FW_VERIFY (R628). -/
def fwVerifySpec : CmdSpec := { opcode := 0x0F02, size := fun _ => 44 }

def cmdFwVerify (c : Cmd) (s : State) : Res :=
  gate fwVerifySpec (fun _ s =>
    let i := s.fw.staging
    let code := i.verify s.fw.floor
    if noTm s then Res.err s stBusy
    else if code != 2 then Res.err s stRefused code
    else
      { st := { s with fw.verified := true }
        result := toLe 1 code ++ zeros 3 ++ toLe 4 i.version ++ toLe 1 i.svn ++ zeros 3 ++ padTo 32 i.digest }) c s

def execFwVerify (c : Cmd) (s : State) : Out := serve c cmdFwVerify s

/-- R629: the modes that accept an activation. -/
def activable (m : Nat) : Bool := inRange m mdConfigure mdMaintenance || m == mdDegraded

/-- R630 step 1: a record with retained_valid clear; the retained-image region is being written from here on. -/
def State.retainBegin (s : State) : State :=
  { s.commitRec { s.bootRec.getD {} with retainedValid := false } with fw.retainedRegion := {} }

/-- R630 steps 2 to 4: the retained-image region comes to hold the running image, and the record says so. -/
def State.retain (s : State) : State :=
  let i := s.fw.imageRegion
  { s with fw.retainedRegion := i }.commitRec { s.bootRec.getD {} with
    retainedValid := true, retDigest := i.digest, retVersion := i.version, retLength := 4096 + i.bodyLength, retSvn := i.svn }

/-- The retained-image region already holds the running image (R630). -/
def State.retained (s : State) : Bool :=
  (s.bootRec.map (fun r => r.retainedValid && r.retDigest == s.fw.running.digest)).getD false

/-- FW_ACTIVATE (R629, R630, R697): accepted, it prepares the retained image, which goes on until the pause of R631. -/
def fwActivateSpec : CmdSpec :=
  { opcode := 0x0F03, mode := fun _ s => if activable s.mode.mode then 0 else stWrongMode }

def cmdFwActivate (c : Cmd) (s : State) : Res :=
  gate fwActivateSpec (fun _ s =>
    if noTm s || s.fw.flashBusy || s.fw.act.isSome then Res.err s stBusy
    else if !s.fw.verified || s.fw.pending then Res.err s stRefused
    else if s.hier.member && !s.retained && !s.good s.fw.imageRegion then
      Res.err s stRefused (s.fw.imageRegion.verify s.fw.floor)
    else
      let a := if s.hier.member && !s.retained then s.retainBegin else s
      { st := { a with fw.act := some { at_ := s.time.ticks, image := s.fw.staging.cut, prevMode := s.mode.mode
                                        oldVersion := s.fw.running.version } }
        async := some .activate }) c s

def execFwActivate (c : Cmd) (s : State) : Out := serve c cmdFwActivate s

/-- Every command fetched before FW_ACTIVATE has completed (R631). -/
def State.quiet (s : State) : Bool := (s.hif.openCmds.takeWhile (fun o => o.kind != .activate)).isEmpty

/-- ACTIVATION_PAUSE (R630, R631): the preparation of the retained image is over; fetching stops, the mode becomes Activation, the
FE service cores halt and the new image starts. -/
def execActivationPause (s : State) : Out :=
  match s.fw.act with
  | none => .next s
  | some a =>
    if a.paused || noTm s || !s.inService || (s.fw.runs && !s.quiet) then .next s
    else if !activable s.mode.mode then
      if s.fw.runs && a.cause.isNone then done s ({ s with fw.act := none }.finishKind .activate stWrongMode) else .next s
    else
      let cause := if a.cause == some 0 || a.cause == some 2 then 0xFFFFFFFF else mcCommand
      let b := { a with at_ := s.time.ticks, startAt := s.time.ticks, prevMode := s.mode.mode }
      let u := if a.cause.isNone && s.hier.member && !s.retained then s.retain else s
      let t := { u with fw.act := some b }.changeMode mdActivation s.mode.target cause
      done s { t with
        fw.act := some { b with paused := true }
        fw.runs := false, mode.restartAt := none }

/-- R633, R663: the mode held before Activation. -/
def State.leaveActivation (s : State) (prev : Nat) : State :=
  if s.mode.mode != mdActivation then s
  else if prev == mdDegraded then s.changeMode mdDegraded s.mode.target mcActivation
  else s.requestMode prev mcActivation

/-- The end of an activation or a restore as the host sees it: the command's completion and event 0x0F81 or 0x0F83. -/
def State.sayResumed (t : State) (a : Activation) (version took : Nat) : State :=
  match a.cause with
  | none => (t.finishKind .activate stOk 0 version).raise 0x0F81 (d4 a.oldVersion ++ d4 version ++ d4 took)
  | some c => (t.finishKind .activate stTimeout).raise 0x0F83 (d4 a.oldVersion ++ d4 version ++ d4 c)

/-- What the boot record and the staging region hold after an activation or a restore (R634, R636, R640). -/
def State.recordResumed (v : State) (a : Activation) (r : BootRec) (img : Image) : State :=
  if a.failed then v
  else if a.cause.isSome then
    { v with fw.flashBusy := true, fw.staging := {}, fw.stagedTotal := 0, fw.verified := false }.commitRec { r with state := 3 }
  else { v with fw.flashBusy := true, fw.flashImage := img, fw.imageRegion := {} }.commitRec { r with
    state := 1, attempts := 0, digest := img.digest, version := img.version, length := 4096 + img.bodyLength, svn := img.svn }

/-- The new image of an activation or a restore resumes fetching (R633, R635, R640). -/
def State.resumeActivation (s : State) (a : Activation) : State :=
  let img := a.image.cut
  let pending := if a.failed then s.recPending else a.cause.isNone && s.hier.member
  let t := { s with fw.act := none, mode.gaveUp := false }.imageStarts img pending a.startAt
  let u := t.sayResumed a img.version ((s.time.ticks - a.at_) / 750)
  let v := (u.leaveActivation a.prevMode).recordResumed a (s.bootRec.getD {}) img
  ((v.readSettings false).firstRun).finishRetired.writeAnswers

/-- R634: the new image has not resumed fetching within 30 ms of step 1, and the image region can take its place. -/
def State.resumeLate (s : State) (a : Activation) : Bool :=
  !a.failed && s.ended a.at_ (ms 30) && s.good s.fw.imageRegion && !noTm s

/-- IMAGE_RESUMES_FETCHING (R626, R631, R633, R694): within 30 ms of the pause, or within 100 ms of a restart. -/
def execImageResumesFetching (s : State) : Out :=
  if !s.inService then .next s
  else
    match s.fw.act with
    | some a =>
      if a.paused && !s.resumeLate a then done s (s.resumeActivation a) else .next s
    | none =>
      match s.mode.restartAt with
      | none => .next s
      | some t =>
        if s.fw.running.bytes.isEmpty || s.ended t (ms 100) then .next s
        else
          let u := { s with mode.restartAt := none, mode.gaveUp := false }.imageStarts s.fw.running s.recPending t
          done s ((u.readSettings false).firstRun).finishRetired.writeAnswers

/-- ACTIVATION_TIMEOUT (R634): the image region is loaded into the staging area, verified and activated. -/
def execActivationTimeout (s : State) : Out :=
  match s.fw.act with
  | none => .next s
  | some a =>
    let i := s.fw.imageRegion
    if a.paused && s.resumeLate a then
      let r := s.bootRec.getD {}
      let t := if r.state == 2 then s.commitRec { r with attempts := r.attempts + 1 } else s
      done s { t with
        fw.staging := i, fw.verified := false, fw.stagedTotal := i.bytes.length
        fw.act := some { a with image := i, startAt := s.time.ticks, oldVersion := a.image.version, cause := some 4, failed := true } }
    else .next s

/-- FLASH_UPDATE_COMPLETE (R635, R636, R640): the flash update of an activation or a restore ends, or a sector fails. -/
def execFlashUpdateComplete (failedSector : Option Nat) (s : State) : Out :=
  let r := s.bootRec.getD {}
  if !s.fw.flashBusy || !s.inService || noTm s then .next s
  else
    match failedSector with
    | some sector =>
      if !inRegion 10 sector then .fault .noSuchUnit else done s ({ s with fw.flashBusy := false }.raise 0x0F85 (d4 10 ++ d4 sector))
    | none =>
      if r.state == 3 then
        done s ({ s with fw.flashBusy := false, fw.imageRegion := s.fw.retainedRegion }.commitRec { r with
          state := 0, attempts := 0, digest := r.retDigest, version := r.retVersion, length := r.retLength, svn := r.retSvn })
      else
        done s ({ s with fw.flashBusy := false, fw.imageRegion := s.fw.flashImage }.commitRec
          (if s.fw.pending then { r with state := 2, attempts := 1 } else { r with state := 0, attempts := 0 }))

/-! ### Confirmation (R637-R641) -/

/-- FW_CONFIRM (R638). -/
def fwConfirmSpec : CmdSpec := { opcode := 0x0F04 }

def cmdFwConfirm (c : Cmd) (s : State) : Res :=
  gate fwConfirmSpec (fun _ s => if s.fw.pending then { st := { s with fw.hostOk := true } } else Res.err s stRefused) c s

def execFwConfirm (c : Cmd) (s : State) : Out := serve c cmdFwConfirm s

/-- IMAGE_CONFIRM (R638): a pending image that meets every condition confirms itself. -/
def execImageConfirm (s : State) : Out :=
  match s.bootRec with
  | none => .next s
  | some r =>
    if s.fw.pending && r.state == 2 && s.fwRuns && s.fw.act.isNone && s.fw.settingsOk && s.ended s.fw.hbSince (secs 10) &&
        s.hier.role == s.fw.roleWanted && (!s.fw.hostGate || s.fw.hostOk) then
      done s (({ s with fw.pending := false }.commitRec { r with state := 0, attempts := 0 }).raise 0x0F82
        (d4 s.fw.running.version))
    else .next s

/-- CONFIRM_WINDOW_END (R639). -/
def execConfirmWindowEnd (s : State) : Out :=
  if s.fw.pending && s.fw.act.isNone && s.inService && s.ended s.fw.startTick (secs s.fw.windowS) &&
      (s.bootRec.map (·.retainedValid)).getD false then
    done s (s.startRestore 0)
  else .next s

/-- FW_REVERT (R641). -/
def fwRevertSpec : CmdSpec := { opcode := 0x0F05, tm := fun _ => true }

def cmdFwRevert (c : Cmd) (s : State) : Res :=
  gate fwRevertSpec (fun _ s =>
    if !s.fw.pending || !((s.bootRec.map (·.retainedValid)).getD false) || !s.good s.fw.retainedRegion then
      Res.err s stRefused
    else { st := if s.fw.act.isSome then s else s.startRestore 3 }) c s

def execFwRevert (c : Cmd) (s : State) : Out := serve c cmdFwRevert s

/-- A boot record's bytes 0-123 (Table 16-4). -/
def recBytes (seq : Nat) (r : BootRec) : Bytes :=
  toLe 4 seq ++ toLe 1 1 ++ toLe 1 r.state ++ toLe 1 r.attempts ++ toLe 1 (b2n r.retainedValid + 2 * b2n r.hostGate) ++
    padTo 32 r.digest ++ toLe 4 r.version ++ toLe 4 r.length ++ toLe 1 r.svn ++ toLe 1 r.lastFdi ++ toLe 2 r.lastSystem ++
    toLe 2 r.windowS ++ zeros 2 ++ padTo 32 r.retDigest ++ toLe 4 r.retVersion ++ toLe 4 r.retLength ++ toLe 1 r.retSvn ++
    zeros 27

/-- FW_STATUS_GET (Table 16-10). -/
def fwStatusGetSpec : CmdSpec := { opcode := 0x0F06, size := fun _ => 132, reads := true }

def cmdFwStatusGet (c : Cmd) (s : State) : Res :=
  gate fwStatusGetSpec (fun _ s =>
    let left := if s.fw.pending then (s.fw.startTick + secs s.fw.windowS - s.time.ticks) / secs 1 else 0
    { st := s
      result := recBytes (pairSeq s.fw.recA s.fw.recB) (s.bootRec.getD {}) ++ toLe 1 s.fw.floor ++
        toLe 4 s.fw.staging.bytes.length ++ toLe 1 (b2n s.fw.verified) ++ toLe 2 left }) c s

def execFwStatusGet (c : Cmd) (s : State) : Out := serve c cmdFwStatusGet s

/-- FW_UPDATE_CONFIG: commits a boot record with the new values. -/
def fwUpdateConfigSpec : CmdSpec :=
  { opcode := 0x0F07, long := fun b => 4 ≤ b.length, clean := fun b => flagsIn b 2 1 && rsv b 3 1 }

def cmdFwUpdateConfig (c : Cmd) (s : State) : Res :=
  gate fwUpdateConfigSpec (fun c s =>
    let w := le c.payload 0 2
    if !inRange w 60 3600 then Res.err s stBadParam
    else { st := s.commitRec { s.bootRec.getD {} with windowS := w, hostGate := bit (byteAt c.payload 2) 0 } }) c s

def execFwUpdateConfig (c : Cmd) (s : State) : Out := serve c cmdFwUpdateConfig s

/-- FW_SVN_COMMIT (R619-R621). -/
def fwSvnCommitSpec : CmdSpec := { opcode := 0x0F08, size := fun _ => 1 }

def cmdFwSvnCommit (c : Cmd) (s : State) : Res :=
  gate fwSvnCommitSpec (fun _ s =>
    let n := s.fw.running.svn
    if s.fw.pending then Res.err s stRefused
    else if n ≤ s.fw.floor then { st := s, result := toLe 1 s.fw.floor }
    else
      let r := s.bootRec.getD {}
      let out := r.retainedValid && r.retSvn < n
      let a := { s with fw := s.fw.burn n }
      let b := if out then a.commitRec { r with retainedValid := false } else a
      { st := b.raise 0x0F89 (d4 n ++ d4 (b2n (!out))), result := toLe 1 n }) c s

def execFwSvnCommit (c : Cmd) (s : State) : Out := serve c cmdFwSvnCommit s

/-! ### Attestation (R653-R660) -/

/-- ATTEST_KEY_GET (R653). -/
def attestKeyGetSpec : CmdSpec := { opcode := 0x0F09, size := fun _ => 3348, reads := true }

def cmdAttestKeyGet (c : Cmd) (s : State) : Res :=
  gate attestKeyGetSpec (fun _ s =>
    { st := s, result := padTo 60 Config.publicKey ++ padTo 3284 Config.keySignature ++ d4o s.fw.nextIndex }) c s

def execAttestKeyGet (c : Cmd) (s : State) : Out := serve c cmdAttestKeyGet s

/-- R659: the signature bucket now, in 1/750,000,000 of a signature. -/
def State.sigTokens (s : State) : Nat := min 12000000000 (s.fw.tokens + (s.time.ticks - s.fw.tokensAt))

/-- R655-R657: an entry with reserved_end `e` is committed: in the copy in use, or in the other copy when its log is full. -/
def State.reserve (s : State) (e : Nat) : State :=
  let a := s.fw.attA
  let b := s.fw.attB
  let inB := newerB a b
  let x := if inB then b else a
  let y : Copy AttestLog :=
    if x.committed && x.body.entries.length < 2040 then { x with body := { entries := x.body.entries ++ [attEntry e] } }
    else nextCopy a b { entries := [attEntry e] }
  let full := x.committed && 2040 ≤ x.body.entries.length
  if inB != full then { s with fw.attB := y, fw.attA := if full then { body := {} } else a }
  else { s with fw.attA := y, fw.attB := if full then { body := {} } else b }

/-- A copy of the repair map as it lies in flash, for its digest (R684, Table 16-9). -/
def mapBytes (c : Copy (List Repair)) : Bytes :=
  let recs := c.body.flatMap Repair.encode
  let ff (n : Nat) : Bytes := List.replicate n 0xFF
  let head := toLe 4 c.seq ++ toLe 1 1 ++ toLe 4 c.body.length ++ toLe 4 (crc32 recs) ++ toLe 4 0xA55A
  head ++ ff (4096 - head.length) ++ recs ++ ff (1044480 - recs.length)

/-- The committed copy of the repair map. -/
def State.committedMap (s : State) : Copy (List Repair) :=
  if newerB s.mode.mapA s.mode.mapB then s.mode.mapB
  else if s.mode.mapA.committed then s.mode.mapA else { body := [] }

/-- The attestation report (Table 16-9). -/
def State.report (s : State) (index : Nat) (nonce : Bytes) : Bytes :=
  let r := s.bootRec.getD {}
  toLe 2 1 ++ toLe 2 0x9640 ++ toLe 1 s.hif.revisionId ++ toLe 1 (if s.sec.gradeS then 0x53 else 0x4E) ++ toLe 1 s.fw.floor ++
    toLe 1 (b2n r.retainedValid + 2 * b2n s.fw.pending + 4 * b2n s.fw.defaults) ++ toLe 4 index ++ toLe 4 s.t32.toNat ++
    nonce ++ padTo 8 Config.dieFe ++ padTo 8 Config.dieTm ++ padTo 32 s.fw.running.digest ++ toLe 4 s.fw.running.version ++
    toLe 4 Config.romVersion ++ (if r.retainedValid then padTo 32 r.retDigest else zeros 32) ++
    padTo 32 (Config.sha256 (mapBytes s.committedMap))

/-- ATTEST_QUOTE (R653-R660). -/
def attestQuoteSpec : CmdSpec := { opcode := 0x0F0A, long := fun b => 32 ≤ b.length, size := fun _ => 3452 }

def cmdAttestQuote (c : Cmd) (s : State) : Res :=
  gate attestQuoteSpec (fun c s =>
    match s.fw.nextIndex with
    | none => { st := s.raise 0x0F87 (d4 1 ++ d4 0), status := stRefused, keep := true }
    | some i =>
      if 1073741824 ≤ i then Res.err s stNoResource
      else if s.sigTokens < 750000000 then Res.err s stBusy
      else
        let a := if (attTops s.fw.attA ++ attTops s.fw.attB).any (fun e => i < e) then s else s.reserve (i + 64)
        let rep := a.report i (slice c.payload 0 32)
        let b := { a with fw.nextIndex := some (i + 1), fw.tokens := s.sigTokens - 750000000, fw.tokensAt := s.time.ticks }
        { st := b.noteIndices, result := rep ++ padTo 3284 (Config.hssSign (i / 32768) (i % 32768) rep) }) c s

def execAttestQuote (c : Cmd) (s : State) : Out := serve c cmdAttestQuote s

/-! ### Failure and restart of FE firmware (R690-R697) -/

/-- R626: a restart of the FE service cores runs R624 and loads the image through the staging area. -/
def State.restartFe (s : State) : State :=
  let sel := s.romSelect
  let img : Image := if sel.2 then sel.1.fw.imageRegion else {}
  { sel.1 with
    mode.restartAt := some s.time.ticks, mode.restarts := s.mode.restarts ++ [s.time.ticks]
    fw.running := img, fw.staging := img, fw.verified := false, fw.stagedTotal := img.bytes.length, fw.act := none }.bump 1711 5

/-- R694: the restarts of the last 600 s. -/
def State.restartsLeft (s : State) : List Nat := s.mode.restarts.filter (fun t => !s.ended t (secs 600))

/-- R695: the TM die service cores stop restarting and serve the command ring. -/
def State.stopRestarts (s : State) (cause : Nat) : State :=
  { s with mode.gaveUp := true, mode.restartAt := none, mode.lastFail := cause, mode.restarts := s.restartsLeft }.raise 0x108A
    (d4 s.restartsLeft.length ++ d4 cause)

/-- The position of a cause in the list of event 0x108A. -/
def feCauseCode : FeCause → Nat
  | .coreHeartbeat => 1
  | .machineCheck => 2
  | .uncorrectable => 3
  | .stall => 4

/-- R692, R693: retires a failed FE service core: the spare takes its place, or it is missed. -/
def State.retireCore (s : State) (core : Nat) : State :=
  let spare : Option Nat := if s.mode.coreSpares == 0 then none else some 4
  let a := { s with
    mode.coresDead := s.mode.coresDead ++ [core], mode.coreSpares := 0
    mode.cores := if spare.isSome then s.mode.cores else s.mode.cores - 1 }
  let b := (a.raise 0x1087 (d4 0 ++ d4 core ++ d4o spare)).record
    { kind := 8, die := 0, cause := 2, unit := core, index := spare.getD 0xFFFFFFFF, hours := s.hours }
  if spare.isSome then b else b.setCond 9

/-- R692, R693, R695: FE firmware has failed. -/
def State.feFailed (s : State) (cause : FeCause) (cores : List Nat) : State :=
  let l := if cause == FeCause.stall then []
    else cores.eraseDups.filter s.coreInUse
  let a := { s with mode.tmDeputy := true, mode.lastFail := feCauseCode cause }.raise 0x1086
    (d4 (b2n (cause == FeCause.stall)) ++ d4 (toBitmap l))
  let short := a.mode.cores < 4
  let b := l.foldl (fun (t : State) k => t.retireCore k) { a with fw.runs := false }
  let c := { b with mode.restarts := b.restartsLeft }
  if (short && !l.isEmpty) || 3 ≤ c.mode.restarts.length then c.stopRestarts (feCauseCode cause) else c.restartFe

/-- FE firmware is watched: it runs, and a TM die service core runs (R690). -/
def State.watched (s : State) : Bool := s.inService && s.fw.runs && !noTm s

/-- FE_FIRMWARE_FAILURE (R691, R692). -/
def execFeFirmwareFailure (cause : FeCause) (cores : List Nat) (s : State) : Out :=
  if cores.any (fun k => 5 ≤ k) then .fault .noSuchUnit
  else if s.watched && (cause != FeCause.stall || s.ended s.hif.hbTick (ms 100)) then done s (s.feFailed cause cores)
  else .next s

/-- FE_RESTART_TIMEOUT (R694, R695). -/
def execFeRestartTimeout (s : State) : Out :=
  match s.mode.restartAt with
  | none => .next s
  | some t =>
    if s.inService && s.ended t (ms 100) then
      let a := { s with mode.restartAt := none, mode.lastFail := 0, mode.restarts := s.restartsLeft }.bump 1711 6
      done s (if 3 ≤ a.mode.restarts.length then a.stopRestarts 0 else a.restartFe)
    else .next s

/-- FE_RESTART (R694, R695): served by the TM die service cores; a new window opens. -/
def feRestartSpec : CmdSpec := { opcode := 0x1006, tm := fun _ => true }

def cmdFeRestart (c : Cmd) (s : State) : Res :=
  gate feRestartSpec (fun _ s =>
    if s.fw.runs || s.mode.restartAt.isSome then Res.err s stRefused
    else { st := { s with mode.gaveUp := false, mode.restarts := [] }.restartFe }) c s

def execFeRestart (c : Cmd) (s : State) : Out := serve c cmdFeRestart s

end Sys2Proof.Machine
end

