-- ==== Sys2Proof/Machine/Faults.lean ====
section
/-! DEFINITION. SRAM errors: the data outcome that the owner's rule gives (Table 17-5), then the repair of the row (R677-R682). -/
namespace Sys2Proof.Machine
open Sys2Proof

/-- The structure exists in the part. -/
def sramExists : SramUse → Bool
  | .fibBucket vrf fam len way _ => vrf < 4096 && ((fam == 4 && len ≤ 32) || (fam == 6 && len ≤ 128)) && way < 4
  | .emBucket table way _ => table < 64 && way < 4
  | .labelEntry i => i < 1048576
  | .nexthop i => i < 1048576
  | .ecmpRecord i => i < 65536
  | .memberEntry i => i < 1048576
  | .keyStore port slot sa => port < 96 && slot < 4 && sa < 2
  | .policer i => i < 1048576
  | .cell queue _ => queue < 524288
  | .linkWord queue _ _ => queue < 524288
  | .schedNode node => isNode node
  | .bufRecord pool _ => pool < 5
  | .bufData pool _ => pool < 5
  | .sharedRecord i => i < 65536
  | .encap i => i < 262144
  | .editInsn program index => inRange program 1 1023 && index < 32
  | .groupRecord i => i < 65536
  | .mcMember i => i < 1048576
  | .tcamShadow lt row _ => lt < 64 && row < 2048
  | .tcamAction chain _ => chain < 16
  | .directory => true
  | .serviceMemory => true
  | .staging => true

/-! ### Packets of a queue -/

/-- R288: the packet at a position of a queue is lost, in every queue that shares its cells. -/
def State.cellLost (s : State) (q pos : Nat) : State :=
  match (s.queue q).pkts[pos]? with
  | none => s
  | some p =>
    let qs := match p.shared.bind (fun k => s.buf.shared.get? k) with | some r => r.owners | none => [q]
    qs.foldl (fun (a : State) x =>
      a.updQueue x (fun y => { y with pkts := y.pkts.map (fun (z : QPkt) =>
        if z.pid == p.pid && (z.shared == p.shared) then { z with lost := true } else z) })) s

/-- R289: both copies of a link word are gone: the queue's packets are dropped and it continues empty. -/
def State.linkLost (s : State) (q : Nat) : State :=
  let n := (s.queue q).pkts.length
  let t := s.flushQueue q (fun p a => a.countDrop q 0x3A p.frameLen false p.tsReq p.port)
  (({ t with fab.sending := t.fab.sending.del q }.voqEdge s q).raise 0x0684 (d4 q ++ d4 n)).refreshTm

/-- R289: the link word of a cell is taken from its good copy and rewritten. -/
def State.mendLink (s : State) (q pos : Nat) : State :=
  match (cellNumbers (s.queue q).runs)[pos]? with
  | none => s
  | some c => match s.buf.cells.get? c with
    | none => s
    | some x => s.setLink c x.linkB

/-- R366: a shared-packet record is uncorrectable: each owning queue drops the packet with code 0x3A, and the cells and the
record are freed. -/
def State.sharedLost (s : State) (k : Nat) : State :=
  match s.buf.shared.get? k with
  | none => s
  | some r =>
    let t := r.owners.foldl (fun (a : State) q =>
      match (a.queue q).pkts.find? (fun (z : QPkt) => z.shared == some k) with
      | none => a
      | some p =>
        let b := (a.dropPkt q 0x3A p).settleQueue q
        let c := if (a.queue q).pkts.head?.map (fun z => z.pid) == some p.pid then { b with fab.sending := b.fab.sending.del q } else b
        c.voqEdge a q) s
    let u : State := { t with buf.shared := t.buf.shared.del k }
    (u.raise 0x0885 (d4 1 ++ d4 k ++ d4 r.owners.length)).refreshTm

/-! ### Pool buffers -/

/-- R364: a buffer's control record is uncorrectable: its frame is dropped with code 0x3C, and the buffer returns to its pool
with the next generation, charged to no channel. -/
def State.recordLost (s : State) (p i : Nat) : State :=
  let b := s.poolBuf p i
  let h := handleOf b.gen p i
  let back := if b.state == 1 then s.chargeAdd b.charge p 0 1 else s
  let a := (back.setPoolBuf p i { gen := (b.gen + 1) % 256 }).notePoolLow p
  let c := (List.range 64).foldl (fun (t : State) n =>
    let x := t.chan n
    match (x.reading.toList ++ x.held).find? (fun (e : Held) => e.handle == h) with
    | none => t
    | some e =>
      let y := { x with held := x.held.filter (fun (z : Held) => z.handle != h), headSince := if x.held.head?.map Held.handle == some h then none else x.headSince }
      let u := if x.reading == some e then t.cutReading n else t.setChan n y
      match e.telemetry with
      | some (m :: l) => ({ u with tel.lost := u.tel.lost + m }.telLost l).bump 1809 3
      | _ => u) a
  let d := if b.state == 1 then c.bump 908 10 else c
  d.raise 0x0885 (d4 0 ++ d4 p ++ d4 i)

/-! ### The data outcome -/

/-- R338: a node's word is uncorrectable: balance 0, start tag the V of its set. -/
def State.nodeLost (s : State) (n : Nat) : State :=
  let a := (s.setNode n { s.node n with bal := 0, balAt := s.time.ticks }).refreshTm
  let x := a.node n
  let v := if nodeLevel n == 0 then x.sTag else (a.node (parentOf n x)).v.getD x.set 0
  (a.setNode n { x with sTag := v }).raise 0x0782 (d4 n)

/-- R108, R206-R210, R247, R288, R289, R337, R338, R364-R366, R453: what an uncorrectable error does to the data. -/
def State.sramLost (s : State) : SramUse → State
  | .fibBucket vrf fam len way bucket => (s.bump 519 4).poisonFib vrf fam len way bucket
  | .emBucket table way bucket => (s.bump 519 4).poisonEm table way bucket
  | .labelEntry i => (s.bump 519 4).poisonLabel i
  | .nexthop i => (s.bump 519 4).poisonNexthop i
  | .ecmpRecord i => (s.bump 519 4).poisonEcmp i
  | .memberEntry i => (s.bump 519 4).poisonMember i
  | .directory => s.bump 519 4
  | .keyStore port slot sa => s.saFault port slot sa
  | .policer i => s.setPolicer i { s.policer i with lost := true }
  | .cell queue pos => s.cellLost queue pos
  | .linkWord queue pos both => if both then s.linkLost queue else (s.mendLink queue pos).bump 711 9
  | .schedNode node => s.nodeLost node
  | .bufRecord pool index => s.recordLost pool index
  | .bufData pool index => s.setPoolBuf pool index { s.poolBuf pool index with lost := true }
  | .sharedRecord i => s.sharedLost i
  | .serviceMemory => s
  | .encap i => s.editStoreLost 0 i
  | .editInsn program index => s.editStoreLost 1 (program * 32 + index)
  | .groupRecord i => s.editStoreLost 2 i
  | .mcMember i => s.editStoreLost 3 i
  | .tcamShadow lt row good => s.shadowLost lt row good
  | .tcamAction chain index => s.tcamPoison chain index
  | .staging => { s with fw.staging := {}, fw.stagedTotal := 0, fw.verified := false }

/-- R205, R247, R288, R289, Tables 08-9 and 09-8: the counter of a corrected word. -/
def State.sramCorrected (s : State) : SramUse → State
  | .fibBucket _ _ _ _ _ => s.bump 519 3
  | .emBucket _ _ _ => s.bump 519 3
  | .labelEntry _ => s.bump 519 3
  | .nexthop _ => s.bump 519 3
  | .ecmpRecord _ => s.bump 519 3
  | .memberEntry _ => s.bump 519 3
  | .directory => s.bump 519 3
  | .policer _ => s.bump 809 7
  | .schedNode _ => s.bump 809 7
  | .cell _ _ => s.bump 711 8
  | .linkWord _ _ _ => s.bump 711 9
  | .bufRecord _ _ => s.bump 908 16
  | .bufData _ _ => s.bump 908 16
  | .sharedRecord _ => s.bump 908 16
  | .tcamShadow lt _ _ => match s.tileChain lt with | some c => s.bump 608 7 c | none => s
  | .tcamAction chain _ => s.bump 608 7 chain
  | .keyStore _ _ _ => s
  | .serviceMemory => s
  | .encap _ => s
  | .editInsn _ _ => s
  | .groupRecord _ => s
  | .mcMember _ => s
  | .staging => s

/-- The cell of the store that an error names: the first one on die of the packet at a position of a queue. -/
def State.cellOf (s : State) : SramUse → Option Nat
  | .cell q pos =>
    match (s.queue q).pkts[pos]? with
    | some p => (cellNumbers ((s.queue q).runs.filter (fun c => c.pid == p.pid))).head?
    | none => none
  | _ => none

/-- R682: the cell of a row that is withheld leaves the free list. -/
def State.withholdCell (s : State) (m row : Nat) (c : Option Nat) : State :=
  match c with
  | some n =>
    if (s.macro_ m).withheld.contains row && !s.buf.withheld.contains n then { s with buf.withheld := s.buf.withheld ++ [n] } else s
  | none => s

/-- SRAM_ERROR (R677-R682): the data outcome, the replacement of the row, and for service memory the failure of the FE
service cores after it (R679). -/
def execSramError (die macro_ row column : Nat) (correctable : Bool) (use : SramUse) (s : State) : Out :=
  if 2 ≤ die || 2304 ≤ macro_ || !sramExists use then .fault .noSuchUnit
  else if !s.aux.pllLocked then .next s
  else
    let a := if correctable then s.sramCorrected use else s.sramLost use
    let b := (a.sramRepair die macro_ row column correctable).withholdCell macro_ row (s.cellOf use)
    done s (if use == .serviceMemory && !correctable && b.watched then b.feFailed .uncorrectable [] else b)

end Sys2Proof.Machine
end

