-- ==== Sys2Proof/Machine/Hier.lean ====
section
/-! DEFINITION. Manager, workers and coordination (15_device_hierarchy.md): messages, election and joining, heartbeats,
loss and takeover, relayed completions, mode changes, the commands of class 0x0E but HIER_DISTRIBUTE, and the time sync of
13_time.md. -/
namespace Sys2Proof.Machine
open Sys2Proof

/-! ### Messages (R585-R589) -/

/-- Firmware of a member takes part in coordination: it runs and is not paused by an activation. -/
def State.coordOn (s : State) : Bool := s.fwRuns && s.hier.member && !((s.fw.act.map (·.paused)).getD false)

/-- A coordination message of a type arrives on a path: R587 discards, R588 acknowledges every copy and delivers the first. -/
def State.receiveMsg (s : State) (path : Path) (type : Nat) (h : CoordHdr) (f : State → State) : Out :=
  if 3 ≤ path then .fault .noSuchUnit
  else if !s.coordOn || (path < 2 && !s.hier.linkUp.contains path) then .next s
  else if (path < 2 && !h.etherOk) || h.systemId != s.hier.systemId || h.version != 1 || !h.checkOk || h.type != type then
    done s (s.bump 1512 2)
  else if (!bit h.flags 0 && h.dst != s.fab.fdi) || h.src == s.fab.fdi then .next s
  else
    let a := { s with hier.highTerm := Nat.max s.hier.highTerm h.term }.bump 1512 1 path
    let b := if bit h.flags 1 then a.sendMsg h.src 0x02 false (toBe 4 h.msgSeq ++ zeros 4) else a
    let x := b.member h.src
    if x.seen.contains h.msgSeq then done s b
    else done s (f (b.setMember h.src { x with seen := (h.msgSeq :: x.seen).take 1024 }))

/-- The other devices of the member table. -/
def State.others (s : State) : List Nat := s.hier.table.filter (fun f => f != s.fab.fdi)

/-- Member bitmap and deputy as JOIN_ACCEPT and MEMBER_UPDATE carry them, 0xFF for no deputy. -/
def State.tableBody (s : State) : Bytes := toBe 32 (toBitmap s.hier.table) ++ toBe 1 (s.hier.deputy.getD 0xFF) ++ zeros 3

/-- MEMBER_UPDATE to every member (R584). -/
def State.announceTable (s : State) : State := s.sendAll s.others 0x08 true s.tableBody

/-! ### Deputy and member table (R583, R584, R595) -/

/-- The manager priority of a device as far as it is known here (log 18). -/
def State.priorityOf (s : State) (f : Nat) : Nat := ((s.member f).priority).getD (Config.peerPriority f).toNat

/-- R580, R584: of (FDI, priority) in ascending order of FDI, the highest priority, on a tie the lowest FDI. -/
def bestCandidate (l : List (Nat × Nat)) : Option Nat :=
  (l.foldl (fun (b : Option (Nat × Nat)) e => match b with
    | none => some e
    | some m => if m.2 < e.2 then some e else some m) none).map Prod.fst

/-- R584: the workers that may be designated: eligible and not silent on both paths. -/
def State.candidates (s : State) : List Nat :=
  s.others.filter (fun f => s.priorityOf f != 0 && (s.member f).silentAt.isNone)

/-- R584: designates the deputy; event 0x0E84 where no worker is eligible. -/
def State.designate (s : State) : State :=
  let l := s.candidates
  match (s.hier.depNamed.filter (fun f => l.contains f)).or (bestCandidate (l.map (fun f => (f, s.priorityOf f)))) with
  | some d => { s with hier.deputy := some d }
  | none => { s with hier.deputy := none }.raise 0x0E84 (d4 1 ++ d4 0)

/-- R595: a worker leaves; causes of event 0x0E82: 0 lost, 1 LEAVE, 2 command. -/
def State.removeMember (s : State) (f cause : Nat) : State :=
  let drop (c : Change) : Change := { c with members := if bit c.members f then c.members - 2 ^ f else c.members }
  let a : State := { s with
    hier.table := s.hier.table.filter (fun x => x != f), hier.members := s.hier.members.del f
    hier.depNamed := s.hier.depNamed.filter (fun x => x != f), hier.change := s.hier.change.map drop }
  let b := if s.hier.deputy == some f then a.designate else a
  let c := b.announceTable
  let d := if (c.peer f).present && (c.peer f).byManager then c.removePeer f else c
  ((d.raise 0x0E82 (d4 f ++ d4 cause)).bump 1512 10).reviewChange

/-- R583, R584: a member takes over a member table and a deputy; it adds the members to its peers, and removes from them
members that are gone. -/
def State.adoptTable (s : State) (members deputy : Nat) : State :=
  let new := bitmapOf members 32
  let gone := s.hier.table.filter (fun f => !new.contains f && f != s.fab.fdi && (s.peer f).present && (s.peer f).byManager)
  let a := { s with hier.table := new, hier.deputy := if deputy == 0xFF then none else some deputy }
  let b := (new.filter (fun f => f != s.fab.fdi)).foldl (fun (x : State) f => x.addPeer f true) a
  let c := gone.foldl (fun (x : State) f => x.removePeer f) b
  (new.foldl (fun (x : State) f => x.noteSilence f) c).setRole (if deputy == s.fab.fdi && deputy != 0xFF then 3 else 2)

/-- A device is no member of a running system any more: role 0 until it joins again from Configure (R595, R601). -/
def State.depart (s : State) : State :=
  { s with hier.manager := none, hier.deputy := none, hier.table := [], hier.staged := none }.setRole 0

/-- R600, R601: a device that claims role 1 with a higher term: a worker follows it, a manager takes role 2. -/
def State.noteManager (s : State) (src term : Nat) : State :=
  if term ≤ s.hier.term then s
  else if s.isManager then
    ({ s with hier.manager := some src, hier.term := term, hier.depNamed := none }.setRole 2).raise 0x0E89 (d4 src ++ d4 term)
  else if s.isWorker then { s with hier.manager := some src, hier.term := term }
  else s

/-! ### Election and joining (R579-R583) -/

/-- Asks a manager to let this device join (R579, R582). -/
def State.askJoin (s : State) (m : Nat) : State :=
  { s with hier.joining := some m, hier.election := none }.sendMsg m 0x04 true
    (toBe 1 1 ++ toBe 1 s.hier.priority ++ toBe 1 (if s.sec.gradeS then 0x53 else 0x4E) ++ toBe 1 s.fw.running.svn ++
      toBe 4 s.fw.running.version)

/-- R580: the device takes role 1 after an election. -/
def State.becomeManager (s : State) : State :=
  ({ s with
    hier.election := none, hier.term := s.hier.highTerm + 1, hier.highTerm := s.hier.highTerm + 1
    hier.manager := some s.fab.fdi, hier.table := [s.fab.fdi], hier.depNamed := none
    time.syncLost := false }.setRole 1).designate

/-- R579, R580: after the first window the second begins; at its end the best candidate is manager, and every other member listens
again. -/
def State.endElection (s : State) : State :=
  match s.hier.election with
  | none => s
  | some (t, n) =>
    if s.mode.mode != mdConfigure || s.hier.role != 0 || !s.ended t (ms s.hier.electionMs) then s
    else if n == 1 then { s with hier.election := some (s.time.ticks, 2) }
    else
      let all := s.hier.announced.set s.fab.fdi s.hier.priority
      if bestCandidate (all.filter (fun e => e.2 != 0)) == some s.fab.fdi then s.becomeManager
      else { s with hier.election := some (s.time.ticks, 1), hier.announced := [] }

/-- ANNOUNCE (R579-R581). A window that has ended ends first: it is half-open (R10). -/
def execAnnounce (path : Path) (h : CoordHdr) (priority role : Nat) (s : State) : Out :=
  s.receiveMsg path 0x03 h (fun s0 =>
    let s := s0.endElection
    let a := s.setMember h.src { s.member h.src with priority := some priority }
    if s.hier.role != 0 || s.mode.mode != mdConfigure || s.hier.election.isNone then a
    else if role == 1 then a.askJoin h.src
    else { a with hier.announced := a.hier.announced.set h.src priority })

/-- ELECTION_WINDOW_END (R579, R580). -/
def execElectionWindowEnd (s : State) : Out :=
  if !s.coordOn || s.hier.election.isNone then .next s else done s s.endElection

/-- ANNOUNCE_SEND (R580): each eligible member in its second window, and the manager, for those that listen (R579). -/
def execAnnounceSend (s : State) : Out :=
  let electing := s.hier.role == 0 && s.hier.priority != 0 && s.mode.mode == mdConfigure &&
    (s.hier.election.map Prod.snd) == some 2
  if !s.coordOn || !(electing || s.isManager) || !s.ended s.hier.announceAt (ms 100) then .next s
  else done s ({ s with hier.announceAt := s.time.ticks }.sendGroup 0x03
    (toBe 1 s.hier.priority ++ toBe 1 s.hier.role ++ zeros 2))

/-- R582: the reason for which the manager rejects a JOIN_REQUEST; a frame of another system is discarded by R587. -/
def State.joinReason (s : State) (src version mode : Nat) : Option Nat :=
  if version != 1 then some 2
  else if mode != mdConfigure then some 3
  else if s.hier.table.contains src then some 4
  else none

/-- JOIN_REQUEST (R582, R583). -/
def execJoinRequest (path : Path) (h : CoordHdr) (version priority _ordering _svn _fwVersion mode : Nat) (s : State) : Out :=
  s.receiveMsg path 0x04 h (fun s =>
    if !s.isManager then s
    else match s.joinReason h.src version mode with
      | some r => (s.sendMsg h.src 0x06 false (toBe 1 r ++ zeros 3)).raise 0x0E88 (d4 h.src ++ d4 r)
      | none =>
        let a := s.setMember h.src { s.member h.src with priority := some priority }
        let b : State := { a with
          hier.table := (List.range 256).filter (fun f => f == h.src || a.hier.table.contains f)
          hier.offers := a.hier.offers.del h.src }
        let c := (b.addPeer h.src true).noteSilence h.src
        let d := c.designate
        let e := d.sendMsg h.src 0x05 true d.tableBody
        let g := e.sendAll (e.others.filter (fun f => f != h.src)) 0x08 true e.tableBody
        (g.raise 0x0E81 (d4 h.src)).bump 1512 9)

/-- JOIN_ACCEPT (R583, R532): `managerT32` is the manager's T32 at this tick; T32 moves as TIME_SET moves it, the fraction
stays. -/
def execJoinAccept (path : Path) (h : CoordHdr) (members deputy : Nat) (managerT32 : T32) (s : State) : Out :=
  s.receiveMsg path 0x05 h (fun s =>
    if s.hier.joining != some h.src || s.hier.role != 0 || s.mode.mode != mdConfigure then s
    else
      let a : State := { s with
        hier.manager := some h.src, hier.term := h.term, hier.epoch := h.epoch, hier.joining := none
        hier.rejectedAt := none, hier.election := none, time.lastSync := s.time.ticks, time.syncLost := false }
      let b := a.adoptTable members deputy
      let d := T32.diff managerT32 b.t32
      if !b.stepFits d then b.refuseStep d
      else ({ b with time.acc := b.time.acc + (BitVec.ofInt 64 d <<< 32) }.rollWindows).afterStep b d)

/-- JOIN_REJECT (R582). -/
def execJoinReject (path : Path) (h : CoordHdr) (_reason : Nat) (s : State) : Out :=
  s.receiveMsg path 0x06 h (fun s =>
    if s.hier.joining == some h.src && s.hier.role == 0 then { s with hier.rejectedAt := some s.time.ticks } else s)

/-- JOIN_REQUEST_REPEAT (R582). -/
def execJoinRequestRepeat (s : State) : Out :=
  match s.hier.rejectedAt, s.hier.joining with
  | some t, some m =>
    if s.coordOn && s.hier.role == 0 && s.mode.mode == mdConfigure && s.ended t (secs 10) then
      done s ({ s with hier.rejectedAt := some s.time.ticks }.askJoin m)
    else .next s
  | _, _ => .next s

/-- MEMBER_UPDATE (R583, R584). -/
def execMemberUpdate (path : Path) (h : CoordHdr) (members deputy : Nat) (s : State) : Out :=
  s.receiveMsg path 0x08 h (fun s =>
    if !s.isWorker || s.hier.manager != some h.src then s
    else if bit members s.fab.fdi then s.adoptTable members deputy
    else s.depart)

/-- LEAVE (R595): from a worker to the manager, or from the manager to a worker it removes. -/
def execLeave (path : Path) (h : CoordHdr) (_cause : Nat) (s : State) : Out :=
  s.receiveMsg path 0x07 h (fun s =>
    if s.isManager then if s.hier.table.contains h.src then s.removeMember h.src 1 else s
    else if s.isWorker && s.hier.manager == some h.src then s.depart
    else s)

/-! ### Heartbeats on two paths (R590-R594) -/

/-- A heartbeat heard on a coordination link: the link is no longer silent, with event 0x0E83 where it had been lost. -/
def State.hearLink (s : State) (f path : Nat) : State :=
  let x := s.member f
  let lost := if path == 0 then x.cl0.isSome && x.silent0 else x.cl1.isSome && x.silent1
  let all := x.silent0 && x.silent1 && (x.cl0.isSome || x.cl1.isSome)
  let y := if path == 0 then { x with cl0 := some s.time.ticks, silent0 := false } else { x with cl1 := some s.time.ticks, silent1 := false }
  let t := s.setMember f y
  if s.hier.role == 0 then t
  else if all then t.raise 0x0E83 (d4 f ++ d4 2 ++ d4 1)
  else if lost then t.raise 0x0E83 (d4 f ++ d4 path ++ d4 1)
  else t

/-- R591, R593: coord_timeout has passed since the last heartbeat of a peer on a link. -/
def State.linkOver (s : State) (f link : Nat) : Bool :=
  let x := s.member f
  !(if link == 0 then x.silent0 else x.silent1) &&
    (if link == 0 then x.cl0 else x.cl1).any (fun t => s.ended t (ms s.hier.coordMs))

/-- R591, R593: a peer is no longer heard on a link. -/
def State.linkSilent (s : State) (f link : Nat) : State :=
  let x := s.member f
  let y := if link == 0 then { x with silent0 := true } else { x with silent1 := true }
  let t := (s.setMember f y).noteSilence f
  if s.hier.role == 0 then t else t.raise 0x0E83 (d4 f ++ d4 (if y.silent0 && y.silent1 then 2 else link) ++ d4 0)

/-- HEARTBEAT (R591-R594, R600, R601, R612, R614). Hearing that ended before it ends first: coord_timeout is half-open (R10). -/
def execHeartbeat (path : Path) (h : CoordHdr) (_t32 : T32) (role mode flags _deputy _members : Nat) (s : State) : Out :=
  s.receiveMsg path 0x01 h (fun s0 =>
    let s := if path < 2 && s0.linkOver h.src path then s0.linkSilent h.src path else s0
    let a := if path < 2 then s.hearLink h.src path else s
    let b := a.setMember h.src { a.member h.src with role, mode, epoch := h.epoch, uncertain := bit flags 0 }
    let c := b.noteSilence h.src
    (if role == 1 then c.noteManager h.src h.term else c).reviewChange)

/-- COORD_TIMEOUT (R591, R593). -/
def execCoordTimeout (peer link : Nat) (s : State) : Out :=
  if 256 ≤ peer || 2 ≤ link then .fault .noSuchUnit
  else if s.coordOn && s.linkOver peer link then done s (s.linkSilent peer link) else .next s

/-- Table 15-4: flags bit 2 says that the receiver is heard on the fabric path, of a message to all members that all are. -/
def State.hbBody (s : State) (heard : Bool) : Bytes :=
  toBe 4 s.t32.toNat ++ toBe 1 s.hier.role ++ toBe 1 s.mode.mode ++
    toBe 1 (b2n ((s.hier.staged.map (·.uncertain)).getD false) + 2 * b2n s.time.syncLost + 4 * b2n heard) ++ zeros 1 ++
    toBe 4 (s.hier.deputy.getD 0xFFFFFFFF) ++ toBe 4 s.hier.table.length

/-- COORD_HEARTBEAT_SEND (R590). -/
def execCoordHeartbeatSend (s : State) : Out :=
  if !s.coordOn || !(s.isManager || s.isWorker) || !s.ended s.hier.hbAt (ms 1) then .next s
  else
    let a := { s with hier.hbAt := s.time.ticks }
    if s.isManager then done s (a.sendGroup 0x01 (a.hbBody (a.others.all (fun f => a.fabricHeard f))))
    else
      let dst := ((s.hier.manager.toList ++ s.hier.deputy.toList).eraseDups).filter (fun f => f != s.fab.fdi)
      done s (dst.foldl (fun (b : State) f => [0, 1].foldl (fun (c : State) l =>
        if c.hier.linkUp.contains l then c.newMsg l { type := 0x01, dst := some f, ack := false, body := c.hbBody (c.fabricHeard f) }
        else c) b) a)

/-- COORD_LINK_UP (R590). -/
def execCoordLinkUp (link : Nat) (s : State) : Out :=
  if 2 ≤ link then .fault .noSuchUnit
  else if s.hier.linkUp.contains link || !s.aux.pllLocked then .next s
  else done s { s with hier.linkUp := s.hier.linkUp ++ [link] }

/-- COORD_LINK_DOWN (R589). -/
def execCoordLinkDown (link : Nat) (s : State) : Out :=
  if 2 ≤ link then .fault .noSuchUnit
  else done s { s with hier.linkUp := s.hier.linkUp.filter (fun l => l != link) }

/-- LEAVE_HOLD_EXPIRY (R594, R595). -/
def execLeaveHoldExpiry (peer : Nat) (s : State) : Out :=
  if 256 ≤ peer then .fault .noSuchUnit
  else match (s.member peer).silentAt with
    | none => .next s
    | some t =>
      if s.coordOn && s.isManager && s.others.contains peer && s.ended t (ms s.hier.leaveMs) then done s (s.removeMember peer 0)
      else .next s

/-- ACK (R588, R589). -/
def execAck (path : Path) (h : CoordHdr) (acked _status : Nat) (s : State) : Out :=
  s.receiveMsg path 0x02 h (fun s =>
    { s with hier.unacked := s.hier.unacked.filter (fun u => !(u.seq == acked && u.msg.dst == some h.src)) }.nextMsg (some h.src))

/-! ### Mode changes (R607-R614) -/

/-- The decision of a mode change to the members named, COMMIT with an effective time or ABORT. -/
def State.sendCommit (s : State) (dst : List Nat) (epoch mode : Nat) (t : T32) : State :=
  s.sendAll (dst.filter (fun f => f != s.fab.fdi)) 0x13 true (toBe 4 epoch ++ toBe 1 mode ++ zeros 3 ++ toBe 4 t.toNat)
def State.sendAbort (s : State) (dst : List Nat) (epoch : Nat) : State :=
  s.sendAll (dst.filter (fun f => f != s.fab.fdi)) 0x14 true (toBe 4 epoch)

/-- 20 ms from now, as an effective time (R612). -/
def State.in20ms (s : State) : T32 := s.t32 + 20000000#32

/-- R608: the status that a mode change would have on this device; 0 for READY. -/
def State.changeStatus (s : State) (epoch mode : Nat) : Nat :=
  if s.hier.staged.isSome then stBusy
  else if !(commanded s.mode.mode).contains mode then stWrongMode
  else if epoch != (s.hier.epoch + 1) % 4294967296 then stRefused
  else stOk

/-- PREPARE (R608). -/
def execPrepare (path : Path) (h : CoordHdr) (newEpoch mode : Nat) (t : T32) (members : Nat) (s : State) : Out :=
  s.receiveMsg path 0x10 h (fun s =>
    if !s.isWorker || s.hier.manager != some h.src || !bit members s.fab.fdi then s
    else
      let st := s.changeStatus newEpoch mode
      if st == stOk then
        { s with hier.staged := some { epoch := newEpoch, mode, t, members } }.sendMsg h.src 0x11 true (toBe 4 newEpoch)
      else s.sendMsg h.src 0x12 true (toBe 4 newEpoch ++ toBe 1 st ++ zeros 3))

/-- R609: every named member is ready: the change is committed. -/
def State.commitChange (s : State) (c : Change) : State :=
  let a : State := { s with
    hier.change := some { c with decided := some true }
    hier.staged := s.hier.staged.map (fun x => if x.epoch == c.epoch then { x with committed := true } else x) }
  a.sendCommit (bitmapOf c.members 32) c.epoch c.mode c.t

/-- R609: the change is given up: ABORT to every named member, the command completes, event 0x0E86. -/
def State.abortChange (s : State) (c : Change) (status first : Nat) : State :=
  let a : State := { s with
    hier.change := none, hier.staged := s.hier.staged.filter (fun x => x.epoch != c.epoch) }
  ((a.sendAbort (bitmapOf c.members 32) c.epoch).finishKind .modeChange status 0 first).raise 0x0E86
    (d4 c.epoch ++ d4 status ++ d4 first)

/-- The named members are ready. -/
def Change.allReady (c : Change) : Bool := (bitmapOf c.members 32).all (fun f => c.ready.contains f)

/-- HIER_MODE_CHANGE (R607, R609). The manager is ready itself where it is named and the transition is allowed. -/
def hierModeChangeSpec : CmdSpec :=
  { opcode := 0x0E04, long := fun b => 40 ≤ b.length, clean := fun b => rsv b 1 3
    mode := fun _ s => if s.isManager then 0 else stWrongMode }

/-- R607, R608: a change opens at the manager, and is staged there where the manager is a member of it. -/
def State.openChange (s : State) (c : Change) : State :=
  { s with
    hier.change := some c
    hier.staged := if bit c.members s.fab.fdi then some { epoch := c.epoch, mode := c.mode, t := c.t, members := c.members }
                   else s.hier.staged }

/-- R608: the manager sends PREPARE to the other members, and commits at once where none is to be awaited. -/
def State.startChange (s : State) (c : Change) : State :=
  let p := (s.openChange c).sendAll ((bitmapOf c.members 32).filter (fun f => f != s.fab.fdi)) 0x10 true
    (toBe 4 c.epoch ++ toBe 1 c.mode ++ zeros 3 ++ toBe 4 c.t.toNat ++ toBe 32 c.members)
  if c.allReady then p.commitChange c else p

/-- HIER_MODE_CHANGE (R607, R608). -/
def cmdHierModeChange (c : Cmd) (s : State) : Res :=
  gate hierModeChangeSpec (fun c s =>
    let b := c.payload
    let m := byteAt b 0
    let t0 : T32 := BitVec.ofNat 32 (le b 4 4)
    let bits := le b 8 32
    let l := bitmapOf bits 32
    let e := (s.hier.epoch + 1) % 4294967296
    let own := s.fab.fdi
    if !inRange m mdForwarding mdMaintenance || (t0 != 0 && !T32.validCommit s.t32 t0) || l.isEmpty ||
        l.any (fun f => !s.hier.table.contains f) then Res.err s stBadParam
    else if s.hier.change.isSome then Res.err s stBusy
    else if bit bits own && s.changeStatus e m != stOk then
      { st := s.raise 0x0E86 (d4 e ++ d4 stRefused ++ d4 own), status := stRefused, detail := own, keep := true }
    else
      let t := if t0 == 0 then s.in20ms else t0
      let ch : Change := { epoch := e, mode := m, t, members := bits, at_ := s.time.ticks, ready := if bit bits own then [own] else [] }
      { st := s.startChange ch, async := some .modeChange }) c s

def execHierModeChange (c : Cmd) (s : State) : Out := serve c cmdHierModeChange s

/-- READY (R609). -/
def execReady (path : Path) (h : CoordHdr) (newEpoch : Nat) (s : State) : Out :=
  s.receiveMsg path 0x11 h (fun s =>
    match s.hier.change with
    | some c =>
      if s.isManager && c.epoch == newEpoch && c.decided.isNone && bit c.members h.src && !s.ended c.at_ (ms 5) then
        let d := { c with ready := h.src :: c.ready.filter (fun f => f != h.src) }
        if d.allReady then s.commitChange d else { s with hier.change := some d }
      else s
    | none => s)

/-- REFUSE (R609). -/
def execRefuse (path : Path) (h : CoordHdr) (newEpoch _status : Nat) (s : State) : Out :=
  s.receiveMsg path 0x12 h (fun s =>
    match s.hier.change with
    | some c =>
      if s.isManager && c.epoch == newEpoch && c.decided.isNone && bit c.members h.src && !s.ended c.at_ (ms 5) then
        s.abortChange c stRefused h.src
      else s
    | none => s)

/-- PREPARE_REPLY_TIMEOUT (R609). -/
def execPrepareReplyTimeout (s : State) : Out :=
  match s.hier.change with
  | some c =>
    match (bitmapOf c.members 32).find? (fun f => !c.ready.contains f) with
    | some f => if s.isManager && c.decided.isNone && s.ended c.at_ (ms 5) then done s (s.abortChange c stTimeout f) else .next s
    | none => .next s
  | none => .next s

/-- R610: a member applies a committed change: it sets its epoch and enters the mode; in Quarantine only the epoch, in
Activation the mode to which the activation returns. -/
def State.applyChange (s : State) (x : Staged) : State :=
  let a : State := { s with hier.epoch := x.epoch, hier.staged := none, hier.lastChange := some (x.epoch, x.mode) }
  (if s.mode.mode == mdQuarantine then a
   else if s.mode.mode == mdActivation then { a with fw.act := a.fw.act.map (fun y => { y with prevMode := x.mode }) }
   else a.requestMode x.mode mcHierarchy).reviewChange

/-- COMMIT (R610-R612): before T it is recorded; from T to T + 100 ms it is applied on arrival; later, or where nothing is
staged, it is applied at the effective time it carries. One that names no mode that can be commanded has no effect. -/
def execCommit (path : Path) (h : CoordHdr) (newEpoch mode : Nat) (t : T32) (s : State) : Out :=
  s.receiveMsg path 0x13 h (fun s =>
    if !s.isWorker || s.hier.manager != some h.src || newEpoch ≤ s.hier.epoch then s
    else match s.hier.staged with
      | some x =>
        if x.epoch != newEpoch || x.committed then s
        else if x.uncertain || s.t32.reached (x.t + 100000000#32) then
          { s with hier.staged := some { x with committed := true, t := t } }
        else if s.t32.reached x.t then (s.applyChange x).bump 1512 6
        else { s with hier.staged := some { x with committed := true } }
      | none =>
        if inRange mode mdForwarding mdMaintenance then
          { s with hier.staged := some { epoch := newEpoch, mode, t, members := 2 ^ s.fab.fdi, committed := true } }
        else s)

/-- MODE_COMMIT_DUE (R610, R512). -/
def execModeCommitDue (s : State) : Out :=
  match s.hier.staged with
  | some x => if s.coordOn && x.committed && s.t32.reached x.t then done s (s.applyChange x) else .next s
  | none => .next s

/-- ABORT (R613): a staged change that was not committed is dropped. -/
def execAbort (path : Path) (h : CoordHdr) (newEpoch : Nat) (s : State) : Out :=
  s.receiveMsg path 0x14 h (fun s =>
    if s.isWorker && s.hier.manager == some h.src then
      { s with hier.staged := s.hier.staged.filter (fun x => x.epoch != newEpoch || x.committed) }
    else s)

/-- COMMIT_UNCERTAIN (R611). -/
def execCommitUncertain (s : State) : Out :=
  match s.hier.staged with
  | some x =>
    if s.coordOn && s.isWorker && !x.committed && !x.uncertain && s.t32.reached (x.t + 100000000#32) then
      done s ({ s with hier.staged := some { x with uncertain := true }, hier.queryAt := s.time.ticks - ms 10 }.raise 0x0E87
        (d4 s.fab.fdi ++ d4 x.epoch))
    else .next s
  | none => .next s

/-- MODE_QUERY_SEND (R611). -/
def execModeQuerySend (s : State) : Out :=
  match s.hier.staged, s.hier.manager with
  | some x, some m =>
    if s.coordOn && s.isWorker && x.uncertain && !x.committed && s.ended s.hier.queryAt (ms 10) then
      done s ({ s with hier.queryAt := s.time.ticks }.sendMsg m 0x15 true (toBe 4 x.epoch))
    else .next s
  | _, _ => .next s

/-- MODE_QUERY (R612): the manager answers with the decision at once. -/
def execModeQuery (path : Path) (h : CoordHdr) (newEpoch : Nat) (s : State) : Out :=
  s.receiveMsg path 0x15 h (fun s =>
    let open_ := s.hier.change.filter (fun c => c.epoch == newEpoch)
    if !s.isManager then s
    else match open_, s.hier.lastChange with
      | some c, _ => if c.decided == some true then s.sendCommit [h.src] newEpoch c.mode s.in20ms else s
      | none, some (e, m) => if e == newEpoch then s.sendCommit [h.src] newEpoch m s.in20ms else s.sendAbort [h.src] newEpoch
      | none, none => s.sendAbort [h.src] newEpoch)

/-- DECISION_RESEND (R612). -/
def execDecisionResend (s : State) : Out :=
  match s.hier.change with
  | some c =>
    if s.coordOn && s.isManager && c.decided == some true && s.t32.reached (c.t + 1000000#32) &&
        (c.lastResend == 0 || s.ended c.lastResend (ms 10)) then
      let l := (s.laggards c).filter (fun f => f != s.fab.fdi)
      done s (({ s with hier.change := some { c with lastResend := s.time.ticks } }.sendCommit l c.epoch c.mode s.in20ms).count
        1512 7 0 0 l.length)
    else .next s
  | none => .next s

/-- MODE_CHANGE_DEADLINE (R614). -/
def execModeChangeDeadline (s : State) : Out :=
  match s.hier.change with
  | some c =>
    if c.decided == some true && !c.completed && s.t32.reached (c.t + 100000000#32) then
      let l := (s.laggards c).length
      done s ((({ s with hier.change := some { c with completed := true } }.finishKind .modeChange stPartial
        ((bitmapOf c.members 32).length - l) l).raise 0x0E85 (d4 c.epoch ++ d4 c.mode ++ d4 c.t.toNat ++ d4 l)))
    else .next s
  | none => .next s

/-! ### Takeover (R597-R602) -/

/-- R598: of the other workers in the table, how many there are and how many are heard on either path. -/
def State.quorum (s : State) : Nat × Nat :=
  let l := s.others.filter (fun f => s.hier.manager != some f)
  (l.length, (l.filter (fun f => !s.bothSilent f)).length)

def State.quorate (s : State) : Bool := s.quorum.1 == 0 || s.quorum.1 < 2 * s.quorum.2

/-- R609: a new manager decides the change that is staged here. -/
def State.reconcile (s : State) : State :=
  match s.hier.staged with
  | none => s
  | some x =>
    let l := bitmapOf x.members 32
    if x.committed || s.others.any (fun f => s.showsEpoch x.epoch f) then
      ({ s with
        hier.staged := some { x with committed := true }
        hier.change := some { epoch := x.epoch, mode := x.mode, t := x.t, members := x.members, at_ := s.time.ticks
                              decided := some true, completed := true } }.sendCommit l x.epoch x.mode x.t).reviewChange
    else { s with hier.staged := none }.sendAbort l x.epoch

/-- R599: the takeover. -/
def State.takeOver (s : State) : State :=
  let old := s.hier.manager.getD s.fab.fdi
  let a := { s with
    hier.term := s.hier.highTerm + 1, hier.highTerm := s.hier.highTerm + 1, hier.manager := some s.fab.fdi
    hier.deputy := none, hier.depNamed := none, time.syncLost := false }.setRole 1
  let b := (a.bump 1512 8).designate
  let c := b.sendAll b.others 0x18 true (toBe 1 old ++ toBe 1 (b.hier.deputy.getD 0xFF) ++ zeros 2)
  (c.announceTable.reconcile).raise 0x0E84 (d4 0 ++ d4 s.fab.fdi ++ d4 old ++ d4 a.hier.term)

/-- Both paths to the manager are silent. -/
def State.managerSilent (s : State) : Bool := (s.hier.manager.map (fun m => s.bothSilent m)).getD false

/-- TAKEOVER_HOLD_EXPIRY (R597-R599). -/
def execTakeoverHoldExpiry (s : State) : Out :=
  match s.hier.manager.bind (fun m => (s.member m).silentAt) with
  | none => .next s
  | some t =>
    if !s.coordOn || s.hier.role != 3 || !s.managerSilent || !s.ended t (ms s.hier.takeoverMs) ||
        (t < s.hier.withheldAt && !s.ended s.hier.withheldAt (ms s.hier.takeoverMs)) then .next s
    else if s.quorate then done s s.takeOver
    else done s ({ s with hier.withheldAt := s.time.ticks }.raise 0x0E8A (d4 s.quorum.2 ++ d4 s.quorum.1))

/-- TAKEOVER (R600, R601). -/
def execTakeover (path : Path) (h : CoordHdr) (_oldManager newDeputy : Nat) (s : State) : Out :=
  s.receiveMsg path 0x18 h (fun s =>
    if h.term ≤ s.hier.term || s.hier.role == 0 then s
    else
      let a := s.noteManager h.src h.term
      { a with hier.deputy := if newDeputy == 0xFF then none else some newDeputy }.setRole
        (if newDeputy == s.fab.fdi && newDeputy != 0xFF then 3 else 2))

/-- HIER_CLAIM (R602). -/
def hierClaimSpec : CmdSpec := { opcode := 0x0E08 }

def cmdHierClaim (c : Cmd) (s : State) : Res :=
  gate hierClaimSpec (fun _ s =>
    if s.isWorker && s.hier.priority != 0 && s.quorate && s.managerSilent then { st := s.takeOver } else Res.err s stRefused) c s

def execHierClaim (c : Cmd) (s : State) : Out := serve c cmdHierClaim s

/-! ### Resending and relayed completions (R588, R596, R603, R604) -/

/-- A relayed command ends: its completion in the manager's ring (R38), or its status in the HIER_DISTRIBUTE it is part of. -/
def State.endRelay (s : State) (r : Relay) (status : Nat) (result : Bytes) (resultLength applied failIndex detail : Nat) : State :=
  let t := { s with hier.relays := s.hier.relays.filter (fun x => x.id != r.id) }
  match r.dist with
  | some d => t.distStatus d r.fdi status
  | none =>
    (t.hif.openCmds.filter (fun o => o.kind == .relay r.id)).foldl (fun (a : State) o =>
      ({ a with hif.openCmds := a.hif.openCmds.erase o }).complete o.cmd o.silent o.at_ status result resultLength applied
        failIndex detail) t

/-- RELAY_COMPLETION (R38, R604): segments are put together; one of a relay that is over is counted in relay_late. -/
def execRelayCompletion (path : Path) (h : CoordHdr) (relayId offset total status resultLength applied failIndex detail : Nat)
    (result : Bytes) (s : State) : Out :=
  s.receiveMsg path 0x0A h (fun s =>
    match s.hier.relays.find? (fun r => r.id == relayId && r.fdi == h.src) with
    | none => s.bump 1512 4
    | some r =>
      let d := r.data ++ result
      if offset != r.data.length then s
      else if d.length < total then
        { s with hier.relays := s.hier.relays.map (fun x => if x.id == relayId then { x with data := d } else x) }
      else s.endRelay r status d resultLength applied failIndex detail)

/-- RELAY_TIMEOUT (R604). -/
def execRelayTimeout (relayId : Nat) (s : State) : Out :=
  match s.hier.relays.find? (fun r => r.id == relayId) with
  | none => .next s
  | some r =>
    if s.coordOn && s.ended r.at_ (secs s.hier.relayS) then done s (s.endRelay r stTimeout [] 0 0 0xFFFFFFFF 0) else .next s

/-- RELAY_EVENT (R554): the manager writes a member's record into its event ring under the member's FDI. -/
def execRelayEvent (path : Path) (h : CoordHdr) (code t32 : Nat) (data : Bytes) (s : State) : Out :=
  s.receiveMsg path 0x0B h (fun s => if s.isManager then s.writeEvent code h.src (BitVec.ofNat 32 t32) data else s)

/-! ### Time sync (R529-R533) -/

/-- TIME_SYNC_SEND (R529): 16 exchanges per second toward each worker on each coordination link that is up. -/
def execTimeSyncSend (s : State) : Out :=
  if !s.coordOn || !s.isManager || !s.ended s.hier.syncAt 46875000 then .next s
  else
    let a := { s with hier.syncAt := s.time.ticks }
    done s (a.others.foldl (fun (b : State) f => [0, 1].foldl (fun (c : State) l =>
      if c.hier.linkUp.contains l then c.newMsg l { type := 0x20, dst := some f, ack := false, body := [] } else c) b) a)

/-- TIME_SYNC (R529, R532): the worker's firmware writes its increment within the range of R500, and a step within the
threshold; a larger offset it corrects by increment only, with event 0x0C89. The message means something on CL0 and CL1 only
(Table 15-3). -/
def execTimeSync (path : Path) (h : CoordHdr) (offset : Int) (newInc : BitVec 40) (step : Option Int) (s : State) : Out :=
  s.receiveMsg path 0x20 h (fun s =>
    if path == 2 || !s.isWorker || s.hier.manager != some h.src then s
    else
      let a := { s with time.lastSync := s.time.ticks, time.lastOffset := offset, time.syncLost := false }.bump 1306 9
      let b := if inRange newInc.toNat 0x0154FDF3B6 0x0155ACB6F4 then a.writeInc newInc else a
      let c := match step with
        | some d => if d.natAbs ≤ b.time.stepThreshold then if b.stepFits d then b.applyStep d else b.refuseStep d else b
        | none => b
      if s.time.stepThreshold < offset.natAbs then c.raise 0x0C89 (d4 1 ++ d4s offset) else c)

/-- TIME_SYNC_LOSS (R533). -/
def execTimeSyncLoss (s : State) : Out :=
  if s.coordOn && s.isWorker && !s.time.syncLost && s.ended s.time.lastSync (secs 1) then
    done s ({ s with time.syncLost := true }.raise 0x0C89 (d4 0 ++ d4s s.time.lastOffset))
  else .next s

/-! ### The other commands of class 0x0E -/

/-- HIERARCHY_CONFIG (R577-R579, Table 15-9). -/
def hierarchyConfigSpec : CmdSpec :=
  { opcode := 0x0E01, long := fun b => 16 ≤ b.length, clean := fun b => rsv b 14 2
    mode := fun _ s => if s.mode.mode == mdConfigure then 0 else stWrongMode }

def cmdHierarchyConfig (c : Cmd) (s : State) : Res :=
  gate hierarchyConfigSpec (fun c s =>
    let b := c.payload
    let el := le b 4 2
    let co := le b 6 2
    let ta := le b 8 2
    let lv := le b 10 2
    let re := le b 12 2
    if 1 < byteAt b 0 || !inRange el 500 10000 || !inRange co 2 100 || !inRange ta 10 1000 || !inRange lv 10 10000 ||
        lv ≤ ta || !inRange re 1 600 then Res.err s stBadParam
    else
      let on := byteAt b 0 == 1
      let a : State := { s with
        hier.member := on, hier.priority := byteAt b 1, hier.systemId := le b 2 2, hier.electionMs := el, hier.coordMs := co
        hier.takeoverMs := ta, hier.leaveMs := lv, hier.relayS := re }
      let same := on == s.hier.member && a.hier.systemId == s.hier.systemId
      let x := if same then a
        else { a with hier.role := 0, hier.manager := none, hier.deputy := none, hier.table := [], hier.election := none }.startElection
      { st := x.saveSettings.noteIdentity }) c s

def execHierarchyConfig (c : Cmd) (s : State) : Out := serve c cmdHierarchyConfig s

/-- HIER_STATUS_GET. -/
def hierStatusGetSpec : CmdSpec := { opcode := 0x0E02, size := fun _ => 2088, reads := true }

def State.memberRecord (s : State) (f : Nat) : Bytes :=
  if !s.hier.table.contains f then zeros 8
  else
    let x := s.member f
    let own := f == s.fab.fdi
    let uncertain := if own then (s.hier.staged.map (·.uncertain)).getD false else x.uncertain
    toLe 1 (b2n (!x.silent0) + 2 * b2n (!x.silent1) + 4 * b2n (s.fabricHeard f) + 8 * b2n uncertain) ++
      toLe 1 (if own then s.mode.mode else x.mode) ++ zeros 2 ++ toLe 4 (if own then s.hier.epoch else x.epoch)

def cmdHierStatusGet (c : Cmd) (s : State) : Res :=
  gate hierStatusGetSpec (fun _ s =>
    { st := s, result := toLe 1 s.hier.role ++ toLe 1 (s.hier.manager.getD 0xFF) ++ toLe 1 (s.hier.deputy.getD 0xFF) ++ zeros 1 ++
        toLe 4 s.hier.term ++ toLe 32 (toBitmap s.hier.table) ++ (List.range 256).flatMap s.memberRecord }) c s

def execHierStatusGet (c : Cmd) (s : State) : Out := serve c cmdHierStatusGet s

/-- HIER_DEPUTY_SET (R584). -/
def hierDeputySetSpec : CmdSpec :=
  { opcode := 0x0E03, long := fun b => 4 ≤ b.length, clean := fun b => rsv b 1 3
    mode := fun _ s => if s.isManager then 0 else stWrongMode }

def cmdHierDeputySet (c : Cmd) (s : State) : Res :=
  gate hierDeputySetSpec (fun c s =>
    let f := byteAt c.payload 0
    if !s.others.contains f then Res.err s stNotFound
    else if s.priorityOf f == 0 then Res.err s stRefused
    else { st := ({ s with hier.depNamed := some f }.designate).announceTable }) c s

def execHierDeputySet (c : Cmd) (s : State) : Out := serve c cmdHierDeputySet s

/-- HIER_MEMBER_REMOVE (R595). -/
def hierMemberRemoveSpec : CmdSpec :=
  { opcode := 0x0E06, long := fun b => 4 ≤ b.length, clean := fun b => rsv b 1 3
    mode := fun _ s => if s.isManager then 0 else stWrongMode }

def cmdHierMemberRemove (c : Cmd) (s : State) : Res :=
  gate hierMemberRemoveSpec (fun c s =>
    let f := byteAt c.payload 0
    if !s.others.contains f then Res.err s stNotFound
    else { st := (s.sendMsg f 0x07 true (toBe 1 2 ++ zeros 3)).removeMember f 2 }) c s

def execHierMemberRemove (c : Cmd) (s : State) : Out := serve c cmdHierMemberRemove s

/-- HIER_COUNTERS_GET (R745, Table 15-12). -/
def hierDims : List (Nat × Nat) := [(3, 1), (3, 1), (1, 1), (1, 1), (1, 1), (1, 1), (1, 1), (1, 1), (1, 1), (1, 1), (1, 1)]

def hierCountersGetSpec : CmdSpec := { opcode := 0x0E07, size := fun _ => snapSize hierDims, reads := true }

def cmdHierCountersGet (c : Cmd) (s : State) : Res :=
  gate hierCountersGetSpec (fun _ s => { st := s, result := s.snap 1512 hierDims }) c s

def execHierCountersGet (c : Cmd) (s : State) : Out := serve c cmdHierCountersGet s

end Sys2Proof.Machine
end

