-- ==== Sys2Proof/Machine/Snow.lean ====
section
/-! DEFINITION. Snowdrop recovery (R647-R651) on both sides, and the resending of coordination messages (R588). -/
namespace Sys2Proof.Machine
open Sys2Proof

/-! ### The device in Recovery -/

/-- The Snowdrop window is open (Table 14-6). -/
def State.windowOpen (s : State) : Bool := s.mode.mode == mdRecovery && s.aux.pllLocked

/-- R649: the image is good: flash is written in three steps, and the device restarts into Boot. The messages already sent stay. -/
def State.snowAccept (s : State) (img : Image) (path : Nat) : State :=
  let r := s.bootRec.getD {}
  let a := { s.commitRec { r with state := 4 } with fw.imageRegion := img.cut }
  let b := a.commitRec { r with
    state := 0, attempts := 0, digest := img.digest, version := img.version, length := 4096 + img.bodyLength, svn := img.svn }
  { b.resetDies with fw.snowDone := some path, hier.sent := s.hier.sent }

/-- R648, R649: one chunk: its result code and the state, the restart after a good image left to the caller. -/
def State.snowTake (s : State) (total offset : Nat) (data : Bytes) (most : Nat) : Nat × State :=
  let fresh := s.fw.snowNext == 0
  if !inRange total 4097 8388608 || !inRange data.length 1 most || offset != s.fw.snowNext || total < offset + data.length ||
      (!fresh && total != s.fw.snowTotal) then
    (0x18, { s with fw.snowNext := 0, fw.snowTotal := 0, fw.snowSender := none, fw.staging := {} })
  else
    let img : Image := { bytes := (if fresh then [] else s.fw.staging.bytes) ++ data }
    let t := { s with fw.snowNext := offset + data.length, fw.snowTotal := total, fw.staging := img }
    if offset + data.length < total then (0x01, t)
    else
      let code := img.verify s.fw.floor
      if code == 0x02 then (0x03, t)
      else (code, { t with fw.snowNext := 0, fw.snowTotal := 0, fw.snowSender := none, fw.staging := {} })

/-- The bytes of the Snowdrop window (Table 16-6). -/
def State.windowBytes (s : State) (off n : Nat) : Bytes := (List.range n).map (fun i => barRead s.hif.bar (0x10000 + off + i))

/-- A write of HIF_SNOWDROP (R648, R649, R651, Table 14-6): in Recovery the ROM takes the chunk in the window, unless a transfer
over CL0 has begun. -/
def State.writeSnowdrop (s : State) (ready : Bool) : State :=
  if !(ready && s.windowOpen) then { s with hif.imageReady := ready }
  else
    let n := le (s.windowBytes 8 4) 0 4
    let r := if s.fw.snowNext != 0 && s.fw.snowSender.isSome then (0x18, s)
      else s.snowTake (le (s.windowBytes 0 4) 0 4) (le (s.windowBytes 4 4) 0 4)
        (s.windowBytes 0x100 (if n ≤ 65280 then n else 0)) 65280
    let t : State := { r.2 with hif.snowResult := r.1, hif.imageReady := false }
    if r.1 == 0x03 then t.snowAccept t.fw.staging 0 else t

/-- IMAGE_READY (R648). -/
def execImageReady (v : BitVec 32) (s : State) : Out :=
  if s.hif.linkUp then done s (s.writeSnowdrop (v.getLsbD 2)) else .next s

/-- SNOWDROP_OFFER_SEND (R650): over CL0, every 1 s, where there is a boot record. -/
def execSnowdropOfferSend (s : State) : Out :=
  if !s.windowOpen || s.bootRec.isNone || !s.hier.linkUp.contains 0 || !s.ended s.fw.snowAt (secs 1) then .next s
  else done s ({ s with fw.snowAt := s.time.ticks }.newMsg 0
    { type := 0x30, dst := none, ack := false
      body := padTo 8 Config.dieFe ++ padTo 8 Config.dieTm ++ toBe 1 Config.offerCause.toNat ++ zeros 3 })

/-- SNOWDROP_CHUNK (R648-R651): the device in Recovery answers every chunk, and takes them from one sender only. -/
def execSnowdropChunk (path : Path) (h : CoordHdr) (total offset : Nat) (data : Bytes) (s : State) : Out :=
  if 3 ≤ path then .fault .noSuchUnit
  else if !s.windowOpen || path != 0 || !s.hier.linkUp.contains 0 || s.bootRec.isNone then .next s
  else if !h.etherOk || h.systemId != s.hier.systemId || h.version != 1 || !h.checkOk || h.type != 0x31 then done s (s.bump 1512 2)
  else if (!bit h.flags 0 && h.dst != s.fab.fdi) || h.src == s.fab.fdi then .next s
  else
    let reply (t : State) (type : Nat) (body : Bytes) : State := t.newMsg 0 { type, dst := some h.src, ack := false, body }
    let a := s.bump 1512 1 0
    let b := if bit h.flags 1 then reply a 0x02 (toBe 4 h.msgSeq ++ zeros 4) else a
    let x := b.member h.src
    if x.seen.contains h.msgSeq then done s b
    else
      let c := b.setMember h.src { x with seen := (h.msgSeq :: x.seen).take 1024 }
      let answer (t : State) (code : Nat) : State := reply t 0x32 (toBe 1 code ++ zeros 3 ++ toBe 4 t.fw.snowNext)
      if c.fw.snowNext != 0 && c.fw.snowSender != some h.src then done s (answer c 0x18)
      else
        let r := c.snowTake total offset data 3936
        let t := if r.1 == 0x01 then { r.2 with fw.snowSender := some h.src } else r.2
        let u := answer t r.1
        done s (if r.1 == 0x03 then u.snowAccept u.fw.staging 1 else u)

/-! ### The manager -/

/-- SNOWDROP_OFFER (R650, R651). -/
def execSnowdropOffer (path : Path) (h : CoordHdr) (dieIds : Bytes) (_cause : Nat) (s : State) : Out :=
  s.receiveMsg path 0x30 h (fun s => if s.isManager then { s with hier.offers := s.hier.offers.set h.src dieIds } else s)

/-- Sends a chunk of the staged image over CL0. -/
def State.pushChunk (s : State) (f offset : Nat) : State :=
  let b := s.fw.staging.bytes
  { s with hier.push := some (f, offset) }.newMsg 0
    { type := 0x31, dst := some f, ack := true, body := toBe 4 b.length ++ toBe 4 offset ++ slice b offset 3936 }

/-- Ends a push. -/
def State.endPush (s : State) (f status detail : Nat) : State :=
  { s with hier.push := none }.finishKind (.snowdropPush f) status 0 detail

/-- SNOWDROP_RESULT (R651): the next chunk, or the end of the push. -/
def execSnowdropResult (path : Path) (h : CoordHdr) (code nextOffset : Nat) (s : State) : Out :=
  s.receiveMsg path 0x32 h (fun s =>
    if (s.hier.push.map Prod.fst) != some h.src then s
    else if code == 0x01 then s.pushChunk h.src nextOffset
    else if code == 0x03 then ({ s with hier.offers := s.hier.offers.del h.src }.endPush h.src stOk 0)
    else s.endPush h.src stRefused code)

/-- FW_SNOWDROP_PUSH (R651). -/
def fwSnowdropPushSpec : CmdSpec := { opcode := 0x0F0B, long := fun b => 4 ≤ b.length, clean := fun b => rsv b 1 3 }

def cmdFwSnowdropPush (c : Cmd) (s : State) : Res :=
  gate fwSnowdropPushSpec (fun c s =>
    let f := byteAt c.payload 0
    if !s.isManager then Res.err s stRefused
    else if (s.hier.offers.get? f).isNone then Res.err s stNotFound
    else if !s.fw.verified then Res.err s stRefused
    else if s.hier.push.isSome then Res.err s stBusy
    else { st := s.pushChunk f 0, async := some (.snowdropPush f) }) c s

def execFwSnowdropPush (c : Cmd) (s : State) : Out := serve c cmdFwSnowdropPush s

/-! ### Resending (R588) -/

/-- What follows when the eighth resend of a message goes unanswered (R588, R596, and for a push R651). -/
def State.msgFailed (s : State) (m : Msg) : State :=
  let t := s.bump 1512 3
  if m.type == 0x0A then t.bump 1512 5
  else if m.type == 0x04 then { t with hier.joining := none }.startElection
  else if m.type == 0x31 then
    match m.dst with
    | some f => if (t.hier.push.map Prod.fst) == some f then t.endPush f stTimeout 0 else t
    | none => t
  else t

/-- MESSAGE_RESEND (R588, R589). -/
def execMessageResend (msgSeq : Nat) (s : State) : Out :=
  match s.hier.unacked.find? (fun u => u.seq == msgSeq) with
  | none => .next s
  | some u =>
    if !s.coordOn || !s.ended u.at_ (ms 1) then .next s
    else if 8 ≤ u.resends then
      done s ({ s with hier.unacked := s.hier.unacked.filter (fun x => x.seq != msgSeq) }.msgFailed u.msg |>.nextMsg u.msg.dst)
    else
      let path := if u.msg.type == 0x31 then 0 else s.pathTo (u.msg.dst.getD 0)
      done s ({ s with hier.unacked := s.hier.unacked.map (fun (x : Unacked) =>
        if x.seq == msgSeq then { x with resends := x.resends + 1, at_ := s.time.ticks } else x) }.putMsg path msgSeq u.msg)

end Sys2Proof.Machine
end

