-- ==== Sys2Proof/Machine/Telemetry.lean ====
section
/-! DEFINITION. Performance counters, histograms, precise sampling and the telemetry channel (18_counters.md). -/
namespace Sys2Proof.Machine
open Sys2Proof

/-! ### Performance counters (R698-R703) -/

/-- Table 18-2: the instances of a unit of a die. -/
def unitInstances (die unit : Nat) : List Nat :=
  match die, unit with
  | 0, 0x01 => List.range 96
  | 0, 0x02 => List.range 17
  | 0, 0x03 => List.range 17
  | 0, 0x04 => List.range 16
  | 0, 0x05 => [0]
  | 0, 0x06 => List.range 100
  | 0, 0x07 => List.range 5
  | 0, 0x08 => List.range 16
  | 1, 0x21 => List.range 3
  | 1, 0x22 => [0]
  | 1, 0x23 => [0, 1]
  | 1, 0x24 => List.range 96 ++ [127]
  | 1, 0x25 => List.range 7
  | 1, 0x26 => [0, 1]
  | _, _ => []

/-- Table 18-2: how many event codes, from 1 on, a unit has. -/
def unitEvents (unit : Nat) : Nat := if unit == 0x01 then 4 else if unit == 0x05 || unit == 0x08 || unit == 0x24 then 2 else 3

/-- R699: the selector names events of the die that Table 18-2 lists. -/
def selectorOk (die unit inst event : Nat) : Bool := (unitInstances die unit).contains inst && inRange event 1 (unitEvents unit)

/-- Events that this model counts itself; the others are the instructions and stall cycles of the engines and cores. -/
def countedEvent (unit event : Nat) : Bool :=
  if unit == 0x06 then event != 2 else if unit == 0x07 || unit == 0x26 then event == 3 else true

/-- R699: a cycle event of Table 18-2 holds in the core cycles of this tick. -/
def State.cycleHolds (s : State) (die unit inst event : Nat) : Bool :=
  match die, unit, event with
  | 0, 0x01, 4 => (s.prt inst).lpi
  | 0, 0x05, 2 => !s.tbl.port.isEmpty
  | 0, 0x07, 3 => !(s.fw.runs && s.coreInUse inst)
  | 1, 0x21, 3 =>
    let p := [(s.buf.voqCells, s.buf.voqUsed), (s.buf.reasmCells, s.buf.reasmUsed), (s.buf.egressCells, s.buf.egressUsed)].getD inst (0, 0)
    decide (9 * p.1 < 10 * p.2)
  | 1, 0x22, 3 => !s.buf.backlog.isEmpty
  | 1, 0x25, 3 => s.hbm.reqs.any (fun r => r.port == inst && r.urgency == 3)
  | 1, 0x26, 3 => s.mode.tmDead.contains inst
  | _, _, _ => false

/-- R699: the core cycles of a die in the tick that has just passed: 1.5 GHz and 1.2 GHz over 750 MHz. -/
def State.coreCycles (s : State) (die : Nat) : Nat :=
  if die == 0 then 2 else 8 * (s.time.ticks + 1) / 5 - 8 * s.time.ticks / 5

/-- R698-R700: the enabled counters of cycle events count the core cycles of a tick. -/
def State.perfCycles (s : State) : State :=
  (s.tel.perf.filter (fun e => e.2.enable && s.cycleHolds (e.1 / 256) e.2.unit e.2.inst e.2.event &&
      !(e.1 % 256 != 0 && (s.perf (e.1 / 256) (e.1 % 256 - 1)).chain))).foldl
    (fun (a : State) e => a.perfAdd (e.1 / 256) (e.1 % 256) (s.coreCycles (e.1 / 256)) 4) s

/-- The control word of a counter (Table 18-1). -/
def Perf.word (x : Perf) : Nat :=
  b2n x.enable * 2147483648 + b2n x.chain * 1073741824 + b2n x.overflow * 536870912 + x.unit * 1048576 + x.inst * 4096 + x.event

/-- R700: how many counters below `n` pass their carry on without a break, looking at `fuel` of them. -/
def State.chainBelow (s : State) (die : Nat) : Nat → Nat → Nat
  | 0, _ => 0
  | fuel + 1, n => if n == 0 || !(s.perf die (n - 1)).chain then 0 else 1 + s.chainBelow die fuel (n - 1)

/-- How many counters from `n` on pass their carry on without a break. -/
def State.chainAbove (s : State) (die : Nat) : Nat → Nat → Nat
  | 0, _ => 0
  | fuel + 1, n => if (s.perf die n).chain then 1 + s.chainAbove die fuel (n + 1) else 0

/-- PERF_COUNTER_CONFIG (R698-R700). -/
def perfCounterConfigSpec : CmdSpec :=
  { opcode := 0x1101, long := fun b => 8 ≤ b.length
    clean := fun b => rsv b 2 2 && !bit (le b 4 4) 28 && field (le b 4 4) 11 8 == 0 }

def cmdPerfCounterConfig (c : Cmd) (s : State) : Res :=
  gate perfCounterConfigSpec (fun c s =>
    let die := byteAt c.payload 0
    let n := byteAt c.payload 1
    let w := le c.payload 4 4
    let unit := field w 27 20
    let inst := field w 19 12
    let event := field w 7 0
    let chain := bit w 30
    let x := s.perf die n
    if 1 < die || !selectorOk die unit inst event || (chain && n == 255) ||
        (chain && 3 < s.chainBelow die 4 n + 1 + s.chainAbove die 4 (n + 1)) then Res.err s stBadParam
    else if x.enable then Res.err s stBusy
    else { st := s.setPerf die n { x with enable := bit w 31, chain, unit, inst, event } }) c s

def execPerfCounterConfig (c : Cmd) (s : State) : Out := serve c cmdPerfCounterConfig s

/-- R702: starts, stops or clears the counters of both masks. -/
def State.perfOp (s : State) (op fe tm : Nat) : State :=
  ((bitmapOf fe 32).map (fun n => (0, n)) ++ (bitmapOf tm 32).map (fun n => (1, n))).foldl (fun (a : State) (e : Nat × Nat) =>
    let x := a.perf e.1 e.2
    a.setPerf e.1 e.2 (if op == 2 then { x with value := 0 } else { x with enable := op == 0 })) s

/-- PERF_CONTROL (R702). -/
def perfControlSpec : CmdSpec := { opcode := 0x1102, long := fun b => 72 ≤ b.length, clean := fun b => rsv b 1 3 }

def cmdPerfControl (c : Cmd) (s : State) : Res :=
  gate perfControlSpec (fun c s =>
    let b := c.payload
    let op := byteAt b 0
    let t : T32 := BitVec.ofNat 32 (le b 4 4)
    if 2 < op || (t != 0 && !T32.validCommit s.t32 t) then Res.err s stBadParam
    else if t == 0 then { st := { s with tel.perfNext := s.tel.perfNext ++ [{ op, fe := le b 8 32, tm := le b 40 32, t }] } }
    else if s.tel.perfOp.isSome then Res.err s stBusy
    else { st := { s with tel.perfOp := some { op, fe := le b 8 32, tm := le b 40 32, t } } }) c s

def execPerfControl (c : Cmd) (s : State) : Out := serve c cmdPerfControl s

/-- R699, R702: what a tick does to the performance counters: it counts cycles, and the operations that wait for it act. -/
def State.perfTick (s : State) : State :=
  let a := s.perfCycles
  s.tel.perfNext.foldl (fun (x : State) o => x.perfOp o.op o.fe o.tm) { a with tel.perfNext := [] }

/-- PERF_CONTROL_DUE (R702, R512). -/
def execPerfControlDue (s : State) : Out :=
  if !s.aux.pllLocked then .next s
  else match s.tel.perfOp with
  | some x => if s.t32.reached x.t then done s ({ s with tel.perfOp := none }.perfOp x.op x.fe x.tm) else .next s
  | none => .next s

/-- PERF_COUNTER_READ (R703): value and control word of each counter named, FE die first. -/
def perfCounterReadSpec : CmdSpec :=
  { opcode := 0x1103, long := fun b => 68 ≤ b.length, clean := fun b => rsv b 65 3, reads := true
    size := fun b => 4 + 8 * ((bitmapOf (le b 0 32) 32).length + (bitmapOf (le b 32 32) 32).length) }

def cmdPerfCounterRead (c : Cmd) (s : State) : Res :=
  gate perfCounterReadSpec (fun c s =>
    let b := c.payload
    let l := (bitmapOf (le b 0 32) 32).map (fun n => (0, n)) ++ (bitmapOf (le b 32 32) 32).map (fun n => (1, n))
    let clear := byteAt b 64
    if 1 < clear then Res.err s stBadParam
    else
      { st := if clear == 0 then s else
          l.foldl (fun (a : State) (e : Nat × Nat) => a.setPerf e.1 e.2 { a.perf e.1 e.2 with value := 0, overflow := false }) s
        result := toLe 4 s.t32.toNat ++ l.flatMap (fun (e : Nat × Nat) => toLe 4 (s.perf e.1 e.2).value ++ toLe 4 (s.perf e.1 e.2).word) }) c s

def execPerfCounterRead (c : Cmd) (s : State) : Out := serve c cmdPerfCounterRead s

/-- PERF_OVERFLOW (R700, R701): an enabled counter that no command of this model counts, or a chain that begins with it, wraps
to 0. The counter named is the top of the chain. -/
def execPerfOverflow (die counter : Nat) (s : State) : Out :=
  if 2 ≤ die || 256 ≤ counter then .fault .noSuchUnit
  else
    let k := s.chainBelow die 4 counter
    let x := s.perf die (counter - k)
    if !s.aux.pllLocked || !x.enable || (s.perf die counter).chain || countedEvent x.unit x.event then .next s
    else
      let t := (List.range (k + 1)).foldl (fun (a : State) i =>
        a.setPerf die (counter - i) { a.perf die (counter - i) with value := 0 }) s
      done s (t.perfWrap die counter)

/-! ### Histograms (R704-R706) -/

/-- HISTOGRAM_CONFIG (R704, R705). -/
def histogramConfigSpec : CmdSpec := { opcode := 0x1104, long := fun b => 20 ≤ b.length }

/-- The source of a histogram exists: queues, a port, a controller port (Table 18-3). -/
def State.sourceExists (s : State) (source first count : Nat) : Bool :=
  match source with
  | 0 => first + count ≤ 524288
  | 1 => s.portExists first
  | 2 => first < 7
  | _ => true

def cmdHistogramConfig (c : Cmd) (s : State) : Res :=
  gate histogramConfigSpec (fun c s =>
    let b := c.payload
    let k := byteAt b 0
    let source := byteAt b 2
    let first := if source == 0 then le b 4 4 else if source == 3 then 0 else byteAt b 4
    let count := if source == 0 then le b 8 4 else 1
    let i := le b 12 4
    let start : T32 := BitVec.ofNat 32 (le b 16 4)
    if 63 < k || 1 < byteAt b 1 || 3 < source || 15 < byteAt b 3 || !inRange i 1 1000 || !T32.validCommit s.t32 start || count == 0 then
      Res.err s stBadParam
    else if !s.sourceExists source first count then Res.err s stNotFound
    else
      let x : Hist := { enable := byteAt b 1 == 1, source, shift := byteAt b 3, first, count, intervalMs := i, start }
      { st := { s with tel.hists := s.tel.hists.set k x } }) c s

def execHistogramConfig (c : Cmd) (s : State) : Out := serve c cmdHistogramConfig s

/-- HISTOGRAM_WINDOW_END (R706): the closed bank is written as a record and cleared. -/
def execHistogramWindowEnd (k : Nat) (s : State) : Out :=
  if 64 ≤ k then .fault .noSuchUnit
  else if !s.aux.pllLocked then .next s
  else if (s.tel.hists.getD k {}).ended.isNone then .next s
  else done s (s.writeHist k)

/-! ### Precise sampling (R707-R709) -/

/-- PSAMPLE_CONFIG (R707). -/
def psampleConfigSpec : CmdSpec := { opcode := 0x1105, long := fun b => 24 ≤ b.length, clean := fun b => rsv b 18 2 }

def cmdPsampleConfig (c : Cmd) (s : State) : Res :=
  gate psampleConfigSpec (fun c s =>
    let b := c.payload
    if 2 ^ 100 ≤ le b 0 16 || 32 ≤ byteAt b 16 || 4 ≤ byteAt b 17 || !inRange (le b 20 4) 1 1048576 then Res.err s stBadParam
    else { st := { s with
      tel.engines := le b 0 16, tel.feCores := byteAt b 16, tel.tmCores := byteAt b 17, tel.interval := le b 20 4, tel.ran := [] } }) c s

def execPsampleConfig (c : Cmd) (s : State) : Out := serve c cmdPsampleConfig s

/-- The unit is selected and executes instructions: kind 0 an edit engine, 1 an FE service core, 2 a TM service core. -/
def State.sampled (s : State) (kind unit : Nat) : Bool :=
  match kind with
  | 0 => bit s.tel.engines unit && !s.edit.dead.contains unit
  | 1 => bit s.tel.feCores unit && s.fw.runs && !s.mode.coresDead.contains unit
  | _ => bit s.tel.tmCores unit && !s.mode.tmDead.contains unit

/-- R707: the unit has executed N instructions since its last sample. What the service cores execute is not held: of them the command
says so. -/
def State.sampleDue (s : State) (kind unit : Nat) : Bool := kind != 0 || s.tel.interval ≤ s.tel.ran.getD unit 0

/-- PSAMPLE_RECORD (R707, R709): a selected unit has completed its N-th instruction since the last sample. -/
def execPsampleRecord (kind unit insn address stall packetId : Nat) (s : State) : Out :=
  if 3 ≤ kind || [100, 5, 2].getD kind 0 ≤ unit then .fault .noSuchUnit
  else if !s.aux.pllLocked || !s.sampled kind unit || !s.sampleDue kind unit then .next s
  else
    let t : State := if kind == 0 then { s with tel.ran := s.tel.ran.set unit (s.tel.ran.getD unit 0 - s.tel.interval) } else s
    done s (t.psample (psampleBody kind unit false 0 insn address stall packetId s.t32))

/-! ### The telemetry channel (R710-R713) -/

/-- TELEMETRY_CONFIG (R710, R711). An open block goes to the channel it was opened for. -/
def telemetryConfigSpec : CmdSpec := { opcode := 0x1106, long := fun b => 4 ≤ b.length, clean := fun b => rsv b 1 1 }

def cmdTelemetryConfig (c : Cmd) (s : State) : Res :=
  gate telemetryConfigSpec (fun c s =>
    let n := byteAt c.payload 0
    let f := le c.payload 2 2
    let x := s.chan n
    if !(n == 0 || inRange n 4 63) || !inRange f 1 1000 then Res.err s stBadParam
    else if n != 0 && (!x.configured || x.inject) then Res.err s stNotFound
    else if n != 0 && (s.chanPool n).retain then Res.err s stBadParam
    else
      let a := if n == s.tel.channel then s else s.closeBlock
      { st := { a with tel.channel := n, tel.flushUs := f }.drainRing }) c s

def execTelemetryConfig (c : Cmd) (s : State) : Out := serve c cmdTelemetryConfig s

/-- TELEMETRY_FLUSH (R711). -/
def execTelemetryFlush (s : State) : Out :=
  if !s.aux.pllLocked then .next s
  else if s.tel.blockBuf.isSome && s.ended s.tel.blockAt (us s.tel.flushUs) then done s s.closeBlock else .next s

/-- TELEMETRY_COUNTERS_GET (R745, Table 18-9). -/
def telDims : List (Nat × Nat) := [(3, 1), (3, 1), (1, 1), (1, 1), (1, 1), (1, 1), (1, 1)]

def telemetryCountersGetSpec : CmdSpec := { opcode := 0x1107, size := fun _ => snapSize telDims, reads := true }

def cmdTelemetryCountersGet (c : Cmd) (s : State) : Res :=
  gate telemetryCountersGetSpec (fun _ s => { st := s, result := s.snap 1809 telDims }) c s

def execTelemetryCountersGet (c : Cmd) (s : State) : Out := serve c cmdTelemetryCountersGet s

end Sys2Proof.Machine
end

