-- ==== Sys2Proof/Machine/Package.lean ====
section
/-! DEFINITION. Package, power and clocks (19_package_power.md): the aux block and its status block, rails, thermal
thresholds, board inputs, the root PLL, and the commands of class 0x12. -/
namespace Sys2Proof.Machine
open Sys2Proof

/-- Latches a bit of the status block (Table 19-8). -/
def State.latch (s : State) (b : Nat) : State := { s with aux.latched := s.aux.latched ||| 2 ^ b }

/-- The aux block has lost all power: its state starts again (Table 19-8). -/
def State.auxReset (s : State) : State := { s with aux := { vaux := s.aux.vaux } }

/-- R747: both dies are held in reset by a fault in Boot or Recovery; the mode code shows Boot. -/
def State.hold (s : State) : State := { s.resetDies with mode.held := true }

/-- The device is in Boot or Recovery. -/
def State.starting (s : State) : Bool := s.mode.mode == mdBoot || s.mode.mode == mdRecovery

/-! ### Power (R718-R725) -/

/-- VAUX_CHANGE (R718): vaux_ok follows VAUX; in Standby, with the main rails down, the aux block stops below 2.6 V. -/
def execVauxChange (millivolt : Nat) (s : State) : Out :=
  let a := { s with aux.vaux := millivolt }
  if millivolt < 2600 && s.mode.mode == mdStandby && !s.aux.mainGood then done s a.auxReset
  else if inRange millivolt 2700 5500 then done s { a with aux.vauxOk := true }
  else if millivolt < 2600 then done s { a with aux.vauxOk := false, aux.sysReset.masked := false }
  else done s a

/-- MAIN_POWER_LOSS (R722, R723, R726): Standby; all state outside the aux block and the flash is lost. -/
def execMainPowerLoss (s : State) : Out :=
  if s.mode.mode == mdStandby then .next s
  else
    let a := s.resetDies
    let b : State := { a with
      mode.mode := mdStandby, mode.held := false, aux.mainGood := false, aux.railsOut := false, aux.tripN := true
      aux.lastCause := 4 }
    done s (b.latch 1)

/-- R724: the rail recorded is the first to complete 20 µs outside its window, the lowest row at one 1 µs comparison. -/
def State.railSeen (s : State) (rail : Nat) : State :=
  if !s.aux.railsOut then { s with aux.rail := rail, aux.railAt := s.time.ticks, aux.mainGood := false, aux.railsOut := true }
  else if s.time.ticks / 750 == s.aux.railAt / 750 then { s with aux.rail := Nat.min rail s.aux.rail, aux.mainGood := false }
  else { s with aux.mainGood := false }

/-- RAIL_FAULT (R724, R725, R747): a main rail has been outside its window for 20 µs. -/
def execRailFault (rail : Nat) (s : State) : Out :=
  if 9 ≤ rail then .fault .noSuchUnit
  else if s.mode.mode == mdStandby then .next s
  else
    let a := (s.railSeen rail).latch 3
    done s (if s.starting then a.hold else a.quarantine 3)

/-- RAILS_BACK_IN_WINDOW (R725): every rail has been within its window for 10 ms; a die held for it starts again. -/
def execRailsBackInWindow (s : State) : Out :=
  if s.mode.mode == mdStandby || !s.aux.railsOut then .next s
  else done s { s with aux.railsOut := false, aux.mainGood := true, mode.held := s.mode.held && !s.aux.tripN }

/-- Enters Boot from Standby (Table 19-4 step 5). -/
def State.powerUp (s : State) : State := { s.resetDies with mode.held := false }

/-- MAIN_RAILS_GOOD (R720, R721): from Standby the device enters Boot once SYS_RESET_N is released too. -/
def execMainRailsGood (s : State) : Out :=
  let a := { s with aux.mainGood := true }
  done s (if s.mode.mode == mdStandby && !s.aux.sysReset.low then a.powerUp else a)

/-! ### The root PLL (R36, R499, R729, R747) -/

/-- ROOT_PLL_LOCK (R499, R729): the accumulator is 0 and the increment nominal; a die held for the PLL starts again. -/
def execRootPllLock (s : State) : Out :=
  if s.mode.mode == mdStandby || s.aux.pllLocked || s.aux.sysReset.low then .next s
  else
    let a : State := { s with aux.pllLocked := true, time.acc := 0, time.inc := 0x0155555555#40 }
    done s (if s.starting && s.aux.tripN && !s.aux.railsOut then { a with mode.held := false } else a)

/-- R729: the ROM has waited 10 ms for the lock, or 100 ms since its last retry. -/
def State.retryDue (s : State) : Bool :=
  match s.aux.pllTryAt with
  | some t => s.ended t (ms 100)
  | none => s.ended s.aux.flResetAt (ms 10)

/-- PLL_LOCK_RETRY (R729): without lock the ROM stays in Boot with pll_locked clear, and retries every 100 ms. -/
def execPllLockRetry (s : State) : Out :=
  if s.mode.mode == mdBoot && !s.aux.pllLocked && s.retryDue then
    done s { s with aux.pllLocked := false, aux.pllTryAt := some s.time.ticks }
  else .next s

/-- ROOT_PLL_LOSS (R36, R673, R747). -/
def execRootPllLoss (s : State) : Out :=
  if !s.aux.pllLocked || s.mode.mode == mdStandby then .next s
  else if s.starting then done s (s.hold.latch 2)
  else if s.mode.mode == mdQuarantine then done s s.pllSteps
  else done s s.quarantinePll

/-! ### Temperature (Table 19-5, R726) -/

/-- A sensor reports a temperature; event 0x1284 may come again once every sensor has exceeded 5 °C. -/
def State.noteTemp (s : State) (sensor : Nat) (t : Int) : State :=
  let l := s.aux.temps.set sensor t
  { s with aux.temps := l, aux.cold := s.aux.cold && !l.all (fun e => 5 < e.2) }

/-- THERMAL_ALARM (Table 19-5): the alarm sets above its threshold and clears when every sensor is 5 °C below it. -/
def execThermalAlarm (sensor : Nat) (tempC : Int) (s : State) : Out :=
  if 40 ≤ sensor then .fault .noSuchUnit
  else if s.mode.mode == mdStandby then .next s
  else
    let a := s.noteTemp sensor tempC
    let say (x : State) (k : Nat) : State := if s.inService then x.raise 0x1283 (d4 sensor ++ d4s tempC ++ d4 k) else x
    if !s.aux.alarm && (s.aux.alarmC : Int) ≤ tempC then done s (say { a with aux.alarm := true, aux.alertThermN := false } 0)
    else if s.aux.alarm && a.aux.temps.all (fun e => e.2 ≤ (s.aux.alarmC : Int) - 5) then
      done s (say { a with aux.alarm := false, aux.alertThermN := true } 1)
    else done s a

/-- THERMAL_TRIP (Table 19-5, R726, R747): 115 °C for 100 µs on any sensor. -/
def execThermalTrip (sensor : Nat) (tempC : Int) (s : State) : Out :=
  if 40 ≤ sensor then .fault .noSuchUnit
  else if s.mode.mode == mdStandby || tempC < 115 then .next s
  else
    let a := { s.noteTemp sensor tempC with aux.tripN := false }.latch 4
    done s (if s.starting then a.hold else a.quarantine 2)

/-- TEMPERATURE_LOW (Table 19-5, R727). -/
def execTemperatureLow (sensor : Nat) (tempC : Int) (s : State) : Out :=
  if 40 ≤ sensor then .fault .noSuchUnit
  else if s.mode.mode == mdStandby then .next s
  else
    let a := s.noteTemp sensor tempC
    if tempC < 0 && !s.aux.cold && s.inService then
      done s ({ a with aux.cold := true }.raise 0x1284 (d4 sensor ++ d4s tempC))
    else done s a

/-! ### Board inputs (Table 19-7, R733-R737) -/

/-- Table 19-7: counts an event of an input: the input, and whether it went past `most` events in the window. -/
def State.inputHit (s : State) (x : Input) (most window : Nat) : Input × Bool :=
  let l := x.asserts.filter (fun t => !s.ended t window)
  if most ≤ l.length then ({ x with asserts := l, masked := true }, true)
  else ({ x with asserts := l ++ [s.time.ticks] }, false)

/-- R734, Table 19-7: an input is masked: its latched bit, and event 0x1282 once. -/
def State.inputMasked (s : State) (bit_ input : Nat) : State :=
  let t := s.latch bit_
  if s.inService then t.raise 0x1282 (d4 input) else t

/-- SYS_RESET_ASSERTION (R733, R734): a debounced assertion resets both dies into Boot from every mode but Standby. -/
def execSysResetAssertion (s : State) : Out :=
  if s.aux.sysReset.masked || s.aux.sysReset.low then .next s
  else
    let r := s.inputHit s.aux.sysReset 3 (secs 10)
    if r.2 then done s ({ s with aux.sysReset := r.1 }.inputMasked 8 0)
    else
      let a := { s with aux.sysReset := { r.1 with low := true, since := s.time.ticks } }
      done s (if s.mode.mode == mdStandby then a else a.resetDies)

/-- SYS_RESET_RELEASE (R721, R733): with the rails good, a device in Standby enters Boot. -/
def execSysResetRelease (s : State) : Out :=
  let a := { s with aux.sysReset.low := false, aux.sysReset.since := s.time.ticks, aux.resetStuck := false }
  done s (if s.mode.mode == mdStandby && s.aux.mainGood then a.powerUp else a)

/-- RESET_STUCK (R733). -/
def execResetStuck (s : State) : Out :=
  if s.aux.sysReset.low && s.ended s.aux.sysReset.since (secs 1) then done s { s with aux.resetStuck := true } else .next s

/-- PERST_ASSERTION (R735, R574): resets the endpoint alone; a masked one only starts the 10 s of Table 19-7 again. -/
def execPerstAssertion (s : State) : Out :=
  if s.aux.perst.masked then .next { s with aux.perst.since := s.time.ticks }
  else
    let r := s.inputHit s.aux.perst 10 (secs 1)
    if r.2 then done s ({ s with aux.perst := r.1 }.inputMasked 7 1)
    else
      let a := { s with aux.perst := { r.1 with low := true, since := s.time.ticks } }.linkReset
      done s { a with hif.linkUp := false }

/-- PERST_UNMASK_TIMEOUT (Table 19-7): PERST_N has been deasserted for 10 s. -/
def execPerstUnmaskTimeout (s : State) : Out :=
  if s.aux.perst.masked && s.ended s.aux.perst.since (secs 10) then
    done s { s with aux.perst.masked := false, aux.perst.asserts := [], aux.perst.low := false }
  else .next s

/-- RECOVERY_STUCK (R736): RECOVERY_REQ_N has been low for more than 60 s. -/
def execRecoveryStuck (s : State) : Out := done s { s with aux.recoveryStuck := true }

/-- ALARM_INPUT_CHANGE (R737, Table 19-7): a debounced change of an alarm input: no sooner than its debounce time after the last change
or after an ALARM_INPUT_CONFIG. -/
def execAlarmInputChange (input : Nat) (level : Bool) (s : State) : Out :=
  if 4 ≤ input then .fault .noSuchUnit
  else
    let x := s.aux.alarms.getD input {}
    if x.masked || x.low == !level || !s.ended x.since (ms (s.aux.alarmCfg.getD input (false, 10)).2) then .next s
    else
      let r := s.inputHit x 10 (secs 1)
      let y : Input := if r.2 then r.1 else { r.1 with low := !level, since := s.time.ticks }
      let a := { s with aux.alarms := s.aux.alarms.set input y }
      done s (if r.2 then a.inputMasked 6 (2 + input)
        else if s.inService then a.raise 0x1281 (d4 input ++ d4 (b2n level)) else a)

/-- R718: the aux block runs from VAUX, or while main power is present from VDDIO. -/
def State.auxRuns (s : State) : Bool := s.mode.mode != mdStandby || s.aux.mainGood || 2600 ≤ s.aux.vaux

/-- AUX_HEARTBEAT (R738): aux_hb advances every 100 ms, and AUX_HB toggles every 500 ms. -/
def execAuxHeartbeat (s : State) : Out :=
  if !s.auxRuns || !s.ended s.aux.hbAt (ms 100) then .next s
  else
    let n := s.aux.hbPhase + 1
    done s { s with
      aux.hb := (s.aux.hb + 1) % 256, aux.hbAt := s.aux.hbAt + ms 100, aux.hbPhase := n % 5
      aux.hbPin := if n == 5 then !s.aux.hbPin else s.aux.hbPin }

/-- AUX_REGISTER_WRITE (R739): a write of 1 to a latched bit of register 0x00 clears it; every other write is ignored. -/
def execAuxRegisterWrite (reg : Nat) (v : BitVec 32) (s : State) : Out :=
  if reg != 0 || !s.auxRuns then .next s else done s { s with aux.latched := s.aux.latched &&& (auxLatchedMask &&& (~~~ v).toNat) }

/-! ### The commands of class 0x12 (Table 19-9) -/

/-- A sensor's temperature as last reported. -/
def State.sensor (s : State) (k : Nat) : Int := (s.aux.temps.get? k).getD (Config.sensorTemp k).toInt

/-- The lowest sensor with the highest temperature. -/
def State.hottest (s : State) : Nat :=
  (List.range 40).foldl (fun (b : Nat) k => if s.sensor b < s.sensor k then k else b) 0

/-- PKG_STATUS_GET (R739). -/
def pkgStatusGetSpec : CmdSpec := { opcode := 0x1201, size := fun _ => 66, reads := true }

def cmdPkgStatusGet (c : Cmd) (s : State) : Res :=
  gate pkgStatusGetSpec (fun _ s =>
    { st := s, result := toLe 4 s.auxStatus ++ (List.range 40).flatMap (fun k => toLeS 1 (s.sensor k)) ++ toLe 1 s.hottest ++
        zeros 3 ++ (List.range 9).flatMap (fun r => toLe 2 (Config.railMillivolts s.time.ticks r).toNat) }) c s

def execPkgStatusGet (c : Cmd) (s : State) : Out := serve c cmdPkgStatusGet s

/-- THERMAL_CONFIG (R726). -/
def thermalConfigSpec : CmdSpec := { opcode := 0x1202, long := fun b => 4 ≤ b.length, clean := fun b => rsv b 1 3 }

def cmdThermalConfig (c : Cmd) (s : State) : Res :=
  gate thermalConfigSpec (fun c s =>
    let t := byteAt c.payload 0
    if !inRange t 70 105 then Res.err s stBadParam else { st := { s with aux.alarmC := t } }) c s

def execThermalConfig (c : Cmd) (s : State) : Out := serve c cmdThermalConfig s

/-- ALARM_INPUT_CONFIG (R737): it restarts the input's debounce. -/
def alarmInputConfigSpec : CmdSpec := { opcode := 0x1203, long := fun b => 4 ≤ b.length }

def cmdAlarmInputConfig (c : Cmd) (s : State) : Res :=
  gate alarmInputConfigSpec (fun c s =>
    let k := byteAt c.payload 0
    let l := byteAt c.payload 1
    let d := le c.payload 2 2
    if 3 < k || 1 < l || !inRange d 1 1000 then Res.err s stBadParam
    else { st := { s with
      aux.alarmCfg := s.aux.alarmCfg.set k (l == 1, d)
      aux.alarms := s.aux.alarms.upd k {} (fun x => { x with since := s.time.ticks }) } }) c s

def execAlarmInputConfig (c : Cmd) (s : State) : Out := serve c cmdAlarmInputConfig s

/-- PKG_INPUT_UNMASK (R734, Table 19-7). -/
def pkgInputUnmaskSpec : CmdSpec :=
  { opcode := 0x1204, long := fun b => 4 ≤ b.length, clean := fun b => flagsIn b 0 6 && rsv b 1 3 }

def cmdPkgInputUnmask (c : Cmd) (s : State) : Res :=
  gate pkgInputUnmaskSpec (fun c s =>
    let b := byteAt c.payload 0
    let free (on : Bool) (x : Input) : Input := if on then { x with masked := false, asserts := [] } else x
    { st := { s with
        aux.sysReset := free (bit b 0) s.aux.sysReset, aux.perst := free (bit b 1) s.aux.perst
        aux.alarms := s.aux.alarms.map (fun e => (e.1, free (bit b (2 + e.1)) e.2)) } }) c s

def execPkgInputUnmask (c : Cmd) (s : State) : Out := serve c cmdPkgInputUnmask s

/-- AUX_STATUS_CLEAR (R740). -/
def auxStatusClearSpec : CmdSpec := { opcode := 0x1205, long := fun b => 4 ≤ b.length }

def cmdAuxStatusClear (c : Cmd) (s : State) : Res :=
  gate auxStatusClearSpec (fun c s =>
    let m := le c.payload 0 4
    if m ||| auxLatchedMask != auxLatchedMask then Res.err s stBadParam
    else { st := { s with aux.latched := s.aux.latched &&& (auxLatchedMask ^^^ m) } }) c s

def execAuxStatusClear (c : Cmd) (s : State) : Out := serve c cmdAuxStatusClear s

end Sys2Proof.Machine
end

