-- ==== Sys2Proof/Machine/Registers.lean ====
section
/-! DEFINITION. Reads and writes of BAR0 by offset (Table 14-1 of 14_host_interface.md), and reads over the aux target (R739 of
19_package_power.md). A read changes nothing, so the table of commands has no row for one. -/
namespace Sys2Proof.Machine
open Sys2Proof

/-! ### Reads -/

/-- HIF_ID. -/
def State.hifId (s : State) : Nat := 0x9640 * 65536 + s.hif.revisionId * 256 + b2n s.sec.gradeS

/-- Table 14-4: the value of a ring base register. -/
def Ring.value (r : Ring) : Nat := r.addr + 16 * b2n r.enable + r.sizeCode % 16

/-- HIF_SNOWDROP (Table 14-6). -/
def State.snowReg (s : State) : Nat := s.hif.snowResult * 256 + 4 * b2n s.hif.imageReady + 2 * b2n s.windowOpen

/-- MSI-X pending bits. -/
def State.pendingBits (s : State) : Nat := toBitmap ((List.range 64).filter (fun v => (s.vec v).pendingBit))

/-- R536: the registers of Table 14-1 that answer reads, each at its offset as a dword or a pair of dwords. -/
def State.barRegs (s : State) : List (Nat × Nat) :=
  let pair (o v : Nat) : List (Nat × Nat) := [(o, v % 4294967296), (o + 4, v / 4294967296)]
  [(0, s.hifId), (8, s.modeStatus), (0x10, s.health), (0x18, s.hif.heartbeat), (0x20, s.auxStatus)] ++
    pair 0x40 s.hif.cmdRing.value ++ pair 0x48 s.hif.evtRing.value ++
    [(0x50, s.hif.cmdRing.dev), (0x58, s.hif.evtRing.host * 65536 + s.hif.evtRing.dev), (0x100, s.snowReg)] ++
    pair 0x21000 s.pendingBits

/-- R536: what a 32-bit read of BAR0 returns while the link is up; zero at an offset that Table 14-1 does not list, and in the
Snowdrop window outside Recovery. -/
def State.readBar (s : State) (offset : Nat) : Nat :=
  if offset % 4 != 0 then 0
  else if (0x10000 ≤ offset && offset < 0x20000 && s.mode.mode == mdRecovery) || (0x20000 ≤ offset && offset < 0x20400) then
    le ((List.range 4).map (fun i => barRead s.hif.bar (offset + i))) 0 4
  else ((s.barRegs.find? (fun e => e.1 == offset)).map Prod.snd).getD 0

/-- R739: the byte that the aux target returns for a register: the status block, then the die identifiers. -/
def State.auxByte (s : State) (reg : Nat) : Byte :=
  if reg < 4 then (toLe 4 s.auxStatus).getD reg 0
  else if reg < 0x14 then (padTo 8 Config.dieFe ++ padTo 8 Config.dieTm).getD (reg - 4) 0
  else 0

/-! ### Writes -/

/-- The bits of a byte that a write of the Snowdrop window or the MSI-X table stores (Table 14-1): of a vector control word
bit 0 alone. -/
def barWritable (a : Nat) (v : Byte) : Byte :=
  if a < 0x20000 || a % 16 < 12 then v else if a % 16 == 12 then v &&& 1 else 0

/-- Stores bytes there from an offset on. -/
def barWrites (m : List Host.Cell) (a : Nat) : Bytes → List Host.Cell
  | [] => m
  | b :: r => barWrites (barWrite m a (barWritable a b)) (a + 1) r

/-- R559: a vector that is unmasked with its pending bit set sends its message. -/
def State.vecUnmasked (s : State) (v : Nat) : State :=
  if (s.vec v).pendingBit && !s.vecMasked v then
    { s.setVec v { s.vec v with pendingBit := false } with hif.msix := s.hif.msix ++ [v] }.bump 1418 4 v
  else s

/-- A write to HIF_DOORBELL (Table 14-5). A doorbell of kind 2 written here brings no descriptor:
CHANNEL_PRODUCER_INDEX carries those that host software posted. -/
def State.writeDoorbell (s : State) (v : Nat) : State :=
  match field v 31 30 with
  | 0 => s.doorbellCmd (field v 29 24) (field v 23 16) (field v 15 0)
  | 1 => s.doorbellEvt (field v 29 24) (field v 23 16) (field v 15 0)
  | 2 => s.doorbellChan (field v 29 24) (field v 23 16) (field v 15 0) []
  | _ => s.doorbellIgnored

/-- The write a 32-bit or 64-bit access makes to a 64-bit register at its own offset. -/
def regWrite (v : BitVec 64) (wide : Bool) : RegWrite := if wide then .full v else .lower (v.setWidth 32)

/-- R536, R537: a write by offset. A 64-bit access to a 32-bit register writes it with its lower dword; an offset that
Table 14-1 does not list, a read-only register and an unaligned access take nothing. -/
def State.writeBar (s : State) (offset : Nat) (v : BitVec 64) (wide : Bool) : State :=
  if offset % (if wide then 8 else 4) != 0 then s
  else if offset == 0x10 then s.writeHealth (v.toNat % 4294967296)
  else if offset == 0x40 then s.writeCmdBase (regWrite v wide)
  else if offset == 0x44 then s.writeCmdBase (.upper (v.setWidth 32))
  else if offset == 0x48 then s.writeEvtBase (regWrite v wide)
  else if offset == 0x4C then s.writeEvtBase (.upper (v.setWidth 32))
  else if offset == 0x80 then s.writeDoorbell (v.toNat % 4294967296)
  else if offset == 0x100 then s.writeSnowdrop (v.getLsbD 2)
  else if 0x10000 ≤ offset && offset < 0x20000 then
    if s.mode.mode == mdRecovery then
      { s with hif.bar := barWrites s.hif.bar offset (toLe (if wide then 8 else 4) v.toNat) }
    else s
  else if 0x20000 ≤ offset && offset < 0x20400 then
    { s with hif.bar := barWrites s.hif.bar offset (toLe (if wide then 8 else 4) v.toNat) }.vecUnmasked
      ((offset - 0x20000) / 16)
  else s

/-- REGISTER_WRITE (R536). -/
def execRegisterWrite (offset : Nat) (v : BitVec 64) (wide : Bool) (s : State) : Out :=
  if s.hif.linkUp then done s (s.writeBar offset v wide) else .next s

end Sys2Proof.Machine
end

