-- ==== Sys2Proof/Machine/Fetch.lean ====
section
/-! DEFINITION. The fetch of mailbox commands (14_host_interface.md), and the commands a manager relays and distributes
(15_device_hierarchy.md). -/
namespace Sys2Proof.Machine
open Sys2Proof

/-- What executing a mailbox command gives. -/
abbrev CmdFn := Cmd → State → Res

/-- The commands of class 0x00 by opcode. -/
def ops00 : Nat → Option CmdFn
  | 0x0001 => some cmdNop
  | 0x0002 => some cmdDeviceInfoGet
  | 0x0003 => some cmdEventMaskSet
  | 0x0004 => some cmdEventMaskGet
  | 0x0005 => some cmdEcho
  | _ => none

/-- The commands of class 0x01 by opcode. -/
def ops01 : Nat → Option CmdFn
  | 0x0101 => some cmdPortGroupSetMode
  | 0x0102 => some cmdPortConfig
  | 0x0103 => some cmdPortAdmin
  | 0x0104 => some cmdPortStatusGet
  | 0x0105 => some cmdPortCountersGet
  | 0x0106 => some cmdModuleRead
  | 0x0107 => some cmdModuleWrite
  | 0x0108 => some cmdModuleIntUnmask
  | 0x0109 => some cmdLedgerRead
  | 0x010A => some cmdLedgerSetRating
  | 0x010B => some cmdPortRateRestore
  | 0x010C => some cmdModuleMapSet
  | _ => none

/-- The commands of class 0x02 by opcode. -/
def ops02 : Nat → Option CmdFn
  | 0x0201 => some cmdSecyConfig
  | 0x0202 => some cmdScSet
  | 0x0203 => some cmdScClear
  | 0x0204 => some cmdSaInstall
  | 0x0205 => some cmdSaEnableRx
  | 0x0206 => some cmdSaTxSwitch
  | 0x0207 => some cmdSaDelete
  | 0x0208 => some cmdSaStatusGet
  | 0x0209 => some cmdSecyCountersGet
  | _ => none

/-- The commands of class 0x03 by opcode. -/
def ops03 : Nat → Option CmdFn
  | 0x0301 => some cmdParsePolicySet
  | 0x0302 => some cmdParsePolicyGet
  | 0x0303 => some cmdSlowpathClassSet
  | 0x0304 => some cmdHashProfileSet
  | 0x0305 => some cmdLbMemberAdd
  | 0x0306 => some cmdLbMemberRemove
  | 0x0307 => some cmdLbSlotsSet
  | 0x0308 => some cmdLbSlotsGet
  | 0x0309 => some cmdParseCountersGet
  | 0x030A => some cmdParseTest
  | _ => none

/-- The commands of class 0x04 by opcode. -/
def ops04 : Nat → Option CmdFn
  | 0x0401 => some cmdRouteAdd
  | 0x0402 => some cmdRouteDelete
  | 0x0403 => some cmdRouteGet
  | 0x0404 => some cmdLengthReserve
  | 0x0405 => some cmdNexthopSet
  | 0x0406 => some cmdEcmpCreate
  | 0x0407 => some cmdLabelSet
  | 0x0408 => some cmdEmInsert
  | 0x0409 => some cmdEmDelete
  | 0x040A => some cmdEmTableConfig
  | 0x040B => some cmdInterfaceSet
  | 0x040C => some cmdRouterMacSet
  | 0x040D => some cmdObjRetire
  | 0x040E => some cmdObjCountersGet
  | 0x040F => some cmdTableRepairDone
  | 0x0410 => some cmdTableSplitSet
  | 0x0411 => some cmdLookupConfig
  | 0x0412 => some cmdTableStatusGet
  | 0x0413 => some cmdEcmpCountSet
  | _ => none

/-- The commands of class 0x05 by opcode. -/
def ops05 : Nat → Option CmdFn
  | 0x0501 => some cmdTcamChainConfig
  | 0x0502 => some cmdTcamChainExtend
  | 0x0503 => some cmdKeyProfileSet
  | 0x0504 => some cmdSearchProfileSet
  | 0x0505 => some cmdSearchProfileMap
  | 0x0506 => some cmdTcamEntryInsert
  | 0x0507 => some cmdTcamEntryModify
  | 0x0508 => some cmdTcamEntryDelete
  | 0x0509 => some cmdTcamSearch
  | 0x050A => some cmdTcamSearchContinue
  | 0x050B => some cmdTcamCompact
  | 0x050C => some cmdTcamEntryRead
  | 0x050D => some cmdTcamStatusGet
  | _ => none

/-- The commands of class 0x06 by opcode. -/
def ops06 : Nat → Option CmdFn
  | 0x0601 => some cmdBufferPartitionSet
  | 0x0602 => some cmdAdmissionProfileSet
  | 0x0603 => some cmdWredProfileSet
  | 0x0604 => some cmdQueueConfig
  | 0x0605 => some cmdQueueFlush
  | 0x0606 => some cmdQueueStatusGet
  | 0x0607 => some cmdBufferStatusGet
  | 0x0608 => some cmdBufferGlobalSet
  | _ => none

/-- The commands of class 0x07 by opcode. -/
def ops07 : Nat → Option CmdFn
  | 0x0701 => some cmdSchedNodeSet
  | 0x0702 => some cmdSchedNodeGet
  | 0x0703 => some cmdLengthProfileSet
  | 0x0704 => some cmdSiteMapSet
  | 0x0705 => some cmdDispatchProfileSet
  | 0x0706 => some cmdQosMapSet
  | 0x0707 => some cmdQosPortSet
  | 0x0708 => some cmdPolicerProfileSet
  | 0x0709 => some cmdPolicerSet
  | 0x070A => some cmdPolicerStatusGet
  | 0x070B => some cmdSampleSetConfig
  | 0x070C => some cmdSchedCountersGet
  | _ => none

/-- The commands of class 0x08 by opcode. -/
def ops08 : Nat → Option CmdFn
  | 0x0801 => some cmdPoolCarveSet
  | 0x0802 => some cmdChannelPoolSet
  | 0x0803 => some cmdBufShare
  | 0x0804 => some cmdBufRelease
  | 0x0805 => some cmdBufInfo
  | 0x0806 => some cmdBufCellShareSet
  | 0x0807 => some cmdPoolStatusGet
  | _ => none

/-- The commands of class 0x09 by opcode. -/
def ops09 : Nat → Option CmdFn
  | 0x0901 => some cmdFabricConfig
  | 0x0902 => some cmdFabricPeerSet
  | 0x0903 => some cmdProtectClassSet
  | 0x0904 => some cmdCreditProfileSet
  | 0x0905 => some cmdPlaneAdmin
  | 0x0906 => some cmdPlaneRestore
  | 0x0907 => some cmdFabricLaneAdmin
  | 0x0908 => some cmdFabricStatusGet
  | 0x0909 => some cmdFabricCountersGet
  | _ => none

/-- The commands of class 0x0A by opcode. -/
def ops0A : Nat → Option CmdFn
  | 0x0A01 => some cmdEditProgramSet
  | 0x0A02 => some cmdEncapSet
  | 0x0A03 => some cmdMcastGroupSet
  | 0x0A04 => some cmdMcastGroupGet
  | 0x0A05 => some cmdEditPortSet
  | 0x0A06 => some cmdMcastConfig
  | 0x0A07 => some cmdEditTest
  | 0x0A08 => some cmdEditCountersGet
  | _ => none

/-- The commands of class 0x0B by opcode. -/
def ops0B : Nat → Option CmdFn
  | 0x0B01 => some cmdHbmConfig
  | 0x0B02 => some cmdHbmStatusGet
  | 0x0B03 => some cmdHbmRetrain
  | 0x0B04 => some cmdHbmPcRetire
  | 0x0B05 => some cmdHbmPcRestore
  | 0x0B06 => some cmdHbmCountersGet
  | _ => none

/-- The commands of class 0x0C by opcode. -/
def ops0C : Nat → Option CmdFn
  | 0x0C01 => some cmdTimeGet
  | 0x0C02 => some cmdTimeIncrementSet
  | 0x0C03 => some cmdTimeStep
  | 0x0C04 => some cmdTimeSet
  | 0x0C05 => some cmdTimeConfig
  | 0x0C06 => some cmdTsPortSet
  | 0x0C07 => some cmdPpsConfig
  | 0x0C08 => some cmdTimeCountersGet
  | _ => none

/-- The commands of class 0x0D by opcode. -/
def ops0D : Nat → Option CmdFn
  | 0x0D01 => some cmdDmaChannelSet
  | 0x0D02 => some cmdDmaChannelEnable
  | 0x0D03 => some cmdDmaChannelStatusGet
  | 0x0D04 => some cmdMsixModerationSet
  | 0x0D05 => some cmdHifCountersGet
  | _ => none

/-- The commands of class 0x0E by opcode. -/
def ops0E : Nat → Option CmdFn
  | 0x0E01 => some cmdHierarchyConfig
  | 0x0E02 => some cmdHierStatusGet
  | 0x0E03 => some cmdHierDeputySet
  | 0x0E04 => some cmdHierModeChange
  | 0x0E06 => some cmdHierMemberRemove
  | 0x0E07 => some cmdHierCountersGet
  | 0x0E08 => some cmdHierClaim
  | _ => none

/-- The commands of class 0x0F by opcode. -/
def ops0F : Nat → Option CmdFn
  | 0x0F01 => some cmdFwDownload
  | 0x0F02 => some cmdFwVerify
  | 0x0F03 => some cmdFwActivate
  | 0x0F04 => some cmdFwConfirm
  | 0x0F05 => some cmdFwRevert
  | 0x0F06 => some cmdFwStatusGet
  | 0x0F07 => some cmdFwUpdateConfig
  | 0x0F08 => some cmdFwSvnCommit
  | 0x0F09 => some cmdAttestKeyGet
  | 0x0F0A => some cmdAttestQuote
  | 0x0F0B => some cmdFwSnowdropPush
  | _ => none

/-- The commands of class 0x10 by opcode. -/
def ops10 : Nat → Option CmdFn
  | 0x1001 => some cmdModeSet
  | 0x1002 => some cmdModeStatusGet
  | 0x1003 => some cmdRepairStatusGet
  | 0x1004 => some cmdRepairMapRead
  | 0x1005 => some cmdDeviceReset
  | 0x1006 => some cmdFeRestart
  | 0x1007 => some cmdRepairConfig
  | _ => none

/-- The commands of class 0x11 by opcode. -/
def ops11 : Nat → Option CmdFn
  | 0x1101 => some cmdPerfCounterConfig
  | 0x1102 => some cmdPerfControl
  | 0x1103 => some cmdPerfCounterRead
  | 0x1104 => some cmdHistogramConfig
  | 0x1105 => some cmdPsampleConfig
  | 0x1106 => some cmdTelemetryConfig
  | 0x1107 => some cmdTelemetryCountersGet
  | _ => none

/-- The commands of class 0x12 by opcode. -/
def ops12 : Nat → Option CmdFn
  | 0x1201 => some cmdPkgStatusGet
  | 0x1202 => some cmdThermalConfig
  | 0x1203 => some cmdAlarmInputConfig
  | 0x1204 => some cmdPkgInputUnmask
  | 0x1205 => some cmdAuxStatusClear
  | _ => none

/-- The mailbox commands by opcode, HIER_DISTRIBUTE apart; none for an opcode that is undefined or of no class (R546). -/
def opsBelow (op : Nat) : Option CmdFn :=
  match op / 256 with
  | 0x00 => ops00 op
  | 0x01 => ops01 op
  | 0x02 => ops02 op
  | 0x03 => ops03 op
  | 0x04 => ops04 op
  | 0x05 => ops05 op
  | 0x06 => ops06 op
  | 0x07 => ops07 op
  | 0x08 => ops08 op
  | 0x09 => ops09 op
  | 0x0A => ops0A op
  | 0x0B => ops0B op
  | 0x0C => ops0C op
  | 0x0D => ops0D op
  | 0x0E => ops0E op
  | 0x0F => ops0F op
  | 0x10 => ops10 op
  | 0x11 => ops11 op
  | 0x12 => ops12 op
  | _ => none

/-- Executes a command by its opcode: BAD_OPCODE for one that is undefined (R546). -/
def runOp (f : Nat → Option CmdFn) (e : CmdEntry) (s : State) : Res :=
  match f e.opcode with
  | some x => x e.cmd s
  | none => Res.err s stBadOpcode

/-- The command that a HIER_DISTRIBUTE carries: its header and as much payload as it names (R605). -/
def carried (b : Bytes) : CmdEntry :=
  { opcode := le b 32 2
    cmd := { seq := le b 34 2, target := byteAt b 36, flags := byteAt b 37, capacity := le b 44 4
             payload := slice b 64 (le b 40 4) } }

/-! ### The table write port (R22, R24, R194-R197) -/

/-- A command that waited in the table write port has had its turn. -/
def State.portDone (s : State) (id : Nat) (r : Res) : State :=
  match r.async with
  | some k => { s with hif.openCmds := s.hif.openCmds.map (fun o => if o.kind == .batch id then { o with kind := k } else o) }
  | none => (s.hif.openCmds.filter (fun o => o.kind == .batch id)).foldl
      (fun (a : State) o => a.finishOpen o r.status r.result r.applied r.failIndex r.detail) s

/-- The table write port applies one entry of the work in hand. -/
def State.portEntry (s : State) : State :=
  match s.tbl.port with
  | [] => s
  | w :: l =>
    match w.entry with
    | some e =>
      let r := runOp opsBelow e { s with tbl.port := [] }
      { r.st with tbl.port := r.st.tbl.port ++ l }.portDone w.id r
    | none =>
      let x := { s with tbl.port := l }.portOp w
      match x.1 with
      | .more v => { x.2 with tbl.port := v :: x.2.tbl.port }
      | .ended st n f => x.2.portFinish w.id st n f

/-- R197: due timed batches go first; then one entry is applied. The port works on while firmware is halted (Table 01-5). -/
def State.portStep (s : State) : State :=
  if s.tbl.port.isEmpty && s.tbl.batches.isEmpty then s
  else
    let t := s.portDue
    if t.tbl.port.isEmpty then t else t.portEntry

/-- TIMED_BATCH_COMMIT (R197, R512): the batches whose commit time T32 has reached go ahead of all other work, and the port
applies the first entry; the others follow one to a tick. -/
def execTimedBatchCommit (s : State) : Out :=
  if !s.aux.pllLocked || !s.tbl.batches.any (fun b => s.t32.reached b.t) then .next s else done s s.portStep

/-- HIER_DISTRIBUTE (R605, R606). The reserved bits of the header it carries are reserved bits of its payload. -/
def hierDistributeSpec : CmdSpec :=
  { opcode := 0x0E05, long := fun b => 64 ≤ b.length && 64 + le b 40 4 ≤ b.length
    clean := fun b => byteAt b 37 < 4 && rsv b 39 1, size := fun _ => 256
    mode := fun _ s => if s.isManager then 0 else stWrongMode }

/-- The relayed parts of a HIER_DISTRIBUTE. -/
def State.distribute (s : State) (id : Nat) (e : CmdEntry) (l : List Nat) : State :=
  l.foldl (fun (a : State) f => a.relayTo e.opcode { e.cmd with target := f } (some id)) s

/-- The distribution is open and sent: relayed to the other members, and executed here where this device is one of them. -/
def State.startDist (s : State) (bits : Nat) (e : CmdEntry) : State :=
  let l := bitmapOf bits 32
  let own := s.fab.fdi
  let id := s.hier.relaySeq
  let new : Dist := { id, members := bits, statuses := [] }
  let a := { s with hier.dists := s.hier.dists ++ [new] }.distribute id e (l.filter (fun f => f != own))
  let mine : Cmd := { e.cmd with target := own, relay := some (own, id) }
  if !l.contains own then a
  else
    let r := runOp opsBelow { e with cmd := mine } a
    match r.async with
    | some k => { r.st with hif.openCmds := r.st.hif.openCmds ++ [{ cmd := mine, kind := k, at_ := r.st.t32 }] }
    | none => r.st.distNote id own r.status

/-- The distribution whose answers are complete. -/
def State.distOver (s : State) (id : Nat) : Option Dist := s.hier.dists.find? (fun d => d.id == id && d.complete)

def cmdHierDistribute (c : Cmd) (s : State) : Res :=
  gate hierDistributeSpec (fun c s =>
    let bits := le c.payload 0 32
    let l := bitmapOf bits 32
    let e := carried c.payload
    let id := s.hier.relaySeq
    if !([3, 4, 5, 6, 7, 0xA].contains (e.opcode / 256)) || l.any (fun f => !s.hier.table.contains f) then
      Res.err s stBadParam
    else
      let b := s.startDist bits e
      match b.distOver id with
      | some d =>
        { st := { b with hier.dists := b.hier.dists.filter (fun (x : Dist) => x.id != id) }
          keep := true, status := d.answer.1, result := d.answer.2, applied := d.oks }
      | none => { st := b, async := some (.distribute id) }) c s

def execHierDistribute (c : Cmd) (s : State) : Out := serve c cmdHierDistribute s

/-- Every mailbox command by opcode. -/
def opTable (op : Nat) : Option CmdFn := if op == 0x0E05 then some cmdHierDistribute else opsBelow op

/-- Firmware may fetch: it serves commands, the ring is enabled and holds an entry, and nothing has stopped fetching
(R542, R550, R574). -/
def State.canFetch (s : State) : Bool :=
  s.serving && s.hif.linkUp && s.hif.cmdRing.enable && !s.hif.fetchStopped && !s.hif.dmaHeld &&
    s.hif.cmdRing.dev != s.hif.cmdRing.host

/-- COMMAND_FETCH (R542, R543, R546): the entry at the fetch index, read from host memory, starts. One that R543 holds back
stays in the ring. -/
def execCommandFetch (e : CmdEntry) (s : State) : Out :=
  let c : Cmd := { e.cmd with relay := none }
  if !s.canFetch || s.blocked c then .next s
  else
    let t := { s with hif.cmdRing.dev := (s.hif.cmdRing.dev + 1) % 65536 }
    done s ((runOp opTable { e with cmd := c } t).finish c)

/-- RELAY_COMMAND (R603): segments are put together; the command starts when the last has arrived. -/
def execRelayCommand (path : Path) (h : CoordHdr) (relayId offset total : Nat) (entry : CmdEntry) (data : Bytes)
    (s : State) : Out :=
  s.receiveMsg path 0x09 h (fun s =>
    if !s.isWorker || s.hier.manager != some h.src then s
    else
      let x := (s.hier.relayRx.get? relayId).getD { entry, total, data := [] }
      let d := x.data ++ data
      if offset != x.data.length then s
      else if d.length < total then { s with hier.relayRx := s.hier.relayRx.set relayId { x with data := d } }
      else
        let c : Cmd := { entry.cmd with payload := d.take total, relay := some (h.src, relayId) }
        (runOp opTable { entry with cmd := c } { s with hier.relayRx := s.hier.relayRx.del relayId }).finish c)

end Sys2Proof.Machine
end

