-- ==== Sys2Proof/Machine/Dispatch.lean ====
section
/-! DEFINITION. The meaning of each command, one arm for each constructor. -/
namespace Sys2Proof.Machine
open Sys2Proof

def exec (i : Instr) (s : State) : Host.Outcome State Fault Refusal :=
  match i with
  | .nop c => Sys2Proof.Machine.execNop c s
  | .deviceInfoGet c => Sys2Proof.Machine.execDeviceInfoGet c s
  | .eventMaskSet c => Sys2Proof.Machine.execEventMaskSet c s
  | .eventMaskGet c => Sys2Proof.Machine.execEventMaskGet c s
  | .echo c => Sys2Proof.Machine.execEcho c s
  | .portGroupSetMode c => Sys2Proof.Machine.execPortGroupSetMode c s
  | .portConfig c => Sys2Proof.Machine.execPortConfig c s
  | .portAdmin c => Sys2Proof.Machine.execPortAdmin c s
  | .portStatusGet c => Sys2Proof.Machine.execPortStatusGet c s
  | .portCountersGet c => Sys2Proof.Machine.execPortCountersGet c s
  | .moduleRead c => Sys2Proof.Machine.execModuleRead c s
  | .moduleWrite c => Sys2Proof.Machine.execModuleWrite c s
  | .moduleIntUnmask c => Sys2Proof.Machine.execModuleIntUnmask c s
  | .ledgerRead c => Sys2Proof.Machine.execLedgerRead c s
  | .ledgerSetRating c => Sys2Proof.Machine.execLedgerSetRating c s
  | .portRateRestore c => Sys2Proof.Machine.execPortRateRestore c s
  | .moduleMapSet c => Sys2Proof.Machine.execModuleMapSet c s
  | .secyConfig c => Sys2Proof.Machine.execSecyConfig c s
  | .scSet c => Sys2Proof.Machine.execScSet c s
  | .scClear c => Sys2Proof.Machine.execScClear c s
  | .saInstall c => Sys2Proof.Machine.execSaInstall c s
  | .saEnableRx c => Sys2Proof.Machine.execSaEnableRx c s
  | .saTxSwitch c => Sys2Proof.Machine.execSaTxSwitch c s
  | .saDelete c => Sys2Proof.Machine.execSaDelete c s
  | .saStatusGet c => Sys2Proof.Machine.execSaStatusGet c s
  | .secyCountersGet c => Sys2Proof.Machine.execSecyCountersGet c s
  | .parsePolicySet c => Sys2Proof.Machine.execParsePolicySet c s
  | .parsePolicyGet c => Sys2Proof.Machine.execParsePolicyGet c s
  | .slowpathClassSet c => Sys2Proof.Machine.execSlowpathClassSet c s
  | .hashProfileSet c => Sys2Proof.Machine.execHashProfileSet c s
  | .lbMemberAdd c => Sys2Proof.Machine.execLbMemberAdd c s
  | .lbMemberRemove c => Sys2Proof.Machine.execLbMemberRemove c s
  | .lbSlotsSet c => Sys2Proof.Machine.execLbSlotsSet c s
  | .lbSlotsGet c => Sys2Proof.Machine.execLbSlotsGet c s
  | .parseCountersGet c => Sys2Proof.Machine.execParseCountersGet c s
  | .parseTest c => Sys2Proof.Machine.execParseTest c s
  | .routeAdd c => Sys2Proof.Machine.execRouteAdd c s
  | .routeDelete c => Sys2Proof.Machine.execRouteDelete c s
  | .routeGet c => Sys2Proof.Machine.execRouteGet c s
  | .lengthReserve c => Sys2Proof.Machine.execLengthReserve c s
  | .nexthopSet c => Sys2Proof.Machine.execNexthopSet c s
  | .ecmpCreate c => Sys2Proof.Machine.execEcmpCreate c s
  | .labelSet c => Sys2Proof.Machine.execLabelSet c s
  | .emInsert c => Sys2Proof.Machine.execEmInsert c s
  | .emDelete c => Sys2Proof.Machine.execEmDelete c s
  | .emTableConfig c => Sys2Proof.Machine.execEmTableConfig c s
  | .interfaceSet c => Sys2Proof.Machine.execInterfaceSet c s
  | .routerMacSet c => Sys2Proof.Machine.execRouterMacSet c s
  | .objRetire c => Sys2Proof.Machine.execObjRetire c s
  | .objCountersGet c => Sys2Proof.Machine.execObjCountersGet c s
  | .tableRepairDone c => Sys2Proof.Machine.execTableRepairDone c s
  | .tableSplitSet c => Sys2Proof.Machine.execTableSplitSet c s
  | .lookupConfig c => Sys2Proof.Machine.execLookupConfig c s
  | .tableStatusGet c => Sys2Proof.Machine.execTableStatusGet c s
  | .ecmpCountSet c => Sys2Proof.Machine.execEcmpCountSet c s
  | .tcamChainConfig c => Sys2Proof.Machine.execTcamChainConfig c s
  | .tcamChainExtend c => Sys2Proof.Machine.execTcamChainExtend c s
  | .keyProfileSet c => Sys2Proof.Machine.execKeyProfileSet c s
  | .searchProfileSet c => Sys2Proof.Machine.execSearchProfileSet c s
  | .searchProfileMap c => Sys2Proof.Machine.execSearchProfileMap c s
  | .tcamEntryInsert c => Sys2Proof.Machine.execTcamEntryInsert c s
  | .tcamEntryModify c => Sys2Proof.Machine.execTcamEntryModify c s
  | .tcamEntryDelete c => Sys2Proof.Machine.execTcamEntryDelete c s
  | .tcamSearch c => Sys2Proof.Machine.execTcamSearch c s
  | .tcamSearchContinue c => Sys2Proof.Machine.execTcamSearchContinue c s
  | .tcamCompact c => Sys2Proof.Machine.execTcamCompact c s
  | .tcamEntryRead c => Sys2Proof.Machine.execTcamEntryRead c s
  | .tcamStatusGet c => Sys2Proof.Machine.execTcamStatusGet c s
  | .bufferPartitionSet c => Sys2Proof.Machine.execBufferPartitionSet c s
  | .admissionProfileSet c => Sys2Proof.Machine.execAdmissionProfileSet c s
  | .wredProfileSet c => Sys2Proof.Machine.execWredProfileSet c s
  | .queueConfig c => Sys2Proof.Machine.execQueueConfig c s
  | .queueFlush c => Sys2Proof.Machine.execQueueFlush c s
  | .queueStatusGet c => Sys2Proof.Machine.execQueueStatusGet c s
  | .bufferStatusGet c => Sys2Proof.Machine.execBufferStatusGet c s
  | .bufferGlobalSet c => Sys2Proof.Machine.execBufferGlobalSet c s
  | .schedNodeSet c => Sys2Proof.Machine.execSchedNodeSet c s
  | .schedNodeGet c => Sys2Proof.Machine.execSchedNodeGet c s
  | .lengthProfileSet c => Sys2Proof.Machine.execLengthProfileSet c s
  | .siteMapSet c => Sys2Proof.Machine.execSiteMapSet c s
  | .dispatchProfileSet c => Sys2Proof.Machine.execDispatchProfileSet c s
  | .qosMapSet c => Sys2Proof.Machine.execQosMapSet c s
  | .qosPortSet c => Sys2Proof.Machine.execQosPortSet c s
  | .policerProfileSet c => Sys2Proof.Machine.execPolicerProfileSet c s
  | .policerSet c => Sys2Proof.Machine.execPolicerSet c s
  | .policerStatusGet c => Sys2Proof.Machine.execPolicerStatusGet c s
  | .sampleSetConfig c => Sys2Proof.Machine.execSampleSetConfig c s
  | .schedCountersGet c => Sys2Proof.Machine.execSchedCountersGet c s
  | .poolCarveSet c => Sys2Proof.Machine.execPoolCarveSet c s
  | .channelPoolSet c => Sys2Proof.Machine.execChannelPoolSet c s
  | .bufShare c => Sys2Proof.Machine.execBufShare c s
  | .bufRelease c => Sys2Proof.Machine.execBufRelease c s
  | .bufInfo c => Sys2Proof.Machine.execBufInfo c s
  | .bufCellShareSet c => Sys2Proof.Machine.execBufCellShareSet c s
  | .poolStatusGet c => Sys2Proof.Machine.execPoolStatusGet c s
  | .fabricConfig c => Sys2Proof.Machine.execFabricConfig c s
  | .fabricPeerSet c => Sys2Proof.Machine.execFabricPeerSet c s
  | .protectClassSet c => Sys2Proof.Machine.execProtectClassSet c s
  | .creditProfileSet c => Sys2Proof.Machine.execCreditProfileSet c s
  | .planeAdmin c => Sys2Proof.Machine.execPlaneAdmin c s
  | .planeRestore c => Sys2Proof.Machine.execPlaneRestore c s
  | .fabricLaneAdmin c => Sys2Proof.Machine.execFabricLaneAdmin c s
  | .fabricStatusGet c => Sys2Proof.Machine.execFabricStatusGet c s
  | .fabricCountersGet c => Sys2Proof.Machine.execFabricCountersGet c s
  | .editProgramSet c => Sys2Proof.Machine.execEditProgramSet c s
  | .encapSet c => Sys2Proof.Machine.execEncapSet c s
  | .mcastGroupSet c => Sys2Proof.Machine.execMcastGroupSet c s
  | .mcastGroupGet c => Sys2Proof.Machine.execMcastGroupGet c s
  | .editPortSet c => Sys2Proof.Machine.execEditPortSet c s
  | .mcastConfig c => Sys2Proof.Machine.execMcastConfig c s
  | .editTest c => Sys2Proof.Machine.execEditTest c s
  | .editCountersGet c => Sys2Proof.Machine.execEditCountersGet c s
  | .hbmConfig c => Sys2Proof.Machine.execHbmConfig c s
  | .hbmStatusGet c => Sys2Proof.Machine.execHbmStatusGet c s
  | .hbmRetrain c => Sys2Proof.Machine.execHbmRetrain c s
  | .hbmPcRetire c => Sys2Proof.Machine.execHbmPcRetire c s
  | .hbmPcRestore c => Sys2Proof.Machine.execHbmPcRestore c s
  | .hbmCountersGet c => Sys2Proof.Machine.execHbmCountersGet c s
  | .timeGet c => Sys2Proof.Machine.execTimeGet c s
  | .timeIncrementSet c => Sys2Proof.Machine.execTimeIncrementSet c s
  | .timeStep c => Sys2Proof.Machine.execTimeStep c s
  | .timeSet c => Sys2Proof.Machine.execTimeSet c s
  | .timeConfig c => Sys2Proof.Machine.execTimeConfig c s
  | .tsPortSet c => Sys2Proof.Machine.execTsPortSet c s
  | .ppsConfig c => Sys2Proof.Machine.execPpsConfig c s
  | .timeCountersGet c => Sys2Proof.Machine.execTimeCountersGet c s
  | .dmaChannelSet c => Sys2Proof.Machine.execDmaChannelSet c s
  | .dmaChannelEnable c => Sys2Proof.Machine.execDmaChannelEnable c s
  | .dmaChannelStatusGet c => Sys2Proof.Machine.execDmaChannelStatusGet c s
  | .msixModerationSet c => Sys2Proof.Machine.execMsixModerationSet c s
  | .hifCountersGet c => Sys2Proof.Machine.execHifCountersGet c s
  | .hierarchyConfig c => Sys2Proof.Machine.execHierarchyConfig c s
  | .hierStatusGet c => Sys2Proof.Machine.execHierStatusGet c s
  | .hierDeputySet c => Sys2Proof.Machine.execHierDeputySet c s
  | .hierModeChange c => Sys2Proof.Machine.execHierModeChange c s
  | .hierDistribute c => Sys2Proof.Machine.execHierDistribute c s
  | .hierMemberRemove c => Sys2Proof.Machine.execHierMemberRemove c s
  | .hierCountersGet c => Sys2Proof.Machine.execHierCountersGet c s
  | .hierClaim c => Sys2Proof.Machine.execHierClaim c s
  | .fwDownload c => Sys2Proof.Machine.execFwDownload c s
  | .fwVerify c => Sys2Proof.Machine.execFwVerify c s
  | .fwActivate c => Sys2Proof.Machine.execFwActivate c s
  | .fwConfirm c => Sys2Proof.Machine.execFwConfirm c s
  | .fwRevert c => Sys2Proof.Machine.execFwRevert c s
  | .fwStatusGet c => Sys2Proof.Machine.execFwStatusGet c s
  | .fwUpdateConfig c => Sys2Proof.Machine.execFwUpdateConfig c s
  | .fwSvnCommit c => Sys2Proof.Machine.execFwSvnCommit c s
  | .attestKeyGet c => Sys2Proof.Machine.execAttestKeyGet c s
  | .attestQuote c => Sys2Proof.Machine.execAttestQuote c s
  | .fwSnowdropPush c => Sys2Proof.Machine.execFwSnowdropPush c s
  | .modeSet c => Sys2Proof.Machine.execModeSet c s
  | .modeStatusGet c => Sys2Proof.Machine.execModeStatusGet c s
  | .repairStatusGet c => Sys2Proof.Machine.execRepairStatusGet c s
  | .repairMapRead c => Sys2Proof.Machine.execRepairMapRead c s
  | .deviceReset c => Sys2Proof.Machine.execDeviceReset c s
  | .feRestart c => Sys2Proof.Machine.execFeRestart c s
  | .repairConfig c => Sys2Proof.Machine.execRepairConfig c s
  | .perfCounterConfig c => Sys2Proof.Machine.execPerfCounterConfig c s
  | .perfControl c => Sys2Proof.Machine.execPerfControl c s
  | .perfCounterRead c => Sys2Proof.Machine.execPerfCounterRead c s
  | .histogramConfig c => Sys2Proof.Machine.execHistogramConfig c s
  | .psampleConfig c => Sys2Proof.Machine.execPsampleConfig c s
  | .telemetryConfig c => Sys2Proof.Machine.execTelemetryConfig c s
  | .telemetryCountersGet c => Sys2Proof.Machine.execTelemetryCountersGet c s
  | .pkgStatusGet c => Sys2Proof.Machine.execPkgStatusGet c s
  | .thermalConfig c => Sys2Proof.Machine.execThermalConfig c s
  | .alarmInputConfig c => Sys2Proof.Machine.execAlarmInputConfig c s
  | .pkgInputUnmask c => Sys2Proof.Machine.execPkgInputUnmask c s
  | .auxStatusClear c => Sys2Proof.Machine.execAuxStatusClear c s
  | .commandProducerIndex channel rsv index => Sys2Proof.Machine.execCommandProducerIndex channel rsv index s
  | .eventConsumerIndex channel rsv index => Sys2Proof.Machine.execEventConsumerIndex channel rsv index s
  | .channelProducerIndex channel rsv index descs => Sys2Proof.Machine.execChannelProducerIndex channel rsv index descs s
  | .hifCmdRingBase w => Sys2Proof.Machine.execHifCmdRingBase w s
  | .hifEvtRingBase w => Sys2Proof.Machine.execHifEvtRingBase w s
  | .hifHealth v => Sys2Proof.Machine.execHifHealth v s
  | .imageReady v => Sys2Proof.Machine.execImageReady v s
  | .auxRegisterWrite reg v => Sys2Proof.Machine.execAuxRegisterWrite reg v s
  | .registerWrite offset v wide => Sys2Proof.Machine.execRegisterWrite offset v wide s
  | .commandFetch e => Sys2Proof.Machine.execCommandFetch e s
  | .msixTimer vector => Sys2Proof.Machine.execMsixTimer vector s
  | .relayTimeout relayId => Sys2Proof.Machine.execRelayTimeout relayId s
  | .receiveFrame port f => Sys2Proof.Machine.execReceiveFrame port f s
  | .parserSlot port => Sys2Proof.Machine.execParserSlot port s
  | .lookupResult port parity => Sys2Proof.Machine.execLookupResult port parity s
  | .headerCellAdmission port => Sys2Proof.Machine.execHeaderCellAdmission port s
  | .frameTail port => Sys2Proof.Machine.execFrameTail port s
  | .dispatchSelection => Sys2Proof.Machine.execDispatchSelection s
  | .egressSelection port => Sys2Proof.Machine.execEgressSelection port s
  | .segmentWritten => Sys2Proof.Machine.execSegmentWritten s
  | .refillArrival queue => Sys2Proof.Machine.execRefillArrival queue s
  | .ageExpiry queue => Sys2Proof.Machine.execAgeExpiry queue s
  | .cellAudit => Sys2Proof.Machine.execCellAudit s
  | .shaperPayoff node => Sys2Proof.Machine.execShaperPayoff node s
  | .sampleWindowEnd set => Sys2Proof.Machine.execSampleWindowEnd set s
  | .dataCell lane cell => Sys2Proof.Machine.execDataCell lane cell s
  | .resequenceTimeout src plane lgroup => Sys2Proof.Machine.execResequenceTimeout src plane lgroup s
  | .reassemblyTimeout src plane lgroup tc prot => Sys2Proof.Machine.execReassemblyTimeout src plane lgroup tc prot s
  | .protectedCopyComplete src plane stream => Sys2Proof.Machine.execProtectedCopyComplete src plane stream s
  | .reassemblyComplete => Sys2Proof.Machine.execReassemblyComplete s
  | .windowIdleExpiry src stream => Sys2Proof.Machine.execWindowIdleExpiry src stream s
  | .editPacket port => Sys2Proof.Machine.execEditPacket port s
  | .transmitStart port => Sys2Proof.Machine.execTransmitStart port s
  | .creditRequest rx => Sys2Proof.Machine.execCreditRequest rx s
  | .creditRequestRefresh voq => Sys2Proof.Machine.execCreditRequestRefresh voq s
  | .voqActiveTimeout src voq => Sys2Proof.Machine.execVoqActiveTimeout src voq s
  | .creditIssue port => Sys2Proof.Machine.execCreditIssue port s
  | .grantBatchTimeout src => Sys2Proof.Machine.execGrantBatchTimeout src s
  | .creditGrant rx => Sys2Proof.Machine.execCreditGrant rx s
  | .creditKeepExpiry voq => Sys2Proof.Machine.execCreditKeepExpiry voq s
  | .fabricHeartbeatSend => Sys2Proof.Machine.execFabricHeartbeatSend s
  | .heartbeatCell rx => Sys2Proof.Machine.execHeartbeatCell rx s
  | .hearTimeout peer plane => Sys2Proof.Machine.execHearTimeout peer plane s
  | .upHoldExpiry peer plane => Sys2Proof.Machine.execUpHoldExpiry peer plane s
  | .resync rx => Sys2Proof.Machine.execResync rx s
  | .resyncAck rx => Sys2Proof.Machine.execResyncAck rx s
  | .resyncResend peer plane => Sys2Proof.Machine.execResyncResend peer plane s
  | .controlCell rx => Sys2Proof.Machine.execControlCell rx s
  | .controlMessageTimeout src msgId => Sys2Proof.Machine.execControlMessageTimeout src msgId s
  | .fabricLaneFault lane lockLost => Sys2Proof.Machine.execFabricLaneFault lane lockLost s
  | .fabricLaneTrainingEnd lane trained => Sys2Proof.Machine.execFabricLaneTrainingEnd lane trained s
  | .fabricTrainingRetry lane => Sys2Proof.Machine.execFabricTrainingRetry lane s
  | .linkConditionsMet port => Sys2Proof.Machine.execLinkConditionsMet port s
  | .linkUpHoldExpiry port => Sys2Proof.Machine.execLinkUpHoldExpiry port s
  | .linkConditionLost port fault lanesLost => Sys2Proof.Machine.execLinkConditionLost port fault lanesLost s
  | .linkDownHoldExpiry port => Sys2Proof.Machine.execLinkDownHoldExpiry port s
  | .remoteFault port => Sys2Proof.Machine.execRemoteFault port s
  | .fecThreshold report => Sys2Proof.Machine.execFecThreshold report s
  | .laneTrainingEnd lane trained => Sys2Proof.Machine.execLaneTrainingEnd lane trained s
  | .trainingRetry port => Sys2Proof.Machine.execTrainingRetry port s
  | .fallbackWindow group rxTx => Sys2Proof.Machine.execFallbackWindow group rxTx s
  | .fallbackTimeout group => Sys2Proof.Machine.execFallbackTimeout group s
  | .lpiIdleEntry port => Sys2Proof.Machine.execLpiIdleEntry port s
  | .moduleInserted module page0 => Sys2Proof.Machine.execModuleInserted module page0 s
  | .moduleRemoved module => Sys2Proof.Machine.execModuleRemoved module s
  | .moduleInterrupt module flags => Sys2Proof.Machine.execModuleInterrupt module flags s
  | .moduleMonitorPoll module tempC bias power flags => Sys2Proof.Machine.execModuleMonitorPoll module tempC bias power flags s
  | .ledgerAccumulation => Sys2Proof.Machine.execLedgerAccumulation s
  | .ledgerHourlyWrite => Sys2Proof.Machine.execLedgerHourlyWrite s
  | .interruptStuck module => Sys2Proof.Machine.execInterruptStuck module s
  | .presenceChatter input => Sys2Proof.Machine.execPresenceChatter input s
  | .maskedInputPoll module flags => Sys2Proof.Machine.execMaskedInputPoll module flags s
  | .moduleAccessUnacknowledged module => Sys2Proof.Machine.execModuleAccessUnacknowledged module s
  | .busDataLineLow bus recovered => Sys2Proof.Machine.execBusDataLineLow bus recovered s
  | .timedBatchCommit => Sys2Proof.Machine.execTimedBatchCommit s
  | .retirementEpochEnd => Sys2Proof.Machine.execRetirementEpochEnd s
  | .grownTableRelease table => Sys2Proof.Machine.execGrownTableRelease table s
  | .ecmpBlockRelease group => Sys2Proof.Machine.execEcmpBlockRelease group s
  | .mcastBlockRelease group => Sys2Proof.Machine.execMcastBlockRelease group s
  | .markerRebuildDone entry => Sys2Proof.Machine.execMarkerRebuildDone entry s
  | .parserPipelineError pipeline held => Sys2Proof.Machine.execParserPipelineError pipeline held s
  | .lookupPipelineError pipeline held => Sys2Proof.Machine.execLookupPipelineError pipeline held s
  | .editEngineError engine held => Sys2Proof.Machine.execEditEngineError engine held s
  | .tcamScrub bad => Sys2Proof.Machine.execTcamScrub bad s
  | .spareTileFilled lt => Sys2Proof.Machine.execSpareTileFilled lt s
  | .tcamDeleteComplete handle => Sys2Proof.Machine.execTcamDeleteComplete handle s
  | .retainExpiry handle => Sys2Proof.Machine.execRetainExpiry handle s
  | .puntDmaComplete channel => Sys2Proof.Machine.execPuntDmaComplete channel s
  | .puntFrameAtHead channel => Sys2Proof.Machine.execPuntFrameAtHead channel s
  | .puntHoldExpiry channel => Sys2Proof.Machine.execPuntHoldExpiry channel s
  | .injectFrameRead channel data => Sys2Proof.Machine.execInjectFrameRead channel data s
  | .injectHoldExpiry channel => Sys2Proof.Machine.execInjectHoldExpiry channel s
  | .dmaError channel addr err => Sys2Proof.Machine.execDmaError channel addr err s
  | .functionLevelReset => Sys2Proof.Machine.execFunctionLevelReset s
  | .pcieLinkLoss => Sys2Proof.Machine.execPcieLinkLoss s
  | .busMasterOff => Sys2Proof.Machine.execBusMasterOff s
  | .counterUpdate => Sys2Proof.Machine.execCounterUpdate s
  | .hbmRequest pc port bank row write => Sys2Proof.Machine.execHbmRequest pc port bank row write s
  | .requestUrgencyRise req => Sys2Proof.Machine.execRequestUrgencyRise req s
  | .hbmRefreshDue pc bank => Sys2Proof.Machine.execHbmRefreshDue pc bank s
  | .selfRefreshIdle stack => Sys2Proof.Machine.execSelfRefreshIdle stack s
  | .selfRefreshExit stack => Sys2Proof.Machine.execSelfRefreshExit stack s
  | .hbmParityError channel from_ => Sys2Proof.Machine.execHbmParityError channel from_ s
  | .hbmReadError pc bank row correctable repairable use => Sys2Proof.Machine.execHbmReadError pc bank row correctable repairable use s
  | .hbmTracking channel marginLost => Sys2Proof.Machine.execHbmTracking channel marginLost s
  | .plannedRetrainTrigger channel => Sys2Proof.Machine.execPlannedRetrainTrigger channel s
  | .evacuationComplete channel => Sys2Proof.Machine.execEvacuationComplete channel s
  | .evacuationTimeout channel => Sys2Proof.Machine.execEvacuationTimeout channel s
  | .evacuationSlotRelease segment => Sys2Proof.Machine.execEvacuationSlotRelease segment s
  | .channelTrainingEnd channel ok0 ok1 => Sys2Proof.Machine.execChannelTrainingEnd channel ok0 ok1 s
  | .counterScrub access correctable repairable => Sys2Proof.Machine.execCounterScrub access correctable repairable s
  | .d2dFlitError at_ => Sys2Proof.Machine.execD2dFlitError at_ s
  | .d2dLaneFault module toFe lane => Sys2Proof.Machine.execD2dLaneFault module toFe lane s
  | .timedStepDue => Sys2Proof.Machine.execTimedStepDue s
  | .saSwitchDue port => Sys2Proof.Machine.execSaSwitchDue port s
  | .perfControlDue => Sys2Proof.Machine.execPerfControlDue s
  | .holdoverTimeout => Sys2Proof.Machine.execHoldoverTimeout s
  | .ppsOutTarget => Sys2Proof.Machine.execPpsOutTarget s
  | .ppsOutWidthEnd => Sys2Proof.Machine.execPpsOutWidthEnd s
  | .ppsInEdge => Sys2Proof.Machine.execPpsInEdge s
  | .ppsInLost => Sys2Proof.Machine.execPpsInLost s
  | .timeSyncSend => Sys2Proof.Machine.execTimeSyncSend s
  | .timeSync path h offset newInc step => Sys2Proof.Machine.execTimeSync path h offset newInc step s
  | .timeSyncLoss => Sys2Proof.Machine.execTimeSyncLoss s
  | .heartbeat path h t32 role mode flags deputy members => Sys2Proof.Machine.execHeartbeat path h t32 role mode flags deputy members s
  | .ack path h acked status => Sys2Proof.Machine.execAck path h acked status s
  | .announce path h priority role => Sys2Proof.Machine.execAnnounce path h priority role s
  | .joinRequest path h version priority ordering svn fwVersion mode => Sys2Proof.Machine.execJoinRequest path h version priority ordering svn fwVersion mode s
  | .joinAccept path h members deputy managerT32 => Sys2Proof.Machine.execJoinAccept path h members deputy managerT32 s
  | .joinReject path h reason => Sys2Proof.Machine.execJoinReject path h reason s
  | .leave path h cause => Sys2Proof.Machine.execLeave path h cause s
  | .memberUpdate path h members deputy => Sys2Proof.Machine.execMemberUpdate path h members deputy s
  | .relayCommand path h relayId offset total entry data => Sys2Proof.Machine.execRelayCommand path h relayId offset total entry data s
  | .relayCompletion path h relayId offset total status resultLength applied failIndex detail result => Sys2Proof.Machine.execRelayCompletion path h relayId offset total status resultLength applied failIndex detail result s
  | .relayEvent path h code t32 data => Sys2Proof.Machine.execRelayEvent path h code t32 data s
  | .prepare path h newEpoch mode t members => Sys2Proof.Machine.execPrepare path h newEpoch mode t members s
  | .ready path h newEpoch => Sys2Proof.Machine.execReady path h newEpoch s
  | .refuse path h newEpoch status => Sys2Proof.Machine.execRefuse path h newEpoch status s
  | .commit path h newEpoch mode t => Sys2Proof.Machine.execCommit path h newEpoch mode t s
  | .abort path h newEpoch => Sys2Proof.Machine.execAbort path h newEpoch s
  | .modeQuery path h newEpoch => Sys2Proof.Machine.execModeQuery path h newEpoch s
  | .takeover path h oldManager newDeputy => Sys2Proof.Machine.execTakeover path h oldManager newDeputy s
  | .snowdropOffer path h dieIds cause => Sys2Proof.Machine.execSnowdropOffer path h dieIds cause s
  | .snowdropChunk path h total offset data => Sys2Proof.Machine.execSnowdropChunk path h total offset data s
  | .snowdropResult path h code nextOffset => Sys2Proof.Machine.execSnowdropResult path h code nextOffset s
  | .snowdropOfferSend => Sys2Proof.Machine.execSnowdropOfferSend s
  | .electionWindowEnd => Sys2Proof.Machine.execElectionWindowEnd s
  | .announceSend => Sys2Proof.Machine.execAnnounceSend s
  | .joinRequestRepeat => Sys2Proof.Machine.execJoinRequestRepeat s
  | .coordHeartbeatSend => Sys2Proof.Machine.execCoordHeartbeatSend s
  | .coordTimeout peer link => Sys2Proof.Machine.execCoordTimeout peer link s
  | .messageResend msgSeq => Sys2Proof.Machine.execMessageResend msgSeq s
  | .leaveHoldExpiry peer => Sys2Proof.Machine.execLeaveHoldExpiry peer s
  | .takeoverHoldExpiry => Sys2Proof.Machine.execTakeoverHoldExpiry s
  | .prepareReplyTimeout => Sys2Proof.Machine.execPrepareReplyTimeout s
  | .modeCommitDue => Sys2Proof.Machine.execModeCommitDue s
  | .commitUncertain => Sys2Proof.Machine.execCommitUncertain s
  | .modeQuerySend => Sys2Proof.Machine.execModeQuerySend s
  | .decisionResend => Sys2Proof.Machine.execDecisionResend s
  | .modeChangeDeadline => Sys2Proof.Machine.execModeChangeDeadline s
  | .rootPllLock => Sys2Proof.Machine.execRootPllLock s
  | .pllLockRetry => Sys2Proof.Machine.execPllLockRetry s
  | .rootPllLoss => Sys2Proof.Machine.execRootPllLoss s
  | .romStart recoveryReq => Sys2Proof.Machine.execRomStart recoveryReq s
  | .activationPause => Sys2Proof.Machine.execActivationPause s
  | .imageResumesFetching => Sys2Proof.Machine.execImageResumesFetching s
  | .activationTimeout => Sys2Proof.Machine.execActivationTimeout s
  | .flashUpdateComplete failedSector => Sys2Proof.Machine.execFlashUpdateComplete failedSector s
  | .imageConfirm => Sys2Proof.Machine.execImageConfirm s
  | .confirmWindowEnd => Sys2Proof.Machine.execConfirmWindowEnd s
  | .degradedConditionArises bit => Sys2Proof.Machine.execDegradedConditionArises bit s
  | .degradedConditionClears bit => Sys2Proof.Machine.execDegradedConditionClears bit s
  | .drainComplete => Sys2Proof.Machine.execDrainComplete s
  | .feFirmwareFailure cause cores => Sys2Proof.Machine.execFeFirmwareFailure cause cores s
  | .feRestartTimeout => Sys2Proof.Machine.execFeRestartTimeout s
  | .tmDeputyClear => Sys2Proof.Machine.execTmDeputyClear s
  | .tmCoreFailure core => Sys2Proof.Machine.execTmCoreFailure core s
  | .sramError die macro_ row column correctable use => Sys2Proof.Machine.execSramError die macro_ row column correctable use s
  | .spareRowFilled macro_ => Sys2Proof.Machine.execSpareRowFilled macro_ s
  | .repairMapCommit failedSector => Sys2Proof.Machine.execRepairMapCommit failedSector s
  | .repairMapRetry failedSector => Sys2Proof.Machine.execRepairMapRetry failedSector s
  | .perfOverflow die counter => Sys2Proof.Machine.execPerfOverflow die counter s
  | .histogramWindowEnd h => Sys2Proof.Machine.execHistogramWindowEnd h s
  | .psampleRecord kind unit insn address stall packetId => Sys2Proof.Machine.execPsampleRecord kind unit insn address stall packetId s
  | .telemetryFlush => Sys2Proof.Machine.execTelemetryFlush s
  | .mainPowerLoss => Sys2Proof.Machine.execMainPowerLoss s
  | .railFault rail => Sys2Proof.Machine.execRailFault rail s
  | .mainRailsGood => Sys2Proof.Machine.execMainRailsGood s
  | .vauxChange millivolt => Sys2Proof.Machine.execVauxChange millivolt s
  | .thermalAlarm sensor tempC => Sys2Proof.Machine.execThermalAlarm sensor tempC s
  | .thermalTrip sensor tempC => Sys2Proof.Machine.execThermalTrip sensor tempC s
  | .temperatureLow sensor tempC => Sys2Proof.Machine.execTemperatureLow sensor tempC s
  | .sysResetAssertion => Sys2Proof.Machine.execSysResetAssertion s
  | .sysResetRelease => Sys2Proof.Machine.execSysResetRelease s
  | .resetDelayExpiry => Sys2Proof.Machine.execResetDelayExpiry s
  | .resetStuck => Sys2Proof.Machine.execResetStuck s
  | .perstAssertion => Sys2Proof.Machine.execPerstAssertion s
  | .perstUnmaskTimeout => Sys2Proof.Machine.execPerstUnmaskTimeout s
  | .recoveryStuck => Sys2Proof.Machine.execRecoveryStuck s
  | .alarmInputChange input level => Sys2Proof.Machine.execAlarmInputChange input level s
  | .auxHeartbeat => Sys2Proof.Machine.execAuxHeartbeat s
  | .laneLockDeclared lane => Sys2Proof.Machine.execLaneLockDeclared lane s
  | .laneLockLost lane => Sys2Proof.Machine.execLaneLockLost lane s
  | .remoteFaultCleared port => Sys2Proof.Machine.execRemoteFaultCleared port s
  | .frameTransmitted port => Sys2Proof.Machine.execFrameTransmitted port s
  | .stackTemperatureReport stack tempC => Sys2Proof.Machine.execStackTemperatureReport stack tempC s
  | .replayReissue channel => Sys2Proof.Machine.execReplayReissue channel s
  | .rowRepairDone pc bank => Sys2Proof.Machine.execRowRepairDone pc bank s
  | .railsBackInWindow => Sys2Proof.Machine.execRailsBackInWindow s
  | .fwHeartbeatTick => Sys2Proof.Machine.execFwHeartbeatTick s
  | .fwHaltedTimeout => Sys2Proof.Machine.execFwHaltedTimeout s
  | .pcieLinkUp => Sys2Proof.Machine.execPcieLinkUp s
  | .coordLinkDown link => Sys2Proof.Machine.execCoordLinkDown link s
  | .coordLinkUp link => Sys2Proof.Machine.execCoordLinkUp link s

end Sys2Proof.Machine
end

