-- ==== Sys2Proof/Machine/Tick.lean ====
section
/-! DEFINITION. One tick of the time clock (R498, R499), with one entry of the table write port (R22), one command slot of the
packet memory controller (R463), the cell slots of the fabric lanes (R367, R379) and the performance counters (R699, R702). -/
namespace Sys2Proof.Machine
open Sys2Proof

/-- A tick: the time base advances, the table write port applies an entry, and every pseudo-channel with requests waiting issues
one; what is due then is a command of its own row. -/
def tick (s : State) : Out :=
  if !s.aux.pllLocked then done s s.tickTime
  else
    let t := s.tickTime.perfTick.portStep.fabricSlots
    done s (if t.hbm.reqs.isEmpty then t else t.hbmSlots)

end Sys2Proof.Machine
end

