-- ==== Sys2Proof/Machine/Step.lean ====
section
/-! DEFINITION. One step: the command at the front of the queue, or one tick of the time clock when none waits. -/
namespace Sys2Proof.Machine
open Sys2Proof

/-- Takes the command at the front of the queue and runs it with the rest of the queue; on an empty queue the time base
advances by one tick (R498). -/
def step (s : State) : Host.Outcome State Fault Refusal :=
  match s.pending with
  | [] => tick s
  | c :: r => exec c { s with pending := r }

/-- The state with the command that a word spells in front of its queue; no word spells one, so the state itself. -/
def State.withFetchWord (s : State) (nbits w : Nat) : State :=
  match decodeTableWord nbits w with
  | some c => { s with pending := c :: s.pending }
  | none => s

end Sys2Proof.Machine
end

