-- ==== Sys2Proof/Safety.lean ====
section
/-! DEFINITION. What every state that a step reaches from a sound state keeps, in the terms the claims use: the mode is one of
Table 17-1, the ring indices fit their 16-bit fields (R538), the reserved bits of HIF_HEALTH stay 0, the byte storage of BAR0
keeps its canonical form, and what an activation or a hierarchy change will set the mode to is a mode. And when a mailbox command
reaches its own rules, and what its completion then is. -/
namespace Sys2Proof.Machine
open Sys2Proof

/-- The host interface: canonical byte storage, HIF_HEALTH within its four write-one-to-clear bits, 16-bit ring indices. -/
abbrev HifOk (h : HifSt) : Prop :=
  Memory.wf h.bar = true ∧ h.healthW1c < 16 ∧ h.cmdRing.dev < 65536 ∧ h.cmdRing.host < 65536 ∧
  h.evtRing.dev < 65536 ∧ h.evtRing.host < 65536

/-- The mode and the mode before it are codes of Table 17-1, and the change count fits 16 bits. -/
abbrev ModeOk (m : ModeSt) : Prop := m.mode ≤ 11 ∧ m.prev ≤ 11 ∧ m.changes < 65536

/-- The mode to which an activation returns is a code of Table 17-1. -/
abbrev FwOk (f : FwSt) : Prop := ∀ a, f.act = some a → a.prevMode ≤ 11

/-- The mode of a staged hierarchy change is a code of Table 17-1. -/
abbrev HierOk (h : HierSt) : Prop := ∀ a, h.staged = some a → a.mode ≤ 11

/-- What every step keeps. -/
def Inv (s : State) : Prop := HifOk s.hif ∧ ModeOk s.mode ∧ FwOk s.fw ∧ HierOk s.hier

/-- A mailbox command that firmware executes on this device and that passes every check that stands before its own rules:
firmware serves commands (R550), nothing holds it back (R543), its header is good (R546) and names this device (R547), the
device has the feature (R2), firmware has not given up (R695), the mode admits it (R674 and the command's own rule), its
reserved bits are 0 (R749), and its result fits (R545). -/
def admitted (x : CmdSpec) (c : Cmd) (s : State) : Bool :=
  s.serving && !s.blocked c && !badHeader x c && c.target == s.fab.fdi && !(x.opcode / 256 == 2 && !s.sec.gradeS) &&
    !(s.mode.gaveUp && !x.tm c.payload) &&
    !(s.mode.mode == mdQuarantine && !(x.reads || [0, 0xF, 0x10, 0x11].contains (x.opcode / 256))) &&
    x.mode c.payload s == 0 && x.clean c.payload && decide (x.size c.payload ≤ c.capacity)

/-- A command that is admitted and acts at once: no work stands ahead of it in the table write port where it goes through that
(R21, R194). -/
def accepted (x : CmdSpec) (c : Cmd) (s : State) : Bool :=
  admitted x c s && !(x.ported c.payload && !s.tbl.port.isEmpty)

/-- The outcome of a command executed in `s` that has changed the state to `t` and completes with OK and a result (R544). -/
def State.answered (s t : State) (c : Cmd) (result : Bytes := []) : Out :=
  .next (signalStatus s (Res.finish { st := t, result := result } c))

/-- The outcome of a command executed in `s` that fails with a status, leaving the device as it was (R548). -/
def State.failed (s : State) (c : Cmd) (status : Nat) (detail : Nat := 0) : Out :=
  .next (signalStatus s (Res.finish (Res.err s status detail) c))

/-- The outcome of a command that has changed the state to `t` and completes later. -/
def State.opened (s t : State) (c : Cmd) (k : OpenKind) : Out :=
  .next (signalStatus s { t with hif.openCmds := t.hif.openCmds ++ [{ cmd := c, kind := k, at_ := t.t32 }] })

/-- A batch command names 1 to `limit` operations, holds them all, and no reserved bit of one is set (R197, R749). -/
def batchGood (opcode limit : Nat) (c : Cmd) (s : State) : Bool :=
  decide (1 ≤ le c.payload 0 2) && decide (le c.payload 0 2 ≤ limit) &&
    (s.opsOf opcode (le c.payload 0 2) (c.payload.drop 8)).any (fun l => l.all (opClean opcode))

/-- The operations of a batch applied in order, where none of them fails (R196). -/
def State.appliedOps (s : State) (opcode flags : Nat) : List Bytes → Option State
  | [] => some s
  | b :: l =>
    let x := s.batchOp opcode flags b
    if x.1 == stOk then State.appliedOps (if opcode == 0x0401 || opcode == 0x0402 then x.2 else x.2.wrote 1) opcode flags l else none

/-- The table write port applies the entries of a batch one after the other, nothing else coming between them: what the batch ends
with, and the state then. -/
def State.portRun (s : State) : Nat → PortWork → PortNext × State
  | 0, w => (.more w, s)
  | n + 1, w =>
    match s.portOp w with
    | (.more v, t) => t.portRun n v
    | x => x

/-- The state once a coordination message is counted and, where it asks for that, acknowledged (R588). -/
def State.noted (s : State) (path : Path) (h : CoordHdr) : State :=
  let a := { s with hier.highTerm := Nat.max s.hier.highTerm h.term }.bump 1512 1 path
  if bit h.flags 1 then a.sendMsg h.src 0x02 false (toBe 4 h.msgSeq ++ zeros 4) else a

/-- The state in which a message is delivered: it is counted, acknowledged and remembered (R588). -/
def State.hearing (s : State) (path : Path) (h : CoordHdr) : State :=
  let x := (s.noted path h).member h.src
  (s.noted path h).setMember h.src { x with seen := (h.msgSeq :: x.seen).take 1024 }

/-- A coordination message of a type arrives on a path that is up, is good and for this device, and is no repetition of one
that was delivered (R587, R588). -/
def State.hears (s : State) (path : Path) (type : Nat) (h : CoordHdr) : Bool :=
  decide (path < 3) && s.coordOn && (decide (2 ≤ path) || s.hier.linkUp.contains path) && (decide (2 ≤ path) || h.etherOk) &&
    h.systemId == s.hier.systemId && h.version == 1 && h.checkOk && h.type == type &&
    (bit h.flags 0 || h.dst == s.fab.fdi) && h.src != s.fab.fdi &&
    !((s.noted path h).member h.src).seen.contains h.msgSeq

/-- A cell of a type arrives on a lane that holds lock while the fabric is in use, and passes the checks of R378. -/
def State.takesCell (s : State) (type lane : Nat) (c : Cell) : Bool :=
  decide (lane < 128) && s.fabricOn && (decide (7 ≤ c.type) || c.type == type) && (s.lane lane).lock &&
    ((s.laneCell lane c).cellError c).isNone

/-- The path and the header of a coordination message outside Recovery. -/
def messageOf (i : Instr) : Option (Path × CoordHdr) :=
  match i with
  | .timeSync path h _ _ _
  | .heartbeat path h _ _ _ _ _ _
  | .ack path h _ _
  | .announce path h _ _
  | .joinRequest path h _ _ _ _ _ _
  | .joinAccept path h _ _ _
  | .joinReject path h _
  | .leave path h _
  | .memberUpdate path h _ _
  | .relayCommand path h _ _ _ _ _
  | .relayCompletion path h _ _ _ _ _ _ _ _ _
  | .relayEvent path h _ _ _
  | .prepare path h _ _ _ _
  | .ready path h _
  | .refuse path h _ _
  | .commit path h _ _ _
  | .abort path h _
  | .modeQuery path h _
  | .takeover path h _ _
  | .snowdropOffer path h _ _
  | .snowdropResult path h _ _ => some (path, h)
  | _ => none

/-- The parts of the state, one for each of its fields. -/
inductive Part where
  | pending
  | time
  | hif
  | port
  | sec
  | parse
  | tbl
  | tcam
  | buf
  | sched
  | pool
  | fab
  | edit
  | hbm
  | hier
  | fw
  | mode
  | tel
  | aux
  | ctr
deriving DecidableEq, Repr

/-- Two states agree in a part. -/
def Part.same (p : Part) (s t : State) : Prop :=
  match p with
  | .pending => t.pending = s.pending
  | .time => t.time = s.time
  | .hif => t.hif = s.hif
  | .port => t.port = s.port
  | .sec => t.sec = s.sec
  | .parse => t.parse = s.parse
  | .tbl => t.tbl = s.tbl
  | .tcam => t.tcam = s.tcam
  | .buf => t.buf = s.buf
  | .sched => t.sched = s.sched
  | .pool => t.pool = s.pool
  | .fab => t.fab = s.fab
  | .edit => t.edit = s.edit
  | .hbm => t.hbm = s.hbm
  | .hier => t.hier = s.hier
  | .fw => t.fw = s.fw
  | .mode => t.mode = s.mode
  | .tel => t.tel = s.tel
  | .aux => t.aux = s.aux
  | .ctr => t.ctr = s.ctr

/-- A command that gives a next state changes only these parts of the state. -/
def changesOnly (l : List Part) (i : Instr) : Prop :=
  ∀ s t : State, exec i s = .next t → ∀ p : Part, p ∉ l → p.same s t

/-- A command that goes through the table write port and gives a next state changes only these parts of the state while the port
has no work; while it has some, only the tables, where it joins that work, and what every completion or relay changes. -/
def changesOnlyInTurn (l : List Part) (i : Instr) : Prop :=
  ∀ s t : State, exec i s = .next t → ∀ p : Part,
    (if s.tbl.port.isEmpty then p ∉ l else p ∉ [.tbl, .hif, .fab, .hier, .tel, .ctr]) → p.same s t

end Sys2Proof.Machine
end

