-- ==== Sys2Proof/Certificates/Slice0/Obligations.lean ====
section
/-! DEFINITION. What is claimed of the model, for the provers. The first part is about the queue, the reset, the gates of a
mailbox command and rules of the spec that stand by themselves; the second says of every command in which states it completes and
with what outcome; the third says what the commands leave unchanged. A statement about a command cites the chapter whose rules its
outcome follows; where the chapter leaves a point open, the outcome follows the assumption log. -/

open Sys2Proof Sys2Proof.Machine

/-! The queue, the reset and what every step keeps -/

/-- A step takes the command at the front of the queue and runs it with the rest of the queue. -/
def Obligations.StepRunsTheFrontCommand : Prop := ∀ (s : State) (c : Instr) (rest : List Instr),
  step { s with pending := c :: rest } = exec c { s with pending := rest }

/-- R498, R499: on an empty queue a step is one tick of the time clock. The time base advances by the increment while the root
PLL is locked, and while no batch is in the table write port nothing else of the tick touches it; where no other work waits for a
tick either, that advance is all. That the idle block ticks is the model's choice (log 3). -/
def Obligations.IdleStepIsOneTick : Prop := ∀ s : State, s.pending = [] →
  (∃ t, step s = .next t) ∧
  (s.tbl.port = [] → s.tbl.batches = [] → ∀ t, step s = .next t → t.time = { s.time with
    ticks := s.time.ticks + 1
    acc := if s.aux.pllLocked then s.time.acc + s.time.inc.setWidth 64 else s.time.acc }) ∧
  (s.tbl.port = [] → s.tbl.batches = [] → s.hbm.reqs = [] → s.fab.reqs = [] → s.fab.laneQ = [] → s.tel.perf = [] →
    s.tel.perfNext = [] → s.tel.hists = [] → s.sched.samples = [] → s.aux.flResetN = true →
    step s = done s s.advance)

/-- What every step keeps holds at reset. -/
def Obligations.ResetIsSound : Prop := Inv State.reset

/-- Every step keeps the invariant, and takes exactly the front command off the queue: no command puts another one there. -/
def Obligations.EveryStepKeepsInv : Prop := ∀ s t : State, Inv s → step s = .next t → Inv t ∧ t.pending = s.pending.tail

/-- No command changes the queue of the commands that wait. -/
def Obligations.CommandsLeaveTheQueue : Prop := ∀ (i : Instr) (s t : State), exec i s = .next t → t.pending = s.pending

/-- R666: Quarantine is left only for Boot, through DEVICE_RESET (whose reset follows its completion by 10 ms) or the reset
input, or for Standby when main power is lost. -/
def Obligations.QuarantineIsLeftOnlyForBootOrStandby : Prop := ∀ (i : Instr) (s t : State),
  s.mode.mode = mdQuarantine → exec i s = .next t →
  t.mode.mode = mdQuarantine ∨ (t.mode.mode = mdBoot ∧ (i = .resetDelayExpiry ∨ i = .sysResetAssertion)) ∨
    (t.mode.mode = mdStandby ∧ i = .mainPowerLoss)

/-- What the spec gives for reset: the mode, the rings, the time base and its settings, and the settings of every port. The
configuration of a port is R755's. -/
def Obligations.ResetValues : Prop :=
  State.reset.pending = [] ∧ State.reset.mode.mode = mdBoot ∧ State.reset.mode.prev = 0 ∧ State.reset.mode.changes = 0 ∧
  State.reset.mode.target = 0xFF ∧ State.reset.mode.conds = 0 ∧
  State.reset.hif.cmdRing.enable = false ∧ State.reset.hif.evtRing.enable = false ∧ State.reset.hif.healthW1c = 0 ∧
  (∀ c, (State.reset.chan c).enabled = false) ∧
  State.reset.time.acc = 0 ∧ State.reset.time.inc = 0x0155555555#40 ∧ State.reset.time.stepThreshold = 1000000 ∧
  State.reset.time.holdoverS = 8 ∧ State.reset.time.holdover = true ∧
  (∀ g, (State.reset.grp g).mode = 0) ∧
  (∀ p, (State.reset.prt p).cfg.promisc = false ∧ (State.reset.prt p).cfg.bcast = false ∧ (State.reset.prt p).cfg.mclass = 0 ∧
    (State.reset.prt p).cfg.filter.all (fun f => !f.valid) = true ∧ (State.reset.prt p).cfg.lpiEn = false ∧
    (State.reset.prt p).cfg.fbEn = false ∧ (State.reset.prt p).cfg.twTx = 4 ∧ (State.reset.prt p).cfg.twRx = 4 ∧
    (State.reset.prt p).cfg.lpiIdle = 10 ∧ (State.reset.prt p).cfg.maxFrame = 9728 ∧ (State.reset.prt p).cfg.upHold = 10 ∧
    (State.reset.prt p).cfg.downHold = 0 ∧ (State.reset.prt p).adminUp = true ∧ (State.reset.prt p).rxDisabled = false)

/-! The gates of a mailbox command -/

/-- R546: BAD_OPCODE for an opcode that is undefined or belongs to no class, BAD_PARAM for a reserved header bit, for a payload
above 1,048,576 bytes or too short for the opcode, and for a result capacity above 1,048,576; nothing is executed. -/
def Obligations.HeaderChecksComeFirst : Prop :=
  (∀ (e : CmdEntry) (s : State), s.canFetch = true → s.blocked { e.cmd with relay := none } = false →
    opTable e.opcode = none → exec (.commandFetch e) s = done s ((Res.err
      { s with hif.cmdRing.dev := (s.hif.cmdRing.dev + 1) % 65536 } stBadOpcode).finish { e.cmd with relay := none })) ∧
  (∀ op, 0x12 < op / 256 → opTable op = none) ∧
  (∀ (x : CmdSpec) (body : Cmd → State → Res) (c : Cmd) (s : State), s.serving = true → s.blocked c = false →
    4 ≤ c.flags ∨ 1048576 < c.payload.length ∨ x.long c.payload = false ∨ 1048576 < c.capacity →
    serve c (gate x body) s = s.failed c stBadParam)

/-- R547: a command for another device is relayed by a manager that has it in its member table, and completes with NOT_FOUND
elsewhere; a command that steers the time base is not relayed (R530). That a manager completes a command for an FDI that is no
member with NOT_FOUND is the model's reading of R38. -/
def Obligations.OtherTargetsAreRelayedOrNotFound : Prop := ∀ (x : CmdSpec) (body : Cmd → State → Res) (c : Cmd) (s : State),
  s.serving = true → s.blocked c = false → badHeader x c = false → c.target ≠ s.fab.fdi →
  (s.isManager = true → s.hier.table.contains c.target = true → x.relayed = true →
    serve c (gate x body) s = s.opened (s.relayTo x.opcode c none) c (.relay s.hier.relaySeq)) ∧
  (s.isManager = true → s.hier.table.contains c.target = true → x.relayed = false →
    serve c (gate x body) s = s.failed c stRefused) ∧
  (s.isManager = false ∨ s.hier.table.contains c.target = false → serve c (gate x body) s = s.failed c stNotFound)

/-- R548: a command that completes with neither OK nor PARTIAL leaves the device as it was, unless its chapter says otherwise
(`keep`): what firmware then writes is its completion alone. -/
def Obligations.FailureLeavesTheDevice : Prop := ∀ (x : CmdSpec) (body : Cmd → State → Res) (c : Cmd) (s : State),
  (gate x body c s).status ≠ stOk → (gate x body c s).status ≠ stPartial → (gate x body c s).keep = false →
  (gate x body c s).st = s ∧
  (s.serving = true → s.blocked c = false → serve c (gate x body) s =
    .next (signalStatus s (Res.finish { gate x body c s with st := s } c)))

/-! Rules stated by themselves -/

/-- R500, R503: the range of an increment, and the threshold of a step, untimed or staged for a commit time. -/
def Obligations.TimeBaseSteeringLimits : Prop := ∀ (c : Cmd) (s : State),
  (accepted timeIncrementSetSpec c s = true →
    (0x0154FDF3B6 ≤ le c.payload 0 5 → le c.payload 0 5 ≤ 0x0155ACB6F4 →
      let t := s.writeInc (BitVec.ofNat 40 (le c.payload 0 5))
      t.time.inc = BitVec.ofNat 40 (le c.payload 0 5) ∧
      exec (.timeIncrementSet c) s = s.answered t c (toLe 4 t.time.incT32.toNat)) ∧
    (le c.payload 0 5 < 0x0154FDF3B6 ∨ 0x0155ACB6F4 < le c.payload 0 5 →
      exec (.timeIncrementSet c) s = s.failed c stBadParam)) ∧
  (accepted timeStepSpec c s = true →
    let off := leS c.payload 0 4
    let t := BitVec.ofNat 32 (le c.payload 4 4)
    t = 0 ∨ (T32.validCommit s.t32 t = true ∧ s.time.step = none) →
    (s.time.stepThreshold < off.natAbs → ∃ u, exec (.timeStep c) s = .next (signalStatus s u) ∧ u.time = s.time ∧
      u = Res.finish { st := (s.bump 1306 2).raise 0x0C83 (d4s off ++ d4 s.time.stepThreshold), status := stRefused,
                       keep := true } c) ∧
    (off.natAbs ≤ s.time.stepThreshold → s.stepFits off = true → t = 0 →
      exec (.timeStep c) s = s.answered (s.advance.applyStep off) c (toLe 4 (s.advance.applyStep off).t32.toNat)) ∧
    (off.natAbs ≤ s.time.stepThreshold → s.stepFits off = true → t ≠ 0 →
      exec (.timeStep c) s = s.answered { s with time.step := some { offset := off, t := t } } c (zeros 4)))

/-- R511: a commit time is valid when it lies 10 ms to 1 s ahead of T32, modulo 2^32; a command with an invalid one completes
with BAD_PARAM and stages nothing. HIER_MODE_CHANGE, TIME_STEP and PERF_CONTROL are not timed with a commit time of 0. -/
def Obligations.InvalidCommitTimesAreRejected : Prop :=
  (∀ now t : T32, T32.validCommit now t = true ↔ 10000000 ≤ (t - now).toNat ∧ (t - now).toNat ≤ 1000000000) ∧
  (∀ (c : Cmd) (s : State), T32.validCommit s.t32 (BitVec.ofNat 32 (le c.payload 4 4)) = false →
    (bit (byteAt c.payload 2) 1 = true →
      (∀ p, p ∈ [(batchSpec 0x0401 32, Instr.routeAdd c), (batchSpec 0x0402 32, Instr.routeDelete c),
          (batchSpec 0x0405 12, Instr.nexthopSet c), (batchSpec 0x0407 32, Instr.labelSet c),
          (batchSpec 0x0408 24, Instr.emInsert c), (batchSpec 0x0409 24, Instr.emDelete c),
          (batchSpec 0x0506 176, Instr.tcamEntryInsert c), (batchSpec 0x0507 176, Instr.tcamEntryModify c),
          (batchSpec 0x0A02 72, Instr.encapSet c)] →
        accepted p.1 c s = true → exec p.2 s = s.failed c stBadParam)) ∧
    (le c.payload 4 4 ≠ 0 →
      (accepted timeStepSpec c s = true → exec (.timeStep c) s = s.failed c stBadParam) ∧
      (accepted perfControlSpec c s = true → exec (.perfControl c) s = s.failed c stBadParam) ∧
      (accepted hierModeChangeSpec c s = true → exec (.hierModeChange c) s = s.failed c stBadParam) ∧
      (accepted saTxSwitchSpec c s = true → s.portExists (byteAt c.payload 0) = true → byteAt c.payload 1 ≤ 1 →
        ((s.secy (byteAt c.payload 0)).sa 0 (byteAt c.payload 1)).isSome = true →
        exec (.saTxSwitch c) s = s.failed c stBadParam))) ∧
  (∀ (c : Cmd) (s : State), T32.validCommit s.t32 (BitVec.ofNat 32 (le c.payload 16 4)) = false → byteAt c.payload 1 = 1 →
    (accepted histogramConfigSpec c s = true → exec (.histogramConfig c) s = s.failed c stBadParam) ∧
    (accepted sampleSetConfigSpec c s = true → exec (.sampleSetConfig c) s = s.failed c stBadParam)) ∧
  (∀ (c : Cmd) (s : State), T32.validCommit s.t32 (BitVec.ofNat 32 (le c.payload 8 4)) = false →
    bit (byteAt c.payload 0) 1 = true → accepted ppsConfigSpec c s = true →
    exec (.ppsConfig c) s = s.failed c stBadParam)

/-- R165, R220, R340: TABLE_SPLIT_SET, TCAM_CHAIN_CONFIG and POOL_CARVE_SET are accepted only in Configure, and what they erase. -/
def Obligations.ConfigureOnlyCommands : Prop := ∀ (c : Cmd) (s : State),
  (s.mode.mode ≠ mdConfigure → tableSplitSetSpec.mode c.payload s = stWrongMode ∧
    tcamChainConfigSpec.mode c.payload s = stWrongMode ∧ poolCarveSetSpec.mode c.payload s = stWrongMode) ∧
  (s.serving = true → s.blocked c = false → c.target = s.fab.fdi → s.mode.gaveUp = false → s.mode.mode ≠ mdConfigure →
    (badHeader tableSplitSetSpec c = false → exec (.tableSplitSet c) s = s.failed c stWrongMode) ∧
    (badHeader tcamChainConfigSpec c = false → exec (.tcamChainConfig c) s = s.failed c stWrongMode) ∧
    (badHeader poolCarveSetSpec c = false → exec (.poolCarveSet c) s = s.failed c stWrongMode)) ∧
  (accepted tableSplitSetSpec c s = true → 1 ≤ byteAt c.payload 0 → byteAt c.payload 0 ≤ 10 →
    ∃ t, exec (.tableSplitSet c) s = s.answered t c ∧ t.tbl.emBanks = byteAt c.payload 0 ∧ t.tbl.fib = [] ∧ t.tbl.em = [] ∧
      t.tbl.dirs = []) ∧
  (accepted tcamChainConfigSpec c s = true → (∃ st, st ≠ stOk ∧ exec (.tcamChainConfig c) s = s.failed c st) ∨
    ∃ t, exec (.tcamChainConfig c) s = s.answered t c ∧ ∀ x, t.chain? (byteAt c.payload 0) = some x → x.ents = []) ∧
  (accepted poolCarveSetSpec c s = true → ((List.range 5).map (fun p => byteAt c.payload p)).sum ≠ 128 →
    exec (.poolCarveSet c) s = s.failed c stBadParam) ∧
  (accepted poolCarveSetSpec c s = true → ((List.range 5).map (fun p => byteAt c.payload p)).sum = 128 →
    s.pool.bufs.any (fun e => e.2.state == 1) = true → exec (.poolCarveSet c) s = s.failed c stBusy) ∧
  (accepted poolCarveSetSpec c s = true → ((List.range 5).map (fun p => byteAt c.payload p)).sum = 128 →
    s.pool.bufs.any (fun e => e.2.state == 1) = false → ∃ t, exec (.poolCarveSet c) s = s.answered t c ∧
      t.pool.pages = (List.range 5).map (fun p => byteAt c.payload p))

/-- R668, R765: in the large configuration MODE_SET to Forwarding, Parked, Drain or Maintenance completes with REFUSED;
MODE_SET Quarantine in Quarantine completes with OK and changes nothing, and with another confirm byte with BAD_PARAM. -/
def Obligations.ModeSetRefusals : Prop := ∀ (c : Cmd) (s : State), accepted modeSetSpec c s = true →
  (s.hier.member = true → mdForwarding ≤ byteAt c.payload 0 → byteAt c.payload 0 ≤ mdMaintenance →
    exec (.modeSet c) s = s.failed c stRefused) ∧
  (byteAt c.payload 0 = mdQuarantine → byteAt c.payload 1 = 0xA5 → s.mode.mode = mdQuarantine →
    exec (.modeSet c) s = s.answered s c) ∧
  (byteAt c.payload 0 = mdQuarantine → byteAt c.payload 1 ≠ 0xA5 → exec (.modeSet c) s = s.failed c stBadParam)

/-- R704: the bin of a value and the count it adds, which saturates at 0xFFFF_FFFF and says so. The largest value and the total
of the record follow too. -/
def Obligations.HistogramBins : Prop :=
  (∀ shift v, v / 2 ^ shift < 2 → histBin shift v = 0) ∧
  (∀ shift v, 2 ≤ v / 2 ^ shift → v / 2 ^ shift < 2 ^ 32 → histBin shift v = Nat.log2 (v / 2 ^ shift)) ∧
  (∀ shift v b, v / 2 ^ shift < 2 ^ 32 → 1 ≤ b → (histBin shift v = b ↔ 2 ^ (b + shift) ≤ v ∧ v < 2 ^ (b + 1 + shift))) ∧
  (∀ (s : State) (source inst v k : Nat) (h : Hist), s.tel.hists.get? k = some h → h.enable = true → h.source = source →
    h.first ≤ inst → inst < h.first + h.count → h.begun = true → s.t32.reached h.start = true →
    s.t32.reached (h.start + BitVec.ofNat 32 (h.intervalMs * 1000000)) = false →
    let n := h.bins.getD (histBin h.shift v) 0
    ∃ h', (s.histAdd source inst v).tel.hists.get? k = some h' ∧
      (n < 4294967295 → h'.bins = h.bins.set (histBin h.shift v) (n + 1) ∧ h'.saturated = h.saturated) ∧
      (n = 4294967295 → h'.bins = h.bins ∧ h'.saturated = true) ∧ h'.max = Nat.max h.max v ∧ h'.total = h.total + 1)

/-- R196: a batch stops at its first operation that fails; those before it stay applied, and the completion carries how many
they are and the index of the one that failed. Here the table write port runs a batch to its end (R22). -/
def Obligations.BatchesStopAtTheFirstFailure : Prop := ∀ (s : State) (id opcode flags : Nat) (l : List Bytes), l ≠ [] →
  ∃ st n f t, s.portRun l.length { id, opcode, flags, ops := l } = (.ended st n f, t) ∧
    (st = stOk → n = l.length ∧ f = 0xFFFFFFFF ∧ s.appliedOps opcode flags l = some t) ∧
    (st ≠ stOk → n < l.length ∧ f = n ∧ ∃ u b, s.appliedOps opcode flags (l.take n) = some u ∧ l[n]? = some b ∧
      (u.batchOp opcode flags b).1 ≠ stOk ∧ t = (u.batchOp opcode flags b).2 ∧
      st = if n = 0 then (u.batchOp opcode flags b).1 else stPartial)

/-- R21, R24, R194: a command that writes the forwarding tables waits while the table write port has work, after all of it, and
completes when its turn has come; each tick the port applies one entry. That one tick applies one entry is the model's choice. -/
def Obligations.TableWritesWaitForThePort : Prop :=
  (∀ (x : CmdSpec) (body : Cmd → State → Res) (c : Cmd) (s : State),
    admitted x c s = true → x.ported c.payload = true → s.tbl.port ≠ [] →
    serve c (gate x body) s = s.opened { s with
      tbl.batchSeq := s.tbl.batchSeq + 1
      tbl.port := s.tbl.port ++ [{ id := s.tbl.batchSeq, opcode := x.opcode, entry := some { opcode := x.opcode, cmd := c } }] }
      c (.batch s.tbl.batchSeq)) ∧
  (∀ (s : State) (w v : PortWork) (l : List PortWork) (t : State), s.tbl.port = w :: l → w.entry = none → s.tbl.batches = [] →
    ({ s with tbl.port := l }.portOp w) = (.more v, t) → s.portStep = { t with tbl.port := v :: t.tbl.port })

/-- R316: scheduling tags are compared by the sign of their difference modulo 2^40. -/
def Obligations.TagsCompareByTheirDifference : Prop :=
  (∀ a b : BitVec 40, tagLt a.toNat b.toNat = true ↔ (a - b).toInt < 0) ∧
  (∀ a d : Nat, a < 2 ^ 40 → 0 < d → d < 2 ^ 39 → tagLt a ((a + d) % 2 ^ 40) = true ∧ tagLt ((a + d) % 2 ^ 40) a = false)

/-- R587: a coordination frame with another EtherType, another system_id, an unknown version or a header check that fails is
discarded and counted, whatever its type. -/
def Obligations.BadCoordinationFramesAreDiscarded : Prop := ∀ (s : State) (path : Path) (h : CoordHdr),
  path < 3 → s.coordOn = true → (path < 2 → s.hier.linkUp.contains path = true) →
  (path < 2 ∧ h.etherOk = false) ∨ h.systemId ≠ s.hier.systemId ∨ h.version ≠ 1 ∨ h.checkOk = false →
  ∀ i : Instr, messageOf i = some (path, h) → exec i s = done s (s.bump 1512 2)

/-- R588: a second copy of a message that asks for it is acknowledged, and is not delivered. -/
def Obligations.RepeatedMessagesAreOnlyAcknowledged : Prop := ∀ (s : State) (path : Path) (type : Nat) (h : CoordHdr)
    (f : State → State), path < 3 → s.coordOn = true → (path < 2 → s.hier.linkUp.contains path = true ∧ h.etherOk = true) →
  h.systemId = s.hier.systemId → h.version = 1 → h.checkOk = true → h.type = type →
  bit h.flags 0 = true ∨ h.dst = s.fab.fdi → h.src ≠ s.fab.fdi →
  (((s.noted path h).member h.src).seen.contains h.msgSeq = true → s.receiveMsg path type h f = done s (s.noted path h)) ∧
  (((s.noted path h).member h.src).seen.contains h.msgSeq = false →
    s.receiveMsg path type h f = done s (f (s.hearing path h)) ∧
    ((s.hearing path h).member h.src).seen.contains h.msgSeq = true)

/-- R745: a counter table comes as one 8-byte value for each counter. -/
def Obligations.SnapshotsHaveTheirSize : Prop := ∀ (s : State) (table : Nat) (dims : List (Nat × Nat))
    (current : Nat → Nat → Nat → Option Nat), (s.snap table dims current).length = snapSize dims

/-- R536, R537: a write in the Snowdrop data window or the MSI-X table changes the bytes it names and no other byte of the
storage behind BAR0. -/
def Obligations.BarWritesChangeTheirBytes : Prop := ∀ (offset : Nat) (v : BitVec 64) (wide : Bool) (s t : State),
  Memory.wf s.hif.bar = true → s.hif.linkUp = true → offset % 8 = 0 →
  (s.mode.mode = mdRecovery ∧ 0x10000 ≤ offset ∧ offset < 0x20000) ∨ (0x20000 ≤ offset ∧ offset < 0x20400) →
  exec (.registerWrite offset v wide) s = .next t →
  (∀ i, i < (if wide then 8 else 4) → (barRead t.hif.bar (offset + i)).toNat = v.toNat / 256 ^ i % 256) ∧
  (∀ a, a < offset ∨ offset + (if wide then 8 else 4) ≤ a → barRead t.hif.bar a = barRead s.hif.bar a)

/-! In which states each command completes, and with what outcome -/

/-- Class 0x00 of Table 14-15: what each command does once it is accepted. -/
def Obligations.DeviceCommandsComplete : Prop := ∀ (c : Cmd) (s : State),
  (accepted nopSpec c s = true → exec (.nop c) s = s.answered s c) ∧
  (accepted deviceInfoGetSpec c s = true → exec (.deviceInfoGet c) s = s.answered s c
    (toLe 2 0x9640 ++ toLe 1 0xB1 ++ toLe 1 (if s.sec.gradeS then 0x53 else 0x4E) ++ toLe 1 s.fab.fdi ++ toLe 1 s.hier.role ++
      zeros 2 ++ toLe 4 s.fw.running.version ++ toLe 1 s.fw.running.svn ++ zeros 3 ++ padTo 8 Config.dieFe ++
      padTo 8 Config.dieTm)) ∧
  (accepted eventMaskSetSpec c s = true → le c.payload 0 4 < 2 ^ 19 →
    exec (.eventMaskSet c) s = s.answered { s with hif.evtMask := le c.payload 0 4 } c) ∧
  (accepted eventMaskSetSpec c s = true → 2 ^ 19 ≤ le c.payload 0 4 → exec (.eventMaskSet c) s = s.failed c stBadParam) ∧
  (accepted eventMaskGetSpec c s = true → exec (.eventMaskGet c) s = s.answered s c (toLe 4 s.hif.evtMask)) ∧
  (accepted echoSpec c s = true → exec (.echo c) s = s.answered s c c.payload)

/-- Class 0x0D of Table 14-16. -/
def Obligations.ChannelCommandsComplete : Prop := ∀ (c : Cmd) (s : State),
  let ch := byteAt c.payload 0
  (accepted dmaChannelSetSpec c s = true → 4 ≤ ch → ch ≤ 63 → byteAt c.payload 1 ≤ 1 → byteAt c.payload 2 ≤ 9 →
    4 ≤ byteAt c.payload 3 → byteAt c.payload 3 ≤ 63 → le c.payload 4 2 ≤ 10000 → 1 ≤ le c.payload 6 2 →
    le c.payload 6 2 ≤ 200 → le c.payload 8 8 % 4096 = 0 →
    ((s.chan ch).enabled = false → exec (.dmaChannelSet c) s = s.answered (s.setChan ch { s.chan ch with
      configured := true, inject := byteAt c.payload 1 == 1, sizeCode := byteAt c.payload 2, vector := byteAt c.payload 3
      holdUs := le c.payload 4 2, dmaGbps := le c.payload 6 2, ringBase := le c.payload 8 8 }) c) ∧
    ((s.chan ch).enabled = true → exec (.dmaChannelSet c) s = s.failed c stBusy)) ∧
  (accepted dmaChannelEnableSpec c s = true → 4 ≤ ch → ch ≤ 63 → (s.chan ch).configured = true →
    (byteAt c.payload 1 = 1 → (s.chan ch).enabled = false → exec (.dmaChannelEnable c) s =
      s.answered (s.setChan ch { s.chan ch with enabled := true, prod := 0, dev := 0, posted := [] }) c) ∧
    (byteAt c.payload 1 = 0 → (s.chan ch).enabled = true → exec (.dmaChannelEnable c) s = s.answered (s.chanOff ch true) c)) ∧
  (accepted dmaChannelStatusGetSpec c s = true → 4 ≤ ch → ch ≤ 63 → exec (.dmaChannelStatusGet c) s = s.answered s c
    (toLe 1 (b2n (s.chan ch).enabled) ++ toLe 1 (b2n (s.chan ch).inject) ++ zeros 2 ++ toLe 2 (s.chan ch).prod ++
      toLe 2 (s.chan ch).dev ++ toLe 4 ((s.chan ch).held.length + b2n (s.chan ch).reading.isSome) ++
      toLe 2 (s.chan ch).frameSeq ++ zeros 2)) ∧
  (accepted msixModerationSetSpec c s = true → ch ≤ 63 → 1 ≤ le c.payload 2 2 → le c.payload 2 2 ≤ 256 →
    le c.payload 4 2 ≤ 1000 → (s.vec ch).waiting = 0 → exec (.msixModerationSet c) s =
      s.answered (s.setVec ch { s.vec ch with count := le c.payload 2 2, timerUs := le c.payload 4 2 }) c) ∧
  (accepted hifCountersGetSpec c s = true → exec (.hifCountersGet c) s = s.answered s c (s.snap 1418 hifDims))

/-- Writes to the ring registers and HIF_HEALTH (R537, R539, Table 14-3, Table 14-4), with the link up. -/
def Obligations.RegisterWritesComplete : Prop := ∀ (s : State), s.hif.linkUp = true →
  (∀ v : BitVec 64, s.hif.cmdRing.enable = false → v.getLsbD 4 = true → exec (.hifCmdRingBase (.full v)) s = done s { s with
    hif.cmdRing := { addr := v.toNat / 4096 * 4096, enable := true, sizeCode := v.toNat % 16, upper := v.toNat / 4294967296,
                     dev := 0, host := 0 }
    hif.fetchStopped := false, hif.dmaHeld := false }) ∧
  (∀ v : BitVec 64, s.hif.cmdRing.enable = true →
    v.toNat / 4096 * 4096 ≠ s.hif.cmdRing.addr ∨ v.toNat % 16 ≠ s.hif.cmdRing.sizeCode →
    exec (.hifCmdRingBase (.full v)) s = done s { s with hif.cmdRing.upper := v.toNat / 4294967296 }) ∧
  (∀ v : BitVec 32, exec (.hifCmdRingBase (.upper v)) s = done s { s with hif.cmdRing.upper := v.toNat }) ∧
  (∀ v : BitVec 32, s.hif.cmdRing.upper < 4294967296 → exec (.hifCmdRingBase (.lower v)) s =
    exec (.hifCmdRingBase (.full (BitVec.ofNat 64 (s.hif.cmdRing.upper * 4294967296 + v.toNat)))) s) ∧
  (∀ v : BitVec 64, s.hif.evtRing.enable = true → v.getLsbD 4 = false →
    v.toNat / 4096 * 4096 = s.hif.evtRing.addr → v.toNat % 16 = s.hif.evtRing.sizeCode →
    exec (.hifEvtRingBase (.full v)) s = done s { s with
      hif.evtRing.enable := false, hif.evtRing.upper := v.toNat / 4294967296 }) ∧
  (∀ v : BitVec 64, s.hif.evtRing.enable = false → v.getLsbD 4 = true → s.hif.evtLost = 0 →
    exec (.hifEvtRingBase (.full v)) s = done s { s with
      hif.evtRing := { addr := v.toNat / 4096 * 4096, enable := true, sizeCode := v.toNat % 16, upper := v.toNat / 4294967296,
                       dev := 0, host := 0 }
      hif.evtSeq := 0, hif.events := [] }) ∧
  (∀ v : BitVec 32, exec (.hifHealth v) s = done s { s with
    hif.healthW1c := toBitmap ((bitmapOf s.hif.healthW1c 1).filter (fun i => i < 4 && !v.getLsbD i)) })

/-- Doorbells (R541, R550, Table 14-5), with the link up. -/
def Obligations.DoorbellsComplete : Prop := ∀ (s : State) (channel rsv index : Nat), s.hif.linkUp = true → index < 65536 →
  let ignored : State := { s with hif.healthW1c := s.hif.healthW1c ||| 1 }.bump 1418 12
  (channel ≠ 0 ∨ rsv ≠ 0 ∨ s.hif.cmdRing.enable = false → exec (.commandProducerIndex channel rsv index) s = done s ignored) ∧
  (channel ≠ 0 ∨ rsv ≠ 0 ∨ s.hif.evtRing.enable = false → exec (.eventConsumerIndex channel rsv index) s = done s ignored) ∧
  (s.hif.cmdRing.enable = true → (index + 65536 - s.hif.cmdRing.dev) % 65536 ≤ s.hif.cmdRing.entries →
    exec (.commandProducerIndex 0 0 index) s = done s { s with hif.cmdRing.host := index }) ∧
  (s.hif.cmdRing.enable = true → s.hif.cmdRing.entries < (index + 65536 - s.hif.cmdRing.dev) % 65536 →
    exec (.commandProducerIndex 0 0 index) s = done s ({ s with
      hif.fetchStopped := true, hif.healthW1c := s.hif.healthW1c ||| 2 }.raise 0x0D81 (d4 s.hif.cmdRing.dev ++ d4 index))) ∧
  (s.hif.evtRing.enable = true → s.hif.evtLost = 0 → exec (.eventConsumerIndex 0 0 index) s = done s { s with
    hif.evtRing.host := index, hif.events := s.hif.events.drop ((index + 65536 - s.hif.evtRing.host) % 65536) }) ∧
  (∀ descs, rsv ≠ 0 ∨ channel < 4 ∨ (s.chan channel).enabled = false →
    exec (.channelProducerIndex channel rsv index descs) s = done s ignored) ∧
  (∀ offset v wide, offset % 8 = 0 → 0x10000 ≤ offset → offset < 0x20000 → s.mode.mode = mdRecovery →
    exec (.registerWrite offset v wide) s = done s { s with
      hif.bar := barWrites s.hif.bar offset (toLe (if wide then 8 else 4) v.toNat) }) ∧
  (∀ offset v wide, offset % 8 = 0 → 0x10000 ≤ offset → offset < 0x20000 → s.mode.mode ≠ mdRecovery →
    exec (.registerWrite offset v wide) s = done s s)

/-- R542, R543, R546: the entry at the fetch index starts, and completes with BAD_OPCODE where its opcode is undefined; one that
must wait stays where it is. -/
def Obligations.CommandFetchRuns : Prop := ∀ (e : CmdEntry) (s : State),
  let c : Cmd := { e.cmd with relay := none }
  let t : State := { s with hif.cmdRing.dev := (s.hif.cmdRing.dev + 1) % 65536 }
  (s.canFetch = true → s.blocked c = false → ∀ f, opTable e.opcode = some f →
    exec (.commandFetch e) s = done s ((f c t).finish c)) ∧
  (s.canFetch = true → s.blocked c = false → opTable e.opcode = none →
    exec (.commandFetch e) s = done s ((Res.err t stBadOpcode).finish c)) ∧
  (s.canFetch = false ∨ s.blocked c = true → exec (.commandFetch e) s = .next s)

/-- The events of the host interface (punt and inject channels, DMA errors, resets and the link of the endpoint, moderation
timers): once accepted (a command), or once its conditions hold (an event), it completes with the outcome given here. -/
def Obligations.HostEventsComplete : Prop :=
  (∀ (channel : Nat) (rsv : Nat) (index : Nat) (descs : List Desc) (s : State),
    (s.hif.linkUp) →
    exec (.channelProducerIndex channel rsv index descs) s = done s (s.doorbellChan channel rsv index descs)) ∧
  (∀ (vector : Nat) (s : State),
    ¬ (64 ≤ vector) →
    ((s.vec vector).waiting != 0 && s.ended (s.vec vector).since (us (s.vec vector).timerUs)) →
    exec (.msixTimer vector) s = done s (s.sendMsix vector)) ∧
  (∀ (channel : Nat) (s : State),
    ¬ (64 ≤ channel) →
    ¬ (!s.aux.pllLocked) →
    let x := s.chan channel
    ∀ h, x.reading = some h →
    ((s.liveBuf h.handle).any (fun b => b.lost)) →
    exec (.puntDmaComplete channel) s = done s ((s.cutReading channel).dropHeld channel 0x3C h)) ∧
  (∀ (channel : Nat) (s : State),
    ¬ (64 ≤ channel) →
    ¬ (!s.aux.pllLocked) →
    let x := s.chan channel
    ∀ h, x.reading = some h →
    ¬ ((s.liveBuf h.handle).any (fun b => b.lost)) →
    ¬ (!s.mayMove x) →
    let a := s.setChan channel { s.moves x h.bytes.length with reading := none, taken := [], frameSeq := (x.frameSeq + 1) % 65536 }
    let b := { a with hif.writeBacks := a.hif.writeBacks ++ puntBacks channel x.frameSeq (fillDescs h.bytes x.taken) }
    let d := if h.telemetry.isNone && bit (byteAt h.bytes 51) 0 && b.owns h.handle (ownerOf channel) then
        match b.handle h.handle with
        | some (p, i, _) => b.setPoolBuf p i { b.poolBuf p i with dmaDone := some s.time.ticks }
        | none => b
      else (b.release h.handle (ownerOf channel) 1).2
    let e := match h.telemetry with
      | some (_ :: l) => ((numbered 0 l).foldl (fun (a : State) (e : Nat × Nat) => a.count 1809 0 e.1 0 e.2) d).bump 1809 2
      | _ => d
    exec (.puntDmaComplete channel) s =
      done s (((e.bump 1418 5 channel).count 1418 6 channel 0 h.bytes.length).signal x.vector 1)) ∧
  (∀ (channel : Nat) (s : State),
    ¬ (64 ≤ channel) →
    ¬ (!s.aux.pllLocked) →
    ((s.chan channel).enabled && !(s.chan channel).inject && (s.chan channel).headSince.isNone) →
    exec (.puntFrameAtHead channel) s = done s (s.puntHead channel)) ∧
  (∀ (channel : Nat) (s : State),
    ¬ (64 ≤ channel) →
    ¬ (!s.aux.pllLocked) →
    let x := s.chan channel
    ∀ t h r, x.headSince = some t → x.held = h :: r →
    (s.ended t (us x.holdUs) && x.reading.isNone) →
    exec (.puntHoldExpiry channel) s =
      done s (((s.setChan channel { x with held := r, headSince := none }).dropHeld channel 0x3D h).raiseLim 0x0D83 channel
        (fun n => d4 channel ++ d4 n))) ∧
  (∀ (channel : Nat) (s : State),
    ¬ (64 ≤ channel) →
    ¬ (!s.aux.pllLocked) →
    let x := s.chan channel
    ∀ t, x.sopSince = some t →
    (x.inject && s.ended t (us x.holdUs)) →
    let tail := injectTail x.posted.length x.posted
    let a := s.setChan channel { x with
      posted := x.posted.take (x.posted.length - tail.length), sopSince := none }
    exec (.injectHoldExpiry channel) s =
      done s (((a.injectDone channel 0x3E false tail).chanDrop channel 0x3E).freeHandles channel tail)) ∧
  (∀ (channel : Option Nat) (addr : Nat) (err : PcieErr) (s : State),
    let t := (s.setHealth 3).bump 1418 13
    channel = none →
    (err == .writeFailed) →
    exec (.dmaError channel addr err) s = done s t) ∧
  (∀ (channel : Option Nat) (addr : Nat) (err : PcieErr) (s : State),
    let t := (s.setHealth 3).bump 1418 13
    channel = none →
    ¬ (err == .writeFailed) →
    exec (.dmaError channel addr err) s = done s (({ t with hif.fetchStopped := true }.setHealth 1).raise 0x0D84 (d4o none ++
      d8 addr ++ d4 (pcieErrCode err)))) ∧
  (∀ (channel : Option Nat) (addr : Nat) (err : PcieErr) (s : State),
    let t := (s.setHealth 3).bump 1418 13
    ∀ c, channel = some c →
    ¬ (64 ≤ c) →
    let x := s.chan c
    let u := match injectUnit [] x.posted with
      | some (unit, _) => if x.inject && x.enabled then (t.chanDrop c 0x3F).freeHandles c unit else t
      | none => t
    exec (.dmaError channel addr err) s = done s ((u.chanOff c false).raise 0x0D84 (d4 c ++ d8 addr ++
      d4 (pcieErrCode err)))) ∧
  (∀ (s : State),
    exec .functionLevelReset s = done s s.linkReset) ∧
  (∀ (s : State),
    let t := s.linkReset
    exec .pcieLinkLoss s = done s { t with hif.linkUp := false }) ∧
  (∀ (s : State),
    exec .busMasterOff s = done s s.linkReset) ∧
  (∀ (s : State),
    ¬ (s.mode.mode == mdStandby) →
    exec .pcieLinkUp s = done s { s with hif.linkUp := true, aux.perst.low := false }) ∧
  (∀ (channel : Nat) (data : Bytes) (s : State),
    ¬ (64 ≤ channel) →
    let x := s.chan channel
    ¬ (!(x.enabled && x.inject && s.hif.linkUp && s.dataPlaneOn && s.mayMove x)) →
    ∀ unit rest, injectUnit [] x.posted = some (unit, rest) →
    let a := s.setChan channel { s.moves x data.length with posted := rest }
    let reject (t : State) : State :=
      ((t.injectDone channel 0x3E false unit).chanDrop channel 0x3E).raiseLim 0x0D85 channel (fun n =>
        d4 channel ++ d4 x.frameSeq ++ d4 0x3E ++ d4 n)
    a.injectStream channel unit data = none →
    exec (.injectFrameRead channel data) s = done s ((reject a).freeHandles channel unit)) ∧
  (∀ (channel : Nat) (data : Bytes) (s : State),
    ¬ (64 ≤ channel) →
    let x := s.chan channel
    ¬ (!(x.enabled && x.inject && s.hif.linkUp && s.dataPlaneOn && s.mayMove x)) →
    ∀ unit rest, injectUnit [] x.posted = some (unit, rest) →
    let a := s.setChan channel { s.moves x data.length with posted := rest }
    ∀ b h, a.injectStream channel unit data = some (b, h) →
    (h.any (fun k => (a.liveBuf k).any (fun z => z.lost))) →
    exec (.injectFrameRead channel data) s =
      done s (((a.injectDone channel 0x3C false unit).bump 908 10).freeHandles channel unit)) ∧
  (∀ (channel : Nat) (data : Bytes) (s : State),
    ¬ (64 ≤ channel) →
    let x := s.chan channel
    ¬ (!(x.enabled && x.inject && s.hif.linkUp && s.dataPlaneOn && s.mayMove x)) →
    ∀ unit rest, injectUnit [] x.posted = some (unit, rest) →
    let a := s.setChan channel { s.moves x data.length with posted := rest }
    let reject (t : State) : State :=
      ((t.injectDone channel 0x3E false unit).chanDrop channel 0x3E).raiseLim 0x0D85 channel (fun n =>
        d4 channel ++ d4 x.frameSeq ++ d4 0x3E ++ d4 n)
    let free (t : State) (h : Nat) : State := (t.release h (ownerOf channel) 1).2
    ∀ b h, a.injectStream channel unit data = some (b, h) →
    ¬ (h.any (fun k => (a.liveBuf k).any (fun z => z.lost))) →
    (!a.injectOk b) →
    exec (.injectFrameRead channel data) s = done s (match h with | some k => free (reject a) k | none => reject a)) ∧
  (∀ (channel : Nat) (data : Bytes) (s : State),
    ¬ (64 ≤ channel) →
    let x := s.chan channel
    ¬ (!(x.enabled && x.inject && s.hif.linkUp && s.dataPlaneOn && s.mayMove x)) →
    ∀ unit rest, injectUnit [] x.posted = some (unit, rest) →
    let a := s.setChan channel { s.moves x data.length with posted := rest }
    let free (t : State) (h : Nat) : State := (t.release h (ownerOf channel) 1).2
    ∀ b h, a.injectStream channel unit data = some (b, h) →
    let ts := bit (byteAt b 2) 0
    let accept (t : State) (h : Nat) : State :=
      let u := ((t.injectDone channel 0 ts unit).bump 1418 7 channel).count 1418 8 channel 0 (b.length - 32)
      free (u.injectHand b) h
    ¬ (h.any (fun k => (a.liveBuf k).any (fun z => z.lost))) →
    ¬ (!a.injectOk b) →
    ∀ k, h = some k →
    exec (.injectFrameRead channel data) s = done s (accept a k)) ∧
  (∀ (channel : Nat) (data : Bytes) (s : State),
    ¬ (64 ≤ channel) →
    let x := s.chan channel
    ¬ (!(x.enabled && x.inject && s.hif.linkUp && s.dataPlaneOn && s.mayMove x)) →
    ∀ unit rest, injectUnit [] x.posted = some (unit, rest) →
    let a := s.setChan channel { s.moves x data.length with posted := rest }
    let free (t : State) (h : Nat) : State := (t.release h (ownerOf channel) 1).2
    ∀ b h, a.injectStream channel unit data = some (b, h) →
    let ts := bit (byteAt b 2) 0
    let accept (t : State) (h : Nat) : State :=
      let u := ((t.injectDone channel 0 ts unit).bump 1418 7 channel).count 1418 8 channel 0 (b.length - 32)
      free (u.injectHand b) h
    ¬ (h.any (fun k => (a.liveBuf k).any (fun z => z.lost))) →
    ¬ (!a.injectOk b) →
    h = none →
    ∀ k t, a.poolAlloc channel b = (some k, t) →
    exec (.injectFrameRead channel data) s = done s (accept t k)) ∧
  (∀ (channel : Nat) (data : Bytes) (s : State),
    ¬ (64 ≤ channel) →
    let x := s.chan channel
    ¬ (!(x.enabled && x.inject && s.hif.linkUp && s.dataPlaneOn && s.mayMove x)) →
    ∀ unit rest, injectUnit [] x.posted = some (unit, rest) →
    let a := s.setChan channel { s.moves x data.length with posted := rest }
    ∀ b h, a.injectStream channel unit data = some (b, h) →
    let ts := bit (byteAt b 2) 0
    ¬ (h.any (fun k => (a.liveBuf k).any (fun z => z.lost))) →
    ¬ (!a.injectOk b) →
    h = none →
    ∀ t, a.poolAlloc channel b = (none, t) →
    let p := injectPacket b s.t32
    exec (.injectFrameRead channel data) s =
      done s (((t.injectDone channel 0x3B ts unit).drop3B channel (poolFor b.length)).tsDropped p.port p.tsReq))

/-- Each command of class 0x01 on lane groups, ports and their counters, and each event of a port, its link, its lanes and its
training: once accepted (a command), or once its conditions hold (an event), it completes with the outcome given here. -/
def Obligations.PortsComplete : Prop :=
  (∀ (c : Cmd) (s : State), accepted portGroupSetModeSpec c s = true →
    let g := byteAt c.payload 0
    let m := byteAt c.payload 1
    ¬ (5 < g || 6 < m) →
    ¬ ((m == 1 || m == 2) && s.suiteBars g m) →
    let old := modePorts g (s.grp g).mode
    let a := old.foldl (fun (x : State) p => ((x.portDown p 4).clearTx p).zeroKeys p) s
    let b := a.regroup g m
    let d := b.setGrp g { b.grp g with mode := m, running := m, fbSince := none, lowWindows := 0 }
    let e := (s.modulesOf g).foldl (fun (x : State) k => x.activateModule k)
      ((modePorts g m).foldl (fun (x : State) p => x.retrainLost p) d)
    exec (.portGroupSetMode c) s = s.answered ((e.fixCond 6 (e.ports.any (fun p => !e.hasEngine p))).saveSettings) c) ∧
  (∀ (c : Cmd) (s : State), accepted portConfigSpec c s = true →
    let b := c.payload
    let p := byteAt b 0
    let fl := byteAt b 1
    let lpi := bit fl 4
    ¬ (95 < p) →
    ¬ (!s.portExists p) →
    ¬ (field fl 3 2 == 3 || !inRange (le b 2 2) 1518 9728 || 1000 < le b 4 2 || 1000 < le b 6 2 || le b 12 2 == 0 || (lpi &&
      (!mode100G (s.grp (p / 16)).mode || le b 8 2 < 4 || le b 10 2 < 4))) →
    let x := s.prt p
    let t := s.setPrt p { x with cfg := {
      promisc := bit fl 0, bcast := bit fl 1, mclass := field fl 3 2, filter := filterOf b, lpiEn := lpi
      fbEn := bit fl 5, twTx := if lpi then le b 8 2 else x.cfg.twTx, twRx := if lpi then le b 10 2 else x.cfg.twRx
      lpiIdle := le b 12 2, maxFrame := le b 2 2, upHold := le b 4 2, downHold := le b 6 2 } }
    exec (.portConfig c) s = s.answered ((if lpi then t else t.endLpi p).saveSettings) c) ∧
  (∀ (c : Cmd) (s : State), accepted portAdminSpec c s = true →
    let p := byteAt c.payload 0
    let up := bit (byteAt c.payload 1) 0
    ¬ (!s.portExists p) →
    let t := s.updPrt p (fun x => { x with adminUp := up, rxDisabled := bit (byteAt c.payload 1) 1 })
    let u := if up then ((if (s.prt p).adminUp then t else t.retrainLost p)).startUpHold p
      else (t.portDown p 3).updPrt p (fun x => { x with retryAt := none })
    exec (.portAdmin c) s = s.answered (u.saveSettings) c) ∧
  (∀ (c : Cmd) (s : State), accepted portStatusGetSpec c s = true →
    ¬ (!s.portExists (byteAt c.payload 0)) →
    exec (.portStatusGet c) s = s.answered s c
      (s.portStatus (byteAt c.payload 0))) ∧
  (∀ (c : Cmd) (s : State), accepted portCountersGetSpec c s = true →
    ¬ (!s.portExists (byteAt c.payload 0)) →
    exec (.portCountersGet c) s = s.answered s c
      (s.portCounters (byteAt c.payload 0))) ∧
  (∀ (c : Cmd) (s : State), accepted portRateRestoreSpec c s = true →
    let g := byteAt c.payload 0
    let x := s.grp g
    ¬ (5 < g || x.mode == 0) →
    let t := if bit (byteAt c.payload 1) 0 then s.setGrp g { x with fbDisabled := false } else s
    (x.running == x.mode) →
    exec (.portRateRestore c) s = s.answered t c) ∧
  (∀ (c : Cmd) (s : State), accepted portRateRestoreSpec c s = true →
    let g := byteAt c.payload 0
    let x := s.grp g
    ¬ (5 < g || x.mode == 0) →
    let t := if bit (byteAt c.payload 1) 0 then s.setGrp g { x with fbDisabled := false } else s
    ¬ (x.running == x.mode) →
    exec (.portRateRestore c) s = s.answered ((t.rateChange g x.mode).raise 0x0184 (d4 g ++ d4 1 ++ d4 0)) c) ∧
  (∀ (port : Nat) (s : State),
    ¬ (96 ≤ port) →
    (s.portExists port && s.portsMayTrain && s.allTrained port) →
    let t := s.updPrt port (fun x => { x with
      conditions := true, localFault := false, downSince := if x.remoteFault then x.downSince else none })
    exec (.linkConditionsMet port) s = done s (t.startUpHold port)) ∧
  (∀ (port : Nat) (s : State),
    ¬ (96 ≤ port) →
    let x := s.prt port
    ∀ t, x.upSince = some t →
    (s.ended t (ms x.cfg.upHold) && s.portExists port && s.portsMayTrain && x.conditions && x.adminUp && !x.localFault &&
      !x.remoteFault && !x.up && s.hasEngine port) →
    let a := s.setPrt port { x with
      up := true, upSince := none, lastChange := s.t32, txEmpty := s.time.ticks, attempts := 0, retryAt := none }
    let g := a.grp (port / 16)
    let allUp := (modePorts (port / 16) g.mode).all (fun p => (a.prt p).up)
    let b := if allUp then a.setGrp (port / 16) { g with fbSince := none } else a
    exec (.linkUpHoldExpiry port) s = done s ((b.lagsUp port).raise 0x0181 (d4 port ++ d4 (laneRate g.running)))) ∧
  (∀ (port : Nat) (fault : Bool) (lanesLost : List Nat) (s : State),
    ¬ (96 ≤ port) →
    (s.portExists port) →
    let t := s.updPrt port (fun x => { x with
      conditions := false, localFault := fault || x.localFault
      trained := x.trained.filter (fun l => !lanesLost.contains l) })
    exec (.linkConditionLost port fault lanesLost) s = done s (t.loseLink port (b2n fault))) ∧
  (∀ (port : Nat) (s : State),
    ¬ (96 ≤ port) →
    let x := s.prt port
    ∀ t reason, x.downSince = some (t, reason) →
    (s.ended t (ms x.cfg.downHold) && x.up && (!x.conditions || x.remoteFault || x.localFault)) →
    exec (.linkDownHoldExpiry port) s = done s ((s.portDown port reason).retrainLost port)) ∧
  (∀ (port : Nat) (s : State),
    ¬ (96 ≤ port) →
    (s.portExists port) →
    exec (.remoteFault port) s = done s ((s.updPrt port (fun x => { x with remoteFault := true })).loseLink port 1)) ∧
  (∀ (report : PortFec) (s : State),
    ¬ (96 ≤ report.port) →
    let port := report.port
    (s.portExists port && s.portsMayTrain) →
    let a := s.fecReport port report.fec
    ((a.prt port).fecTimes.length ≤ 10) →
    exec (.fecThreshold report) s = done s a) ∧
  (∀ (report : PortFec) (s : State),
    ¬ (96 ≤ report.port) →
    let port := report.port
    (s.portExists port && s.portsMayTrain) →
    let a := s.fecReport port report.fec
    ¬ ((a.prt port).fecTimes.length ≤ 10) →
    let t := (a.portDown port 2).updPrt port (fun x => { x with conditions := false, fecTimes := [] })
    exec (.fecThreshold report) s = done s (if (s.prt port).adminUp then t.train port (s.portLanes port) else t)) ∧
  (∀ (lane : Nat) (trained : Bool) (s : State),
    ¬ (96 ≤ lane) →
    ∀ p, s.laneOwner lane = some p →
    let late := s.ended ((s.prt p).trainAt.getD lane 0) (ms 500)
    ((s.prt p).training.contains lane && (trained || late)) →
    let t := s.updPrt p (fun x => { x with
      training := x.training.filter (fun l => l != lane)
      trained := if trained && !late then x.trained ++ [lane] else x.trained })
    exec (.laneTrainingEnd lane trained) s = done s (if (t.prt p).training.isEmpty then t.attemptEnd p else t)) ∧
  (∀ (port : Nat) (s : State),
    ¬ (96 ≤ port) →
    let x := s.prt port
    ∀ t, x.retryAt = some t →
    (s.ended t (secs 10) && s.portExists port && s.portsMayTrain && x.adminUp && !x.up) →
    exec (.trainingRetry port) s = done s (s.train port (s.lostLanes port))) ∧
  (∀ (group : Nat) (rxTx : List (Nat × Nat × Nat)) (s : State),
    ¬ (6 ≤ group) →
    (s.ended (s.grp group).winStart (ms 100)) →
    let t := s.setGrp group { s.grp group with winStart := s.time.ticks }
    exec (.fallbackWindow group rxTx) s =
      done s (if s.mayFallBack group then t.fallbackStep group rxTx
        else t.setGrp group { t.grp group with lowWindows := 0 })) ∧
  (∀ (group : Nat) (s : State),
    ¬ (6 ≤ group) →
    let x := s.grp group
    ∀ t, x.fbSince = some t →
    (s.ended t (secs 2) && x.running != x.mode && s.mayFallBack group) →
    let a := s.rateChange group x.mode
    exec (.fallbackTimeout group) s =
      done s ((a.setGrp group { a.grp group with fbDisabled := true, fbSince := none }).raise 0x0184
        (d4 group ++ d4 1 ++ d4 1))) ∧
  (∀ (port : Nat) (s : State),
    ¬ (96 ≤ port) →
    let x := s.prt port
    (s.portExists port && x.up && x.cfg.lpiEn && mode100G (s.grp (port / 16)).mode && !x.lpi && x.txBuf.isEmpty &&
      x.sending.isNone && (s.mode.mode == mdForwarding || s.mode.mode == mdParked) && s.ended x.txEmpty (us x.cfg.lpiIdle)) →
    exec (.lpiIdleEntry port) s = done s ((s.setPrt port { x with lpi := true, lpiSince := s.time.ticks }).bump 207 12 port)) ∧
  (∀ (port : Nat) (s : State),
    ¬ (96 ≤ port) →
    (s.portExists port) →
    exec (.remoteFaultCleared port) s =
      done s ((s.updPrt port (fun x => { x with
        remoteFault := false, downSince := if x.conditions then none else x.downSince })).startUpHold port)) ∧
  (∀ (port : Nat) (s : State),
    ¬ (96 ≤ port) →
    ¬ (!s.aux.pllLocked) →
    let x := s.prt port
    (x.sending.isSome) →
    exec (.frameTransmitted port) s =
      done s (s.setPrt port { x with sending := none, txEmpty := if x.txBuf.isEmpty then s.time.ticks else x.txEmpty }))

/-- Each command on pluggable modules and ledgers, and each event of a module, its inputs, its bus and its ledger: once
accepted (a command), or once its conditions hold (an event), it completes with the outcome given here. -/
def Obligations.ModulesComplete : Prop :=
  (∀ (c : Cmd) (s : State), accepted moduleReadSpec c s = true →
    let b := c.payload
    let m := byteAt b 0
    ¬ (s.accessStatus b != 0) →
    ¬ (!s.busUp m || (s.mod_ m).unresponsive) →
    ((s.mod_ m).retries != 0) →
    exec (.moduleRead c) s = s.opened s c (.moduleAccess m false)) ∧
  (∀ (c : Cmd) (s : State), accepted moduleReadSpec c s = true →
    let b := c.payload
    let m := byteAt b 0
    ¬ (s.accessStatus b != 0) →
    ¬ (!s.busUp m || (s.mod_ m).unresponsive) →
    ¬ ((s.mod_ m).retries != 0) →
    exec (.moduleRead c) s = s.answered s c
      (s.moduleBytes b)) ∧
  (∀ (c : Cmd) (s : State), accepted moduleWriteSpec c s = true →
    let b := c.payload
    let m := byteAt b 0
    ¬ (s.accessStatus b != 0) →
    ¬ (identityWrite b || (dataPathWrite b && s.modulePortsUp m)) →
    ¬ (!s.busUp m || (s.mod_ m).unresponsive) →
    ((s.mod_ m).retries != 0) →
    exec (.moduleWrite c) s = s.opened s c (.moduleAccess m true)) ∧
  (∀ (c : Cmd) (s : State), accepted moduleWriteSpec c s = true →
    let b := c.payload
    let m := byteAt b 0
    ¬ (s.accessStatus b != 0) →
    ¬ (identityWrite b || (dataPathWrite b && s.modulePortsUp m)) →
    ¬ (!s.busUp m || (s.mod_ m).unresponsive) →
    ¬ ((s.mod_ m).retries != 0) →
    exec (.moduleWrite c) s = s.answered (s.moduleStore b) c) ∧
  (∀ (c : Cmd) (s : State), accepted moduleIntUnmaskSpec c s = true →
    let m := byteAt c.payload 0
    let f := byteAt c.payload 1
    let x := s.mod_ m
    ¬ (47 < m) →
    exec (.moduleIntUnmask c) s = s.answered (s.setMod m { x with intMasked := x.intMasked && !bit f 0, presMasked := x.presMasked && !bit f 1, intTimes := if bit f 0 then [] else x.intTimes, intClearedAt := if bit f 0 then none else x.intClearedAt }) c) ∧
  (∀ (c : Cmd) (s : State), accepted ledgerReadSpec c s = true →
    let f := le c.payload 0 2
    let n := le c.payload 2 2
    ¬ (!inRange n 1 64 || 16320 < f + n) →
    exec (.ledgerRead c) s = s.answered s c
      ((List.range n).flatMap (fun i => match s.port.ledger[f + i]? with | some r => ledgerBytes r | none => zeros 64))) ∧
  (∀ (c : Cmd) (s : State), accepted ledgerSetRatingSpec c s = true →
    let v := slice c.payload 0 16
    let n := slice c.payload 16 16
    ¬ ((ledgerFind s.port.ledger v n).isNone) →
    exec (.ledgerSetRating c) s = s.answered (s.ledgerUpd v n (fun r => { r with ratedH := le c.payload 32 4 })) c) ∧
  (∀ (c : Cmd) (s : State), accepted moduleMapSetSpec c s = true →
    let m := byteAt c.payload 0
    let f := byteAt c.payload 1
    let n := byteAt c.payload 2
    ¬ (47 < m || !inRange n 1 8 || 96 < f + n) →
    ¬ ((List.range n).any (fun i => (s.lanesTaken m).contains (f + i))) →
    exec (.moduleMapSet c) s = s.answered ((s.setMod m { s.mod_ m with lanes := some (f, n) }).activateModule m) c) ∧
  (∀ (module : Nat) (page0 : Bytes) (s : State),
    ¬ (48 ≤ module) →
    let x := s.mod_ module
    ¬ (x.present || x.presMasked || !s.fwRuns) →
    let mem := (numbered 0 (page0.take 256)).foldl (fun (a : List Host.Cell) e => Tbl.set a e.1 e.2) []
    let a := s.setMod module { x with
      present := true, active := false, app := none, alarms := [], unresponsive := false, retries := 0
      intMasked := false, intTimes := [], intClearedAt := none, monitorAt := s.time.ticks
      presTimes := s.recentChanges module }
    (s.busUp module) →
    let b := a.setMod module { a.mod_ module with
      mem := mem, vendor := slice page0 129 16, serial := slice page0 166 16
      txDisabled := s.mode.mode == mdConfigure || s.mode.mode == mdQuarantine }
    let d := ((b.ledgerInsert (slice page0 129 16) (slice page0 166 16)).activateModule module).raise 0x0186
      (d4 module ++ padTo 16 (slice page0 129 16) ++ padTo 16 (slice page0 166 16))
    exec (.moduleInserted module page0) s = done s ((d.ratingCheck module).presenceCheck module)) ∧
  (∀ (module : Nat) (page0 : Bytes) (s : State),
    ¬ (48 ≤ module) →
    let x := s.mod_ module
    ¬ (x.present || x.presMasked || !s.fwRuns) →
    let a := s.setMod module { x with
      present := true, active := false, app := none, alarms := [], unresponsive := false, retries := 0
      intMasked := false, intTimes := [], intClearedAt := none, monitorAt := s.time.ticks
      presTimes := s.recentChanges module }
    ¬ (s.busUp module) →
    exec (.moduleInserted module page0) s = done s (a.presenceCheck module)) ∧
  (∀ (module : Nat) (s : State),
    ¬ (48 ≤ module) →
    let x := s.mod_ module
    ¬ (!x.present || x.presMasked || !s.fwRuns) →
    let a := s.setMod module { lanes := x.lanes, intMasked := x.intMasked, presTimes := s.recentChanges module }
    let b := (a.ledgerUpd x.vendor x.serial (fun r => { r with lastSeenH := s.hours })).ledgerWrite
    exec (.moduleRemoved module) s =
      done s (((b.moduleAborts module stNotFound).raise 0x0187 (d4 module)).presenceCheck module)) ∧
  (∀ (module : Nat) (flags : List CmisFlag) (s : State),
    ¬ (48 ≤ module) →
    ¬ (!s.aux.pllLocked) →
    let x := s.mod_ module
    ¬ (x.intMasked) →
    let times := x.intTimes.filter (fun t => s.time.ticks < t + secs 1) ++ [s.time.ticks]
    let a := s.setMod module { x with intTimes := times }
    let b := if x.present && s.fwRuns && s.busUp module then
        let r := (a.moduleAnswers module).moduleFlags module flags
        r.setMod module { r.mod_ module with intClearedAt := some s.time.ticks }
      else a
    exec (.moduleInterrupt module flags) s = done s (if 100 < times.length then b.maskInterrupt module 1 else b)) ∧
  (∀ (module : Nat) (tempC : Int) (bias : Nat) (power : Nat) (flags : List CmisFlag) (s : State),
    ¬ (48 ≤ module) →
    ((s.mod_ module).present && s.fwRuns && s.busUp module && s.ended (s.mod_ module).monitorAt (secs 1)) →
    let a := s.setMod module { s.mod_ module with tempC, bias, power, monitorAt := s.time.ticks }
    exec (.moduleMonitorPoll module tempC bias power flags) s = done s ((a.moduleAnswers module).moduleFlags module flags)) ∧
  (∀ (s : State),
    (s.fwRuns && s.ended s.port.accumAt (secs 1)) →
    let a : State := { s with port.accumAt := s.time.ticks, port.opSeconds := s.port.opSeconds + 1 }
    exec .ledgerAccumulation s =
      done s (a.port.mods.foldl (fun (t : State) e =>
        if !e.2.present then t
        else
          let u := if e.2.active && !e.2.txDisabled then
              t.ledgerUpd e.2.vendor e.2.serial (fun r => { r with
                laserOnSec := r.laserOnSec + 1, weightedQSec := r.weightedQSec + tempWeight e.2.tempC })
            else t
          u.ratingCheck e.1) a)) ∧
  (∀ (s : State),
    (s.fwRuns && s.ended s.port.ledgerAt (secs 3600)) →
    exec .ledgerHourlyWrite s = done s ({ s with port.ledgerAt := s.time.ticks }.ledgerWrite)) ∧
  (∀ (module : Nat) (s : State),
    ¬ (48 ≤ module) →
    ¬ (!s.aux.pllLocked) →
    ∀ t, (s.mod_ module).intClearedAt = some t →
    (s.ended t (secs 1)) →
    exec (.interruptStuck module) s = done s (s.maskInterrupt module 0)) ∧
  (∀ (input : PresenceChanges) (s : State),
    ¬ (48 ≤ input.module) →
    let module := input.module
    let x := s.mod_ module
    let times := x.presTimes.filter (fun t => s.time.ticks < t + secs 1) ++ List.replicate (min 11 input.changes) s.time.ticks
    ¬ (x.presMasked || !s.aux.pllLocked) →
    exec (.presenceChatter input) s = done s ((s.setMod module { x with presTimes := times }).presenceCheck module)) ∧
  (∀ (module : Nat) (flags : List CmisFlag) (s : State),
    ¬ (48 ≤ module) →
    ((s.mod_ module).present && (s.mod_ module).intMasked && s.fwRuns && s.busUp module &&
      s.ended (s.mod_ module).polledAt (ms 100)) →
    exec (.maskedInputPoll module flags) s =
      done s (((s.setMod module { s.mod_ module with polledAt := s.time.ticks }).moduleAnswers module).moduleFlags module flags)) ∧
  (∀ (module : Nat) (s : State),
    ¬ (48 ≤ module) →
    let x := s.mod_ module
    ¬ (!x.present || x.unresponsive || !s.fwRuns) →
    (x.retries < 3) →
    exec (.moduleAccessUnacknowledged module) s = done s (s.setMod module { x with retries := x.retries + 1 })) ∧
  (∀ (module : Nat) (s : State),
    ¬ (48 ≤ module) →
    let x := s.mod_ module
    ¬ (!x.present || x.unresponsive || !s.fwRuns) →
    ¬ (x.retries < 3) →
    let a := s.setMod module { x with retries := 0, unresponsive := true }
    exec (.moduleAccessUnacknowledged module) s = done s ((a.moduleAborts module stTimeout).raise 0x0189 (d4 module ++ d4 1 ++
      d4 0))) ∧
  (∀ (bus : Nat) (recovered : Bool) (s : State),
    ¬ (6 ≤ bus) →
    ¬ (!s.aux.pllLocked) →
    ¬ (recovered || s.port.busFailed.contains bus) →
    let a : State := { s with port.busFailed := s.port.busFailed ++ [bus] }
    let b := (List.range 8).foldl (fun (t : State) i => t.moduleAborts (8 * bus + i) stTimeout) a
    exec (.busDataLineLow bus recovered) s = done s (b.raise 0x0189 (d4 (8 * bus) ++ d4 2 ++ d4 0)))

/-- Each command of class 0x02 and the switch of a transmit SA: once accepted (a command), or once its conditions hold (an
event), it completes with the outcome given here. -/
def Obligations.LinkSecurityComplete : Prop :=
  (∀ (c : Cmd) (s : State), accepted secyConfigSpec c s = true →
    let b := c.payload
    let p := byteAt b 0
    let su := byteAt b 1
    let fl := byteAt b 2
    let gm := (s.grp (p / 16)).mode
    ¬ (!s.portExists p) →
    ¬ (!inRange su 1 4 || field fl 2 1 == 3 || !([0, 30, 50].contains (byteAt b 3)) || !inRange (le b 4 2) 1 100 || (su ≤ 2 &&
      (gm == 1 || gm == 2))) →
    exec (.secyConfig c) s = s.answered (State.saveSettings <| s.setSecy p { s.secy p with suite := su, enabled := bit fl 0, validation := field fl 2 1, includeSci := bit fl 3, confidential := bit fl 4, verify := bit fl 5, confOffset := byteAt b 3, launchUs := le b 4 2, txSci := le b 8 8, pnWarn := le b 16 8 }) c) ∧
  (∀ (c : Cmd) (s : State), accepted scSetSpec c s = true →
    let b := c.payload
    let p := byteAt b 0
    let k := byteAt b 1
    let sci := le b 2 8
    let w := le b 10 4
    let y := s.secy p
    ¬ (!s.portExists p) →
    ¬ (!inRange k 1 3 || (suiteXpn y.suite && 1073741824 < w)) →
    ¬ (y.rx.any (fun e => e.1 != k && e.2.sci == sci)) →
    let z := if ((Tbl.get? y.rx k).map (fun x => x.sci == sci)).getD true then y else y.dropSas k
    exec (.scSet c) s = s.answered (s.setSecy p { z with rx := z.rx.set k { sci, window := w } }) c) ∧
  (∀ (c : Cmd) (s : State), accepted scClearSpec c s = true →
    let p := byteAt c.payload 0
    let k := byteAt c.payload 1
    let y := s.secy p
    ¬ (!s.portExists p || (Tbl.get? y.rx k).isNone) →
    let z := y.dropSas k
    exec (.scClear c) s = s.answered (s.setSecy p { z with rx := z.rx.del k }) c) ∧
  (∀ (c : Cmd) (s : State), accepted saInstallSpec c s = true →
    let b := c.payload
    let p := byteAt b 0
    let k := byteAt b 1
    let n := byteAt b 2
    let y := s.secy p
    let reservedSet := (suiteKey y.suite == 16 && !rsv b 32 16) || (!suiteXpn y.suite && !rsv b 48 16)
    ¬ (s.portExists p && reservedSet) →
    ¬ (!s.portExists p) →
    ¬ (3 < k || 1 < n || 3 < byteAt b 3 || le b 8 8 == 0 || suiteMaxPn y.suite < le b 8 8) →
    ¬ (k != 0 && (Tbl.get? y.rx k).isNone) →
    ¬ ((y.sa k n).isSome || ((y.sa k (1 - n)).map (fun a => a.an == byteAt b 3)).getD false) →
    let sa : Sa := {
      an := byteAt b 3, keyId := le b 4 4, key := slice b 16 (suiteKey y.suite), salt := le b 48 12, ssci := le b 60 4
      nextPn := le b 8 8 }
    exec (.saInstall c) s = s.answered (s.setSecy p { y with sas := y.sas.set (2 * k + n) sa, lost := y.lost.filter (fun e => !(e.1 / 2 == k && (k == 0 || e.1 == 2 * k + n || e.2 == byteAt b 3))), txInUse := if k == 0 && y.txLost then none else y.txInUse }) c) ∧
  (∀ (c : Cmd) (s : State), accepted saEnableRxSpec c s = true →
    let b := c.payload
    let p := byteAt b 0
    let k := byteAt b 1
    let n := byteAt b 2
    let y := s.secy p
    ¬ (!s.portExists p || !inRange k 1 3 || 1 < n) →
    ∀ a, y.sa k n = some a →
    ¬ (1 < byteAt b 3) →
    exec (.saEnableRx c) s = s.answered (s.setSecy p { y with sas := y.sas.set (2 * k + n) { a with rxEn := byteAt b 3 == 1 } }) c) ∧
  (∀ (c : Cmd) (s : State), accepted saTxSwitchSpec c s = true →
    let p := byteAt c.payload 0
    let n := byteAt c.payload 1
    let t := BitVec.ofNat 32 (le c.payload 4 4)
    let y := s.secy p
    ¬ (!s.portExists p || 1 < n || (y.sa 0 n).isNone) →
    (t == 0) →
    exec (.saTxSwitch c) s = s.answered (s.setSecy p { y with txInUse := some n }) c) ∧
  (∀ (c : Cmd) (s : State), accepted saTxSwitchSpec c s = true →
    let p := byteAt c.payload 0
    let n := byteAt c.payload 1
    let t := BitVec.ofNat 32 (le c.payload 4 4)
    let y := s.secy p
    ¬ (!s.portExists p || 1 < n || (y.sa 0 n).isNone) →
    ¬ (t == 0) →
    ¬ (!T32.validCommit s.t32 t) →
    exec (.saTxSwitch c) s = s.answered (s.setSecy p { y with switch := some (n, t) }) c) ∧
  (∀ (c : Cmd) (s : State), accepted saDeleteSpec c s = true →
    let p := byteAt c.payload 0
    let k := byteAt c.payload 1
    let n := byteAt c.payload 2
    let y := s.secy p
    ¬ (!s.portExists p || 3 < k || 1 < n || (y.sa k n).isNone) →
    ¬ (k == 0 && y.txInUse == some n) →
    exec (.saDelete c) s = s.answered (s.setSecy p { y with sas := y.sas.del (2 * k + n) }) c) ∧
  (∀ (c : Cmd) (s : State), accepted saStatusGetSpec c s = true →
    let p := byteAt c.payload 0
    let k := byteAt c.payload 1
    let y := s.secy p
    ¬ (!s.portExists p || 3 < k || (k != 0 && (Tbl.get? y.rx k).isNone)) →
    exec (.saStatusGet c) s = s.answered s c
      (saStatus y k 0 ++ saStatus y k 1)) ∧
  (∀ (c : Cmd) (s : State), accepted secyCountersGetSpec c s = true →
    let p := byteAt c.payload 0
    ¬ (!s.portExists p) →
    exec (.secyCountersGet c) s = s.answered s c
      ((numbered 0 secyCounts).flatMap (fun e => (List.range e.2).flatMap (fun j => toLe 8 (s.ctrVal 307 e.1 p j))))) ∧
  (∀ (port : Nat) (s : State),
    ¬ (96 ≤ port) →
    ¬ (!s.aux.pllLocked) →
    let y := s.secy port
    ∀ n t, y.switch = some (n, t) →
    (s.t32.reached t) →
    exec (.saSwitchDue port) s =
      done s (s.setSecy port { y with
        switch := none, txInUse := if (y.sa 0 n).isSome then some n else y.txInUse }))

/-- Each command on parse policies, hash profiles, slow-path classes and load-balancing groups: once accepted (a command), or
once its conditions hold (an event), it completes with the outcome given here. -/
def Obligations.ParserCommandsComplete : Prop :=
  (∀ (c : Cmd) (s : State), accepted parsePolicySetSpec c s = true →
    let b := c.payload
    let p := byteAt b 0
    let fl := byteAt b 1
    ¬ (!s.portExists p) →
    ¬ (field fl 2 1 == 3 || le b 2 2 == 0 || 15 < byteAt b 4) →
    exec (.parsePolicySet c) s = s.answered (s.updPrt p (fun x => { x with policy := { depthPunt := bit fl 0, unknown := field fl 2 1, hbhPunt := bit fl 3, vxlan := bit fl 4, gre := bit fl 5, vxlanPort := le b 2 2, hashProfile := byteAt b 4 } })) c) ∧
  (∀ (c : Cmd) (s : State), accepted parsePolicyGetSpec c s = true →
    let p := byteAt c.payload 0
    let x := (s.prt p).policy
    ¬ (!s.portExists p) →
    exec (.parsePolicyGet c) s = s.answered s c
      (toLe 1 p ++ toLe 1 (b2n x.depthPunt + 2 * x.unknown + 8 * b2n x.hbhPunt + 16 * b2n x.vxlan + 32 * b2n x.gre) ++
        toLe 2 x.vxlanPort ++ toLe 1 x.hashProfile ++ zeros 3)) ∧
  (∀ (c : Cmd) (s : State), accepted hashProfileSetSpec c s = true →
    let b := c.payload
    let f := byteAt b 1
    ¬ (15 < byteAt b 0 || f % 4 == 3 || f / 4 == 3) →
    exec (.hashProfileSet c) s = s.answered ({ s with parse.profiles := s.parse.profiles.set (byteAt b 0) { fnA := f % 4, fnB := f / 4, mask := le b 2 2, seedA := le b 4 4, seedB := le b 8 4 } }) c) ∧
  (∀ (c : Cmd) (s : State), accepted parseCountersGetSpec c s = true →
    let p := byteAt c.payload 0
    ¬ (!s.portExists p) →
    exec (.parseCountersGet c) s = s.answered s c
      ((numbered 0 parseCounts).flatMap (fun e => (List.range e.2).flatMap (fun j => toLe 8 (s.ctrVal 412 e.1 p j))) ++
        (List.range 63).flatMap (fun k => toLe 8 (s.ctrVal 412 6 k)) ++ toLe 8 (s.ctrVal 412 7))) ∧
  (∀ (c : Cmd) (s : State), accepted parseTestSpec c s = true →
    let p := byteAt c.payload 0
    let n := le c.payload 2 2
    ¬ (!s.portExists p) →
    ¬ (!inRange n 14 192) →
    exec (.parseTest c) s = s.answered s c
      ((parseFrame (s.prt p).policy (s.hashProf p) p 0 false (slice c.payload 4 n)).1.encode)) ∧
  (∀ (c : Cmd) (s : State), accepted slowpathClassSetSpec c s = true →
    let b := c.payload
    let k := byteAt b 0
    let ch := byteAt b 1
    let rate := le b 4 4
    let burst := le b 8 2
    ¬ (!inRange k 1 0x3F || k == 0x0E || 10000000 < rate || (rate != 0 && burst == 0)) →
    ¬ (ch != 0 && !((s.chan ch).configured && !(s.chan ch).inject)) →
    let x := s.slowNow k
    let tokens := if x.rate == 0 then burst * packetToken else Nat.min x.tokens (burst * packetToken)
    exec (.slowpathClassSet c) s = s.answered ({ s with parse.classes := s.parse.classes.set k { channel := ch, rate, burst, tokens, at_ := s.time.ticks } }) c) ∧
  (∀ (c : Cmd) (s : State), accepted lbMemberAddSpec c s = true →
    let b := c.payload
    let g := le b 2 2
    let v := le b 4 4
    (byteAt b 0 == 0) →
    ∀ x, s.tbl.ecmps.get? g = some x →
    ¬ (s.retiring 1 g) →
    ¬ (!(v < 1048576 && s.nexthopSet? v)) →
    ¬ ((memberPos x.members v).isSome) →
    ¬ (128 ≤ x.members.length) →
    let r := addMember x.members x.slots v
    let y := { x with members := r.1, slots := r.2 }
    (x.members.length < x.capacity) →
    exec (.lbMemberAdd c) s = s.answered (({ s with tbl.ecmps := s.tbl.ecmps.set g y }.unpoison 5 (x.base + emptyPos x.members)).wrote (1 + changedSlots x.slots r.2)) c) ∧
  (∀ (c : Cmd) (s : State), accepted lbMemberAddSpec c s = true →
    let b := c.payload
    let g := le b 2 2
    let v := le b 4 4
    (byteAt b 0 == 0) →
    ∀ x, s.tbl.ecmps.get? g = some x →
    ¬ (s.retiring 1 g) →
    ¬ (!(v < 1048576 && s.nexthopSet? v)) →
    ¬ ((memberPos x.members v).isSome) →
    ¬ (128 ≤ x.members.length) →
    let r := addMember x.members x.slots v
    let y := { x with members := r.1, slots := r.2 }
    ¬ (x.members.length < x.capacity) →
    ∀ base, s.freeRun (x.capacity + 8) = some base →
    let t := (s.movePoison x.base base x.capacity).unpoison 5 (base + emptyPos x.members)
    exec (.lbMemberAdd c) s = s.answered ((({ t with tbl.ecmps := t.tbl.ecmps.set g { y with capacity := x.capacity + 8, base := base }, tbl.oldRuns := t.tbl.oldRuns ++ [(g, x.base, x.capacity)] }).notePoolFill).wrote (2 + x.members.length + changedSlots x.slots r.2)) c) ∧
  (∀ (c : Cmd) (s : State), accepted lbMemberAddSpec c s = true →
    let b := c.payload
    let g := le b 2 2
    let v := le b 4 4
    ¬ (byteAt b 0 == 0) →
    (byteAt b 0 == 1) →
    let x := s.parse.lags.getD g {}
    ¬ (128 ≤ g) →
    ¬ (32768 ≤ v) →
    ¬ ((memberPos x.members v).isSome) →
    ¬ (64 ≤ x.members.length) →
    let r := addMember x.members x.slots v
    exec (.lbMemberAdd c) s = s.answered ({ s with parse.lags := s.parse.lags.set g { x with members := r.1, slots := r.2 } }.wrote (1 + changedSlots x.slots r.2)) c) ∧
  (∀ (c : Cmd) (s : State), accepted lbMemberRemoveSpec c s = true →
    let b := c.payload
    let g := le b 2 2
    let v := le b 4 4
    (byteAt b 0 == 0) →
    ∀ x, s.tbl.ecmps.get? g = some x →
    ∀ m, memberPos x.members v = some m →
    ¬ (s.retiring 1 g) →
    ¬ (x.members.length == 1) →
    let r := dropMember x.members x.slots m
    exec (.lbMemberRemove c) s = s.answered (({ s with tbl.ecmps := s.tbl.ecmps.set g { x with members := r.1, slots := r.2 } }.unpoison 5 (x.base + m)).wrote (changedSlots x.slots r.2)) c) ∧
  (∀ (c : Cmd) (s : State), accepted lbMemberRemoveSpec c s = true →
    let b := c.payload
    let g := le b 2 2
    let v := le b 4 4
    ¬ (byteAt b 0 == 0) →
    (byteAt b 0 == 1) →
    let x := s.parse.lags.getD g {}
    ¬ (128 ≤ g) →
    ∀ m, memberPos x.members v = some m →
    ¬ (x.members.length == 1) →
    let r := dropMember x.members x.slots m
    exec (.lbMemberRemove c) s = s.answered ({ s with parse.lags := s.parse.lags.set g { x with members := r.1, slots := r.2 } }.wrote (changedSlots x.slots r.2)) c) ∧
  (∀ (c : Cmd) (s : State), accepted lbSlotsSetSpec c s = true →
    let b := c.payload
    let g := le b 2 2
    let l := (List.range 256).map (fun i => byteAt b (4 + i))
    (byteAt b 0 == 0) →
    ∀ x, s.tbl.ecmps.get? g = some x →
    ¬ (s.retiring 1 g) →
    ¬ (l.any (fun m => (x.members.get? m).isNone)) →
    exec (.lbSlotsSet c) s = s.answered (({ s with tbl.ecmps := s.tbl.ecmps.set g { x with slots := l } }.unpoison 4 g).wrote (changedSlots x.slots l)) c) ∧
  (∀ (c : Cmd) (s : State), accepted lbSlotsSetSpec c s = true →
    let b := c.payload
    let g := le b 2 2
    let l := (List.range 256).map (fun i => byteAt b (4 + i))
    ¬ (byteAt b 0 == 0) →
    (byteAt b 0 == 1) →
    let x := s.parse.lags.getD g {}
    ¬ (128 ≤ g) →
    ¬ (l.any (fun m => (x.members.get? m).isNone)) →
    exec (.lbSlotsSet c) s = s.answered ({ s with parse.lags := s.parse.lags.set g { x with slots := l } }.wrote (changedSlots x.slots l)) c) ∧
  (∀ (c : Cmd) (s : State), accepted lbSlotsGetSpec c s = true →
    let g := le c.payload 2 2
    (byteAt c.payload 0 == 0) →
    ∀ x, s.tbl.ecmps.get? g = some x →
    exec (.lbSlotsGet c) s = s.answered s c
      (slotsRecord 0 g x.members x.slots (fun _ => true))) ∧
  (∀ (c : Cmd) (s : State), accepted lbSlotsGetSpec c s = true →
    let g := le c.payload 2 2
    ¬ (byteAt c.payload 0 == 0) →
    (byteAt c.payload 0 == 1) →
    let x := s.parse.lags.getD g {}
    ¬ (128 ≤ g) →
    exec (.lbSlotsGet c) s = s.answered s c
      (slotsRecord 1 g x.members x.slots s.memberLive))

/-- The reception of a frame, a slot of the parser pipelines and a parser fault: once accepted (a command), or once its
conditions hold (an event), it completes with the outcome given here. -/
def Obligations.FrameReceptionCompletes : Prop :=
  (∀ (port : Nat) (f : RxInput) (s : State),
    ¬ (96 ≤ port) →
    let x := s.prt port
    ¬ (!(s.portExists port && x.up && s.dataPlaneOn)) →
    let g := s.fecReport port f.fec
    let b := f.bytes
    let body := b.take (b.length - 4)
    let early := f.headFirst && x.rxBuf.isEmpty && 192 < b.length && (f.errAt.map (fun k => decide (192 ≤ k))).getD true &&
      (g.headChecks port body).isNone
    let tailCode := g.frameChecks port b f.errAt
    ∀ c, tailCode = some c → early = false →
    exec (.receiveFrame port f) s = done s (g.rxDrop port c)) ∧
  (∀ (port : Nat) (f : RxInput) (s : State),
    ¬ (96 ≤ port) →
    let x := s.prt port
    ¬ (!(s.portExists port && x.up && s.dataPlaneOn)) →
    let g := s.fecReport port f.fec
    let b := f.bytes
    let body := b.take (b.length - 4)
    let early := f.headFirst && x.rxBuf.isEmpty && 192 < b.length && (f.errAt.map (fun k => decide (192 ≤ k))).getD true &&
      (g.headChecks port body).isNone
    let tailCode := g.frameChecks port b f.errAt
    ∀ c, tailCode = some c → early = true →
    let v := g.secReceive port body true
    ∀ w0, v.drop = some w0 →
    exec (.receiveFrame port f) s = done s (g.rxDrop port c)) ∧
  (∀ (port : Nat) (f : RxInput) (s : State),
    ¬ (96 ≤ port) →
    let x := s.prt port
    ¬ (!(s.portExists port && x.up && s.dataPlaneOn)) →
    let g := s.fecReport port f.fec
    let b := f.bytes
    let body := b.take (b.length - 4)
    let early := f.headFirst && x.rxBuf.isEmpty && 192 < b.length && (f.errAt.map (fun k => decide (192 ≤ k))).getD true &&
      (g.headChecks port body).isNone
    let tailCode := g.frameChecks port b f.errAt
    let stamp := s.t32 + BitVec.ofInt 32 x.rxAdjust
    ∀ c, tailCode = some c → early = true →
    let v := g.secReceive port body true
    v.drop = none →
    exec (.receiveFrame port f) s =
            done s ((g.rxDrop port c).updPrt port (fun y => { y with rxBuf := y.rxBuf ++
      [{ frame := v.frame, rxT32 := stamp, secured := v.secured, scIndex := v.scIndex, tail := .bad c }] }))) ∧
  (∀ (port : Nat) (f : RxInput) (s : State),
    ¬ (96 ≤ port) →
    let x := s.prt port
    ¬ (!(s.portExists port && x.up && s.dataPlaneOn)) →
    let g := s.fecReport port f.fec
    let b := f.bytes
    let body := b.take (b.length - 4)
    let tailCode := g.frameChecks port b f.errAt
    tailCode = none →
    ∀ c, g.headChecks port body = some c →
    exec (.receiveFrame port f) s = done s (g.rxDrop port c)) ∧
  (∀ (port : Nat) (f : RxInput) (s : State),
    ¬ (96 ≤ port) →
    let x := s.prt port
    ¬ (!(s.portExists port && x.up && s.dataPlaneOn)) →
    let g := s.fecReport port f.fec
    let b := f.bytes
    let body := b.take (b.length - 4)
    let cap := 16384 * modeLanes (s.grp (port / 16)).running
    let early := f.headFirst && x.rxBuf.isEmpty && 192 < b.length && (f.errAt.map (fun k => decide (192 ≤ k))).getD true &&
      (g.headChecks port body).isNone
    let tailCode := g.frameChecks port b f.errAt
    tailCode = none →
    g.headChecks port body = none →
    (!early && cap < x.rxHeld + b.length) →
    exec (.receiveFrame port f) s = done s (g.rxDrop port 0x0A)) ∧
  (∀ (port : Nat) (f : RxInput) (s : State),
    ¬ (96 ≤ port) →
    let x := s.prt port
    ¬ (!(s.portExists port && x.up && s.dataPlaneOn)) →
    let g := s.fecReport port f.fec
    let b := f.bytes
    let body := b.take (b.length - 4)
    let cap := 16384 * modeLanes (s.grp (port / 16)).running
    let early := f.headFirst && x.rxBuf.isEmpty && 192 < b.length && (f.errAt.map (fun k => decide (192 ≤ k))).getD true &&
      (g.headChecks port body).isNone
    let tailCode := g.frameChecks port b f.errAt
    tailCode = none →
    g.headChecks port body = none →
    ¬ (!early && cap < x.rxHeld + b.length) →
    let a := ((g.bump 207 0 port).count 207 1 port 0 b.length).perfCount 0 1 port 1
    let v := a.secReceive port body early
    ∀ w0, v.drop = some w0 →
    exec (.receiveFrame port f) s = done s v.st) ∧
  (∀ (port : Nat) (f : RxInput) (s : State),
    ¬ (96 ≤ port) →
    let x := s.prt port
    ¬ (!(s.portExists port && x.up && s.dataPlaneOn)) →
    let g := s.fecReport port f.fec
    let b := f.bytes
    let body := b.take (b.length - 4)
    let cap := 16384 * modeLanes (s.grp (port / 16)).running
    let early := f.headFirst && x.rxBuf.isEmpty && 192 < b.length && (f.errAt.map (fun k => decide (192 ≤ k))).getD true &&
      (g.headChecks port body).isNone
    let tailCode := g.frameChecks port b f.errAt
    let stamp := s.t32 + BitVec.ofInt 32 x.rxAdjust
    tailCode = none →
    g.headChecks port body = none →
    ¬ (!early && cap < x.rxHeld + b.length) →
    let a := ((g.bump 207 0 port).count 207 1 port 0 b.length).perfCount 0 1 port 1
    let v := a.secReceive port body early
    v.drop = none →
    exec (.receiveFrame port f) s =
            done s (v.st.updPrt port (fun y => { y with rxBuf := y.rxBuf ++
      [{ frame := v.frame, rxT32 := stamp, secured := v.secured, scIndex := v.scIndex
         tail := if !early then .here else if v.badIcv then .bad 0x10 else .good
         wire := if early then 0 else b.length }] }))) ∧
  (∀ (port : Nat) (s : State),
    ¬ (96 ≤ port) →
    ∀ f r, (s.prt port).rxBuf = f :: r →
    ¬ (!s.dataPlaneOn || s.parsersIn == 0) →
    let p := parseFrame (s.prt port).policy (s.hashProf port) port f.scIndex f.secured f.frame
    let a := ((s.updPrt port (fun y => { y with rxBuf := r })).countParse p.1).servedBy 2 (pipesIn s.parse.pipesOut)
      [(1, 1), (2, b2n (p.1.puntClass != 0)), (3, b2n (p.1.has pfDepth))]
    (p.1.status != 0) →
    exec (.parserSlot port) s = done s (a.tsDropped port f.tsReq)) ∧
  (∀ (port : Nat) (s : State),
    ¬ (96 ≤ port) →
    ∀ f r, (s.prt port).rxBuf = f :: r →
    ¬ (!s.dataPlaneOn || s.parsersIn == 0) →
    let p := parseFrame (s.prt port).policy (s.hashProf port) port f.scIndex f.secured f.frame
    let a := ((s.updPrt port (fun y => { y with rxBuf := r })).countParse p.1).servedBy 2 (pipesIn s.parse.pipesOut)
      [(1, 1), (2, b2n (p.1.puntClass != 0)), (3, b2n (p.1.has pfDepth))]
    ¬ (p.1.status != 0) →
    let d := a.updPrt port (fun y => { y with rxCross := y.rxCross + (f.wire - 192) })
    exec (.parserSlot port) s =
      done s { d with parse.lookupQ := d.parse.lookupQ ++
        [{ frame := f.frame, parse := p.1, cut := p.2, rxT32 := f.rxT32, tail := f.tail, tsReq := f.tsReq
           wire := f.wire - 192 }] }) ∧
  (∀ (pipeline : Nat) (held : List Nat) (s : State),
    ¬ (17 ≤ pipeline) →
    ¬ (!s.aux.pllLocked) →
    ¬ (s.parse.pipesOut.contains pipeline || (pipeline == 16 && s.parse.pipesOut.isEmpty)) →
    let l := takeAt s.parse.lookupQ held
    let a := l.1.foldl (fun (x : State) k => ((x.rxCrossed k).bump 412 1 k.parse.port 10).tsDropped k.parse.port k.tsReq)
      { s with parse.lookupQ := l.2 }
    let b := { a with parse.pipesOut := a.parse.pipesOut ++ [pipeline] }.bump 412 7
    let d := b.record { kind := 5, die := 0, cause := 2, unit := pipeline, index := 16, hours := s.hours }
    exec (.parserPipelineError pipeline held) s = done s ((d.raise 0x0382 (d4 pipeline ++
      d4o (if s.parse.pipesOut.isEmpty then some 16 else none))).pipelineCheck))

/-- Each command of class 0x04 and each batch command that is not timed: once accepted (a command), or once its conditions
hold (an event), it completes with the outcome given here. -/
def Obligations.TableCommandsComplete : Prop :=
  (∀ (c : Cmd) (s : State), accepted routeGetSpec c s = true →
    let b := c.payload
    let vrf := le b 0 2
    let fam := byteAt b 2
    let len := byteAt b 3
    let addr := be b 4 (famBits fam / 8)
    ¬ (4095 < vrf || !(fam == 4 || fam == 6) || (len != 0xFF && famBits fam < len)) →
    (len == 0xFF) →
    let r := s.fibLookup vrf fam addr false
    ∀ e, r.ent = some e →
    exec (.routeGet c) s = s.answered s c
      (routeRecord e.kind e.len r.probes e.refs e.result)) ∧
  (∀ (c : Cmd) (s : State), accepted routeGetSpec c s = true →
    let b := c.payload
    let vrf := le b 0 2
    let fam := byteAt b 2
    let len := byteAt b 3
    let addr := be b 4 (famBits fam / 8)
    let d := s.dir vrf fam
    ¬ (4095 < vrf || !(fam == 4 || fam == 6) || (len != 0xFF && famBits fam < len)) →
    (len == 0xFF) →
    let r := s.fibLookup vrf fam addr false
    r.ent = none →
    exec (.routeGet c) s = s.answered s c
      (routeRecord (b2n (d.dflt / 1048576 != 0)) 0 r.probes 0 d.dflt)) ∧
  (∀ (c : Cmd) (s : State), accepted routeGetSpec c s = true →
    let b := c.payload
    let vrf := le b 0 2
    let fam := byteAt b 2
    let len := byteAt b 3
    let d := s.dir vrf fam
    ¬ (4095 < vrf || !(fam == 4 || fam == 6) || (len != 0xFF && famBits fam < len)) →
    ¬ (len == 0xFF) →
    (len == 0) →
    ¬ (d.dflt / 1048576 == 0) →
    exec (.routeGet c) s = s.answered s c
      (routeRecord 1 0 0 0 d.dflt)) ∧
  (∀ (c : Cmd) (s : State), accepted routeGetSpec c s = true →
    let b := c.payload
    let vrf := le b 0 2
    let fam := byteAt b 2
    let len := byteAt b 3
    let addr := be b 4 (famBits fam / 8)
    ¬ (4095 < vrf || !(fam == 4 || fam == 6) || (len != 0xFF && famBits fam < len)) →
    ¬ (len == 0xFF) →
    ¬ (len == 0) →
    ∀ e, s.fibEnt vrf fam len (maskKey fam len addr) = some e →
    exec (.routeGet c) s = s.answered s c
      (routeRecord e.kind e.len 1 e.refs e.result)) ∧
  (∀ (c : Cmd) (s : State), accepted lengthReserveSpec c s = true →
    let b := c.payload
    let vrf := le b 0 2
    let fam := byteAt b 2
    let l := (bitmapOf (le b 4 16) 16).map (fun i => 8 + i)
    let d := s.dir vrf fam
    ¬ (4095 < vrf || !(fam == 4 || fam == 6) || 1 < byteAt b 3 || l.any (fun k => famBits fam < k)) →
    let keep := if byteAt b 3 == 1 then sortLens (d.reserved ++ l) else d.reserved.filter (fun k => !l.contains k)
    exec (.lengthReserve c) s = s.answered ((s.fibShrink (s.fibStore vrf fam (s.fibPrefixes vrf fam) { d with reserved := keep }) vrf fam).2) c) ∧
  (∀ (c : Cmd) (s : State), accepted ecmpCreateSpec c s = true →
    let b := c.payload
    let g := le b 0 2
    let cap := byteAt b 2
    let n := byteAt b 3
    let l := (List.range n).map (fun i => le b (4 + 4 * i) 4)
    ¬ (!inRange cap 8 128 || !inRange n 1 cap || l.eraseDups.length != n || l.any (fun v => 1048576 ≤ v)) →
    ¬ (s.retiring 1 g) →
    ¬ ((s.tbl.ecmps.get? g).isSome) →
    ¬ (!l.all s.nexthopSet?) →
    let size := 8 * ceilDiv cap 8
    ∀ base, s.freeRun size = some base →
    let x : Ecmp := {
      members := numbered 0 l, slots := (List.range 256).map (fun i => i % n), capacity := size, base }
    exec (.ecmpCreate c) s = s.answered (((({ s with tbl.ecmps := s.tbl.ecmps.set g x }.notePoolFill).unpoison 4 g).unpoisonRun base n).wrote 1) c) ∧
  (∀ (c : Cmd) (s : State), accepted emTableConfigSpec c s = true →
    let b := c.payload
    let t := byteAt b 0
    let prof := s.keyProfile (le b 2 2)
    ¬ (61 < t || 1 < byteAt b 1 || 63 < le b 2 2 || (if byteAt b 1 == 1 then 256 else 128) < keyWidth prof ||
      prof.any (fun g => g.code == 0x16)) →
    ¬ (0 < s.emCount t) →
    exec (.emTableConfig c) s = s.answered ({ s with tbl.emCfg := s.tbl.emCfg.set t { wide := byteAt b 1 == 1, profile := le b 2 2 } }.wrote 1) c) ∧
  (∀ (c : Cmd) (s : State), accepted interfaceSetSpec c s = true →
    let v := le c.payload 4 8
    let a := field v 31 26
    let b := field v 25 20
    ¬ (a == 62 || b == 62) →
    exec (.interfaceSet c) s = s.answered ({ s with tbl.ifaces := s.tbl.ifaces.set (le c.payload 0 2) { vrf := field v 63 52, rmac := field v 51 36, v4 := bit v 35, v6 := bit v 34, mpls := bit v 33, countEn := bit v 32, emA := a, emB := b } }.wrote 1) c) ∧
  (∀ (c : Cmd) (s : State), accepted routerMacSetSpec c s = true →
    let i := byteAt c.payload 0
    ¬ (15 < i || 1 < byteAt c.payload 1) →
    let l := if byteAt c.payload 1 == 1 then s.tbl.rmacs.set i (be c.payload 2 6) else s.tbl.rmacs.del i
    exec (.routerMacSet c) s = s.answered ({ s with tbl.rmacs := l }.wrote 1) c) ∧
  (∀ (c : Cmd) (s : State), accepted objRetireSpec c s = true →
    let k := byteAt c.payload 0
    let i := le c.payload 4 4
    ¬ (2 < k) →
    ¬ (s.retiring k i) →
    ¬ (!(if k == 0 then s.nexthopSet? i else if k == 1 then s.ecmpSet? i else s.encapSet? i)) →
    ¬ (s.references k i != 0) →
    exec (.objRetire c) s = s.opened ({ s with tbl.retiring := s.tbl.retiring ++ [{ kind := k, index := i, freeAt := s.tbl.epoch + s.retireEpochs }] }) c (.retire k i)) ∧
  (∀ (c : Cmd) (s : State), accepted objCountersGetSpec c s = true →
    let b := c.payload
    let first := le b 0 4
    let n := le b 4 2
    ¬ (!inRange n 1 256 || 1 < byteAt b 6 || 16777216 < first + n) →
    let l := (List.range n).map (fun i => s.hbm.pairs.getD (first + i) (0, 0))
    exec (.objCountersGet c) s = s.answered (if byteAt b 6 == 1 then { s with hbm.pairs := s.hbm.pairs.filter (fun e => !(first ≤ e.1 && e.1 < first + n)) } else s) c
      (l.flatMap (fun p => toLe 8 p.1 ++ toLe 8 p.2))) ∧
  (∀ (c : Cmd) (s : State), accepted tableRepairDoneSpec c s = true →
    let i := le c.payload 0 2
    ∀ p, s.tbl.poison.get? i = some p →
    ¬ (1 < p.table) →
    ¬ (!p.ready) →
    let t := { s with tbl.poison := s.tbl.poison.del i }.clearCond 3
    exec (.tableRepairDone c) s = s.answered (if p.table == 0 then t.fibMended p else t) c) ∧
  (∀ (c : Cmd) (s : State), accepted tableSplitSetSpec c s = true →
    let n := byteAt c.payload 0
    ¬ (!inRange n 1 10) →
    let t := { s with
      tbl.emBanks := n, tbl.fib := [], tbl.fibLost := [], tbl.dirs := [], tbl.em := [], tbl.sizes := [], tbl.oldTables := [] }
    exec (.tableSplitSet c) s = s.answered ((t.noteFibFill).noteEmFill) c) ∧
  (∀ (c : Cmd) (s : State), accepted lookupConfigSpec c s = true →
    ¬ (!inRange (le c.payload 0 2) 1 1000) →
    exec (.lookupConfig c) s = s.answered ({ s with tbl.retireAge := le c.payload 0 2 }) c) ∧
  (∀ (c : Cmd) (s : State), accepted tableStatusGetSpec c s = true →
    exec (.tableStatusGet c) s = s.answered s c
      (toLe 1 (14 - s.tbl.emBanks) ++ toLe 1 s.tbl.emBanks ++ toLe 2 s.tbl.poison.length ++ toLe 4 s.fibSlots ++ toLe 4 s.fibUsed ++ toLe 4 s.emSlots ++ toLe 4 s.emUsed ++ toLe 4 524288 ++ toLe 4 s.poolEntriesUsed ++ zeros 4 ++ (List.range 256).flatMap (fun i => match s.tbl.poison.get? i with | some p => p.encode | none => zeros 16) ++ s.snap 519 lookupDims)) ∧
  (∀ (c : Cmd) (s : State), accepted ecmpCountSetSpec c s = true →
    let g := le c.payload 0 2
    ¬ (1 < byteAt c.payload 2) →
    ¬ (s.retiring 1 g) →
    ∀ x, s.tbl.ecmps.get? g = some x →
    exec (.ecmpCountSet c) s = s.answered ({ s with tbl.ecmps := s.tbl.ecmps.set g { x with countEn := byteAt c.payload 2 == 1 } }.wrote 1) c) ∧
  (∀ (c : Cmd) (s : State), accepted (batchSpec 0x0401 32) c s = true → batchGood 0x0401 1024 c s = true →
    bit (byteAt c.payload 2) 1 = false →
    exec (.routeAdd c) s = .next (signalStatus s (Res.finish (s.portStart 0x0401 (byteAt c.payload 2)
      ((s.opsOf 0x0401 (le c.payload 0 2) (c.payload.drop 8)).getD [])) c))) ∧
  (∀ (c : Cmd) (s : State), accepted (batchSpec 0x0402 32) c s = true → batchGood 0x0402 1024 c s = true →
    bit (byteAt c.payload 2) 1 = false →
    exec (.routeDelete c) s = .next (signalStatus s (Res.finish (s.portStart 0x0402 (byteAt c.payload 2)
      ((s.opsOf 0x0402 (le c.payload 0 2) (c.payload.drop 8)).getD [])) c))) ∧
  (∀ (c : Cmd) (s : State), accepted (batchSpec 0x0405 12) c s = true → batchGood 0x0405 1024 c s = true →
    bit (byteAt c.payload 2) 1 = false →
    exec (.nexthopSet c) s = .next (signalStatus s (Res.finish (s.portStart 0x0405 (byteAt c.payload 2)
      ((s.opsOf 0x0405 (le c.payload 0 2) (c.payload.drop 8)).getD [])) c))) ∧
  (∀ (c : Cmd) (s : State), accepted (batchSpec 0x0407 32) c s = true → batchGood 0x0407 1024 c s = true →
    bit (byteAt c.payload 2) 1 = false →
    exec (.labelSet c) s = .next (signalStatus s (Res.finish (s.portStart 0x0407 (byteAt c.payload 2)
      ((s.opsOf 0x0407 (le c.payload 0 2) (c.payload.drop 8)).getD [])) c))) ∧
  (∀ (c : Cmd) (s : State), accepted (batchSpec 0x0408 24) c s = true → batchGood 0x0408 1024 c s = true →
    bit (byteAt c.payload 2) 1 = false →
    exec (.emInsert c) s = .next (signalStatus s (Res.finish (s.portStart 0x0408 (byteAt c.payload 2)
      ((s.opsOf 0x0408 (le c.payload 0 2) (c.payload.drop 8)).getD [])) c))) ∧
  (∀ (c : Cmd) (s : State), accepted (batchSpec 0x0409 24) c s = true → batchGood 0x0409 1024 c s = true →
    bit (byteAt c.payload 2) 1 = false →
    exec (.emDelete c) s = .next (signalStatus s (Res.finish (s.portStart 0x0409 (byteAt c.payload 2)
      ((s.opsOf 0x0409 (le c.payload 0 2) (c.payload.drop 8)).getD [])) c))) ∧
  (∀ (c : Cmd) (s : State), accepted (batchSpec 0x0506 176) c s = true → batchGood 0x0506 256 c s = true →
    bit (byteAt c.payload 2) 1 = false →
    exec (.tcamEntryInsert c) s = .next (signalStatus s (Res.finish (s.portStart 0x0506 (byteAt c.payload 2)
      ((s.opsOf 0x0506 (le c.payload 0 2) (c.payload.drop 8)).getD [])) c))) ∧
  (∀ (c : Cmd) (s : State), accepted (batchSpec 0x0507 176) c s = true → batchGood 0x0507 256 c s = true →
    bit (byteAt c.payload 2) 1 = false →
    exec (.tcamEntryModify c) s = .next (signalStatus s (Res.finish (s.portStart 0x0507 (byteAt c.payload 2)
      ((s.opsOf 0x0507 (le c.payload 0 2) (c.payload.drop 8)).getD [])) c))) ∧
  (∀ (c : Cmd) (s : State), accepted (batchSpec 0x0A02 72) c s = true → batchGood 0x0A02 1024 c s = true →
    bit (byteAt c.payload 2) 1 = false →
    exec (.encapSet c) s = .next (signalStatus s (Res.finish (s.portStart 0x0A02 (byteAt c.payload 2)
      ((s.opsOf 0x0A02 (le c.payload 0 2) (c.payload.drop 8)).getD [])) c)))

/-- The result of a lookup, a fault of a lookup pipeline, and each event of the forwarding tables: once accepted (a command),
or once its conditions hold (an event), it completes with the outcome given here. -/
def Obligations.LookupEventsComplete : Prop :=
  (∀ (port : Nat) (parity : List Nat) (s : State),
    ¬ (96 ≤ port || parity.any (fun t => 64 ≤ t)) →
    ¬ (!s.dataPlaneOn) →
    ∀ k r, firstOf port s.parse.lookupQ = some (k, r) →
    let w := { s with parse.lookupQ := r }.lookup k parity
    let pipes := pipesIn s.tbl.pipesOut
    let t := w.st.servedBy 3 pipes [(1, 1), (2, w.fibHits), (3, b2n w.drops)]
    ∀ cls byHit, w.out = some (.slow cls byHit) →
    exec (.lookupResult port parity) s = done s ((t.rxCrossed k).slowPath k w.iface cls byHit)) ∧
  (∀ (port : Nat) (parity : List Nat) (s : State),
    ¬ (96 ≤ port || parity.any (fun t => 64 ≤ t)) →
    ¬ (!s.dataPlaneOn) →
    ∀ k r, firstOf port s.parse.lookupQ = some (k, r) →
    let p := k.parse
    let w := { s with parse.lookupQ := r }.lookup k parity
    let pipes := pipesIn s.tbl.pipesOut
    let t := w.st.servedBy 3 pipes [(1, 1), (2, w.fibHits), (3, b2n w.drops)]
    ∀ mcast dest encap, w.out = some (.forward mcast dest encap) →
    let q := t.classify p k.frame
    let tc := w.setTc.getD q.1
    w.setPolicer.or ((t.prt p.port).qos.policers.get? tc) = none →
    exec (.lookupResult port parity) s = done s (t.cross (w.descriptor k mcast dest encap tc q.2))) ∧
  (∀ (port : Nat) (parity : List Nat) (s : State),
    ¬ (96 ≤ port || parity.any (fun t => 64 ≤ t)) →
    ¬ (!s.dataPlaneOn) →
    ∀ k r, firstOf port s.parse.lookupQ = some (k, r) →
    let p := k.parse
    let w := { s with parse.lookupQ := r }.lookup k parity
    let pipes := pipesIn s.tbl.pipesOut
    let t := w.st.servedBy 3 pipes [(1, 1), (2, w.fibHits), (3, b2n w.drops)]
    ∀ mcast dest encap, w.out = some (.forward mcast dest encap) →
    let q := t.classify p k.frame
    let tc := w.setTc.getD q.1
    ∀ i, w.setPolicer.or ((t.prt p.port).qos.policers.get? tc) = some i →
    let v := t.police i w.len q.2
    ∀ w0, v.drop = some w0 →
    exec (.lookupResult port parity) s = done s ((v.st.rxCrossed k).tsDropped p.port k.tsReq)) ∧
  (∀ (port : Nat) (parity : List Nat) (s : State),
    ¬ (96 ≤ port || parity.any (fun t => 64 ≤ t)) →
    ¬ (!s.dataPlaneOn) →
    ∀ k r, firstOf port s.parse.lookupQ = some (k, r) →
    let p := k.parse
    let w := { s with parse.lookupQ := r }.lookup k parity
    let pipes := pipesIn s.tbl.pipesOut
    let t := w.st.servedBy 3 pipes [(1, 1), (2, w.fibHits), (3, b2n w.drops)]
    ∀ mcast dest encap, w.out = some (.forward mcast dest encap) →
    let q := t.classify p k.frame
    let tc := w.setTc.getD q.1
    ∀ i, w.setPolicer.or ((t.prt p.port).qos.policers.get? tc) = some i →
    let v := t.police i w.len q.2
    v.drop = none →
    exec (.lookupResult port parity) s = done s (v.st.cross (w.descriptor k mcast dest encap tc v.colour))) ∧
  (∀ (port : Nat) (parity : List Nat) (s : State),
    ¬ (96 ≤ port || parity.any (fun t => 64 ≤ t)) →
    ¬ (!s.dataPlaneOn) →
    ∀ k r, firstOf port s.parse.lookupQ = some (k, r) →
    let p := k.parse
    let w := { s with parse.lookupQ := r }.lookup k parity
    let pipes := pipesIn s.tbl.pipesOut
    let t := w.st.servedBy 3 pipes [(1, 1), (2, w.fibHits), (3, b2n w.drops)]
    ∀ code, w.out = some (.drop code) →
    let u := if code == 0x23 then t.bump 412 1 p.port 11 else t.bump 519 1 (code - 0x28)
    exec (.lookupResult port parity) s = done s ((u.rxCrossed k).tsDropped p.port k.tsReq)) ∧
  (∀ (pipeline : Nat) (held : List Nat) (s : State),
    ¬ (17 ≤ pipeline) →
    ¬ (!s.aux.pllLocked) →
    ¬ (s.tbl.pipesOut.contains pipeline || (pipeline == 16 && s.tbl.pipesOut.isEmpty)) →
    let l := takeAt s.parse.lookupQ held
    let a := l.1.foldl (fun (x : State) k => ((x.rxCrossed k).bump 519 1 7).tsDropped k.parse.port k.tsReq)
      { s with parse.lookupQ := l.2 }
    let b := { a with tbl.pipesOut := a.tbl.pipesOut ++ [pipeline] }
    let d := b.record { kind := 6, die := 0, cause := 2, unit := pipeline, index := 16, hours := s.hours }
    exec (.lookupPipelineError pipeline held) s = done s ((d.raise 0x0484 (d4 pipeline ++
      d4o (if s.tbl.pipesOut.isEmpty then some 16 else none))).pipelineCheck)) ∧
  (∀ (s : State),
    (s.ended s.tbl.epochTick 750000) →
    let t := (s.tbl.retiring.filter (fun r => r.freeAt ≤ s.tbl.epoch)).foldl (fun (a : State) r => a.freeObject r) s
    let u := { t with tbl.epoch := s.tbl.epoch + 1, tbl.epochTick := s.tbl.epochTick + 750000 }
    exec .retirementEpochEnd s = done s (if u.serving then u.finishRetired else u)) ∧
  (∀ (table : Nat) (s : State),
    ¬ (!s.aux.pllLocked) →
    ¬ ((s.tbl.oldTables.get? table).isNone) →
    exec (.grownTableRelease table) s =
      done s (({ s with tbl.oldTables := s.tbl.oldTables.del table }.noteFibFill).noteEmFill)) ∧
  (∀ (group : Nat) (s : State),
    ¬ (!s.aux.pllLocked) →
    (s.tbl.oldRuns.any (fun r => r.1 == group)) →
    exec (.ecmpBlockRelease group) s =
      done s ({ s with tbl.oldRuns := s.tbl.oldRuns.filter (fun r => r.1 != group) }.notePoolFill)) ∧
  (∀ (entry : Nat) (s : State),
    ∀ p, s.tbl.poison.get? entry = some p →
    (p.table == 0 && !p.ready && s.fwRuns) →
    let t := s.fibStore p.vrf p.fam (s.fibPrefixes p.vrf p.fam) (s.dir p.vrf p.fam)
    exec (.markerRebuildDone entry) s = done s { t with tbl.poison := t.tbl.poison.set entry { p with ready := true } }) ∧
  (∀ (s : State),
    ¬ (!s.aux.pllLocked) →
    ∀ pair n r, s.tbl.updates = (pair, n) :: r →
    let p := s.hbm.pairs.getD pair (0, 0)
    exec .counterUpdate s =
      done s { s with
        tbl.updates := r
        hbm.pairs := s.hbm.pairs.set pair ((p.1 + 1) % 18446744073709551616, (p.2 + n) % 18446744073709551616) }) ∧
  (∀ (s : State),
    ¬ (!s.aux.pllLocked || !s.tbl.batches.any (fun b => s.t32.reached b.t)) →
    exec .timedBatchCommit s = done s s.portStep)

/-- Each command of class 0x05 on chains, profiles and entries, and each event of the associative search: once accepted (a
command), or once its conditions hold (an event), it completes with the outcome given here. -/
def Obligations.SearchComplete : Prop :=
  (∀ (c : Cmd) (s : State), accepted tcamChainConfigSpec c s = true →
    let b := c.payload
    let k := byteAt b 0
    ¬ (15 < k) →
    (bit (byteAt b 4) 1) →
    ¬ ((s.chain? k).isNone) →
    exec (.tcamChainConfig c) s = s.answered ({ s with tcam.chains := s.tcam.chains.del k }.wrote 1) c) ∧
  (∀ (c : Cmd) (s : State), accepted tcamChainConfigSpec c s = true →
    let b := c.payload
    let k := byteAt b 0
    let w := byteAt b 1
    let hole := le b 2 2
    let n := byteAt b 5
    let bases := (List.range n).map (fun i => byteAt b (8 + i))
    let tiles := bases.flatMap (rankTiles w)
    ¬ (15 < k) →
    ¬ (bit (byteAt b 4) 1) →
    ¬ (2 < w || n == 0 || !(hole == 0 || [8, 16, 32, 64, 128, 256].contains hole)) →
    ¬ (64 / widthTiles w < n) →
    ¬ (!bases.all (baseOk w) || tiles.eraseDups.length != tiles.length ||
      tiles.any (fun t => (s.tileChain t).any (fun j => j != k))) →
    ¬ (tiles.any s.tcam.unmapped.contains) →
    let old := (s.chain? k).map (·.gen)
    exec (.tcamChainConfig c) s = s.answered ((s.setChain k { width := w, hole, failClosed := bit (byteAt b 4) 0, bases, gen := old.getD 0 }).wrote 1) c) ∧
  (∀ (c : Cmd) (s : State), accepted tcamChainExtendSpec c s = true →
    let k := byteAt c.payload 0
    let base := byteAt c.payload 1
    ∀ x, s.chain? k = some x →
    let tiles := rankTiles x.width base
    ¬ (!baseOk x.width base) →
    ¬ (64 / widthTiles x.width ≤ x.bases.length) →
    ¬ (tiles.any (fun t => (s.tileChain t).isSome)) →
    ¬ (tiles.any s.tcam.unmapped.contains) →
    exec (.tcamChainExtend c) s = s.answered (((s.setChain k { x with bases := x.bases ++ [base] }).wrote 1).noteChainFill k) c) ∧
  (∀ (c : Cmd) (s : State), accepted keyProfileSetSpec c s = true →
    let b := c.payload
    let n := byteAt b 1
    let l := (List.range n).map (fun i =>
      ({ code := byteAt b (4 + 4 * i), anchor := byteAt b (5 + 4 * i), offset := byteAt b (6 + 4 * i)
         width := byteAt b (7 + 4 * i) } : KeySeg))
    ¬ (63 < byteAt b 0 || !inRange n 1 16 || !l.all KeySeg.ok || 640 < keyWidth l) →
    exec (.keyProfileSet c) s = s.answered ({ s with tcam.keys := s.tcam.keys.set (byteAt b 0) l }.wrote 1) c) ∧
  (∀ (c : Cmd) (s : State), accepted searchProfileSetSpec c s = true →
    ∀ a b, s.slotOf c.payload 1 = some a → s.slotOf c.payload 4 = some b →
    ¬ (63 < byteAt c.payload 0) →
    exec (.searchProfileSet c) s = s.answered ({ s with tcam.profs := s.tcam.profs.set (byteAt c.payload 0) { a, b } }.wrote 1) c) ∧
  (∀ (c : Cmd) (s : State), accepted searchProfileMapSpec c s = true →
    let p := byteAt c.payload 0
    ¬ (!s.portExists p) →
    ¬ (3 < byteAt c.payload 1 || 63 < byteAt c.payload 2) →
    exec (.searchProfileMap c) s = s.answered ({ s with tcam.map := s.tcam.map.set (4 * p + byteAt c.payload 1) (byteAt c.payload 2) }.wrote 1) c) ∧
  (∀ (c : Cmd) (s : State), accepted tcamEntryDeleteSpec c s = true →
    let n := le c.payload 0 2
    let l := (List.range n).map (fun i => le c.payload (4 + 4 * i) 4)
    ¬ (!inRange n 1 256) →
    let r := s.tcamDeleteOps 0 l
    (r.2.1 == 0) →
    exec (.tcamEntryDelete c) s = .next (signalStatus s (Res.finish
      ({ st := s, status := r.1, failIndex := 0 } : Res) c))) ∧
  (∀ (c : Cmd) (s : State), accepted tcamEntryDeleteSpec c s = true →
    let n := le c.payload 0 2
    let l := (List.range n).map (fun i => le c.payload (4 + 4 * i) 4)
    ¬ (!inRange n 1 256) →
    let r := s.tcamDeleteOps 0 l
    ¬ (r.2.1 == 0) →
    exec (.tcamEntryDelete c) s = s.opened (r.2.2.wrote r.2.1) c (.tcamDelete (l.take r.2.1))) ∧
  (∀ (c : Cmd) (s : State), accepted tcamSearchSpec c s = true →
    ∀ x, s.chain? (byteAt c.payload 0) = some x →
    exec (.tcamSearch c) s = s.answered s c
      (searchRecord (x.hits (opKey x c.payload 4)) x.gen)) ∧
  (∀ (c : Cmd) (s : State), accepted tcamSearchContinueSpec c s = true →
    ∀ x, s.chain? (byteAt c.payload 0) = some x →
    ¬ (le c.payload 8 4 != x.gen) →
    exec (.tcamSearchContinue c) s = s.answered s c
      (searchRecord ((x.hits (opKey x c.payload 12)).filter (fun e => le c.payload 4 4 < e.index)) x.gen)) ∧
  (∀ (c : Cmd) (s : State), accepted tcamCompactSpec c s = true →
    let k := byteAt c.payload 0
    let v := le c.payload 4 2
    ∀ x, s.chain? k = some x →
    ¬ (!(v == 0xFFFF || v == 0 || [8, 16, 32, 64, 128, 256].contains v)) →
    let hole := if v == 0xFFFF then x.hole else v
    let r := rebalance hole (s.chainCap x) (s.toPlaces x)
    let y := { x with hole := hole, ents := s.fromPlaces x r.1, gen := (x.gen + r.2 + 1) % 4294967296 }
    exec (.tcamCompact c) s = s.answered (((((s.setChain k y).count 608 5 k 0 r.2).bump 608 6 k).wrote (2 * r.2))) c) ∧
  (∀ (c : Cmd) (s : State), accepted tcamEntryReadSpec c s = true →
    ∀ k x e, s.tcamFind (le c.payload 0 4) = some (k, x, e) →
    exec (.tcamEntryRead c) s = s.answered s c
      (toLe 4 e.handle ++ toLe 1 k ++ zeros 1 ++ toLe 2 e.prio ++ toLe 8 e.action ++ padTo 80 (toBe (x.bits / 8) e.value) ++
        padTo 80 (toBe (x.bits / 8) e.mask) ++ toLe 4 e.index)) ∧
  (∀ (c : Cmd) (s : State), accepted tcamStatusGetSpec c s = true →
    exec (.tcamStatusGet c) s = s.answered s c
      ((List.range 16).flatMap (fun c => match s.chain? c with | some x => toLe 4 x.ents.length ++ toLe 4 (s.chainCap x - x.ents.length) ++ toLe 4 x.gen ++ toLe 4 x.lostCount | none => zeros 16) ++ (List.range 64).flatMap (fun t => toLe 1 (s.tileOf t)) ++ toLe 1 s.tcam.spares.length ++ zeros 3 ++ (List.range 16).flatMap (fun c => (List.range 8).flatMap (fun n => toLe 8 (s.ctrVal 608 n c))))) ∧
  (∀ (bad : List (Nat × Nat)) (s : State),
    ¬ (bad.any (fun e => 64 ≤ e.1 || 2048 ≤ e.2)) →
    ¬ (!s.aux.pllLocked) →
    exec (.tcamScrub bad) s = done s (bad.foldl (fun (a : State) e => a.tileError e.1) s)) ∧
  (∀ (lt : Nat) (s : State),
    ¬ (!s.aux.pllLocked) →
    ∀ f, s.tcam.filling.find? (fun f => f.1 == lt) = some f →
    let old := s.tileOf lt
    let t := { s with
      tcam.filling := s.tcam.filling.filter (fun g => g.1 != lt), tcam.tiles := s.tcam.tiles.set lt f.2 }
    let u := t.record { kind := 4, die := 0, cause := 2, unit := old, index := f.2, hours := s.hours }
    exec (.spareTileFilled lt) s = done s (u.raise 0x0582 (d4 lt ++ d4 old ++ d4 f.2 ++ d4 u.tcam.spares.length))) ∧
  (∀ (handle : Nat) (s : State),
    ¬ (!s.aux.pllLocked) →
    ∀ d, s.tcam.deleting.find? (fun d => d.1 == handle) = some d →
    ¬ (!s.ended d.2 (us 50)) →
    ∀ o, s.hif.openCmds.find? (fun o => o.deletes handle) = some o →
    ∀ l, o.kind = .tcamDelete l →
    let n := le o.cmd.payload 0 2
    let counts := l.flatMap (fun h => let p := s.hbm.pairs.getD (tcamPair h) (0, 0); toLe 8 p.1 ++ toLe 8 p.2)
    let t := s.tcamFree l
    (l.length == n) →
    exec (.tcamDeleteComplete handle) s = done s (t.finishOpen o stOk counts n)) ∧
  (∀ (handle : Nat) (s : State),
    ¬ (!s.aux.pllLocked) →
    ∀ d, s.tcam.deleting.find? (fun d => d.1 == handle) = some d →
    ¬ (!s.ended d.2 (us 50)) →
    ∀ o, s.hif.openCmds.find? (fun o => o.deletes handle) = some o →
    ∀ l, o.kind = .tcamDelete l →
    let n := le o.cmd.payload 0 2
    let counts := l.flatMap (fun h => let p := s.hbm.pairs.getD (tcamPair h) (0, 0); toLe 8 p.1 ++ toLe 8 p.2)
    let t := s.tcamFree l
    ¬ (l.length == n) →
    exec (.tcamDeleteComplete handle) s = done s (t.finishOpen o stPartial counts l.length l.length)) ∧
  (∀ (handle : Nat) (s : State),
    ¬ (!s.aux.pllLocked) →
    ∀ d, s.tcam.deleting.find? (fun d => d.1 == handle) = some d →
    ¬ (!s.ended d.2 (us 50)) →
    s.hif.openCmds.find? (fun o => o.deletes handle) = none →
    exec (.tcamDeleteComplete handle) s = done s (s.tcamFree [handle]))

/-- Each command of class 0x06 and each event of the packet buffer and its queues: once accepted (a command), or once its
conditions hold (an event), it completes with the outcome given here. -/
def Obligations.PacketBufferComplete : Prop :=
  (∀ (c : Cmd) (s : State), accepted bufferPartitionSetSpec c s = true →
    let v := le c.payload 0 4
    let r := le c.payload 4 4
    let e := le c.payload 8 4
    ¬ (v + r + e != 524288 || v % 1024 != 0 || r % 1024 != 0 || e % 1024 != 0) →
    exec (.bufferPartitionSet c) s = s.answered ({ s with buf.voqCells := v, buf.reasmCells := r, buf.egressCells := e }) c) ∧
  (∀ (c : Cmd) (s : State), accepted admissionProfileSetSpec c s = true →
    let b := c.payload
    let f : AdmProf := {
      spillEn := bit (byteAt b 1) 0, alphaDie := byteAt b 2, alphaHbm := byteAt b 3, minCells := le b 4 4
      maxCells := le b 8 4, spillOn := le b 12 2, headKeep := le b 14 2 }
    ¬ (0xB < f.alphaDie || 0xB < f.alphaHbm || 131071 < f.minCells || !inRange f.maxCells 39 268435455 ||
      !inRange f.headKeep 16 2048 || f.headKeep % 16 != 0 || f.spillOn < f.headKeep + 32) →
    let t := { s with buf.profs := s.buf.profs.set (byteAt b 0) f }
    ¬ (minTooHigh s t) →
    exec (.admissionProfileSet c) s = s.answered (t.lowerMins) c) ∧
  (∀ (c : Cmd) (s : State), accepted wredProfileSetSpec c s = true →
    let b := c.payload
    let curve (o : Nat) : Curve := {
      enable := bit (byteAt b o) 0, mark := bit (byteAt b o) 1, maxP := le b (o + 2) 2, minTh := le b (o + 4) 4
      maxTh := le b (o + 8) 4 }
    let w : Wred := { w := byteAt b 1, green := curve 4, yellow := curve 16, red := curve 28 }
    ¬ (63 < byteAt b 0 || 15 < w.w || [w.green, w.yellow, w.red].any (fun c => c.maxTh ≤ c.minTh)) →
    exec (.wredProfileSet c) s = s.answered ({ s with buf.wreds := s.buf.wreds.set (byteAt b 0) w }) c) ∧
  (∀ (c : Cmd) (s : State), accepted queueConfigSpec c s = true →
    let b := c.payload
    let first := le b 0 4
    let n := le b 4 4
    ¬ (524288 ≤ first) →
    ¬ (n == 0 || 524288 < first + n || 63 < byteAt b 9 || !inRange (le b 12 4) 1 1000000) →
    exec (.queueConfig c) s = .next (signalStatus s (Res.finish (eachRes (runEach (State.queueOp (byteAt b 8) (byteAt b 9) (le b 12 4) (bit (byteAt b 10) 0)) s 0 ((List.range n).map (fun i => toLe 4 (first + i))))) c))) ∧
  (∀ (c : Cmd) (s : State), accepted queueFlushSpec c s = true →
    let q := le c.payload 0 4
    ¬ (524288 ≤ q) →
    let t := s.flush38 q
    exec (.queueFlush c) s = s.answered (({ t with fab.sending := t.fab.sending.del q }.voqEdge s q).refreshTm) c) ∧
  (∀ (c : Cmd) (s : State), accepted queueStatusGetSpec c s = true →
    let first := le c.payload 0 4
    let n := le c.payload 4 4
    ¬ (!inRange n 1 64) →
    ¬ (524288 < first + n) →
    let qs := (List.range n).map (fun i => first + i)
    exec (.queueStatusGet c) s = s.answered ({ s with buf.queues := s.buf.queues.map (fun e => if qs.contains e.1 then (e.1, { e.2 with watermark := e.2.len, stall := false }) else e) }) c
      (qs.flatMap s.queueRecord)) ∧
  (∀ (c : Cmd) (s : State), accepted bufferStatusGetSpec c s = true →
    let b := s.buf
    exec (.bufferStatusGet c) s = s.answered ({ s with buf.voqPeak := b.voqUsed, buf.reasmPeak := b.reasmUsed, buf.egressPeak := b.egressUsed }) c
      (toLe 4 b.voqUsed ++ toLe 4 b.voqPeak ++ toLe 4 b.reasmUsed ++ toLe 4 b.reasmPeak ++ toLe 4 b.egressUsed ++
        toLe 4 b.egressPeak ++ toLe 4 s.freeSegs ++ toLe 4 (16 * b.backlog.length) ++ s.snap 711 bufDims)) ∧
  (∀ (c : Cmd) (s : State), accepted bufferGlobalSetSpec c s = true →
    let n := le c.payload 0 4
    ¬ (!inRange n 4096 262144) →
    exec (.bufferGlobalSet c) s = s.answered ({ s with buf.backlogMax := n }) c) ∧
  (∀ (port : Nat) (s : State),
    ¬ (96 ≤ port) →
    ¬ (!s.dataPlaneOn) →
    ∀ d r, firstDesc port s.parse.d2dQ = some (d, r) →
    exec (.headerCellAdmission port) s =
      done s (State.admitIngress ({ s with parse.d2dQ := r }.rxCrossed d.pkt) (s.packetOf d))) ∧
  (∀ (s : State),
    ∀ q r, s.buf.backlog = q :: r →
    ∀ i t, s.grantSeg q = some (i, t) →
    ¬ (s.pcWaits (i % 128) || !s.dataPlaneOn || !s.meterOk 8) →
    let x := t.queue q
    let l := ((x.mid.find? (fun g => g.slot.isNone && !g.refill)).map (fun g => g.cells)).getD []
    let w := { t with buf.backlog := r, hbm.words := t.hbm.words.set i (x.segWord l) }
    let u := ((w.updQueue q (fun x => { x with mid := fillSlot i x.mid })).freeCellList l).chainSeg q i
    exec .segmentWritten s = done s ((((u.bump 711 4).perfCount 1 0x22 0 1).noteSegLow.meterTake 8).settleQueue q).refreshTm) ∧
  (∀ (queue : Nat) (s : State),
    ¬ (524288 ≤ queue) →
    let x := s.queue queue
    ∀ g r, x.mid = g :: r →
    ¬ (!(g.refill && g.slot.isSome) || !s.dataPlaneOn || g.slot.any (fun i => s.pcWaits (i % 128)) ||
      524288 < s.buf.cells.length + 16 || !s.meterOk 9) →
    let live := g.cells.filter x.live
    let c := s.takeCells queue live.length
    let l := (live.zip c.1).map (fun e => { e.1 with cell := some e.2 })
    let a := (c.2.setQueue queue { x with mid := r }).freeSegList g.slot.toList
    let b := (State.joinBacklog r.length (a.joinHead queue l) queue).endSpill queue
    exec (.refillArrival queue) s = done s (((b.bump 711 5).perfCount 1 0x22 0 2).meterTake 9 |>.settleQueue queue).refreshTm) ∧
  (∀ (queue : Nat) (s : State),
    ¬ (524288 ≤ queue) →
    ¬ (!s.dataPlaneOn || (s.fab.sending.get? queue).isSome) →
    exec (.ageExpiry queue) s = done s ((s.ageHead queue).voqEdge s queue).refreshTm) ∧
  (∀ (s : State),
    ¬ (!s.aux.pllLocked) →
    ¬ (!s.ended s.buf.auditAt (secs 1)) →
    let l := s.lostSegs
    let n := s.lostCells
    let t := n.foldl State.reclaim ({ s with buf.auditAt := s.time.ticks }.freeSegList l)
    exec .cellAudit s =
      done s (if l.isEmpty && n.isEmpty then t
        else (t.count 711 10 0 0 (l.length + n.length)).raise 0x0686 (d4 n.length ++ d4 l.length)))

/-- Each command of class 0x07 on QoS maps, policers, nodes, profiles, the site map and samples: once accepted (a command), or
once its conditions hold (an event), it completes with the outcome given here. -/
def Obligations.SchedulingCommandsComplete : Prop :=
  (∀ (c : Cmd) (s : State), accepted schedNodeSetSpec c s = true →
    let n := le c.payload 0 2
    ¬ (!inRange n 1 256) →
    exec (.schedNodeSet c) s = .next (signalStatus s (Res.finish (eachRes (runEach State.nodeOp s 0 (piecesAt c.payload 4 24 n))) c))) ∧
  (∀ (c : Cmd) (s : State), accepted schedNodeGetSpec c s = true →
    let n := le c.payload 0 4
    ¬ (!isNode n) →
    let t := s.refreshTm
    let x := (t.node n).settle t.time.ticks
    let parent := if nodeLevel n == 3 then nodeIndex n / 8 else x.parent
    let elig := if nodeLevel n == 0 then t.portOk n else x.elig
    exec (.schedNodeGet c) s = s.answered t c
      (toLe 4 n ++ toLe 4 parent ++ toLe 1 x.set ++ toLe 1 x.lp ++ toLe 2 x.weight ++ toLe 4 x.rate ++ toLe 4 x.depth ++
        toLe 1 (b2n x.attached) ++ zeros 3 ++ toLeS 4 (x.bal / 6000000) ++ toLe 8 x.sTag ++ toLe 8 x.fTag ++
          toLe 1 (b2n elig))) ∧
  (∀ (c : Cmd) (s : State), accepted lengthProfileSetSpec c s = true →
    let b := c.payload
    let o := leS b 1 1
    ¬ (63 < byteAt b 0 || o < -64 || 63 < o || 9728 < le b 2 2) →
    exec (.lengthProfileSet c) s = s.answered ({ s with sched.lens := s.sched.lens.set (byteAt b 0) { overhead := o, minLen := le b 2 2 } }) c) ∧
  (∀ (c : Cmd) (s : State), accepted siteMapSetSpec c s = true →
    let b := c.payload
    let i := le b 4 4
    let site := le b 8 2
    let on := byteAt b 10 == 1
    ¬ (1 < byteAt b 0 || 32768 ≤ site || 1 < byteAt b 10) →
    (byteAt b 0 == 0) →
    ¬ (!s.portExists i) →
    exec (.siteMapSet c) s = s.answered (s.updPrt i (fun x => { x with defaultSite := if on then some site else none })) c) ∧
  (∀ (c : Cmd) (s : State), accepted siteMapSetSpec c s = true →
    let b := c.payload
    let i := le b 4 4
    let site := le b 8 2
    let on := byteAt b 10 == 1
    ¬ (1 < byteAt b 0 || 32768 ≤ site || 1 < byteAt b 10) →
    ¬ (byteAt b 0 == 0) →
    ¬ (262144 ≤ i || (on && s.retiring 2 i)) →
    exec (.siteMapSet c) s = s.answered ({ s with sched.siteMap := if on then s.sched.siteMap.set i site else s.sched.siteMap.del i }) c) ∧
  (∀ (c : Cmd) (s : State), accepted dispatchProfileSetSpec c s = true →
    let b := c.payload
    ¬ ((List.range 8).any (fun i => 2 < byteAt b (4 * i) || !inRange (le b (4 * i + 2) 2) 1 4096)) →
    exec (.dispatchProfileSet c) s = s.answered (
              ((List.range 8).foldl (fun (a : State) i =>
          let x := a.classNode i
          let k := byteAt b (4 * i)
          a.setClass i { x with
            set := k, weight := le b (4 * i + 2) 2
            sTag := if k == x.set then x.sTag else a.sched.rootV.getD k 0 }) s.refreshTm).refreshTm) c) ∧
  (∀ (c : Cmd) (s : State), accepted sampleSetConfigSpec c s = true →
    let b := c.payload
    let k := byteAt b 0
    let first := le b 4 4
    let n := le b 8 4
    let i := le b 12 4
    let start : T32 := BitVec.ofNat 32 (le b 16 4)
    ¬ (15 < k || 1 < byteAt b 1 || !inRange n 1 524288 || 524288 < first + n || !inRange i 10 1000000 ||
      !T32.validCommit s.t32 start) →
    (byteAt b 1 == 0) →
    exec (.sampleSetConfig c) s = s.answered ({ s with sched.samples := s.sched.samples.upd k {} (fun x => { x with enable := false, stats := [], ended := none }) }) c) ∧
  (∀ (c : Cmd) (s : State), accepted sampleSetConfigSpec c s = true →
    let b := c.payload
    let k := byteAt b 0
    let first := le b 4 4
    let n := le b 8 4
    let i := le b 12 4
    let start : T32 := BitVec.ofNat 32 (le b 16 4)
    let f := addRate (s.sampleRate k) n i
    ¬ (15 < k || 1 < byteAt b 1 || !inRange n 1 524288 || 524288 < first + n || !inRange i 10 1000000 ||
      !T32.validCommit s.t32 start) →
    ¬ (byteAt b 1 == 0) →
    ¬ (50 * f.2 < f.1) →
    exec (.sampleSetConfig c) s = s.answered ({ s with sched.samples := s.sched.samples.set k { enable := true, first, count := n, intervalUs := i, start } }) c) ∧
  (∀ (c : Cmd) (s : State), accepted schedCountersGetSpec c s = true →
    exec (.schedCountersGet c) s = s.answered s c
      (s.snap 809 schedDims)) ∧
  (∀ (c : Cmd) (s : State), accepted qosMapSetSpec c s = true →
    let l := (List.range 88).map (fun i => byteAt c.payload (4 + i))
    ¬ (15 < byteAt c.payload 0 || l.any (fun v => v / 8 == 3)) →
    exec (.qosMapSet c) s = s.answered ({ s with sched.maps := s.sched.maps.set (byteAt c.payload 0) (numbered 0 (l.map (fun v => (v % 8, v / 8)))) }) c) ∧
  (∀ (c : Cmd) (s : State), accepted qosPortSetSpec c s = true →
    let b := c.payload
    let p := byteAt b 0
    ¬ (!s.portExists p) →
    ¬ (15 < byteAt b 1 || 3 < byteAt b 2 || byteAt b 3 / 8 == 3) →
    let l := (List.range 8).filterMap (fun i =>
      let v := le b (4 + 4 * i) 4
      if bit v 31 then some (i, v % 1048576) else none)
    exec (.qosPortSet c) s = s.answered (s.updPrt p (fun x => { x with qos := { map := byteAt b 1, trust := byteAt b 2, tc := byteAt b 3 % 8, colour := byteAt b 3 / 8, policers := l } })) c) ∧
  (∀ (c : Cmd) (s : State), accepted policerProfileSetSpec c s = true →
    let b := c.payload
    let i := le b 0 2
    let f : PolProf := {
      mode := byteAt b 2, blind := bit (byteAt b 3) 0, yellowDrop := bit (byteAt b 3) 1, redDrop := bit (byteAt b 3) 2
      overhead := leS b 4 1, minLen := le b 6 2, cir := le b 8 4, eir := le b 12 4, cbs := le b 16 4, ebs := le b 20 4 }
    ¬ (4095 < i || 2 < f.mode || f.overhead < -64 || 63 < f.overhead || 9728 < f.minLen || 1600000000 < f.cir ||
      (f.mode != 0 && 1600000000 < f.eir) || 16777215 < f.cbs || 16777215 < f.ebs || (f.mode == 1 && f.eir < f.cir)) →
    exec (.policerProfileSet c) s = s.answered ({ s with sched.polProfs := s.sched.polProfs.set i f }) c) ∧
  (∀ (c : Cmd) (s : State), accepted policerSetSpec c s = true →
    let n := le c.payload 0 2
    ¬ (!inRange n 1 1024) →
    exec (.policerSet c) s = .next (signalStatus s (Res.finish (eachRes (runEach State.policerOp s 0 (piecesAt c.payload 4 8 n))) c))) ∧
  (∀ (c : Cmd) (s : State), accepted policerStatusGetSpec c s = true →
    let i := le c.payload 0 4
    ¬ (1048576 ≤ i) →
    let old := s.policer i
    let x := old.refill (s.polProf old.profile) s.time.ticks
    exec (.policerStatusGet c) s = s.answered s c
      (toLe 2 x.profile ++ toLe 1 (b2n x.enabled + 2 * b2n x.countEn) ++ zeros 1 ++ toLe 4 (x.bc / bucketByte) ++
        toLe 4 (x.be / bucketByte)))

/-- Each command on buffer pools and the end of a retain time, and the selection of a packet by the scheduler and the end of a
sample window: once accepted (a command), or once its conditions hold (an event), it completes with the outcome given here. -/
def Obligations.BufferPoolsComplete : Prop :=
  (∀ (c : Cmd) (s : State), accepted poolCarveSetSpec c s = true →
    let l := (List.range 5).map (fun p => byteAt c.payload p)
    ¬ (l.sum != 128) →
    ¬ (s.pool.bufs.any (fun e => e.2.state == 1)) →
    let t := { s with pool.pages := l, pool.low := [] }
    exec (.poolCarveSet c) s = s.answered ((List.range 5).foldl (fun (a : State) p => a.notePoolLow p) t) c) ∧
  (∀ (c : Cmd) (s : State), accepted channelPoolSetSpec c s = true →
    let b := c.payload
    let ch := byteAt b 0
    let fl := byteAt b 1
    let priv := bit fl 0
    let mins := (List.range 5).map (fun p => le b (8 + 4 * p) 2)
    let maxs := (List.range 5).map (fun p => le b (10 + 4 * p) 2)
    ¬ (!inRange ch 4 63) →
    ¬ (4 < byteAt b 2 || !inRange (le b 4 2) 1 60000 || (bit fl 2 && (s.hif.channels.getD ch {}).inject) || (!priv &&
      (List.range 5).any (fun p => maxs.getD p 0 < mins.getD p 0 || 32768 < maxs.getD p 0))) →
    let old := s.pool.chans.getD ch {}
    let oldMin (p : Nat) : Nat := if old.privileged then 0 else old.mins.getD p 0
    let others (p : Nat) : Nat :=
      ((s.pool.chans.filter (fun e => e.1 != ch && 4 ≤ e.1 && !e.2.privileged)).map (fun e => e.2.mins.getD p 0)).sum
    ¬ (!priv && (List.range 5).any (fun p => oldMin p < mins.getD p 0 && (s.poolCount p < 2 * (others p + mins.getD p 0) ||
      s.poolFree p - s.poolRu p < mins.getD p 0 - oldMin p))) →
    let x := { old with
      privileged := priv, strict := bit fl 1, retain := bit fl 2, upsize := byteAt b 2, retainMs := le b 4 2
      mins := if priv then old.mins else mins, maxs := if priv then old.maxs else maxs }
    let t := { s with pool.chans := s.pool.chans.set ch x }
    exec (.channelPoolSet c) s = s.answered ((List.range 5).foldl (fun (a : State) p => a.notePoolLow p) t) c) ∧
  (∀ (c : Cmd) (s : State), accepted bufShareSpec c s = true →
    let b := c.payload
    let h := le b 0 4
    let req := le b 4 4
    let n := byteAt b 8
    let owners := (List.range n).map (fun i => le b (12 + 4 * i) 4)
    ¬ (!inRange n 1 7 || (s.handle h).isNone || !isOwner req || !owners.all isOwner) →
    ¬ (!s.owns h req) →
    let r := s.shareAll h req owners
    let done := (r.1.filter (fun e => e.1 == stOk)).length
    exec (.bufShare c) s = .next (signalStatus s (Res.finish
      ({ st := r.2, keep := true, status := if done == n then stOk else if done == 0 then ((r.1.head?).map Prod.fst).getD stOk else stPartial, result := r.1.flatMap (fun e => toLe 1 e.1 ++ zeros 3 ++ toLe 4 e.2), applied := done, failIndex := (r.1.findIdx? (fun e => e.1 != stOk)).getD 0xFFFFFFFF } : Res) c))) ∧
  (∀ (c : Cmd) (s : State), accepted bufReleaseSpec c s = true →
    let b := c.payload
    let n := le b 0 2
    let es := (List.range n).map (fun i => (le b (4 + 8 * i) 4, le b (8 + 8 * i) 4))
    ¬ (!inRange n 1 256 || es.any (fun e => (s.handle e.1).isNone || !isOwner e.2)) →
    let r := s.releaseAll es
    let done := (r.1.filter id).length
    exec (.bufRelease c) s = .next (signalStatus s (Res.finish
      ({ st := r.2, keep := true, status := if done == n then stOk else if done == 0 then stNotOwner else stPartial, result := r.1.flatMap (fun ok => toLe 1 (if ok then stOk else stNotOwner)), applied := done, failIndex := (r.1.findIdx? (fun ok => !ok)).getD 0xFFFFFFFF } : Res) c))) ∧
  (∀ (c : Cmd) (s : State), accepted bufInfoSpec c s = true →
    ∀ w0 p i, s.handle (le c.payload 0 4) = some (p, i, w0) →
    exec (.bufInfo c) s = s.answered s c
      (poolRecord (s.poolBuf p i))) ∧
  (∀ (c : Cmd) (s : State), accepted bufCellShareSetSpec c s = true →
    ¬ (1 < byteAt c.payload 0) →
    exec (.bufCellShareSet c) s = s.answered ({ s with buf.shareOn := byteAt c.payload 0 == 1 }) c) ∧
  (∀ (c : Cmd) (s : State), accepted poolStatusGetSpec c s = true →
    exec (.poolStatusGet c) s = s.answered ({ s with pool.low := (List.range 5).map (fun p => (p, s.poolFree p)), pool.chans := s.pool.chans.map (fun e => (e.1, { e.2 with high := e.2.charged.sum })) }) c
      (s.snap 908 poolDims s.poolCurrent)) ∧
  (∀ (handle : Nat) (s : State),
    ¬ (!s.aux.pllLocked) →
    ∀ w0 p i b, s.handle handle = some (p, i, w0) → s.liveBuf handle = some b →
    ∀ t, b.dmaDone = some t → b.owners.contains (ownerOf b.charge) = true →
    (s.ended t (ms b.retainMs)) →
    let r := (s.setPoolBuf p i { b with dmaDone := none }).release handle (ownerOf b.charge) 1
    exec (.retainExpiry handle) s = done s ((r.2.bump 908 12 b.charge).raiseLim 0x0884 0 (fun n => d4 b.charge ++ d4 n))) ∧
  (∀ (port : Nat) (s : State),
    ¬ (96 ≤ port) →
    ¬ (!(s.portExists port && (s.prt port).up && s.dataPlaneOn)) →
    let t := s.refreshTm
    exec (.egressSelection port) s =
      done s (if (t.node (nodeId 0 port)).open_ t.time.ticks then
        t.selectEgress port ((t.buf.queues.map (fun e => e.2.pkts.length + 1)).sum + 1) else t)) ∧
  (∀ (node : Nat) (s : State),
    ¬ (!isNode node) →
    ¬ (!s.aux.pllLocked) →
    exec (.shaperPayoff node) s = .next s.refreshTm) ∧
  (∀ (k : Nat) (s : State),
    ¬ (16 ≤ k) →
    ¬ (!s.aux.pllLocked) →
    let x := s.sched.samples.getD k {}
    ∀ w, x.ended = some w →
    let a := ((List.range x.count).map (fun i => x.first + i)).foldl (fun (a : State) q =>
      let r := a.telPut { type := 1, t32 := s.t32, body := sampleBody k w q }
      r.2.count 809 5 0 0 (b2n r.1)) s
    exec (.sampleWindowEnd k) s = done s { a with sched.samples := a.sched.samples.set k { x with ended := none } })

/-- Each command on the fabric: once accepted (a command), or once its conditions hold (an event), it completes with the
outcome given here. -/
def Obligations.FabricCommandsComplete : Prop :=
  (∀ (c : Cmd) (s : State), accepted fabricConfigSpec c s = true →
    let b := c.payload
    ¬ (!inRange (le b 2 2) 1 50 || !inRange (le b 4 2) 1 1000 || !inRange (byteAt b 6) 1 100 || !inRange (byteAt b 7) 1 100 ||
      !inRange (le b 8 2) 1 1000 || 4 < byteAt b 10) →
    let f := byteAt b 0
    let t := if f == s.fab.fdi then s else (s.removePeer s.fab.fdi).addPeer f false
    exec (.fabricConfig c) s = s.answered (State.noteIdentity { t with fab.fdi := f, fab.early := bit (byteAt b 1) 0, fab.reseqUs := le b 2 2, fab.reasmUs := le b 4 2, fab.windowMs := byteAt b 6, fab.upHoldMs := byteAt b 7, fab.keepUs := le b 8 2, fab.keepUnits := byteAt b 10 }) c) ∧
  (∀ (c : Cmd) (s : State), accepted fabricPeerSetSpec c s = true →
    let f := byteAt c.payload 0
    let on := byteAt c.payload 1
    ¬ (1 < on || (on == 0 && f == s.fab.fdi)) →
    exec (.fabricPeerSet c) s = s.answered (if on == 1 then s.addPeer f false else if s.isPeer f then s.removePeer f else s) c) ∧
  (∀ (c : Cmd) (s : State), accepted protectClassSetSpec c s = true →
    let b := c.payload
    let get (i : Nat) : ProtClass := { prot := bit (byteAt b (4 * i)) 0, base := byteAt b (4 * i + 1), count := byteAt b (4 * i + 2) }
    let l := (List.range 8).map get
    ¬ (l.any (fun x => 15 < x.base || !([1, 2, 4, 8].contains x.count) || 16 < x.base + x.count)) →
    exec (.protectClassSet c) s = s.answered ({ s with fab.prot := numbered 0 l }.refreshTm) c) ∧
  (∀ (c : Cmd) (s : State), accepted creditProfileSetSpec c s = true →
    let b := c.payload
    let p := byteAt b 0
    ¬ (!(s.portExists p || p == 127)) →
    ¬ (!inRange (byteAt b 1) 100 125 || !inRange (le b 4 4) 256 1048576 ||
      (List.range 8).any (fun i => 2 < byteAt b (8 + 4 * i) || !inRange (le b (10 + 4 * i) 2) 1 4096)) →
    let x := s.credit p
    exec (.creditProfileSet c) s = s.answered (
              s.setCredit p { x with
          ratio := byteAt b 1, stop := le b 4 4
          classes := (List.range 8).map (fun i =>
            let y := x.classes.getD i {}
            let k := byteAt b (8 + 4 * i)
            (i, { y with set := k, weight := le b (10 + 4 * i) 2, sTag := if k == y.set then y.sTag else x.v.getD k 0 })) }) c) ∧
  (∀ (c : Cmd) (s : State), accepted planeAdminSpec c s = true →
    let k := byteAt c.payload 0
    let up := byteAt c.payload 1
    ¬ (1 < k || 1 < up) →
    let l := s.fab.planesDown.filter (fun x => x != k)
    (up == 1) →
    exec (.planeAdmin c) s = s.answered ({ s with fab.planesDown := l }.reviewPeers 2) c) ∧
  (∀ (c : Cmd) (s : State), accepted planeAdminSpec c s = true →
    let k := byteAt c.payload 0
    let up := byteAt c.payload 1
    ¬ (1 < k || 1 < up) →
    let l := s.fab.planesDown.filter (fun x => x != k)
    ¬ (up == 1) →
    exec (.planeAdmin c) s = s.answered ({ s with fab.planesDown := l ++ [k] }.planeDownAll k 2) c) ∧
  (∀ (c : Cmd) (s : State), accepted planeRestoreSpec c s = true →
    let k := byteAt c.payload 0
    let f := le c.payload 2 2
    let l := if f == 0xFFFF then s.peerList else [f]
    ¬ (1 < k || (255 < f && f != 0xFFFF)) →
    ¬ (f != 0xFFFF && !s.isPeer f) →
    ¬ (l.any (fun g => !((s.peer g).plane k).protecting)) →
    let t := l.foldl (fun (a : State) g => a.updPlane g k (fun x => { x with restored := true })) s
    exec (.planeRestore c) s = s.answered ((t.raise 0x0983 (d4 f ++ d4 k)).refreshTm) c) ∧
  (∀ (c : Cmd) (s : State), accepted fabricLaneAdminSpec c s = true →
    let l := byteAt c.payload 0
    let on := byteAt c.payload 1
    let x := s.lane l
    ¬ (127 < l || 1 < on) →
    (on == 0) →
    (x.adminOut) →
    exec (.fabricLaneAdmin c) s = s.answered s c) ∧
  (∀ (c : Cmd) (s : State), accepted fabricLaneAdminSpec c s = true →
    let l := byteAt c.payload 0
    let on := byteAt c.payload 1
    let x := s.lane l
    let live (t : State) : Nat := (t.liveLanes (lanePlane l) (laneGroup l)).length
    ¬ (127 < l || 1 < on) →
    (on == 0) →
    ¬ (x.adminOut) →
    let t := s.setLane l { x with adminOut := true }
    exec (.fabricLaneAdmin c) s = s.answered (((t.raise 0x0986 (d4 l ++ d4 3 ++ d4 (live t))).lanesCond).afterLane l) c) ∧
  (∀ (c : Cmd) (s : State), accepted fabricLaneAdminSpec c s = true →
    let l := byteAt c.payload 0
    let on := byteAt c.payload 1
    let x := s.lane l
    ¬ (127 < l || 1 < on) →
    ¬ (on == 0) →
    (!x.adminOut) →
    exec (.fabricLaneAdmin c) s = s.answered s c) ∧
  (∀ (c : Cmd) (s : State), accepted fabricLaneAdminSpec c s = true →
    let l := byteAt c.payload 0
    let on := byteAt c.payload 1
    let x := s.lane l
    let live (t : State) : Nat := (t.liveLanes (lanePlane l) (laneGroup l)).length
    ¬ (127 < l || 1 < on) →
    ¬ (on == 0) →
    ¬ (!x.adminOut) →
    let t := s.setLane l { x with adminOut := false }
    let u := if (t.lane l).live then t.raise 0x0987 (d4 l ++ d4 (live t)) else t
    exec (.fabricLaneAdmin c) s = s.answered (((u.noteGroup s l).lanesCond.reviewPeers 3).refreshTm) c) ∧
  (∀ (c : Cmd) (s : State), accepted fabricStatusGetSpec c s = true →
    exec (.fabricStatusGet c) s = s.answered s c
      (toLe 1 s.fab.fdi ++ zeros 7 ++ (List.range 16).flatMap (fun i => toLe 1 (s.liveLanes (i / 8) (i % 8)).length) ++
        zeros 8 ++ (List.range 256).flatMap s.peerRecord)) ∧
  (∀ (c : Cmd) (s : State), accepted fabricCountersGetSpec c s = true →
    exec (.fabricCountersGet c) s = s.answered s c
      (s.snap 1013 fabDims))

/-- Each event of fabric planes, lanes and control messages, and each heartbeat, resync and control cell that passes R378:
once accepted (a command), or once its conditions hold (an event), it completes with the outcome given here. -/
def Obligations.FabricEventsComplete : Prop :=
  (∀ (s : State),
    ¬ (!s.fabricOn || !s.ended s.fab.hbAt (us 10)) →
    let t := s.peerList.foldl (fun (a : State) f => [0, 1].foldl (fun (b : State) k =>
      let late := (((b.peer f).plane k).lastTick.map (fun t => b.ended t (us 10))).getD false
      (b.heartbeat f k).count 1013 12 k 0 (b2n late)) a) { s with fab.hbAt := s.time.ticks }
    exec .fabricHeartbeatSend s = done s t) ∧
  (∀ (rx : LaneCell) (s₀ : State), s₀.takesCell 1 rx.lane rx.cell = true →
    let s0 := (s₀.laneCell rx.lane rx.cell).bump 1013 1 rx.cell.plane rx.cell.type
    exec (.heartbeatCell rx) s₀ = done s₀ (
      let b := rx.cell.payload
      let fl := be b 13 1
      let k := rx.cell.plane % 2
      let s := if s0.hearingOver rx.cell.src k then s0.stopHearing rx.cell.src k else s0
      let p := s.peer rx.cell.src
      let x := { p with mode := be b 12 1, epoch := be b 8 4, flags := fl, a := { p.a with reported := bit fl 0 }, b := { p.b with reported := bit fl 1 } }
      let y := x.setPlane k { x.plane k with heard := true, lastTick := some s.time.ticks, lastT32 := s.t32 }
      (((s.setPeer rx.cell.src y).reviewPeer rx.cell.src 1).noteSilence rx.cell.src).reviewChange)) ∧
  (∀ (peer : Nat) (plane : Nat) (s : State),
    ¬ (256 ≤ peer || 2 ≤ plane) →
    ¬ (!s.aux.pllLocked) →
    (s.hearingOver peer plane) →
    exec (.hearTimeout peer plane) s = done s (s.stopHearing peer plane)) ∧
  (∀ (peer : Nat) (plane : Nat) (s : State),
    ¬ (256 ≤ peer || 2 ≤ plane) →
    let x := (s.peer peer).plane plane
    ¬ (!(s.fabricOn && s.isPeer peer && x.usable && s.ended x.usableAt (ms s.fab.upHoldMs)) || x.protecting || x.waitAck ||
      x.failed) →
    exec (.upHoldExpiry peer plane) s = done s (s.startResync peer plane)) ∧
  (∀ (rx : LaneCell) (s₀ : State), s₀.takesCell 5 rx.lane rx.cell = true →
    let s := (s₀.laneCell rx.lane rx.cell).bump 1013 1 rx.cell.plane rx.cell.type
    exec (.resync rx) s₀ = done s₀ (
      let b := rx.cell.payload
      let f := rx.cell.src
      let k := be b 2 1
      let hs := be b 4 4
      if be b 0 1 != 1 || 2 ≤ k then s
      else
        let known := ((s.peer f).plane k).rxHs == some hs
        let a := if known then s else
          (List.range 16).foldl (fun (x : State) t =>
            { x with fab.fences := x.fab.fences.set (2 * (16 * f + t) + k) (be b (8 + 4 * t) 4 % 16777216) })
            (s.updPlane f k (fun y => { y with rxHs := some hs }))
        let c := if !known && bit (be b 1 1) 0 then
            { a with fab.windows := a.fab.windows.filter (fun e => e.1 / 16 != f) } else a
        c.sendResync f 2 (be b 1 1 % 2) k hs (zeros 64))) ∧
  (∀ (rx : LaneCell) (s₀ : State), s₀.takesCell 5 rx.lane rx.cell = true →
    let s := (s₀.laneCell rx.lane rx.cell).bump 1013 1 rx.cell.plane rx.cell.type
    exec (.resyncAck rx) s₀ = done s₀ (
      let b := rx.cell.payload
      let f := rx.cell.src
      let k := be b 2 1
      let x := (s.peer f).plane k
      if be b 0 1 != 2 || 2 ≤ k || !x.waitAck || x.hsId != be b 4 4 || !x.usable then s
      else
        let t := s.updPlane f k (fun y => { y with waitAck := false, protecting := true })
        ((t.setPeer f { t.peer f with resetAcked := true }).raise 0x0982 (d4 f ++ d4 k)).refreshTm)) ∧
  (∀ (peer : Nat) (plane : Nat) (s : State),
    ¬ (256 ≤ peer || 2 ≤ plane) →
    let x := (s.peer peer).plane plane
    ¬ (!(s.fabricOn && s.isPeer peer && x.usable)) →
    (x.waitAck && s.ended x.sentAt (us 100)) →
    (x.resends < 10) →
    exec (.resyncResend peer plane) s =
      done s ((s.updPlane peer plane (fun y => { y with resends := y.resends + 1, sentAt := s.time.ticks })).resyncTo
        peer plane x.hsId)) ∧
  (∀ (peer : Nat) (plane : Nat) (s : State),
    ¬ (256 ≤ peer || 2 ≤ plane) →
    let x := (s.peer peer).plane plane
    ¬ (!(s.fabricOn && s.isPeer peer && x.usable)) →
    (x.waitAck && s.ended x.sentAt (us 100)) →
    ¬ (x.resends < 10) →
    exec (.resyncResend peer plane) s =
      done s ((s.updPlane peer plane (fun y => { y with waitAck := false, failed := true, sentAt := s.time.ticks })).raise
        0x0985 (d4 peer ++ d4 plane ++ d4 x.hsId))) ∧
  (∀ (peer : Nat) (plane : Nat) (s : State),
    ¬ (256 ≤ peer || 2 ≤ plane) →
    let x := (s.peer peer).plane plane
    ¬ (!(s.fabricOn && s.isPeer peer && x.usable)) →
    ¬ (x.waitAck && s.ended x.sentAt (us 100)) →
    (x.failed && s.ended x.sentAt (ms 10)) →
    exec (.resyncResend peer plane) s = done s (s.startResync peer plane)) ∧
  (∀ (rx : LaneCell) (s₀ : State), s₀.takesCell 4 rx.lane rx.cell = true →
    let s := (s₀.laneCell rx.lane rx.cell).bump 1013 1 rx.cell.plane rx.cell.type
    exec (.controlCell rx) s₀ = done s₀ (
      let b := rx.cell.payload
      let key := 65536 * rx.cell.src + be b 0 2
      let i := be b 2 1
      let n := be b 3 1
      let len := be b 4 2
      if !inRange n 1 16 || n ≤ i || !inRange len 1 248 then s
      else
        let x := s.fab.ctrlRx.getD key { frags := [], count := n, since := s.time.ticks }
        let y := { x with frags := x.frags.set i (slice b 8 len) }
        if y.frags.length == y.count then { s with fab.ctrlRx := s.fab.ctrlRx.del key }.bump 1013 15
        else { s with fab.ctrlRx := s.fab.ctrlRx.set key y })) ∧
  (∀ (src : Nat) (msgId : Nat) (s : State),
    ¬ (256 ≤ src || 65536 ≤ msgId) →
    ¬ (!s.aux.pllLocked) →
    ∀ x, s.fab.ctrlRx.get? (65536 * src + msgId) = some x →
    (s.ended x.since (ms 1)) →
    exec (.controlMessageTimeout src msgId) s =
      done s ({ s with fab.ctrlRx := s.fab.ctrlRx.del (65536 * src + msgId) }.bump 1013 16)) ∧
  (∀ (lane : Nat) (lockLost : Bool) (s : State),
    ¬ (128 ≤ lane) →
    let x := s.lane lane
    ¬ (!s.aux.pllLocked || x.removed || !x.trained || x.adminOut) →
    (lockLost) →
    (!x.lock && s.ended x.lockLost (ms 1)) →
    exec (.fabricLaneFault lane lockLost) s = done s (s.removeLane lane 1)) ∧
  (∀ (lane : Nat) (lockLost : Bool) (s : State),
    ¬ (128 ≤ lane) →
    let x := s.lane lane
    ¬ (!s.aux.pllLocked || x.removed || !x.trained || x.adminOut) →
    ¬ (lockLost) →
    exec (.fabricLaneFault lane lockLost) s = done s (s.removeLane lane 0)) ∧
  (∀ (lane : Nat) (trained : Bool) (s : State),
    ¬ (128 ≤ lane) →
    let x := s.lane lane
    let late := x.trainAt.any (fun t => s.ended t (ms 500))
    ¬ (!s.aux.pllLocked || x.trained || x.retryAt.isSome || !(trained || late || x.trainAt.isNone)) →
    (trained && !late) →
    let t := s.setLane lane { x with
      trained := true, removed := false, attempts := 0, lock := false, lockLost := s.time.ticks, goodRun := 0, badRun := 0 }
    exec (.fabricLaneTrainingEnd lane trained) s =
      done s (if x.removed then
        (t.raise 0x0987 (d4 lane ++ d4 (t.liveLanes (lanePlane lane) (laneGroup lane)).length)).lanesCond
      else t)) ∧
  (∀ (lane : Nat) (trained : Bool) (s : State),
    ¬ (128 ≤ lane) →
    let x := s.lane lane
    let late := x.trainAt.any (fun t => s.ended t (ms 500))
    ¬ (!s.aux.pllLocked || x.trained || x.retryAt.isSome || !(trained || late || x.trainAt.isNone)) →
    ¬ (trained && !late) →
    (x.attempts < 2) →
    exec (.fabricLaneTrainingEnd lane trained) s =
      done s (s.setLane lane { x with attempts := x.attempts + 1, trainAt := some s.time.ticks })) ∧
  (∀ (lane : Nat) (trained : Bool) (s : State),
    ¬ (128 ≤ lane) →
    let x := s.lane lane
    let late := x.trainAt.any (fun t => s.ended t (ms 500))
    ¬ (!s.aux.pllLocked || x.trained || x.retryAt.isSome || !(trained || late || x.trainAt.isNone)) →
    ¬ (trained && !late) →
    ¬ (x.attempts < 2) →
    let t := s.setLane lane { x with attempts := 0, removed := true, retryAt := some s.time.ticks }
    let u := t.raise 0x0986 (d4 lane ++ d4 2 ++ d4 (t.liveLanes (lanePlane lane) (laneGroup lane)).length)
    exec (.fabricLaneTrainingEnd lane trained) s = done s (u.noteGroup s lane).lanesCond) ∧
  (∀ (lane : Nat) (s : State),
    ¬ (128 ≤ lane) →
    let x := s.lane lane
    (s.aux.pllLocked && (x.retryAt.map (fun t => s.ended t (secs 10))).getD false) →
    exec (.fabricTrainingRetry lane) s = done s (s.setLane lane { x with retryAt := none, trainAt := some s.time.ticks })) ∧
  (∀ (lane : Nat) (s : State),
    ¬ (128 ≤ lane) →
    ¬ (!s.aux.pllLocked) →
    exec (.laneLockDeclared lane) s = done s (s.declareLock lane)) ∧
  (∀ (lane : Nat) (s : State),
    ¬ (128 ≤ lane) →
    ¬ (!s.aux.pllLocked) →
    ¬ (!(s.lane lane).lock) →
    exec (.laneLockLost lane) s = done s (s.loseLock lane))

/-- Each event of dispatch, reassembly, protected copies and credits: once accepted (a command), or once its conditions hold
(an event), it completes with the outcome given here. -/
def Obligations.CellsComplete : Prop :=
  (∀ (port : Nat) (s : State),
    ¬ (96 ≤ port) →
    ¬ (!s.dataPlaneOn) →
    ∀ pid, s.oldestTail port = some pid →
    exec (.frameTail port) s = done s ((s.tailAll pid).count 307 6 port 0 (b2n (s.abortsSecured pid))).refreshTm) ∧
  (∀ (s : State),
    ¬ (!s.dataPlaneOn) →
    exec .dispatchSelection s = done s (s.refreshTm.selectDispatch ((s.buf.queues.map (fun e => e.2.pkts.length + 1)).sum + 1))) ∧
  (∀ (lane : Nat) (cell : Cell) (s₀ : State), s₀.takesCell 0 lane cell = true →
    let t := (s₀.laneCell lane cell).bump 1013 1 cell.plane cell.type
    exec (.dataCell lane cell) s₀ = done s₀ (t.takeCell cell)) ∧
  (∀ (src : Nat) (plane : Nat) (lgroup : Nat) (s : State),
    ¬ (256 ≤ src || 2 ≤ plane || 8 ≤ lgroup) →
    ¬ (!s.aux.pllLocked) →
    let x := s.fab.reseq.getD (reseqKey src plane lgroup) {}
    (x.waiting.any (fun e => s.ended e.1 (us s.fab.reseqUs))) →
    exec (.resequenceTimeout src plane lgroup) s = done s (s.giveUp src plane lgroup)) ∧
  (∀ (src : Nat) (plane : Nat) (lgroup : Nat) (tc : Nat) (prot : Bool) (s : State),
    ¬ (256 ≤ src || 2 ≤ plane || 8 ≤ lgroup || 16 ≤ tc || (8 ≤ tc && !prot)) →
    ¬ (!s.aux.pllLocked) →
    let k := ctxKey src plane lgroup tc prot tc
    let x := s.fab.ctxs.getD k {}
    ¬ (!x.open_ || !s.ended x.last (us s.fab.reasmUs)) →
    exec (.reassemblyTimeout src plane lgroup tc prot) s = done s (s.discardCtx k 0x4C)) ∧
  (∀ (src : Nat) (plane : Nat) (stream : Nat) (s : State),
    ¬ (256 ≤ src || 2 ≤ plane || 16 ≤ stream) →
    ¬ (!s.aux.pllLocked) →
    ∀ d r, takeCopy src plane stream s.fab.copies = some (d, r) →
    let e := ({ s with fab.copies := r }).eliminate src stream plane d.pseq
    e.1 = .deliver →
    exec (.protectedCopyComplete src plane stream) s =
      done s ({ e.2 with fab.done := e.2.fab.done ++ [d] }.bump 1013 4 plane)) ∧
  (∀ (src : Nat) (plane : Nat) (stream : Nat) (s : State),
    ¬ (256 ≤ src || 2 ≤ plane || 16 ≤ stream) →
    ¬ (!s.aux.pllLocked) →
    ∀ d r, takeCopy src plane stream s.fab.copies = some (d, r) →
    let e := ({ s with fab.copies := r }).eliminate src stream plane d.pseq
    e.1 = .duplicate →
    exec (.protectedCopyComplete src plane stream) s = done s ((e.2.reasmAdd 0 d.cells).bump 1013 3 plane)) ∧
  (∀ (src : Nat) (plane : Nat) (stream : Nat) (s : State),
    ¬ (256 ≤ src || 2 ≤ plane || 16 ≤ stream) →
    ¬ (!s.aux.pllLocked) →
    ∀ d r, takeCopy src plane stream s.fab.copies = some (d, r) →
    let e := ({ s with fab.copies := r }).eliminate src stream plane d.pseq
    ∀ code, e.1 = .drop code →
    exec (.protectedCopyComplete src plane stream) s = done s ((e.2.reasmAdd 0 d.cells).dropFab code)) ∧
  (∀ (s : State),
    ∀ d r, s.fab.done = d :: r →
    ¬ (!s.dataPlaneOn) →
    let p := { packetFrom d.bytes with pid := s.buf.pidSeq, cells := cellsFor (be d.bytes 4 2) }
    let a := { s with fab.done := r, buf.pidSeq := s.buf.pidSeq + 1 }
    exec .reassemblyComplete s = done s (((a.deliver p).reasmAdd 0 d.cells).refreshTm)) ∧
  (∀ (src : Nat) (stream : Nat) (s : State),
    ¬ (256 ≤ src || 16 ≤ stream) →
    ¬ (!s.aux.pllLocked) →
    ∀ w, s.fab.windows.get? (16 * src + stream) = some w →
    (s.ended w.last (ms s.fab.windowMs)) →
    exec (.windowIdleExpiry src stream) s = done s { s with fab.windows := s.fab.windows.del (16 * src + stream) }) ∧
  (∀ (rx : LaneCell) (s₀ : State), s₀.takesCell 2 rx.lane rx.cell = true →
    let s := (s₀.laneCell rx.lane rx.cell).bump 1013 1 rx.cell.plane rx.cell.type
    exec (.creditRequest rx) s₀ = done s₀ (
      (creditEntries rx.cell.payload).foldl (fun (a : State) e =>
        let q := e % 262144
        let p := q / 8 % 128
        let key := 524288 * rx.cell.src + q
        if q / 1024 != a.fab.fdi then a
        else if e / 1073741824 == 1 then a.setCredit p ((a.credit p).join key a.time.ticks)
        else if e / 1073741824 == 2 then a.setCredit p ((a.credit p).leave key)
        else a) s)) ∧
  (∀ (voq : Nat) (s : State),
    ¬ (262144 ≤ voq) →
    let x := s.queue voq
    ¬ (x.pkts.isEmpty || !s.fabricOn || !s.ended x.reqAt (us 50)) →
    exec (.creditRequestRefresh voq) s =
      done s ((s.creditReq voq true).updQueue voq (fun y => { y with reqAt := s.time.ticks }))) ∧
  (∀ (src : Nat) (voq : Nat) (s : State),
    ¬ (256 ≤ src || 262144 ≤ voq) →
    ¬ (!s.aux.pllLocked) →
    let p := voq / 8 % 128
    let key := 524288 * src + voq
    ∀ t, (s.credit p).active.get? key = some t →
    (s.ended t (us 200)) →
    exec (.voqActiveTimeout src voq) s = done s (s.setCredit p ((s.credit p).leave key))) ∧
  (∀ (port : Nat) (s : State),
    ¬ (!(port < 96 || port == 127)) →
    let x := s.credit port
    let dt := s.unitTime port
    let now := 1000 * s.time.ticks
    ¬ (dt == 0 || !s.fabricOn || now < x.budgetAt + dt || x.stop < s.portCells port ||
      s.buf.reasmCells - s.buf.reasmUsed < 4096) →
    let cls := (List.range 8).filter (fun tc => !(x.asking tc).isEmpty)
    ∀ tc, pickChild (cls.map (fun tc => (tc, (x.classes.getD tc {}).set, (x.classes.getD tc {}).sTag))) = some tc →
    ∀ key, pickChild ((x.asking tc).map (fun k => (k, 2, (x.tags.getD k (0, 0)).1))) = some key →
    let c := x.classes.getD tc {}
    let t := x.tags.getD key (0, 0)
    let fq := finishTag t.1 4096 1
    let fc := finishTag c.sTag 4096 c.weight
    let y := { x with
      budgetAt := Nat.max (x.budgetAt + dt) (now - dt)
      tags := x.tags.set key (fq, fq)
      classes := x.classes.set tc { c with sTag := fc, fTag := fc, v := t.1, maxF := tagMax c.maxF fq }
      v := setAt x.v c.set c.sTag, maxF := setAt x.maxF c.set (tagMax (x.maxF.getD c.set 0) fc) }
    exec (.creditIssue port) s = done s (((s.setCredit port y).bump 1013 8).addGrant (key / 524288) (key % 262144))) ∧
  (∀ (src : Nat) (s : State),
    ¬ (256 ≤ src) →
    ¬ (!s.aux.pllLocked) →
    ∀ g, s.fab.grants.get? src = some g →
    (s.ended g.since (us 1)) →
    exec (.grantBatchTimeout src) s = done s (s.sendGrants src)) ∧
  (∀ (rx : LaneCell) (s₀ : State), s₀.takesCell 3 rx.lane rx.cell = true →
    let s := (s₀.laneCell rx.lane rx.cell).bump 1013 1 rx.cell.plane rx.cell.type
    exec (.creditGrant rx) s₀ = done s₀ (
      ((creditEntries rx.cell.payload).foldl (fun (a : State) e =>
        let q := e % 262144
        let n := e / 262144 % 64
        if q / 1024 != rx.cell.src then a
        else
          let x := a.queue q
          let room := (16384 - x.credit).toNat
          let add := 4096 * n
          ((((a.setQueue q { x with credit := x.credit + (Nat.min add room : Nat) }).count 1013 9 0 0 n).count 1013 10 0 0
            (add - room)).perfCount 1 0x23 rx.cell.plane 3 n).boundKept q) s).refreshTm)) ∧
  (∀ (voq : Nat) (s : State),
    ¬ (262144 ≤ voq) →
    ¬ (!s.aux.pllLocked) →
    let x := s.queue voq
    ¬ (!x.pkts.isEmpty || !((x.keepAt.map (fun t => s.ended t (us s.fab.keepUs))).getD false)) →
    exec (.creditKeepExpiry voq) s =
      done s ((s.setQueue voq { x with credit := min x.credit 0, keepAt := none }).count 1013 11 0 0 x.credit.toNat).refreshTm)

/-- Each command of class 0x0A on edit programs, multicast groups and ports, and each event of editing and transmission: once
accepted (a command), or once its conditions hold (an event), it completes with the outcome given here. -/
def Obligations.EditComplete : Prop :=
  (∀ (c : Cmd) (s : State), accepted editProgramSetSpec c s = true →
    let p := le c.payload 0 2
    let n := byteAt c.payload 2
    ¬ (!inRange p 1 1023 || !inRange n 1 32) →
    let l := (List.range n).map (fun i => BitVec.ofNat 32 (le c.payload (4 + 4 * i) 4))
    exec (.editProgramSet c) s = s.answered ({ s with edit.programs := s.edit.programs.set p l }.editMended 1 ((List.range 32).map (fun i => p * 32 + i))) c) ∧
  (∀ (c : Cmd) (s : State), accepted mcastGroupSetSpec c s = true →
    let b := c.payload
    let g := le b 0 2
    let n := le b 2 2
    let map := le b 4 32
    let l := (List.range n).map (fun i => memberOf (le b (36 + 4 * i) 4))
    let old := s.edit.groups.getD g {}
    ¬ (1024 < n || l.any (fun m => 95 < m.port)) →
    (map == 0 && n == 0) →
    let x : McGroup := { deletedAt := some (s.tbl.epoch + s.retireEpochs) }
    let t := { s with edit.oldBlocks := s.edit.oldBlocks ++
      (if old.members.isEmpty then [] else [(g, old.base, old.members.length)]) }
    exec (.mcastGroupSet c) s = s.answered (if (s.mcGroup? g).isSome then { t with edit.groups := s.edit.groups.set g x }.editMended 2 [g] else s) c) ∧
  (∀ (c : Cmd) (s : State), accepted mcastGroupSetSpec c s = true →
    let b := c.payload
    let g := le b 0 2
    let n := le b 2 2
    let map := le b 4 32
    let l := (List.range n).map (fun i => memberOf (le b (36 + 4 * i) 4))
    let old := s.edit.groups.getD g {}
    ¬ (1024 < n || l.any (fun m => 95 < m.port)) →
    ¬ (map == 0 && n == 0) →
    ¬ (old.deletedAt.any (fun k => s.tbl.epoch ≤ k)) →
    ¬ (l.any (fun m => m.encap.any (fun e => !s.encapSet? e))) →
    ∀ base, (if n == 0 then some 0 else s.mcastRun n) = some base →
    let t := { s with
      edit.groups := s.edit.groups.set g { map, base, members := l }
      edit.oldBlocks := s.edit.oldBlocks ++
        (if old.members.isEmpty then [] else [(g, old.base, old.members.length)]) }
    exec (.mcastGroupSet c) s = s.answered ((t.editMended 2 [g]).editMended 3 ((List.range n).map (· + base))) c) ∧
  (∀ (c : Cmd) (s : State), accepted mcastGroupGetSpec c s = true →
    let x := s.edit.groups.getD (le c.payload 0 2) {}
    exec (.mcastGroupGet c) s = s.answered s c
      (toLe 40 x.encode ++ x.members.flatMap (fun m => toLe 4 m.encode))) ∧
  (∀ (c : Cmd) (s : State), accepted editPortSetSpec c s = true →
    let p := byteAt c.payload 0
    ¬ (!s.portExists p) →
    exec (.editPortSet c) s = s.answered (s.updPrt p (fun x => { x with tcEnable := byteAt c.payload 1 == 1 })) c) ∧
  (∀ (c : Cmd) (s : State), accepted mcastConfigSpec c s = true →
    let r := le c.payload 0 4
    ¬ (!inRange r 1 4800) →
    exec (.mcastConfig c) s = s.answered ({ s with edit.mcastRate := r }) c) ∧
  (∀ (c : Cmd) (s : State), accepted editTestSpec c s = true →
    let b := c.payload
    let e := le b 0 4
    let n := le b 10 2
    ¬ (!inRange n 14 9728 || 1 < byteAt b 8) →
    ¬ (bit e 31 && !(s.encap (e % 262144)).valid) →
    let y := s.editFrame (slice b 12 n) (editWordOf (le b 4 4)) (byteAt b 8 == 1)
      (if bit e 31 then some (e % 262144) else none)
    exec (.editTest c) s = s.answered s c
      (if y.code != 0 then toLe 1 y.code ++ zeros 3 else zeros 2 ++ toLe 2 y.x.d.length ++ y.x.d)) ∧
  (∀ (c : Cmd) (s : State), accepted editCountersGetSpec c s = true →
    exec (.editCountersGet c) s = s.answered s c
      (s.snap 1113 editDims)) ∧
  (∀ (port : Nat) (s : State),
    ¬ (96 ≤ port) →
    ∀ p r, (s.prt port).feQ = p :: r →
    ¬ (!s.dataPlaneOn) →
    let a := s.updPrt port (fun x => { x with feQ := r })
    let es := s.engines port
    es[s.edit.rr.getD port 0 % es.length]? = none →
    exec (.editPacket port) s = done s (if s.portExists port then a.editDrop 0x5D port p.tsReq else a.txDrop port 0x0C p.tsReq)) ∧
  (∀ (port : Nat) (s : State),
    ¬ (96 ≤ port) →
    ∀ p r, (s.prt port).feQ = p :: r →
    ¬ (!s.dataPlaneOn) →
    let a := s.updPrt port (fun x => { x with feQ := r })
    let es := s.engines port
    ∀ n, es[s.edit.rr.getD port 0 % es.length]? = some n →
    let seq := (s.edit.pktSeq.getD n 0 + 1) % 33554432
    let y := s.editFrame p.frame p.edit p.ce p.encap
    let b := ({ a with
      edit.rr := a.edit.rr.set port ((s.edit.rr.getD port 0 + 1) % es.length)
      edit.pktSeq := a.edit.pktSeq.set n seq
      tel.ran := if bit s.tel.engines n then a.tel.ran.upd n 0 (fun k => k + y.ran) else a.tel.ran }.bump 1113 0 n).perfCount 0 6 n 1
    (y.code != 0) →
    let c := b.editDrop y.code port p.tsReq
    exec (.editPacket port) s = done s (match y.fault with | some (i, w) => c.editFault n y.program p.encap y.code i w | none => c)) ∧
  (∀ (port : Nat) (s : State),
    ¬ (96 ≤ port) →
    ∀ p r, (s.prt port).feQ = p :: r →
    ¬ (!s.dataPlaneOn) →
    let a := s.updPrt port (fun x => { x with feQ := r })
    let es := s.engines port
    ∀ n, es[s.edit.rr.getD port 0 % es.length]? = some n →
    let seq := (s.edit.pktSeq.getD n 0 + 1) % 33554432
    let y := s.editFrame p.frame p.edit p.ce p.encap
    let b := ({ a with
      edit.rr := a.edit.rr.set port ((s.edit.rr.getD port 0 + 1) % es.length)
      edit.pktSeq := a.edit.pktSeq.set n seq
      tel.ran := if bit s.tel.engines n then a.tel.ran.upd n 0 (fun k => k + y.ran) else a.tel.ran }.bump 1113 0 n).perfCount 0 6 n 1
    ¬ (y.code != 0) →
    let c := match p.encap with
      | some h => if (s.encap h).countEn then b.pairAdd (2228224 + h) (y.x.d.length + 4) else b
      | none => b
    exec (.editPacket port) s = done s (c.toMac port y.x p.edit p.rxT32 p.tsReq (be p.frame 12 2 == 0x888E))) ∧
  (∀ (port : Nat) (s : State),
    ¬ (96 ≤ port) →
    let q := s.prt port
    ∀ f r, q.txBuf = f :: r →
    let now : T32 := s.t32 + BitVec.ofInt 32 q.txAdjust
    let held := match f.launch with | some l => !T32.reached now l | none => false
    ¬ (!(s.portExists port && q.up && s.dataPlaneOn) || q.remoteFault || q.sending.isSome || held ||
      q.lpiWake.any (fun t => s.time.ticks < t)) →
    let late := match f.launch with | some l => decide (1 < (now - l).toNat) | none => false
    let tTx := match f.launch with | some l => if late then now else l | none => now
    let res := (tTx - f.rxT32).toNat
    let fix := q.tcEnable && f.launch.isNone
    let udp := if f.udpOff == 0 then none else some f.udpOff
    let d := match f.ptpOff with | some p => if fix then correct f.frame p udp f.ipv4Udp res else f.frame | none => f.frame
    let w := padTo (max 60 d.length) d
    let bytes := w ++ fcsOf w
    let sent := s.port.sent ++ [{ port, bytes, tTx : Sent }]
    let a := { s.setPrt port { q with txBuf := r, sending := some bytes.length, lpiWake := none } with port.sent := sent }
    let b := (((a.bump 207 3 port).count 207 4 port 0 bytes.length).perfCount 0 1 port 3).histAt 1 port res tTx
    let c := if fix && f.ptpOff.isSome then b.bump 1113 6 else b
    let e := match f.tsReq with
      | some tag => if f.tsOver then c.txTimestamp port 2 tag 0 f 0 else c.txTimestamp port 0 tag tTx.toNat f 0
      | none => c
    exec (.transmitStart port) s = done s (if late then (e.bump 307 11 port).txTimestamp port 3 0 tTx.toNat f ((f.launch.map (·.toNat)).getD 0) else e)) ∧
  (∀ (group : Nat) (s : State),
    ¬ (!s.aux.pllLocked) →
    (s.edit.oldBlocks.any (fun b => b.1 == group)) →
    exec (.mcastBlockRelease group) s = done s { s with edit.oldBlocks := s.edit.oldBlocks.filter (fun b => b.1 != group) }) ∧
  (∀ (engine : Nat) (held : Nat) (s : State),
    ¬ (100 ≤ engine) →
    ¬ (s.edit.dead.contains engine || !s.dataPlaneOn) →
    let lane := if engine < 96 then some engine else (s.edit.engineOf.find? (fun e => e.2 == engine)).map Prod.fst
    let a := match lane.bind s.laneOwner with
      | some p =>
        ((s.prt p).feQ.take held).foldl (fun (t : State) (k : QPkt) => t.editDrop 0x5D p k.tsReq)
          (s.updPrt p (fun x => { x with feQ := x.feQ.drop held }))
      | none => s
    let spare := if lane.isSome then (s.edit.sparesLeft.filter (· != engine)).head? else none
    exec (.editEngineError engine held) s =
      done s ((a.retireEngine engine).record
        { kind := 7, die := 0, cause := 2, unit := engine, index := spare.getD 0xFFFFFFFF, hours := s.hours }))

/-- Each command on the packet memory: once accepted (a command), or once its conditions hold (an event), it completes with
the outcome given here. -/
def Obligations.HbmCommandsComplete : Prop :=
  (∀ (c : Cmd) (s : State), accepted hbmConfigSpec c s = true →
    let b := c.payload
    ¬ (!inRange (le b 0 4) 10 10000 || !inRange (le b 4 4) 60 86400 || !inRange (le b 8 2) 100 4000 ||
      !inRange (le b 10 2) 10 10000) →
    exec (.hbmConfig c) s = s.answered ({ s with hbm.srIdleUs := le b 0 4, hbm.retrainS := le b 4 4, hbm.evacGbps := le b 8 2, hbm.evacMs := le b 10 2 }) c) ∧
  (∀ (c : Cmd) (s : State), accepted hbmStatusGetSpec c s = true →
    let p := byteAt c.payload 0
    let n := byteAt c.payload 1
    ¬ (!inRange n 1 128 || 128 < p + n) →
    exec (.hbmStatusGet c) s = s.answered s c
      ((List.range n).flatMap (fun i => toLe 8 (s.pcRecord (p + i))))) ∧
  (∀ (c : Cmd) (s : State), accepted hbmRetrainSpec c s = true →
    let k := byteAt c.payload 0
    let n := byteAt c.payload 1
    ¬ (3 < k || 15 < n) →
    ¬ (s.retraining) →
    exec (.hbmRetrain c) s = s.answered (s.askRetrain (16 * k + n)) c) ∧
  (∀ (c : Cmd) (s : State), accepted hbmPcRetireSpec c s = true →
    let p := byteAt c.payload 0
    ¬ (127 < p) →
    ((s.pcOf p).state == 2) →
    exec (.hbmPcRetire c) s = s.answered s c) ∧
  (∀ (c : Cmd) (s : State), accepted hbmPcRetireSpec c s = true →
    let p := byteAt c.payload 0
    ¬ (127 < p) →
    ¬ ((s.pcOf p).state == 2) →
    exec (.hbmPcRetire c) s = s.opened (s.askRetire p 5) c (.pcRetire p)) ∧
  (∀ (c : Cmd) (s : State), accepted hbmPcRestoreSpec c s = true →
    let p := byteAt c.payload 0
    let n := s.tbl.freeIx
    let a := { s with tbl.freeIx := n + 1 }
    ¬ (127 < p || (s.pcOf p).state != 2) →
    (!Config.pcTrains n) →
    exec (.hbmPcRestore c) s = .next (signalStatus s (Res.finish
      ({ st := a, status := stRefused, keep := true } : Res) c))) ∧
  (∀ (c : Cmd) (s : State), accepted hbmPcRestoreSpec c s = true →
    let p := byteAt c.payload 0
    let n := s.tbl.freeIx
    let a := { s with tbl.freeIx := n + 1 }
    ¬ (127 < p || (s.pcOf p).state != 2) →
    ¬ (!Config.pcTrains n) →
    let b := a.setPc p { a.pcOf p with state := 0, cause := 0 }
    let l := s.mode.repairs.map (fun r => if r.kind == 0xE && r.unit == p then { r with flags := r.flags ||| 2 } else r)
    exec (.hbmPcRestore c) s = s.answered ({ b with mode.repairs := l, mode.uncommitted := s.mode.uncommitted + 1 }.retireLimit) c) ∧
  (∀ (c : Cmd) (s : State), accepted hbmCountersGetSpec c s = true →
    exec (.hbmCountersGet c) s = s.answered s c
      (s.snap 1207 hbmDims))

/-- Each event of the packet memory: requests, refresh, self-refresh, errors, training, evacuation, scrub and row repair: once
accepted (a command), or once its conditions hold (an event), it completes with the outcome given here. -/
def Obligations.HbmEventsComplete : Prop :=
  (∀ (pc : Nat) (port : Nat) (bank : Nat) (row : Nat) (write : Bool) (s : State),
    ¬ (128 ≤ pc || 7 ≤ port || 32 ≤ bank || 16384 ≤ row) →
    ¬ (!s.aux.pllLocked || (s.pcOf pc).state == 2) →
    let k := pc / 32
    let st := s.stack k
    let r : HbmReq := { id := s.hbm.reqSeq, pc, port, bank, row, write, at_ := s.time.ticks, held := st.selfRefresh }
    let a := { s with hbm.reqs := s.hbm.reqs ++ [r], hbm.reqSeq := s.hbm.reqSeq + 1 }.perfCount 1 0x25 port 1
    let b := a.setStack k { st with lastReq := s.time.ticks, closing := false }
    let c := if st.closing then b.bump 1207 8 k else b
    exec (.hbmRequest pc port bank row write) s = done s (if st.selfRefresh then c.deadlineMiss port else c)) ∧
  (∀ (req : Nat) (s : State),
    ¬ (!s.aux.pllLocked) →
    ∀ r, s.hbm.reqs.find? (fun r => r.id == req) = some r →
    ¬ (urgencyOf r.port (s.time.ticks - r.at_) ≤ r.urgency) →
    exec (.requestUrgencyRise req) s = done s (s.riseReq r)) ∧
  (∀ (pc : Nat) (bank : Nat) (s : State),
    ¬ (128 ≤ pc || 32 ≤ bank) →
    ¬ (!s.aux.pllLocked || (s.stack (pc / 32)).selfRefresh || (s.pcOf pc).state == 2) →
    let x := s.bank pc bank
    let urgent := s.hbm.reqs.any (fun r => r.pc == pc && r.bank == bank && 2 ≤ r.urgency)
    (urgent && x.owed < 8) →
    exec (.hbmRefreshDue pc bank) s = done s ((s.setBank pc bank { x with owed := x.owed + 1 }).bump 1207 5)) ∧
  (∀ (pc : Nat) (bank : Nat) (s : State),
    ¬ (128 ≤ pc || 32 ≤ bank) →
    ¬ (!s.aux.pllLocked || (s.stack (pc / 32)).selfRefresh || (s.pcOf pc).state == 2) →
    let x := s.bank pc bank
    let urgent := s.hbm.reqs.any (fun r => r.pc == pc && r.bank == bank && 2 ≤ r.urgency)
    ¬ (urgent && x.owed < 8) →
    (urgent) →
    exec (.hbmRefreshDue pc bank) s =
      done s (({ s with hbm.refreshed := s.hbm.refreshed ++ [pc] }.setBank pc bank { x with openRow := none }).bump 1207 6)) ∧
  (∀ (pc : Nat) (bank : Nat) (s : State),
    ¬ (128 ≤ pc || 32 ≤ bank) →
    ¬ (!s.aux.pllLocked || (s.stack (pc / 32)).selfRefresh || (s.pcOf pc).state == 2) →
    let x := s.bank pc bank
    let urgent := s.hbm.reqs.any (fun r => r.pc == pc && r.bank == bank && 2 ≤ r.urgency)
    ¬ (urgent && x.owed < 8) →
    ¬ (urgent) →
    exec (.hbmRefreshDue pc bank) s = done s (s.setBank pc bank { x with owed := 0, openRow := none })) ∧
  (∀ (stack : Nat) (s : State),
    ¬ (4 ≤ stack) →
    ¬ (!s.aux.pllLocked) →
    let x := s.stack stack
    ¬ (s.mode.mode != mdParked || x.selfRefresh) →
    (x.closing) →
    exec (.selfRefreshIdle stack) s =
      done s ((s.setStack stack { x with closing := false, selfRefresh := true, entryAt := s.time.ticks, exitAt := none }).bump
        1207 7 stack)) ∧
  (∀ (stack : Nat) (s : State),
    ¬ (4 ≤ stack) →
    ¬ (!s.aux.pllLocked) →
    let x := s.stack stack
    ¬ (s.mode.mode != mdParked || x.selfRefresh) →
    ¬ (x.closing) →
    (s.ended x.lastReq (us s.hbm.srIdleUs) && !s.hbm.reqs.any (fun r => r.pc / 32 == stack) &&
      !s.hbm.banks.any (fun e => inStack stack e.1 && e.2.owed != 0)) →
    exec (.selfRefreshIdle stack) s =
      done s (({ s with
        hbm.banks := s.hbm.banks.map (fun (e : Nat × Bank) => if inStack stack e.1 then (e.1, { e.2 with openRow := none }) else e) }).setStack
          stack { x with closing := true })) ∧
  (∀ (stack : Nat) (s : State),
    ¬ (4 ≤ stack) →
    ¬ (!s.aux.pllLocked) →
    let x := s.stack stack
    (x.selfRefresh && s.hbm.reqs.any (fun r => r.pc / 32 == stack) && s.ended x.entryAt 300) →
    exec (.selfRefreshExit stack) s =
      done s ((s.setStack stack { x with selfRefresh := false, exitAt := some s.time.ticks }).count 1207 9 stack 0
        ((s.time.ticks - x.entryAt) / 750))) ∧
  (∀ (channel : Nat) (from_ : Nat) (s : State),
    ¬ (64 ≤ channel) →
    ¬ (!s.aux.pllLocked) →
    let x := s.hbmChan channel
    ¬ (x.training.isSome || !x.retry.contains from_) →
    (x.replay.isSome) →
    let a := s.bump 1207 3 channel
    (3 ≤ x.failed + 1) →
    exec (.hbmParityError channel from_) s = done s (a.unplanned channel)) ∧
  (∀ (channel : Nat) (from_ : Nat) (s : State),
    ¬ (64 ≤ channel) →
    ¬ (!s.aux.pllLocked) →
    let x := s.hbmChan channel
    ¬ (x.training.isSome || !x.retry.contains from_) →
    (x.replay.isSome) →
    let a := s.bump 1207 3 channel
    ¬ (3 ≤ x.failed + 1) →
    exec (.hbmParityError channel from_) s =
      done s ((a.setHbmChan channel { x with replay := some from_, failed := x.failed + 1 }).bump 1207 2 channel)) ∧
  (∀ (channel : Nat) (from_ : Nat) (s : State),
    ¬ (64 ≤ channel) →
    ¬ (!s.aux.pllLocked) →
    let x := s.hbmChan channel
    ¬ (x.training.isSome || !x.retry.contains from_) →
    ¬ (x.replay.isSome) →
    exec (.hbmParityError channel from_) s =
      done s ((s.setHbmChan channel { x with replay := some from_ }).bump 1207 2 channel)) ∧
  (∀ (pc : Nat) (bank : Nat) (row : Nat) (correctable : Bool) (repairable : Bool) (use : HbmUse) (s : State),
    ¬ (128 ≤ pc || 32 ≤ bank || 16384 ≤ row) →
    ¬ ((s.pcOf pc).state == 2 || !s.aux.pllLocked) →
    let a := s.bump 1207 (if correctable then 0 else 1) pc
    let b := if correctable then a
      else match use with
        | .segment seg first =>
          (a.segLost seg first).refreshTm
        | .counter i => a.zeroPairs (2 * i) 2 (fun p => p / 2 == i)
    exec (.hbmReadError pc bank row correctable repairable use) s = done s (b.rowError pc bank row correctable repairable)) ∧
  (∀ (channel : Nat) (marginLost : Bool) (s : State),
    ¬ (64 ≤ channel) →
    ¬ (!marginLost || !s.aux.pllLocked || (s.hbmChan channel).training.isSome || ((s.pcOf (2 * channel)).state == 2 &&
      (s.pcOf (2 * channel + 1)).state == 2)) →
    exec (.hbmTracking channel marginLost) s = done s (s.unplanned channel)) ∧
  (∀ (channel : Nat) (s : State),
    ¬ (64 ≤ channel) →
    (s.aux.pllLocked && s.retrainDue channel && !(s.hbmChan channel).queued) →
    exec (.plannedRetrainTrigger channel) s = done s (s.askRetrain channel)) ∧
  (∀ (channel : Nat) (s : State),
    ¬ (64 ≤ channel) →
    ¬ (!s.aux.pllLocked) →
    ¬ ((s.hbmChan channel).training.isSome ||
      !(s.hbmChan channel).evacAt.any (fun t => s.evacCost channel ≤ s.meterRate 5 * (s.time.ticks - t))) →
    ∀ t, s.relocateAll (s.evacLeft channel) = some t →
    exec (.evacuationComplete channel) s = done s (t.evacuated channel)) ∧
  (∀ (channel : Nat) (s : State),
    ¬ (64 ≤ channel) →
    ¬ (!s.aux.pllLocked) →
    let x := s.hbmChan channel
    ∀ t, x.evacAt = some t →
    ¬ (!s.ended t (ms s.hbm.evacMs) || x.training.isSome) →
    let n := (s.evacLeft channel).length
    let a := [2 * channel, 2 * channel + 1].foldl (fun (b : State) p =>
      if (b.pcOf p).state == 1 then b.setPc p { b.pcOf p with state := 0 } else b) s
    let b := (a.setHbmChan channel { x with evacAt := none, retrain := false, retire := [] }).raise 0x0B83
      (d4 (channel / 16) ++ d4 (channel % 16) ++ d4 n)
    exec (.evacuationTimeout channel) s =
      done s (x.retire.foldl (fun (d : State) e => d.finishKind (.pcRetire e.1) stTimeout) b).nextRetrain) ∧
  (∀ (segment : Nat) (s : State),
    ¬ (!s.aux.pllLocked) →
    (s.hbm.oldSegs.contains segment) →
    exec (.evacuationSlotRelease segment) s =
      done s ({ s with hbm.oldSegs := s.hbm.oldSegs.filter (· != segment) }.noteSegLow)) ∧
  (∀ (channel : Nat) (ok0 : Bool) (ok1 : Bool) (s : State),
    ¬ (64 ≤ channel) →
    ¬ (!s.aux.pllLocked) →
    let x := s.hbmChan channel
    let start := x.training.isNone && !x.started && s.mode.mode == mdConfigure
    ¬ (!start && x.training.isNone) →
    let planned := x.training == some true
    let cause := if start then 1 else if planned then 2 else 3
    let a := s.setHbmChan channel { x with
      training := none, started := true, trainAt := s.time.ticks, trainTemp := (s.stack (channel / 16)).temp }
    let b := [(2 * channel, ok0), (2 * channel + 1, ok1)].foldl (fun (d : State) e =>
      if (d.pcOf e.1).state == 2 then d
      else if !e.2 then
        let g := (d.retirePc e.1 cause (cause == 3)).finishKind (.pcRetire e.1) stOk
        g.setHbmChan channel { g.hbmChan channel with retire := (g.hbmChan channel).retire.del e.1 }
      else if (d.pcOf e.1).state != 3 then d
      else
        let evac := x.evacAt.isSome && (x.retrain || (x.retire.get? e.1).isSome)
        d.setPc e.1 { d.pcOf e.1 with state := if evac then 1 else 0 }) a
    let d := if start then b
      else (b.bump 1207 14 channel).raise 0x0B82 (d4 (channel / 16) ++ d4 (channel % 16) ++ d4 (b2n (!planned)) ++
        d4 ((s.time.ticks - x.trainAt) / 750))
    exec (.channelTrainingEnd channel ok0 ok1) s = done s d.nextRetrain) ∧
  (∀ (access : Nat) (correctable : Option Bool) (repairable : Bool) (s : State),
    ¬ (8388608 ≤ access) →
    let p := (s.pcOf (access % 128)).remapped.getD (access % 128)
    ∀ good, correctable = some good →
    ¬ (!s.aux.pllLocked || s.pcWaits p) →
    let a := s.bump 1207 (if good then 0 else 1) p
    let b := if good then a else a.zeroPairs (2 * access) 2 (fun x => x / 2 == access)
    exec (.counterScrub access correctable repairable) s =
      done s (b.rowError p (counterPlace access).1 (counterPlace access).2 good repairable)) ∧
  (∀ (stack : Nat) (tempC : Nat) (s : State),
    ¬ (4 ≤ stack) →
    ¬ (!s.aux.pllLocked) →
    let x := s.stack stack
    let a := s.setStack stack { x with
      temp := tempC, halfRefresh := 85 ≤ tempC, hot := if x.hot then 90 ≤ tempC else 95 ≤ tempC }
    let b := if !x.hot && 95 ≤ tempC then a.raise 0x0B87 (d4 stack ++ d4 tempC) else a
    exec (.stackTemperatureReport stack tempC) s =
      done s (((List.range 16).map (fun i => 16 * stack + i)).foldl (fun (d : State) c =>
        let t := (d.hbmChan c).trainTemp
        if (d.hbmChan c).started && (15 < tempC - t || 15 < t - tempC) && !(d.hbmChan c).queued &&
            (d.hbmChan c).training.isNone && !(d.hbmChan c).retrain then d.askRetrain c else d) b)) ∧
  (∀ (channel : Nat) (s : State),
    ¬ (64 ≤ channel) →
    ¬ (!s.aux.pllLocked) →
    let x := s.hbmChan channel
    ¬ (x.replay.isNone) →
    exec (.replayReissue channel) s = done s (s.setHbmChan channel { x with replay := none, failed := 0 })) ∧
  (∀ (pc : Nat) (bank : Nat) (s : State),
    ¬ (128 ≤ pc || 32 ≤ bank) →
    ¬ (!s.aux.pllLocked) →
    let x := s.bank pc bank
    ∀ row spare good r, x.repairs = (row, spare, good) :: r →
    let a := s.setBank pc bank { x with repairs := r, openRow := none }
    let rec_ (k : Nat) : Repair :=
      { kind := k, die := 2, cause := b2n (!good), unit := pc, index := bank * 65536 + row, hours := s.hours }
    (spare) →
    exec (.rowRepairDone pc bank) s = done s (((a.bump 1207 15).record (rec_ 0xC)).raise 0x0B84 (d4 pc ++ d4 bank ++ d4 row ++
      d4 0))) ∧
  (∀ (pc : Nat) (bank : Nat) (s : State),
    ¬ (128 ≤ pc || 32 ≤ bank) →
    ¬ (!s.aux.pllLocked) →
    let x := s.bank pc bank
    ∀ row spare good r, x.repairs = (row, spare, good) :: r →
    let a := s.setBank pc bank { x with repairs := r, openRow := none }
    let rec_ (k : Nat) : Repair :=
      { kind := k, die := 2, cause := b2n (!good), unit := pc, index := bank * 65536 + row, hours := s.hours }
    ¬ (spare) →
    let y := a.pcOf pc
    let moved := if 130560 ≤ 8 * row then a.someSlots pc 1 else []
    let b := a.setPc pc { y with withheld := y.withheld ++ [(bank, row)], area := y.area ++ moved }
    let c := ((b.bump 1207 16).record (rec_ 0xD)).raise 0x0B84 (d4 pc ++ d4 bank ++ d4 row ++ d4 1)
    exec (.rowRepairDone pc bank) s = done s (if 64 ≤ (c.pcOf pc).withheld.length then c.askRetire pc 4 else c))

/-- Each command of class 0x0C and each event of the time base and of PPS: once accepted (a command), or once its conditions
hold (an event), it completes with the outcome given here. -/
def Obligations.TimeComplete : Prop :=
  (∀ (c : Cmd) (s : State), accepted timeGetSpec c s = true →
    exec (.timeGet c) s = s.answered s c
      (toLe 4 s.t32.toNat ++ toLe 4 (s.time.acc.toNat % 4294967296) ++ toLe 8 s.time.inc.toNat ++ toLe 4 s.timeStatus ++
        toLe 4 s.time.incT32.toNat)) ∧
  (∀ (c : Cmd) (s : State), accepted timeIncrementSetSpec c s = true →
    let v := le c.payload 0 5
    ¬ (!inRange v 0x0154FDF3B6 0x0155ACB6F4) →
    let t := s.writeInc (BitVec.ofNat 40 v)
    exec (.timeIncrementSet c) s = s.answered t c
      (toLe 4 t.time.incT32.toNat)) ∧
  (∀ (c : Cmd) (s : State), accepted timeStepSpec c s = true →
    let off := leS c.payload 0 4
    let t : T32 := BitVec.ofNat 32 (le c.payload 4 4)
    let refused : Res := { st := s.refuseStep off, status := stRefused, keep := true }
    ¬ (t != 0 && !T32.validCommit s.t32 t) →
    ¬ (t != 0 && s.time.step.isSome) →
    (s.time.stepThreshold < off.natAbs) →
    exec (.timeStep c) s = .next (signalStatus s (Res.finish (refused) c))) ∧
  (∀ (c : Cmd) (s : State), accepted timeStepSpec c s = true →
    let off := leS c.payload 0 4
    let t : T32 := BitVec.ofNat 32 (le c.payload 4 4)
    let refused : Res := { st := s.refuseStep off, status := stRefused, keep := true }
    ¬ (t != 0 && !T32.validCommit s.t32 t) →
    ¬ (t != 0 && s.time.step.isSome) →
    ¬ (s.time.stepThreshold < off.natAbs) →
    (!s.stepFits off) →
    exec (.timeStep c) s = .next (signalStatus s (Res.finish (refused) c))) ∧
  (∀ (c : Cmd) (s : State), accepted timeStepSpec c s = true →
    let off := leS c.payload 0 4
    let t : T32 := BitVec.ofNat 32 (le c.payload 4 4)
    ¬ (t != 0 && !T32.validCommit s.t32 t) →
    ¬ (t != 0 && s.time.step.isSome) →
    ¬ (s.time.stepThreshold < off.natAbs) →
    ¬ (!s.stepFits off) →
    (t != 0) →
    exec (.timeStep c) s = s.answered ({ s with time.step := some { offset := off, t } }) c
      (zeros 4)) ∧
  (∀ (c : Cmd) (s : State), accepted timeStepSpec c s = true →
    let off := leS c.payload 0 4
    let t : T32 := BitVec.ofNat 32 (le c.payload 4 4)
    ¬ (t != 0 && !T32.validCommit s.t32 t) →
    ¬ (t != 0 && s.time.step.isSome) →
    ¬ (s.time.stepThreshold < off.natAbs) →
    ¬ (!s.stepFits off) →
    ¬ (t != 0) →
    let u := s.advance.applyStep off
    exec (.timeStep c) s = s.answered u c
      (toLe 4 u.t32.toNat)) ∧
  (∀ (c : Cmd) (s : State), accepted timeSetSpec c s = true →
    let v := le c.payload 0 4
    let d : Int := T32.diff (BitVec.ofNat 32 v) s.t32
    (!s.stepFits d) →
    exec (.timeSet c) s = .next (signalStatus s (Res.finish
      ({ st := s.refuseStep d, status := stRefused, keep := true } : Res) c))) ∧
  (∀ (c : Cmd) (s : State), accepted timeSetSpec c s = true →
    let v := le c.payload 0 4
    let d : Int := T32.diff (BitVec.ofNat 32 v) s.t32
    ¬ (!s.stepFits d) →
    let a : State := { s with time.acc := BitVec.ofNat 64 (v * 4294967296 + le c.payload 4 4) }
    exec (.timeSet c) s = s.answered (a.rollWindows.afterStep s d) c) ∧
  (∀ (c : Cmd) (s : State), accepted timeConfigSpec c s = true →
    let t := le c.payload 0 4
    let h := le c.payload 4 2
    ¬ (!inRange t 1000 1000000000 || !inRange h 1 600) →
    exec (.timeConfig c) s = s.answered ({ s with time.stepThreshold := t, time.holdoverS := h }) c) ∧
  (∀ (c : Cmd) (s : State), accepted tsPortSetSpec c s = true →
    let p := byteAt c.payload 0
    ¬ (!s.portExists p) →
    exec (.tsPortSet c) s = s.answered (s.updPrt p (fun x => { x with rxAdjust := leS c.payload 2 2, txAdjust := leS c.payload 4 2 })) c) ∧
  (∀ (c : Cmd) (s : State), accepted ppsConfigSpec c s = true →
    let b := c.payload
    let inEn := bit (byteAt b 0) 0
    let outEn := bit (byteAt b 0) 1
    let t : T32 := BitVec.ofNat 32 (le b 8 4)
    let period := le b 12 4
    let width := le b 16 4
    ¬ ((outEn && !T32.validCommit s.t32 t) || !inRange period 1000000 1000000000 || width < 1000 || period < 2 * width) →
    exec (.ppsConfig c) s = s.answered ({ s with time.ppsInEn := inEn, time.ppsInMasked := s.time.ppsInMasked && !inEn, time.ppsWin := if inEn then [] else s.time.ppsWin, time.ppsInAdjust := leS b 2 2, time.ppsOutAdjust := leS b 4 2, time.ppsOutEn := outEn, time.ppsTarget := t, time.ppsPeriod := period, time.ppsWidth := width, time.ppsOut := s.time.ppsOut && outEn }) c) ∧
  (∀ (c : Cmd) (s : State), accepted timeCountersGetSpec c s = true →
    exec (.timeCountersGet c) s = s.answered s c
      (s.snap 1306 timeDims)) ∧
  (∀ (s : State),
    ¬ (!s.aux.pllLocked) →
    ∀ x, s.time.step = some x →
    ¬ (!s.t32.reached x.t) →
    let a := { s with time.step := none }
    exec .timedStepDue s = done s (if a.stepFits x.offset then a.applyStep x.offset else a.refuseStep x.offset)) ∧
  (∀ (s : State),
    ¬ (!s.aux.pllLocked) →
    (!s.time.holdover && s.ended s.time.incTick (secs s.time.holdoverS)) →
    exec .holdoverTimeout s = done s (({ s with time.holdover := true }.bump 1306 3).raise 0x0C84 (d4 s.time.incT32.toNat))) ∧
  (∀ (s : State),
    (s.ppsDrives && s.t32.reached (s.time.ppsTarget - BitVec.ofInt 32 s.time.ppsOutAdjust)) →
    exec .ppsOutTarget s = done s (s.ppsRises 1)) ∧
  (∀ (s : State),
    (s.time.ppsOut && s.ended s.time.ppsRise (ceilDiv (s.time.ppsWidth * 3) 4)) →
    exec .ppsOutWidthEnd s = done s { s with time.ppsOut := false }) ∧
  (∀ (s : State),
    ¬ (!s.time.ppsInEn || s.time.ppsInMasked || !s.aux.pllLocked) →
    (s.time.ppsLast.any (fun a => s.time.ticks < a.1 + ms 500)) →
    let l := s.time.ppsWin.filter (fun t => s.time.ticks < t + secs 1) ++ [s.time.ticks]
    let a := ({ s with time.ppsWin := l, time.ppsIgnored := s.time.ppsIgnored + 1 }.bump 1306 6).raiseLim 0x0C86 0 (fun n => d4 n)
    exec .ppsInEdge s = done s (if 100 < l.length then { a with time.ppsInMasked := true }.raise 0x0C88 (d4 l.length) else a)) ∧
  (∀ (s : State),
    ¬ (!s.time.ppsInEn || s.time.ppsInMasked || !s.aux.pllLocked) →
    ¬ (s.time.ppsLast.any (fun a => s.time.ticks < a.1 + ms 500)) →
    let t : T32 := s.t32 + BitVec.ofInt 32 s.time.ppsInAdjust
    let a := { s with time.ppsLast := some (s.time.ticks, t), time.ppsInLost := false, time.ppsIgnored := 0 }.bump 1306 5
    exec .ppsInEdge s = done s (a.raise 0x0C82 (d4 t.toNat ++ d4 s.time.ppsIgnored))) ∧
  (∀ (s : State),
    ¬ (!s.aux.pllLocked) →
    ∀ a t, s.time.ppsLast = some (a, t) →
    (s.time.ppsInEn && !s.time.ppsInLost && s.ended a (ms 1500)) →
    exec .ppsInLost s = done s ({ s with time.ppsInLost := true }.raise 0x0C87 (d4 t.toNat)))

/-- Each command of class 0x0E, and a coordination message that carries a relayed command: once accepted (a command), or once
its conditions hold (an event), it completes with the outcome given here. -/
def Obligations.HierarchyCommandsComplete : Prop :=
  (∀ (c : Cmd) (s : State), accepted hierarchyConfigSpec c s = true →
    let b := c.payload
    let el := le b 4 2
    let co := le b 6 2
    let ta := le b 8 2
    let lv := le b 10 2
    let re := le b 12 2
    ¬ (1 < byteAt b 0 || !inRange el 500 10000 || !inRange co 2 100 || !inRange ta 10 1000 || !inRange lv 10 10000 ||
      lv ≤ ta || !inRange re 1 600) →
    let on := byteAt b 0 == 1
    let a : State := { s with
      hier.member := on, hier.priority := byteAt b 1, hier.systemId := le b 2 2, hier.electionMs := el, hier.coordMs := co
      hier.takeoverMs := ta, hier.leaveMs := lv, hier.relayS := re }
    let same := on == s.hier.member && a.hier.systemId == s.hier.systemId
    let x := if same then a
      else { a with hier.role := 0, hier.manager := none, hier.deputy := none, hier.table := [], hier.election := none }.startElection
    exec (.hierarchyConfig c) s = s.answered (x.saveSettings.noteIdentity) c) ∧
  (∀ (c : Cmd) (s : State), accepted hierStatusGetSpec c s = true →
    exec (.hierStatusGet c) s = s.answered s c
      (toLe 1 s.hier.role ++ toLe 1 (s.hier.manager.getD 0xFF) ++ toLe 1 (s.hier.deputy.getD 0xFF) ++ zeros 1 ++
        toLe 4 s.hier.term ++ toLe 32 (toBitmap s.hier.table) ++ (List.range 256).flatMap s.memberRecord)) ∧
  (∀ (c : Cmd) (s : State), accepted hierDeputySetSpec c s = true →
    let f := byteAt c.payload 0
    ¬ (!s.others.contains f) →
    ¬ (s.priorityOf f == 0) →
    exec (.hierDeputySet c) s = s.answered (({ s with hier.depNamed := some f }.designate).announceTable) c) ∧
  (∀ (c : Cmd) (s : State), accepted hierModeChangeSpec c s = true →
    let b := c.payload
    let m := byteAt b 0
    let t0 : T32 := BitVec.ofNat 32 (le b 4 4)
    let bits := le b 8 32
    let l := bitmapOf bits 32
    let e := (s.hier.epoch + 1) % 4294967296
    let own := s.fab.fdi
    ¬ (!inRange m mdForwarding mdMaintenance || (t0 != 0 && !T32.validCommit s.t32 t0) || l.isEmpty ||
      l.any (fun f => !s.hier.table.contains f)) →
    ¬ (s.hier.change.isSome) →
    (bit bits own && s.changeStatus e m != stOk) →
    exec (.hierModeChange c) s = .next (signalStatus s (Res.finish
      ({ st := s.raise 0x0E86 (d4 e ++ d4 stRefused ++ d4 own), status := stRefused, detail := own, keep := true } : Res) c))) ∧
  (∀ (c : Cmd) (s : State), accepted hierModeChangeSpec c s = true →
    let b := c.payload
    let m := byteAt b 0
    let t0 : T32 := BitVec.ofNat 32 (le b 4 4)
    let bits := le b 8 32
    let l := bitmapOf bits 32
    let e := (s.hier.epoch + 1) % 4294967296
    let own := s.fab.fdi
    ¬ (!inRange m mdForwarding mdMaintenance || (t0 != 0 && !T32.validCommit s.t32 t0) || l.isEmpty ||
      l.any (fun f => !s.hier.table.contains f)) →
    ¬ (s.hier.change.isSome) →
    ¬ (bit bits own && s.changeStatus e m != stOk) →
    let t := if t0 == 0 then s.in20ms else t0
    let ch : Change := { epoch := e, mode := m, t, members := bits, at_ := s.time.ticks, ready := if bit bits own then [own] else [] }
    exec (.hierModeChange c) s = s.opened (s.startChange ch) c .modeChange) ∧
  (∀ (c : Cmd) (s : State), accepted hierMemberRemoveSpec c s = true →
    let f := byteAt c.payload 0
    ¬ (!s.others.contains f) →
    exec (.hierMemberRemove c) s = s.answered ((s.sendMsg f 0x07 true (toBe 1 2 ++ zeros 3)).removeMember f 2) c) ∧
  (∀ (c : Cmd) (s : State), accepted hierCountersGetSpec c s = true →
    exec (.hierCountersGet c) s = s.answered s c
      (s.snap 1512 hierDims)) ∧
  (∀ (c : Cmd) (s : State), accepted hierClaimSpec c s = true →
    (s.isWorker && s.hier.priority != 0 && s.quorate && s.managerSilent) →
    exec (.hierClaim c) s = s.answered (s.takeOver) c) ∧
  (∀ (c : Cmd) (s : State), accepted hierDistributeSpec c s = true →
    let bits := le c.payload 0 32
    let l := bitmapOf bits 32
    let e := carried c.payload
    let id := s.hier.relaySeq
    ¬ (!([3, 4, 5, 6, 7, 0xA].contains (e.opcode / 256)) || l.any (fun f => !s.hier.table.contains f)) →
    let b := s.startDist bits e
    ∀ d, b.distOver id = some d →
    exec (.hierDistribute c) s = .next (signalStatus s (Res.finish
      ({ st := { b with hier.dists := b.hier.dists.filter (fun (x : Dist) => x.id != id) }, keep := true, status := d.answer.1, result := d.answer.2, applied := d.oks } : Res) c))) ∧
  (∀ (c : Cmd) (s : State), accepted hierDistributeSpec c s = true →
    let bits := le c.payload 0 32
    let l := bitmapOf bits 32
    let e := carried c.payload
    let id := s.hier.relaySeq
    ¬ (!([3, 4, 5, 6, 7, 0xA].contains (e.opcode / 256)) || l.any (fun f => !s.hier.table.contains f)) →
    let b := s.startDist bits e
    b.distOver id = none →
    exec (.hierDistribute c) s = s.opened b c (.distribute id)) ∧
  (∀ (path : Path) (h : CoordHdr) (relayId : Nat) (offset : Nat) (total : Nat) (entry : CmdEntry) (data : Bytes) (s₀ : State),
      s₀.hears path 0x09 h = true →
    let s := s₀.hearing path h
    exec (.relayCommand path h relayId offset total entry data) s₀ = done s₀ (
      if !s.isWorker || s.hier.manager != some h.src then s
      else
        let x := (s.hier.relayRx.get? relayId).getD { entry, total, data := [] }
        let d := x.data ++ data
        if offset != x.data.length then s
        else if d.length < total then { s with hier.relayRx := s.hier.relayRx.set relayId { x with data := d } }
        else
          let c : Cmd := { entry.cmd with payload := d.take total, relay := some (h.src, relayId) }
          (runOp opTable { entry with cmd := c } { s with hier.relayRx := s.hier.relayRx.del relayId }).finish c))

/-- Each coordination message that is heard (R587, R588): once accepted (a command), or once its conditions hold (an event),
it completes with the outcome given here. -/
def Obligations.CoordinationMessagesComplete : Prop :=
  (∀ (path : Path) (h : CoordHdr) (offset : Int) (newInc : BitVec 40) (step : Option Int) (s₀ : State), s₀.hears path 0x20 h =
      true →
    let s := s₀.hearing path h
    exec (.timeSync path h offset newInc step) s₀ = done s₀ (
      if path == 2 || !s.isWorker || s.hier.manager != some h.src then s
      else
        let a := { s with time.lastSync := s.time.ticks, time.lastOffset := offset, time.syncLost := false }.bump 1306 9
        let b := if inRange newInc.toNat 0x0154FDF3B6 0x0155ACB6F4 then a.writeInc newInc else a
        let c := match step with
          | some d => if d.natAbs ≤ b.time.stepThreshold then if b.stepFits d then b.applyStep d else b.refuseStep d else b
          | none => b
        if s.time.stepThreshold < offset.natAbs then c.raise 0x0C89 (d4 1 ++ d4s offset) else c)) ∧
  (∀ (path : Path) (h : CoordHdr) (_t32 : T32) (role : Nat) (mode : Nat) (flags : Nat) (_deputy : Nat) (_members : Nat) (s₀ : State), s₀.hears path 0x01 h = true →
    let s0 := s₀.hearing path h
    exec (.heartbeat path h _t32 role mode flags _deputy _members) s₀ = done s₀ (
      let s := if path < 2 && s0.linkOver h.src path then s0.linkSilent h.src path else s0
      let a := if path < 2 then s.hearLink h.src path else s
      let b := a.setMember h.src { a.member h.src with role, mode, epoch := h.epoch, uncertain := bit flags 0 }
      let c := b.noteSilence h.src
      (if role == 1 then c.noteManager h.src h.term else c).reviewChange)) ∧
  (∀ (path : Path) (h : CoordHdr) (acked : Nat) (_status : Nat) (s₀ : State), s₀.hears path 0x02 h = true →
    let s := s₀.hearing path h
    exec (.ack path h acked _status) s₀ =
      done s₀ ({ s with hier.unacked := s.hier.unacked.filter (fun u => !(u.seq == acked && u.msg.dst == some h.src)) }.nextMsg (some h.src))) ∧
  (∀ (path : Path) (h : CoordHdr) (priority : Nat) (role : Nat) (s₀ : State), s₀.hears path 0x03 h = true →
    let s0 := s₀.hearing path h
    exec (.announce path h priority role) s₀ = done s₀ (
      let s := s0.endElection
      let a := s.setMember h.src { s.member h.src with priority := some priority }
      if s.hier.role != 0 || s.mode.mode != mdConfigure || s.hier.election.isNone then a
      else if role == 1 then a.askJoin h.src
      else { a with hier.announced := a.hier.announced.set h.src priority })) ∧
  (∀ (path : Path) (h : CoordHdr) (version : Nat) (priority : Nat) (_ordering : Nat) (_svn : Nat) (_fwVersion : Nat) (mode : Nat) (s₀ : State), s₀.hears path 0x04 h = true →
    let s := s₀.hearing path h
    exec (.joinRequest path h version priority _ordering _svn _fwVersion mode) s₀ = done s₀ (
      if !s.isManager then s
      else match s.joinReason h.src version mode with
        | some r => (s.sendMsg h.src 0x06 false (toBe 1 r ++ zeros 3)).raise 0x0E88 (d4 h.src ++ d4 r)
        | none =>
          let a := s.setMember h.src { s.member h.src with priority := some priority }
          let b : State := { a with
            hier.table := (List.range 256).filter (fun f => f == h.src || a.hier.table.contains f)
            hier.offers := a.hier.offers.del h.src }
          let c := (b.addPeer h.src true).noteSilence h.src
          let d := c.designate
          let e := d.sendMsg h.src 0x05 true d.tableBody
          let g := e.sendAll (e.others.filter (fun f => f != h.src)) 0x08 true e.tableBody
          (g.raise 0x0E81 (d4 h.src)).bump 1512 9)) ∧
  (∀ (path : Path) (h : CoordHdr) (members : Nat) (deputy : Nat) (managerT32 : T32) (s₀ : State), s₀.hears path 0x05 h =
      true →
    let s := s₀.hearing path h
    exec (.joinAccept path h members deputy managerT32) s₀ = done s₀ (
      if s.hier.joining != some h.src || s.hier.role != 0 || s.mode.mode != mdConfigure then s
      else
        let a : State := { s with
          hier.manager := some h.src, hier.term := h.term, hier.epoch := h.epoch, hier.joining := none
          hier.rejectedAt := none, hier.election := none, time.lastSync := s.time.ticks, time.syncLost := false }
        let b := a.adoptTable members deputy
        let d := T32.diff managerT32 b.t32
        if !b.stepFits d then b.refuseStep d
        else ({ b with time.acc := b.time.acc + (BitVec.ofInt 64 d <<< 32) }.rollWindows).afterStep b d)) ∧
  (∀ (path : Path) (h : CoordHdr) (_reason : Nat) (s₀ : State), s₀.hears path 0x06 h = true →
    let s := s₀.hearing path h
    exec (.joinReject path h _reason) s₀ = done s₀ (if s.hier.joining == some h.src &&
      s.hier.role == 0 then { s with hier.rejectedAt := some s.time.ticks } else s)) ∧
  (∀ (path : Path) (h : CoordHdr) (_cause : Nat) (s₀ : State), s₀.hears path 0x07 h = true →
    let s := s₀.hearing path h
    exec (.leave path h _cause) s₀ = done s₀ (
      if s.isManager then if s.hier.table.contains h.src then s.removeMember h.src 1 else s
      else if s.isWorker && s.hier.manager == some h.src then s.depart
      else s)) ∧
  (∀ (path : Path) (h : CoordHdr) (members : Nat) (deputy : Nat) (s₀ : State), s₀.hears path 0x08 h = true →
    let s := s₀.hearing path h
    exec (.memberUpdate path h members deputy) s₀ = done s₀ (
      if !s.isWorker || s.hier.manager != some h.src then s
      else if bit members s.fab.fdi then s.adoptTable members deputy
      else s.depart)) ∧
  (∀ (path : Path) (h : CoordHdr) (relayId : Nat) (offset : Nat) (total : Nat) (status : Nat) (resultLength : Nat) (applied : Nat) (failIndex : Nat) (detail : Nat) (result : Bytes) (s₀ : State), s₀.hears path 0x0A h = true →
    let s := s₀.hearing path h
    exec (.relayCompletion path h relayId offset total status resultLength applied failIndex detail result) s₀ = done s₀ (
      match s.hier.relays.find? (fun r => r.id == relayId && r.fdi == h.src) with
      | none => s.bump 1512 4
      | some r =>
        let d := r.data ++ result
        if offset != r.data.length then s
        else if d.length < total then
          { s with hier.relays := s.hier.relays.map (fun x => if x.id == relayId then { x with data := d } else x) }
        else s.endRelay r status d resultLength applied failIndex detail)) ∧
  (∀ (path : Path) (h : CoordHdr) (code : Nat) (t32 : Nat) (data : Bytes) (s₀ : State), s₀.hears path 0x0B h = true →
    let s := s₀.hearing path h
    exec (.relayEvent path h code t32 data) s₀ =
      done s₀ (if s.isManager then s.writeEvent code h.src (BitVec.ofNat 32 t32) data else s)) ∧
  (∀ (path : Path) (h : CoordHdr) (newEpoch : Nat) (mode : Nat) (t : T32) (members : Nat) (s₀ : State), s₀.hears path 0x10 h =
      true →
    let s := s₀.hearing path h
    exec (.prepare path h newEpoch mode t members) s₀ = done s₀ (
      if !s.isWorker || s.hier.manager != some h.src || !bit members s.fab.fdi then s
      else
        let st := s.changeStatus newEpoch mode
        if st == stOk then
          { s with hier.staged := some { epoch := newEpoch, mode, t, members } }.sendMsg h.src 0x11 true (toBe 4 newEpoch)
        else s.sendMsg h.src 0x12 true (toBe 4 newEpoch ++ toBe 1 st ++ zeros 3))) ∧
  (∀ (path : Path) (h : CoordHdr) (newEpoch : Nat) (s₀ : State), s₀.hears path 0x11 h = true →
    let s := s₀.hearing path h
    exec (.ready path h newEpoch) s₀ = done s₀ (
      match s.hier.change with
      | some c =>
        if s.isManager && c.epoch == newEpoch && c.decided.isNone && bit c.members h.src && !s.ended c.at_ (ms 5) then
          let d := { c with ready := h.src :: c.ready.filter (fun f => f != h.src) }
          if d.allReady then s.commitChange d else { s with hier.change := some d }
        else s
      | none => s)) ∧
  (∀ (path : Path) (h : CoordHdr) (newEpoch : Nat) (_status : Nat) (s₀ : State), s₀.hears path 0x12 h = true →
    let s := s₀.hearing path h
    exec (.refuse path h newEpoch _status) s₀ = done s₀ (
      match s.hier.change with
      | some c =>
        if s.isManager && c.epoch == newEpoch && c.decided.isNone && bit c.members h.src && !s.ended c.at_ (ms 5) then
          s.abortChange c stRefused h.src
        else s
      | none => s)) ∧
  (∀ (path : Path) (h : CoordHdr) (newEpoch : Nat) (mode : Nat) (t : T32) (s₀ : State), s₀.hears path 0x13 h = true →
    let s := s₀.hearing path h
    exec (.commit path h newEpoch mode t) s₀ = done s₀ (
      if !s.isWorker || s.hier.manager != some h.src || newEpoch ≤ s.hier.epoch then s
      else match s.hier.staged with
        | some x =>
          if x.epoch != newEpoch || x.committed then s
          else if x.uncertain || s.t32.reached (x.t + 100000000#32) then
            { s with hier.staged := some { x with committed := true, t := t } }
          else if s.t32.reached x.t then (s.applyChange x).bump 1512 6
          else { s with hier.staged := some { x with committed := true } }
        | none =>
          if inRange mode mdForwarding mdMaintenance then
            { s with hier.staged := some { epoch := newEpoch, mode, t, members := 2 ^ s.fab.fdi, committed := true } }
          else s)) ∧
  (∀ (path : Path) (h : CoordHdr) (newEpoch : Nat) (s₀ : State), s₀.hears path 0x14 h = true →
    let s := s₀.hearing path h
    exec (.abort path h newEpoch) s₀ = done s₀ (
      if s.isWorker && s.hier.manager == some h.src then
        { s with hier.staged := s.hier.staged.filter (fun x => x.epoch != newEpoch || x.committed) }
      else s)) ∧
  (∀ (path : Path) (h : CoordHdr) (newEpoch : Nat) (s₀ : State), s₀.hears path 0x15 h = true →
    let s := s₀.hearing path h
    exec (.modeQuery path h newEpoch) s₀ = done s₀ (
      let open_ := s.hier.change.filter (fun c => c.epoch == newEpoch)
      if !s.isManager then s
      else match open_, s.hier.lastChange with
        | some c, _ => if c.decided == some true then s.sendCommit [h.src] newEpoch c.mode s.in20ms else s
        | none, some (e, m) => if e == newEpoch then s.sendCommit [h.src] newEpoch m s.in20ms else s.sendAbort [h.src] newEpoch
        | none, none => s.sendAbort [h.src] newEpoch)) ∧
  (∀ (path : Path) (h : CoordHdr) (_oldManager : Nat) (newDeputy : Nat) (s₀ : State), s₀.hears path 0x18 h = true →
    let s := s₀.hearing path h
    exec (.takeover path h _oldManager newDeputy) s₀ = done s₀ (
      if h.term ≤ s.hier.term || s.hier.role == 0 then s
      else
        let a := s.noteManager h.src h.term
        { a with hier.deputy := if newDeputy == 0xFF then none else some newDeputy }.setRole
          (if newDeputy == s.fab.fdi && newDeputy != 0xFF then 3 else 2))) ∧
  (∀ (path : Path) (h : CoordHdr) (dieIds : Bytes) (_cause : Nat) (s₀ : State), s₀.hears path 0x30 h = true →
    let s := s₀.hearing path h
    exec (.snowdropOffer path h dieIds _cause) s₀ =
      done s₀ (if s.isManager then { s with hier.offers := s.hier.offers.set h.src dieIds } else s)) ∧
  (∀ (path : Path) (h : CoordHdr) (code : Nat) (nextOffset : Nat) (s₀ : State), s₀.hears path 0x32 h = true →
    let s := s₀.hearing path h
    exec (.snowdropResult path h code nextOffset) s₀ = done s₀ (
      if (s.hier.push.map Prod.fst) != some h.src then s
      else if code == 0x01 then s.pushChunk h.src nextOffset
      else if code == 0x03 then ({ s with hier.offers := s.hier.offers.del h.src }.endPush h.src stOk 0)
      else s.endPush h.src stRefused code))

/-- Each timer of elections, paths, relays and mode changes, and each change of a coordination link: once accepted (a
command), or once its conditions hold (an event), it completes with the outcome given here. -/
def Obligations.HierarchyTimersComplete : Prop :=
  (∀ (relayId : Nat) (s : State),
    ∀ r, s.hier.relays.find? (fun r => r.id == relayId) = some r →
    (s.coordOn && s.ended r.at_ (secs s.hier.relayS)) →
    exec (.relayTimeout relayId) s = done s (s.endRelay r stTimeout [] 0 0 0xFFFFFFFF 0)) ∧
  (∀ (s : State),
    ¬ (!s.coordOn || !s.isManager || !s.ended s.hier.syncAt 46875000) →
    let a := { s with hier.syncAt := s.time.ticks }
    exec .timeSyncSend s =
      done s (a.others.foldl (fun (b : State) f => [0, 1].foldl (fun (c : State) l =>
        if c.hier.linkUp.contains l then c.newMsg l { type := 0x20, dst := some f, ack := false, body := [] } else c) b) a)) ∧
  (∀ (s : State),
    (s.coordOn && s.isWorker && !s.time.syncLost && s.ended s.time.lastSync (secs 1)) →
    exec .timeSyncLoss s = done s ({ s with time.syncLost := true }.raise 0x0C89 (d4 0 ++ d4s s.time.lastOffset))) ∧
  (∀ (s : State),
    ¬ (!s.coordOn || s.hier.election.isNone) →
    exec .electionWindowEnd s = done s s.endElection) ∧
  (∀ (s : State),
    let electing := s.hier.role == 0 && s.hier.priority != 0 && s.mode.mode == mdConfigure &&
      (s.hier.election.map Prod.snd) == some 2
    ¬ (!s.coordOn || !(electing || s.isManager) || !s.ended s.hier.announceAt (ms 100)) →
    exec .announceSend s =
         done s ({ s with hier.announceAt := s.time.ticks }.sendGroup 0x03
      (toBe 1 s.hier.priority ++ toBe 1 s.hier.role ++ zeros 2))) ∧
  (∀ (s : State),
    ∀ t m, s.hier.rejectedAt = some t → s.hier.joining = some m →
    (s.coordOn && s.hier.role == 0 && s.mode.mode == mdConfigure && s.ended t (secs 10)) →
    exec .joinRequestRepeat s = done s ({ s with hier.rejectedAt := some s.time.ticks }.askJoin m)) ∧
  (∀ (s : State),
    ¬ (!s.coordOn || !(s.isManager || s.isWorker) || !s.ended s.hier.hbAt (ms 1)) →
    let a := { s with hier.hbAt := s.time.ticks }
    (s.isManager) →
    exec .coordHeartbeatSend s = done s (a.sendGroup 0x01 (a.hbBody (a.others.all (fun f => a.fabricHeard f))))) ∧
  (∀ (s : State),
    ¬ (!s.coordOn || !(s.isManager || s.isWorker) || !s.ended s.hier.hbAt (ms 1)) →
    let a := { s with hier.hbAt := s.time.ticks }
    ¬ (s.isManager) →
    let dst := ((s.hier.manager.toList ++ s.hier.deputy.toList).eraseDups).filter (fun f => f != s.fab.fdi)
    exec .coordHeartbeatSend s =
      done s (dst.foldl (fun (b : State) f => [0, 1].foldl (fun (c : State) l =>
        if c.hier.linkUp.contains l then c.newMsg l { type := 0x01, dst := some f, ack := false, body := c.hbBody (c.fabricHeard f) }
        else c) b) a)) ∧
  (∀ (peer : Nat) (link : Nat) (s : State),
    ¬ (256 ≤ peer || 2 ≤ link) →
    (s.coordOn && s.linkOver peer link) →
    exec (.coordTimeout peer link) s = done s (s.linkSilent peer link)) ∧
  (∀ (peer : Nat) (s : State),
    ¬ (256 ≤ peer) →
    ∀ t, (s.member peer).silentAt = some t →
    (s.coordOn && s.isManager && s.others.contains peer && s.ended t (ms s.hier.leaveMs)) →
    exec (.leaveHoldExpiry peer) s = done s (s.removeMember peer 0)) ∧
  (∀ (s : State),
    ∀ t, s.hier.manager.bind (fun m => (s.member m).silentAt) = some t →
    ¬ (!s.coordOn || s.hier.role != 3 || !s.managerSilent || !s.ended t (ms s.hier.takeoverMs) || (t < s.hier.withheldAt &&
      !s.ended s.hier.withheldAt (ms s.hier.takeoverMs))) →
    (s.quorate) →
    exec .takeoverHoldExpiry s = done s s.takeOver) ∧
  (∀ (s : State),
    ∀ t, s.hier.manager.bind (fun m => (s.member m).silentAt) = some t →
    ¬ (!s.coordOn || s.hier.role != 3 || !s.managerSilent || !s.ended t (ms s.hier.takeoverMs) || (t < s.hier.withheldAt &&
      !s.ended s.hier.withheldAt (ms s.hier.takeoverMs))) →
    ¬ (s.quorate) →
    exec .takeoverHoldExpiry s = done s ({ s with hier.withheldAt := s.time.ticks }.raise 0x0E8A (d4 s.quorum.2 ++
      d4 s.quorum.1))) ∧
  (∀ (s : State),
    ∀ c, s.hier.change = some c →
    ∀ f, (bitmapOf c.members 32).find? (fun f => !c.ready.contains f) = some f →
    (s.isManager && c.decided.isNone && s.ended c.at_ (ms 5)) →
    exec .prepareReplyTimeout s = done s (s.abortChange c stTimeout f)) ∧
  (∀ (s : State),
    ∀ x, s.hier.staged = some x →
    (s.coordOn && x.committed && s.t32.reached x.t) →
    exec .modeCommitDue s = done s (s.applyChange x)) ∧
  (∀ (s : State),
    ∀ x, s.hier.staged = some x →
    (s.coordOn && s.isWorker && !x.committed && !x.uncertain && s.t32.reached (x.t + 100000000#32)) →
    exec .commitUncertain s =
      done s ({ s with hier.staged := some { x with uncertain := true }, hier.queryAt := s.time.ticks - ms 10 }.raise 0x0E87
        (d4 s.fab.fdi ++ d4 x.epoch))) ∧
  (∀ (s : State),
    ∀ x m, s.hier.staged = some x → s.hier.manager = some m →
    (s.coordOn && s.isWorker && x.uncertain && !x.committed && s.ended s.hier.queryAt (ms 10)) →
    exec .modeQuerySend s = done s ({ s with hier.queryAt := s.time.ticks }.sendMsg m 0x15 true (toBe 4 x.epoch))) ∧
  (∀ (s : State),
    ∀ c, s.hier.change = some c →
    (s.coordOn && s.isManager && c.decided == some true && s.t32.reached (c.t + 1000000#32) && (c.lastResend == 0 ||
      s.ended c.lastResend (ms 10))) →
    let l := (s.laggards c).filter (fun f => f != s.fab.fdi)
    exec .decisionResend s =
      done s (({ s with hier.change := some { c with lastResend := s.time.ticks } }.sendCommit l c.epoch c.mode s.in20ms).count
        1512 7 0 0 l.length)) ∧
  (∀ (s : State),
    ∀ c, s.hier.change = some c →
    (c.decided == some true && !c.completed && s.t32.reached (c.t + 100000000#32)) →
    let l := (s.laggards c).length
    exec .modeChangeDeadline s =
      done s ((({ s with hier.change := some { c with completed := true } }.finishKind .modeChange stPartial
        ((bitmapOf c.members 32).length - l) l).raise 0x0E85 (d4 c.epoch ++ d4 c.mode ++ d4 c.t.toNat ++ d4 l)))) ∧
  (∀ (link : Nat) (s : State),
    ¬ (2 ≤ link) →
    exec (.coordLinkDown link) s = done s { s with hier.linkUp := s.hier.linkUp.filter (fun l => l != link) }) ∧
  (∀ (link : Nat) (s : State),
    ¬ (2 ≤ link) →
    ¬ (s.hier.linkUp.contains link || !s.aux.pllLocked) →
    exec (.coordLinkUp link) s = done s { s with hier.linkUp := s.hier.linkUp ++ [link] }) ∧
  (∀ (msgSeq : Nat) (s : State),
    ∀ u, s.hier.unacked.find? (fun u => u.seq == msgSeq) = some u →
    ¬ (!s.coordOn || !s.ended u.at_ (ms 1)) →
    (8 ≤ u.resends) →
    exec (.messageResend msgSeq) s =
      done s ({ s with hier.unacked := s.hier.unacked.filter (fun x => x.seq != msgSeq) }.msgFailed u.msg |>.nextMsg u.msg.dst)) ∧
  (∀ (msgSeq : Nat) (s : State),
    ∀ u, s.hier.unacked.find? (fun u => u.seq == msgSeq) = some u →
    ¬ (!s.coordOn || !s.ended u.at_ (ms 1)) →
    ¬ (8 ≤ u.resends) →
    let path := if u.msg.type == 0x31 then 0 else s.pathTo (u.msg.dst.getD 0)
    exec (.messageResend msgSeq) s =
      done s ({ s with hier.unacked := s.hier.unacked.map (fun (x : Unacked) =>
        if x.seq == msgSeq then { x with resends := x.resends + 1, at_ := s.time.ticks } else x) }.putMsg path msgSeq u.msg))

/-- Each command of class 0x0F and the push of an image to a member: once accepted (a command), or once its conditions hold
(an event), it completes with the outcome given here. -/
def Obligations.FirmwareCommandsComplete : Prop :=
  (∀ (c : Cmd) (s : State), accepted fwDownloadSpec c s = true →
    let off := le c.payload 0 4
    let total := le c.payload 4 4
    let d := c.payload.drop 8
    let put (l : Bytes) (n : Nat) : Res := { st := { s with fw.staging := { bytes := l }, fw.stagedTotal := n, fw.verified := false } }
    ¬ (noTm s || s.fw.act.isSome || s.hier.push.isSome) →
    (off == 0) →
    ¬ (8388608 < total || total < d.length) →
    exec (.fwDownload c) s = .next (signalStatus s (Res.finish (put d total) c))) ∧
  (∀ (c : Cmd) (s : State), accepted fwDownloadSpec c s = true →
    let off := le c.payload 0 4
    let d := c.payload.drop 8
    let put (l : Bytes) (n : Nat) : Res := { st := { s with fw.staging := { bytes := l }, fw.stagedTotal := n, fw.verified := false } }
    ¬ (noTm s || s.fw.act.isSome || s.hier.push.isSome) →
    ¬ (off == 0) →
    ¬ (off != s.fw.staging.bytes.length || s.fw.stagedTotal < off + d.length) →
    exec (.fwDownload c) s = .next (signalStatus s (Res.finish (put (s.fw.staging.bytes ++ d) s.fw.stagedTotal) c))) ∧
  (∀ (c : Cmd) (s : State), accepted fwVerifySpec c s = true →
    let i := s.fw.staging
    let code := i.verify s.fw.floor
    ¬ (noTm s) →
    ¬ (code != 2) →
    exec (.fwVerify c) s = s.answered ({ s with fw.verified := true }) c
      (toLe 1 code ++ zeros 3 ++ toLe 4 i.version ++ toLe 1 i.svn ++ zeros 3 ++ padTo 32 i.digest)) ∧
  (∀ (c : Cmd) (s : State), accepted fwActivateSpec c s = true →
    ¬ (noTm s || s.fw.flashBusy || s.fw.act.isSome) →
    ¬ (!s.fw.verified || s.fw.pending) →
    ¬ (s.hier.member && !s.retained && !s.good s.fw.imageRegion) →
    let a := if s.hier.member && !s.retained then s.retainBegin else s
    exec (.fwActivate c) s = s.opened ({ a with fw.act := some { at_ := s.time.ticks, image := s.fw.staging.cut, prevMode := s.mode.mode, oldVersion := s.fw.running.version } }) c .activate) ∧
  (∀ (c : Cmd) (s : State), accepted fwConfirmSpec c s = true →
    (s.fw.pending) →
    exec (.fwConfirm c) s = s.answered ({ s with fw.hostOk := true }) c) ∧
  (∀ (c : Cmd) (s : State), accepted fwRevertSpec c s = true →
    ¬ (!s.fw.pending || !((s.bootRec.map (·.retainedValid)).getD false) || !s.good s.fw.retainedRegion) →
    exec (.fwRevert c) s = s.answered (if s.fw.act.isSome then s else s.startRestore 3) c) ∧
  (∀ (c : Cmd) (s : State), accepted fwStatusGetSpec c s = true →
    let left := if s.fw.pending then (s.fw.startTick + secs s.fw.windowS - s.time.ticks) / secs 1 else 0
    exec (.fwStatusGet c) s = s.answered s c
      (recBytes (pairSeq s.fw.recA s.fw.recB) (s.bootRec.getD {}) ++ toLe 1 s.fw.floor ++ toLe 4 s.fw.staging.bytes.length ++
        toLe 1 (b2n s.fw.verified) ++ toLe 2 left)) ∧
  (∀ (c : Cmd) (s : State), accepted fwUpdateConfigSpec c s = true →
    let w := le c.payload 0 2
    ¬ (!inRange w 60 3600) →
    exec (.fwUpdateConfig c) s = s.answered (s.commitRec { s.bootRec.getD {} with windowS := w, hostGate := bit (byteAt c.payload 2) 0 }) c) ∧
  (∀ (c : Cmd) (s : State), accepted fwSvnCommitSpec c s = true →
    let n := s.fw.running.svn
    ¬ (s.fw.pending) →
    (n ≤ s.fw.floor) →
    exec (.fwSvnCommit c) s = s.answered s c
      (toLe 1 s.fw.floor)) ∧
  (∀ (c : Cmd) (s : State), accepted fwSvnCommitSpec c s = true →
    let n := s.fw.running.svn
    ¬ (s.fw.pending) →
    ¬ (n ≤ s.fw.floor) →
    let r := s.bootRec.getD {}
    let out := r.retainedValid && r.retSvn < n
    let a := { s with fw := s.fw.burn n }
    let b := if out then a.commitRec { r with retainedValid := false } else a
    exec (.fwSvnCommit c) s = s.answered (b.raise 0x0F89 (d4 n ++ d4 (b2n (!out)))) c
      (toLe 1 n)) ∧
  (∀ (c : Cmd) (s : State), accepted attestKeyGetSpec c s = true →
    exec (.attestKeyGet c) s = s.answered s c
      (padTo 60 Config.publicKey ++ padTo 3284 Config.keySignature ++ d4o s.fw.nextIndex)) ∧
  (∀ (c : Cmd) (s : State), accepted attestQuoteSpec c s = true →
    s.fw.nextIndex = none →
    exec (.attestQuote c) s = .next (signalStatus s (Res.finish
      ({ st := s.raise 0x0F87 (d4 1 ++ d4 0), status := stRefused, keep := true } : Res) c))) ∧
  (∀ (c : Cmd) (s : State), accepted attestQuoteSpec c s = true →
    ∀ i, s.fw.nextIndex = some i →
    ¬ (1073741824 ≤ i) →
    ¬ (s.sigTokens < 750000000) →
    let a := if (attTops s.fw.attA ++ attTops s.fw.attB).any (fun e => i < e) then s else s.reserve (i + 64)
    let rep := a.report i (slice c.payload 0 32)
    let b := { a with fw.nextIndex := some (i + 1), fw.tokens := s.sigTokens - 750000000, fw.tokensAt := s.time.ticks }
    exec (.attestQuote c) s = s.answered (b.noteIndices) c
      (rep ++ padTo 3284 (Config.hssSign (i / 32768) (i % 32768) rep))) ∧
  (∀ (c : Cmd) (s : State), accepted feRestartSpec c s = true →
    ¬ (s.fw.runs || s.mode.restartAt.isSome) →
    exec (.feRestart c) s = s.answered ({ s with mode.gaveUp := false, mode.restarts := [] }.restartFe) c) ∧
  (∀ (c : Cmd) (s : State), accepted fwSnowdropPushSpec c s = true →
    let f := byteAt c.payload 0
    ¬ (!s.isManager) →
    ¬ ((s.hier.offers.get? f).isNone) →
    ¬ (!s.fw.verified) →
    ¬ (s.hier.push.isSome) →
    exec (.fwSnowdropPush c) s = s.opened (s.pushChunk f 0) c (.snowdropPush f))

/-- Each event of the start, activation, confirmation and restart of firmware and of Snowdrop recovery: once accepted (a
command), or once its conditions hold (an event), it completes with the outcome given here. -/
def Obligations.FirmwareEventsComplete : Prop :=
  (∀ (recoveryReq : Bool) (s : State),
    ¬ (s.mode.mode != mdBoot || !s.aux.pllLocked || s.mode.held || s.aux.sysReset.low) →
    let a := s.applyMap
    (recoveryReq) →
    exec (.romStart recoveryReq) s = done s a.enterRecovery) ∧
  (∀ (recoveryReq : Bool) (s : State),
    ¬ (s.mode.mode != mdBoot || !s.aux.pllLocked || s.mode.held || s.aux.sysReset.low) →
    let a := s.applyMap
    ¬ (recoveryReq) →
    let sel := a.romSelect
    (!sel.2) →
    exec (.romStart recoveryReq) s = done s sel.1.enterRecovery) ∧
  (∀ (recoveryReq : Bool) (s : State),
    ¬ (s.mode.mode != mdBoot || !s.aux.pllLocked || s.mode.held || s.aux.sysReset.low) →
    let unread := (pairRead s.mode.mapA s.mode.mapB).isNone
    let a := s.applyMap
    ¬ (recoveryReq) →
    let sel := a.romSelect
    ¬ (!sel.2) →
    let b := sel.1.imageStarts sel.1.fw.imageRegion sel.1.recPending s.time.ticks
    let recs : List LedgerRec := (pairRead b.port.ledgerA b.port.ledgerB).getD []
    let c := { b with
      port.ledger := recs.filter LedgerRec.crcOk, port.ledgerSkipped := (recs.filter (fun (r : LedgerRec) => !r.crcOk)).length
      port.ledgerAt := b.time.ticks, port.accumAt := b.time.ticks }
    let d := ((c.changeMode mdConfigure 0xFF mcStart).readSettings true).firstRun
    let e := if unread then { d with mode.uncommitted := d.mode.uncommitted + 1 }.raise 0x1088 (d4 0 ++ d4o none ++
      d4o none) else d
    let f := if s.aux.latched % 32 / 2 != 0 then e.raise 0x1285 (d4 e.auxStatus) else e
    exec (.romStart recoveryReq) s = done s ({ f with aux.reported := true }.startConds).startElection) ∧
  (∀ (s : State),
    ∀ a, s.fw.act = some a →
    ¬ (a.paused || noTm s || !s.inService || (s.fw.runs && !s.quiet)) →
    (!activable s.mode.mode) →
    (s.fw.runs && a.cause.isNone) →
    exec .activationPause s = done s ({ s with fw.act := none }.finishKind .activate stWrongMode)) ∧
  (∀ (s : State),
    ∀ a, s.fw.act = some a →
    ¬ (a.paused || noTm s || !s.inService || (s.fw.runs && !s.quiet)) →
    ¬ (!activable s.mode.mode) →
    let cause := if a.cause == some 0 || a.cause == some 2 then 0xFFFFFFFF else mcCommand
    let b := { a with at_ := s.time.ticks, startAt := s.time.ticks, prevMode := s.mode.mode }
    let u := if a.cause.isNone && s.hier.member && !s.retained then s.retain else s
    let t := { u with fw.act := some b }.changeMode mdActivation s.mode.target cause
    exec .activationPause s =
      done s { t with
        fw.act := some { b with paused := true }
        fw.runs := false, mode.restartAt := none }) ∧
  (∀ (s : State),
    ¬ (!s.inService) →
    ∀ a, s.fw.act = some a →
    (a.paused && !s.resumeLate a) →
    exec .imageResumesFetching s = done s (s.resumeActivation a)) ∧
  (∀ (s : State),
    ¬ (!s.inService) →
    s.fw.act = none →
    ∀ t, s.mode.restartAt = some t →
    ¬ (s.fw.running.bytes.isEmpty || s.ended t (ms 100)) →
    let u := { s with mode.restartAt := none, mode.gaveUp := false }.imageStarts s.fw.running s.recPending t
    exec .imageResumesFetching s = done s ((u.readSettings false).firstRun).finishRetired.writeAnswers) ∧
  (∀ (s : State),
    ∀ a, s.fw.act = some a →
    let i := s.fw.imageRegion
    (a.paused && s.resumeLate a) →
    let r := s.bootRec.getD {}
    let t := if r.state == 2 then s.commitRec { r with attempts := r.attempts + 1 } else s
    exec .activationTimeout s =
      done s { t with
        fw.staging := i, fw.verified := false, fw.stagedTotal := i.bytes.length
        fw.act := some { a with image := i, startAt := s.time.ticks, oldVersion := a.image.version, cause := some 4, failed := true } }) ∧
  (∀ (failedSector : Option Nat) (s : State),
    ¬ (!s.fw.flashBusy || !s.inService || noTm s) →
    ∀ sector, failedSector = some sector →
    ¬ (!inRegion 10 sector) →
    exec (.flashUpdateComplete failedSector) s = done s ({ s with fw.flashBusy := false }.raise 0x0F85 (d4 10 ++
      d4 sector))) ∧
  (∀ (failedSector : Option Nat) (s : State),
    let r := s.bootRec.getD {}
    ¬ (!s.fw.flashBusy || !s.inService || noTm s) →
    failedSector = none →
    (r.state == 3) →
    exec (.flashUpdateComplete failedSector) s =
      done s ({ s with fw.flashBusy := false, fw.imageRegion := s.fw.retainedRegion }.commitRec { r with
        state := 0, attempts := 0, digest := r.retDigest, version := r.retVersion, length := r.retLength, svn := r.retSvn })) ∧
  (∀ (failedSector : Option Nat) (s : State),
    let r := s.bootRec.getD {}
    ¬ (!s.fw.flashBusy || !s.inService || noTm s) →
    failedSector = none →
    ¬ (r.state == 3) →
    exec (.flashUpdateComplete failedSector) s =
      done s ({ s with fw.flashBusy := false, fw.imageRegion := s.fw.flashImage }.commitRec
        (if s.fw.pending then { r with state := 2, attempts := 1 } else { r with state := 0, attempts := 0 }))) ∧
  (∀ (s : State),
    ∀ r, s.bootRec = some r →
    (s.fw.pending && r.state == 2 && s.fwRuns && s.fw.act.isNone && s.fw.settingsOk && s.ended s.fw.hbSince (secs 10) &&
      s.hier.role == s.fw.roleWanted && (!s.fw.hostGate || s.fw.hostOk)) →
    exec .imageConfirm s =
      done s (({ s with fw.pending := false }.commitRec { r with state := 0, attempts := 0 }).raise 0x0F82
        (d4 s.fw.running.version))) ∧
  (∀ (s : State),
    (s.fw.pending && s.fw.act.isNone && s.inService && s.ended s.fw.startTick (secs s.fw.windowS) &&
      (s.bootRec.map (·.retainedValid)).getD false) →
    exec .confirmWindowEnd s = done s (s.startRestore 0)) ∧
  (∀ (cause : FeCause) (cores : List Nat) (s : State),
    ¬ (cores.any (fun k => 5 ≤ k)) →
    (s.watched && (cause != FeCause.stall || s.ended s.hif.hbTick (ms 100))) →
    exec (.feFirmwareFailure cause cores) s = done s (s.feFailed cause cores)) ∧
  (∀ (s : State),
    ∀ t, s.mode.restartAt = some t →
    (s.inService && s.ended t (ms 100)) →
    let a := { s with mode.restartAt := none, mode.lastFail := 0, mode.restarts := s.restartsLeft }.bump 1711 6
    exec .feRestartTimeout s = done s (if 3 ≤ a.mode.restarts.length then a.stopRestarts 0 else a.restartFe)) ∧
  (∀ (v : BitVec 32) (s : State),
    (s.hif.linkUp) →
    exec (.imageReady v) s = done s (s.writeSnowdrop (v.getLsbD 2))) ∧
  (∀ (path : Path) (h : CoordHdr) (total : Nat) (offset : Nat) (data : Bytes) (s : State),
    ¬ (3 ≤ path) →
    ¬ (!s.windowOpen || path != 0 || !s.hier.linkUp.contains 0 || s.bootRec.isNone) →
    (!h.etherOk || h.systemId != s.hier.systemId || h.version != 1 || !h.checkOk || h.type != 0x31) →
    exec (.snowdropChunk path h total offset data) s = done s (s.bump 1512 2)) ∧
  (∀ (path : Path) (h : CoordHdr) (total : Nat) (offset : Nat) (data : Bytes) (s : State),
    ¬ (3 ≤ path) →
    ¬ (!s.windowOpen || path != 0 || !s.hier.linkUp.contains 0 || s.bootRec.isNone) →
    ¬ (!h.etherOk || h.systemId != s.hier.systemId || h.version != 1 || !h.checkOk || h.type != 0x31) →
    ¬ ((!bit h.flags 0 && h.dst != s.fab.fdi) || h.src == s.fab.fdi) →
    let reply (t : State) (type : Nat) (body : Bytes) : State := t.newMsg 0 { type, dst := some h.src, ack := false, body }
    let a := s.bump 1512 1 0
    let b := if bit h.flags 1 then reply a 0x02 (toBe 4 h.msgSeq ++ zeros 4) else a
    let x := b.member h.src
    (x.seen.contains h.msgSeq) →
    exec (.snowdropChunk path h total offset data) s = done s b) ∧
  (∀ (path : Path) (h : CoordHdr) (total : Nat) (offset : Nat) (data : Bytes) (s : State),
    ¬ (3 ≤ path) →
    ¬ (!s.windowOpen || path != 0 || !s.hier.linkUp.contains 0 || s.bootRec.isNone) →
    ¬ (!h.etherOk || h.systemId != s.hier.systemId || h.version != 1 || !h.checkOk || h.type != 0x31) →
    ¬ ((!bit h.flags 0 && h.dst != s.fab.fdi) || h.src == s.fab.fdi) →
    let reply (t : State) (type : Nat) (body : Bytes) : State := t.newMsg 0 { type, dst := some h.src, ack := false, body }
    let a := s.bump 1512 1 0
    let b := if bit h.flags 1 then reply a 0x02 (toBe 4 h.msgSeq ++ zeros 4) else a
    let x := b.member h.src
    ¬ (x.seen.contains h.msgSeq) →
    let c := b.setMember h.src { x with seen := (h.msgSeq :: x.seen).take 1024 }
    let answer (t : State) (code : Nat) : State := reply t 0x32 (toBe 1 code ++ zeros 3 ++ toBe 4 t.fw.snowNext)
    (c.fw.snowNext != 0 && c.fw.snowSender != some h.src) →
    exec (.snowdropChunk path h total offset data) s = done s (answer c 0x18)) ∧
  (∀ (path : Path) (h : CoordHdr) (total : Nat) (offset : Nat) (data : Bytes) (s : State),
    ¬ (3 ≤ path) →
    ¬ (!s.windowOpen || path != 0 || !s.hier.linkUp.contains 0 || s.bootRec.isNone) →
    ¬ (!h.etherOk || h.systemId != s.hier.systemId || h.version != 1 || !h.checkOk || h.type != 0x31) →
    ¬ ((!bit h.flags 0 && h.dst != s.fab.fdi) || h.src == s.fab.fdi) →
    let reply (t : State) (type : Nat) (body : Bytes) : State := t.newMsg 0 { type, dst := some h.src, ack := false, body }
    let a := s.bump 1512 1 0
    let b := if bit h.flags 1 then reply a 0x02 (toBe 4 h.msgSeq ++ zeros 4) else a
    let x := b.member h.src
    ¬ (x.seen.contains h.msgSeq) →
    let c := b.setMember h.src { x with seen := (h.msgSeq :: x.seen).take 1024 }
    let answer (t : State) (code : Nat) : State := reply t 0x32 (toBe 1 code ++ zeros 3 ++ toBe 4 t.fw.snowNext)
    ¬ (c.fw.snowNext != 0 && c.fw.snowSender != some h.src) →
    let r := c.snowTake total offset data 3936
    let t := if r.1 == 0x01 then { r.2 with fw.snowSender := some h.src } else r.2
    let u := answer t r.1
    exec (.snowdropChunk path h total offset data) s = done s (if r.1 == 0x03 then u.snowAccept u.fw.staging 1 else u)) ∧
  (∀ (s : State),
    ¬ (!s.windowOpen || s.bootRec.isNone || !s.hier.linkUp.contains 0 || !s.ended s.fw.snowAt (secs 1)) →
    exec .snowdropOfferSend s =
         done s ({ s with fw.snowAt := s.time.ticks }.newMsg 0
      { type := 0x30, dst := none, ack := false
        body := padTo 8 Config.dieFe ++ padTo 8 Config.dieTm ++ toBe 1 Config.offerCause.toNat ++ zeros 3 }))

/-- Each command of class 0x10 and each event of modes, degraded conditions, die-to-die modules, service cores, memory errors
and the repair map: once accepted (a command), or once its conditions hold (an event), it completes with the outcome given
here. -/
def Obligations.ModesComplete : Prop :=
  (∀ (c : Cmd) (s : State), accepted modeSetSpec c s = true →
    let m := byteAt c.payload 0
    (m == mdQuarantine) →
    ¬ (byteAt c.payload 1 != 0xA5) →
    exec (.modeSet c) s = s.answered (s.quarantine 6) c) ∧
  (∀ (c : Cmd) (s : State), accepted modeSetSpec c s = true →
    let m := byteAt c.payload 0
    ¬ (m == mdQuarantine) →
    ¬ (!inRange m mdBringUp mdMaintenance) →
    ¬ (s.hier.member && inRange m mdForwarding mdMaintenance) →
    ¬ (!(commanded s.mode.mode).contains m) →
    ¬ (s.mode.mode == mdDegraded && s.mode.conds != 0 && m != mdDrain) →
    exec (.modeSet c) s = s.answered (s.requestMode m mcCommand) c) ∧
  (∀ (c : Cmd) (s : State), accepted modeStatusGetSpec c s = true →
    exec (.modeStatusGet c) s = s.answered s c
      (toLe 1 s.mode.mode ++ toLe 1 s.mode.prev ++ toLe 1 s.mode.target ++ toLe 1 s.mode.cause ++ toLe 4 s.mode.conds ++
        toLe 4 s.hier.epoch ++ toLe 4 s.mode.entered.toNat ++ toLe 1 (b2n s.mode.tmDeputy + 2 * b2n s.mode.gaveUp) ++
          zeros 3)) ∧
  (∀ (c : Cmd) (s : State), accepted repairStatusGetSpec c s = true →
    exec (.repairStatusGet c) s = s.answered s c
      (s.spareLines ++ toLe 4 s.sramRepairs)) ∧
  (∀ (c : Cmd) (s : State), accepted repairMapReadSpec c s = true →
    let first := le c.payload 0 2
    let n := le c.payload 2 2
    ¬ (!inRange n 1 256 || 65280 < first + n) →
    exec (.repairMapRead c) s = s.answered s c
      (((s.mode.repairs.drop first).take n).flatMap Repair.encode)) ∧
  (∀ (c : Cmd) (s : State), accepted deviceResetSpec c s = true →
    exec (.deviceReset c) s = s.answered (if s.mode.resetAt.isSome then s else { s with mode.resetAt := some s.time.ticks }) c) ∧
  (∀ (c : Cmd) (s : State), accepted repairConfigSpec c s = true →
    let v := le c.payload 0 2
    ¬ (!inRange v 1 10000) →
    exec (.repairConfig c) s = s.answered ({ s with mode.rateAlarm := v }.noteRate) c) ∧
  (∀ (at_ : FlitError) (s : State),
    let module := at_.module
    ¬ (16 ≤ module) →
    ¬ (!s.aux.pllLocked || s.mode.d2dOut.contains module) →
    let n := s.oldestFlit module at_.toFe
    let a := s.mapFlits (fun f => if some f.no == n then f.replay module else f)
    let b := { a with mode.d2dReplays := s.mode.d2dReplays + 1 }
    exec (.d2dFlitError at_) s = done s (if at_.toFe then b else b.perfCount 0 8 module 2)) ∧
  (∀ (module : Nat) (toFe : Bool) (lane : Nat) (s : State),
    ¬ (16 ≤ module || 66 ≤ lane) →
    ¬ (!s.aux.pllLocked || s.mode.d2dOut.contains module) →
    let key := 2 * module + b2n toFe
    let used := s.mode.d2dLanes.getD key 0
    let r (k i : Nat) : Repair := { kind := k, die := b2n toFe, cause := 2, unit := module, index := i, hours := s.hours }
    (used < 2) →
    exec (.d2dLaneFault module toFe lane) s =
      done s ({ s with mode.d2dLanes := s.mode.d2dLanes.set key (used + 1) }.record (r 0xA lane))) ∧
  (∀ (module : Nat) (toFe : Bool) (lane : Nat) (s : State),
    ¬ (16 ≤ module || 66 ≤ lane) →
    ¬ (!s.aux.pllLocked || s.mode.d2dOut.contains module) →
    let key := 2 * module + b2n toFe
    let used := s.mode.d2dLanes.getD key 0
    let r (k i : Nat) : Repair := { kind := k, die := b2n toFe, cause := 2, unit := module, index := i, hours := s.hours }
    ¬ (used < 2) →
    let b := { s with mode.d2dOut := s.mode.d2dOut ++ [module] }.record (r 0xB 0)
    let moved := if toFe then [] else (b.parse.d2dQ.filter (fun d => d.flit.module == module)).map (fun d => (b.reroute module d.flit).module)
    let a := moved.foldl (fun (t : State) m => t.perfCount 0 8 m 2) (b.mapFlits (b.reroute module))
    (12 ≤ a.mode.d2dOut.length) →
    exec (.d2dLaneFault module toFe lane) s = done s (a.quarantine 4)) ∧
  (∀ (module : Nat) (toFe : Bool) (lane : Nat) (s : State),
    ¬ (16 ≤ module || 66 ≤ lane) →
    ¬ (!s.aux.pllLocked || s.mode.d2dOut.contains module) →
    let key := 2 * module + b2n toFe
    let used := s.mode.d2dLanes.getD key 0
    let r (k i : Nat) : Repair := { kind := k, die := b2n toFe, cause := 2, unit := module, index := i, hours := s.hours }
    ¬ (used < 2) →
    let b := { s with mode.d2dOut := s.mode.d2dOut ++ [module] }.record (r 0xB 0)
    let moved := if toFe then [] else (b.parse.d2dQ.filter (fun d => d.flit.module == module)).map (fun d => (b.reroute module d.flit).module)
    let a := moved.foldl (fun (t : State) m => t.perfCount 0 8 m 2) (b.mapFlits (b.reroute module))
    ¬ (12 ≤ a.mode.d2dOut.length) →
    (6 ≤ a.mode.d2dOut.length) →
    exec (.d2dLaneFault module toFe lane) s = done s (a.setCond 0)) ∧
  (∀ (module : Nat) (toFe : Bool) (lane : Nat) (s : State),
    ¬ (16 ≤ module || 66 ≤ lane) →
    ¬ (!s.aux.pllLocked || s.mode.d2dOut.contains module) →
    let key := 2 * module + b2n toFe
    let used := s.mode.d2dLanes.getD key 0
    let r (k i : Nat) : Repair := { kind := k, die := b2n toFe, cause := 2, unit := module, index := i, hours := s.hours }
    ¬ (used < 2) →
    let b := { s with mode.d2dOut := s.mode.d2dOut ++ [module] }.record (r 0xB 0)
    let moved := if toFe then [] else (b.parse.d2dQ.filter (fun d => d.flit.module == module)).map (fun d => (b.reroute module d.flit).module)
    let a := moved.foldl (fun (t : State) m => t.perfCount 0 8 m 2) (b.mapFlits (b.reroute module))
    ¬ (12 ≤ a.mode.d2dOut.length) →
    ¬ (6 ≤ a.mode.d2dOut.length) →
    exec (.d2dLaneFault module toFe lane) s = done s a) ∧
  (∀ (bit : Nat) (s : State),
    ¬ (12 ≤ bit) →
    (s.inService) →
    exec (.degradedConditionArises bit) s = done s (s.setCond bit)) ∧
  (∀ (bit : Nat) (s : State),
    ¬ (12 ≤ bit) →
    (s.inService && !s.condHolds bit) →
    exec (.degradedConditionClears bit) s = done s (s.clearCond bit)) ∧
  (∀ (s : State),
    (s.aux.pllLocked && s.mode.mode == mdDrain && !s.mode.drainSaid && s.queuesEmpty) →
    exec .drainComplete s = done s ({ s with mode.drainSaid := true }.raise 0x1082 (d4 s.t32.toNat))) ∧
  (∀ (s : State),
    (s.mode.tmDeputy && s.fwRuns && s.ended s.fw.hbSince (secs 10)) →
    exec .tmDeputyClear s = done s { s with mode.tmDeputy := false }) ∧
  (∀ (core : Nat) (s : State),
    ¬ (2 ≤ core) →
    ¬ (!s.fwRuns || s.mode.tmDead.contains core) →
    let l := (s.mode.tmRestarts.getD core []).filter (fun t => !s.ended t (secs 600))
    (l.length < 3) →
    exec (.tmCoreFailure core) s = done s ({ s with mode.tmRestarts := s.mode.tmRestarts.set core (l ++ [s.time.ticks]) }.bump 1711 7)) ∧
  (∀ (core : Nat) (s : State),
    ¬ (2 ≤ core) →
    ¬ (!s.fwRuns || s.mode.tmDead.contains core) →
    let l := (s.mode.tmRestarts.getD core []).filter (fun t => !s.ended t (secs 600))
    ¬ (l.length < 3) →
    let a := { s with mode.tmDead := s.mode.tmDead ++ [core] }.record
      { kind := 9, die := 1, cause := 2, unit := core, index := 0, hours := s.hours }
    exec (.tmCoreFailure core) s = done s ((a.raise 0x1087 (d4 1 ++ d4 core ++ d4o none)).setCond 11)) ∧
  (∀ (macro_ : Nat) (s : State),
    ¬ (2304 ≤ macro_) →
    ¬ (!s.aux.pllLocked) →
    ((s.macro_ macro_).filling.isSome) →
    exec (.spareRowFilled macro_) s = done s (s.setMacro macro_ { s.macro_ macro_ with filling := none })) ∧
  (∀ (failedSector : Option Nat) (s : State),
    ¬ (!s.mapSector failedSector) →
    (s.fwRuns && s.mode.uncommitted != 0 && s.mode.mapFailedAt.isNone) →
    exec (.repairMapCommit failedSector) s = done s (s.commitMap failedSector)) ∧
  (∀ (failedSector : Option Nat) (s : State),
    ¬ (!s.mapSector failedSector) →
    ∀ t, s.mode.mapFailedAt = some t →
    (s.fwRuns && s.ended t (secs 60)) →
    exec (.repairMapRetry failedSector) s = done s (s.commitMap failedSector)) ∧
  (∀ (s : State),
    ∀ t, s.mode.resetAt = some t →
    (s.ended t (ms 10)) →
    exec .resetDelayExpiry s = done s s.resetDies) ∧
  (∀ (s : State),
    (s.fwRuns && (!s.hif.fwRunning || s.ended s.hif.hbTick (ms 1))) →
    exec .fwHeartbeatTick s =
      done s ({ s with
        hif.heartbeat := (s.hif.heartbeat + 1) % 4294967296, hif.hbTick := s.time.ticks, hif.fwRunning := true
        hif.fwHalted := false
        mode.coreWords := s.mode.coreWords.mapIdx (fun k w => if s.coreInUse k then (w + 1) % 4294967296 else w) }.writeAnswers)) ∧
  (∀ (s : State),
    (!s.hif.fwHalted && s.hif.fwRunning && s.ended s.hif.hbTick (ms 200) && !(s.mode.mode == mdStandby ||
      s.mode.mode == mdRecovery || s.mode.mode == mdBoot)) →
    exec .fwHaltedTimeout s = done s { s with hif.fwHalted := true }) ∧
  (∀ (die : Nat) (macro_ : Nat) (row : Nat) (column : Nat) (correctable : Bool) (use : SramUse) (s : State),
    ¬ (2 ≤ die || 2304 ≤ macro_ || !sramExists use) →
    ¬ (!s.aux.pllLocked) →
    let a := if correctable then s.sramCorrected use else s.sramLost use
    let b := (a.sramRepair die macro_ row column correctable).withholdCell macro_ row (s.cellOf use)
    exec (.sramError die macro_ row column correctable use) s = done s (if use == .serviceMemory && !correctable &&
      b.watched then b.feFailed .uncorrectable [] else b))

/-- Each command of class 0x11 and each event of performance counters, histograms, samples and telemetry blocks: once accepted
(a command), or once its conditions hold (an event), it completes with the outcome given here. -/
def Obligations.TelemetryComplete : Prop :=
  (∀ (c : Cmd) (s : State), accepted perfCounterConfigSpec c s = true →
    let die := byteAt c.payload 0
    let n := byteAt c.payload 1
    let w := le c.payload 4 4
    let unit := field w 27 20
    let inst := field w 19 12
    let event := field w 7 0
    let chain := bit w 30
    let x := s.perf die n
    ¬ (1 < die || !selectorOk die unit inst event || (chain && n == 255) || (chain &&
      3 < s.chainBelow die 4 n + 1 + s.chainAbove die 4 (n + 1))) →
    ¬ (x.enable) →
    exec (.perfCounterConfig c) s = s.answered (s.setPerf die n { x with enable := bit w 31, chain, unit, inst, event }) c) ∧
  (∀ (c : Cmd) (s : State), accepted perfControlSpec c s = true →
    let b := c.payload
    let op := byteAt b 0
    let t : T32 := BitVec.ofNat 32 (le b 4 4)
    ¬ (2 < op || (t != 0 && !T32.validCommit s.t32 t)) →
    (t == 0) →
    exec (.perfControl c) s = s.answered ({ s with tel.perfNext := s.tel.perfNext ++ [{ op, fe := le b 8 32, tm := le b 40 32, t }] }) c) ∧
  (∀ (c : Cmd) (s : State), accepted perfControlSpec c s = true →
    let b := c.payload
    let op := byteAt b 0
    let t : T32 := BitVec.ofNat 32 (le b 4 4)
    ¬ (2 < op || (t != 0 && !T32.validCommit s.t32 t)) →
    ¬ (t == 0) →
    ¬ (s.tel.perfOp.isSome) →
    exec (.perfControl c) s = s.answered ({ s with tel.perfOp := some { op, fe := le b 8 32, tm := le b 40 32, t } }) c) ∧
  (∀ (c : Cmd) (s : State), accepted perfCounterReadSpec c s = true →
    let b := c.payload
    let l := (bitmapOf (le b 0 32) 32).map (fun n => (0, n)) ++ (bitmapOf (le b 32 32) 32).map (fun n => (1, n))
    let clear := byteAt b 64
    ¬ (1 < clear) →
    exec (.perfCounterRead c) s = s.answered (if clear == 0 then s else l.foldl (fun (a : State) (e : Nat × Nat) => a.setPerf e.1 e.2 { a.perf e.1 e.2 with value := 0, overflow := false }) s) c
      (toLe 4 s.t32.toNat ++ l.flatMap (fun (e : Nat × Nat) => toLe 4 (s.perf e.1 e.2).value ++
        toLe 4 (s.perf e.1 e.2).word))) ∧
  (∀ (c : Cmd) (s : State), accepted histogramConfigSpec c s = true →
    let b := c.payload
    let k := byteAt b 0
    let source := byteAt b 2
    let first := if source == 0 then le b 4 4 else if source == 3 then 0 else byteAt b 4
    let count := if source == 0 then le b 8 4 else 1
    let i := le b 12 4
    let start : T32 := BitVec.ofNat 32 (le b 16 4)
    ¬ (63 < k || 1 < byteAt b 1 || 3 < source || 15 < byteAt b 3 || !inRange i 1 1000 || !T32.validCommit s.t32 start ||
      count == 0) →
    ¬ (!s.sourceExists source first count) →
    let x : Hist := { enable := byteAt b 1 == 1, source, shift := byteAt b 3, first, count, intervalMs := i, start }
    exec (.histogramConfig c) s = s.answered ({ s with tel.hists := s.tel.hists.set k x }) c) ∧
  (∀ (c : Cmd) (s : State), accepted psampleConfigSpec c s = true →
    let b := c.payload
    ¬ (2 ^ 100 ≤ le b 0 16 || 32 ≤ byteAt b 16 || 4 ≤ byteAt b 17 || !inRange (le b 20 4) 1 1048576) →
    exec (.psampleConfig c) s = s.answered ({ s with tel.engines := le b 0 16, tel.feCores := byteAt b 16, tel.tmCores := byteAt b 17, tel.interval := le b 20 4, tel.ran := [] }) c) ∧
  (∀ (c : Cmd) (s : State), accepted telemetryConfigSpec c s = true →
    let n := byteAt c.payload 0
    let f := le c.payload 2 2
    let x := s.chan n
    ¬ (!(n == 0 || inRange n 4 63) || !inRange f 1 1000) →
    ¬ (n != 0 && (!x.configured || x.inject)) →
    ¬ (n != 0 && (s.chanPool n).retain) →
    let a := if n == s.tel.channel then s else s.closeBlock
    exec (.telemetryConfig c) s = s.answered ({ a with tel.channel := n, tel.flushUs := f }.drainRing) c) ∧
  (∀ (c : Cmd) (s : State), accepted telemetryCountersGetSpec c s = true →
    exec (.telemetryCountersGet c) s = s.answered s c
      (s.snap 1809 telDims)) ∧
  (∀ (s : State),
    ¬ (!s.aux.pllLocked) →
    ∀ x, s.tel.perfOp = some x →
    (s.t32.reached x.t) →
    exec .perfControlDue s = done s ({ s with tel.perfOp := none }.perfOp x.op x.fe x.tm)) ∧
  (∀ (die : Nat) (counter : Nat) (s : State),
    ¬ (2 ≤ die || 256 ≤ counter) →
    let k := s.chainBelow die 4 counter
    let x := s.perf die (counter - k)
    ¬ (!s.aux.pllLocked || !x.enable || (s.perf die counter).chain || countedEvent x.unit x.event) →
    let t := (List.range (k + 1)).foldl (fun (a : State) i =>
      a.setPerf die (counter - i) { a.perf die (counter - i) with value := 0 }) s
    exec (.perfOverflow die counter) s = done s (t.perfWrap die counter)) ∧
  (∀ (k : Nat) (s : State),
    ¬ (64 ≤ k) →
    ¬ (!s.aux.pllLocked) →
    ¬ ((s.tel.hists.getD k {}).ended.isNone) →
    exec (.histogramWindowEnd k) s = done s (s.writeHist k)) ∧
  (∀ (kind : Nat) (unit : Nat) (insn : Nat) (address : Nat) (stall : Nat) (packetId : Nat) (s : State),
    ¬ (3 ≤ kind || [100, 5, 2].getD kind 0 ≤ unit) →
    ¬ (!s.aux.pllLocked || !s.sampled kind unit || !s.sampleDue kind unit) →
    let t : State := if kind == 0 then { s with tel.ran := s.tel.ran.set unit (s.tel.ran.getD unit 0 - s.tel.interval) } else s
    exec (.psampleRecord kind unit insn address stall packetId) s =
      done s (t.psample (psampleBody kind unit false 0 insn address stall packetId s.t32))) ∧
  (∀ (s : State),
    ¬ (!s.aux.pllLocked) →
    (s.tel.blockBuf.isSome && s.ended s.tel.blockAt (us s.tel.flushUs)) →
    exec .telemetryFlush s = done s s.closeBlock)

/-- Each command of class 0x12 and each event of rails, clocks, temperatures, pins and the aux block: once accepted (a
command), or once its conditions hold (an event), it completes with the outcome given here. -/
def Obligations.PackageComplete : Prop :=
  (∀ (c : Cmd) (s : State), accepted pkgStatusGetSpec c s = true →
    exec (.pkgStatusGet c) s = s.answered s c
      (toLe 4 s.auxStatus ++ (List.range 40).flatMap (fun k => toLeS 1 (s.sensor k)) ++ toLe 1 s.hottest ++ zeros 3 ++
        (List.range 9).flatMap (fun r => toLe 2 (Config.railMillivolts s.time.ticks r).toNat))) ∧
  (∀ (c : Cmd) (s : State), accepted thermalConfigSpec c s = true →
    let t := byteAt c.payload 0
    ¬ (!inRange t 70 105) →
    exec (.thermalConfig c) s = s.answered ({ s with aux.alarmC := t }) c) ∧
  (∀ (c : Cmd) (s : State), accepted alarmInputConfigSpec c s = true →
    let k := byteAt c.payload 0
    let l := byteAt c.payload 1
    let d := le c.payload 2 2
    ¬ (3 < k || 1 < l || !inRange d 1 1000) →
    exec (.alarmInputConfig c) s = s.answered ({ s with aux.alarmCfg := s.aux.alarmCfg.set k (l == 1, d), aux.alarms := s.aux.alarms.upd k {} (fun x => { x with since := s.time.ticks }) }) c) ∧
  (∀ (c : Cmd) (s : State), accepted pkgInputUnmaskSpec c s = true →
    let b := byteAt c.payload 0
    let free (on : Bool) (x : Input) : Input := if on then { x with masked := false, asserts := [] } else x
    exec (.pkgInputUnmask c) s = s.answered ({ s with aux.sysReset := free (bit b 0) s.aux.sysReset, aux.perst := free (bit b 1) s.aux.perst, aux.alarms := s.aux.alarms.map (fun e => (e.1, free (bit b (2 + e.1)) e.2)) }) c) ∧
  (∀ (c : Cmd) (s : State), accepted auxStatusClearSpec c s = true →
    let m := le c.payload 0 4
    ¬ (m ||| auxLatchedMask != auxLatchedMask) →
    exec (.auxStatusClear c) s = s.answered ({ s with aux.latched := s.aux.latched &&& (auxLatchedMask ^^^ m) }) c) ∧
  (∀ (reg : Nat) (v : BitVec 32) (s : State),
    ¬ (reg != 0 || !s.auxRuns) →
    exec (.auxRegisterWrite reg v) s =
      done s { s with aux.latched := s.aux.latched &&& (auxLatchedMask &&& (~~~ v).toNat) }) ∧
  (∀ (s : State),
    ¬ (s.mode.mode == mdStandby || s.aux.pllLocked || s.aux.sysReset.low) →
    let a : State := { s with aux.pllLocked := true, time.acc := 0, time.inc := 0x0155555555#40 }
    exec .rootPllLock s = done s (if s.starting && s.aux.tripN &&
      !s.aux.railsOut then { a with mode.held := false } else a)) ∧
  (∀ (s : State),
    (s.mode.mode == mdBoot && !s.aux.pllLocked && s.retryDue) →
    exec .pllLockRetry s = done s { s with aux.pllLocked := false, aux.pllTryAt := some s.time.ticks }) ∧
  (∀ (s : State),
    ¬ (!s.aux.pllLocked || s.mode.mode == mdStandby) →
    (s.starting) →
    exec .rootPllLoss s = done s (s.hold.latch 2)) ∧
  (∀ (s : State),
    ¬ (!s.aux.pllLocked || s.mode.mode == mdStandby) →
    ¬ (s.starting) →
    (s.mode.mode == mdQuarantine) →
    exec .rootPllLoss s = done s s.pllSteps) ∧
  (∀ (s : State),
    ¬ (!s.aux.pllLocked || s.mode.mode == mdStandby) →
    ¬ (s.starting) →
    ¬ (s.mode.mode == mdQuarantine) →
    exec .rootPllLoss s = done s s.quarantinePll) ∧
  (∀ (s : State),
    ¬ (s.mode.mode == mdStandby) →
    let a := s.resetDies
    let b : State := { a with
      mode.mode := mdStandby, mode.held := false, aux.mainGood := false, aux.railsOut := false, aux.tripN := true
      aux.lastCause := 4 }
    exec .mainPowerLoss s = done s (b.latch 1)) ∧
  (∀ (rail : Nat) (s : State),
    ¬ (9 ≤ rail) →
    ¬ (s.mode.mode == mdStandby) →
    let a := (s.railSeen rail).latch 3
    exec (.railFault rail) s = done s (if s.starting then a.hold else a.quarantine 3)) ∧
  (∀ (s : State),
    let a := { s with aux.mainGood := true }
    exec .mainRailsGood s = done s (if s.mode.mode == mdStandby && !s.aux.sysReset.low then a.powerUp else a)) ∧
  (∀ (millivolt : Nat) (s : State),
    let a := { s with aux.vaux := millivolt }
    (millivolt < 2600 && s.mode.mode == mdStandby && !s.aux.mainGood) →
    exec (.vauxChange millivolt) s = done s a.auxReset) ∧
  (∀ (millivolt : Nat) (s : State),
    let a := { s with aux.vaux := millivolt }
    ¬ (millivolt < 2600 && s.mode.mode == mdStandby && !s.aux.mainGood) →
    (inRange millivolt 2700 5500) →
    exec (.vauxChange millivolt) s = done s { a with aux.vauxOk := true }) ∧
  (∀ (millivolt : Nat) (s : State),
    let a := { s with aux.vaux := millivolt }
    ¬ (millivolt < 2600 && s.mode.mode == mdStandby && !s.aux.mainGood) →
    ¬ (inRange millivolt 2700 5500) →
    (millivolt < 2600) →
    exec (.vauxChange millivolt) s = done s { a with aux.vauxOk := false, aux.sysReset.masked := false }) ∧
  (∀ (millivolt : Nat) (s : State),
    let a := { s with aux.vaux := millivolt }
    ¬ (millivolt < 2600 && s.mode.mode == mdStandby && !s.aux.mainGood) →
    ¬ (inRange millivolt 2700 5500) →
    ¬ (millivolt < 2600) →
    exec (.vauxChange millivolt) s = done s a) ∧
  (∀ (sensor : Nat) (tempC : Int) (s : State),
    ¬ (40 ≤ sensor) →
    ¬ (s.mode.mode == mdStandby) →
    let a := s.noteTemp sensor tempC
    let say (x : State) (k : Nat) : State := if s.inService then x.raise 0x1283 (d4 sensor ++ d4s tempC ++ d4 k) else x
    (!s.aux.alarm && (s.aux.alarmC : Int) ≤ tempC) →
    exec (.thermalAlarm sensor tempC) s = done s (say { a with aux.alarm := true, aux.alertThermN := false } 0)) ∧
  (∀ (sensor : Nat) (tempC : Int) (s : State),
    ¬ (40 ≤ sensor) →
    ¬ (s.mode.mode == mdStandby) →
    let a := s.noteTemp sensor tempC
    let say (x : State) (k : Nat) : State := if s.inService then x.raise 0x1283 (d4 sensor ++ d4s tempC ++ d4 k) else x
    ¬ (!s.aux.alarm && (s.aux.alarmC : Int) ≤ tempC) →
    (s.aux.alarm && a.aux.temps.all (fun e => e.2 ≤ (s.aux.alarmC : Int) - 5)) →
    exec (.thermalAlarm sensor tempC) s = done s (say { a with aux.alarm := false, aux.alertThermN := true } 1)) ∧
  (∀ (sensor : Nat) (tempC : Int) (s : State),
    ¬ (40 ≤ sensor) →
    ¬ (s.mode.mode == mdStandby) →
    let a := s.noteTemp sensor tempC
    ¬ (!s.aux.alarm && (s.aux.alarmC : Int) ≤ tempC) →
    ¬ (s.aux.alarm && a.aux.temps.all (fun e => e.2 ≤ (s.aux.alarmC : Int) - 5)) →
    exec (.thermalAlarm sensor tempC) s = done s a) ∧
  (∀ (sensor : Nat) (tempC : Int) (s : State),
    ¬ (40 ≤ sensor) →
    ¬ (s.mode.mode == mdStandby || tempC < 115) →
    let a := { s.noteTemp sensor tempC with aux.tripN := false }.latch 4
    exec (.thermalTrip sensor tempC) s = done s (if s.starting then a.hold else a.quarantine 2)) ∧
  (∀ (sensor : Nat) (tempC : Int) (s : State),
    ¬ (40 ≤ sensor) →
    ¬ (s.mode.mode == mdStandby) →
    let a := s.noteTemp sensor tempC
    (tempC < 0 && !s.aux.cold && s.inService) →
    exec (.temperatureLow sensor tempC) s = done s ({ a with aux.cold := true }.raise 0x1284 (d4 sensor ++ d4s tempC))) ∧
  (∀ (sensor : Nat) (tempC : Int) (s : State),
    ¬ (40 ≤ sensor) →
    ¬ (s.mode.mode == mdStandby) →
    let a := s.noteTemp sensor tempC
    ¬ (tempC < 0 && !s.aux.cold && s.inService) →
    exec (.temperatureLow sensor tempC) s = done s a) ∧
  (∀ (s : State),
    ¬ (s.aux.sysReset.masked || s.aux.sysReset.low) →
    let r := s.inputHit s.aux.sysReset 3 (secs 10)
    (r.2) →
    exec .sysResetAssertion s = done s ({ s with aux.sysReset := r.1 }.inputMasked 8 0)) ∧
  (∀ (s : State),
    ¬ (s.aux.sysReset.masked || s.aux.sysReset.low) →
    let r := s.inputHit s.aux.sysReset 3 (secs 10)
    ¬ (r.2) →
    let a := { s with aux.sysReset := { r.1 with low := true, since := s.time.ticks } }
    exec .sysResetAssertion s = done s (if s.mode.mode == mdStandby then a else a.resetDies)) ∧
  (∀ (s : State),
    let a := { s with aux.sysReset.low := false, aux.sysReset.since := s.time.ticks, aux.resetStuck := false }
    exec .sysResetRelease s = done s (if s.mode.mode == mdStandby && s.aux.mainGood then a.powerUp else a)) ∧
  (∀ (s : State),
    (s.aux.sysReset.low && s.ended s.aux.sysReset.since (secs 1)) →
    exec .resetStuck s = done s { s with aux.resetStuck := true }) ∧
  (∀ (s : State),
    (s.aux.perst.masked) →
    exec .perstAssertion s = .next { s with aux.perst.since := s.time.ticks }) ∧
  (∀ (s : State),
    ¬ (s.aux.perst.masked) →
    let r := s.inputHit s.aux.perst 10 (secs 1)
    (r.2) →
    exec .perstAssertion s = done s ({ s with aux.perst := r.1 }.inputMasked 7 1)) ∧
  (∀ (s : State),
    ¬ (s.aux.perst.masked) →
    let r := s.inputHit s.aux.perst 10 (secs 1)
    ¬ (r.2) →
    let a := { s with aux.perst := { r.1 with low := true, since := s.time.ticks } }.linkReset
    exec .perstAssertion s = done s { a with hif.linkUp := false }) ∧
  (∀ (s : State),
    (s.aux.perst.masked && s.ended s.aux.perst.since (secs 10)) →
    exec .perstUnmaskTimeout s = done s { s with aux.perst.masked := false, aux.perst.asserts := [], aux.perst.low := false }) ∧
  (∀ (s : State),
    exec .recoveryStuck s = done s { s with aux.recoveryStuck := true }) ∧
  (∀ (input : Nat) (level : Bool) (s : State),
    ¬ (4 ≤ input) →
    let x := s.aux.alarms.getD input {}
    ¬ (x.masked || x.low == !level || !s.ended x.since (ms (s.aux.alarmCfg.getD input (false, 10)).2)) →
    let r := s.inputHit x 10 (secs 1)
    let y : Input := if r.2 then r.1 else { r.1 with low := !level, since := s.time.ticks }
    let a := { s with aux.alarms := s.aux.alarms.set input y }
    exec (.alarmInputChange input level) s =
      done s (if r.2 then a.inputMasked 6 (2 + input)
        else if s.inService then a.raise 0x1281 (d4 input ++ d4 (b2n level)) else a)) ∧
  (∀ (s : State),
    ¬ (!s.auxRuns || !s.ended s.aux.hbAt (ms 100)) →
    let n := s.aux.hbPhase + 1
    exec .auxHeartbeat s =
      done s { s with
        aux.hb := (s.aux.hb + 1) % 256, aux.hbAt := s.aux.hbAt + ms 100, aux.hbPhase := n % 5
        aux.hbPin := if n == 5 then !s.aux.hbPin else s.aux.hbPin }) ∧
  (∀ (s : State),
    ¬ (s.mode.mode == mdStandby || !s.aux.railsOut) →
    exec .railsBackInWindow s = done s { s with aux.railsOut := false, aux.mainGood := true, mode.held := s.mode.held && !s.aux.tripN })

/-- An event of a unit that the device does not have is a fault of the sender: no unit is there to act. -/
def Obligations.AbsentUnitsFault : Prop :=
  (∀ (vector : Nat) (s : State),
    (64 ≤ vector) →
    exec (.msixTimer vector) s = .fault .noSuchUnit) ∧
  (∀ (port : Nat) (parity : List Nat) (s : State),
    (96 ≤ port || parity.any (fun t => 64 ≤ t)) →
    exec (.lookupResult port parity) s = .fault .noSuchUnit) ∧
  (∀ (port : Nat) (s : State),
    (96 ≤ port) →
    exec (.headerCellAdmission port) s = .fault .noSuchUnit) ∧
  (∀ (port : Nat) (s : State),
    (96 ≤ port) →
    exec (.frameTail port) s = .fault .noSuchUnit) ∧
  (∀ (port : Nat) (s : State),
    (96 ≤ port) →
    exec (.egressSelection port) s = .fault .noSuchUnit) ∧
  (∀ (queue : Nat) (s : State),
    (524288 ≤ queue) →
    exec (.refillArrival queue) s = .fault .noSuchUnit) ∧
  (∀ (queue : Nat) (s : State),
    (524288 ≤ queue) →
    exec (.ageExpiry queue) s = .fault .noSuchUnit) ∧
  (∀ (node : Nat) (s : State),
    (!isNode node) →
    exec (.shaperPayoff node) s = .fault .noSuchUnit) ∧
  (∀ (k : Nat) (s : State),
    (16 ≤ k) →
    exec (.sampleWindowEnd k) s = .fault .noSuchUnit) ∧
  (∀ (src : Nat) (plane : Nat) (lgroup : Nat) (s : State),
    (256 ≤ src || 2 ≤ plane || 8 ≤ lgroup) →
    exec (.resequenceTimeout src plane lgroup) s = .fault .noSuchUnit) ∧
  (∀ (src : Nat) (plane : Nat) (lgroup : Nat) (tc : Nat) (prot : Bool) (s : State),
    (256 ≤ src || 2 ≤ plane || 8 ≤ lgroup || 16 ≤ tc || (8 ≤ tc && !prot)) →
    exec (.reassemblyTimeout src plane lgroup tc prot) s = .fault .noSuchUnit) ∧
  (∀ (src : Nat) (plane : Nat) (stream : Nat) (s : State),
    (256 ≤ src || 2 ≤ plane || 16 ≤ stream) →
    exec (.protectedCopyComplete src plane stream) s = .fault .noSuchUnit) ∧
  (∀ (src : Nat) (stream : Nat) (s : State),
    (256 ≤ src || 16 ≤ stream) →
    exec (.windowIdleExpiry src stream) s = .fault .noSuchUnit) ∧
  (∀ (port : Nat) (s : State),
    (96 ≤ port) →
    exec (.editPacket port) s = .fault .noSuchUnit) ∧
  (∀ (port : Nat) (s : State),
    (96 ≤ port) →
    exec (.transmitStart port) s = .fault .noSuchUnit) ∧
  (∀ (voq : Nat) (s : State),
    (262144 ≤ voq) →
    exec (.creditRequestRefresh voq) s = .fault .noSuchUnit) ∧
  (∀ (src : Nat) (voq : Nat) (s : State),
    (256 ≤ src || 262144 ≤ voq) →
    exec (.voqActiveTimeout src voq) s = .fault .noSuchUnit) ∧
  (∀ (port : Nat) (s : State),
    (!(port < 96 || port == 127)) →
    exec (.creditIssue port) s = .fault .noSuchUnit) ∧
  (∀ (src : Nat) (s : State),
    (256 ≤ src) →
    exec (.grantBatchTimeout src) s = .fault .noSuchUnit) ∧
  (∀ (voq : Nat) (s : State),
    (262144 ≤ voq) →
    exec (.creditKeepExpiry voq) s = .fault .noSuchUnit) ∧
  (∀ (peer : Nat) (plane : Nat) (s : State),
    (256 ≤ peer || 2 ≤ plane) →
    exec (.hearTimeout peer plane) s = .fault .noSuchUnit) ∧
  (∀ (peer : Nat) (plane : Nat) (s : State),
    (256 ≤ peer || 2 ≤ plane) →
    exec (.upHoldExpiry peer plane) s = .fault .noSuchUnit) ∧
  (∀ (peer : Nat) (plane : Nat) (s : State),
    (256 ≤ peer || 2 ≤ plane) →
    exec (.resyncResend peer plane) s = .fault .noSuchUnit) ∧
  (∀ (src : Nat) (msgId : Nat) (s : State),
    (256 ≤ src || 65536 ≤ msgId) →
    exec (.controlMessageTimeout src msgId) s = .fault .noSuchUnit) ∧
  (∀ (lane : Nat) (lockLost : Bool) (s : State),
    (128 ≤ lane) →
    exec (.fabricLaneFault lane lockLost) s = .fault .noSuchUnit) ∧
  (∀ (lane : Nat) (trained : Bool) (s : State),
    (128 ≤ lane) →
    exec (.fabricLaneTrainingEnd lane trained) s = .fault .noSuchUnit) ∧
  (∀ (lane : Nat) (s : State),
    (128 ≤ lane) →
    exec (.fabricTrainingRetry lane) s = .fault .noSuchUnit) ∧
  (∀ (group : Nat) (rxTx : List (Nat × Nat × Nat)) (s : State),
    (6 ≤ group) →
    exec (.fallbackWindow group rxTx) s = .fault .noSuchUnit) ∧
  (∀ (group : Nat) (s : State),
    (6 ≤ group) →
    exec (.fallbackTimeout group) s = .fault .noSuchUnit) ∧
  (∀ (bus : Nat) (recovered : Bool) (s : State),
    (6 ≤ bus) →
    exec (.busDataLineLow bus recovered) s = .fault .noSuchUnit) ∧
  (∀ (pipeline : Nat) (held : List Nat) (s : State),
    (17 ≤ pipeline) →
    exec (.parserPipelineError pipeline held) s = .fault .noSuchUnit) ∧
  (∀ (pipeline : Nat) (held : List Nat) (s : State),
    (17 ≤ pipeline) →
    exec (.lookupPipelineError pipeline held) s = .fault .noSuchUnit) ∧
  (∀ (engine : Nat) (held : Nat) (s : State),
    (100 ≤ engine) →
    exec (.editEngineError engine held) s = .fault .noSuchUnit) ∧
  (∀ (bad : List (Nat × Nat)) (s : State),
    (bad.any (fun e => 64 ≤ e.1 || 2048 ≤ e.2)) →
    exec (.tcamScrub bad) s = .fault .noSuchUnit) ∧
  (∀ (channel : Nat) (s : State),
    (64 ≤ channel) →
    exec (.puntDmaComplete channel) s = .fault .noSuchUnit) ∧
  (∀ (channel : Nat) (s : State),
    (64 ≤ channel) →
    exec (.puntFrameAtHead channel) s = .fault .noSuchUnit) ∧
  (∀ (channel : Nat) (s : State),
    (64 ≤ channel) →
    exec (.puntHoldExpiry channel) s = .fault .noSuchUnit) ∧
  (∀ (channel : Nat) (data : Bytes) (s : State),
    (64 ≤ channel) →
    exec (.injectFrameRead channel data) s = .fault .noSuchUnit) ∧
  (∀ (channel : Nat) (s : State),
    (64 ≤ channel) →
    exec (.injectHoldExpiry channel) s = .fault .noSuchUnit) ∧
  (∀ (channel : Option Nat) (addr : Nat) (err : PcieErr) (s : State),
    ∀ c, channel = some c →
    (64 ≤ c) →
    exec (.dmaError channel addr err) s = .fault .noSuchUnit) ∧
  (∀ (pc : Nat) (port : Nat) (bank : Nat) (row : Nat) (write : Bool) (s : State),
    (128 ≤ pc || 7 ≤ port || 32 ≤ bank || 16384 ≤ row) →
    exec (.hbmRequest pc port bank row write) s = .fault .noSuchUnit) ∧
  (∀ (pc : Nat) (bank : Nat) (s : State),
    (128 ≤ pc || 32 ≤ bank) →
    exec (.hbmRefreshDue pc bank) s = .fault .noSuchUnit) ∧
  (∀ (stack : Nat) (s : State),
    (4 ≤ stack) →
    exec (.selfRefreshIdle stack) s = .fault .noSuchUnit) ∧
  (∀ (stack : Nat) (s : State),
    (4 ≤ stack) →
    exec (.selfRefreshExit stack) s = .fault .noSuchUnit) ∧
  (∀ (channel : Nat) (from_ : Nat) (s : State),
    (64 ≤ channel) →
    exec (.hbmParityError channel from_) s = .fault .noSuchUnit) ∧
  (∀ (pc : Nat) (bank : Nat) (row : Nat) (correctable : Bool) (repairable : Bool) (use : HbmUse) (s : State),
    (128 ≤ pc || 32 ≤ bank || 16384 ≤ row) →
    exec (.hbmReadError pc bank row correctable repairable use) s = .fault .noSuchUnit) ∧
  (∀ (channel : Nat) (marginLost : Bool) (s : State),
    (64 ≤ channel) →
    exec (.hbmTracking channel marginLost) s = .fault .noSuchUnit) ∧
  (∀ (channel : Nat) (s : State),
    (64 ≤ channel) →
    exec (.plannedRetrainTrigger channel) s = .fault .noSuchUnit) ∧
  (∀ (channel : Nat) (s : State),
    (64 ≤ channel) →
    exec (.evacuationComplete channel) s = .fault .noSuchUnit) ∧
  (∀ (channel : Nat) (s : State),
    (64 ≤ channel) →
    exec (.evacuationTimeout channel) s = .fault .noSuchUnit) ∧
  (∀ (channel : Nat) (ok0 : Bool) (ok1 : Bool) (s : State),
    (64 ≤ channel) →
    exec (.channelTrainingEnd channel ok0 ok1) s = .fault .noSuchUnit) ∧
  (∀ (access : Nat) (correctable : Option Bool) (repairable : Bool) (s : State),
    (8388608 ≤ access) →
    exec (.counterScrub access correctable repairable) s = .fault .noSuchUnit) ∧
  (∀ (at_ : FlitError) (s : State),
    let module := at_.module
    (16 ≤ module) →
    exec (.d2dFlitError at_) s = .fault .noSuchUnit) ∧
  (∀ (module : Nat) (toFe : Bool) (lane : Nat) (s : State),
    (16 ≤ module || 66 ≤ lane) →
    exec (.d2dLaneFault module toFe lane) s = .fault .noSuchUnit) ∧
  (∀ (path : Path) (h : CoordHdr) (total : Nat) (offset : Nat) (data : Bytes) (s : State),
    (3 ≤ path) →
    exec (.snowdropChunk path h total offset data) s = .fault .noSuchUnit) ∧
  (∀ (peer : Nat) (link : Nat) (s : State),
    (256 ≤ peer || 2 ≤ link) →
    exec (.coordTimeout peer link) s = .fault .noSuchUnit) ∧
  (∀ (peer : Nat) (s : State),
    (256 ≤ peer) →
    exec (.leaveHoldExpiry peer) s = .fault .noSuchUnit) ∧
  (∀ (failedSector : Option Nat) (s : State),
    ¬ (!s.fw.flashBusy || !s.inService || noTm s) →
    ∀ sector, failedSector = some sector →
    (!inRegion 10 sector) →
    exec (.flashUpdateComplete failedSector) s = .fault .noSuchUnit) ∧
  (∀ (bit : Nat) (s : State),
    (12 ≤ bit) →
    exec (.degradedConditionArises bit) s = .fault .noSuchUnit) ∧
  (∀ (bit : Nat) (s : State),
    (12 ≤ bit) →
    exec (.degradedConditionClears bit) s = .fault .noSuchUnit) ∧
  (∀ (cause : FeCause) (cores : List Nat) (s : State),
    (cores.any (fun k => 5 ≤ k)) →
    exec (.feFirmwareFailure cause cores) s = .fault .noSuchUnit) ∧
  (∀ (core : Nat) (s : State),
    (2 ≤ core) →
    exec (.tmCoreFailure core) s = .fault .noSuchUnit) ∧
  (∀ (die : Nat) (macro_ : Nat) (row : Nat) (column : Nat) (correctable : Bool) (use : SramUse) (s : State),
    (2 ≤ die || 2304 ≤ macro_ || !sramExists use) →
    exec (.sramError die macro_ row column correctable use) s = .fault .noSuchUnit) ∧
  (∀ (macro_ : Nat) (s : State),
    (2304 ≤ macro_) →
    exec (.spareRowFilled macro_) s = .fault .noSuchUnit) ∧
  (∀ (failedSector : Option Nat) (s : State),
    (!s.mapSector failedSector) →
    exec (.repairMapCommit failedSector) s = .fault .noSuchUnit) ∧
  (∀ (failedSector : Option Nat) (s : State),
    (!s.mapSector failedSector) →
    exec (.repairMapRetry failedSector) s = .fault .noSuchUnit) ∧
  (∀ (die : Nat) (counter : Nat) (s : State),
    (2 ≤ die || 256 ≤ counter) →
    exec (.perfOverflow die counter) s = .fault .noSuchUnit) ∧
  (∀ (k : Nat) (s : State),
    (64 ≤ k) →
    exec (.histogramWindowEnd k) s = .fault .noSuchUnit) ∧
  (∀ (kind : Nat) (unit : Nat) (insn : Nat) (address : Nat) (stall : Nat) (packetId : Nat) (s : State),
    (3 ≤ kind || [100, 5, 2].getD kind 0 ≤ unit) →
    exec (.psampleRecord kind unit insn address stall packetId) s = .fault .noSuchUnit) ∧
  (∀ (rail : Nat) (s : State),
    (9 ≤ rail) →
    exec (.railFault rail) s = .fault .noSuchUnit) ∧
  (∀ (sensor : Nat) (tempC : Int) (s : State),
    (40 ≤ sensor) →
    exec (.thermalAlarm sensor tempC) s = .fault .noSuchUnit) ∧
  (∀ (sensor : Nat) (tempC : Int) (s : State),
    (40 ≤ sensor) →
    exec (.thermalTrip sensor tempC) s = .fault .noSuchUnit) ∧
  (∀ (sensor : Nat) (tempC : Int) (s : State),
    (40 ≤ sensor) →
    exec (.temperatureLow sensor tempC) s = .fault .noSuchUnit) ∧
  (∀ (input : Nat) (level : Bool) (s : State),
    (4 ≤ input) →
    exec (.alarmInputChange input level) s = .fault .noSuchUnit) ∧
  (∀ (lane : Nat) (s : State),
    (128 ≤ lane) →
    exec (.laneLockDeclared lane) s = .fault .noSuchUnit) ∧
  (∀ (lane : Nat) (s : State),
    (128 ≤ lane) →
    exec (.laneLockLost lane) s = .fault .noSuchUnit) ∧
  (∀ (stack : Nat) (tempC : Nat) (s : State),
    (4 ≤ stack) →
    exec (.stackTemperatureReport stack tempC) s = .fault .noSuchUnit) ∧
  (∀ (channel : Nat) (s : State),
    (64 ≤ channel) →
    exec (.replayReissue channel) s = .fault .noSuchUnit) ∧
  (∀ (pc : Nat) (bank : Nat) (s : State),
    (128 ≤ pc || 32 ≤ bank) →
    exec (.rowRepairDone pc bank) s = .fault .noSuchUnit) ∧
  (∀ (link : Nat) (s : State),
    (2 ≤ link) →
    exec (.coordLinkDown link) s = .fault .noSuchUnit) ∧
  (∀ (link : Nat) (s : State),
    (2 ≤ link) →
    exec (.coordLinkUp link) s = .fault .noSuchUnit)

/-! What the commands leave unchanged -/

/-- The commands that read, and those whose settings belong to the host interface, the fabric, the hierarchy, the telemetry or
the counters: they change no other part of the device. -/
def Obligations.ReadingCommandsFrame : Prop :=
  ∀ (c : Cmd) (i : Instr), i ∈ ([
      .nop c, .deviceInfoGet c, .eventMaskSet c, .eventMaskGet c, .echo c, .portStatusGet c, .portCountersGet c,
      .moduleRead c, .ledgerRead c, .saStatusGet c, .secyCountersGet c, .parsePolicyGet c, .lbSlotsGet c, .parseCountersGet c,
      .routeGet c, .tableStatusGet c, .tcamSearch c, .tcamSearchContinue c, .tcamEntryRead c, .tcamStatusGet c,
      .policerStatusGet c, .schedCountersGet c, .bufInfo c, .fabricStatusGet c, .fabricCountersGet c, .mcastGroupGet c,
      .editTest c, .editCountersGet c, .hbmStatusGet c, .hbmCountersGet c, .timeGet c, .timeCountersGet c, .dmaChannelSet c,
      .dmaChannelStatusGet c, .msixModerationSet c, .hifCountersGet c, .hierStatusGet c, .hierDeputySet c, .hierCountersGet c,
      .fwStatusGet c, .attestKeyGet c, .fwSnowdropPush c, .modeStatusGet c, .repairStatusGet c, .repairMapRead c,
      .perfCounterConfig c, .perfControl c, .perfCounterRead c, .histogramConfig c, .psampleConfig c, .telemetryCountersGet c,
      .pkgStatusGet c] : List Instr) →
    changesOnly [.hif, .fab, .hier, .tel, .ctr] i

/-- The commands that set up one unit, or two, change no other unit. -/
def Obligations.UnitCommandsFrame : Prop := ∀ c : Cmd,
  (∀ i ∈ ([
      .portConfig c, .portAdmin c] : List Instr),
    changesOnlyInTurn [.port, .fw, .hif, .fab, .hier, .tel, .ctr] i) ∧
  (∀ i ∈ ([
      .moduleWrite c, .moduleIntUnmask c, .ledgerSetRating c, .portRateRestore c, .moduleMapSet c, .parsePolicySet c,
      .qosPortSet c, .editPortSet c] : List Instr),
    changesOnlyInTurn [.port, .hif, .fab, .hier, .tel, .ctr] i) ∧
  (∀ i ∈ ([
      .secyConfig c] : List Instr),
    changesOnlyInTurn [.sec, .fw, .hif, .fab, .hier, .tel, .ctr] i) ∧
  (∀ i ∈ ([
      .scSet c, .scClear c, .saInstall c, .saEnableRx c, .saTxSwitch c, .saDelete c] : List Instr),
    changesOnlyInTurn [.sec, .hif, .fab, .hier, .tel, .ctr] i) ∧
  (∀ i ∈ ([
      .slowpathClassSet c, .hashProfileSet c] : List Instr),
    changesOnlyInTurn [.parse, .hif, .fab, .hier, .tel, .ctr] i) ∧
  (∀ i ∈ ([
      .parseTest c, .creditProfileSet c] : List Instr),
    changesOnlyInTurn [.hif, .fab, .hier, .tel, .ctr] i) ∧
  (∀ i ∈ ([
      .lengthReserve c, .emTableConfig c, .interfaceSet c, .routerMacSet c, .objRetire c, .tableSplitSet c, .lookupConfig c,
      .ecmpCountSet c] : List Instr),
    changesOnlyInTurn [.tbl, .hif, .fab, .hier, .tel, .ctr] i) ∧
  (∀ i ∈ ([
      .ecmpCreate c, .tableRepairDone c] : List Instr),
    changesOnlyInTurn [.tbl, .mode, .hif, .fab, .hier, .tel, .ctr] i) ∧
  (∀ i ∈ ([
      .objCountersGet c] : List Instr),
    changesOnly [.hbm, .hif, .fab, .hier, .tel, .ctr] i) ∧
  (∀ i ∈ ([
      .tcamChainConfig c, .tcamChainExtend c, .keyProfileSet c, .searchProfileSet c, .searchProfileMap c,
      .tcamEntryDelete c, .tcamCompact c] : List Instr),
    changesOnlyInTurn [.tcam, .hif, .fab, .hier, .tel, .ctr] i) ∧
  (∀ i ∈ ([
      .bufferPartitionSet c, .admissionProfileSet c, .wredProfileSet c, .queueConfig c, .bufferGlobalSet c,
      .bufCellShareSet c] : List Instr),
    changesOnlyInTurn [.buf, .hif, .fab, .hier, .tel, .ctr] i) ∧
  (∀ i ∈ ([
      .queueStatusGet c, .bufferStatusGet c] : List Instr),
    changesOnly [.buf, .hif, .fab, .hier, .tel, .ctr] i) ∧
  (∀ i ∈ ([
      .schedNodeSet c, .dispatchProfileSet c, .protectClassSet c, .planeRestore c] : List Instr),
    changesOnlyInTurn [.buf, .sched, .hif, .fab, .hier, .tel, .ctr] i) ∧
  (∀ i ∈ ([
      .schedNodeGet c] : List Instr),
    changesOnly [.buf, .sched, .hif, .fab, .hier, .tel, .ctr] i) ∧
  (∀ i ∈ ([
      .lengthProfileSet c, .qosMapSet c, .policerSet c, .sampleSetConfig c] : List Instr),
    changesOnlyInTurn [.sched, .hif, .fab, .hier, .tel, .ctr] i) ∧
  (∀ i ∈ ([
      .siteMapSet c] : List Instr),
    changesOnlyInTurn [.port, .sched, .hif, .fab, .hier, .tel, .ctr] i) ∧
  (∀ i ∈ ([
      .policerProfileSet c] : List Instr),
    changesOnlyInTurn [.sched, .mode, .hif, .fab, .hier, .tel, .ctr] i) ∧
  (∀ i ∈ ([
      .poolCarveSet c, .bufShare c, .bufRelease c] : List Instr),
    changesOnlyInTurn [.pool, .hif, .fab, .hier, .tel, .ctr] i) ∧
  (∀ i ∈ ([
      .channelPoolSet c] : List Instr),
    changesOnlyInTurn [.pool, .fw, .hif, .fab, .hier, .tel, .ctr] i) ∧
  (∀ i ∈ ([
      .poolStatusGet c, .dmaChannelEnable c] : List Instr),
    changesOnly [.pool, .hif, .fab, .hier, .tel, .ctr] i) ∧
  (∀ i ∈ ([
      .planeAdmin c] : List Instr),
    changesOnlyInTurn [.buf, .sched, .hbm, .hif, .fab, .hier, .tel, .ctr] i) ∧
  (∀ i ∈ ([
      .fabricLaneAdmin c] : List Instr),
    changesOnlyInTurn [.port, .buf, .sched, .hbm, .mode, .hif, .fab, .hier, .tel, .ctr] i) ∧
  (∀ i ∈ ([
      .editProgramSet c, .mcastConfig c] : List Instr),
    changesOnlyInTurn [.edit, .hif, .fab, .hier, .tel, .ctr] i) ∧
  (∀ i ∈ ([
      .mcastGroupSet c] : List Instr),
    changesOnlyInTurn [.port, .edit, .hif, .fab, .hier, .tel, .ctr] i) ∧
  (∀ i ∈ ([
      .hbmConfig c, .hbmRetrain c, .hbmPcRetire c] : List Instr),
    changesOnlyInTurn [.hbm, .hif, .fab, .hier, .tel, .ctr] i) ∧
  (∀ i ∈ ([
      .timeIncrementSet c] : List Instr),
    changesOnly [.time, .sched, .pool, .aux, .hif, .fab, .hier, .tel, .ctr] i) ∧
  (∀ i ∈ ([
      .timeSet c] : List Instr),
    changesOnly [.time, .tbl, .sched, .pool, .hif, .fab, .hier, .tel, .ctr] i) ∧
  (∀ i ∈ ([
      .timeConfig c, .ppsConfig c] : List Instr),
    changesOnly [.time, .hif, .fab, .hier, .tel, .ctr] i) ∧
  (∀ i ∈ ([
      .tsPortSet c] : List Instr),
    changesOnly [.port, .hif, .fab, .hier, .tel, .ctr] i) ∧
  (∀ i ∈ ([
      .hierarchyConfig c, .fwVerify c, .fwConfirm c, .fwUpdateConfig c, .fwSvnCommit c, .attestQuote c] : List Instr),
    changesOnly [.fw, .hif, .fab, .hier, .tel, .ctr] i) ∧
  (∀ i ∈ ([
      .hierModeChange c, .deviceReset c, .repairConfig c] : List Instr),
    changesOnly [.mode, .hif, .fab, .hier, .tel, .ctr] i) ∧
  (∀ i ∈ ([
      .fwDownload c, .fwActivate c, .fwRevert c] : List Instr),
    changesOnly [.sched, .fw, .hif, .fab, .hier, .tel, .ctr] i) ∧
  (∀ i ∈ ([
      .telemetryConfig c] : List Instr),
    changesOnly [.pool, .fw, .hif, .fab, .hier, .tel, .ctr] i) ∧
  (∀ i ∈ ([
      .thermalConfig c, .alarmInputConfig c, .pkgInputUnmask c, .auxStatusClear c] : List Instr),
    changesOnly [.aux, .hif, .fab, .hier, .tel, .ctr] i)

/-- The events of the host interface: a reset or loss of the link leaves the data plane, the tables and the mode unchanged (R574). -/
def Obligations.HostEventsFrame : Prop :=
  (∀ (channel : Nat) (rsv : Nat) (index : Nat), changesOnly [.hif, .fab, .hier,
      .ctr] (.commandProducerIndex channel rsv index)) ∧
  (∀ (channel : Nat) (rsv : Nat) (index : Nat), changesOnly [.hif, .ctr] (.eventConsumerIndex channel rsv index)) ∧
  (∀ (w : RegWrite), changesOnly [.hif, .ctr] (.hifEvtRingBase w)) ∧
  (∀ (w : RegWrite), changesOnly [.hif] (.hifCmdRingBase w)) ∧
  (∀ (v : BitVec 32), changesOnly [.hif] (.hifHealth v)) ∧
  (∀ (vector : Nat), changesOnly [.hif] (.msixTimer vector)) ∧
  (changesOnly [.hif] .fwHaltedTimeout) ∧
  (changesOnly [.hif, .aux] .pcieLinkUp) ∧
  (∀ (die : Nat) (counter : Nat), changesOnly [.hif, .fab, .hier, .tel, .ctr] (.perfOverflow die counter)) ∧
  (∀ (handle : Nat), changesOnly [.hif, .pool, .fab, .hier, .ctr] (.retainExpiry handle)) ∧
  (∀ (channel : Nat), changesOnly [.hif, .pool, .fab, .hier, .ctr] (.injectHoldExpiry channel)) ∧
  (∀ (channel : Nat), changesOnly [.hif, .pool, .fab, .hier, .tel, .ctr] (.puntDmaComplete channel)) ∧
  (∀ (channel : Nat), changesOnly [.hif, .pool, .fab, .hier, .tel, .ctr] (.puntHoldExpiry channel)) ∧
  (∀ (channel : Option Nat) (addr : Nat) (err : PcieErr), changesOnly [.hif, .pool, .fab, .hier, .tel,
      .ctr] (.dmaError channel addr err)) ∧
  (changesOnly [.hif, .pool, .fab, .hier, .tel, .ctr] .functionLevelReset) ∧
  (changesOnly [.hif, .pool, .fab, .hier, .tel, .ctr] .pcieLinkLoss) ∧
  (changesOnly [.hif, .pool, .fab, .hier, .tel, .ctr] .busMasterOff) ∧
  (changesOnly [.hif, .tel] .perfControlDue) ∧
  (changesOnly [.hif, .pool, .tel] .telemetryFlush)

/-- The events of ports, modules, link security and the package change no other unit. -/
def Obligations.PortAndPackageEventsFrame : Prop :=
  (∀ (reg : Nat) (v : BitVec 32), changesOnly [.hif, .aux] (.auxRegisterWrite reg v)) ∧
  (changesOnly [.hif, .aux] .pllLockRetry) ∧
  (∀ (millivolt : Nat), changesOnly [.hif, .aux] (.vauxChange millivolt)) ∧
  (changesOnly [.hif, .aux] .resetStuck) ∧
  (changesOnly [.hif, .aux] .perstUnmaskTimeout) ∧
  (changesOnly [.hif, .aux] .recoveryStuck) ∧
  (changesOnly [.hif, .aux] .auxHeartbeat) ∧
  (∀ (port : Nat), changesOnly [.hif, .port] (.linkConditionsMet port)) ∧
  (∀ (port : Nat) (fault : Bool) (lanesLost : List Nat), changesOnly [.hif,
      .port] (.linkConditionLost port fault lanesLost)) ∧
  (∀ (port : Nat), changesOnly [.hif, .port] (.linkDownHoldExpiry port)) ∧
  (∀ (port : Nat), changesOnly [.hif, .port] (.remoteFault port)) ∧
  (∀ (port : Nat), changesOnly [.hif, .port] (.trainingRetry port)) ∧
  (∀ (port : Nat), changesOnly [.hif, .port] (.lpiIdleEntry port)) ∧
  (changesOnly [.hif, .port] .ledgerHourlyWrite) ∧
  (∀ (port : Nat), changesOnly [.hif, .port] (.remoteFaultCleared port)) ∧
  (∀ (port : Nat), changesOnly [.hif, .port] (.frameTransmitted port)) ∧
  (∀ (report : PortFec), changesOnly [.hif, .port, .ctr] (.fecThreshold report)) ∧
  (∀ (lane : Nat) (trained : Bool), changesOnly [.hif, .port, .fab, .hier, .ctr] (.laneTrainingEnd lane trained)) ∧
  (∀ (group : Nat) (rxTx : List (Nat × Nat × Nat)), changesOnly [.hif, .port, .fab, .hier,
      .ctr] (.fallbackWindow group rxTx)) ∧
  (∀ (group : Nat), changesOnly [.hif, .port, .fab, .hier, .ctr] (.fallbackTimeout group)) ∧
  (∀ (module : Nat) (page0 : Bytes), changesOnly [.hif, .port, .fab, .hier, .ctr] (.moduleInserted module page0)) ∧
  (∀ (module : Nat), changesOnly [.hif, .port, .fab, .hier, .ctr] (.moduleRemoved module)) ∧
  (∀ (module : Nat) (flags : List CmisFlag), changesOnly [.hif, .port, .fab, .hier, .ctr] (.moduleInterrupt module flags)) ∧
  (∀ (module : Nat) (tempC : Int) (bias : Nat) (power : Nat) (flags : List CmisFlag), changesOnly [.hif, .port, .fab, .hier,
      .ctr] (.moduleMonitorPoll module tempC bias power flags)) ∧
  (changesOnly [.hif, .port, .fab, .hier, .ctr] .ledgerAccumulation) ∧
  (∀ (module : Nat), changesOnly [.hif, .port, .fab, .hier, .ctr] (.interruptStuck module)) ∧
  (∀ (input : PresenceChanges), changesOnly [.hif, .port, .fab, .hier, .ctr] (.presenceChatter input)) ∧
  (∀ (module : Nat) (flags : List CmisFlag), changesOnly [.hif, .port, .fab, .hier, .ctr] (.maskedInputPoll module flags)) ∧
  (∀ (module : Nat), changesOnly [.hif, .port, .fab, .hier, .ctr] (.moduleAccessUnacknowledged module)) ∧
  (∀ (bus : Nat) (recovered : Bool), changesOnly [.hif, .port, .fab, .hier, .ctr] (.busDataLineLow bus recovered)) ∧
  (∀ (port : Nat), changesOnly [.hif, .sec] (.saSwitchDue port)) ∧
  (changesOnly [.time, .hif, .mode, .aux] .rootPllLock) ∧
  (∀ (sensor : Nat) (tempC : Int), changesOnly [.hif, .fab, .hier, .aux, .ctr] (.thermalAlarm sensor tempC)) ∧
  (∀ (sensor : Nat) (tempC : Int), changesOnly [.hif, .fab, .hier, .aux, .ctr] (.temperatureLow sensor tempC)) ∧
  (∀ (input : Nat) (level : Bool), changesOnly [.hif, .fab, .hier, .aux, .ctr] (.alarmInputChange input level)) ∧
  (changesOnly [.hif, .mode, .aux] .railsBackInWindow)

/-- The events of the memories, the time base, the fabric and the tables that stay within a few units. -/
def Obligations.UnitEventsFrame : Prop :=
  (∀ (peer : Nat) (plane : Nat), changesOnly [.hif, .fab, .hier, .ctr] (.resyncResend peer plane)) ∧
  (∀ (lane : Nat), changesOnly [.hif, .buf, .sched, .fab, .hbm, .hier, .ctr] (.laneLockDeclared lane)) ∧
  (∀ (src : Nat) (plane : Nat) (lgroup : Nat) (tc : Nat) (prot : Bool), changesOnly [.hif, .buf,
      .fab] (.reassemblyTimeout src plane lgroup tc prot)) ∧
  (∀ (voq : Nat), changesOnly [.hif, .buf, .fab] (.creditRequestRefresh voq)) ∧
  (∀ (src : Nat) (stream : Nat), changesOnly [.hif, .fab] (.windowIdleExpiry src stream)) ∧
  (∀ (port : Nat), changesOnly [.hif, .fab] (.creditIssue port)) ∧
  (∀ (src : Nat), changesOnly [.hif, .fab] (.grantBatchTimeout src)) ∧
  (∀ (peer : Nat) (plane : Nat), changesOnly [.hif, .fab] (.upHoldExpiry peer plane)) ∧
  (∀ (src : Nat) (msgId : Nat), changesOnly [.hif, .fab] (.controlMessageTimeout src msgId)) ∧
  (∀ (lane : Nat), changesOnly [.hif, .fab] (.fabricTrainingRetry lane)) ∧
  (∀ (rx : LaneCell), changesOnly [.hif, .port, .buf, .sched, .fab, .hbm, .hier, .mode, .ctr] (.creditRequest rx)) ∧
  (∀ (rx : LaneCell), changesOnly [.hif, .port, .buf, .sched, .fab, .hbm, .hier, .mode, .ctr] (.creditGrant rx)) ∧
  (∀ (rx : LaneCell), changesOnly [.hif, .port, .buf, .sched, .fab, .hbm, .hier, .mode, .ctr] (.resync rx)) ∧
  (∀ (rx : LaneCell), changesOnly [.hif, .port, .buf, .sched, .fab, .hbm, .hier, .mode, .ctr] (.controlCell rx)) ∧
  (∀ (src : Nat) (voq : Nat), changesOnly [.hif, .buf, .fab, .hier, .ctr] (.voqActiveTimeout src voq)) ∧
  (∀ (voq : Nat), changesOnly [.hif, .buf, .sched, .ctr] (.creditKeepExpiry voq)) ∧
  (changesOnly [.hif, .fab, .ctr] .fabricHeartbeatSend) ∧
  (∀ (table : Nat), changesOnly [.hif, .tbl, .fab, .hier, .ctr] (.grownTableRelease table)) ∧
  (∀ (group : Nat), changesOnly [.hif, .tbl, .fab, .hier, .ctr] (.ecmpBlockRelease group)) ∧
  (∀ (group : Nat), changesOnly [.hif, .edit] (.mcastBlockRelease group)) ∧
  (∀ (entry : Nat), changesOnly [.hif, .tbl] (.markerRebuildDone entry)) ∧
  (∀ (handle : Nat), changesOnly [.hif, .tcam, .hbm] (.tcamDeleteComplete handle)) ∧
  (changesOnly [.hif, .tbl, .hbm] .counterUpdate) ∧
  (∀ (pc : Nat) (port : Nat) (bank : Nat) (row : Nat) (write : Bool), changesOnly [.hif,
      .hbm] (.hbmRequest pc port bank row write)) ∧
  (∀ (req : Nat), changesOnly [.hif, .hbm] (.requestUrgencyRise req)) ∧
  (∀ (pc : Nat) (bank : Nat), changesOnly [.hif, .hbm] (.hbmRefreshDue pc bank)) ∧
  (∀ (stack : Nat), changesOnly [.hif, .hbm] (.selfRefreshIdle stack)) ∧
  (∀ (channel : Nat) (from_ : Nat), changesOnly [.hif, .hbm] (.hbmParityError channel from_)) ∧
  (∀ (channel : Nat) (marginLost : Bool), changesOnly [.hif, .hbm] (.hbmTracking channel marginLost)) ∧
  (∀ (channel : Nat), changesOnly [.hif, .hbm] (.plannedRetrainTrigger channel)) ∧
  (∀ (channel : Nat), changesOnly [.hif, .hbm] (.replayReissue channel)) ∧
  (∀ (stack : Nat), changesOnly [.hif, .hbm, .ctr] (.selfRefreshExit stack)) ∧
  (∀ (channel : Nat), changesOnly [.hif, .fab, .hbm, .hier, .ctr] (.evacuationTimeout channel)) ∧
  (∀ (access : Nat) (correctable : Option Bool) (repairable : Bool), changesOnly [.hif, .fab, .hbm, .hier,
      .ctr] (.counterScrub access correctable repairable)) ∧
  (∀ (stack : Nat) (tempC : Nat), changesOnly [.hif, .fab, .hbm, .hier, .ctr] (.stackTemperatureReport stack tempC)) ∧
  (∀ (at_ : FlitError), changesOnly [.hif, .port, .parse, .mode] (.d2dFlitError at_)) ∧
  (changesOnly [.time, .hif, .fab, .hier, .ctr] .holdoverTimeout) ∧
  (changesOnly [.time, .hif, .fab, .hier, .ctr] .ppsInEdge) ∧
  (changesOnly [.time, .hif, .fab, .hier, .ctr] .ppsInLost) ∧
  (changesOnly [.time, .hif] .ppsOutTarget) ∧
  (changesOnly [.time, .hif] .ppsOutWidthEnd) ∧
  (∀ (bit : Nat), changesOnly [.hif, .fab, .hier, .mode, .ctr] (.degradedConditionClears bit)) ∧
  (changesOnly [.hif, .fab, .hier, .mode, .ctr] .drainComplete) ∧
  (∀ (failedSector : Option Nat), changesOnly [.hif, .fab, .hier, .mode, .ctr] (.repairMapCommit failedSector)) ∧
  (∀ (failedSector : Option Nat), changesOnly [.hif, .fab, .hier, .mode, .ctr] (.repairMapRetry failedSector)) ∧
  (changesOnly [.hif, .mode] .tmDeputyClear) ∧
  (∀ (macro_ : Nat), changesOnly [.hif, .mode] (.spareRowFilled macro_)) ∧
  (changesOnly [.hif, .fab, .hier, .mode, .tel, .ctr] .fwHeartbeatTick)
end

