-- ==== Sys2Proof/Laws/Memory.lean ====
section
/-! SUPPORT. Sparse tables and the byte storage of BAR0: every operation keeps the canonical form, a read after a write gives
what was written, and every other key reads as before. -/
namespace Sys2Proof

theorem Tbl.wf_iff {α : Type} {t : Tbl α} : Tbl.wf t = true ↔ t.Pairwise (fun a b => a.1 < b.1) := by
  induction t with
  | nil => simp [Tbl.wf]
  | cons x r ih =>
    cases r with
    | nil => simp [Tbl.wf]
    | cons y r =>
      obtain ⟨a, u⟩ := x
      obtain ⟨b, v⟩ := y
      rw [Tbl.wf, Bool.and_eq_true, decide_eq_true_eq, ih, List.pairwise_cons (a := (a, u))]
      constructor
      · rintro ⟨h, p⟩
        refine ⟨fun z hz => ?_, p⟩
        rcases List.mem_cons.mp hz with rfl | hz
        · exact h
        · exact Nat.lt_trans h ((List.pairwise_cons.mp p).1 z hz)
      · rintro ⟨h, p⟩
        exact ⟨h _ (List.mem_cons_self ..), p⟩

theorem Tbl.wf_del {α : Type} {t : Tbl α} (i : Nat) (h : Tbl.wf t = true) : Tbl.wf (Tbl.del t i) = true :=
  Tbl.wf_iff.mpr ((Tbl.wf_iff.mp h).filter _)

theorem Tbl.mem_set {α : Type} {t : Tbl α} {i : Nat} {v : α} {e : Nat × α} (h : e ∈ Tbl.set t i v) : e = (i, v) ∨ e ∈ t := by
  induction t with
  | nil => exact .inl (List.mem_singleton.mp h)
  | cons x r ih =>
    obtain ⟨k, w⟩ := x
    unfold Tbl.set at h
    split at h
    · rcases List.mem_cons.mp h with h | h
      · exact .inl h
      · exact .inr (List.mem_cons_of_mem _ h)
    · split at h
      · rcases List.mem_cons.mp h with h | h
        · exact .inl h
        · exact .inr h
      · rcases List.mem_cons.mp h with h | h
        · exact .inr (h ▸ List.mem_cons_self ..)
        · exact (ih h).imp id (List.mem_cons_of_mem _)

theorem Tbl.wf_set {α : Type} {t : Tbl α} (i : Nat) (v : α) (h : Tbl.wf t = true) : Tbl.wf (Tbl.set t i v) = true := by
  rw [Tbl.wf_iff] at *
  induction t with
  | nil => exact List.pairwise_singleton _ _
  | cons x r ih =>
    obtain ⟨k, w⟩ := x
    have ⟨h1, h2⟩ := List.pairwise_cons.mp h
    unfold Tbl.set
    split
    · rename_i e
      exact List.pairwise_cons.mpr ⟨fun z hz => e ▸ h1 z hz, h2⟩
    · split
      · rename_i _ e
        refine List.pairwise_cons.mpr ⟨fun z hz => ?_, h⟩
        rcases List.mem_cons.mp hz with rfl | hz
        · exact e
        · exact Nat.lt_trans e (h1 z hz)
      · rename_i e1 e2
        refine List.pairwise_cons.mpr ⟨fun z hz => ?_, ih h2⟩
        rcases Tbl.mem_set hz with rfl | hz
        · show k < i
          omega
        · exact h1 z hz

@[simp] theorem Tbl.get?_set_same {α : Type} (t : Tbl α) (i : Nat) (v : α) : Tbl.get? (Tbl.set t i v) i = some v := by
  induction t with
  | nil => simp [Tbl.set, Tbl.get?]
  | cons x r ih =>
    obtain ⟨k, w⟩ := x
    unfold Tbl.set
    split
    · simp [Tbl.get?]
    · split
      · simp [Tbl.get?]
      · simp [Tbl.get?, *]

theorem Tbl.get?_set_other {α : Type} (t : Tbl α) {i j : Nat} (v : α) (h : j ≠ i) :
    Tbl.get? (Tbl.set t i v) j = Tbl.get? t j := by
  induction t with
  | nil => simp [Tbl.set, Tbl.get?, Ne.symm h]
  | cons x r ih =>
    obtain ⟨k, w⟩ := x
    unfold Tbl.set
    split
    · rename_i e
      simp [Tbl.get?, e, Ne.symm h]
    · split
      · simp [Tbl.get?, Ne.symm h]
      · simp [Tbl.get?, ih]

@[simp] theorem Tbl.getD_set_same {α : Type} (t : Tbl α) (i : Nat) (v d : α) : Tbl.getD (Tbl.set t i v) i d = v := by
  simp [Tbl.getD]

theorem Tbl.getD_set_other {α : Type} (t : Tbl α) {i j : Nat} (v d : α) (h : j ≠ i) :
    Tbl.getD (Tbl.set t i v) j d = Tbl.getD t j d := by
  simp [Tbl.getD, Tbl.get?_set_other t v h]

@[simp] theorem Tbl.get?_del_same {α : Type} (t : Tbl α) (i : Nat) : Tbl.get? (Tbl.del t i) i = none := by
  induction t with
  | nil => rfl
  | cons x r ih =>
    obtain ⟨k, w⟩ := x
    by_cases e : k = i
    · simpa [Tbl.del, List.filter, e] using ih
    · have : (k != i) = true := by simpa using e
      simpa [Tbl.del, List.filter, this, Tbl.get?, e] using ih

theorem Tbl.get?_del_other {α : Type} (t : Tbl α) {i j : Nat} (h : j ≠ i) : Tbl.get? (Tbl.del t i) j = Tbl.get? t j := by
  induction t with
  | nil => rfl
  | cons x r ih =>
    obtain ⟨k, w⟩ := x
    by_cases e : k = i
    · subst e
      simpa [Tbl.del, List.filter, Tbl.get?, Ne.symm h] using ih
    · have : (k != i) = true := by simpa using e
      by_cases e2 : k = j
      · subst e2
        simp [Tbl.del, List.filter, this, Tbl.get?]
      · simpa [Tbl.del, List.filter, this, Tbl.get?, e2] using ih

namespace Machine

theorem memWrite_wf {m : List Host.Cell} (a : Nat) (v : Byte) (h : Memory.wf m = true) : Memory.wf (memWrite m a v) = true := by
  simp only [Memory.wf, Bool.and_eq_true, List.all_eq_true] at *
  unfold memWrite
  split
  · exact ⟨Tbl.wf_del a h.1, fun e he => h.2 e (List.mem_filter.mp he).1⟩
  · rename_i hv
    refine ⟨Tbl.wf_set a v h.1, fun e he => ?_⟩
    rcases Tbl.mem_set he with rfl | he
    · simpa using hv
    · exact h.2 e he

theorem memWrites_wf {m : List Host.Cell} (a : Nat) (b : Bytes) (h : Memory.wf m = true) : Memory.wf (memWrites m a b) = true := by
  induction b generalizing m a with
  | nil => exact h
  | cons x r ih => exact ih (a + 1) (memWrite_wf a x h)

@[simp] theorem memRead_memWrite_same (m : List Host.Cell) (a : Nat) (v : Byte) : memRead (memWrite m a v) a = v := by
  unfold memRead memWrite
  split
  · rename_i h
    rw [beq_iff_eq] at h
    simp [Tbl.getD, h]
  · simp

theorem memRead_memWrite_other (m : List Host.Cell) {a b : Nat} (v : Byte) (h : b ≠ a) : memRead (memWrite m a v) b = memRead m b := by
  unfold memRead memWrite
  split
  · simp [Tbl.getD, Tbl.get?_del_other m h]
  · exact Tbl.getD_set_other m v 0 h

theorem barWrite_wf {m : List Host.Cell} (a : Nat) (v : Byte) (h : Memory.wf m = true) : Memory.wf (barWrite m a v) = true :=
  memWrite_wf a _ h

theorem barWrites_wf {m : List Host.Cell} (a : Nat) (b : Bytes) (h : Memory.wf m = true) : Memory.wf (barWrites m a b) = true := by
  induction b generalizing m a with
  | nil => exact h
  | cons x r ih => exact ih (a + 1) (barWrite_wf a _ h)

@[simp] theorem barRead_barWrite_same (m : List Host.Cell) (a : Nat) (v : Byte) : barRead (barWrite m a v) a = v := by
  unfold barRead barWrite
  simp

theorem barRead_barWrite_other (m : List Host.Cell) {a b : Nat} (v : Byte) (h : b ≠ a) : barRead (barWrite m a v) b = barRead m b := by
  unfold barRead barWrite
  rw [memRead_memWrite_other m _ h]

theorem barRead_barWrites_other (m : List Host.Cell) (a : Nat) (d : Bytes) {b : Nat} (h : b < a ∨ a + d.length ≤ b) :
    barRead (barWrites m a d) b = barRead m b := by
  induction d generalizing m a with
  | nil => rfl
  | cons x r ih =>
    have hl : (x :: r).length = r.length + 1 := rfl
    have e : barWrites m a (x :: r) = barWrites (barWrite m a (barWritable a x)) (a + 1) r := rfl
    rw [e, ih, barRead_barWrite_other]
    · omega
    · omega

theorem barRead_barWrites_in (m : List Host.Cell) (a : Nat) (d : Bytes) {i : Nat} (h : i < d.length) :
    barRead (barWrites m a d) (a + i) = barWritable (a + i) (d.getD i 0) := by
  induction d generalizing m a i with
  | nil => exact absurd h (Nat.not_lt_zero _)
  | cons x r ih =>
    have e : barWrites m a (x :: r) = barWrites (barWrite m a (barWritable a x)) (a + 1) r := rfl
    rw [e]
    cases i with
    | zero => rw [barRead_barWrites_other _ _ _ (by omega)]; simp
    | succ i =>
      have := ih (barWrite m a (barWritable a x)) (a + 1) (i := i) (by simpa using h)
      rw [show a + (i + 1) = a + 1 + i by omega, this]
      simp

end Machine
end Sys2Proof
end

