-- ==== Sys2Proof/Laws/Kept.lean ====
section
/-! SUPPORT. `Kept`: a function of the state leaves the queue and keeps the invariant. The files Kept<Part>.lean say it of
every function of the part of the machine they are named after, one lemma a function; a lemma for a caller cites those of what it
calls and never unfolds them. The lemmas `…_kept_eq` are the same facts for a result named by an equation. -/
namespace Sys2Proof.Machine
open Sys2Proof

/-- What is to be kept: the queue as it is, and the invariant where `inv` holds. -/
structure Aim where
  queue : List Instr
  inv : Prop


/-- The queue is the one aimed at, and the invariant holds where it is aimed at. -/
def Kept (aim : Aim) (s : State) : Prop := s.pending = aim.queue ∧ (aim.inv → Inv s)
/-- Every next state that an outcome answers is kept. -/
def KeptOut (aim : Aim) (o : Out) : Prop := ∀ t, o = .next t → Kept aim t

variable {aim : Aim} {s t : State}

theorem kept_foldl {α : Type} {f : State → α → State} {l : List α} (h : Kept aim s)
    (hf : ∀ a x, Kept aim a → Kept aim (f a x)) : Kept aim (l.foldl f s) := by
  induction l generalizing s with
  | nil => exact h
  | cons x r ih => exact ih (hf _ _ h)

theorem kept_foldl_on {α β : Type} (p : β → State) {f : β → α → β} {l : List α} {b : β} (h : Kept aim (p b))
    (hf : ∀ b x, Kept aim (p b) → Kept aim (p (f b x))) : Kept aim (p (l.foldl f b)) := by
  induction l generalizing b with
  | nil => exact h
  | cons x r ih => exact ih (hf _ _ h)

/-- One part of the invariant follows from another where the invariant is aimed at. -/
def KeepIf (aim : Aim) (a b : Prop) : Prop := aim.inv → a → b
theorem keep_rfl {a : Prop} : KeepIf aim a a := fun _ h => h

/-- `Kept` of a state written out, over the fields it speaks of. -/
def KeptMk (aim : Aim) (p : List Instr) (h : HifSt) (m : ModeSt) (f : FwSt) (i : HierSt) : Prop :=
  p = aim.queue ∧ (aim.inv → HifOk h ∧ ModeOk m ∧ FwOk f ∧ HierOk i)

theorem kept_mk {p a1 hif' a3 a4 a5 a6 a7 a8 a9 a10 a11 a12 a13 hier' fw' mode' a17 a18 a19} :
    Kept aim (State.mk p a1 hif' a3 a4 a5 a6 a7 a8 a9 a10 a11 a12 a13 hier' fw' mode' a17 a18 a19) =
      KeptMk aim p hif' mode' fw' hier' := rfl

theorem keep_hif {a b : HifSt} (h : HifOk a → HifOk b) : KeepIf aim (HifOk a) (HifOk b) := fun _ y => h y
theorem keep_mode {a b : ModeSt} (h : ModeOk a → ModeOk b) : KeepIf aim (ModeOk a) (ModeOk b) := fun _ y => h y

theorem keptMk_of {hif' hier' fw' mode'} (h : Kept aim t)
    (h1 : KeepIf aim (HifOk t.hif) (HifOk hif')) (h2 : KeepIf aim (ModeOk t.mode) (ModeOk mode'))
    (h3 : KeepIf aim (FwOk t.fw) (FwOk fw')) (h4 : KeepIf aim (HierOk t.hier) (HierOk hier')) :
    KeptMk aim t.pending hif' mode' fw' hier' :=
  ⟨h.1, fun x => have ⟨b1, b2, b3, b4⟩ := h.2 x; ⟨h1 x b1, h2 x b2, h3 x b3, h4 x b4⟩⟩

theorem kept_core (h : Kept aim s) (hq : t.pending = s.pending) (k : aim.inv → Inv s → Inv t) : Kept aim t :=
  ⟨hq.trans h.1, fun x => k x (h.2 x)⟩
theorem kept_hif (h : Kept aim s) (hq : (t.pending, t.mode, t.fw, t.hier) = (s.pending, s.mode, s.fw, s.hier))
    (k : HifOk s.hif → HifOk t.hif) : Kept aim t := by
  obtain ⟨h1, h2, h3, h4⟩ : t.pending = s.pending ∧ t.mode = s.mode ∧ t.fw = s.fw ∧ t.hier = s.hier := by simpa using hq
  refine kept_core h h1 fun x ⟨b1, b2, b3, b4⟩ => ⟨k b1, ?_, ?_, ?_⟩
  · rw [h2]; exact b2
  · rw [h3]; exact b3
  · rw [h4]; exact b4
theorem kept_mode (h : Kept aim s) (hq : (t.pending, t.hif, t.fw, t.hier) = (s.pending, s.hif, s.fw, s.hier))
    (k : aim.inv → ModeOk s.mode → ModeOk t.mode) : Kept aim t := by
  obtain ⟨h1, h2, h3, h4⟩ : t.pending = s.pending ∧ t.hif = s.hif ∧ t.fw = s.fw ∧ t.hier = s.hier := by simpa using hq
  refine kept_core h h1 fun x ⟨b1, b2, b3, b4⟩ => ⟨?_, k x b2, ?_, ?_⟩
  · rw [h2]; exact b1
  · rw [h3]; exact b3
  · rw [h4]; exact b4

theorem keptOut_next (h : Kept aim t) : KeptOut aim (.next t) := by intro u hu; cases hu; exact h
theorem keptOut_fault {e : Fault} : KeptOut aim (.fault e) := by intro u hu; cases hu
theorem keptOut_refused {e : Refusal} : KeptOut aim (.refused e) := by intro u hu; cases hu

theorem Ring.write_idx {r : Ring} {v : Nat} (h1 : r.dev < 65536) (h2 : r.host < 65536) :
    (r.write v).1.dev < 65536 ∧ (r.write v).1.host < 65536 := by
  unfold Ring.write
  dsimp only
  split
  · exact ⟨h1, h2⟩
  · split
    · exact ⟨Nat.zero_lt_succ _, Nat.zero_lt_succ _⟩
    · exact ⟨h1, h2⟩

theorem toBitmap_low (p : Nat → Bool) : toBitmap ((List.range 8).filter (fun i => decide (i < 4) && p i)) < 16 := by
  have e : List.range 8 = [0, 1, 2, 3, 4, 5, 6, 7] := rfl
  rw [e]
  rcases h0 : p 0 <;> rcases h1 : p 1 <;> rcases h2 : p 2 <;> rcases h3 : p 3 <;>
    simp [List.filter, h0, h1, h2, h3] <;> decide

theorem healthKeep_lt {w v : Nat} : toBitmap ((bitmapOf w 1).filter (fun i => decide (i < 4) && !bit v i)) < 16 := by
  have e : (bitmapOf w 1).filter (fun i => decide (i < 4) && !bit v i) =
      (List.range 8).filter (fun i => decide (i < 4) && (!bit v i && bit w i)) := by
    unfold bitmapOf
    rw [List.filter_filter]
    congr 1
    funext i
    simp only [Bool.and_assoc]
  rw [e]
  exact toBitmap_low _

end Sys2Proof.Machine
end

