-- ==== Sys2Proof/Laws/KeptOps.lean ====
section
/-! SUPPORT. What Machine/Ops.lean leaves: the queue and the invariant (see Laws/Kept.lean). -/
namespace Sys2Proof.Machine
open Sys2Proof
variable {aim : Aim}

theorem State.count_kept {s : State} {table name i j n : Nat} (h0 : Kept aim s) :
    Kept aim (State.count s table name i j n) := h0

theorem State.bump_kept {s : State} {table name i j : Nat} (h0 : Kept aim s) : Kept aim (State.bump s table name i j) := h0

theorem State.setVec_kept {s : State} {v : Nat} {x : Vec} (h0 : Kept aim s) : Kept aim (State.setVec s v x) := h0

theorem State.sendMsix_kept {s : State} {v : Nat} (h0 : Kept aim s) : Kept aim (State.sendMsix s v) := by
  unfold State.sendMsix
  dsimp only
  repeat' first
    | with_reducible assumption
    | with_reducible apply State.setVec_kept
    | with_reducible apply State.bump_kept
    | (simp only [kept_mk]; with_reducible refine keptMk_of ?_ ?_ ?_ ?_ ?_)
    | with_reducible exact keep_rfl
    | split

theorem State.signal_kept {s : State} {v n : Nat} (h0 : Kept aim s) : Kept aim (State.signal s v n) := by
  unfold State.signal
  dsimp only
  repeat' first
    | with_reducible assumption
    | with_reducible apply State.setVec_kept
    | with_reducible apply State.count_kept
    | with_reducible apply State.sendMsix_kept
    | with_reducible exact keep_rfl
    | split

theorem signalStatus_kept {s t : State} (h0 : Kept aim s) (h1 : Kept aim t) : Kept aim (signalStatus s t) := by
  unfold signalStatus
  repeat' first
    | with_reducible assumption
    | with_reducible apply State.sendMsix_kept
    | split

theorem done_kept {s t : State} (h0 : Kept aim s) (h1 : Kept aim t) : KeptOut aim (done s t) := by
  unfold done
  repeat' first
    | with_reducible assumption
    | with_reducible apply signalStatus_kept
    | with_reducible apply keptOut_next

theorem State.mapFlits_kept {s : State} {f : Flit → Flit} (h0 : Kept aim s) : Kept aim (State.mapFlits s f) := by
  unfold State.mapFlits
  try dsimp only
  repeat' first
    | with_reducible assumption
    | (with_reducible intro _)
    | with_reducible apply kept_foldl
    | with_reducible apply keptOut_next
    | with_reducible exact keptOut_fault
    | (simp only [kept_mk]; with_reducible refine keptMk_of ?_ ?_ ?_ ?_ ?_)
    | with_reducible exact keep_rfl

theorem State.sendCell_kept {s : State} {plane g : Nat} {c : Cell} (h0 : Kept aim s) :
    Kept aim (State.sendCell s plane g c) := by
  unfold State.sendCell
  try dsimp only
  repeat' first
    | with_reducible assumption
    | (with_reducible intro _)
    | with_reducible apply kept_foldl
    | with_reducible apply keptOut_next
    | with_reducible exact keptOut_fault
    | (simp only [kept_mk]; with_reducible refine keptMk_of ?_ ?_ ?_ ?_ ?_)
    | with_reducible exact keep_rfl
    | exact fun _ => by decide
    | exact by decide
    | split

theorem State.sendControl_kept {s : State} {f : Nat} {bytes : Bytes} (h0 : Kept aim s) :
    Kept aim (State.sendControl s f bytes) := by
  unfold State.sendControl
  try dsimp only
  repeat' first
    | with_reducible assumption
    | (with_reducible intro _)
    | with_reducible apply kept_foldl
    | with_reducible apply State.bump_kept
    | with_reducible apply State.sendCell_kept
    | with_reducible apply keptOut_next
    | with_reducible exact keptOut_fault
    | (simp only [kept_mk]; with_reducible refine keptMk_of ?_ ?_ ?_ ?_ ?_)
    | with_reducible exact keep_rfl
    | exact fun _ => by decide
    | exact by decide
    | split

theorem State.setMember_kept {s : State} {f : Nat} {x : Member} (h0 : Kept aim s) : Kept aim (State.setMember s f x) := h0

theorem State.noteSilence_kept {s : State} {f : Nat} (h0 : Kept aim s) : Kept aim (State.noteSilence s f) := by
  unfold State.noteSilence
  dsimp only
  repeat' first
    | with_reducible assumption
    | with_reducible apply State.setMember_kept
    | with_reducible exact keep_rfl
    | split

theorem State.putMsg_kept {s : State} {path seq : Nat} {m : Msg} (h0 : Kept aim s) : Kept aim (State.putMsg s path seq m) := by
  unfold State.putMsg
  try dsimp only
  repeat' first
    | with_reducible assumption
    | (with_reducible intro _)
    | with_reducible apply kept_foldl
    | with_reducible apply State.bump_kept
    | with_reducible apply State.sendControl_kept
    | with_reducible apply keptOut_next
    | with_reducible exact keptOut_fault
    | (simp only [kept_mk]; with_reducible refine keptMk_of ?_ ?_ ?_ ?_ ?_)
    | with_reducible exact keep_rfl
    | exact fun _ => by decide
    | exact by decide
    | split

theorem State.numberMsg_kept {s : State} {path : Nat} {m : Msg} (h0 : Kept aim s) : Kept aim (State.numberMsg s path m) := by
  unfold State.numberMsg
  try dsimp only
  repeat' first
    | with_reducible assumption
    | (with_reducible intro _)
    | with_reducible apply kept_foldl
    | with_reducible apply State.putMsg_kept
    | with_reducible apply keptOut_next
    | with_reducible exact keptOut_fault
    | (simp only [kept_mk]; with_reducible refine keptMk_of ?_ ?_ ?_ ?_ ?_)
    | with_reducible exact keep_rfl
    | exact fun _ => by decide
    | exact by decide
    | split

theorem State.newMsg_kept {s : State} {path : Nat} {m : Msg} (h0 : Kept aim s) : Kept aim (State.newMsg s path m) := by
  unfold State.newMsg
  try dsimp only
  repeat' first
    | with_reducible assumption
    | (with_reducible intro _)
    | with_reducible apply kept_foldl
    | with_reducible apply State.numberMsg_kept
    | with_reducible apply keptOut_next
    | with_reducible exact keptOut_fault
    | (simp only [kept_mk]; with_reducible refine keptMk_of ?_ ?_ ?_ ?_ ?_)
    | with_reducible exact keep_rfl
    | exact fun _ => by decide
    | exact by decide
    | split

theorem State.nextMsg_kept {s : State} {dst : Option Nat} (h0 : Kept aim s) : Kept aim (State.nextMsg s dst) := by
  unfold State.nextMsg
  try dsimp only
  repeat' first
    | with_reducible assumption
    | (with_reducible intro _)
    | with_reducible apply kept_foldl
    | with_reducible apply State.numberMsg_kept
    | with_reducible apply keptOut_next
    | with_reducible exact keptOut_fault
    | (simp only [kept_mk]; with_reducible refine keptMk_of ?_ ?_ ?_ ?_ ?_)
    | with_reducible exact keep_rfl
    | exact fun _ => by decide
    | exact by decide
    | split

theorem State.sendMsg_kept {s : State} {f type : Nat} {ack : Bool} {body : Bytes} (h0 : Kept aim s) :
    Kept aim (State.sendMsg s f type ack body) := by
  unfold State.sendMsg
  repeat' first
    | with_reducible assumption
    | with_reducible apply State.newMsg_kept
    | split

theorem State.sendGroup_kept {s : State} {type : Nat} {body : Bytes} (h0 : Kept aim s) :
    Kept aim (State.sendGroup s type body) := by
  unfold State.sendGroup
  repeat' first
    | with_reducible assumption
    | (with_reducible intro _)
    | with_reducible apply kept_foldl
    | with_reducible apply State.newMsg_kept
    | split

theorem State.sendAll_kept {s : State} {fs : List Nat} {type : Nat} {ack : Bool} {body : Bytes} (h0 : Kept aim s) :
    Kept aim (State.sendAll s fs type ack body) := by
  unfold State.sendAll
  repeat' first
    | with_reducible assumption
    | (with_reducible intro _)
    | with_reducible apply kept_foldl
    | with_reducible apply State.sendMsg_kept

theorem State.writeEvent_kept {s : State} {code src : Nat} {t : T32} {data : Bytes} (h0 : Kept aim s) :
    Kept aim (State.writeEvent s code src t data) := by
  unfold State.writeEvent
  try dsimp only
  repeat' first
    | with_reducible assumption
    | (with_reducible intro _)
    | with_reducible apply kept_foldl
    | with_reducible apply State.bump_kept
    | with_reducible apply State.signal_kept
    | with_reducible apply keptOut_next
    | with_reducible exact keptOut_fault
    | (simp only [kept_mk]; with_reducible refine keptMk_of ?_ ?_ ?_ ?_ ?_)
    | with_reducible exact keep_rfl
    | (with_reducible refine keep_hif ?_; rintro ⟨b1, b2, b3, b4, b5, b6⟩; refine ⟨?_, ?_, ?_, ?_, ?_, ?_⟩ <;> dsimp only <;> first | assumption | omega | exact Nat.or_lt_two_pow (n := 4) b2 (by decide))
    | exact fun _ => by decide
    | exact by decide
    | split

theorem State.raise_kept {s : State} {code : Nat} {data : Bytes} (h0 : Kept aim s) : Kept aim (State.raise s code data) := by
  unfold State.raise
  repeat' first
    | with_reducible assumption
    | with_reducible apply State.bump_kept
    | with_reducible apply State.sendMsg_kept
    | with_reducible apply State.writeEvent_kept
    | with_reducible exact keep_rfl
    | split

theorem State.raiseLim_kept {s : State} {code idx : Nat} {data : Nat → Bytes} (h0 : Kept aim s) :
    Kept aim (State.raiseLim s code idx data) := by
  unfold State.raiseLim
  dsimp only
  repeat' first
    | with_reducible assumption
    | with_reducible apply State.raise_kept
    | (simp only [kept_mk]; with_reducible refine keptMk_of ?_ ?_ ?_ ?_ ?_)
    | with_reducible exact keep_rfl
    | split

theorem State.histAt_kept {s : State} {source inst v : Nat} {stamp : T32} (h0 : Kept aim s) :
    Kept aim (State.histAt s source inst v stamp) := by
  unfold State.histAt
  try dsimp only
  repeat' first
    | with_reducible assumption
    | (with_reducible intro _)
    | with_reducible apply kept_foldl
    | with_reducible apply State.count_kept
    | with_reducible apply keptOut_next
    | with_reducible exact keptOut_fault
    | (simp only [kept_mk]; with_reducible refine keptMk_of ?_ ?_ ?_ ?_ ?_)
    | with_reducible exact keep_rfl

theorem State.histAdd_kept {s : State} {source inst v : Nat} (h0 : Kept aim s) : Kept aim (State.histAdd s source inst v) := by
  unfold State.histAdd
  try dsimp only
  repeat' first
    | with_reducible assumption
    | (with_reducible intro _)
    | with_reducible apply kept_foldl
    | with_reducible apply State.histAt_kept

theorem State.setPerf_kept {s : State} {die n : Nat} {x : Perf} (h0 : Kept aim s) : Kept aim (State.setPerf s die n x) := h0

theorem State.perfWrap_kept {s : State} {die n : Nat} (h0 : Kept aim s) : Kept aim (State.perfWrap s die n) := by
  unfold State.perfWrap
  repeat' first
    | with_reducible assumption
    | with_reducible apply State.setPerf_kept
    | with_reducible apply State.raise_kept
    | with_reducible exact keep_rfl
    | split

theorem State.perfAdd_kept {s : State} {die n k f : Nat} (h0 : Kept aim s) : Kept aim (State.perfAdd s die n k f) := by
  induction f generalizing s n k with
  | zero => exact h0
  | succ f ih =>
    unfold State.perfAdd
    dsimp only
    split
    · exact State.setPerf_kept h0
    · split
      · exact ih (State.setPerf_kept h0)
      · exact State.perfWrap_kept (State.setPerf_kept h0)

theorem State.perfCount_kept {s : State} {die unit inst event k : Nat} (h0 : Kept aim s) :
    Kept aim (State.perfCount s die unit inst event k) := by
  unfold State.perfCount
  repeat' first
    | with_reducible assumption
    | (with_reducible intro _)
    | with_reducible apply kept_foldl
    | with_reducible apply State.perfAdd_kept

theorem State.servedBy_kept {s : State} {unit : Nat} {pipes : List Nat} {events : List (Nat × Nat)} (h0 : Kept aim s) :
    Kept aim (State.servedBy s unit pipes events) := by
  unfold State.servedBy
  try dsimp only
  repeat' first
    | with_reducible assumption
    | (with_reducible intro _)
    | with_reducible apply kept_foldl
    | with_reducible apply State.perfCount_kept
    | with_reducible apply keptOut_next
    | with_reducible exact keptOut_fault
    | (simp only [kept_mk]; with_reducible refine keptMk_of ?_ ?_ ?_ ?_ ?_)
    | with_reducible exact keep_rfl
    | exact fun _ => by decide
    | exact by decide
    | split

theorem Res.err_kept {s : State} {status detail : Nat} (h0 : Kept aim s) : Kept aim (Res.err s status detail).st := h0

theorem State.relayTo_kept {s : State} {opcode : Nat} {c : Cmd} {dist : Option Nat} (h0 : Kept aim s) :
    Kept aim (State.relayTo s opcode c dist) := by
  unfold State.relayTo
  dsimp only
  repeat' first
    | with_reducible assumption
    | (with_reducible intro _)
    | with_reducible apply kept_foldl
    | with_reducible apply State.sendMsg_kept
    | (simp only [kept_mk]; with_reducible refine keptMk_of ?_ ?_ ?_ ?_ ?_)
    | with_reducible exact keep_rfl

theorem State.portWait_kept {s : State} {e : CmdEntry} (h0 : Kept aim s) : Kept aim (State.portWait s e).st := by
  unfold State.portWait
  try dsimp only
  repeat' first
    | with_reducible assumption
    | (with_reducible intro _)
    | with_reducible apply kept_foldl
    | with_reducible apply keptOut_next
    | with_reducible exact keptOut_fault
    | (simp only [kept_mk]; with_reducible refine keptMk_of ?_ ?_ ?_ ?_ ?_)
    | with_reducible exact keep_rfl

theorem runLocal_kept {x : CmdSpec} {body : Cmd → State → Res} {c : Cmd} {s : State}
    (h0 : ∀ c z, Kept aim z → Kept aim (body c z).st) (h1 : Kept aim s) : Kept aim (runLocal x body c s).st := by
  unfold runLocal
  try dsimp only
  repeat' first
    | with_reducible assumption
    | (with_reducible intro _)
    | with_reducible apply kept_foldl
    | with_reducible apply h0
    | with_reducible apply Res.err_kept
    | with_reducible apply State.portWait_kept
    | with_reducible apply keptOut_next
    | with_reducible exact keptOut_fault
    | with_reducible exact keep_rfl
    | exact fun _ => by decide
    | exact by decide
    | split

theorem gate_kept {x : CmdSpec} {body : Cmd → State → Res} {c : Cmd} {s : State}
    (h0 : ∀ c z, Kept aim z → Kept aim (body c z).st) (h1 : Kept aim s) : Kept aim (gate x body c s).st := by
  unfold gate
  repeat' first
    | with_reducible assumption
    | with_reducible apply h0
    | with_reducible apply Res.err_kept
    | with_reducible apply State.relayTo_kept
    | with_reducible apply runLocal_kept
    | split

theorem State.completeRing_kept {s : State} {c : Cmd} {silent : Bool} {since : T32} {status : Nat} {result : Bytes}
    {resultLength applied failIndex detail : Nat} (h0 : Kept aim s) :
    Kept aim (State.completeRing s c silent since status result resultLength applied failIndex detail) := by
  unfold State.completeRing
  try dsimp only
  repeat' first
    | with_reducible assumption
    | (with_reducible intro _)
    | with_reducible apply kept_foldl
    | with_reducible apply State.bump_kept
    | with_reducible apply State.histAdd_kept
    | with_reducible apply State.signal_kept
    | with_reducible apply keptOut_next
    | with_reducible exact keptOut_fault
    | (simp only [kept_mk]; with_reducible refine keptMk_of ?_ ?_ ?_ ?_ ?_)
    | with_reducible exact keep_rfl
    | exact fun _ => by decide
    | exact by decide
    | split

theorem State.reviewDist_kept {s : State} {id : Nat} (h0 : Kept aim s) : Kept aim (State.reviewDist s id) := by
  unfold State.reviewDist
  repeat' first
    | with_reducible assumption
    | (with_reducible intro _)
    | with_reducible apply kept_foldl
    | with_reducible apply State.completeRing_kept
    | (simp only [kept_mk]; with_reducible refine keptMk_of ?_ ?_ ?_ ?_ ?_)
    | with_reducible exact keep_rfl
    | split

theorem State.distNote_kept {s : State} {id f st : Nat} (h0 : Kept aim s) : Kept aim (State.distNote s id f st) := h0

theorem State.distStatus_kept {s : State} {id f st : Nat} (h0 : Kept aim s) : Kept aim (State.distStatus s id f st) := by
  unfold State.distStatus
  repeat' first
    | with_reducible assumption
    | with_reducible apply State.distNote_kept
    | with_reducible apply State.reviewDist_kept

theorem State.complete_kept {s : State} {c : Cmd} {silent : Bool} {since : T32} {status : Nat} {result : Bytes}
    {resultLength applied failIndex detail : Nat} (h0 : Kept aim s) :
    Kept aim (State.complete s c silent since status result resultLength applied failIndex detail) := by
  unfold State.complete
  repeat' first
    | with_reducible assumption
    | (with_reducible intro _)
    | with_reducible apply kept_foldl
    | with_reducible apply State.distStatus_kept
    | with_reducible apply State.sendMsg_kept
    | with_reducible apply State.completeRing_kept
    | with_reducible exact keep_rfl
    | split

theorem Res.finish_kept {r : Res} {c : Cmd} (h0 : Kept aim r.st) : Kept aim (Res.finish r c) := by
  unfold Res.finish
  repeat' first
    | with_reducible assumption
    | with_reducible apply State.complete_kept
    | (simp only [kept_mk]; with_reducible refine keptMk_of ?_ ?_ ?_ ?_ ?_)
    | with_reducible exact keep_rfl
    | split

theorem State.finishOpen_kept {s : State} {o : OpenCmd} {status : Nat} {result : Bytes} {applied failIndex detail : Nat}
    (h0 : Kept aim s) : Kept aim (State.finishOpen s o status result applied failIndex detail) := by
  unfold State.finishOpen
  try dsimp only
  repeat' first
    | with_reducible assumption
    | (with_reducible intro _)
    | with_reducible apply kept_foldl
    | with_reducible apply State.complete_kept
    | with_reducible apply keptOut_next
    | with_reducible exact keptOut_fault
    | (simp only [kept_mk]; with_reducible refine keptMk_of ?_ ?_ ?_ ?_ ?_)
    | with_reducible exact keep_rfl
    | exact fun _ => by decide
    | exact by decide
    | split

theorem State.writeAnswers_kept {s : State} (h0 : Kept aim s) : Kept aim (State.writeAnswers s) := by
  unfold State.writeAnswers
  try dsimp only
  repeat' first
    | with_reducible assumption
    | (with_reducible intro _)
    | with_reducible apply kept_foldl
    | with_reducible apply State.complete_kept
    | with_reducible apply keptOut_next
    | with_reducible exact keptOut_fault
    | (simp only [kept_mk]; with_reducible refine keptMk_of ?_ ?_ ?_ ?_ ?_)
    | with_reducible exact keep_rfl
    | exact fun _ => by decide
    | exact by decide
    | split

theorem State.finishKind_kept {s : State} {k : OpenKind} {status applied detail : Nat} (h0 : Kept aim s) :
    Kept aim (State.finishKind s k status applied detail) := by
  unfold State.finishKind
  repeat' first
    | with_reducible assumption
    | (with_reducible intro _)
    | with_reducible apply kept_foldl
    | with_reducible apply State.finishOpen_kept

theorem State.reviewChange_kept {s : State} (h0 : Kept aim s) : Kept aim (State.reviewChange s) := by
  unfold State.reviewChange
  repeat' first
    | with_reducible assumption
    | with_reducible apply State.raise_kept
    | with_reducible apply State.finishKind_kept
    | (simp only [kept_mk]; with_reducible refine keptMk_of ?_ ?_ ?_ ?_ ?_)
    | with_reducible exact keep_rfl
    | split

theorem serve_kept {c : Cmd} {f : Cmd → State → Res} {s : State} (h0 : ∀ c z, Kept aim z → Kept aim (f c z).st)
    (h1 : Kept aim s) : KeptOut aim (serve c f s) := by
  unfold serve
  repeat' first
    | with_reducible assumption
    | with_reducible apply h0
    | with_reducible apply done_kept
    | with_reducible apply Res.finish_kept
    | with_reducible apply keptOut_next
    | split

end Sys2Proof.Machine
end

