-- ==== Sys2Proof/Laws/KeptPortOps.lean ====
section
/-! SUPPORT. What Machine/PortOps.lean leaves: the queue and the invariant (see Laws/Kept.lean). -/
namespace Sys2Proof.Machine
open Sys2Proof
variable {aim : Aim}

theorem State.setPrt_kept {s : State} {p : Nat} {x : Port} (h0 : Kept aim s) : Kept aim (State.setPrt s p x) := h0

theorem State.updPrt_kept {s : State} {p : Nat} {f : Port → Port} (h0 : Kept aim s) : Kept aim (State.updPrt s p f) := h0

theorem State.setGrp_kept {s : State} {g : Nat} {x : Group} (h0 : Kept aim s) : Kept aim (State.setGrp s g x) := h0

theorem State.train_kept {s : State} {p : Nat} {lanes : List Nat} (h0 : Kept aim s) : Kept aim (State.train s p lanes) := by
  unfold State.train
  try dsimp only
  repeat' first
    | with_reducible assumption
    | (with_reducible intro _)
    | with_reducible apply kept_foldl
    | with_reducible apply State.setPrt_kept
    | with_reducible apply keptOut_next
    | with_reducible exact keptOut_fault
    | with_reducible exact keep_rfl
    | exact fun _ => by decide
    | exact by decide
    | split

theorem State.retrainLost_kept {s : State} {p : Nat} (h0 : Kept aim s) : Kept aim (State.retrainLost s p) := by
  unfold State.retrainLost
  repeat' first
    | with_reducible assumption
    | with_reducible apply State.train_kept
    | split

theorem State.txTimestamp_kept {s : State} {p status tag t : Nat} {f : TxFrame} {launch : Nat} (h0 : Kept aim s) :
    Kept aim (State.txTimestamp s p status tag t f launch) := by
  unfold State.txTimestamp
  repeat' first
    | with_reducible assumption
    | with_reducible apply State.raise_kept
    | with_reducible apply State.bump_kept

theorem State.tsDropped_kept {s : State} {p : Nat} {tsReq : Option Nat} (h0 : Kept aim s) :
    Kept aim (State.tsDropped s p tsReq) := by
  unfold State.tsDropped
  repeat' first
    | with_reducible assumption
    | with_reducible apply State.txTimestamp_kept
    | with_reducible exact keep_rfl
    | split

theorem State.txDrop_kept {s : State} {p code : Nat} {tsReq : Option Nat} (h0 : Kept aim s) :
    Kept aim (State.txDrop s p code tsReq) := by
  unfold State.txDrop
  repeat' first
    | with_reducible assumption
    | with_reducible apply State.bump_kept
    | with_reducible apply State.tsDropped_kept

theorem State.clearTx_kept {s : State} {p : Nat} (h0 : Kept aim s) : Kept aim (State.clearTx s p) := by
  unfold State.clearTx
  dsimp only
  repeat' first
    | with_reducible assumption
    | (with_reducible intro _)
    | with_reducible apply kept_foldl
    | with_reducible apply State.updPrt_kept
    | with_reducible apply State.txDrop_kept

theorem State.endLpi_kept {s : State} {p : Nat} (h0 : Kept aim s) : Kept aim (State.endLpi s p) := by
  unfold State.endLpi
  dsimp only
  repeat' first
    | with_reducible assumption
    | with_reducible apply State.setPrt_kept
    | with_reducible apply State.count_kept
    | with_reducible exact keep_rfl
    | split

theorem State.endAllLpi_kept {s : State} (h0 : Kept aim s) : Kept aim (State.endAllLpi s) := by
  unfold State.endAllLpi
  repeat' first
    | with_reducible assumption
    | (with_reducible intro _)
    | with_reducible apply kept_foldl
    | with_reducible apply State.endLpi_kept

theorem State.portDown_kept {s : State} {p reason : Nat} {quiet : Bool} (h0 : Kept aim s) :
    Kept aim (State.portDown s p reason quiet) := by
  unfold State.portDown
  repeat' first
    | with_reducible assumption
    | (with_reducible intro _)
    | with_reducible apply State.endLpi_kept
    | with_reducible apply State.updPrt_kept
    | with_reducible apply State.clearTx_kept
    | with_reducible apply State.bump_kept
    | with_reducible apply State.raise_kept
    | with_reducible exact keep_rfl
    | split

theorem State.startUpHold_kept {s : State} {p : Nat} (h0 : Kept aim s) : Kept aim (State.startUpHold s p) := by
  unfold State.startUpHold
  dsimp only
  repeat' first
    | with_reducible assumption
    | with_reducible apply State.setPrt_kept
    | with_reducible exact keep_rfl
    | split

theorem State.lagsUp_kept {s : State} {p : Nat} (h0 : Kept aim s) : Kept aim (State.lagsUp s p) := h0

theorem State.untrain_kept {s : State} {p : Nat} (h0 : Kept aim s) : Kept aim (State.untrain s p) := by
  unfold State.untrain
  try dsimp only
  repeat' first
    | with_reducible assumption
    | (with_reducible intro _)
    | with_reducible apply kept_foldl
    | with_reducible apply State.updPrt_kept

theorem State.rateChange_kept {s : State} {g newMode : Nat} (h0 : Kept aim s) : Kept aim (State.rateChange s g newMode) := by
  unfold State.rateChange
  try dsimp only
  repeat' first
    | with_reducible assumption
    | (with_reducible intro _)
    | with_reducible apply kept_foldl
    | with_reducible apply State.portDown_kept
    | with_reducible apply State.clearTx_kept
    | with_reducible apply State.train_kept
    | with_reducible apply State.untrain_kept
    | with_reducible apply State.bump_kept
    | with_reducible apply State.setGrp_kept
    | with_reducible apply keptOut_next
    | with_reducible exact keptOut_fault
    | with_reducible exact keep_rfl
    | exact fun _ => by decide
    | exact by decide
    | split

theorem State.setMod_kept {s : State} {m : Nat} {x : Mod} (h0 : Kept aim s) : Kept aim (State.setMod s m x) := by
  unfold State.setMod
  try dsimp only
  repeat' first
    | with_reducible assumption
    | (with_reducible intro _)
    | with_reducible apply kept_foldl
    | with_reducible apply keptOut_next
    | with_reducible exact keptOut_fault
    | (simp only [kept_mk]; with_reducible refine keptMk_of ?_ ?_ ?_ ?_ ?_)
    | with_reducible exact keep_rfl

theorem State.activateModule_kept {s : State} {m : Nat} (h0 : Kept aim s) : Kept aim (State.activateModule s m) := by
  unfold State.activateModule
  try dsimp only
  repeat' first
    | with_reducible assumption
    | (with_reducible intro _)
    | with_reducible apply kept_foldl
    | with_reducible apply State.setMod_kept
    | with_reducible apply keptOut_next
    | with_reducible exact keptOut_fault
    | with_reducible exact keep_rfl
    | exact fun _ => by decide
    | exact by decide
    | split

theorem State.modulesTx_kept {s : State} {disabled : Bool} (h0 : Kept aim s) : Kept aim (State.modulesTx s disabled) := by
  unfold State.modulesTx
  try dsimp only
  repeat' first
    | with_reducible assumption
    | (with_reducible intro _)
    | with_reducible apply kept_foldl
    | with_reducible apply keptOut_next
    | with_reducible exact keptOut_fault
    | (simp only [kept_mk]; with_reducible refine keptMk_of ?_ ?_ ?_ ?_ ?_)
    | with_reducible exact keep_rfl

theorem State.trainAll_kept {s : State} (h0 : Kept aim s) : Kept aim (State.trainAll s) := by
  unfold State.trainAll
  try dsimp only
  repeat' first
    | with_reducible assumption
    | (with_reducible intro _)
    | with_reducible apply kept_foldl
    | with_reducible apply State.retrainLost_kept
    | with_reducible apply keptOut_next
    | with_reducible exact keptOut_fault
    | with_reducible exact keep_rfl
    | exact fun _ => by decide
    | exact by decide
    | split

theorem State.zeroKeys_kept {s : State} {p : Nat} (h0 : Kept aim s) : Kept aim (State.zeroKeys s p) := h0

theorem State.zeroAllKeys_kept {s : State} (h0 : Kept aim s) : Kept aim (State.zeroAllKeys s) := h0

end Sys2Proof.Machine
end

