-- ==== Sys2Proof/Laws/KeptQueueOps.lean ====
section
/-! SUPPORT. What Machine/QueueOps.lean leaves: the queue and the invariant (see Laws/Kept.lean). -/
namespace Sys2Proof.Machine
open Sys2Proof
variable {aim : Aim}

theorem State.pairAdd_kept {s : State} {pair bytes : Nat} (h0 : Kept aim s) : Kept aim (State.pairAdd s pair bytes) := h0

theorem State.observe_kept {s : State} {q : Nat} {f : QStat → QStat} (h0 : Kept aim s) : Kept aim (State.observe s q f) := by
  unfold State.observe
  repeat' first
    | with_reducible assumption
    | (with_reducible intro _)
    | with_reducible apply kept_foldl
    | (simp only [kept_mk]; with_reducible refine keptMk_of ?_ ?_ ?_ ?_ ?_)
    | with_reducible exact keep_rfl

theorem State.setQueue_kept {s : State} {q : Nat} {x : Queue} (h0 : Kept aim s) : Kept aim (State.setQueue s q x) := h0

theorem State.updQueue_kept {s : State} {q : Nat} {f : Queue → Queue} (h0 : Kept aim s) : Kept aim (State.updQueue s q f) := h0

theorem State.partAdd_kept {s : State} {q take free : Nat} (h0 : Kept aim s) : Kept aim (State.partAdd s q take free) := by
  unfold State.partAdd
  repeat' first
    | with_reducible assumption
    | (simp only [kept_mk]; with_reducible refine keptMk_of ?_ ?_ ?_ ?_ ?_)
    | with_reducible exact keep_rfl
    | split

theorem State.reasmAdd_kept {s : State} {take free : Nat} (h0 : Kept aim s) : Kept aim (State.reasmAdd s take free) := h0

theorem State.takeCells_kept {s : State} {q n : Nat} (h0 : Kept aim s) : Kept aim (State.takeCells s q n).2 := by
  unfold State.takeCells
  try dsimp only
  repeat' first
    | with_reducible assumption
    | (with_reducible intro _)
    | with_reducible apply kept_foldl
    | with_reducible apply State.partAdd_kept
    | with_reducible apply keptOut_next
    | with_reducible exact keptOut_fault
    | (simp only [kept_mk]; with_reducible refine keptMk_of ?_ ?_ ?_ ?_ ?_)
    | with_reducible exact keep_rfl

theorem State.takeCells_kept_eq {s : State} {q n : Nat} {a1 : List Nat} {a2 : State}
    (h0 : Kept aim s) (e : State.takeCells s q n = (a1, a2)) : Kept aim a2 := by
  have x := State.takeCells_kept (aim := aim) (s := s) (q := q) (n := n) h0
  rw [e] at x
  exact x

theorem State.holdCells_kept {s : State} {l : List Nat} (h0 : Kept aim s) : Kept aim (State.holdCells s l) := by
  unfold State.holdCells
  try dsimp only
  repeat' first
    | with_reducible assumption
    | (with_reducible intro _)
    | with_reducible apply kept_foldl
    | with_reducible apply keptOut_next
    | with_reducible exact keptOut_fault
    | (simp only [kept_mk]; with_reducible refine keptMk_of ?_ ?_ ?_ ?_ ?_)
    | with_reducible exact keep_rfl

theorem State.freeCell_kept {s : State} {c : Nat} (h0 : Kept aim s) : Kept aim (State.freeCell s c) := by
  unfold State.freeCell
  try dsimp only
  repeat' first
    | with_reducible assumption
    | (with_reducible intro _)
    | with_reducible apply kept_foldl
    | with_reducible apply State.partAdd_kept
    | with_reducible apply keptOut_next
    | with_reducible exact keptOut_fault
    | (simp only [kept_mk]; with_reducible refine keptMk_of ?_ ?_ ?_ ?_ ?_)
    | with_reducible exact keep_rfl
    | exact fun _ => by decide
    | exact by decide
    | split

theorem State.freeCellList_kept {s : State} {l : List QCell} (h0 : Kept aim s) : Kept aim (State.freeCellList s l) := by
  unfold State.freeCellList
  try dsimp only
  repeat' first
    | with_reducible assumption
    | (with_reducible intro _)
    | with_reducible apply kept_foldl
    | with_reducible apply State.freeCell_kept

theorem State.setLink_kept {s : State} {c next : Nat} (h0 : Kept aim s) : Kept aim (State.setLink s c next) := by
  unfold State.setLink
  try dsimp only
  repeat' first
    | with_reducible assumption
    | (with_reducible intro _)
    | with_reducible apply kept_foldl
    | with_reducible apply keptOut_next
    | with_reducible exact keptOut_fault
    | (simp only [kept_mk]; with_reducible refine keptMk_of ?_ ?_ ?_ ?_ ?_)
    | with_reducible exact keep_rfl
    | exact fun _ => by decide
    | exact by decide
    | split

theorem State.linkCells_kept {s : State} {l : List Nat} (h0 : Kept aim s) : Kept aim (State.linkCells s l) := by
  induction l generalizing s with
  | nil => exact h0
  | cons a r ih =>
    cases r with
    | nil => exact h0
    | cons b r => exact ih (State.setLink_kept h0)

theorem State.linkRun_kept {s : State} {run more : List QCell} (h0 : Kept aim s) : Kept aim (State.linkRun s run more) := by
  unfold State.linkRun
  try dsimp only
  repeat' first
    | with_reducible assumption
    | (with_reducible intro _)
    | with_reducible apply kept_foldl
    | with_reducible apply State.linkCells_kept

theorem State.formSegs_kept {s : State} {q : Nat} (h0 : Kept aim s) : Kept aim (State.formSegs s q) := h0

theorem State.endSpill_kept {s : State} {q : Nat} (h0 : Kept aim s) : Kept aim (State.endSpill s q) := by
  unfold State.endSpill
  try dsimp only
  repeat' first
    | with_reducible assumption
    | (with_reducible intro _)
    | with_reducible apply kept_foldl
    | with_reducible apply State.setQueue_kept
    | with_reducible apply State.linkRun_kept
    | with_reducible apply keptOut_next
    | with_reducible exact keptOut_fault
    | with_reducible exact keep_rfl
    | exact fun _ => by decide
    | exact by decide
    | split

theorem State.sweep_kept {s : State} {q : Nat} {free : Bool} (h0 : Kept aim s) : Kept aim (State.sweep s q free) := by
  unfold State.sweep
  try dsimp only
  repeat' first
    | with_reducible assumption
    | (with_reducible intro _)
    | with_reducible apply kept_foldl
    | with_reducible apply State.setQueue_kept
    | with_reducible apply State.freeCellList_kept
    | with_reducible apply keptOut_next
    | with_reducible exact keptOut_fault
    | with_reducible exact keep_rfl
    | exact fun _ => by decide
    | exact by decide
    | split

theorem State.joinHead_kept {s : State} {q : Nat} {l : List QCell} (h0 : Kept aim s) : Kept aim (State.joinHead s q l) := by
  unfold State.joinHead
  try dsimp only
  repeat' first
    | with_reducible assumption
    | (with_reducible intro _)
    | with_reducible apply kept_foldl
    | with_reducible apply State.setQueue_kept
    | with_reducible apply State.linkRun_kept
    | with_reducible apply State.sweep_kept

theorem State.joinBacklog_kept {n : Nat} {s : State} {q : Nat} (h0 : Kept aim s) : Kept aim (State.joinBacklog n s q) := by
  induction n generalizing s with
  | zero => exact h0
  | succ n ih =>
    unfold State.joinBacklog
    dsimp only
    split
    · split
      · exact ih (State.joinHead_kept (State.setQueue_kept h0))
      · exact h0
    · exact h0

theorem State.refillOnce_kept {s : State} {q : Nat} (h0 : Kept aim s) : Kept aim (State.refillOnce s q) := by
  unfold State.refillOnce
  try dsimp only
  repeat' first
    | with_reducible assumption
    | (with_reducible intro _)
    | with_reducible apply kept_foldl
    | with_reducible apply State.joinBacklog_kept
    | with_reducible apply State.setQueue_kept
    | with_reducible apply State.endSpill_kept
    | with_reducible apply State.count_kept
    | with_reducible apply keptOut_next
    | with_reducible exact keptOut_fault
    | (simp only [kept_mk]; with_reducible refine keptMk_of ?_ ?_ ?_ ?_ ?_)
    | with_reducible exact keep_rfl
    | exact fun _ => by decide
    | exact by decide
    | split

theorem State.issueRefills_kept {n : Nat} {s : State} {q : Nat} (h0 : Kept aim s) : Kept aim (State.issueRefills n s q) := by
  induction n generalizing s with
  | zero => exact h0
  | succ n ih =>
    unfold State.issueRefills
    split
    · exact ih (State.refillOnce_kept h0)
    · exact h0

theorem State.noteStall_kept {s : State} {q : Nat} (h0 : Kept aim s) : Kept aim (State.noteStall s q) := by
  unfold State.noteStall
  try dsimp only
  repeat' first
    | with_reducible assumption
    | (with_reducible intro _)
    | with_reducible apply kept_foldl
    | with_reducible apply State.setQueue_kept
    | with_reducible apply State.bump_kept
    | with_reducible apply keptOut_next
    | with_reducible exact keptOut_fault
    | with_reducible exact keep_rfl
    | exact fun _ => by decide
    | exact by decide
    | split

theorem State.setHbmChan_kept {s : State} {c : Nat} {x : HbmChan} (h0 : Kept aim s) : Kept aim (State.setHbmChan s c x) := h0

theorem State.setStack_kept {s : State} {k : Nat} {x : Stack} (h0 : Kept aim s) : Kept aim (State.setStack s k x) := h0

theorem State.meterTake_kept {s : State} {k : Nat} (h0 : Kept aim s) : Kept aim (State.meterTake s k) := by
  unfold State.meterTake
  try dsimp only
  repeat' first
    | with_reducible assumption
    | (with_reducible intro _)
    | with_reducible apply kept_foldl
    | with_reducible apply keptOut_next
    | with_reducible exact keptOut_fault
    | (simp only [kept_mk]; with_reducible refine keptMk_of ?_ ?_ ?_ ?_ ?_)
    | with_reducible exact keep_rfl

theorem State.grantSeg_kept {s : State} {q : Nat} (h0 : Kept aim s) : ∀ t, State.grantSeg s q = some t → Kept aim t.2 := by
  intro t e
  unfold State.grantSeg at e
  split at e
  · cases e
  · split at e
    · cases e
    · cases e; exact h0
theorem State.grantSeg_kept_eq {s : State} {q a1 : Nat} {a2 : State}
    (h0 : Kept aim s) (e : State.grantSeg s q = some (a1, a2)) : Kept aim a2 :=
  State.grantSeg_kept h0 _ e

theorem State.noteSegLow_kept {s : State} (h0 : Kept aim s) : Kept aim (State.noteSegLow s) := by
  unfold State.noteSegLow
  dsimp only
  repeat' first
    | with_reducible assumption
    | with_reducible apply State.raise_kept
    | (simp only [kept_mk]; with_reducible refine keptMk_of ?_ ?_ ?_ ?_ ?_)
    | with_reducible exact keep_rfl
    | split

theorem State.freeSegList_kept {s : State} {l : List Nat} (h0 : Kept aim s) : Kept aim (State.freeSegList s l) := by
  unfold State.freeSegList
  try dsimp only
  repeat' first
    | with_reducible assumption
    | (with_reducible intro _)
    | with_reducible apply kept_foldl
    | with_reducible apply State.noteSegLow_kept
    | with_reducible apply keptOut_next
    | with_reducible exact keptOut_fault
    | (simp only [kept_mk]; with_reducible refine keptMk_of ?_ ?_ ?_ ?_ ?_)
    | with_reducible exact keep_rfl

theorem State.freeMiddle_kept {s : State} {q : Nat} {l : List Seg} (h0 : Kept aim s) : Kept aim (State.freeMiddle s q l) := by
  unfold State.freeMiddle
  try dsimp only
  repeat' first
    | with_reducible assumption
    | (with_reducible intro _)
    | with_reducible apply kept_foldl
    | with_reducible apply State.freeCellList_kept
    | with_reducible apply State.freeSegList_kept
    | with_reducible apply keptOut_next
    | with_reducible exact keptOut_fault
    | (simp only [kept_mk]; with_reducible refine keptMk_of ?_ ?_ ?_ ?_ ?_)
    | with_reducible exact keep_rfl

theorem State.clearMiddle_kept {s : State} {q : Nat} (h0 : Kept aim s) : Kept aim (State.clearMiddle s q) := by
  unfold State.clearMiddle
  try dsimp only
  repeat' first
    | with_reducible assumption
    | (with_reducible intro _)
    | with_reducible apply kept_foldl
    | with_reducible apply State.setQueue_kept
    | with_reducible apply State.freeMiddle_kept
    | with_reducible apply keptOut_next
    | with_reducible exact keptOut_fault
    | with_reducible exact keep_rfl
    | exact fun _ => by decide
    | exact by decide
    | split

theorem State.settleQueue_kept {s : State} {q : Nat} (h0 : Kept aim s) : Kept aim (State.settleQueue s q) := by
  unfold State.settleQueue
  try dsimp only
  repeat' first
    | with_reducible assumption
    | (with_reducible intro _)
    | with_reducible apply kept_foldl
    | with_reducible apply State.clearMiddle_kept
    | with_reducible apply State.issueRefills_kept
    | with_reducible apply State.endSpill_kept
    | with_reducible apply State.noteStall_kept
    | with_reducible apply State.observe_kept

theorem State.rejectRelease_kept {s : State} {h owner reason source : Nat} (h0 : Kept aim s) :
    Kept aim (State.rejectRelease s h owner reason source) := by
  unfold State.rejectRelease
  try dsimp only
  repeat' first
    | with_reducible assumption
    | (with_reducible intro _)
    | with_reducible apply kept_foldl
    | with_reducible apply State.bump_kept
    | with_reducible apply State.raiseLim_kept

theorem State.dropShare_kept {s : State} {rec q : Nat} (h0 : Kept aim s) : Kept aim (State.dropShare s rec q).2 := by
  unfold State.dropShare
  try dsimp only
  repeat' first
    | with_reducible assumption
    | (with_reducible intro _)
    | with_reducible apply kept_foldl
    | with_reducible apply State.rejectRelease_kept
    | with_reducible apply keptOut_next
    | with_reducible exact keptOut_fault
    | (simp only [kept_mk]; with_reducible refine keptMk_of ?_ ?_ ?_ ?_ ?_)
    | with_reducible exact keep_rfl
    | exact fun _ => by decide
    | exact by decide
    | split

theorem State.dropShare_kept_eq {s : State} {rec q : Nat} {a1 : Hold} {a2 : State}
    (h0 : Kept aim s) (e : State.dropShare s rec q = (a1, a2)) : Kept aim a2 := by
  have x := State.dropShare_kept (aim := aim) (s := s) (rec := rec) (q := q) h0
  rw [e] at x
  exact x

theorem State.leave_kept {s : State} {q pid : Nat} (h0 : Kept aim s) : Kept aim (State.leave s q pid) := by
  unfold State.leave
  try dsimp only
  repeat' first
    | with_reducible assumption
    | (with_reducible intro _)
    | with_reducible apply kept_foldl
    | with_reducible apply State.dropShare_kept
    | (with_reducible refine State.dropShare_kept_eq ?_ (by assumption))
    | with_reducible apply State.setQueue_kept
    | with_reducible apply State.partAdd_kept
    | with_reducible apply State.sweep_kept
    | with_reducible apply keptOut_next
    | with_reducible exact keptOut_fault
    | with_reducible exact keep_rfl
    | exact fun _ => by decide
    | exact by decide
    | split

theorem State.popHead_kept {s : State} {q : Nat} (h0 : Kept aim s) : Kept aim (State.popHead s q) := by
  unfold State.popHead
  try dsimp only
  repeat' first
    | with_reducible assumption
    | (with_reducible intro _)
    | with_reducible apply kept_foldl
    | with_reducible apply State.leave_kept
    | with_reducible apply State.settleQueue_kept
    | with_reducible apply keptOut_next
    | with_reducible exact keptOut_fault
    | with_reducible exact keep_rfl
    | exact fun _ => by decide
    | exact by decide
    | split

theorem State.gather_kept {n : Nat} {s : State} {q : Nat} (h0 : Kept aim s) : Kept aim ((State.gather n s q).2) := by
  induction n generalizing s with
  | zero => exact h0
  | succ n ih =>
    unfold State.gather
    dsimp only
    split
    · exact h0
    · split
      · exact State.setQueue_kept h0
      · split
        · exact h0
        · exact ih (State.settleQueue_kept (State.setQueue_kept h0))

theorem State.countDrop_kept {s : State} {q code len : Nat} {pair : Bool} {tsReq : Option Nat} {port : Nat}
    (h0 : Kept aim s) : Kept aim (State.countDrop s q code len pair tsReq port) := by
  unfold State.countDrop
  dsimp only
  repeat' first
    | with_reducible assumption
    | (with_reducible intro _)
    | with_reducible apply State.bump_kept
    | with_reducible apply State.pairAdd_kept
    | with_reducible apply State.observe_kept
    | with_reducible apply State.tsDropped_kept
    | with_reducible exact keep_rfl
    | split

theorem State.dropHead_kept {s : State} {q code : Nat} (h0 : Kept aim s) : Kept aim (State.dropHead s q code) := by
  unfold State.dropHead
  repeat' first
    | with_reducible assumption
    | with_reducible apply State.popHead_kept
    | with_reducible apply State.countDrop_kept
    | with_reducible exact keep_rfl
    | split

theorem State.dropPkt_kept {s : State} {q code : Nat} {p : QPkt} (h0 : Kept aim s) : Kept aim (State.dropPkt s q code p) := by
  unfold State.dropPkt
  try dsimp only
  repeat' first
    | with_reducible assumption
    | (with_reducible intro _)
    | with_reducible apply kept_foldl
    | with_reducible apply State.leave_kept
    | with_reducible apply State.countDrop_kept

theorem State.dropDeadSegs_kept {n : Nat} {s : State} {q : Nat} (h0 : Kept aim s) : Kept aim (State.dropDeadSegs n s q) := by
  induction n generalizing s with
  | zero => exact h0
  | succ n ih =>
    unfold State.dropDeadSegs
    dsimp only
    split
    · split
      · exact h0
      · exact ih (State.freeMiddle_kept (State.setQueue_kept h0))
    · exact h0

theorem State.ageQueue_kept {n : Nat} {s : State} {q : Nat} (h0 : Kept aim s) : Kept aim (State.ageQueue n s q) := by
  induction n generalizing s with
  | zero => exact h0
  | succ n ih =>
    unfold State.ageQueue
    split
    · split
      · exact ih (State.dropPkt_kept h0)
      · exact h0
    · exact h0

theorem State.ageHead_kept {s : State} {q : Nat} (h0 : Kept aim s) : Kept aim (State.ageHead s q) := by
  unfold State.ageHead
  try dsimp only
  repeat' first
    | with_reducible assumption
    | (with_reducible intro _)
    | with_reducible apply kept_foldl
    | with_reducible apply State.ageQueue_kept
    | with_reducible apply State.dropDeadSegs_kept
    | with_reducible apply State.settleQueue_kept

theorem State.flushQueue_kept {s : State} {q : Nat} {count : QPkt → State → State} (h0 : Kept aim s)
    (h1 : ∀ z0 z1, Kept aim z1 → Kept aim (count z0 z1)) : Kept aim (State.flushQueue s q count) := by
  unfold State.flushQueue
  try dsimp only
  repeat' first
    | with_reducible assumption
    | (with_reducible intro _)
    | with_reducible apply kept_foldl
    | with_reducible apply h1
    | with_reducible apply State.count_kept
    | with_reducible apply State.leave_kept
    | with_reducible apply State.clearMiddle_kept
    | with_reducible apply State.updQueue_kept
    | with_reducible apply keptOut_next
    | with_reducible exact keptOut_fault
    | with_reducible exact keep_rfl
    | exact fun _ => by decide
    | exact by decide
    | split

theorem State.flush38_kept {s : State} {q : Nat} (h0 : Kept aim s) : Kept aim (State.flush38 s q) := by
  unfold State.flush38
  repeat' first
    | with_reducible assumption
    | (with_reducible intro _)
    | with_reducible apply State.flushQueue_kept
    | with_reducible apply State.countDrop_kept

theorem State.adoptSettings_kept {s : State} {q : Nat} (h0 : Kept aim s) : Kept aim (State.adoptSettings s q) := by
  unfold State.adoptSettings
  try dsimp only
  repeat' first
    | with_reducible assumption
    | (with_reducible intro _)
    | with_reducible apply kept_foldl
    | with_reducible apply State.updQueue_kept

theorem State.lowerMins_kept {s : State} (h0 : Kept aim s) : Kept aim (State.lowerMins s) := by
  unfold State.lowerMins
  try dsimp only
  repeat' first
    | with_reducible assumption
    | (with_reducible intro _)
    | with_reducible apply kept_foldl
    | with_reducible apply keptOut_next
    | with_reducible exact keptOut_fault
    | (simp only [kept_mk]; with_reducible refine keptMk_of ?_ ?_ ?_ ?_ ?_)
    | with_reducible exact keep_rfl

theorem State.wredCheck_kept {s : State} {q : Nat} {p : QPkt} (h0 : Kept aim s) : Kept aim (State.wredCheck s q p).st := by
  unfold State.wredCheck
  dsimp only
  repeat' first
    | with_reducible assumption
    | with_reducible apply State.setQueue_kept
    | (simp only [kept_mk]; with_reducible refine keptMk_of ?_ ?_ ?_ ?_ ?_)
    | with_reducible exact keep_rfl
    | split

theorem State.admitCheck_kept {s : State} {q n store : Nat} {p : QPkt} (h0 : Kept aim s) :
    Kept aim (State.admitCheck s q n store p).st := by
  unfold State.admitCheck
  try dsimp only
  repeat' first
    | with_reducible assumption
    | (with_reducible intro _)
    | with_reducible apply kept_foldl
    | with_reducible apply State.adoptSettings_kept
    | with_reducible apply State.wredCheck_kept

theorem State.refuse_kept {s : State} {q code : Nat} {p : QPkt} (h0 : Kept aim s) : Kept aim (State.refuse s q code p) := by
  unfold State.refuse
  dsimp only
  repeat' first
    | with_reducible assumption
    | (with_reducible intro _)
    | with_reducible apply State.countDrop_kept
    | with_reducible apply State.perfCount_kept
    | with_reducible apply State.raiseLim_kept
    | split

theorem State.enqueue_kept {s : State} {q : Nat} {l : List Nat} {p : QPkt} (h0 : Kept aim s) :
    Kept aim (State.enqueue s q l p) := by
  unfold State.enqueue
  try dsimp only
  repeat' first
    | with_reducible assumption
    | (with_reducible intro _)
    | with_reducible apply kept_foldl
    | with_reducible apply State.setQueue_kept
    | with_reducible apply State.linkRun_kept
    | with_reducible apply State.formSegs_kept
    | with_reducible apply State.settleQueue_kept
    | with_reducible apply State.pairAdd_kept
    | with_reducible apply State.bump_kept
    | with_reducible apply State.count_kept
    | with_reducible apply State.perfCount_kept
    | with_reducible apply keptOut_next
    | with_reducible exact keptOut_fault
    | with_reducible exact keep_rfl
    | exact fun _ => by decide
    | exact by decide
    | split

theorem State.enqueueNew_kept {s : State} {q : Nat} {p : QPkt} (h0 : Kept aim s) : Kept aim (State.enqueueNew s q p).2 := by
  unfold State.enqueueNew
  try dsimp only
  repeat' first
    | with_reducible assumption
    | (with_reducible intro _)
    | with_reducible apply kept_foldl
    | with_reducible apply State.takeCells_kept
    | (with_reducible refine State.takeCells_kept_eq ?_ (by assumption))
    | with_reducible apply State.partAdd_kept
    | with_reducible apply State.enqueue_kept

theorem State.enqueueNew_kept_eq {s : State} {q : Nat} {p : QPkt} {a1 : List Nat} {a2 : State}
    (h0 : Kept aim s) (e : State.enqueueNew s q p = (a1, a2)) : Kept aim a2 := by
  have x := State.enqueueNew_kept (aim := aim) (s := s) (q := q) (p := p) h0
  rw [e] at x
  exact x

theorem State.takeIn_kept {s : State} {q : Nat} {p : QPkt} (h0 : Kept aim s) : Kept aim (State.takeIn s q p) := by
  unfold State.takeIn
  try dsimp only
  repeat' first
    | with_reducible assumption
    | (with_reducible intro _)
    | with_reducible apply kept_foldl
    | with_reducible apply State.admitCheck_kept
    | with_reducible apply State.refuse_kept
    | with_reducible apply State.enqueueNew_kept
    | (with_reducible refine State.enqueueNew_kept_eq ?_ (by assumption))
    | with_reducible apply keptOut_next
    | with_reducible exact keptOut_fault
    | with_reducible exact keep_rfl
    | exact fun _ => by decide
    | exact by decide
    | split

end Sys2Proof.Machine
end

