-- ==== Sys2Proof/Laws/KeptModeOps.lean ====
section
/-! SUPPORT. What Machine/ModeOps.lean leaves: the queue and the invariant (see Laws/Kept.lean). -/
namespace Sys2Proof.Machine
open Sys2Proof
variable {aim : Aim}

theorem State.wakeStacks_kept {s : State} (h0 : Kept aim s) : Kept aim (State.wakeStacks s) := by
  unfold State.wakeStacks
  repeat' first
    | with_reducible assumption
    | (with_reducible intro _)
    | with_reducible apply kept_foldl
    | with_reducible apply State.setStack_kept
    | with_reducible apply State.count_kept
    | with_reducible exact keep_rfl
    | split
    | dsimp only

theorem State.changeMode_kept {s : State} {new target cause : Nat} (hn : aim.inv → new ≤ 11) (h0 : Kept aim s) :
    Kept aim (State.changeMode s new target cause) := by
  unfold State.changeMode
  dsimp only
  have ha : Kept aim (if new == mdForwarding || new == mdParked then s else s.endAllLpi) := by
    split
    · exact h0
    · exact State.endAllLpi_kept h0
  generalize (if new == mdForwarding || new == mdParked then s else s.endAllLpi) = a at *
  have hb : Kept aim (if s.mode.mode == mdParked then a.wakeStacks else a) := by
    split
    · exact State.wakeStacks_kept ha
    · exact ha
  generalize (if s.mode.mode == mdParked then a.wakeStacks else a) = b at *
  have hc : Kept aim { b with
      mode.prev := s.mode.mode, mode.mode := new, mode.changes := (b.mode.changes + 1) % 65536, mode.target := target
      mode.entered := b.t32, mode.drainSaid := false } :=
    kept_mode hb rfl fun hp _ => ⟨hn hp, (h0.2 hp).2.1.1, Nat.mod_lt _ (by decide)⟩
  generalize ({ b with
      mode.prev := s.mode.mode, mode.mode := new, mode.changes := (b.mode.changes + 1) % 65536, mode.target := target
      mode.entered := b.t32, mode.drainSaid := false } : State) = z at *
  have hd : Kept aim ((z.bump 1711 0 new).raise 0x1081 (d4 s.mode.mode ++ d4 new ++ d4 target ++ d4 cause)) :=
    State.raise_kept (State.bump_kept hc)
  split
  · exact State.modulesTx_kept hd
  · split
    · exact State.trainAll_kept (State.modulesTx_kept hd)
    · exact hd

theorem State.requestMode_kept {s : State} {m cause : Nat} (hn : aim.inv → m ≤ 11) (h0 : Kept aim s) :
    Kept aim (State.requestMode s m cause) := by
  unfold State.requestMode
  split
  · split
    · exact kept_mode h0 rfl fun _ b => b
    · exact State.changeMode_kept (fun _ => by decide) h0
  · exact State.changeMode_kept hn h0

theorem State.setCond_kept {s : State} {b : Nat} (h0 : Kept aim s) : Kept aim (State.setCond s b) := by
  unfold State.setCond
  repeat' first
    | with_reducible assumption
    | with_reducible apply State.raise_kept
    | with_reducible apply State.changeMode_kept
    | (simp only [kept_mk]; with_reducible refine keptMk_of ?_ ?_ ?_ ?_ ?_)
    | with_reducible exact keep_rfl
    | exact fun _ => by decide
    | split

theorem State.clearCond_kept {s : State} {b : Nat} (h0 : Kept aim s) : Kept aim (State.clearCond s b) := by
  unfold State.clearCond
  repeat' first
    | with_reducible assumption
    | with_reducible apply State.raise_kept
    | (simp only [kept_mk]; with_reducible refine keptMk_of ?_ ?_ ?_ ?_ ?_)
    | with_reducible exact keep_rfl
    | split

theorem State.fixCond_kept {s : State} {b : Nat} {holds : Bool} (h0 : Kept aim s) : Kept aim (State.fixCond s b holds) := by
  unfold State.fixCond
  repeat' first
    | with_reducible assumption
    | with_reducible apply State.setCond_kept
    | with_reducible apply State.clearCond_kept
    | split

theorem State.quarantine_kept {s : State} {cause : Nat} (h0 : Kept aim s) : Kept aim (State.quarantine s cause) := by
  unfold State.quarantine
  try dsimp only
  repeat' first
    | with_reducible assumption
    | (with_reducible intro _)
    | with_reducible apply kept_foldl
    | with_reducible apply State.changeMode_kept
    | with_reducible apply State.portDown_kept
    | with_reducible apply State.modulesTx_kept
    | with_reducible apply State.zeroAllKeys_kept
    | with_reducible apply State.flush38_kept
    | with_reducible apply State.raise_kept
    | with_reducible apply keptOut_next
    | with_reducible exact keptOut_fault
    | (simp only [kept_mk]; with_reducible refine keptMk_of ?_ ?_ ?_ ?_ ?_)
    | with_reducible exact keep_rfl
    | exact fun _ => by decide
    | exact by decide
    | split

theorem State.pllSteps_kept {s : State} (h0 : Kept aim s) : Kept aim (State.pllSteps s) := by
  unfold State.pllSteps
  try dsimp only
  repeat' first
    | with_reducible assumption
    | (with_reducible intro _)
    | with_reducible apply kept_foldl
    | with_reducible apply State.zeroAllKeys_kept
    | with_reducible apply keptOut_next
    | with_reducible exact keptOut_fault
    | (simp only [kept_mk]; with_reducible refine keptMk_of ?_ ?_ ?_ ?_ ?_)
    | with_reducible exact keep_rfl

theorem State.quarantinePll_kept {s : State} (h0 : Kept aim s) : Kept aim (State.quarantinePll s) := by
  unfold State.quarantinePll
  dsimp only
  apply State.zeroAllKeys_kept
  exact kept_core h0 rfl fun _ ⟨b1, b2, b3, b4⟩ => ⟨b1, ⟨Nat.le_refl 11, b2.1, Nat.mod_lt _ (Nat.zero_lt_succ _)⟩, b3, b4⟩

theorem State.resetDies_kept {s : State} (h0 : Kept aim s) : Kept aim (State.resetDies s) := by
  unfold State.resetDies
  exact kept_core h0 rfl fun _ _ => ⟨show HifOk State.reset.hif by decide, show ModeOk {} by decide,
    (by intro a e; cases e), (by intro a e; cases e)⟩

theorem State.saveSettings_kept {s : State} (h0 : Kept aim s) : Kept aim (State.saveSettings s) := by
  unfold State.saveSettings
  dsimp only
  repeat' first
    | with_reducible assumption
    | (simp only [kept_mk]; with_reducible refine keptMk_of ?_ ?_ ?_ ?_ ?_)
    | with_reducible exact keep_rfl
    | split

theorem State.commitRec_kept {s : State} {r : BootRec} (h0 : Kept aim s) : Kept aim (State.commitRec s r) := h0

theorem State.noteIdentity_kept {s : State} (h0 : Kept aim s) : Kept aim (State.noteIdentity s) := by
  unfold State.noteIdentity
  repeat' first
    | with_reducible assumption
    | with_reducible apply State.commitRec_kept
    | with_reducible exact keep_rfl
    | split

theorem State.setRole_kept {s : State} {role : Nat} (h0 : Kept aim s) : Kept aim (State.setRole s role) := by
  unfold State.setRole
  repeat' first
    | with_reducible assumption
    | with_reducible apply State.saveSettings_kept
    | (simp only [kept_mk]; with_reducible refine keptMk_of ?_ ?_ ?_ ?_ ?_)
    | with_reducible exact keep_rfl
    | split

theorem State.startElection_kept {s : State} (h0 : Kept aim s) : Kept aim (State.startElection s) := by
  unfold State.startElection
  repeat' first
    | with_reducible assumption
    | (simp only [kept_mk]; with_reducible refine keptMk_of ?_ ?_ ?_ ?_ ?_)
    | with_reducible exact keep_rfl
    | split

theorem State.record_kept {s : State} {r : Repair} (h0 : Kept aim s) : Kept aim (State.record s r) := by
  unfold State.record
  dsimp only
  repeat' first
    | with_reducible assumption
    | with_reducible apply State.bump_kept
    | with_reducible apply State.setCond_kept
    | (simp only [kept_mk]; with_reducible refine keptMk_of ?_ ?_ ?_ ?_ ?_)
    | with_reducible exact keep_rfl
    | split

theorem State.noteRate_kept {s : State} (h0 : Kept aim s) : Kept aim (State.noteRate s) := by
  unfold State.noteRate
  dsimp only
  repeat' first
    | with_reducible assumption
    | with_reducible apply State.raise_kept
    | (simp only [kept_mk]; with_reducible refine keptMk_of ?_ ?_ ?_ ?_ ?_)
    | with_reducible exact keep_rfl
    | split

theorem State.setMacro_kept {s : State} {m : Nat} {x : Macro} (h0 : Kept aim s) : Kept aim (State.setMacro s m x) := h0

theorem State.sramSpare_kept {s : State} {die m row col cause : Nat} (h0 : Kept aim s) :
    Kept aim (State.sramSpare s die m row col cause) := by
  unfold State.sramSpare
  dsimp only
  repeat' first
    | with_reducible assumption
    | with_reducible apply State.noteRate_kept
    | with_reducible apply State.setMacro_kept
    | with_reducible apply State.bump_kept
    | with_reducible apply State.record_kept
    | with_reducible apply State.raise_kept
    | with_reducible apply State.setCond_kept
    | with_reducible exact keep_rfl
    | split

theorem State.sramRepair_kept {s : State} {die m row col : Nat} {correctable : Bool} (h0 : Kept aim s) :
    Kept aim (State.sramRepair s die m row col correctable) := by
  unfold State.sramRepair
  dsimp only
  repeat' first
    | with_reducible assumption
    | with_reducible apply State.sramSpare_kept
    | with_reducible exact keep_rfl
    | split

theorem State.pipelineCheck_kept {s : State} (h0 : Kept aim s) : Kept aim (State.pipelineCheck s) := by
  unfold State.pipelineCheck
  repeat' first
    | with_reducible assumption
    | (with_reducible intro _)
    | with_reducible apply State.quarantine_kept
    | with_reducible apply State.setCond_kept
    | split
    | dsimp only

end Sys2Proof.Machine
end

