-- ==== Sys2Proof/Laws/KeptPools.lean ====
section
/-! SUPPORT. What Machine/Pools.lean leaves: the queue and the invariant (see Laws/Kept.lean). -/
namespace Sys2Proof.Machine
open Sys2Proof
variable {aim : Aim}

theorem State.setPoolBuf_kept {s : State} {p i : Nat} {b : PoolBuf} (h0 : Kept aim s) :
    Kept aim (State.setPoolBuf s p i b) := h0

theorem State.notePoolLow_kept {s : State} {p : Nat} (h0 : Kept aim s) : Kept aim (State.notePoolLow s p) := by
  unfold State.notePoolLow
  dsimp only
  repeat' first
    | with_reducible assumption
    | (with_reducible intro _)
    | with_reducible apply State.raise_kept
    | (simp only [kept_mk]; with_reducible refine keptMk_of ?_ ?_ ?_ ?_ ?_)
    | with_reducible exact keep_rfl
    | split

theorem State.chargeAdd_kept {s : State} {c p take free : Nat} (h0 : Kept aim s) :
    Kept aim (State.chargeAdd s c p take free) := h0

theorem State.poolTake_kept {s : State} {c p : Nat} {data : Bytes} (h0 : Kept aim s) :
    ∀ t, State.poolTake s c p data = some t → Kept aim t.2 := by
  intro t e
  unfold State.poolTake at e
  split at e
  · cases e
  · cases e
    apply State.notePoolLow_kept
    apply State.bump_kept
    rename_i i _
    have h1 : Kept aim ((s.setPoolBuf p i { gen := (s.poolBuf p i).gen, charge := c, owners := [ownerOf c], state := 1, data }).chargeAdd c p 1 0) :=
      State.chargeAdd_kept (State.setPoolBuf_kept h0)
    exact h1
theorem State.poolTake_kept_eq {s : State} {c p : Nat} {data : Bytes} {a1 : Nat} {a2 : State} (h0 : Kept aim s)
    (e : State.poolTake s c p data = some (a1, a2)) : Kept aim a2 := State.poolTake_kept h0 _ e

theorem State.poolTry_kept {s : State} {c first : Nat} {data : Bytes} {n p : Nat} (h0 : Kept aim s) :
    ∀ t, State.poolTry s c first data n p = some t → Kept aim t.2 := by
  induction n generalizing p with
  | zero => intro t e; cases e
  | succ n ih =>
    intro t e
    unfold State.poolTry at e
    split at e
    · cases e
    · split at e
      · refine State.poolTake_kept ?_ t e
        split
        · exact h0
        · exact State.bump_kept h0
      · exact ih t e

theorem State.poolAlloc_kept {s : State} {c : Nat} {data : Bytes} (h0 : Kept aim s) :
    Kept aim (State.poolAlloc s c data).2 := by
  unfold State.poolAlloc
  dsimp only
  split
  · rename_i e
    exact State.poolTry_kept h0 _ e
  · exact State.bump_kept h0
theorem State.poolAlloc_kept_eq {s : State} {c : Nat} {data : Bytes} {a1 : Option Nat} {a2 : State} (h0 : Kept aim s)
    (e : State.poolAlloc s c data = (a1, a2)) : Kept aim a2 := by
  have x := State.poolAlloc_kept (aim := aim) (c := c) (data := data) h0
  rw [e] at x
  exact x

theorem State.drop3B_kept {s : State} {c p : Nat} (h0 : Kept aim s) : Kept aim (State.drop3B s c p) := by
  unfold State.drop3B
  repeat' first
    | with_reducible assumption
    | (with_reducible intro _)
    | with_reducible apply State.bump_kept
    | with_reducible apply State.raiseLim_kept

theorem State.release_kept {s : State} {h owner source : Nat} (h0 : Kept aim s) :
    Kept aim (State.release s h owner source).2 := by
  unfold State.release
  repeat' first
    | with_reducible assumption
    | with_reducible apply State.rejectRelease_kept
    | with_reducible apply State.setPoolBuf_kept
    | with_reducible apply State.chargeAdd_kept
    | with_reducible apply State.notePoolLow_kept
    | with_reducible exact keep_rfl
    | split
    | dsimp only

theorem State.release_kept_eq {s : State} {h owner source : Nat} {a1 : Bool} {a2 : State}
    (h0 : Kept aim s) (e : State.release s h owner source = (a1, a2)) : Kept aim a2 := by
  have x := State.release_kept (aim := aim) (s := s) (h := h) (owner := owner) (source := source) h0
  rw [e] at x
  exact x

theorem State.shareOne_kept {s : State} {h req owner : Nat} (h0 : Kept aim s) :
    Kept aim (State.shareOne s h req owner).2.2 := by
  unfold State.shareOne
  try dsimp only
  repeat' first
    | with_reducible assumption
    | (with_reducible intro _)
    | with_reducible apply kept_foldl
    | with_reducible apply State.bump_kept
    | with_reducible apply State.poolAlloc_kept
    | (with_reducible refine State.poolAlloc_kept_eq ?_ (by assumption))
    | with_reducible apply State.setPoolBuf_kept
    | with_reducible apply keptOut_next
    | with_reducible exact keptOut_fault
    | with_reducible exact keep_rfl
    | exact fun _ => by decide
    | exact by decide
    | split

theorem State.shareOne_kept_eq {s : State} {h req owner : Nat} {a1 : Nat} {a2 : Nat} {a3 : State}
    (h0 : Kept aim s) (e : State.shareOne s h req owner = (a1, a2, a3)) : Kept aim a3 := by
  have x := State.shareOne_kept (aim := aim) (s := s) (h := h) (req := req) (owner := owner) h0
  rw [e] at x
  exact x

theorem State.shareAll_kept {s : State} {h req : Nat} {l : List Nat} (h0 : Kept aim s) :
    Kept aim (State.shareAll s h req l).2 := by
  induction l generalizing s with
  | nil => exact h0
  | cons o r ih => exact ih (State.shareOne_kept h0)

theorem cmdPoolCarveSet_kept {c : Cmd} {s : State} (h0 : Kept aim s) : Kept aim (cmdPoolCarveSet c s).st := by
  unfold cmdPoolCarveSet
  repeat' first
    | with_reducible assumption
    | (with_reducible intro _)
    | with_reducible apply kept_foldl
    | with_reducible apply gate_kept
    | with_reducible apply Res.err_kept
    | with_reducible apply State.notePoolLow_kept
    | (simp only [kept_mk]; with_reducible refine keptMk_of ?_ ?_ ?_ ?_ ?_)
    | with_reducible exact keep_rfl
    | split
    | dsimp only

theorem execPoolCarveSet_kept {c : Cmd} {s : State} (h0 : Kept aim s) : KeptOut aim (execPoolCarveSet c s) := by
  unfold execPoolCarveSet
  repeat' first
    | with_reducible assumption
    | with_reducible apply serve_kept
    | with_reducible apply cmdPoolCarveSet_kept

theorem cmdChannelPoolSet_kept {c : Cmd} {s : State} (h0 : Kept aim s) : Kept aim (cmdChannelPoolSet c s).st := by
  unfold cmdChannelPoolSet
  repeat' first
    | with_reducible assumption
    | (with_reducible intro _)
    | with_reducible apply kept_foldl
    | with_reducible apply gate_kept
    | with_reducible apply Res.err_kept
    | with_reducible apply State.notePoolLow_kept
    | (simp only [kept_mk]; with_reducible refine keptMk_of ?_ ?_ ?_ ?_ ?_)
    | with_reducible exact keep_rfl
    | split
    | dsimp only

theorem execChannelPoolSet_kept {c : Cmd} {s : State} (h0 : Kept aim s) : KeptOut aim (execChannelPoolSet c s) := by
  unfold execChannelPoolSet
  repeat' first
    | with_reducible assumption
    | with_reducible apply serve_kept
    | with_reducible apply cmdChannelPoolSet_kept

theorem cmdBufShare_kept {c : Cmd} {s : State} (h0 : Kept aim s) : Kept aim (cmdBufShare c s).st := by
  unfold cmdBufShare
  repeat' first
    | with_reducible assumption
    | (with_reducible intro _)
    | with_reducible apply gate_kept
    | with_reducible apply Res.err_kept
    | with_reducible apply State.shareAll_kept
    | with_reducible apply done_kept
    | split
    | dsimp only

theorem execBufShare_kept {c : Cmd} {s : State} (h0 : Kept aim s) : KeptOut aim (execBufShare c s) := by
  unfold execBufShare
  repeat' first
    | with_reducible assumption
    | with_reducible apply serve_kept
    | with_reducible apply cmdBufShare_kept

theorem State.releaseAll_kept {s : State} {l : List (Nat × Nat)} (h0 : Kept aim s) : Kept aim (State.releaseAll s l).2 := by
  induction l generalizing s with
  | nil => exact h0
  | cons o r ih => exact ih (State.release_kept h0)

theorem cmdBufRelease_kept {c : Cmd} {s : State} (h0 : Kept aim s) : Kept aim (cmdBufRelease c s).st := by
  unfold cmdBufRelease
  repeat' first
    | with_reducible assumption
    | (with_reducible intro _)
    | with_reducible apply gate_kept
    | with_reducible apply Res.err_kept
    | with_reducible apply State.releaseAll_kept
    | with_reducible apply done_kept
    | split
    | dsimp only

theorem execBufRelease_kept {c : Cmd} {s : State} (h0 : Kept aim s) : KeptOut aim (execBufRelease c s) := by
  unfold execBufRelease
  repeat' first
    | with_reducible assumption
    | with_reducible apply serve_kept
    | with_reducible apply cmdBufRelease_kept

theorem cmdBufInfo_kept {c : Cmd} {s : State} (h0 : Kept aim s) : Kept aim (cmdBufInfo c s).st := by
  unfold cmdBufInfo
  repeat' first
    | with_reducible assumption
    | (with_reducible intro _)
    | with_reducible apply gate_kept
    | with_reducible apply Res.err_kept
    | with_reducible exact keep_rfl
    | split

theorem execBufInfo_kept {c : Cmd} {s : State} (h0 : Kept aim s) : KeptOut aim (execBufInfo c s) := by
  unfold execBufInfo
  repeat' first
    | with_reducible assumption
    | with_reducible apply serve_kept
    | with_reducible apply cmdBufInfo_kept

theorem cmdBufCellShareSet_kept {c : Cmd} {s : State} (h0 : Kept aim s) : Kept aim (cmdBufCellShareSet c s).st := by
  unfold cmdBufCellShareSet
  repeat' first
    | with_reducible assumption
    | (with_reducible intro _)
    | with_reducible apply gate_kept
    | with_reducible apply Res.err_kept
    | (simp only [kept_mk]; with_reducible refine keptMk_of ?_ ?_ ?_ ?_ ?_)
    | with_reducible exact keep_rfl
    | split

theorem execBufCellShareSet_kept {c : Cmd} {s : State} (h0 : Kept aim s) : KeptOut aim (execBufCellShareSet c s) := by
  unfold execBufCellShareSet
  repeat' first
    | with_reducible assumption
    | with_reducible apply serve_kept
    | with_reducible apply cmdBufCellShareSet_kept

theorem cmdPoolStatusGet_kept {c : Cmd} {s : State} (h0 : Kept aim s) : Kept aim (cmdPoolStatusGet c s).st := by
  unfold cmdPoolStatusGet
  repeat' first
    | with_reducible assumption
    | (with_reducible intro _)
    | with_reducible apply gate_kept
    | (simp only [kept_mk]; with_reducible refine keptMk_of ?_ ?_ ?_ ?_ ?_)
    | with_reducible exact keep_rfl

theorem execPoolStatusGet_kept {c : Cmd} {s : State} (h0 : Kept aim s) : KeptOut aim (execPoolStatusGet c s) := by
  unfold execPoolStatusGet
  repeat' first
    | with_reducible assumption
    | with_reducible apply serve_kept
    | with_reducible apply cmdPoolStatusGet_kept

theorem execRetainExpiry_kept {handle : Nat} {s : State} (h0 : Kept aim s) : KeptOut aim (execRetainExpiry handle s) := by
  unfold execRetainExpiry
  try dsimp only
  repeat' first
    | with_reducible assumption
    | (with_reducible intro _)
    | with_reducible apply kept_foldl
    | with_reducible apply State.setPoolBuf_kept
    | with_reducible apply State.release_kept
    | (with_reducible refine State.release_kept_eq ?_ (by assumption))
    | with_reducible apply done_kept
    | with_reducible apply State.bump_kept
    | with_reducible apply State.raiseLim_kept
    | with_reducible apply keptOut_next
    | with_reducible exact keptOut_fault
    | with_reducible exact keep_rfl
    | exact fun _ => by decide
    | exact by decide
    | split

end Sys2Proof.Machine
end

