-- ==== Sys2Proof/Laws/KeptTelOps.lean ====
section
/-! SUPPORT. What Machine/TelOps.lean leaves: the queue and the invariant (see Laws/Kept.lean). -/
namespace Sys2Proof.Machine
open Sys2Proof
variable {aim : Aim}

theorem State.telLost_kept {s : State} {l : List Nat} (h0 : Kept aim s) : Kept aim (State.telLost s l) := by
  unfold State.telLost
  dsimp only
  repeat' first
    | with_reducible assumption
    | (with_reducible intro _)
    | with_reducible apply kept_foldl
    | with_reducible apply State.count_kept
    | with_reducible apply State.raise_kept
    | (simp only [kept_mk]; with_reducible refine keptMk_of ?_ ?_ ?_ ?_ ?_)
    | with_reducible exact keep_rfl
    | split

theorem State.closeBlock_kept {s : State} (h0 : Kept aim s) : Kept aim (State.closeBlock s) := by
  unfold State.closeBlock
  repeat' first
    | with_reducible assumption
    | with_reducible apply State.setPoolBuf_kept
    | (simp only [kept_mk]; with_reducible refine keptMk_of ?_ ?_ ?_ ?_ ?_)
    | with_reducible exact keep_rfl
    | split

theorem State.openBlock_kept {s : State} (h0 : Kept aim s) : ∀ t, State.openBlock s = some t → Kept aim t := by
  intro t e
  unfold State.openBlock at e
  split at e
  · cases e
  · split at e
    · obtain ⟨x, hx, rfl⟩ := Option.map_eq_some_iff.mp e
      exact State.poolTake_kept h0 x hx
    · cases e
theorem State.openBlock_kept_eq {s a1 : State} (h0 : Kept aim s) (e : State.openBlock s = some a1) : Kept aim a1 :=
  State.openBlock_kept h0 _ e

theorem State.telPut_kept {s : State} {r : TelRec} (h0 : Kept aim s) : Kept aim (State.telPut s r).2 := by
  unfold State.telPut
  dsimp only
  have ht : Kept aim (if s.tel.blockBuf.isSome && !(32 + ((s.tel.block ++ [r]).flatMap TelRec.encode).length ≤ 4096 : Bool)
      then s.closeBlock else s) := by
    split
    · exact State.closeBlock_kept h0
    · exact h0
  generalize (if s.tel.blockBuf.isSome && !(32 + ((s.tel.block ++ [r]).flatMap TelRec.encode).length ≤ 4096 : Bool)
      then s.closeBlock else s) = t at *
  split
  · rename_i v e
    have hv : Kept aim v := by
      split at e
      · cases e; exact ht
      · exact State.openBlock_kept ht _ e
    exact hv
  · exact State.telLost_kept ht

theorem State.telPut_kept_eq {s : State} {r : TelRec} {a1 : Bool} {a2 : State}
    (h0 : Kept aim s) (e : State.telPut s r = (a1, a2)) : Kept aim a2 := by
  have x := State.telPut_kept (aim := aim) (s := s) (r := r) h0
  rw [e] at x
  exact x

theorem State.telRecord_kept {s : State} {r : TelRec} (h0 : Kept aim s) : Kept aim (State.telRecord s r) := by
  unfold State.telRecord
  try dsimp only
  repeat' first
    | with_reducible assumption
    | (with_reducible intro _)
    | with_reducible apply kept_foldl
    | with_reducible apply State.telPut_kept

theorem State.drainRing_kept {s : State} (h0 : Kept aim s) : Kept aim (State.drainRing s) := by
  unfold State.drainRing
  repeat' first
    | with_reducible assumption
    | (with_reducible intro _)
    | with_reducible apply kept_foldl
    | with_reducible apply State.telRecord_kept
    | (simp only [kept_mk]; with_reducible refine keptMk_of ?_ ?_ ?_ ?_ ?_)
    | with_reducible exact keep_rfl
    | split

theorem State.psample_kept {s : State} {body : Bytes} (h0 : Kept aim s) : Kept aim (State.psample s body) := by
  unfold State.psample
  repeat' first
    | with_reducible assumption
    | (with_reducible intro _)
    | with_reducible apply State.bump_kept
    | with_reducible apply State.raiseLim_kept
    | with_reducible apply State.drainRing_kept
    | (simp only [kept_mk]; with_reducible refine keptMk_of ?_ ?_ ?_ ?_ ?_)
    | with_reducible exact keep_rfl
    | split

theorem State.rollSamples_kept {s : State} {k : Nat} {x : SampleSet} (h0 : Kept aim s) :
    Kept aim (State.rollSamples s k x) := by
  unfold State.rollSamples
  try dsimp only
  repeat' first
    | with_reducible assumption
    | (with_reducible intro _)
    | with_reducible apply kept_foldl
    | with_reducible apply State.raiseLim_kept
    | with_reducible apply State.count_kept
    | with_reducible apply keptOut_next
    | with_reducible exact keptOut_fault
    | (simp only [kept_mk]; with_reducible refine keptMk_of ?_ ?_ ?_ ?_ ?_)
    | with_reducible exact keep_rfl
    | exact fun _ => by decide
    | exact by decide
    | split

theorem State.writeHist_kept {s : State} {k : Nat} (h0 : Kept aim s) : Kept aim (State.writeHist s k) := by
  unfold State.writeHist
  try dsimp only
  repeat' first
    | with_reducible assumption
    | (with_reducible intro _)
    | with_reducible apply kept_foldl
    | with_reducible apply State.telRecord_kept
    | with_reducible apply State.bump_kept
    | with_reducible apply keptOut_next
    | with_reducible exact keptOut_fault
    | (simp only [kept_mk]; with_reducible refine keptMk_of ?_ ?_ ?_ ?_ ?_)
    | with_reducible exact keep_rfl
    | exact fun _ => by decide
    | exact by decide
    | split

theorem State.rollHist_kept {s : State} {k : Nat} (h0 : Kept aim s) : Kept aim (State.rollHist s k) := by
  unfold State.rollHist
  try dsimp only
  repeat' first
    | with_reducible assumption
    | (with_reducible intro _)
    | with_reducible apply kept_foldl
    | with_reducible apply State.writeHist_kept
    | with_reducible apply keptOut_next
    | with_reducible exact keptOut_fault
    | (simp only [kept_mk]; with_reducible refine keptMk_of ?_ ?_ ?_ ?_ ?_)
    | with_reducible exact keep_rfl
    | exact fun _ => by decide
    | exact by decide
    | split

theorem State.rollWindows_kept {s : State} (h0 : Kept aim s) : Kept aim (State.rollWindows s) := by
  unfold State.rollWindows
  try dsimp only
  repeat' first
    | with_reducible assumption
    | (with_reducible intro _)
    | with_reducible apply kept_foldl
    | with_reducible apply State.rollSamples_kept
    | with_reducible apply State.rollHist_kept

end Sys2Proof.Machine
end

