-- ==== Sys2Proof/Laws/KeptHostIf.lean ====
section
/-! SUPPORT. What Machine/HostIf.lean leaves: the queue and the invariant (see Laws/Kept.lean). -/
namespace Sys2Proof.Machine
open Sys2Proof
variable {aim : Aim}

theorem cmdNop_kept {c : Cmd} {s : State} (h0 : Kept aim s) : Kept aim (cmdNop c s).st := by
  unfold cmdNop
  repeat' first
    | with_reducible assumption
    | (with_reducible intro _)
    | with_reducible apply gate_kept

theorem execNop_kept {c : Cmd} {s : State} (h0 : Kept aim s) : KeptOut aim (execNop c s) := by
  unfold execNop
  repeat' first
    | with_reducible assumption
    | with_reducible apply serve_kept
    | with_reducible apply cmdNop_kept

theorem cmdDeviceInfoGet_kept {c : Cmd} {s : State} (h0 : Kept aim s) : Kept aim (cmdDeviceInfoGet c s).st := by
  unfold cmdDeviceInfoGet
  try dsimp only
  repeat' first
    | with_reducible assumption
    | (with_reducible intro _)
    | with_reducible apply kept_foldl
    | with_reducible apply gate_kept

theorem execDeviceInfoGet_kept {c : Cmd} {s : State} (h0 : Kept aim s) : KeptOut aim (execDeviceInfoGet c s) := by
  unfold execDeviceInfoGet
  repeat' first
    | with_reducible assumption
    | with_reducible apply serve_kept
    | with_reducible apply cmdDeviceInfoGet_kept

theorem cmdEventMaskSet_kept {c : Cmd} {s : State} (h0 : Kept aim s) : Kept aim (cmdEventMaskSet c s).st := by
  unfold cmdEventMaskSet
  repeat' first
    | with_reducible assumption
    | (with_reducible intro _)
    | with_reducible apply gate_kept
    | with_reducible apply Res.err_kept
    | (simp only [kept_mk]; with_reducible refine keptMk_of ?_ ?_ ?_ ?_ ?_)
    | with_reducible exact keep_rfl
    | split

theorem execEventMaskSet_kept {c : Cmd} {s : State} (h0 : Kept aim s) : KeptOut aim (execEventMaskSet c s) := by
  unfold execEventMaskSet
  repeat' first
    | with_reducible assumption
    | with_reducible apply serve_kept
    | with_reducible apply cmdEventMaskSet_kept

theorem cmdEventMaskGet_kept {c : Cmd} {s : State} (h0 : Kept aim s) : Kept aim (cmdEventMaskGet c s).st := by
  unfold cmdEventMaskGet
  repeat' first
    | with_reducible assumption
    | (with_reducible intro _)
    | with_reducible apply gate_kept

theorem execEventMaskGet_kept {c : Cmd} {s : State} (h0 : Kept aim s) : KeptOut aim (execEventMaskGet c s) := by
  unfold execEventMaskGet
  repeat' first
    | with_reducible assumption
    | with_reducible apply serve_kept
    | with_reducible apply cmdEventMaskGet_kept

theorem cmdEcho_kept {c : Cmd} {s : State} (h0 : Kept aim s) : Kept aim (cmdEcho c s).st := by
  unfold cmdEcho
  repeat' first
    | with_reducible assumption
    | (with_reducible intro _)
    | with_reducible apply gate_kept

theorem execEcho_kept {c : Cmd} {s : State} (h0 : Kept aim s) : KeptOut aim (execEcho c s) := by
  unfold execEcho
  repeat' first
    | with_reducible assumption
    | with_reducible apply serve_kept
    | with_reducible apply cmdEcho_kept

theorem State.eventRoom_kept {s : State} (h0 : Kept aim s) : Kept aim (State.eventRoom s) := by
  unfold State.eventRoom
  repeat' first
    | with_reducible assumption
    | with_reducible apply State.writeEvent_kept
    | split

theorem State.writeCmdBase_kept {s : State} {w : RegWrite} (h0 : Kept aim s) : Kept aim (State.writeCmdBase s w) := by
  unfold State.writeCmdBase
  dsimp only
  split
  · exact kept_hif h0 rfl fun ⟨b1, b2, b3, b4, b5, b6⟩ => ⟨b1, b2, b3, b4, b5, b6⟩
  · split
    · exact kept_hif h0 rfl fun ⟨b1, b2, b3, b4, b5, b6⟩ => ⟨b1, b2, (Ring.write_idx (r := { s.hif.cmdRing with upper := (regValue s.hif.cmdRing.upper w).2 }) b3 b4).1, (Ring.write_idx (r := { s.hif.cmdRing with upper := (regValue s.hif.cmdRing.upper w).2 }) b3 b4).2, b5, b6⟩
    · exact kept_hif h0 rfl fun ⟨b1, b2, b3, b4, b5, b6⟩ => ⟨b1, b2, (Ring.write_idx (r := { s.hif.cmdRing with upper := (regValue s.hif.cmdRing.upper w).2 }) b3 b4).1, (Ring.write_idx (r := { s.hif.cmdRing with upper := (regValue s.hif.cmdRing.upper w).2 }) b3 b4).2, b5, b6⟩

theorem State.writeEvtBase_kept {s : State} {w : RegWrite} (h0 : Kept aim s) : Kept aim (State.writeEvtBase s w) := by
  unfold State.writeEvtBase
  dsimp only
  split
  · exact kept_hif h0 rfl fun ⟨b1, b2, b3, b4, b5, b6⟩ => ⟨b1, b2, b3, b4, b5, b6⟩
  · split
    · refine State.eventRoom_kept ?_
      exact kept_hif h0 rfl fun ⟨b1, b2, b3, b4, b5, b6⟩ => ⟨b1, b2, b3, b4, (Ring.write_idx (r := { s.hif.evtRing with upper := (regValue s.hif.evtRing.upper w).2 }) b5 b6).1, (Ring.write_idx (r := { s.hif.evtRing with upper := (regValue s.hif.evtRing.upper w).2 }) b5 b6).2⟩
    · exact kept_hif h0 rfl fun ⟨b1, b2, b3, b4, b5, b6⟩ => ⟨b1, b2, b3, b4, (Ring.write_idx (r := { s.hif.evtRing with upper := (regValue s.hif.evtRing.upper w).2 }) b5 b6).1, (Ring.write_idx (r := { s.hif.evtRing with upper := (regValue s.hif.evtRing.upper w).2 }) b5 b6).2⟩

theorem execHifCmdRingBase_kept {w : RegWrite} {s : State} (h0 : Kept aim s) : KeptOut aim (execHifCmdRingBase w s) := by
  unfold execHifCmdRingBase
  repeat' first
    | with_reducible assumption
    | with_reducible apply done_kept
    | with_reducible apply State.writeCmdBase_kept
    | with_reducible apply keptOut_next
    | split

theorem execHifEvtRingBase_kept {w : RegWrite} {s : State} (h0 : Kept aim s) : KeptOut aim (execHifEvtRingBase w s) := by
  unfold execHifEvtRingBase
  repeat' first
    | with_reducible assumption
    | with_reducible apply done_kept
    | with_reducible apply State.writeEvtBase_kept
    | with_reducible apply keptOut_next
    | split

theorem State.writeHealth_kept {s : State} {v : Nat} (h0 : Kept aim s) : Kept aim (State.writeHealth s v) :=
  kept_hif h0 rfl fun ⟨b1, _, b3, b4, b5, b6⟩ => ⟨b1, healthKeep_lt, b3, b4, b5, b6⟩

theorem execHifHealth_kept {v : BitVec 32} {s : State} (h0 : Kept aim s) : KeptOut aim (execHifHealth v s) := by
  unfold execHifHealth
  repeat' first
    | with_reducible assumption
    | with_reducible apply done_kept
    | with_reducible apply State.writeHealth_kept
    | with_reducible apply keptOut_next
    | split

theorem State.setHealth_kept {s : State} {b : Nat} (hb : b < 4) (h0 : Kept aim s) : Kept aim (State.setHealth s b) :=
  kept_hif h0 rfl fun ⟨b1, b2, b3, b4, b5, b6⟩ =>
    ⟨b1, Nat.or_lt_two_pow (n := 4) b2 (Nat.pow_lt_pow_right (by decide) hb), b3, b4, b5, b6⟩

theorem State.doorbellIgnored_kept {s : State} (h0 : Kept aim s) : Kept aim (State.doorbellIgnored s) := by
  unfold State.doorbellIgnored
  repeat' first
    | with_reducible assumption
    | with_reducible apply State.setHealth_kept
    | with_reducible apply State.bump_kept
    | exact by decide

theorem State.doorbellCmd_kept {s : State} {channel rsv index : Nat} (h0 : Kept aim s) :
    Kept aim (State.doorbellCmd s channel rsv index) := by
  unfold State.doorbellCmd
  dsimp only
  repeat' first
    | with_reducible assumption
    | with_reducible apply State.doorbellIgnored_kept
    | with_reducible apply State.setHealth_kept
    | with_reducible apply State.raise_kept
    | (simp only [kept_mk]; with_reducible refine keptMk_of ?_ ?_ ?_ ?_ ?_)
    | with_reducible exact keep_rfl
    | (with_reducible refine keep_hif ?_; rintro ⟨b1, b2, b3, b4, b5, b6⟩; refine ⟨?_, ?_, ?_, ?_, ?_, ?_⟩ <;> dsimp only <;> first | assumption | omega)
    | exact by decide
    | split

theorem State.doorbellEvt_kept {s : State} {channel rsv index : Nat} (h0 : Kept aim s) :
    Kept aim (State.doorbellEvt s channel rsv index) := by
  unfold State.doorbellEvt
  dsimp only
  repeat' first
    | with_reducible assumption
    | with_reducible apply State.doorbellIgnored_kept
    | with_reducible apply State.eventRoom_kept
    | (simp only [kept_mk]; with_reducible refine keptMk_of ?_ ?_ ?_ ?_ ?_)
    | with_reducible exact keep_rfl
    | (with_reducible refine keep_hif ?_; rintro ⟨b1, b2, b3, b4, b5, b6⟩; refine ⟨?_, ?_, ?_, ?_, ?_, ?_⟩ <;> dsimp only <;> first | assumption | omega)
    | split

theorem execCommandProducerIndex_kept {channel rsv index : Nat} {s : State} (h0 : Kept aim s) :
    KeptOut aim (execCommandProducerIndex channel rsv index s) := by
  unfold execCommandProducerIndex
  repeat' first
    | with_reducible assumption
    | with_reducible apply done_kept
    | with_reducible apply State.doorbellCmd_kept
    | with_reducible apply keptOut_next
    | split

theorem execEventConsumerIndex_kept {channel rsv index : Nat} {s : State} (h0 : Kept aim s) :
    KeptOut aim (execEventConsumerIndex channel rsv index s) := by
  unfold execEventConsumerIndex
  repeat' first
    | with_reducible assumption
    | with_reducible apply done_kept
    | with_reducible apply State.doorbellEvt_kept
    | with_reducible apply keptOut_next
    | split

theorem State.setChan_kept {s : State} {c : Nat} {x : Chan} (h0 : Kept aim s) : Kept aim (State.setChan s c x) := h0

theorem State.chanDrop_kept {s : State} {c code : Nat} (h0 : Kept aim s) : Kept aim (State.chanDrop s c code) := h0

theorem State.dropHeld_kept {s : State} {c code : Nat} {h : Held} (h0 : Kept aim s) : Kept aim (State.dropHeld s c code h) := by
  unfold State.dropHeld
  dsimp only
  repeat' first
    | with_reducible assumption
    | with_reducible apply State.release_kept
    | (with_reducible refine State.release_kept_eq ?_ (by assumption))
    | with_reducible apply State.telLost_kept
    | with_reducible apply State.bump_kept
    | with_reducible apply State.chanDrop_kept
    | (simp only [kept_mk]; with_reducible refine keptMk_of ?_ ?_ ?_ ?_ ?_)
    | with_reducible exact keep_rfl
    | split

theorem State.freeHandles_kept {s : State} {c : Nat} {l : List Posted} (h0 : Kept aim s) :
    Kept aim (State.freeHandles s c l) := by
  unfold State.freeHandles
  try dsimp only
  repeat' first
    | with_reducible assumption
    | (with_reducible intro _)
    | with_reducible apply kept_foldl
    | with_reducible apply State.release_kept
    | (with_reducible refine State.release_kept_eq ?_ (by assumption))
    | with_reducible apply keptOut_next
    | with_reducible exact keptOut_fault
    | with_reducible exact keep_rfl
    | exact fun _ => by decide
    | exact by decide
    | split

theorem State.cutReading_kept {s : State} {c : Nat} (h0 : Kept aim s) : Kept aim (State.cutReading s c) := by
  unfold State.cutReading
  try dsimp only
  repeat' first
    | with_reducible assumption
    | (with_reducible intro _)
    | with_reducible apply kept_foldl
    | with_reducible apply State.setChan_kept

theorem State.chanOff_kept {s : State} {c : Nat} {finish : Bool} (h0 : Kept aim s) : Kept aim (State.chanOff s c finish) := by
  unfold State.chanOff
  dsimp only
  repeat' first
    | with_reducible assumption
    | (with_reducible intro _)
    | with_reducible apply kept_foldl
    | with_reducible apply Res.finish_kept
    | with_reducible apply State.setChan_kept
    | with_reducible apply State.dropHeld_kept

theorem State.puntHead_kept {s : State} {c : Nat} (h0 : Kept aim s) : Kept aim (State.puntHead s c) := by
  unfold State.puntHead
  dsimp only
  repeat' first
    | with_reducible assumption
    | (with_reducible intro _)
    | with_reducible apply State.setChan_kept
    | with_reducible apply State.dropHeld_kept
    | with_reducible exact keep_rfl
    | split

theorem execPuntFrameAtHead_kept {channel : Nat} {s : State} (h0 : Kept aim s) :
    KeptOut aim (execPuntFrameAtHead channel s) := by
  unfold execPuntFrameAtHead
  try dsimp only
  repeat' first
    | with_reducible assumption
    | (with_reducible intro _)
    | with_reducible apply kept_foldl
    | with_reducible apply done_kept
    | with_reducible apply State.puntHead_kept
    | with_reducible apply keptOut_next
    | with_reducible exact keptOut_fault
    | with_reducible exact keep_rfl
    | exact fun _ => by decide
    | exact by decide
    | split

theorem execPuntHoldExpiry_kept {channel : Nat} {s : State} (h0 : Kept aim s) : KeptOut aim (execPuntHoldExpiry channel s) := by
  unfold execPuntHoldExpiry
  try dsimp only
  repeat' first
    | with_reducible assumption
    | (with_reducible intro _)
    | with_reducible apply kept_foldl
    | with_reducible apply done_kept
    | with_reducible apply State.setChan_kept
    | with_reducible apply State.dropHeld_kept
    | with_reducible apply State.raiseLim_kept
    | with_reducible apply keptOut_next
    | with_reducible exact keptOut_fault
    | with_reducible exact keep_rfl
    | exact fun _ => by decide
    | exact by decide
    | split

theorem execPuntDmaComplete_kept {channel : Nat} {s : State} (h0 : Kept aim s) :
    KeptOut aim (execPuntDmaComplete channel s) := by
  unfold execPuntDmaComplete
  try dsimp only
  repeat' first
    | with_reducible assumption
    | (with_reducible intro _)
    | with_reducible apply kept_foldl
    | with_reducible apply done_kept
    | with_reducible apply State.cutReading_kept
    | with_reducible apply State.dropHeld_kept
    | with_reducible apply State.setChan_kept
    | with_reducible apply State.setPoolBuf_kept
    | with_reducible apply State.release_kept
    | (with_reducible refine State.release_kept_eq ?_ (by assumption))
    | with_reducible apply State.count_kept
    | with_reducible apply State.bump_kept
    | with_reducible apply State.signal_kept
    | with_reducible apply keptOut_next
    | with_reducible exact keptOut_fault
    | (simp only [kept_mk]; with_reducible refine keptMk_of ?_ ?_ ?_ ?_ ?_)
    | with_reducible exact keep_rfl
    | exact fun _ => by decide
    | exact by decide
    | split

theorem State.doorbellChan_kept {s : State} {channel rsv index : Nat} {descs : List Desc} (h0 : Kept aim s) :
    Kept aim (State.doorbellChan s channel rsv index descs) := by
  unfold State.doorbellChan
  dsimp only
  repeat' first
    | with_reducible assumption
    | (with_reducible intro _)
    | with_reducible apply State.doorbellIgnored_kept
    | with_reducible apply State.setChan_kept
    | with_reducible apply State.puntHead_kept
    | with_reducible exact keep_rfl
    | split

theorem execChannelProducerIndex_kept {channel rsv index : Nat} {descs : List Desc} {s : State} (h0 : Kept aim s) :
    KeptOut aim (execChannelProducerIndex channel rsv index descs s) := by
  unfold execChannelProducerIndex
  repeat' first
    | with_reducible assumption
    | with_reducible apply done_kept
    | with_reducible apply State.doorbellChan_kept
    | with_reducible apply keptOut_next
    | split

theorem State.injectDone_kept {s : State} {c status : Nat} {ts : Bool} {l : List Posted} (h0 : Kept aim s) :
    Kept aim (State.injectDone s c status ts l) := by
  unfold State.injectDone
  dsimp only
  repeat' first
    | with_reducible assumption
    | with_reducible apply State.setChan_kept
    | with_reducible apply State.signal_kept
    | (simp only [kept_mk]; with_reducible refine keptMk_of ?_ ?_ ?_ ?_ ?_)
    | with_reducible exact keep_rfl

theorem execInjectHoldExpiry_kept {channel : Nat} {s : State} (h0 : Kept aim s) :
    KeptOut aim (execInjectHoldExpiry channel s) := by
  unfold execInjectHoldExpiry
  try dsimp only
  repeat' first
    | with_reducible assumption
    | (with_reducible intro _)
    | with_reducible apply kept_foldl
    | with_reducible apply State.setChan_kept
    | with_reducible apply done_kept
    | with_reducible apply State.injectDone_kept
    | with_reducible apply State.chanDrop_kept
    | with_reducible apply State.freeHandles_kept
    | with_reducible apply keptOut_next
    | with_reducible exact keptOut_fault
    | with_reducible exact keep_rfl
    | exact fun _ => by decide
    | exact by decide
    | split

theorem execDmaError_kept {channel : Option Nat} {addr : Nat} {err : PcieErr} {s : State} (h0 : Kept aim s) :
    KeptOut aim (execDmaError channel addr err s) := by
  unfold execDmaError
  try dsimp only
  repeat' first
    | with_reducible assumption
    | (with_reducible intro _)
    | with_reducible apply kept_foldl
    | with_reducible apply Res.err_kept
    | with_reducible apply State.setHealth_kept
    | with_reducible apply State.bump_kept
    | with_reducible apply done_kept
    | with_reducible apply State.raise_kept
    | with_reducible apply State.chanDrop_kept
    | with_reducible apply State.freeHandles_kept
    | with_reducible apply State.chanOff_kept
    | with_reducible apply keptOut_next
    | with_reducible exact keptOut_fault
    | (simp only [kept_mk]; with_reducible refine keptMk_of ?_ ?_ ?_ ?_ ?_)
    | with_reducible exact keep_rfl
    | exact fun _ => by decide
    | exact by decide
    | split

theorem State.linkReset_kept {s : State} (h0 : Kept aim s) : Kept aim (State.linkReset s) := by
  unfold State.linkReset
  dsimp only
  repeat' first
    | with_reducible assumption
    | (with_reducible intro _)
    | with_reducible apply kept_foldl
    | with_reducible apply State.chanOff_kept
    | with_reducible apply State.bump_kept
    | (simp only [kept_mk]; with_reducible refine keptMk_of ?_ ?_ ?_ ?_ ?_)
    | with_reducible exact keep_rfl

theorem execFunctionLevelReset_kept {s : State} (h0 : Kept aim s) : KeptOut aim (execFunctionLevelReset s) := by
  unfold execFunctionLevelReset
  repeat' first
    | with_reducible assumption
    | with_reducible apply done_kept
    | with_reducible apply State.linkReset_kept

theorem execPcieLinkLoss_kept {s : State} (h0 : Kept aim s) : KeptOut aim (execPcieLinkLoss s) := by
  unfold execPcieLinkLoss
  dsimp only
  repeat' first
    | with_reducible assumption
    | with_reducible apply State.linkReset_kept
    | with_reducible apply done_kept
    | (simp only [kept_mk]; with_reducible refine keptMk_of ?_ ?_ ?_ ?_ ?_)
    | with_reducible exact keep_rfl

theorem execBusMasterOff_kept {s : State} (h0 : Kept aim s) : KeptOut aim (execBusMasterOff s) := by
  unfold execBusMasterOff
  repeat' first
    | with_reducible assumption
    | with_reducible apply done_kept
    | with_reducible apply State.linkReset_kept

theorem execPcieLinkUp_kept {s : State} (h0 : Kept aim s) : KeptOut aim (execPcieLinkUp s) := by
  unfold execPcieLinkUp
  repeat' first
    | with_reducible assumption
    | with_reducible apply done_kept
    | with_reducible apply keptOut_next
    | (simp only [kept_mk]; with_reducible refine keptMk_of ?_ ?_ ?_ ?_ ?_)
    | with_reducible exact keep_rfl
    | split

theorem cmdDmaChannelSet_kept {c : Cmd} {s : State} (h0 : Kept aim s) : Kept aim (cmdDmaChannelSet c s).st := by
  unfold cmdDmaChannelSet
  repeat' first
    | with_reducible assumption
    | (with_reducible intro _)
    | with_reducible apply gate_kept
    | with_reducible apply Res.err_kept
    | with_reducible apply State.setChan_kept
    | with_reducible exact keep_rfl
    | split
    | dsimp only

theorem execDmaChannelSet_kept {c : Cmd} {s : State} (h0 : Kept aim s) : KeptOut aim (execDmaChannelSet c s) := by
  unfold execDmaChannelSet
  repeat' first
    | with_reducible assumption
    | with_reducible apply serve_kept
    | with_reducible apply cmdDmaChannelSet_kept

theorem cmdDmaChannelEnable_kept {c : Cmd} {s : State} (h0 : Kept aim s) : Kept aim (cmdDmaChannelEnable c s).st := by
  unfold cmdDmaChannelEnable
  repeat' first
    | with_reducible assumption
    | (with_reducible intro _)
    | with_reducible apply gate_kept
    | with_reducible apply Res.err_kept
    | with_reducible apply State.setChan_kept
    | with_reducible apply State.chanOff_kept
    | with_reducible exact keep_rfl
    | split
    | dsimp only

theorem execDmaChannelEnable_kept {c : Cmd} {s : State} (h0 : Kept aim s) : KeptOut aim (execDmaChannelEnable c s) := by
  unfold execDmaChannelEnable
  repeat' first
    | with_reducible assumption
    | with_reducible apply serve_kept
    | with_reducible apply cmdDmaChannelEnable_kept

theorem cmdDmaChannelStatusGet_kept {c : Cmd} {s : State} (h0 : Kept aim s) : Kept aim (cmdDmaChannelStatusGet c s).st := by
  unfold cmdDmaChannelStatusGet
  repeat' first
    | with_reducible assumption
    | (with_reducible intro _)
    | with_reducible apply gate_kept
    | with_reducible apply Res.err_kept
    | split
    | dsimp only

theorem execDmaChannelStatusGet_kept {c : Cmd} {s : State} (h0 : Kept aim s) : KeptOut aim (execDmaChannelStatusGet c s) := by
  unfold execDmaChannelStatusGet
  repeat' first
    | with_reducible assumption
    | with_reducible apply serve_kept
    | with_reducible apply cmdDmaChannelStatusGet_kept

theorem cmdMsixModerationSet_kept {c : Cmd} {s : State} (h0 : Kept aim s) : Kept aim (cmdMsixModerationSet c s).st := by
  unfold cmdMsixModerationSet
  repeat' first
    | with_reducible assumption
    | (with_reducible intro _)
    | with_reducible apply gate_kept
    | with_reducible apply Res.err_kept
    | with_reducible apply State.count_kept
    | with_reducible apply State.setVec_kept
    | with_reducible apply State.sendMsix_kept
    | with_reducible exact keep_rfl
    | split
    | dsimp only

theorem execMsixModerationSet_kept {c : Cmd} {s : State} (h0 : Kept aim s) : KeptOut aim (execMsixModerationSet c s) := by
  unfold execMsixModerationSet
  repeat' first
    | with_reducible assumption
    | with_reducible apply serve_kept
    | with_reducible apply cmdMsixModerationSet_kept

theorem cmdHifCountersGet_kept {c : Cmd} {s : State} (h0 : Kept aim s) : Kept aim (cmdHifCountersGet c s).st := by
  unfold cmdHifCountersGet
  repeat' first
    | with_reducible assumption
    | (with_reducible intro _)
    | with_reducible apply gate_kept

theorem execHifCountersGet_kept {c : Cmd} {s : State} (h0 : Kept aim s) : KeptOut aim (execHifCountersGet c s) := by
  unfold execHifCountersGet
  repeat' first
    | with_reducible assumption
    | with_reducible apply serve_kept
    | with_reducible apply cmdHifCountersGet_kept

theorem execMsixTimer_kept {vector : Nat} {s : State} (h0 : Kept aim s) : KeptOut aim (execMsixTimer vector s) := by
  unfold execMsixTimer
  repeat' first
    | with_reducible assumption
    | with_reducible apply done_kept
    | with_reducible apply State.sendMsix_kept
    | with_reducible apply keptOut_next
    | with_reducible exact keptOut_fault
    | split

theorem State.punt_kept {s : State} {c : Nat} {parse : Bytes} {rxT32 : T32} {iface cls : Nat} {byHit : Bool}
    {frame : Bytes} (h0 : Kept aim s) : Kept aim (State.punt s c parse rxT32 iface cls byHit frame) := by
  unfold State.punt
  repeat' first
    | with_reducible assumption
    | with_reducible apply State.chanDrop_kept
    | with_reducible apply State.poolAlloc_kept
    | (with_reducible refine State.poolAlloc_kept_eq ?_ (by assumption))
    | with_reducible apply State.drop3B_kept
    | with_reducible apply State.setPoolBuf_kept
    | with_reducible apply State.setChan_kept
    | with_reducible exact keep_rfl
    | split
    | dsimp only

end Sys2Proof.Machine
end

