-- ==== Sys2Proof/Laws/KeptPorts.lean ====
section
/-! SUPPORT. What Machine/Ports.lean leaves: the queue and the invariant (see Laws/Kept.lean). -/
namespace Sys2Proof.Machine
open Sys2Proof
variable {aim : Aim}

theorem State.regroup_kept {s : State} {g newMode : Nat} (h0 : Kept aim s) : Kept aim (State.regroup s g newMode) := by
  unfold State.regroup
  try dsimp only
  repeat' first
    | with_reducible assumption
    | (with_reducible intro _)
    | with_reducible apply kept_foldl
    | with_reducible apply State.setPrt_kept
    | with_reducible apply keptOut_next
    | with_reducible exact keptOut_fault
    | (simp only [kept_mk]; with_reducible refine keptMk_of ?_ ?_ ?_ ?_ ?_)
    | with_reducible exact keep_rfl
    | exact fun _ => by decide
    | exact by decide
    | split

theorem cmdPortGroupSetMode_kept {c : Cmd} {s : State} (h0 : Kept aim s) : Kept aim (cmdPortGroupSetMode c s).st := by
  unfold cmdPortGroupSetMode
  try dsimp only
  repeat' first
    | with_reducible assumption
    | (with_reducible intro _)
    | with_reducible apply kept_foldl
    | with_reducible apply gate_kept
    | with_reducible apply Res.err_kept
    | with_reducible apply State.portDown_kept
    | with_reducible apply State.clearTx_kept
    | with_reducible apply State.zeroKeys_kept
    | with_reducible apply State.regroup_kept
    | with_reducible apply State.setGrp_kept
    | with_reducible apply State.activateModule_kept
    | with_reducible apply State.retrainLost_kept
    | with_reducible apply State.fixCond_kept
    | with_reducible apply State.saveSettings_kept
    | with_reducible apply keptOut_next
    | with_reducible exact keptOut_fault
    | with_reducible exact keep_rfl
    | exact fun _ => by decide
    | exact by decide
    | split

theorem execPortGroupSetMode_kept {c : Cmd} {s : State} (h0 : Kept aim s) : KeptOut aim (execPortGroupSetMode c s) := by
  unfold execPortGroupSetMode
  repeat' first
    | with_reducible assumption
    | with_reducible apply serve_kept
    | with_reducible apply cmdPortGroupSetMode_kept

theorem cmdPortConfig_kept {c : Cmd} {s : State} (h0 : Kept aim s) : Kept aim (cmdPortConfig c s).st := by
  unfold cmdPortConfig
  try dsimp only
  repeat' first
    | with_reducible assumption
    | (with_reducible intro _)
    | with_reducible apply kept_foldl
    | with_reducible apply gate_kept
    | with_reducible apply Res.err_kept
    | with_reducible apply State.setPrt_kept
    | with_reducible apply State.endLpi_kept
    | with_reducible apply State.saveSettings_kept
    | with_reducible apply keptOut_next
    | with_reducible exact keptOut_fault
    | with_reducible exact keep_rfl
    | exact fun _ => by decide
    | exact by decide
    | split

theorem execPortConfig_kept {c : Cmd} {s : State} (h0 : Kept aim s) : KeptOut aim (execPortConfig c s) := by
  unfold execPortConfig
  repeat' first
    | with_reducible assumption
    | with_reducible apply serve_kept
    | with_reducible apply cmdPortConfig_kept

theorem cmdPortAdmin_kept {c : Cmd} {s : State} (h0 : Kept aim s) : Kept aim (cmdPortAdmin c s).st := by
  unfold cmdPortAdmin
  repeat' first
    | with_reducible assumption
    | (with_reducible intro _)
    | with_reducible apply gate_kept
    | with_reducible apply Res.err_kept
    | with_reducible apply State.updPrt_kept
    | with_reducible apply State.retrainLost_kept
    | with_reducible apply State.startUpHold_kept
    | with_reducible apply State.portDown_kept
    | with_reducible apply State.saveSettings_kept
    | with_reducible exact keep_rfl
    | split
    | dsimp only

theorem execPortAdmin_kept {c : Cmd} {s : State} (h0 : Kept aim s) : KeptOut aim (execPortAdmin c s) := by
  unfold execPortAdmin
  repeat' first
    | with_reducible assumption
    | with_reducible apply serve_kept
    | with_reducible apply cmdPortAdmin_kept

theorem cmdPortStatusGet_kept {c : Cmd} {s : State} (h0 : Kept aim s) : Kept aim (cmdPortStatusGet c s).st := by
  unfold cmdPortStatusGet
  repeat' first
    | with_reducible assumption
    | (with_reducible intro _)
    | with_reducible apply gate_kept
    | with_reducible apply Res.err_kept
    | split

theorem execPortStatusGet_kept {c : Cmd} {s : State} (h0 : Kept aim s) : KeptOut aim (execPortStatusGet c s) := by
  unfold execPortStatusGet
  repeat' first
    | with_reducible assumption
    | with_reducible apply serve_kept
    | with_reducible apply cmdPortStatusGet_kept

theorem cmdPortCountersGet_kept {c : Cmd} {s : State} (h0 : Kept aim s) : Kept aim (cmdPortCountersGet c s).st := by
  unfold cmdPortCountersGet
  repeat' first
    | with_reducible assumption
    | (with_reducible intro _)
    | with_reducible apply gate_kept
    | with_reducible apply Res.err_kept
    | split

theorem execPortCountersGet_kept {c : Cmd} {s : State} (h0 : Kept aim s) : KeptOut aim (execPortCountersGet c s) := by
  unfold execPortCountersGet
  repeat' first
    | with_reducible assumption
    | with_reducible apply serve_kept
    | with_reducible apply cmdPortCountersGet_kept

theorem cmdPortRateRestore_kept {c : Cmd} {s : State} (h0 : Kept aim s) : Kept aim (cmdPortRateRestore c s).st := by
  unfold cmdPortRateRestore
  repeat' first
    | with_reducible assumption
    | (with_reducible intro _)
    | with_reducible apply gate_kept
    | with_reducible apply Res.err_kept
    | with_reducible apply State.setGrp_kept
    | with_reducible apply State.rateChange_kept
    | with_reducible apply State.raise_kept
    | with_reducible exact keep_rfl
    | split
    | dsimp only

theorem execPortRateRestore_kept {c : Cmd} {s : State} (h0 : Kept aim s) : KeptOut aim (execPortRateRestore c s) := by
  unfold execPortRateRestore
  repeat' first
    | with_reducible assumption
    | with_reducible apply serve_kept
    | with_reducible apply cmdPortRateRestore_kept

theorem onPort_kept {p : Nat} {s : State} {f : State → Out} (hf : KeptOut aim (f s)) : KeptOut aim (onPort p s f) := by
  unfold onPort
  split
  · exact keptOut_fault
  · exact hf

theorem execLinkConditionsMet_kept {port : Nat} {s : State} (h0 : Kept aim s) : KeptOut aim (execLinkConditionsMet port s) := by
  unfold execLinkConditionsMet
  repeat' first
    | with_reducible assumption
    | (with_reducible intro _)
    | with_reducible apply onPort_kept
    | with_reducible apply State.updPrt_kept
    | with_reducible apply done_kept
    | with_reducible apply State.startUpHold_kept
    | with_reducible apply keptOut_next
    | with_reducible exact keep_rfl
    | split

theorem execLinkUpHoldExpiry_kept {port : Nat} {s : State} (h0 : Kept aim s) : KeptOut aim (execLinkUpHoldExpiry port s) := by
  unfold execLinkUpHoldExpiry
  try dsimp only
  repeat' first
    | with_reducible assumption
    | (with_reducible intro _)
    | with_reducible apply kept_foldl
    | with_reducible apply onPort_kept
    | with_reducible apply State.setPrt_kept
    | with_reducible apply State.setGrp_kept
    | with_reducible apply done_kept
    | with_reducible apply State.lagsUp_kept
    | with_reducible apply State.raise_kept
    | with_reducible apply keptOut_next
    | with_reducible exact keptOut_fault
    | with_reducible exact keep_rfl
    | exact fun _ => by decide
    | exact by decide
    | split

theorem State.loseLink_kept {s : State} {p reason : Nat} (h0 : Kept aim s) : Kept aim (State.loseLink s p reason) := by
  unfold State.loseLink
  try dsimp only
  repeat' first
    | with_reducible assumption
    | (with_reducible intro _)
    | with_reducible apply kept_foldl
    | with_reducible apply State.portDown_kept
    | with_reducible apply State.retrainLost_kept
    | with_reducible apply State.setPrt_kept
    | with_reducible apply keptOut_next
    | with_reducible exact keptOut_fault
    | with_reducible exact keep_rfl
    | exact fun _ => by decide
    | exact by decide
    | split

theorem execLinkConditionLost_kept {port : Nat} {fault : Bool} {lanesLost : List Nat} {s : State} (h0 : Kept aim s) :
    KeptOut aim (execLinkConditionLost port fault lanesLost s) := by
  unfold execLinkConditionLost
  repeat' first
    | with_reducible assumption
    | (with_reducible intro _)
    | with_reducible apply onPort_kept
    | with_reducible apply State.updPrt_kept
    | with_reducible apply done_kept
    | with_reducible apply State.loseLink_kept
    | with_reducible apply keptOut_next
    | with_reducible exact keep_rfl
    | split

theorem execLinkDownHoldExpiry_kept {port : Nat} {s : State} (h0 : Kept aim s) :
    KeptOut aim (execLinkDownHoldExpiry port s) := by
  unfold execLinkDownHoldExpiry
  repeat' first
    | with_reducible assumption
    | (with_reducible intro _)
    | with_reducible apply onPort_kept
    | with_reducible apply done_kept
    | with_reducible apply State.portDown_kept
    | with_reducible apply State.retrainLost_kept
    | with_reducible apply keptOut_next
    | with_reducible exact keep_rfl
    | split
    | dsimp only

theorem execRemoteFault_kept {port : Nat} {s : State} (h0 : Kept aim s) : KeptOut aim (execRemoteFault port s) := by
  unfold execRemoteFault
  repeat' first
    | with_reducible assumption
    | (with_reducible intro _)
    | with_reducible apply onPort_kept
    | with_reducible apply done_kept
    | with_reducible apply State.updPrt_kept
    | with_reducible apply State.loseLink_kept
    | with_reducible apply keptOut_next
    | with_reducible exact keep_rfl
    | split

theorem execRemoteFaultCleared_kept {port : Nat} {s : State} (h0 : Kept aim s) :
    KeptOut aim (execRemoteFaultCleared port s) := by
  unfold execRemoteFaultCleared
  repeat' first
    | with_reducible assumption
    | (with_reducible intro _)
    | with_reducible apply onPort_kept
    | with_reducible apply done_kept
    | with_reducible apply State.updPrt_kept
    | with_reducible apply State.startUpHold_kept
    | with_reducible apply keptOut_next
    | with_reducible exact keep_rfl
    | split

theorem State.fecReport_kept {s : State} {p : Nat} {f : Fec} (h0 : Kept aim s) : Kept aim (State.fecReport s p f) := by
  unfold State.fecReport
  try dsimp only
  repeat' first
    | with_reducible assumption
    | (with_reducible intro _)
    | with_reducible apply kept_foldl
    | with_reducible apply State.count_kept
    | with_reducible apply State.updPrt_kept

theorem execFecThreshold_kept {report : PortFec} {s : State} (h0 : Kept aim s) : KeptOut aim (execFecThreshold report s) := by
  unfold execFecThreshold
  try dsimp only
  repeat' first
    | with_reducible assumption
    | (with_reducible intro _)
    | with_reducible apply kept_foldl
    | with_reducible apply onPort_kept
    | with_reducible apply State.fecReport_kept
    | with_reducible apply done_kept
    | with_reducible apply State.portDown_kept
    | with_reducible apply State.updPrt_kept
    | with_reducible apply State.train_kept
    | with_reducible apply keptOut_next
    | with_reducible exact keptOut_fault
    | with_reducible exact keep_rfl
    | exact fun _ => by decide
    | exact by decide
    | split

theorem State.attemptEnd_kept {s : State} {p : Nat} (h0 : Kept aim s) : Kept aim (State.attemptEnd s p) := by
  unfold State.attemptEnd
  try dsimp only
  repeat' first
    | with_reducible assumption
    | (with_reducible intro _)
    | with_reducible apply kept_foldl
    | with_reducible apply State.setPrt_kept
    | with_reducible apply State.bump_kept
    | with_reducible apply State.raise_kept
    | with_reducible apply keptOut_next
    | with_reducible exact keptOut_fault
    | with_reducible exact keep_rfl
    | exact fun _ => by decide
    | exact by decide
    | split

theorem execLaneTrainingEnd_kept {lane : Nat} {trained : Bool} {s : State} (h0 : Kept aim s) :
    KeptOut aim (execLaneTrainingEnd lane trained s) := by
  unfold execLaneTrainingEnd
  try dsimp only
  repeat' first
    | with_reducible assumption
    | (with_reducible intro _)
    | with_reducible apply kept_foldl
    | with_reducible apply onPort_kept
    | with_reducible apply State.updPrt_kept
    | with_reducible apply done_kept
    | with_reducible apply State.attemptEnd_kept
    | with_reducible apply keptOut_next
    | with_reducible exact keptOut_fault
    | with_reducible exact keep_rfl
    | exact fun _ => by decide
    | exact by decide
    | split

theorem execTrainingRetry_kept {port : Nat} {s : State} (h0 : Kept aim s) : KeptOut aim (execTrainingRetry port s) := by
  unfold execTrainingRetry
  repeat' first
    | with_reducible assumption
    | (with_reducible intro _)
    | with_reducible apply onPort_kept
    | with_reducible apply done_kept
    | with_reducible apply State.train_kept
    | with_reducible apply keptOut_next
    | with_reducible exact keep_rfl
    | split
    | dsimp only

theorem State.fallbackStep_kept {s : State} {g : Nat} {use : List (Nat × Nat × Nat)} (h0 : Kept aim s) :
    Kept aim (State.fallbackStep s g use) := by
  unfold State.fallbackStep
  dsimp only
  repeat' first
    | with_reducible assumption
    | (with_reducible intro _)
    | with_reducible apply State.rateChange_kept
    | with_reducible apply State.setGrp_kept
    | with_reducible apply State.raise_kept
    | with_reducible exact keep_rfl
    | split

theorem execFallbackWindow_kept {group : Nat} {rxTx : List (Nat × Nat × Nat)} {s : State} (h0 : Kept aim s) :
    KeptOut aim (execFallbackWindow group rxTx s) := by
  unfold execFallbackWindow
  repeat' first
    | with_reducible assumption
    | with_reducible apply State.setGrp_kept
    | with_reducible apply done_kept
    | with_reducible apply State.fallbackStep_kept
    | with_reducible apply keptOut_next
    | with_reducible exact keptOut_fault
    | with_reducible exact keep_rfl
    | split

theorem execFallbackTimeout_kept {group : Nat} {s : State} (h0 : Kept aim s) : KeptOut aim (execFallbackTimeout group s) := by
  unfold execFallbackTimeout
  try dsimp only
  repeat' first
    | with_reducible assumption
    | (with_reducible intro _)
    | with_reducible apply kept_foldl
    | with_reducible apply State.rateChange_kept
    | with_reducible apply done_kept
    | with_reducible apply State.setGrp_kept
    | with_reducible apply State.raise_kept
    | with_reducible apply keptOut_next
    | with_reducible exact keptOut_fault
    | with_reducible exact keep_rfl
    | exact fun _ => by decide
    | exact by decide
    | split

theorem execLpiIdleEntry_kept {port : Nat} {s : State} (h0 : Kept aim s) : KeptOut aim (execLpiIdleEntry port s) := by
  unfold execLpiIdleEntry
  repeat' first
    | with_reducible assumption
    | (with_reducible intro _)
    | with_reducible apply onPort_kept
    | with_reducible apply done_kept
    | with_reducible apply State.setPrt_kept
    | with_reducible apply State.bump_kept
    | with_reducible apply keptOut_next
    | with_reducible exact keep_rfl
    | split
    | dsimp only

theorem execFrameTransmitted_kept {port : Nat} {s : State} (h0 : Kept aim s) : KeptOut aim (execFrameTransmitted port s) := by
  unfold execFrameTransmitted
  try dsimp only
  repeat' first
    | with_reducible assumption
    | (with_reducible intro _)
    | with_reducible apply kept_foldl
    | with_reducible apply onPort_kept
    | with_reducible apply done_kept
    | with_reducible apply State.setPrt_kept
    | with_reducible apply keptOut_next
    | with_reducible exact keptOut_fault
    | with_reducible exact keep_rfl
    | exact fun _ => by decide
    | exact by decide
    | split

end Sys2Proof.Machine
end

