-- ==== Sys2Proof/Laws/KeptModules.lean ====
section
/-! SUPPORT. What Machine/Modules.lean leaves: the queue and the invariant (see Laws/Kept.lean). -/
namespace Sys2Proof.Machine
open Sys2Proof
variable {aim : Aim}

theorem onModule_kept {m : Nat} {s : State} {f : State → Out} (hf : KeptOut aim (f s)) : KeptOut aim (onModule m s f) := by
  unfold onModule
  split
  · exact keptOut_fault
  · exact hf

theorem State.ledgerUpd_kept {s : State} {vendor serial : Bytes} {f : LedgerRec → LedgerRec} (h0 : Kept aim s) :
    Kept aim (State.ledgerUpd s vendor serial f) := h0

theorem State.ledgerInsert_kept {s : State} {vendor serial : Bytes} (h0 : Kept aim s) :
    Kept aim (State.ledgerInsert s vendor serial) := by
  unfold State.ledgerInsert
  dsimp only
  repeat' first
    | with_reducible assumption
    | (with_reducible intro _)
    | with_reducible apply State.ledgerUpd_kept
    | with_reducible apply State.raise_kept
    | (simp only [kept_mk]; with_reducible refine keptMk_of ?_ ?_ ?_ ?_ ?_)
    | with_reducible exact keep_rfl
    | split

theorem State.ratingCheck_kept {s : State} {m : Nat} (h0 : Kept aim s) : Kept aim (State.ratingCheck s m) := by
  unfold State.ratingCheck
  dsimp only
  repeat' first
    | with_reducible assumption
    | (with_reducible intro _)
    | with_reducible apply State.ledgerUpd_kept
    | with_reducible apply State.raise_kept
    | with_reducible exact keep_rfl
    | split

theorem State.ledgerWrite_kept {s : State} (h0 : Kept aim s) : Kept aim (State.ledgerWrite s) := by
  unfold State.ledgerWrite
  try dsimp only
  repeat' first
    | with_reducible assumption
    | (with_reducible intro _)
    | with_reducible apply kept_foldl
    | with_reducible apply keptOut_next
    | with_reducible exact keptOut_fault
    | (simp only [kept_mk]; with_reducible refine keptMk_of ?_ ?_ ?_ ?_ ?_)
    | with_reducible exact keep_rfl

theorem State.moduleStore_kept {s : State} {b : Bytes} (h0 : Kept aim s) : Kept aim (State.moduleStore s b) := h0

theorem State.moduleAnswers_kept {s : State} {m : Nat} (h0 : Kept aim s) : Kept aim (State.moduleAnswers s m) := by
  unfold State.moduleAnswers
  dsimp only
  repeat' first
    | with_reducible assumption
    | (with_reducible intro _)
    | with_reducible apply kept_foldl
    | with_reducible apply State.setMod_kept
    | with_reducible apply State.finishOpen_kept
    | with_reducible apply State.moduleStore_kept
    | with_reducible exact keep_rfl
    | split

theorem State.moduleAborts_kept {s : State} {m status : Nat} (h0 : Kept aim s) : Kept aim (State.moduleAborts s m status) := by
  unfold State.moduleAborts
  repeat' first
    | with_reducible assumption
    | with_reducible apply State.finishKind_kept

theorem cmdModuleRead_kept {c : Cmd} {s : State} (h0 : Kept aim s) : Kept aim (cmdModuleRead c s).st := by
  unfold cmdModuleRead
  repeat' first
    | with_reducible assumption
    | (with_reducible intro _)
    | with_reducible apply gate_kept
    | with_reducible apply Res.err_kept
    | split
    | dsimp only

theorem execModuleRead_kept {c : Cmd} {s : State} (h0 : Kept aim s) : KeptOut aim (execModuleRead c s) := by
  unfold execModuleRead
  repeat' first
    | with_reducible assumption
    | with_reducible apply serve_kept
    | with_reducible apply cmdModuleRead_kept

theorem cmdModuleWrite_kept {c : Cmd} {s : State} (h0 : Kept aim s) : Kept aim (cmdModuleWrite c s).st := by
  unfold cmdModuleWrite
  repeat' first
    | with_reducible assumption
    | (with_reducible intro _)
    | with_reducible apply gate_kept
    | with_reducible apply Res.err_kept
    | with_reducible apply State.moduleStore_kept
    | split
    | dsimp only

theorem execModuleWrite_kept {c : Cmd} {s : State} (h0 : Kept aim s) : KeptOut aim (execModuleWrite c s) := by
  unfold execModuleWrite
  repeat' first
    | with_reducible assumption
    | with_reducible apply serve_kept
    | with_reducible apply cmdModuleWrite_kept

theorem cmdModuleIntUnmask_kept {c : Cmd} {s : State} (h0 : Kept aim s) : Kept aim (cmdModuleIntUnmask c s).st := by
  unfold cmdModuleIntUnmask
  repeat' first
    | with_reducible assumption
    | (with_reducible intro _)
    | with_reducible apply gate_kept
    | with_reducible apply Res.err_kept
    | with_reducible apply State.setMod_kept
    | with_reducible exact keep_rfl
    | split
    | dsimp only

theorem execModuleIntUnmask_kept {c : Cmd} {s : State} (h0 : Kept aim s) : KeptOut aim (execModuleIntUnmask c s) := by
  unfold execModuleIntUnmask
  repeat' first
    | with_reducible assumption
    | with_reducible apply serve_kept
    | with_reducible apply cmdModuleIntUnmask_kept

theorem cmdLedgerRead_kept {c : Cmd} {s : State} (h0 : Kept aim s) : Kept aim (cmdLedgerRead c s).st := by
  unfold cmdLedgerRead
  repeat' first
    | with_reducible assumption
    | (with_reducible intro _)
    | with_reducible apply gate_kept
    | with_reducible apply Res.err_kept
    | with_reducible exact keep_rfl
    | split
    | dsimp only

theorem execLedgerRead_kept {c : Cmd} {s : State} (h0 : Kept aim s) : KeptOut aim (execLedgerRead c s) := by
  unfold execLedgerRead
  repeat' first
    | with_reducible assumption
    | with_reducible apply serve_kept
    | with_reducible apply cmdLedgerRead_kept

theorem cmdLedgerSetRating_kept {c : Cmd} {s : State} (h0 : Kept aim s) : Kept aim (cmdLedgerSetRating c s).st := by
  unfold cmdLedgerSetRating
  repeat' first
    | with_reducible assumption
    | (with_reducible intro _)
    | with_reducible apply gate_kept
    | with_reducible apply Res.err_kept
    | with_reducible apply State.ledgerUpd_kept
    | with_reducible exact keep_rfl
    | split
    | dsimp only

theorem execLedgerSetRating_kept {c : Cmd} {s : State} (h0 : Kept aim s) : KeptOut aim (execLedgerSetRating c s) := by
  unfold execLedgerSetRating
  repeat' first
    | with_reducible assumption
    | with_reducible apply serve_kept
    | with_reducible apply cmdLedgerSetRating_kept

theorem cmdModuleMapSet_kept {c : Cmd} {s : State} (h0 : Kept aim s) : Kept aim (cmdModuleMapSet c s).st := by
  unfold cmdModuleMapSet
  repeat' first
    | with_reducible assumption
    | (with_reducible intro _)
    | with_reducible apply gate_kept
    | with_reducible apply Res.err_kept
    | with_reducible apply State.setMod_kept
    | with_reducible apply State.activateModule_kept
    | with_reducible exact keep_rfl
    | split
    | dsimp only

theorem execModuleMapSet_kept {c : Cmd} {s : State} (h0 : Kept aim s) : KeptOut aim (execModuleMapSet c s) := by
  unfold execModuleMapSet
  repeat' first
    | with_reducible assumption
    | with_reducible apply serve_kept
    | with_reducible apply cmdModuleMapSet_kept

theorem State.moduleFlags_kept {s : State} {m : Nat} {flags : List CmisFlag} (h0 : Kept aim s) :
    Kept aim (State.moduleFlags s m flags) := by
  unfold State.moduleFlags
  dsimp only
  repeat' first
    | with_reducible assumption
    | (with_reducible intro _)
    | with_reducible apply kept_foldl
    | with_reducible apply State.setMod_kept
    | with_reducible apply State.ledgerUpd_kept
    | with_reducible apply State.raise_kept

theorem State.maskPresence_kept {s : State} {m : Nat} (h0 : Kept aim s) : Kept aim (State.maskPresence s m) := by
  unfold State.maskPresence
  try dsimp only
  repeat' first
    | with_reducible assumption
    | (with_reducible intro _)
    | with_reducible apply kept_foldl
    | with_reducible apply State.setMod_kept
    | with_reducible apply State.moduleAborts_kept
    | with_reducible apply State.raise_kept

theorem State.presenceCheck_kept {s : State} {m : Nat} (h0 : Kept aim s) : Kept aim (State.presenceCheck s m) := by
  unfold State.presenceCheck
  try dsimp only
  repeat' first
    | with_reducible assumption
    | (with_reducible intro _)
    | with_reducible apply kept_foldl
    | with_reducible apply State.maskPresence_kept
    | with_reducible apply keptOut_next
    | with_reducible exact keptOut_fault
    | with_reducible exact keep_rfl
    | exact fun _ => by decide
    | exact by decide
    | split

theorem execModuleInserted_kept {module : Nat} {page0 : Bytes} {s : State} (h0 : Kept aim s) :
    KeptOut aim (execModuleInserted module page0 s) := by
  unfold execModuleInserted
  try dsimp only
  repeat' first
    | with_reducible assumption
    | (with_reducible intro _)
    | with_reducible apply kept_foldl
    | with_reducible apply onModule_kept
    | with_reducible apply State.setMod_kept
    | with_reducible apply State.ledgerInsert_kept
    | with_reducible apply State.activateModule_kept
    | with_reducible apply State.raise_kept
    | with_reducible apply done_kept
    | with_reducible apply State.ratingCheck_kept
    | with_reducible apply State.presenceCheck_kept
    | with_reducible apply keptOut_next
    | with_reducible exact keptOut_fault
    | with_reducible exact keep_rfl
    | exact fun _ => by decide
    | exact by decide
    | split

theorem execModuleRemoved_kept {module : Nat} {s : State} (h0 : Kept aim s) : KeptOut aim (execModuleRemoved module s) := by
  unfold execModuleRemoved
  try dsimp only
  repeat' first
    | with_reducible assumption
    | (with_reducible intro _)
    | with_reducible apply kept_foldl
    | with_reducible apply onModule_kept
    | with_reducible apply State.setMod_kept
    | with_reducible apply State.ledgerUpd_kept
    | with_reducible apply State.ledgerWrite_kept
    | with_reducible apply done_kept
    | with_reducible apply State.moduleAborts_kept
    | with_reducible apply State.raise_kept
    | with_reducible apply State.presenceCheck_kept
    | with_reducible apply keptOut_next
    | with_reducible exact keptOut_fault
    | with_reducible exact keep_rfl
    | exact fun _ => by decide
    | exact by decide
    | split

theorem State.maskInterrupt_kept {s : State} {m condition : Nat} (h0 : Kept aim s) :
    Kept aim (State.maskInterrupt s m condition) := by
  unfold State.maskInterrupt
  try dsimp only
  repeat' first
    | with_reducible assumption
    | (with_reducible intro _)
    | with_reducible apply kept_foldl
    | with_reducible apply State.setMod_kept
    | with_reducible apply State.raise_kept
    | with_reducible apply keptOut_next
    | with_reducible exact keptOut_fault
    | with_reducible exact keep_rfl
    | exact fun _ => by decide
    | exact by decide
    | split

theorem execModuleInterrupt_kept {module : Nat} {flags : List CmisFlag} {s : State} (h0 : Kept aim s) :
    KeptOut aim (execModuleInterrupt module flags s) := by
  unfold execModuleInterrupt
  try dsimp only
  repeat' first
    | with_reducible assumption
    | (with_reducible intro _)
    | with_reducible apply kept_foldl
    | with_reducible apply onModule_kept
    | with_reducible apply State.setMod_kept
    | with_reducible apply State.moduleAnswers_kept
    | with_reducible apply State.moduleFlags_kept
    | with_reducible apply done_kept
    | with_reducible apply State.maskInterrupt_kept
    | with_reducible apply keptOut_next
    | with_reducible exact keptOut_fault
    | with_reducible exact keep_rfl
    | exact fun _ => by decide
    | exact by decide
    | split

theorem execInterruptStuck_kept {module : Nat} {s : State} (h0 : Kept aim s) : KeptOut aim (execInterruptStuck module s) := by
  unfold execInterruptStuck
  try dsimp only
  repeat' first
    | with_reducible assumption
    | (with_reducible intro _)
    | with_reducible apply kept_foldl
    | with_reducible apply onModule_kept
    | with_reducible apply done_kept
    | with_reducible apply State.maskInterrupt_kept
    | with_reducible apply keptOut_next
    | with_reducible exact keptOut_fault
    | with_reducible exact keep_rfl
    | exact fun _ => by decide
    | exact by decide
    | split

theorem execPresenceChatter_kept {input : PresenceChanges} {s : State} (h0 : Kept aim s) :
    KeptOut aim (execPresenceChatter input s) := by
  unfold execPresenceChatter
  try dsimp only
  repeat' first
    | with_reducible assumption
    | (with_reducible intro _)
    | with_reducible apply kept_foldl
    | with_reducible apply onModule_kept
    | with_reducible apply done_kept
    | with_reducible apply State.setMod_kept
    | with_reducible apply State.presenceCheck_kept
    | with_reducible apply keptOut_next
    | with_reducible exact keptOut_fault
    | with_reducible exact keep_rfl
    | exact fun _ => by decide
    | exact by decide
    | split

theorem execMaskedInputPoll_kept {module : Nat} {flags : List CmisFlag} {s : State} (h0 : Kept aim s) :
    KeptOut aim (execMaskedInputPoll module flags s) := by
  unfold execMaskedInputPoll
  try dsimp only
  repeat' first
    | with_reducible assumption
    | (with_reducible intro _)
    | with_reducible apply kept_foldl
    | with_reducible apply onModule_kept
    | with_reducible apply done_kept
    | with_reducible apply State.setMod_kept
    | with_reducible apply State.moduleAnswers_kept
    | with_reducible apply State.moduleFlags_kept
    | with_reducible apply keptOut_next
    | with_reducible exact keptOut_fault
    | with_reducible exact keep_rfl
    | exact fun _ => by decide
    | exact by decide
    | split

theorem execModuleMonitorPoll_kept {module : Nat} {tempC : Int} {bias power : Nat} {flags : List CmisFlag} {s : State}
    (h0 : Kept aim s) : KeptOut aim (execModuleMonitorPoll module tempC bias power flags s) := by
  unfold execModuleMonitorPoll
  try dsimp only
  repeat' first
    | with_reducible assumption
    | (with_reducible intro _)
    | with_reducible apply kept_foldl
    | with_reducible apply onModule_kept
    | with_reducible apply State.setMod_kept
    | with_reducible apply done_kept
    | with_reducible apply State.moduleAnswers_kept
    | with_reducible apply State.moduleFlags_kept
    | with_reducible apply keptOut_next
    | with_reducible exact keptOut_fault
    | with_reducible exact keep_rfl
    | exact fun _ => by decide
    | exact by decide
    | split

theorem execLedgerAccumulation_kept {s : State} (h0 : Kept aim s) : KeptOut aim (execLedgerAccumulation s) := by
  unfold execLedgerAccumulation
  repeat' first
    | with_reducible assumption
    | (with_reducible intro _)
    | with_reducible apply kept_foldl
    | with_reducible apply done_kept
    | with_reducible apply State.ledgerUpd_kept
    | with_reducible apply State.ratingCheck_kept
    | with_reducible apply keptOut_next
    | (simp only [kept_mk]; with_reducible refine keptMk_of ?_ ?_ ?_ ?_ ?_)
    | with_reducible exact keep_rfl
    | split

theorem execLedgerHourlyWrite_kept {s : State} (h0 : Kept aim s) : KeptOut aim (execLedgerHourlyWrite s) := by
  unfold execLedgerHourlyWrite
  try dsimp only
  repeat' first
    | with_reducible assumption
    | (with_reducible intro _)
    | with_reducible apply kept_foldl
    | with_reducible apply done_kept
    | with_reducible apply State.ledgerWrite_kept
    | with_reducible apply keptOut_next
    | with_reducible exact keptOut_fault
    | (simp only [kept_mk]; with_reducible refine keptMk_of ?_ ?_ ?_ ?_ ?_)
    | with_reducible exact keep_rfl
    | exact fun _ => by decide
    | exact by decide
    | split

theorem execModuleAccessUnacknowledged_kept {module : Nat} {s : State} (h0 : Kept aim s) :
    KeptOut aim (execModuleAccessUnacknowledged module s) := by
  unfold execModuleAccessUnacknowledged
  repeat' first
    | with_reducible assumption
    | (with_reducible intro _)
    | with_reducible apply onModule_kept
    | with_reducible apply done_kept
    | with_reducible apply State.setMod_kept
    | with_reducible apply State.moduleAborts_kept
    | with_reducible apply State.raise_kept
    | with_reducible apply keptOut_next
    | with_reducible exact keep_rfl
    | split
    | dsimp only

theorem execBusDataLineLow_kept {bus : Nat} {recovered : Bool} {s : State} (h0 : Kept aim s) :
    KeptOut aim (execBusDataLineLow bus recovered s) := by
  unfold execBusDataLineLow
  try dsimp only
  repeat' first
    | with_reducible assumption
    | (with_reducible intro _)
    | with_reducible apply kept_foldl
    | with_reducible apply State.moduleAborts_kept
    | with_reducible apply done_kept
    | with_reducible apply State.raise_kept
    | with_reducible apply keptOut_next
    | with_reducible exact keptOut_fault
    | (simp only [kept_mk]; with_reducible refine keptMk_of ?_ ?_ ?_ ?_ ?_)
    | with_reducible exact keep_rfl
    | exact fun _ => by decide
    | exact by decide
    | split

end Sys2Proof.Machine
end

