-- ==== Sys2Proof/Laws/KeptSecurity.lean ====
section
/-! SUPPORT. What Machine/Security.lean leaves: the queue and the invariant (see Laws/Kept.lean). -/
namespace Sys2Proof.Machine
open Sys2Proof
variable {aim : Aim}

theorem State.setSecy_kept {s : State} {p : Nat} {y : SecY} (h0 : Kept aim s) : Kept aim (State.setSecy s p y) := h0

theorem cmdSecyConfig_kept {c : Cmd} {s : State} (h0 : Kept aim s) : Kept aim (cmdSecyConfig c s).st := by
  unfold cmdSecyConfig
  repeat' first
    | with_reducible assumption
    | (with_reducible intro _)
    | with_reducible apply gate_kept
    | with_reducible apply Res.err_kept
    | with_reducible apply State.saveSettings_kept
    | with_reducible apply State.setSecy_kept
    | with_reducible exact keep_rfl
    | split
    | dsimp only

theorem execSecyConfig_kept {c : Cmd} {s : State} (h0 : Kept aim s) : KeptOut aim (execSecyConfig c s) := by
  unfold execSecyConfig
  repeat' first
    | with_reducible assumption
    | with_reducible apply serve_kept
    | with_reducible apply cmdSecyConfig_kept

theorem cmdScSet_kept {c : Cmd} {s : State} (h0 : Kept aim s) : Kept aim (cmdScSet c s).st := by
  unfold cmdScSet
  repeat' first
    | with_reducible assumption
    | (with_reducible intro _)
    | with_reducible apply gate_kept
    | with_reducible apply Res.err_kept
    | with_reducible apply State.setSecy_kept
    | with_reducible exact keep_rfl
    | split
    | dsimp only

theorem execScSet_kept {c : Cmd} {s : State} (h0 : Kept aim s) : KeptOut aim (execScSet c s) := by
  unfold execScSet
  repeat' first
    | with_reducible assumption
    | with_reducible apply serve_kept
    | with_reducible apply cmdScSet_kept

theorem cmdScClear_kept {c : Cmd} {s : State} (h0 : Kept aim s) : Kept aim (cmdScClear c s).st := by
  unfold cmdScClear
  repeat' first
    | with_reducible assumption
    | (with_reducible intro _)
    | with_reducible apply gate_kept
    | with_reducible apply Res.err_kept
    | with_reducible apply State.setSecy_kept
    | with_reducible exact keep_rfl
    | split
    | dsimp only

theorem execScClear_kept {c : Cmd} {s : State} (h0 : Kept aim s) : KeptOut aim (execScClear c s) := by
  unfold execScClear
  repeat' first
    | with_reducible assumption
    | with_reducible apply serve_kept
    | with_reducible apply cmdScClear_kept

theorem cmdSaInstall_kept {c : Cmd} {s : State} (h0 : Kept aim s) : Kept aim (cmdSaInstall c s).st := by
  unfold cmdSaInstall
  try dsimp only
  repeat' first
    | with_reducible assumption
    | (with_reducible intro _)
    | with_reducible apply kept_foldl
    | with_reducible apply gate_kept
    | with_reducible apply Res.err_kept
    | with_reducible apply State.setSecy_kept
    | with_reducible apply keptOut_next
    | with_reducible exact keptOut_fault
    | with_reducible exact keep_rfl
    | exact fun _ => by decide
    | exact by decide
    | split

theorem execSaInstall_kept {c : Cmd} {s : State} (h0 : Kept aim s) : KeptOut aim (execSaInstall c s) := by
  unfold execSaInstall
  repeat' first
    | with_reducible assumption
    | with_reducible apply serve_kept
    | with_reducible apply cmdSaInstall_kept

theorem cmdSaEnableRx_kept {c : Cmd} {s : State} (h0 : Kept aim s) : Kept aim (cmdSaEnableRx c s).st := by
  unfold cmdSaEnableRx
  repeat' first
    | with_reducible assumption
    | (with_reducible intro _)
    | with_reducible apply gate_kept
    | with_reducible apply Res.err_kept
    | with_reducible apply State.setSecy_kept
    | with_reducible exact keep_rfl
    | split
    | dsimp only

theorem execSaEnableRx_kept {c : Cmd} {s : State} (h0 : Kept aim s) : KeptOut aim (execSaEnableRx c s) := by
  unfold execSaEnableRx
  repeat' first
    | with_reducible assumption
    | with_reducible apply serve_kept
    | with_reducible apply cmdSaEnableRx_kept

theorem cmdSaTxSwitch_kept {c : Cmd} {s : State} (h0 : Kept aim s) : Kept aim (cmdSaTxSwitch c s).st := by
  unfold cmdSaTxSwitch
  repeat' first
    | with_reducible assumption
    | (with_reducible intro _)
    | with_reducible apply gate_kept
    | with_reducible apply Res.err_kept
    | with_reducible apply State.setSecy_kept
    | with_reducible exact keep_rfl
    | split
    | dsimp only

theorem execSaTxSwitch_kept {c : Cmd} {s : State} (h0 : Kept aim s) : KeptOut aim (execSaTxSwitch c s) := by
  unfold execSaTxSwitch
  repeat' first
    | with_reducible assumption
    | with_reducible apply serve_kept
    | with_reducible apply cmdSaTxSwitch_kept

theorem cmdSaDelete_kept {c : Cmd} {s : State} (h0 : Kept aim s) : Kept aim (cmdSaDelete c s).st := by
  unfold cmdSaDelete
  repeat' first
    | with_reducible assumption
    | (with_reducible intro _)
    | with_reducible apply gate_kept
    | with_reducible apply Res.err_kept
    | with_reducible apply State.setSecy_kept
    | with_reducible exact keep_rfl
    | split
    | dsimp only

theorem execSaDelete_kept {c : Cmd} {s : State} (h0 : Kept aim s) : KeptOut aim (execSaDelete c s) := by
  unfold execSaDelete
  repeat' first
    | with_reducible assumption
    | with_reducible apply serve_kept
    | with_reducible apply cmdSaDelete_kept

theorem cmdSaStatusGet_kept {c : Cmd} {s : State} (h0 : Kept aim s) : Kept aim (cmdSaStatusGet c s).st := by
  unfold cmdSaStatusGet
  repeat' first
    | with_reducible assumption
    | (with_reducible intro _)
    | with_reducible apply gate_kept
    | with_reducible apply Res.err_kept
    | split
    | dsimp only

theorem execSaStatusGet_kept {c : Cmd} {s : State} (h0 : Kept aim s) : KeptOut aim (execSaStatusGet c s) := by
  unfold execSaStatusGet
  repeat' first
    | with_reducible assumption
    | with_reducible apply serve_kept
    | with_reducible apply cmdSaStatusGet_kept

theorem cmdSecyCountersGet_kept {c : Cmd} {s : State} (h0 : Kept aim s) : Kept aim (cmdSecyCountersGet c s).st := by
  unfold cmdSecyCountersGet
  repeat' first
    | with_reducible assumption
    | (with_reducible intro _)
    | with_reducible apply gate_kept
    | with_reducible apply Res.err_kept
    | split
    | dsimp only

theorem execSecyCountersGet_kept {c : Cmd} {s : State} (h0 : Kept aim s) : KeptOut aim (execSecyCountersGet c s) := by
  unfold execSecyCountersGet
  repeat' first
    | with_reducible assumption
    | with_reducible apply serve_kept
    | with_reducible apply cmdSecyCountersGet_kept

theorem execSaSwitchDue_kept {port : Nat} {s : State} (h0 : Kept aim s) : KeptOut aim (execSaSwitchDue port s) := by
  unfold execSaSwitchDue
  try dsimp only
  repeat' first
    | with_reducible assumption
    | (with_reducible intro _)
    | with_reducible apply kept_foldl
    | with_reducible apply onPort_kept
    | with_reducible apply done_kept
    | with_reducible apply State.setSecy_kept
    | with_reducible apply keptOut_next
    | with_reducible exact keptOut_fault
    | with_reducible exact keep_rfl
    | exact fun _ => by decide
    | exact by decide
    | split

theorem secDrop_kept {s : State} {p code : Nat} {f : Bytes} (h0 : Kept aim s) : Kept aim (secDrop s p code f).st := h0

theorem State.secReceive_kept {s : State} {p : Nat} {f : Bytes} {early : Bool} (h0 : Kept aim s) :
    Kept aim (State.secReceive s p f early).st := by
  unfold State.secReceive
  try dsimp only
  repeat' first
    | with_reducible assumption
    | (with_reducible intro _)
    | with_reducible apply kept_foldl
    | with_reducible apply secDrop_kept
    | with_reducible apply State.bump_kept
    | with_reducible apply State.setSecy_kept
    | with_reducible apply State.count_kept
    | with_reducible apply keptOut_next
    | with_reducible exact keptOut_fault
    | with_reducible exact keep_rfl
    | exact fun _ => by decide
    | exact by decide
    | split

theorem State.secTransmit_kept {s : State} {p : Nat} {f : Bytes} {injectedEapol : Bool} (h0 : Kept aim s) :
    Kept aim (State.secTransmit s p f injectedEapol).st := by
  unfold State.secTransmit
  try dsimp only
  repeat' first
    | with_reducible assumption
    | (with_reducible intro _)
    | with_reducible apply kept_foldl
    | with_reducible apply State.setSecy_kept
    | with_reducible apply State.raise_kept
    | with_reducible apply State.bump_kept
    | with_reducible apply State.count_kept
    | with_reducible apply keptOut_next
    | with_reducible exact keptOut_fault
    | with_reducible exact keep_rfl
    | exact fun _ => by decide
    | exact by decide
    | split

theorem State.saFault_kept {s : State} {p slot n : Nat} (h0 : Kept aim s) : Kept aim (State.saFault s p slot n) := by
  unfold State.saFault
  dsimp only
  repeat' first
    | with_reducible assumption
    | with_reducible apply State.setSecy_kept
    | with_reducible apply State.raise_kept
    | with_reducible exact keep_rfl
    | split

end Sys2Proof.Machine
end

