-- ==== Sys2Proof/Laws/KeptParser.lean ====
section
/-! SUPPORT. What Machine/Parser.lean leaves: the queue and the invariant (see Laws/Kept.lean). -/
namespace Sys2Proof.Machine
open Sys2Proof
variable {aim : Aim}

theorem cmdParsePolicySet_kept {c : Cmd} {s : State} (h0 : Kept aim s) : Kept aim (cmdParsePolicySet c s).st := by
  unfold cmdParsePolicySet
  repeat' first
    | with_reducible assumption
    | (with_reducible intro _)
    | with_reducible apply gate_kept
    | with_reducible apply Res.err_kept
    | with_reducible apply State.updPrt_kept
    | with_reducible exact keep_rfl
    | split
    | dsimp only

theorem execParsePolicySet_kept {c : Cmd} {s : State} (h0 : Kept aim s) : KeptOut aim (execParsePolicySet c s) := by
  unfold execParsePolicySet
  repeat' first
    | with_reducible assumption
    | with_reducible apply serve_kept
    | with_reducible apply cmdParsePolicySet_kept

theorem cmdParsePolicyGet_kept {c : Cmd} {s : State} (h0 : Kept aim s) : Kept aim (cmdParsePolicyGet c s).st := by
  unfold cmdParsePolicyGet
  repeat' first
    | with_reducible assumption
    | (with_reducible intro _)
    | with_reducible apply gate_kept
    | with_reducible apply Res.err_kept
    | split
    | dsimp only

theorem execParsePolicyGet_kept {c : Cmd} {s : State} (h0 : Kept aim s) : KeptOut aim (execParsePolicyGet c s) := by
  unfold execParsePolicyGet
  repeat' first
    | with_reducible assumption
    | with_reducible apply serve_kept
    | with_reducible apply cmdParsePolicyGet_kept

theorem cmdHashProfileSet_kept {c : Cmd} {s : State} (h0 : Kept aim s) : Kept aim (cmdHashProfileSet c s).st := by
  unfold cmdHashProfileSet
  repeat' first
    | with_reducible assumption
    | (with_reducible intro _)
    | with_reducible apply gate_kept
    | with_reducible apply Res.err_kept
    | (simp only [kept_mk]; with_reducible refine keptMk_of ?_ ?_ ?_ ?_ ?_)
    | with_reducible exact keep_rfl
    | split
    | dsimp only

theorem execHashProfileSet_kept {c : Cmd} {s : State} (h0 : Kept aim s) : KeptOut aim (execHashProfileSet c s) := by
  unfold execHashProfileSet
  repeat' first
    | with_reducible assumption
    | with_reducible apply serve_kept
    | with_reducible apply cmdHashProfileSet_kept

theorem cmdParseCountersGet_kept {c : Cmd} {s : State} (h0 : Kept aim s) : Kept aim (cmdParseCountersGet c s).st := by
  unfold cmdParseCountersGet
  repeat' first
    | with_reducible assumption
    | (with_reducible intro _)
    | with_reducible apply gate_kept
    | with_reducible apply Res.err_kept
    | split
    | dsimp only

theorem execParseCountersGet_kept {c : Cmd} {s : State} (h0 : Kept aim s) : KeptOut aim (execParseCountersGet c s) := by
  unfold execParseCountersGet
  repeat' first
    | with_reducible assumption
    | with_reducible apply serve_kept
    | with_reducible apply cmdParseCountersGet_kept

theorem cmdParseTest_kept {c : Cmd} {s : State} (h0 : Kept aim s) : Kept aim (cmdParseTest c s).st := by
  unfold cmdParseTest
  repeat' first
    | with_reducible assumption
    | (with_reducible intro _)
    | with_reducible apply gate_kept
    | with_reducible apply Res.err_kept
    | split
    | dsimp only

theorem execParseTest_kept {c : Cmd} {s : State} (h0 : Kept aim s) : KeptOut aim (execParseTest c s) := by
  unfold execParseTest
  repeat' first
    | with_reducible assumption
    | with_reducible apply serve_kept
    | with_reducible apply cmdParseTest_kept

theorem State.rxCrossed_kept {s : State} {k : LkPkt} (h0 : Kept aim s) : Kept aim (State.rxCrossed s k) := by
  unfold State.rxCrossed
  try dsimp only
  repeat' first
    | with_reducible assumption
    | (with_reducible intro _)
    | with_reducible apply kept_foldl
    | with_reducible apply State.updPrt_kept
    | with_reducible apply keptOut_next
    | with_reducible exact keptOut_fault
    | with_reducible exact keep_rfl
    | exact fun _ => by decide
    | exact by decide
    | split

theorem State.rxDrop_kept {s : State} {p code : Nat} (h0 : Kept aim s) : Kept aim (State.rxDrop s p code) := by
  unfold State.rxDrop
  repeat' first
    | with_reducible assumption
    | with_reducible apply State.bump_kept
    | with_reducible apply State.perfCount_kept

theorem execReceiveFrame_kept {port : Nat} {f : RxInput} {s : State} (h0 : Kept aim s) :
    KeptOut aim (execReceiveFrame port f s) := by
  unfold execReceiveFrame
  try dsimp only
  repeat' first
    | with_reducible assumption
    | (with_reducible intro _)
    | with_reducible apply kept_foldl
    | with_reducible apply onPort_kept
    | with_reducible apply State.fecReport_kept
    | with_reducible apply done_kept
    | with_reducible apply State.rxDrop_kept
    | with_reducible apply State.secReceive_kept
    | with_reducible apply State.updPrt_kept
    | with_reducible apply State.bump_kept
    | with_reducible apply State.count_kept
    | with_reducible apply State.perfCount_kept
    | with_reducible apply keptOut_next
    | with_reducible exact keptOut_fault
    | with_reducible exact keep_rfl
    | exact fun _ => by decide
    | exact by decide
    | split

theorem State.countParse_kept {s : State} {p : Parse} (h0 : Kept aim s) : Kept aim (State.countParse s p) := by
  unfold State.countParse
  dsimp only
  repeat' first
    | with_reducible assumption
    | with_reducible apply State.bump_kept
    | split

theorem execParserSlot_kept {port : Nat} {s : State} (h0 : Kept aim s) : KeptOut aim (execParserSlot port s) := by
  unfold execParserSlot
  try dsimp only
  repeat' first
    | with_reducible assumption
    | (with_reducible intro _)
    | with_reducible apply kept_foldl
    | with_reducible apply onPort_kept
    | with_reducible apply State.updPrt_kept
    | with_reducible apply State.countParse_kept
    | with_reducible apply State.servedBy_kept
    | with_reducible apply done_kept
    | with_reducible apply State.tsDropped_kept
    | with_reducible apply keptOut_next
    | with_reducible exact keptOut_fault
    | (simp only [kept_mk]; with_reducible refine keptMk_of ?_ ?_ ?_ ?_ ?_)
    | with_reducible exact keep_rfl
    | exact fun _ => by decide
    | exact by decide
    | split

theorem execParserPipelineError_kept {pipeline : Nat} {held : List Nat} {s : State} (h0 : Kept aim s) :
    KeptOut aim (execParserPipelineError pipeline held s) := by
  unfold execParserPipelineError
  try dsimp only
  repeat' first
    | with_reducible assumption
    | (with_reducible intro _)
    | with_reducible apply kept_foldl
    | with_reducible apply State.rxCrossed_kept
    | with_reducible apply State.bump_kept
    | with_reducible apply State.tsDropped_kept
    | with_reducible apply State.record_kept
    | with_reducible apply done_kept
    | with_reducible apply State.raise_kept
    | with_reducible apply State.pipelineCheck_kept
    | with_reducible apply keptOut_next
    | with_reducible exact keptOut_fault
    | (simp only [kept_mk]; with_reducible refine keptMk_of ?_ ?_ ?_ ?_ ?_)
    | with_reducible exact keep_rfl
    | exact fun _ => by decide
    | exact by decide
    | split

end Sys2Proof.Machine
end

