-- ==== Sys2Proof/Laws/KeptLoadBal.lean ====
section
/-! SUPPORT. What Machine/LoadBal.lean leaves: the queue and the invariant (see Laws/Kept.lean). -/
namespace Sys2Proof.Machine
open Sys2Proof
variable {aim : Aim}

theorem cmdSlowpathClassSet_kept {c : Cmd} {s : State} (h0 : Kept aim s) : Kept aim (cmdSlowpathClassSet c s).st := by
  unfold cmdSlowpathClassSet
  repeat' first
    | with_reducible assumption
    | (with_reducible intro _)
    | with_reducible apply gate_kept
    | with_reducible apply Res.err_kept
    | (simp only [kept_mk]; with_reducible refine keptMk_of ?_ ?_ ?_ ?_ ?_)
    | with_reducible exact keep_rfl
    | split
    | dsimp only

theorem execSlowpathClassSet_kept {c : Cmd} {s : State} (h0 : Kept aim s) : KeptOut aim (execSlowpathClassSet c s) := by
  unfold execSlowpathClassSet
  repeat' first
    | with_reducible assumption
    | with_reducible apply serve_kept
    | with_reducible apply cmdSlowpathClassSet_kept

theorem State.wrote_kept {s : State} {n : Nat} (h0 : Kept aim s) : Kept aim (State.wrote s n) := by
  unfold State.wrote
  repeat' first
    | with_reducible assumption
    | with_reducible apply State.count_kept
    | with_reducible apply State.perfCount_kept

theorem State.unpoison_kept {s : State} {table i : Nat} (h0 : Kept aim s) : Kept aim (State.unpoison s table i) := by
  unfold State.unpoison
  repeat' first
    | with_reducible assumption
    | (with_reducible intro _)
    | with_reducible apply State.clearCond_kept
    | (simp only [kept_mk]; with_reducible refine keptMk_of ?_ ?_ ?_ ?_ ?_)
    | with_reducible exact keep_rfl
    | split

theorem State.unpoisonRun_kept {s : State} {base n : Nat} (h0 : Kept aim s) : Kept aim (State.unpoisonRun s base n) := by
  unfold State.unpoisonRun
  try dsimp only
  repeat' first
    | with_reducible assumption
    | (with_reducible intro _)
    | with_reducible apply kept_foldl
    | with_reducible apply State.unpoison_kept

theorem State.movePoison_kept {s : State} {old new n : Nat} (h0 : Kept aim s) : Kept aim (State.movePoison s old new n) := by
  unfold State.movePoison
  try dsimp only
  repeat' first
    | with_reducible assumption
    | (with_reducible intro _)
    | with_reducible apply kept_foldl
    | with_reducible apply State.unpoisonRun_kept
    | with_reducible apply keptOut_next
    | with_reducible exact keptOut_fault
    | (simp only [kept_mk]; with_reducible refine keptMk_of ?_ ?_ ?_ ?_ ?_)
    | with_reducible exact keep_rfl

theorem State.noteFill_kept {s : State} {area used slots : Nat} {raised : Bool} {set : Bool → State → State}
    (h0 : Kept aim s) (h1 : ∀ z0 z1, Kept aim z1 → Kept aim (set z0 z1)) :
    Kept aim (State.noteFill s area used slots raised set) := by
  unfold State.noteFill
  repeat' first
    | with_reducible assumption
    | with_reducible apply h1
    | with_reducible apply State.raise_kept
    | split

theorem State.notePoolFill_kept {s : State} (h0 : Kept aim s) : Kept aim (State.notePoolFill s) := by
  unfold State.notePoolFill
  repeat' first
    | with_reducible assumption
    | (with_reducible intro _)
    | with_reducible apply State.noteFill_kept
    | (simp only [kept_mk]; with_reducible refine keptMk_of ?_ ?_ ?_ ?_ ?_)
    | with_reducible exact keep_rfl

theorem cmdLbMemberAdd_kept {c : Cmd} {s : State} (h0 : Kept aim s) : Kept aim (cmdLbMemberAdd c s).st := by
  unfold cmdLbMemberAdd
  try dsimp only
  repeat' first
    | with_reducible assumption
    | (with_reducible intro _)
    | with_reducible apply kept_foldl
    | with_reducible apply gate_kept
    | with_reducible apply Res.err_kept
    | with_reducible apply State.unpoison_kept
    | with_reducible apply State.wrote_kept
    | with_reducible apply State.movePoison_kept
    | with_reducible apply State.notePoolFill_kept
    | with_reducible apply keptOut_next
    | with_reducible exact keptOut_fault
    | (simp only [kept_mk]; with_reducible refine keptMk_of ?_ ?_ ?_ ?_ ?_)
    | with_reducible exact keep_rfl
    | exact fun _ => by decide
    | exact by decide
    | split

theorem execLbMemberAdd_kept {c : Cmd} {s : State} (h0 : Kept aim s) : KeptOut aim (execLbMemberAdd c s) := by
  unfold execLbMemberAdd
  repeat' first
    | with_reducible assumption
    | with_reducible apply serve_kept
    | with_reducible apply cmdLbMemberAdd_kept

theorem cmdLbMemberRemove_kept {c : Cmd} {s : State} (h0 : Kept aim s) : Kept aim (cmdLbMemberRemove c s).st := by
  unfold cmdLbMemberRemove
  repeat' first
    | with_reducible assumption
    | (with_reducible intro _)
    | with_reducible apply gate_kept
    | with_reducible apply Res.err_kept
    | with_reducible apply State.unpoison_kept
    | with_reducible apply State.wrote_kept
    | (simp only [kept_mk]; with_reducible refine keptMk_of ?_ ?_ ?_ ?_ ?_)
    | with_reducible exact keep_rfl
    | split
    | dsimp only

theorem execLbMemberRemove_kept {c : Cmd} {s : State} (h0 : Kept aim s) : KeptOut aim (execLbMemberRemove c s) := by
  unfold execLbMemberRemove
  repeat' first
    | with_reducible assumption
    | with_reducible apply serve_kept
    | with_reducible apply cmdLbMemberRemove_kept

theorem cmdLbSlotsSet_kept {c : Cmd} {s : State} (h0 : Kept aim s) : Kept aim (cmdLbSlotsSet c s).st := by
  unfold cmdLbSlotsSet
  repeat' first
    | with_reducible assumption
    | (with_reducible intro _)
    | with_reducible apply gate_kept
    | with_reducible apply Res.err_kept
    | with_reducible apply State.unpoison_kept
    | with_reducible apply State.wrote_kept
    | (simp only [kept_mk]; with_reducible refine keptMk_of ?_ ?_ ?_ ?_ ?_)
    | with_reducible exact keep_rfl
    | split
    | dsimp only

theorem execLbSlotsSet_kept {c : Cmd} {s : State} (h0 : Kept aim s) : KeptOut aim (execLbSlotsSet c s) := by
  unfold execLbSlotsSet
  repeat' first
    | with_reducible assumption
    | with_reducible apply serve_kept
    | with_reducible apply cmdLbSlotsSet_kept

theorem cmdLbSlotsGet_kept {c : Cmd} {s : State} (h0 : Kept aim s) : Kept aim (cmdLbSlotsGet c s).st := by
  unfold cmdLbSlotsGet
  repeat' first
    | with_reducible assumption
    | (with_reducible intro _)
    | with_reducible apply gate_kept
    | with_reducible apply Res.err_kept
    | with_reducible exact keep_rfl
    | split
    | dsimp only

theorem execLbSlotsGet_kept {c : Cmd} {s : State} (h0 : Kept aim s) : KeptOut aim (execLbSlotsGet c s) := by
  unfold execLbSlotsGet
  repeat' first
    | with_reducible assumption
    | with_reducible apply serve_kept
    | with_reducible apply cmdLbSlotsGet_kept

theorem State.lagDead_kept {s : State} {g : Nat} (h0 : Kept aim s) : Kept aim (State.lagDead s g) := by
  unfold State.lagDead
  dsimp only
  repeat' first
    | with_reducible assumption
    | with_reducible apply State.raise_kept
    | (simp only [kept_mk]; with_reducible refine keptMk_of ?_ ?_ ?_ ?_ ?_)
    | with_reducible exact keep_rfl
    | split

end Sys2Proof.Machine
end

