-- ==== Sys2Proof/Laws/KeptFib.lean ====
section
/-! SUPPORT. What Machine/Fib.lean leaves: the queue and the invariant (see Laws/Kept.lean). -/
namespace Sys2Proof.Machine
open Sys2Proof
variable {aim : Aim}

theorem State.placed_kept {s : State} (h0 : Kept aim s) : Kept aim (State.placed s).2 := h0

theorem State.placed_kept_eq {s : State} {a1 : Bool} {a2 : State} (h0 : Kept aim s) (e : State.placed s = (a1, a2)) :
    Kept aim a2 := by
  have x := State.placed_kept (aim := aim) (s := s) h0
  rw [e] at x
  exact x

theorem State.growTable_kept {s : State} {t used per units : Nat} (h0 : Kept aim s) :
    Kept aim (State.growTable s t used per units) := by
  unfold State.growTable
  try dsimp only
  repeat' first
    | with_reducible assumption
    | (with_reducible intro _)
    | with_reducible apply kept_foldl
    | with_reducible apply keptOut_next
    | with_reducible exact keptOut_fault
    | (simp only [kept_mk]; with_reducible refine keptMk_of ?_ ?_ ?_ ?_ ?_)
    | with_reducible exact keep_rfl
    | exact fun _ => by decide
    | exact by decide
    | split

theorem State.setDir_kept {s : State} {vrf fam : Nat} {d : FibDir} (h0 : Kept aim s) : Kept aim (State.setDir s vrf fam d) := h0

theorem State.fibStore_kept {s : State} {vrf fam : Nat} {ps : List Pfx} {d : FibDir} (h0 : Kept aim s) :
    Kept aim (State.fibStore s vrf fam ps d) := by
  unfold State.fibStore
  try dsimp only
  repeat' first
    | with_reducible assumption
    | (with_reducible intro _)
    | with_reducible apply kept_foldl
    | with_reducible apply keptOut_next
    | with_reducible exact keptOut_fault
    | (simp only [kept_mk]; with_reducible refine keptMk_of ?_ ?_ ?_ ?_ ?_)
    | with_reducible exact keep_rfl

theorem State.noteFibFill_kept {s : State} (h0 : Kept aim s) : Kept aim (State.noteFibFill s) := by
  unfold State.noteFibFill
  repeat' first
    | with_reducible assumption
    | (with_reducible intro _)
    | with_reducible apply State.noteFill_kept
    | (simp only [kept_mk]; with_reducible refine keptMk_of ?_ ?_ ?_ ?_ ?_)
    | with_reducible exact keep_rfl

theorem State.noteEmFill_kept {s : State} (h0 : Kept aim s) : Kept aim (State.noteEmFill s) := by
  unfold State.noteEmFill
  repeat' first
    | with_reducible assumption
    | (with_reducible intro _)
    | with_reducible apply State.noteFill_kept
    | (simp only [kept_mk]; with_reducible refine keptMk_of ?_ ?_ ?_ ?_ ?_)
    | with_reducible exact keep_rfl

theorem State.growFib_kept {s : State} {vrf fam : Nat} {old : List FibEnt} (h0 : Kept aim s) :
    Kept aim (State.growFib s vrf fam old) := by
  unfold State.growFib
  dsimp only
  repeat' first
    | with_reducible assumption
    | (with_reducible intro _)
    | with_reducible apply kept_foldl
    | with_reducible apply State.count_kept
    | with_reducible apply State.growTable_kept

theorem State.fibChange_kept {s t : State} {vrf fam : Nat} (h0 : Kept aim s) (h1 : Kept aim t) :
    Kept aim (State.fibChange s t vrf fam).2 := by
  unfold State.fibChange
  dsimp only
  repeat' first
    | with_reducible assumption
    | with_reducible apply State.noteFibFill_kept
    | with_reducible apply State.wrote_kept
    | with_reducible apply State.placed_kept
    | (with_reducible refine State.placed_kept_eq ?_ (by assumption))
    | with_reducible apply State.growFib_kept
    | (simp only [kept_mk]; with_reducible refine keptMk_of ?_ ?_ ?_ ?_ ?_)
    | with_reducible exact keep_rfl
    | split

theorem State.fibChange_kept_eq {s t : State} {vrf fam : Nat} {a1 : Nat} {a2 : State} (h0 : Kept aim s)
    (h1 : Kept aim t) (e : State.fibChange s t vrf fam = (a1, a2)) : Kept aim a2 := by
  have x := State.fibChange_kept (aim := aim) (s := s) (t := t) (vrf := vrf) (fam := fam) h0 h1
  rw [e] at x
  exact x

theorem State.routeInsert_kept {s : State} {vrf fam len key res : Nat} {replace : Bool} (h0 : Kept aim s) :
    Kept aim (State.routeInsert s vrf fam len key res replace).2 := by
  unfold State.routeInsert
  dsimp only
  repeat' first
    | with_reducible assumption
    | (with_reducible intro _)
    | with_reducible apply State.setDir_kept
    | with_reducible apply State.wrote_kept
    | with_reducible apply State.fibChange_kept
    | (with_reducible refine State.fibChange_kept_eq ?_ (by assumption))
    | with_reducible apply State.fibStore_kept
    | with_reducible exact keep_rfl
    | split

theorem State.routeInsert_kept_eq {s : State} {vrf fam len key res : Nat} {replace : Bool} {a1 : Nat} {a2 : State}
    (h0 : Kept aim s) (e : State.routeInsert s vrf fam len key res replace = (a1, a2)) : Kept aim a2 := by
  have x := State.routeInsert_kept (aim := aim) (s := s) (vrf := vrf) (fam := fam) (len := len) (key := key) (res := res) (replace := replace) h0
  rw [e] at x
  exact x

theorem State.fibShrink_kept {s t : State} {vrf fam : Nat} (h0 : Kept aim s) (h1 : Kept aim t) :
    Kept aim (State.fibShrink s t vrf fam).2 := by
  unfold State.fibShrink
  repeat' first
    | with_reducible assumption
    | with_reducible apply State.growFib_kept
    | with_reducible apply State.noteFibFill_kept
    | with_reducible apply State.wrote_kept

theorem State.fibShrink_kept_eq {s t : State} {vrf fam : Nat} {a1 : Nat} {a2 : State} (h0 : Kept aim s)
    (h1 : Kept aim t) (e : State.fibShrink s t vrf fam = (a1, a2)) : Kept aim a2 := by
  have x := State.fibShrink_kept (aim := aim) (s := s) (t := t) (vrf := vrf) (fam := fam) h0 h1
  rw [e] at x
  exact x

theorem State.routeRemove_kept {s : State} {vrf fam len key : Nat} (h0 : Kept aim s) :
    Kept aim (State.routeRemove s vrf fam len key).2 := by
  unfold State.routeRemove
  dsimp only
  repeat' first
    | with_reducible assumption
    | (with_reducible intro _)
    | with_reducible apply State.setDir_kept
    | with_reducible apply State.wrote_kept
    | with_reducible apply State.fibShrink_kept
    | (with_reducible refine State.fibShrink_kept_eq ?_ (by assumption))
    | with_reducible apply State.fibStore_kept
    | with_reducible exact keep_rfl
    | split

theorem State.routeRemove_kept_eq {s : State} {vrf fam len key : Nat} {a1 : Nat} {a2 : State}
    (h0 : Kept aim s) (e : State.routeRemove s vrf fam len key = (a1, a2)) : Kept aim a2 := by
  have x := State.routeRemove_kept (aim := aim) (s := s) (vrf := vrf) (fam := fam) (len := len) (key := key) h0
  rw [e] at x
  exact x

theorem State.routeOp_kept {s : State} {add replace : Bool} {b : Bytes} (h0 : Kept aim s) :
    Kept aim (State.routeOp s add replace b).2 := by
  unfold State.routeOp
  dsimp only
  repeat' first
    | with_reducible assumption
    | with_reducible apply State.routeInsert_kept
    | (with_reducible refine State.routeInsert_kept_eq ?_ (by assumption))
    | with_reducible apply State.routeRemove_kept
    | (with_reducible refine State.routeRemove_kept_eq ?_ (by assumption))
    | split

theorem State.routeOp_kept_eq {s : State} {add replace : Bool} {b : Bytes} {a1 : Nat} {a2 : State}
    (h0 : Kept aim s) (e : State.routeOp s add replace b = (a1, a2)) : Kept aim a2 := by
  have x := State.routeOp_kept (aim := aim) (s := s) (add := add) (replace := replace) (b := b) h0
  rw [e] at x
  exact x

end Sys2Proof.Machine
end

