-- ==== Sys2Proof/Laws/KeptTcam.lean ====
section
/-! SUPPORT. What Machine/Tcam.lean leaves: the queue and the invariant (see Laws/Kept.lean). -/
namespace Sys2Proof.Machine
open Sys2Proof
variable {aim : Aim}

theorem State.setChain_kept {s : State} {c : Nat} {x : Chain} (h0 : Kept aim s) : Kept aim (State.setChain s c x) := h0

theorem State.noteChainFill_kept {s : State} {c : Nat} (h0 : Kept aim s) : Kept aim (State.noteChainFill s c) := by
  unfold State.noteChainFill
  repeat' first
    | with_reducible assumption
    | with_reducible apply State.setChain_kept
    | with_reducible apply State.raise_kept
    | with_reducible exact keep_rfl
    | split
    | dsimp only

theorem State.foundAgain_kept {s : State} {h : Nat} (h0 : Kept aim s) : Kept aim (State.foundAgain s h) := by
  unfold State.foundAgain
  try dsimp only
  repeat' first
    | with_reducible assumption
    | (with_reducible intro _)
    | with_reducible apply kept_foldl
    | with_reducible apply keptOut_next
    | with_reducible exact keptOut_fault
    | (simp only [kept_mk]; with_reducible refine keptMk_of ?_ ?_ ?_ ?_ ?_)
    | with_reducible exact keep_rfl

theorem State.placeEntry_kept {s : State} {c : Nat} {x : Chain} {k drop : Nat} {e : TcamEnt} (h0 : Kept aim s) :
    ∀ t, State.placeEntry s c x k drop e = some t → Kept aim t := by
  intro t w
  unfold State.placeEntry at w
  dsimp only at w
  split at w
  · cases w
  · have hg : ∀ y m n, Kept aim ((((((s.setChain c y).foundAgain e.handle).count 608 5 c 0 m).count 608 6 c 0 n).wrote (2 * m)).noteChainFill c) := fun y m n =>
      State.noteChainFill_kept (State.wrote_kept (State.count_kept (State.count_kept (State.foundAgain_kept (State.setChain_kept h0)))))
    repeat' first
      | cases w; exact hg _ _ _
      | cases w
      | split at w
theorem State.placeEntry_kept_eq {s : State} {c : Nat} {x : Chain} {k drop : Nat} {e : TcamEnt} {a1 : State} (h0 : Kept aim s)
    (w : State.placeEntry s c x k drop e = some a1) : Kept aim a1 := State.placeEntry_kept h0 _ w

theorem State.tcamInsertOp_kept {s : State} {b : Bytes} (h0 : Kept aim s) : Kept aim (State.tcamInsertOp s b).2 := by
  unfold State.tcamInsertOp
  dsimp only
  repeat' first
    | with_reducible assumption
    | (with_reducible intro _)
    | (with_reducible refine State.placeEntry_kept_eq ?_ (by assumption))
    | with_reducible exact keep_rfl
    | split

theorem State.tcamInsertOp_kept_eq {s : State} {b : Bytes} {a1 : Nat} {a2 : State}
    (h0 : Kept aim s) (e : State.tcamInsertOp s b = (a1, a2)) : Kept aim a2 := by
  have x := State.tcamInsertOp_kept (aim := aim) (s := s) (b := b) h0
  rw [e] at x
  exact x

theorem State.tcamModifyOp_kept {s : State} {hitless actionOnly : Bool} {b : Bytes} (h0 : Kept aim s) :
    Kept aim (State.tcamModifyOp s hitless actionOnly b).2 := by
  unfold State.tcamModifyOp
  dsimp only
  repeat' first
    | with_reducible assumption
    | (with_reducible intro _)
    | (with_reducible refine State.placeEntry_kept_eq ?_ (by assumption))
    | with_reducible apply State.setChain_kept
    | with_reducible exact keep_rfl
    | split

theorem State.tcamModifyOp_kept_eq {s : State} {hitless actionOnly : Bool} {b : Bytes} {a1 : Nat} {a2 : State}
    (h0 : Kept aim s) (e : State.tcamModifyOp s hitless actionOnly b = (a1, a2)) : Kept aim a2 := by
  have x := State.tcamModifyOp_kept (aim := aim) (s := s) (hitless := hitless) (actionOnly := actionOnly) (b := b) h0
  rw [e] at x
  exact x

theorem cmdTcamChainConfig_kept {c : Cmd} {s : State} (h0 : Kept aim s) : Kept aim (cmdTcamChainConfig c s).st := by
  unfold cmdTcamChainConfig
  repeat' first
    | with_reducible assumption
    | (with_reducible intro _)
    | with_reducible apply gate_kept
    | with_reducible apply Res.err_kept
    | with_reducible apply State.wrote_kept
    | with_reducible apply State.setChain_kept
    | (simp only [kept_mk]; with_reducible refine keptMk_of ?_ ?_ ?_ ?_ ?_)
    | with_reducible exact keep_rfl
    | split
    | dsimp only

theorem execTcamChainConfig_kept {c : Cmd} {s : State} (h0 : Kept aim s) : KeptOut aim (execTcamChainConfig c s) := by
  unfold execTcamChainConfig
  repeat' first
    | with_reducible assumption
    | with_reducible apply serve_kept
    | with_reducible apply cmdTcamChainConfig_kept

theorem cmdTcamChainExtend_kept {c : Cmd} {s : State} (h0 : Kept aim s) : Kept aim (cmdTcamChainExtend c s).st := by
  unfold cmdTcamChainExtend
  try dsimp only
  repeat' first
    | with_reducible assumption
    | (with_reducible intro _)
    | with_reducible apply kept_foldl
    | with_reducible apply gate_kept
    | with_reducible apply Res.err_kept
    | with_reducible apply State.setChain_kept
    | with_reducible apply State.wrote_kept
    | with_reducible apply State.noteChainFill_kept
    | with_reducible apply keptOut_next
    | with_reducible exact keptOut_fault
    | with_reducible exact keep_rfl
    | exact fun _ => by decide
    | exact by decide
    | split

theorem execTcamChainExtend_kept {c : Cmd} {s : State} (h0 : Kept aim s) : KeptOut aim (execTcamChainExtend c s) := by
  unfold execTcamChainExtend
  repeat' first
    | with_reducible assumption
    | with_reducible apply serve_kept
    | with_reducible apply cmdTcamChainExtend_kept

theorem cmdTcamCompact_kept {c : Cmd} {s : State} (h0 : Kept aim s) : Kept aim (cmdTcamCompact c s).st := by
  unfold cmdTcamCompact
  repeat' first
    | with_reducible assumption
    | (with_reducible intro _)
    | with_reducible apply gate_kept
    | with_reducible apply Res.err_kept
    | with_reducible apply State.setChain_kept
    | with_reducible apply State.count_kept
    | with_reducible apply State.bump_kept
    | with_reducible apply State.wrote_kept
    | with_reducible exact keep_rfl
    | split
    | dsimp only

theorem execTcamCompact_kept {c : Cmd} {s : State} (h0 : Kept aim s) : KeptOut aim (execTcamCompact c s) := by
  unfold execTcamCompact
  repeat' first
    | with_reducible assumption
    | with_reducible apply serve_kept
    | with_reducible apply cmdTcamCompact_kept

theorem cmdKeyProfileSet_kept {c : Cmd} {s : State} (h0 : Kept aim s) : Kept aim (cmdKeyProfileSet c s).st := by
  unfold cmdKeyProfileSet
  repeat' first
    | with_reducible assumption
    | (with_reducible intro _)
    | with_reducible apply gate_kept
    | with_reducible apply Res.err_kept
    | with_reducible apply State.wrote_kept
    | (simp only [kept_mk]; with_reducible refine keptMk_of ?_ ?_ ?_ ?_ ?_)
    | with_reducible exact keep_rfl
    | split
    | dsimp only

theorem execKeyProfileSet_kept {c : Cmd} {s : State} (h0 : Kept aim s) : KeptOut aim (execKeyProfileSet c s) := by
  unfold execKeyProfileSet
  repeat' first
    | with_reducible assumption
    | with_reducible apply serve_kept
    | with_reducible apply cmdKeyProfileSet_kept

theorem cmdSearchProfileSet_kept {c : Cmd} {s : State} (h0 : Kept aim s) : Kept aim (cmdSearchProfileSet c s).st := by
  unfold cmdSearchProfileSet
  repeat' first
    | with_reducible assumption
    | (with_reducible intro _)
    | with_reducible apply gate_kept
    | with_reducible apply Res.err_kept
    | with_reducible apply State.wrote_kept
    | (simp only [kept_mk]; with_reducible refine keptMk_of ?_ ?_ ?_ ?_ ?_)
    | with_reducible exact keep_rfl
    | split

theorem execSearchProfileSet_kept {c : Cmd} {s : State} (h0 : Kept aim s) : KeptOut aim (execSearchProfileSet c s) := by
  unfold execSearchProfileSet
  repeat' first
    | with_reducible assumption
    | with_reducible apply serve_kept
    | with_reducible apply cmdSearchProfileSet_kept

theorem cmdSearchProfileMap_kept {c : Cmd} {s : State} (h0 : Kept aim s) : Kept aim (cmdSearchProfileMap c s).st := by
  unfold cmdSearchProfileMap
  repeat' first
    | with_reducible assumption
    | (with_reducible intro _)
    | with_reducible apply gate_kept
    | with_reducible apply Res.err_kept
    | with_reducible apply State.wrote_kept
    | (simp only [kept_mk]; with_reducible refine keptMk_of ?_ ?_ ?_ ?_ ?_)
    | with_reducible exact keep_rfl
    | split
    | dsimp only

theorem execSearchProfileMap_kept {c : Cmd} {s : State} (h0 : Kept aim s) : KeptOut aim (execSearchProfileMap c s) := by
  unfold execSearchProfileMap
  repeat' first
    | with_reducible assumption
    | with_reducible apply serve_kept
    | with_reducible apply cmdSearchProfileMap_kept

theorem cmdTcamSearch_kept {c : Cmd} {s : State} (h0 : Kept aim s) : Kept aim (cmdTcamSearch c s).st := by
  unfold cmdTcamSearch
  repeat' first
    | with_reducible assumption
    | (with_reducible intro _)
    | with_reducible apply gate_kept
    | with_reducible apply Res.err_kept
    | with_reducible exact keep_rfl
    | split

theorem execTcamSearch_kept {c : Cmd} {s : State} (h0 : Kept aim s) : KeptOut aim (execTcamSearch c s) := by
  unfold execTcamSearch
  repeat' first
    | with_reducible assumption
    | with_reducible apply serve_kept
    | with_reducible apply cmdTcamSearch_kept

theorem cmdTcamSearchContinue_kept {c : Cmd} {s : State} (h0 : Kept aim s) : Kept aim (cmdTcamSearchContinue c s).st := by
  unfold cmdTcamSearchContinue
  repeat' first
    | with_reducible assumption
    | (with_reducible intro _)
    | with_reducible apply gate_kept
    | with_reducible apply Res.err_kept
    | with_reducible exact keep_rfl
    | split

theorem execTcamSearchContinue_kept {c : Cmd} {s : State} (h0 : Kept aim s) : KeptOut aim (execTcamSearchContinue c s) := by
  unfold execTcamSearchContinue
  repeat' first
    | with_reducible assumption
    | with_reducible apply serve_kept
    | with_reducible apply cmdTcamSearchContinue_kept

theorem cmdTcamEntryRead_kept {c : Cmd} {s : State} (h0 : Kept aim s) : Kept aim (cmdTcamEntryRead c s).st := by
  unfold cmdTcamEntryRead
  repeat' first
    | with_reducible assumption
    | (with_reducible intro _)
    | with_reducible apply gate_kept
    | with_reducible apply Res.err_kept
    | with_reducible exact keep_rfl
    | split

theorem execTcamEntryRead_kept {c : Cmd} {s : State} (h0 : Kept aim s) : KeptOut aim (execTcamEntryRead c s) := by
  unfold execTcamEntryRead
  repeat' first
    | with_reducible assumption
    | with_reducible apply serve_kept
    | with_reducible apply cmdTcamEntryRead_kept

theorem State.tcamDeleteOps_kept {s : State} {n : Nat} {l : List Nat} (h0 : Kept aim s) :
    Kept aim (State.tcamDeleteOps s n l).2.2 := by
  induction l generalizing s n with
  | nil => exact h0
  | cons h r ih =>
    unfold State.tcamDeleteOps
    split
    · exact h0
    · split
      · rename_i c x _ _
        dsimp only
        refine ih (State.noteChainFill_kept ?_)
        exact kept_core (State.setChain_kept (c := c) (x := { x with
          ents := x.ents.filter (fun e => e.handle != h), gen := (x.gen + 1) % 4294967296 }) h0) rfl fun _ b => b
      · exact h0

theorem cmdTcamEntryDelete_kept {c : Cmd} {s : State} (h0 : Kept aim s) : Kept aim (cmdTcamEntryDelete c s).st := by
  unfold cmdTcamEntryDelete
  repeat' first
    | with_reducible assumption
    | (with_reducible intro _)
    | with_reducible apply gate_kept
    | with_reducible apply Res.err_kept
    | with_reducible apply State.tcamDeleteOps_kept
    | with_reducible apply State.wrote_kept
    | split
    | dsimp only

theorem execTcamEntryDelete_kept {c : Cmd} {s : State} (h0 : Kept aim s) : KeptOut aim (execTcamEntryDelete c s) := by
  unfold execTcamEntryDelete
  repeat' first
    | with_reducible assumption
    | with_reducible apply serve_kept
    | with_reducible apply cmdTcamEntryDelete_kept

theorem State.tcamFree_kept {s : State} {l : List Nat} (h0 : Kept aim s) : Kept aim (State.tcamFree s l) := h0

theorem execTcamDeleteComplete_kept {handle : Nat} {s : State} (h0 : Kept aim s) :
    KeptOut aim (execTcamDeleteComplete handle s) := by
  unfold execTcamDeleteComplete
  try dsimp only
  repeat' first
    | with_reducible assumption
    | (with_reducible intro _)
    | with_reducible apply kept_foldl
    | with_reducible apply State.tcamFree_kept
    | with_reducible apply done_kept
    | with_reducible apply State.finishOpen_kept
    | with_reducible apply keptOut_next
    | with_reducible exact keptOut_fault
    | with_reducible exact keep_rfl
    | exact fun _ => by decide
    | exact by decide
    | split

theorem cmdTcamStatusGet_kept {c : Cmd} {s : State} (h0 : Kept aim s) : Kept aim (cmdTcamStatusGet c s).st := by
  unfold cmdTcamStatusGet
  repeat' first
    | with_reducible assumption
    | (with_reducible intro _)
    | with_reducible apply gate_kept

theorem execTcamStatusGet_kept {c : Cmd} {s : State} (h0 : Kept aim s) : KeptOut aim (execTcamStatusGet c s) := by
  unfold execTcamStatusGet
  repeat' first
    | with_reducible assumption
    | with_reducible apply serve_kept
    | with_reducible apply cmdTcamStatusGet_kept

theorem State.tcamPoison_kept {s : State} {c i : Nat} (h0 : Kept aim s) : Kept aim (State.tcamPoison s c i) := by
  unfold State.tcamPoison
  repeat' first
    | with_reducible assumption
    | (with_reducible intro _)
    | with_reducible apply State.setChain_kept
    | with_reducible apply State.raise_kept
    | with_reducible exact keep_rfl
    | split

theorem State.tileLost_kept {s : State} {lt : Nat} (h0 : Kept aim s) : Kept aim (State.tileLost s lt) := by
  unfold State.tileLost
  try dsimp only
  repeat' first
    | with_reducible assumption
    | (with_reducible intro _)
    | with_reducible apply kept_foldl
    | with_reducible apply State.record_kept
    | with_reducible apply State.raise_kept
    | with_reducible apply State.setChain_kept
    | with_reducible apply State.noteChainFill_kept
    | with_reducible apply State.setCond_kept
    | with_reducible apply keptOut_next
    | with_reducible exact keptOut_fault
    | (simp only [kept_mk]; with_reducible refine keptMk_of ?_ ?_ ?_ ?_ ?_)
    | with_reducible exact keep_rfl
    | exact fun _ => by decide
    | exact by decide
    | split

theorem State.tileError_kept {s : State} {lt : Nat} (h0 : Kept aim s) : Kept aim (State.tileError s lt) := by
  unfold State.tileError
  dsimp only
  repeat' first
    | with_reducible assumption
    | (with_reducible intro _)
    | with_reducible apply State.bump_kept
    | with_reducible apply State.tileLost_kept
    | (simp only [kept_mk]; with_reducible refine keptMk_of ?_ ?_ ?_ ?_ ?_)
    | with_reducible exact keep_rfl
    | split

theorem State.shadowLost_kept {s : State} {lt row : Nat} {good : Bool} (h0 : Kept aim s) :
    Kept aim (State.shadowLost s lt row good) := by
  unfold State.shadowLost
  try dsimp only
  repeat' first
    | with_reducible assumption
    | (with_reducible intro _)
    | with_reducible apply kept_foldl
    | with_reducible apply State.bump_kept
    | with_reducible apply State.setChain_kept
    | with_reducible apply State.noteChainFill_kept
    | with_reducible apply keptOut_next
    | with_reducible exact keptOut_fault
    | with_reducible exact keep_rfl
    | exact fun _ => by decide
    | exact by decide
    | split

theorem execTcamScrub_kept {bad : List (Nat × Nat)} {s : State} (h0 : Kept aim s) : KeptOut aim (execTcamScrub bad s) := by
  unfold execTcamScrub
  repeat' first
    | with_reducible assumption
    | (with_reducible intro _)
    | with_reducible apply kept_foldl
    | with_reducible apply done_kept
    | with_reducible apply State.tileError_kept
    | with_reducible apply keptOut_next
    | with_reducible exact keptOut_fault
    | split

theorem execSpareTileFilled_kept {lt : Nat} {s : State} (h0 : Kept aim s) : KeptOut aim (execSpareTileFilled lt s) := by
  unfold execSpareTileFilled
  try dsimp only
  repeat' first
    | with_reducible assumption
    | (with_reducible intro _)
    | with_reducible apply kept_foldl
    | with_reducible apply State.record_kept
    | with_reducible apply done_kept
    | with_reducible apply State.raise_kept
    | with_reducible apply keptOut_next
    | with_reducible exact keptOut_fault
    | (simp only [kept_mk]; with_reducible refine keptMk_of ?_ ?_ ?_ ?_ ?_)
    | with_reducible exact keep_rfl
    | exact fun _ => by decide
    | exact by decide
    | split

end Sys2Proof.Machine
end

