-- ==== Sys2Proof/Laws/KeptTables.lean ====
section
/-! SUPPORT. What Machine/Tables.lean leaves: the queue and the invariant (see Laws/Kept.lean). -/
namespace Sys2Proof.Machine
open Sys2Proof
variable {aim : Aim}

theorem State.emOp_kept {s : State} {add replace : Bool} {b : Bytes} (h0 : Kept aim s) :
    Kept aim (State.emOp s add replace b).2 := by
  unfold State.emOp
  dsimp only
  repeat' first
    | with_reducible assumption
    | (with_reducible intro _)
    | with_reducible apply State.noteEmFill_kept
    | with_reducible apply State.placed_kept
    | (with_reducible refine State.placed_kept_eq ?_ (by assumption))
    | with_reducible apply State.growTable_kept
    | (simp only [kept_mk]; with_reducible refine keptMk_of ?_ ?_ ?_ ?_ ?_)
    | with_reducible exact keep_rfl
    | split

theorem State.emOp_kept_eq {s : State} {add replace : Bool} {b : Bytes} {a1 : Nat} {a2 : State}
    (h0 : Kept aim s) (e : State.emOp s add replace b = (a1, a2)) : Kept aim a2 := by
  have x := State.emOp_kept (aim := aim) (s := s) (add := add) (replace := replace) (b := b) h0
  rw [e] at x
  exact x

theorem State.nexthopOp_kept {s : State} {b : Bytes} (h0 : Kept aim s) : Kept aim (State.nexthopOp s b).2 := by
  unfold State.nexthopOp
  dsimp only
  repeat' first
    | with_reducible assumption
    | with_reducible apply State.unpoison_kept
    | (simp only [kept_mk]; with_reducible refine keptMk_of ?_ ?_ ?_ ?_ ?_)
    | with_reducible exact keep_rfl
    | split

theorem State.nexthopOp_kept_eq {s : State} {b : Bytes} {a1 : Nat} {a2 : State}
    (h0 : Kept aim s) (e : State.nexthopOp s b = (a1, a2)) : Kept aim a2 := by
  have x := State.nexthopOp_kept (aim := aim) (s := s) (b := b) h0
  rw [e] at x
  exact x

theorem State.labelOp_kept {s : State} {b : Bytes} (h0 : Kept aim s) : Kept aim (State.labelOp s b).2 := by
  unfold State.labelOp
  dsimp only
  repeat' first
    | with_reducible assumption
    | with_reducible apply State.unpoison_kept
    | (simp only [kept_mk]; with_reducible refine keptMk_of ?_ ?_ ?_ ?_ ?_)
    | with_reducible exact keep_rfl
    | split

theorem State.labelOp_kept_eq {s : State} {b : Bytes} {a1 : Nat} {a2 : State}
    (h0 : Kept aim s) (e : State.labelOp s b = (a1, a2)) : Kept aim a2 := by
  have x := State.labelOp_kept (aim := aim) (s := s) (b := b) h0
  rw [e] at x
  exact x

theorem State.editMended_kept {s : State} {kind : Nat} {l : List Nat} (h0 : Kept aim s) :
    Kept aim (State.editMended s kind l) := h0

theorem State.encapOp_kept {s : State} {b : Bytes} (h0 : Kept aim s) : Kept aim (State.encapOp s b).2 := by
  unfold State.encapOp
  dsimp only
  repeat' first
    | with_reducible assumption
    | with_reducible apply State.editMended_kept
    | (simp only [kept_mk]; with_reducible refine keptMk_of ?_ ?_ ?_ ?_ ?_)
    | with_reducible exact keep_rfl
    | split

theorem State.encapOp_kept_eq {s : State} {b : Bytes} {a1 : Nat} {a2 : State}
    (h0 : Kept aim s) (e : State.encapOp s b = (a1, a2)) : Kept aim a2 := by
  have x := State.encapOp_kept (aim := aim) (s := s) (b := b) h0
  rw [e] at x
  exact x

theorem State.batchOp_kept {s : State} {opcode flags : Nat} {b : Bytes} (h0 : Kept aim s) :
    Kept aim (State.batchOp s opcode flags b).2 := by
  unfold State.batchOp
  dsimp only
  repeat' first
    | with_reducible assumption
    | with_reducible apply State.routeOp_kept
    | (with_reducible refine State.routeOp_kept_eq ?_ (by assumption))
    | with_reducible apply State.nexthopOp_kept
    | (with_reducible refine State.nexthopOp_kept_eq ?_ (by assumption))
    | with_reducible apply State.labelOp_kept
    | (with_reducible refine State.labelOp_kept_eq ?_ (by assumption))
    | with_reducible apply State.emOp_kept
    | (with_reducible refine State.emOp_kept_eq ?_ (by assumption))
    | with_reducible apply State.tcamInsertOp_kept
    | (with_reducible refine State.tcamInsertOp_kept_eq ?_ (by assumption))
    | with_reducible apply State.tcamModifyOp_kept
    | (with_reducible refine State.tcamModifyOp_kept_eq ?_ (by assumption))
    | with_reducible apply State.encapOp_kept
    | (with_reducible refine State.encapOp_kept_eq ?_ (by assumption))
    | split

theorem State.batchOp_kept_eq {s : State} {opcode flags : Nat} {b : Bytes} {a1 : Nat} {a2 : State}
    (h0 : Kept aim s) (e : State.batchOp s opcode flags b = (a1, a2)) : Kept aim a2 := by
  have x := State.batchOp_kept (aim := aim) (s := s) (opcode := opcode) (flags := flags) (b := b) h0
  rw [e] at x
  exact x

theorem State.portOp_kept {s : State} {w : PortWork} (h0 : Kept aim s) : Kept aim (State.portOp s w).2 := by
  unfold State.portOp
  try dsimp only
  repeat' first
    | with_reducible assumption
    | (with_reducible intro _)
    | with_reducible apply kept_foldl
    | with_reducible apply State.batchOp_kept
    | (with_reducible refine State.batchOp_kept_eq ?_ (by assumption))
    | with_reducible apply State.wrote_kept
    | with_reducible apply keptOut_next
    | with_reducible exact keptOut_fault
    | with_reducible exact keep_rfl
    | exact fun _ => by decide
    | exact by decide
    | split

theorem State.portOp_kept_eq {s : State} {w : PortWork} {a1 : PortNext} {a2 : State}
    (h0 : Kept aim s) (e : State.portOp s w = (a1, a2)) : Kept aim a2 := by
  have x := State.portOp_kept (aim := aim) (s := s) (w := w) h0
  rw [e] at x
  exact x

theorem State.portStart_kept {s : State} {opcode flags : Nat} {l : List Bytes} (h0 : Kept aim s) :
    Kept aim (State.portStart s opcode flags l).st := by
  unfold State.portStart
  try dsimp only
  repeat' first
    | with_reducible assumption
    | (with_reducible intro _)
    | with_reducible apply kept_foldl
    | with_reducible apply State.portOp_kept
    | (with_reducible refine State.portOp_kept_eq ?_ (by assumption))
    | with_reducible apply keptOut_next
    | with_reducible exact keptOut_fault
    | (simp only [kept_mk]; with_reducible refine keptMk_of ?_ ?_ ?_ ?_ ?_)
    | with_reducible exact keep_rfl
    | exact fun _ => by decide
    | exact by decide
    | split

theorem State.startBatch_kept {s : State} {opcode : Nat} {payload : Bytes} (h0 : Kept aim s) :
    Kept aim (State.startBatch s opcode payload).st := by
  unfold State.startBatch
  try dsimp only
  repeat' first
    | with_reducible assumption
    | (with_reducible intro _)
    | with_reducible apply kept_foldl
    | with_reducible apply Res.err_kept
    | with_reducible apply State.portStart_kept
    | with_reducible apply keptOut_next
    | with_reducible exact keptOut_fault
    | (simp only [kept_mk]; with_reducible refine keptMk_of ?_ ?_ ?_ ?_ ?_)
    | with_reducible exact keep_rfl
    | exact fun _ => by decide
    | exact by decide
    | split

theorem cmdRouteAdd_kept {c : Cmd} {s : State} (h0 : Kept aim s) : Kept aim (cmdRouteAdd c s).st := by
  unfold cmdRouteAdd
  repeat' first
    | with_reducible assumption
    | (with_reducible intro _)
    | with_reducible apply gate_kept
    | with_reducible apply State.startBatch_kept

theorem cmdRouteDelete_kept {c : Cmd} {s : State} (h0 : Kept aim s) : Kept aim (cmdRouteDelete c s).st := by
  unfold cmdRouteDelete
  repeat' first
    | with_reducible assumption
    | (with_reducible intro _)
    | with_reducible apply gate_kept
    | with_reducible apply State.startBatch_kept

theorem cmdNexthopSet_kept {c : Cmd} {s : State} (h0 : Kept aim s) : Kept aim (cmdNexthopSet c s).st := by
  unfold cmdNexthopSet
  repeat' first
    | with_reducible assumption
    | (with_reducible intro _)
    | with_reducible apply gate_kept
    | with_reducible apply State.startBatch_kept

theorem cmdLabelSet_kept {c : Cmd} {s : State} (h0 : Kept aim s) : Kept aim (cmdLabelSet c s).st := by
  unfold cmdLabelSet
  repeat' first
    | with_reducible assumption
    | (with_reducible intro _)
    | with_reducible apply gate_kept
    | with_reducible apply State.startBatch_kept

theorem cmdEmInsert_kept {c : Cmd} {s : State} (h0 : Kept aim s) : Kept aim (cmdEmInsert c s).st := by
  unfold cmdEmInsert
  repeat' first
    | with_reducible assumption
    | (with_reducible intro _)
    | with_reducible apply gate_kept
    | with_reducible apply State.startBatch_kept

theorem cmdEmDelete_kept {c : Cmd} {s : State} (h0 : Kept aim s) : Kept aim (cmdEmDelete c s).st := by
  unfold cmdEmDelete
  repeat' first
    | with_reducible assumption
    | (with_reducible intro _)
    | with_reducible apply gate_kept
    | with_reducible apply State.startBatch_kept

theorem cmdEncapSet_kept {c : Cmd} {s : State} (h0 : Kept aim s) : Kept aim (cmdEncapSet c s).st := by
  unfold cmdEncapSet
  repeat' first
    | with_reducible assumption
    | (with_reducible intro _)
    | with_reducible apply gate_kept
    | with_reducible apply State.startBatch_kept

theorem cmdTcamEntryInsert_kept {c : Cmd} {s : State} (h0 : Kept aim s) : Kept aim (cmdTcamEntryInsert c s).st := by
  unfold cmdTcamEntryInsert
  repeat' first
    | with_reducible assumption
    | (with_reducible intro _)
    | with_reducible apply gate_kept
    | with_reducible apply State.startBatch_kept

theorem cmdTcamEntryModify_kept {c : Cmd} {s : State} (h0 : Kept aim s) : Kept aim (cmdTcamEntryModify c s).st := by
  unfold cmdTcamEntryModify
  repeat' first
    | with_reducible assumption
    | (with_reducible intro _)
    | with_reducible apply gate_kept
    | with_reducible apply State.startBatch_kept

theorem execRouteAdd_kept {c : Cmd} {s : State} (h0 : Kept aim s) : KeptOut aim (execRouteAdd c s) := by
  unfold execRouteAdd
  repeat' first
    | with_reducible assumption
    | with_reducible apply serve_kept
    | with_reducible apply cmdRouteAdd_kept

theorem execRouteDelete_kept {c : Cmd} {s : State} (h0 : Kept aim s) : KeptOut aim (execRouteDelete c s) := by
  unfold execRouteDelete
  repeat' first
    | with_reducible assumption
    | with_reducible apply serve_kept
    | with_reducible apply cmdRouteDelete_kept

theorem execNexthopSet_kept {c : Cmd} {s : State} (h0 : Kept aim s) : KeptOut aim (execNexthopSet c s) := by
  unfold execNexthopSet
  repeat' first
    | with_reducible assumption
    | with_reducible apply serve_kept
    | with_reducible apply cmdNexthopSet_kept

theorem execLabelSet_kept {c : Cmd} {s : State} (h0 : Kept aim s) : KeptOut aim (execLabelSet c s) := by
  unfold execLabelSet
  repeat' first
    | with_reducible assumption
    | with_reducible apply serve_kept
    | with_reducible apply cmdLabelSet_kept

theorem execEmInsert_kept {c : Cmd} {s : State} (h0 : Kept aim s) : KeptOut aim (execEmInsert c s) := by
  unfold execEmInsert
  repeat' first
    | with_reducible assumption
    | with_reducible apply serve_kept
    | with_reducible apply cmdEmInsert_kept

theorem execEmDelete_kept {c : Cmd} {s : State} (h0 : Kept aim s) : KeptOut aim (execEmDelete c s) := by
  unfold execEmDelete
  repeat' first
    | with_reducible assumption
    | with_reducible apply serve_kept
    | with_reducible apply cmdEmDelete_kept

theorem execEncapSet_kept {c : Cmd} {s : State} (h0 : Kept aim s) : KeptOut aim (execEncapSet c s) := by
  unfold execEncapSet
  repeat' first
    | with_reducible assumption
    | with_reducible apply serve_kept
    | with_reducible apply cmdEncapSet_kept

theorem execTcamEntryInsert_kept {c : Cmd} {s : State} (h0 : Kept aim s) : KeptOut aim (execTcamEntryInsert c s) := by
  unfold execTcamEntryInsert
  repeat' first
    | with_reducible assumption
    | with_reducible apply serve_kept
    | with_reducible apply cmdTcamEntryInsert_kept

theorem execTcamEntryModify_kept {c : Cmd} {s : State} (h0 : Kept aim s) : KeptOut aim (execTcamEntryModify c s) := by
  unfold execTcamEntryModify
  repeat' first
    | with_reducible assumption
    | with_reducible apply serve_kept
    | with_reducible apply cmdTcamEntryModify_kept

theorem State.portFinish_kept {s : State} {id status applied failIndex : Nat} (h0 : Kept aim s) :
    Kept aim (State.portFinish s id status applied failIndex) := by
  unfold State.portFinish
  try dsimp only
  repeat' first
    | with_reducible assumption
    | (with_reducible intro _)
    | with_reducible apply kept_foldl
    | with_reducible apply State.finishOpen_kept

theorem State.portDue_kept {s : State} (h0 : Kept aim s) : Kept aim (State.portDue s) := by
  unfold State.portDue
  try dsimp only
  repeat' first
    | with_reducible assumption
    | (with_reducible intro _)
    | with_reducible apply kept_foldl
    | with_reducible apply keptOut_next
    | with_reducible exact keptOut_fault
    | (simp only [kept_mk]; with_reducible refine keptMk_of ?_ ?_ ?_ ?_ ?_)
    | with_reducible exact keep_rfl
    | exact fun _ => by decide
    | exact by decide
    | split

theorem execGrownTableRelease_kept {table : Nat} {s : State} (h0 : Kept aim s) :
    KeptOut aim (execGrownTableRelease table s) := by
  unfold execGrownTableRelease
  try dsimp only
  repeat' first
    | with_reducible assumption
    | (with_reducible intro _)
    | with_reducible apply kept_foldl
    | with_reducible apply done_kept
    | with_reducible apply State.noteFibFill_kept
    | with_reducible apply State.noteEmFill_kept
    | with_reducible apply keptOut_next
    | with_reducible exact keptOut_fault
    | (simp only [kept_mk]; with_reducible refine keptMk_of ?_ ?_ ?_ ?_ ?_)
    | with_reducible exact keep_rfl
    | exact fun _ => by decide
    | exact by decide
    | split

theorem execEcmpBlockRelease_kept {group : Nat} {s : State} (h0 : Kept aim s) : KeptOut aim (execEcmpBlockRelease group s) := by
  unfold execEcmpBlockRelease
  try dsimp only
  repeat' first
    | with_reducible assumption
    | (with_reducible intro _)
    | with_reducible apply kept_foldl
    | with_reducible apply done_kept
    | with_reducible apply State.notePoolFill_kept
    | with_reducible apply keptOut_next
    | with_reducible exact keptOut_fault
    | (simp only [kept_mk]; with_reducible refine keptMk_of ?_ ?_ ?_ ?_ ?_)
    | with_reducible exact keep_rfl
    | exact fun _ => by decide
    | exact by decide
    | split

theorem cmdRouteGet_kept {c : Cmd} {s : State} (h0 : Kept aim s) : Kept aim (cmdRouteGet c s).st := by
  unfold cmdRouteGet
  repeat' first
    | with_reducible assumption
    | (with_reducible intro _)
    | with_reducible apply gate_kept
    | with_reducible apply Res.err_kept
    | with_reducible exact keep_rfl
    | split
    | dsimp only

theorem execRouteGet_kept {c : Cmd} {s : State} (h0 : Kept aim s) : KeptOut aim (execRouteGet c s) := by
  unfold execRouteGet
  repeat' first
    | with_reducible assumption
    | with_reducible apply serve_kept
    | with_reducible apply cmdRouteGet_kept

theorem cmdLengthReserve_kept {c : Cmd} {s : State} (h0 : Kept aim s) : Kept aim (cmdLengthReserve c s).st := by
  unfold cmdLengthReserve
  repeat' first
    | with_reducible assumption
    | (with_reducible intro _)
    | with_reducible apply gate_kept
    | with_reducible apply Res.err_kept
    | with_reducible apply State.fibShrink_kept
    | (with_reducible refine State.fibShrink_kept_eq ?_ (by assumption))
    | with_reducible apply State.fibStore_kept
    | with_reducible exact keep_rfl
    | split
    | dsimp only

theorem execLengthReserve_kept {c : Cmd} {s : State} (h0 : Kept aim s) : KeptOut aim (execLengthReserve c s) := by
  unfold execLengthReserve
  repeat' first
    | with_reducible assumption
    | with_reducible apply serve_kept
    | with_reducible apply cmdLengthReserve_kept

theorem cmdEcmpCreate_kept {c : Cmd} {s : State} (h0 : Kept aim s) : Kept aim (cmdEcmpCreate c s).st := by
  unfold cmdEcmpCreate
  try dsimp only
  repeat' first
    | with_reducible assumption
    | (with_reducible intro _)
    | with_reducible apply kept_foldl
    | with_reducible apply gate_kept
    | with_reducible apply Res.err_kept
    | with_reducible apply State.notePoolFill_kept
    | with_reducible apply State.unpoison_kept
    | with_reducible apply State.unpoisonRun_kept
    | with_reducible apply State.wrote_kept
    | with_reducible apply keptOut_next
    | with_reducible exact keptOut_fault
    | (simp only [kept_mk]; with_reducible refine keptMk_of ?_ ?_ ?_ ?_ ?_)
    | with_reducible exact keep_rfl
    | exact fun _ => by decide
    | exact by decide
    | split

theorem execEcmpCreate_kept {c : Cmd} {s : State} (h0 : Kept aim s) : KeptOut aim (execEcmpCreate c s) := by
  unfold execEcmpCreate
  repeat' first
    | with_reducible assumption
    | with_reducible apply serve_kept
    | with_reducible apply cmdEcmpCreate_kept

theorem cmdEcmpCountSet_kept {c : Cmd} {s : State} (h0 : Kept aim s) : Kept aim (cmdEcmpCountSet c s).st := by
  unfold cmdEcmpCountSet
  repeat' first
    | with_reducible assumption
    | (with_reducible intro _)
    | with_reducible apply gate_kept
    | with_reducible apply Res.err_kept
    | with_reducible apply State.wrote_kept
    | (simp only [kept_mk]; with_reducible refine keptMk_of ?_ ?_ ?_ ?_ ?_)
    | with_reducible exact keep_rfl
    | split
    | dsimp only

theorem execEcmpCountSet_kept {c : Cmd} {s : State} (h0 : Kept aim s) : KeptOut aim (execEcmpCountSet c s) := by
  unfold execEcmpCountSet
  repeat' first
    | with_reducible assumption
    | with_reducible apply serve_kept
    | with_reducible apply cmdEcmpCountSet_kept

theorem cmdEmTableConfig_kept {c : Cmd} {s : State} (h0 : Kept aim s) : Kept aim (cmdEmTableConfig c s).st := by
  unfold cmdEmTableConfig
  repeat' first
    | with_reducible assumption
    | (with_reducible intro _)
    | with_reducible apply gate_kept
    | with_reducible apply Res.err_kept
    | with_reducible apply State.wrote_kept
    | (simp only [kept_mk]; with_reducible refine keptMk_of ?_ ?_ ?_ ?_ ?_)
    | with_reducible exact keep_rfl
    | split
    | dsimp only

theorem execEmTableConfig_kept {c : Cmd} {s : State} (h0 : Kept aim s) : KeptOut aim (execEmTableConfig c s) := by
  unfold execEmTableConfig
  repeat' first
    | with_reducible assumption
    | with_reducible apply serve_kept
    | with_reducible apply cmdEmTableConfig_kept

theorem cmdInterfaceSet_kept {c : Cmd} {s : State} (h0 : Kept aim s) : Kept aim (cmdInterfaceSet c s).st := by
  unfold cmdInterfaceSet
  repeat' first
    | with_reducible assumption
    | (with_reducible intro _)
    | with_reducible apply gate_kept
    | with_reducible apply Res.err_kept
    | with_reducible apply State.wrote_kept
    | (simp only [kept_mk]; with_reducible refine keptMk_of ?_ ?_ ?_ ?_ ?_)
    | with_reducible exact keep_rfl
    | split
    | dsimp only

theorem execInterfaceSet_kept {c : Cmd} {s : State} (h0 : Kept aim s) : KeptOut aim (execInterfaceSet c s) := by
  unfold execInterfaceSet
  repeat' first
    | with_reducible assumption
    | with_reducible apply serve_kept
    | with_reducible apply cmdInterfaceSet_kept

theorem cmdRouterMacSet_kept {c : Cmd} {s : State} (h0 : Kept aim s) : Kept aim (cmdRouterMacSet c s).st := by
  unfold cmdRouterMacSet
  repeat' first
    | with_reducible assumption
    | (with_reducible intro _)
    | with_reducible apply gate_kept
    | with_reducible apply Res.err_kept
    | with_reducible apply State.wrote_kept
    | (simp only [kept_mk]; with_reducible refine keptMk_of ?_ ?_ ?_ ?_ ?_)
    | with_reducible exact keep_rfl
    | split
    | dsimp only

theorem execRouterMacSet_kept {c : Cmd} {s : State} (h0 : Kept aim s) : KeptOut aim (execRouterMacSet c s) := by
  unfold execRouterMacSet
  repeat' first
    | with_reducible assumption
    | with_reducible apply serve_kept
    | with_reducible apply cmdRouterMacSet_kept

theorem cmdObjRetire_kept {c : Cmd} {s : State} (h0 : Kept aim s) : Kept aim (cmdObjRetire c s).st := by
  unfold cmdObjRetire
  repeat' first
    | with_reducible assumption
    | (with_reducible intro _)
    | with_reducible apply gate_kept
    | with_reducible apply Res.err_kept
    | (simp only [kept_mk]; with_reducible refine keptMk_of ?_ ?_ ?_ ?_ ?_)
    | with_reducible exact keep_rfl
    | split
    | dsimp only

theorem execObjRetire_kept {c : Cmd} {s : State} (h0 : Kept aim s) : KeptOut aim (execObjRetire c s) := by
  unfold execObjRetire
  repeat' first
    | with_reducible assumption
    | with_reducible apply serve_kept
    | with_reducible apply cmdObjRetire_kept

theorem State.freeObject_kept {s : State} {r : Retiring} (h0 : Kept aim s) : Kept aim (State.freeObject s r) := by
  unfold State.freeObject
  dsimp only
  repeat' first
    | with_reducible assumption
    | (with_reducible intro _)
    | with_reducible apply State.unpoison_kept
    | with_reducible apply State.notePoolFill_kept
    | (simp only [kept_mk]; with_reducible refine keptMk_of ?_ ?_ ?_ ?_ ?_)
    | with_reducible exact keep_rfl
    | split

theorem State.finishRetired_kept {s : State} (h0 : Kept aim s) : Kept aim (State.finishRetired s) := by
  unfold State.finishRetired
  repeat' first
    | with_reducible assumption
    | (with_reducible intro _)
    | with_reducible apply kept_foldl
    | with_reducible apply State.finishOpen_kept

theorem execRetirementEpochEnd_kept {s : State} (h0 : Kept aim s) : KeptOut aim (execRetirementEpochEnd s) := by
  unfold execRetirementEpochEnd
  repeat' first
    | with_reducible assumption
    | (with_reducible intro _)
    | with_reducible apply kept_foldl
    | with_reducible apply State.freeObject_kept
    | with_reducible apply done_kept
    | with_reducible apply State.finishRetired_kept
    | with_reducible apply keptOut_next
    | (simp only [kept_mk]; with_reducible refine keptMk_of ?_ ?_ ?_ ?_ ?_)
    | with_reducible exact keep_rfl
    | split

theorem State.delayRetire_kept {s : State} {δ : Nat} (h0 : Kept aim s) : Kept aim (State.delayRetire s δ) := h0

theorem cmdObjCountersGet_kept {c : Cmd} {s : State} (h0 : Kept aim s) : Kept aim (cmdObjCountersGet c s).st := by
  unfold cmdObjCountersGet
  repeat' first
    | with_reducible assumption
    | (with_reducible intro _)
    | with_reducible apply gate_kept
    | with_reducible apply Res.err_kept
    | (simp only [kept_mk]; with_reducible refine keptMk_of ?_ ?_ ?_ ?_ ?_)
    | with_reducible exact keep_rfl
    | split
    | dsimp only

theorem execObjCountersGet_kept {c : Cmd} {s : State} (h0 : Kept aim s) : KeptOut aim (execObjCountersGet c s) := by
  unfold execObjCountersGet
  repeat' first
    | with_reducible assumption
    | with_reducible apply serve_kept
    | with_reducible apply cmdObjCountersGet_kept

theorem execCounterUpdate_kept {s : State} (h0 : Kept aim s) : KeptOut aim (execCounterUpdate s) := by
  unfold execCounterUpdate
  try dsimp only
  repeat' first
    | with_reducible assumption
    | (with_reducible intro _)
    | with_reducible apply kept_foldl
    | with_reducible apply done_kept
    | with_reducible apply keptOut_next
    | with_reducible exact keptOut_fault
    | (simp only [kept_mk]; with_reducible refine keptMk_of ?_ ?_ ?_ ?_ ?_)
    | with_reducible exact keep_rfl
    | exact fun _ => by decide
    | exact by decide
    | split

theorem State.poisonAdd_kept {s : State} {p : Poison} {empty : State → State} (h0 : Kept aim s)
    (h1 : ∀ z, Kept aim z → Kept aim (empty z)) : Kept aim (State.poisonAdd s p empty) := by
  unfold State.poisonAdd
  repeat' first
    | with_reducible assumption
    | (with_reducible intro _)
    | with_reducible apply h1
    | with_reducible apply State.raise_kept
    | with_reducible apply State.setCond_kept
    | (simp only [kept_mk]; with_reducible refine keptMk_of ?_ ?_ ?_ ?_ ?_)
    | with_reducible exact keep_rfl
    | split

theorem State.poisonFib_kept {s : State} {vrf fam len way bucket : Nat} (h0 : Kept aim s) :
    Kept aim (State.poisonFib s vrf fam len way bucket) := by
  unfold State.poisonFib
  exact State.poisonAdd_kept (kept_core h0 rfl fun _ b => b) fun _ h => kept_core h rfl fun _ b => b

theorem State.fibMended_kept {s : State} {p : Poison} (h0 : Kept aim s) : Kept aim (State.fibMended s p) := by
  unfold State.fibMended
  try dsimp only
  repeat' first
    | with_reducible assumption
    | (with_reducible intro _)
    | with_reducible apply kept_foldl
    | with_reducible apply State.fibStore_kept
    | with_reducible apply keptOut_next
    | with_reducible exact keptOut_fault
    | (simp only [kept_mk]; with_reducible refine keptMk_of ?_ ?_ ?_ ?_ ?_)
    | with_reducible exact keep_rfl
    | exact fun _ => by decide
    | exact by decide
    | split

theorem State.poisonEm_kept {s : State} {table way bucket : Nat} (h0 : Kept aim s) :
    Kept aim (State.poisonEm s table way bucket) :=
  State.poisonAdd_kept h0 fun _ h => h

theorem State.poisonLabel_kept {s : State} {i : Nat} (h0 : Kept aim s) : Kept aim (State.poisonLabel s i) := by
  unfold State.poisonLabel
  repeat' first
    | with_reducible assumption
    | (with_reducible intro _)
    | with_reducible apply State.poisonAdd_kept
    | (simp only [kept_mk]; with_reducible refine keptMk_of ?_ ?_ ?_ ?_ ?_)
    | with_reducible exact keep_rfl

theorem State.poisonNexthop_kept {s : State} {i : Nat} (h0 : Kept aim s) : Kept aim (State.poisonNexthop s i) := by
  unfold State.poisonNexthop
  repeat' first
    | with_reducible assumption
    | (with_reducible intro _)
    | with_reducible apply State.poisonAdd_kept
    | (simp only [kept_mk]; with_reducible refine keptMk_of ?_ ?_ ?_ ?_ ?_)
    | with_reducible exact keep_rfl

theorem State.poisonEcmp_kept {s : State} {g : Nat} (h0 : Kept aim s) : Kept aim (State.poisonEcmp s g) := by
  unfold State.poisonEcmp
  try dsimp only
  repeat' first
    | with_reducible assumption
    | (with_reducible intro _)
    | with_reducible apply kept_foldl
    | with_reducible apply State.poisonAdd_kept
    | with_reducible apply keptOut_next
    | with_reducible exact keptOut_fault
    | (simp only [kept_mk]; with_reducible refine keptMk_of ?_ ?_ ?_ ?_ ?_)
    | with_reducible exact keep_rfl

theorem State.poisonMember_kept {s : State} {i : Nat} (h0 : Kept aim s) : Kept aim (State.poisonMember s i) := by
  unfold State.poisonMember
  repeat' first
    | with_reducible assumption
    | (with_reducible intro _)
    | with_reducible apply State.poisonAdd_kept
    | (simp only [kept_mk]; with_reducible refine keptMk_of ?_ ?_ ?_ ?_ ?_)
    | with_reducible exact keep_rfl

theorem execMarkerRebuildDone_kept {entry : Nat} {s : State} (h0 : Kept aim s) :
    KeptOut aim (execMarkerRebuildDone entry s) := by
  unfold execMarkerRebuildDone
  repeat' first
    | with_reducible assumption
    | with_reducible apply State.fibStore_kept
    | with_reducible apply done_kept
    | with_reducible apply keptOut_next
    | (simp only [kept_mk]; with_reducible refine keptMk_of ?_ ?_ ?_ ?_ ?_)
    | with_reducible exact keep_rfl
    | split

theorem cmdTableRepairDone_kept {c : Cmd} {s : State} (h0 : Kept aim s) : Kept aim (cmdTableRepairDone c s).st := by
  unfold cmdTableRepairDone
  try dsimp only
  repeat' first
    | with_reducible assumption
    | (with_reducible intro _)
    | with_reducible apply kept_foldl
    | with_reducible apply gate_kept
    | with_reducible apply Res.err_kept
    | with_reducible apply State.clearCond_kept
    | with_reducible apply State.fibMended_kept
    | with_reducible apply keptOut_next
    | with_reducible exact keptOut_fault
    | (simp only [kept_mk]; with_reducible refine keptMk_of ?_ ?_ ?_ ?_ ?_)
    | with_reducible exact keep_rfl
    | exact fun _ => by decide
    | exact by decide
    | split

theorem execTableRepairDone_kept {c : Cmd} {s : State} (h0 : Kept aim s) : KeptOut aim (execTableRepairDone c s) := by
  unfold execTableRepairDone
  repeat' first
    | with_reducible assumption
    | with_reducible apply serve_kept
    | with_reducible apply cmdTableRepairDone_kept

theorem cmdTableSplitSet_kept {c : Cmd} {s : State} (h0 : Kept aim s) : Kept aim (cmdTableSplitSet c s).st := by
  unfold cmdTableSplitSet
  try dsimp only
  repeat' first
    | with_reducible assumption
    | (with_reducible intro _)
    | with_reducible apply kept_foldl
    | with_reducible apply gate_kept
    | with_reducible apply Res.err_kept
    | with_reducible apply State.noteFibFill_kept
    | with_reducible apply State.noteEmFill_kept
    | with_reducible apply keptOut_next
    | with_reducible exact keptOut_fault
    | (simp only [kept_mk]; with_reducible refine keptMk_of ?_ ?_ ?_ ?_ ?_)
    | with_reducible exact keep_rfl
    | exact fun _ => by decide
    | exact by decide
    | split

theorem execTableSplitSet_kept {c : Cmd} {s : State} (h0 : Kept aim s) : KeptOut aim (execTableSplitSet c s) := by
  unfold execTableSplitSet
  repeat' first
    | with_reducible assumption
    | with_reducible apply serve_kept
    | with_reducible apply cmdTableSplitSet_kept

theorem cmdLookupConfig_kept {c : Cmd} {s : State} (h0 : Kept aim s) : Kept aim (cmdLookupConfig c s).st := by
  unfold cmdLookupConfig
  repeat' first
    | with_reducible assumption
    | (with_reducible intro _)
    | with_reducible apply gate_kept
    | with_reducible apply Res.err_kept
    | (simp only [kept_mk]; with_reducible refine keptMk_of ?_ ?_ ?_ ?_ ?_)
    | with_reducible exact keep_rfl
    | split

theorem execLookupConfig_kept {c : Cmd} {s : State} (h0 : Kept aim s) : KeptOut aim (execLookupConfig c s) := by
  unfold execLookupConfig
  repeat' first
    | with_reducible assumption
    | with_reducible apply serve_kept
    | with_reducible apply cmdLookupConfig_kept

theorem cmdTableStatusGet_kept {c : Cmd} {s : State} (h0 : Kept aim s) : Kept aim (cmdTableStatusGet c s).st := by
  unfold cmdTableStatusGet
  repeat' first
    | with_reducible assumption
    | (with_reducible intro _)
    | with_reducible apply gate_kept

theorem execTableStatusGet_kept {c : Cmd} {s : State} (h0 : Kept aim s) : KeptOut aim (execTableStatusGet c s) := by
  unfold execTableStatusGet
  repeat' first
    | with_reducible assumption
    | with_reducible apply serve_kept
    | with_reducible apply cmdTableStatusGet_kept

end Sys2Proof.Machine
end

