-- ==== Sys2Proof/Laws/KeptQos.lean ====
section
/-! SUPPORT. What Machine/Qos.lean leaves: the queue and the invariant (see Laws/Kept.lean). -/
namespace Sys2Proof.Machine
open Sys2Proof
variable {aim : Aim}

theorem cmdQosMapSet_kept {c : Cmd} {s : State} (h0 : Kept aim s) : Kept aim (cmdQosMapSet c s).st := by
  unfold cmdQosMapSet
  repeat' first
    | with_reducible assumption
    | (with_reducible intro _)
    | with_reducible apply gate_kept
    | with_reducible apply Res.err_kept
    | (simp only [kept_mk]; with_reducible refine keptMk_of ?_ ?_ ?_ ?_ ?_)
    | with_reducible exact keep_rfl
    | split
    | dsimp only

theorem execQosMapSet_kept {c : Cmd} {s : State} (h0 : Kept aim s) : KeptOut aim (execQosMapSet c s) := by
  unfold execQosMapSet
  repeat' first
    | with_reducible assumption
    | with_reducible apply serve_kept
    | with_reducible apply cmdQosMapSet_kept

theorem cmdQosPortSet_kept {c : Cmd} {s : State} (h0 : Kept aim s) : Kept aim (cmdQosPortSet c s).st := by
  unfold cmdQosPortSet
  repeat' first
    | with_reducible assumption
    | (with_reducible intro _)
    | with_reducible apply gate_kept
    | with_reducible apply Res.err_kept
    | with_reducible apply State.updPrt_kept
    | with_reducible exact keep_rfl
    | split
    | dsimp only

theorem execQosPortSet_kept {c : Cmd} {s : State} (h0 : Kept aim s) : KeptOut aim (execQosPortSet c s) := by
  unfold execQosPortSet
  repeat' first
    | with_reducible assumption
    | with_reducible apply serve_kept
    | with_reducible apply cmdQosPortSet_kept

theorem State.setPolicer_kept {s : State} {i : Nat} {x : Policer} (h0 : Kept aim s) : Kept aim (State.setPolicer s i x) := h0

theorem State.police_kept {s : State} {i len pre : Nat} (h0 : Kept aim s) : Kept aim (State.police s i len pre).st := by
  unfold State.police
  dsimp only
  repeat' first
    | with_reducible assumption
    | with_reducible apply State.setPolicer_kept
    | with_reducible apply State.bump_kept
    | with_reducible apply State.raise_kept
    | with_reducible apply State.pairAdd_kept
    | with_reducible exact keep_rfl
    | split

theorem cmdPolicerProfileSet_kept {c : Cmd} {s : State} (h0 : Kept aim s) : Kept aim (cmdPolicerProfileSet c s).st := by
  unfold cmdPolicerProfileSet
  try dsimp only
  repeat' first
    | with_reducible assumption
    | (with_reducible intro _)
    | with_reducible apply kept_foldl
    | with_reducible apply gate_kept
    | with_reducible apply Res.err_kept
    | with_reducible apply keptOut_next
    | with_reducible exact keptOut_fault
    | (simp only [kept_mk]; with_reducible refine keptMk_of ?_ ?_ ?_ ?_ ?_)
    | with_reducible exact keep_rfl
    | exact fun _ => by decide
    | exact by decide
    | split

theorem execPolicerProfileSet_kept {c : Cmd} {s : State} (h0 : Kept aim s) : KeptOut aim (execPolicerProfileSet c s) := by
  unfold execPolicerProfileSet
  repeat' first
    | with_reducible assumption
    | with_reducible apply serve_kept
    | with_reducible apply cmdPolicerProfileSet_kept

theorem State.policerOp_kept {s : State} {b : Bytes} (h0 : Kept aim s) : Kept aim (State.policerOp s b).2 := by
  unfold State.policerOp
  try dsimp only
  repeat' first
    | with_reducible assumption
    | (with_reducible intro _)
    | with_reducible apply kept_foldl
    | with_reducible apply State.setPolicer_kept
    | with_reducible apply keptOut_next
    | with_reducible exact keptOut_fault
    | with_reducible exact keep_rfl
    | exact fun _ => by decide
    | exact by decide
    | split

theorem State.policerOp_kept_eq {s : State} {b : Bytes} {a1 : Nat} {a2 : State}
    (h0 : Kept aim s) (e : State.policerOp s b = (a1, a2)) : Kept aim a2 := by
  have x := State.policerOp_kept (aim := aim) (s := s) (b := b) h0
  rw [e] at x
  exact x

theorem runEach_kept {op : State → Bytes → Nat × State} {s : State} {n : Nat} {l : List Bytes}
    (ho : ∀ z b, Kept aim z → Kept aim (op z b).2) (h0 : Kept aim s) : Kept aim (runEach op s n l).2.2 := by
  induction l generalizing s n with
  | nil => exact h0
  | cons b r ih =>
    unfold runEach
    dsimp only
    split
    · exact ih (ho _ _ h0)
    · exact ho _ _ h0

theorem eachRes_kept {r : Nat × Nat × State} (h0 : Kept aim r.2.2) : Kept aim (eachRes r).st := h0

theorem cmdPolicerSet_kept {c : Cmd} {s : State} (h0 : Kept aim s) : Kept aim (cmdPolicerSet c s).st := by
  unfold cmdPolicerSet
  repeat' first
    | with_reducible assumption
    | (with_reducible intro _)
    | with_reducible apply gate_kept
    | with_reducible apply Res.err_kept
    | with_reducible apply eachRes_kept
    | with_reducible apply runEach_kept
    | with_reducible apply State.policerOp_kept
    | (with_reducible refine State.policerOp_kept_eq ?_ (by assumption))
    | split
    | dsimp only

theorem execPolicerSet_kept {c : Cmd} {s : State} (h0 : Kept aim s) : KeptOut aim (execPolicerSet c s) := by
  unfold execPolicerSet
  repeat' first
    | with_reducible assumption
    | with_reducible apply serve_kept
    | with_reducible apply cmdPolicerSet_kept

theorem cmdPolicerStatusGet_kept {c : Cmd} {s : State} (h0 : Kept aim s) : Kept aim (cmdPolicerStatusGet c s).st := by
  unfold cmdPolicerStatusGet
  try dsimp only
  repeat' first
    | with_reducible assumption
    | (with_reducible intro _)
    | with_reducible apply kept_foldl
    | with_reducible apply gate_kept
    | with_reducible apply Res.err_kept
    | with_reducible apply keptOut_next
    | with_reducible exact keptOut_fault
    | with_reducible exact keep_rfl
    | exact fun _ => by decide
    | exact by decide
    | split

theorem execPolicerStatusGet_kept {c : Cmd} {s : State} (h0 : Kept aim s) : KeptOut aim (execPolicerStatusGet c s) := by
  unfold execPolicerStatusGet
  repeat' first
    | with_reducible assumption
    | with_reducible apply serve_kept
    | with_reducible apply cmdPolicerStatusGet_kept

end Sys2Proof.Machine
end

