-- ==== Sys2Proof/Laws/KeptLookup.lean ====
section
/-! SUPPORT. What Machine/Lookup.lean leaves: the queue and the invariant (see Laws/Kept.lean). -/
namespace Sys2Proof.Machine
open Sys2Proof
variable {aim : Aim}

theorem Look.dropAt_kept {w : Look} {code : Nat} (h0 : Kept aim w.st) : Kept aim (Look.dropAt w code).st := h0

theorem Look.slowAt_kept {w : Look} {cls : Nat} (h0 : Kept aim w.st) : Kept aim (Look.slowAt w cls).st := h0

theorem Look.stage_kept {w : Look} {f : Look → Look} (h0 : Kept aim w.st) (h1 : ∀ z, Kept aim z.st → Kept aim (f z).st) :
    Kept aim (Look.stage w f).st := by
  unfold Look.stage
  repeat' first
    | with_reducible assumption
    | with_reducible apply h1
    | split

theorem Look.countIn_kept {w : Look} {on : Bool} {pair : Nat} (h0 : Kept aim w.st) : Kept aim (Look.countIn w on pair).st := by
  unfold Look.countIn
  repeat' first
    | with_reducible assumption
    | with_reducible apply State.pairAdd_kept
    | with_reducible exact keep_rfl
    | split

theorem Look.stage1_kept {w : Look} (h0 : Kept aim w.st) : Kept aim (Look.stage1 w).st := by
  unfold Look.stage1
  dsimp only
  repeat' first
    | with_reducible assumption
    | with_reducible apply Look.dropAt_kept
    | with_reducible apply Look.countIn_kept
    | with_reducible exact keep_rfl
    | split

theorem Look.lookLabels_kept {w : Look} {fuel j n : Nat} (h0 : Kept aim w.st) : Kept aim (Look.lookLabels w fuel j n).st := by
  induction fuel generalizing w j n with
  | zero => exact Look.dropAt_kept h0
  | succ fuel ih =>
    unfold Look.lookLabels
    dsimp only
    have hx : ∀ b k, Kept aim (({ w with labels := w.labels ++ [w.pkt.label j / 4096] } : Look).countIn b k).st :=
      fun _ _ => Look.countIn_kept (w := { w with labels := w.labels ++ [w.pkt.label j / 4096] }) h0
    repeat' first
      | exact Look.dropAt_kept h0
      | exact Look.dropAt_kept (hx _ _)
      | exact ih h0
      | exact ih (hx _ _)
      | exact hx _ _
      | split

theorem Look.stage3_kept {w : Look} {vrf : Nat} (h0 : Kept aim w.st) : Kept aim (Look.stage3 w vrf).st := by
  unfold Look.stage3
  try dsimp only
  repeat' first
    | with_reducible assumption
    | (with_reducible intro _)
    | with_reducible apply kept_foldl
    | with_reducible apply Look.dropAt_kept
    | with_reducible apply keptOut_next
    | with_reducible exact keptOut_fault
    | with_reducible exact keep_rfl
    | exact fun _ => by decide
    | exact by decide
    | split

theorem Look.stage4_kept {w : Look} {vrf : Nat} (h0 : Kept aim w.st) : Kept aim (Look.stage4 w vrf).st := by
  unfold Look.stage4
  try dsimp only
  repeat' first
    | with_reducible assumption
    | (with_reducible intro _)
    | with_reducible apply kept_foldl
    | with_reducible apply Look.dropAt_kept
    | with_reducible apply keptOut_next
    | with_reducible exact keptOut_fault
    | with_reducible exact keep_rfl
    | exact fun _ => by decide
    | exact by decide
    | split

theorem Look.searchLost_kept {w : Look} {c : Nat} {t : State} (h0 : Kept aim t) : Kept aim (Look.searchLost w c t).st := h0

theorem Look.searchHit_kept {w : Look} {c : Nat} {a : State} {e : TcamEnt} {more : Bool} (h0 : Kept aim a) :
    Kept aim (Look.searchHit w c a e more).1.st :=
  Look.countIn_kept (w := { w with
    st := (((a.bump 608 1 c).count 608 2 c 0 (b2n more)).perfCount 0 4 c 2).perfCount 0 4 c 3 (b2n more) })
    (State.perfCount_kept (State.perfCount_kept (State.count_kept (State.bump_kept h0))))

theorem Look.lostHit_kept {w : Look} {h : Option SlotHit} (h0 : Kept aim w.st) : Kept aim (Look.lostHit w h).st := by
  unfold Look.lostHit
  try dsimp only
  repeat' first
    | with_reducible assumption
    | (with_reducible intro _)
    | with_reducible apply kept_foldl
    | with_reducible apply Look.searchLost_kept
    | with_reducible apply keptOut_next
    | with_reducible exact keptOut_fault
    | with_reducible exact keep_rfl
    | exact fun _ => by decide
    | exact by decide
    | split

theorem Look.search_kept {w : Look} {vrf : Nat} {parity : List Nat} {slot : Option (Nat × Nat)} (h0 : Kept aim w.st) :
    Kept aim (Look.search w vrf parity slot).1.st := by
  unfold Look.search
  split
  · exact h0
  · split
    · exact h0
    · rename_i c k _ _ _
      dsimp only
      have ha : Kept aim ((w.st.bump 608 0 c).perfCount 0 4 c 1) := State.perfCount_kept (State.bump_kept h0)
      split
      · exact h0
      · split
        · exact Look.searchLost_kept (kept_foldl ha fun _ _ h => State.tileError_kept h)
        · split
          · exact Look.searchLost_kept ha
          · split
            · exact ha
            · exact Look.searchHit_kept ha

theorem Look.searchPair_kept {w : Look} {vrf : Nat} {parity : List Nat} (h0 : Kept aim w.st) :
    Kept aim (Look.searchPair w vrf parity).1.st := by
  unfold Look.searchPair
  dsimp only
  have hb := fun x y o h => Look.lostHit_kept (w := { (({ (w.search vrf parity x).1 with out := none } : Look).search vrf parity y).1 with
    out := o }) (h := h) (Look.search_kept (w := { (w.search vrf parity x).1 with out := none }) (vrf := vrf) (parity := parity)
    (slot := y) (Look.search_kept h0))
  split
  · exact hb _ _ _ _
  · exact Look.lostHit_kept (hb _ _ _ _)

theorem Look.act_kept {w : Look} {h : Option SlotHit} (h0 : Kept aim w.st) : Kept aim (Look.act w h).st := by
  unfold Look.act
  repeat' first
    | with_reducible assumption
    | with_reducible apply State.setPolicer_kept
    | with_reducible exact keep_rfl
    | split
    | dsimp only

theorem Look.stage5_kept {w : Look} {vrf : Nat} {parity : List Nat} (h0 : Kept aim w.st) :
    Kept aim (Look.stage5 w vrf parity).st := by
  unfold Look.stage5
  refine Look.stage_kept (Look.searchPair_kept h0) fun z hz => ?_
  split
  · exact Look.dropAt_kept (State.bump_kept hz)
  · exact Look.act_kept (Look.act_kept hz)

theorem Look.forwardTo_kept {w : Look} {mcast : Bool} {dest : Nat} {encap : Option Nat} (h0 : Kept aim w.st) :
    Kept aim (Look.forwardTo w mcast dest encap).st := by
  unfold Look.forwardTo
  try dsimp only
  repeat' first
    | with_reducible assumption
    | (with_reducible intro _)
    | with_reducible apply kept_foldl
    | with_reducible apply Look.slowAt_kept
    | with_reducible apply keptOut_next
    | with_reducible exact keptOut_fault
    | with_reducible exact keep_rfl
    | exact fun _ => by decide
    | exact by decide
    | split

theorem Look.nexthop_kept {w : Look} {i : Nat} (h0 : Kept aim w.st) : Kept aim (Look.nexthop w i).st := by
  unfold Look.nexthop
  try dsimp only
  repeat' first
    | with_reducible assumption
    | (with_reducible intro _)
    | with_reducible apply kept_foldl
    | with_reducible apply Look.dropAt_kept
    | with_reducible apply Look.countIn_kept
    | with_reducible apply Look.forwardTo_kept
    | with_reducible apply State.lagDead_kept
    | with_reducible apply Look.slowAt_kept
    | with_reducible apply keptOut_next
    | with_reducible exact keptOut_fault
    | with_reducible exact keep_rfl
    | exact fun _ => by decide
    | exact by decide
    | split

theorem Look.resolve_kept {w : Look} (h0 : Kept aim w.st) : Kept aim (Look.resolve w).st := by
  unfold Look.resolve
  try dsimp only
  repeat' first
    | with_reducible assumption
    | (with_reducible intro _)
    | with_reducible apply kept_foldl
    | with_reducible apply Look.dropAt_kept
    | with_reducible apply Look.nexthop_kept
    | with_reducible apply Look.countIn_kept
    | with_reducible apply Look.slowAt_kept
    | with_reducible apply Look.forwardTo_kept
    | with_reducible apply keptOut_next
    | with_reducible exact keptOut_fault
    | with_reducible exact keep_rfl
    | exact fun _ => by decide
    | exact by decide
    | split

theorem State.lookup_kept {s : State} {k : LkPkt} {parity : List Nat} (h0 : Kept aim s) :
    Kept aim (State.lookup s k parity).st := by
  unfold State.lookup
  try dsimp only
  repeat' first
    | with_reducible assumption
    | (with_reducible intro _)
    | with_reducible apply kept_foldl
    | with_reducible apply State.bump_kept
    | with_reducible apply Look.stage1_kept
    | with_reducible apply Look.stage_kept
    | with_reducible apply Look.lookLabels_kept
    | with_reducible apply Look.stage3_kept
    | with_reducible apply Look.stage4_kept
    | with_reducible apply Look.stage5_kept
    | with_reducible apply Look.resolve_kept
    | with_reducible apply keptOut_next
    | with_reducible exact keptOut_fault
    | with_reducible exact keep_rfl
    | exact fun _ => by decide
    | exact by decide
    | split

theorem State.slowPath_kept {s : State} {k : LkPkt} {iface cls : Nat} {byHit : Bool} (h0 : Kept aim s) :
    Kept aim (State.slowPath s k iface cls byHit) := by
  unfold State.slowPath
  dsimp only
  repeat' first
    | with_reducible assumption
    | (with_reducible intro _)
    | with_reducible apply State.bump_kept
    | with_reducible apply State.tsDropped_kept
    | with_reducible apply State.raiseLim_kept
    | with_reducible apply State.punt_kept
    | (simp only [kept_mk]; with_reducible refine keptMk_of ?_ ?_ ?_ ?_ ?_)
    | with_reducible exact keep_rfl
    | split

theorem State.cross_kept {s : State} {d : Desc2} (h0 : Kept aim s) : Kept aim (State.cross s d) := by
  unfold State.cross
  try dsimp only
  repeat' first
    | with_reducible assumption
    | (with_reducible intro _)
    | with_reducible apply kept_foldl
    | with_reducible apply State.perfCount_kept
    | with_reducible apply keptOut_next
    | with_reducible exact keptOut_fault
    | (simp only [kept_mk]; with_reducible refine keptMk_of ?_ ?_ ?_ ?_ ?_)
    | with_reducible exact keep_rfl

theorem execLookupResult_kept {port : Nat} {parity : List Nat} {s : State} (h0 : Kept aim s) :
    KeptOut aim (execLookupResult port parity s) := by
  unfold execLookupResult
  try dsimp only
  repeat' first
    | with_reducible assumption
    | (with_reducible intro _)
    | with_reducible apply kept_foldl
    | with_reducible apply State.lookup_kept
    | with_reducible apply State.servedBy_kept
    | with_reducible apply done_kept
    | with_reducible apply State.rxCrossed_kept
    | with_reducible apply State.slowPath_kept
    | with_reducible apply State.setPolicer_kept
    | with_reducible apply State.cross_kept
    | with_reducible apply State.police_kept
    | with_reducible apply State.tsDropped_kept
    | with_reducible apply State.bump_kept
    | with_reducible apply keptOut_next
    | with_reducible exact keptOut_fault
    | (simp only [kept_mk]; with_reducible refine keptMk_of ?_ ?_ ?_ ?_ ?_)
    | with_reducible exact keep_rfl
    | exact fun _ => by decide
    | exact by decide
    | split

theorem execLookupPipelineError_kept {pipeline : Nat} {held : List Nat} {s : State} (h0 : Kept aim s) :
    KeptOut aim (execLookupPipelineError pipeline held s) := by
  unfold execLookupPipelineError
  try dsimp only
  repeat' first
    | with_reducible assumption
    | (with_reducible intro _)
    | with_reducible apply kept_foldl
    | with_reducible apply State.rxCrossed_kept
    | with_reducible apply State.bump_kept
    | with_reducible apply State.tsDropped_kept
    | with_reducible apply State.record_kept
    | with_reducible apply done_kept
    | with_reducible apply State.raise_kept
    | with_reducible apply State.pipelineCheck_kept
    | with_reducible apply keptOut_next
    | with_reducible exact keptOut_fault
    | (simp only [kept_mk]; with_reducible refine keptMk_of ?_ ?_ ?_ ?_ ?_)
    | with_reducible exact keep_rfl
    | exact fun _ => by decide
    | exact by decide
    | split

end Sys2Proof.Machine
end

