-- ==== Sys2Proof/Laws/KeptSched.lean ====
section
/-! SUPPORT. What Machine/Sched.lean leaves: the queue and the invariant (see Laws/Kept.lean). -/
namespace Sys2Proof.Machine
open Sys2Proof
variable {aim : Aim}

theorem State.setNode_kept {s : State} {n : Nat} {x : Node} (h0 : Kept aim s) : Kept aim (State.setNode s n x) := h0

theorem State.refreshKids_kept {s : State} {parent : Nat} {kids : List Nat} (h0 : Kept aim s) :
    Kept aim (State.refreshKids s parent kids) := by
  unfold State.refreshKids
  dsimp only
  repeat' first
    | with_reducible assumption
    | (with_reducible intro _)
    | with_reducible apply kept_foldl
    | with_reducible apply State.setNode_kept
    | with_reducible exact keep_rfl
    | split

theorem State.setClass_kept {s : State} {tc : Nat} {x : ClassNode} (h0 : Kept aim s) : Kept aim (State.setClass s tc x) := h0

theorem State.refreshClass_kept {s : State} {tc : Nat} (h0 : Kept aim s) : Kept aim (State.refreshClass s tc) := by
  unfold State.refreshClass
  dsimp only
  repeat' first
    | with_reducible assumption
    | (with_reducible intro _)
    | with_reducible apply kept_foldl
    | with_reducible apply State.setClass_kept
    | with_reducible apply State.updQueue_kept
    | with_reducible exact keep_rfl
    | split

theorem State.refreshRoot_kept {s : State} (h0 : Kept aim s) : Kept aim (State.refreshRoot s) := by
  unfold State.refreshRoot
  dsimp only
  repeat' first
    | with_reducible assumption
    | (with_reducible intro _)
    | with_reducible apply kept_foldl
    | with_reducible apply State.setClass_kept
    | (simp only [kept_mk]; with_reducible refine keptMk_of ?_ ?_ ?_ ?_ ?_)
    | with_reducible exact keep_rfl
    | split

theorem State.refreshTm_kept {s : State} (h0 : Kept aim s) : Kept aim (State.refreshTm s) := by
  unfold State.refreshTm
  dsimp only
  repeat' first
    | with_reducible assumption
    | (with_reducible intro _)
    | with_reducible apply kept_foldl
    | with_reducible apply State.refreshKids_kept
    | with_reducible apply State.refreshClass_kept
    | with_reducible apply State.refreshRoot_kept

theorem State.chargeTags_kept {s : State} {parent child len : Nat} (h0 : Kept aim s) :
    Kept aim (State.chargeTags s parent child len) := h0

theorem State.chargeBucket_kept {s : State} {n len : Nat} (h0 : Kept aim s) : Kept aim (State.chargeBucket s n len).2 := by
  unfold State.chargeBucket
  dsimp only
  repeat' first
    | with_reducible assumption
    | with_reducible apply State.setNode_kept
    | with_reducible exact keep_rfl
    | split

theorem State.chargeBucket_kept_eq {s : State} {n len : Nat} {a1 : Bool} {a2 : State}
    (h0 : Kept aim s) (e : State.chargeBucket s n len = (a1, a2)) : Kept aim a2 := by
  have x := State.chargeBucket_kept (aim := aim) (s := s) (n := n) (len := len) h0
  rw [e] at x
  exact x

theorem State.noteRelease_kept {s : State} {q : Nat} {p : QPkt} (h0 : Kept aim s) : Kept aim (State.noteRelease s q p) := by
  unfold State.noteRelease
  dsimp only
  repeat' first
    | with_reducible assumption
    | (with_reducible intro _)
    | with_reducible apply State.observe_kept
    | with_reducible apply State.histAdd_kept

theorem State.selectEgress_kept {port n : Nat} {s : State} (h0 : Kept aim s) : Kept aim (State.selectEgress port n s) := by
  induction n generalizing s with
  | zero => exact h0
  | succ n ih =>
    unfold State.selectEgress
    split
    · exact h0
    · dsimp only
      split
      · exact h0
      · split
        · exact ih (State.refreshTm_kept (State.ageHead_kept h0))
        · split
          · exact ih (State.refreshTm_kept (State.dropHead_kept h0))
          · split
            · exact h0
            · split
              · exact ih (State.refreshTm_kept (State.gather_kept h0))
              · apply State.refreshTm_kept
                apply State.updPrt_kept
                have hb : ∀ (l : List Nat) (f : Nat) (x : Bool × State), Kept aim x.2 →
                    Kept aim (l.foldl (fun (x : Bool × State) n => let y := x.2.chargeBucket n f; (x.1 || y.1, y.2)) x).2 := by
                  intro l f
                  induction l with
                  | nil => intro x h; exact h
                  | cons a r ihl => intro x h; exact ihl _ (State.chargeBucket_kept h)
                have hf : ∀ (z : State), Kept aim z → Kept aim { z with port.flitSeq := z.port.flitSeq + 1 } :=
                  fun z h => kept_core h rfl fun _ b => b
                apply hf
                split
                · exact State.perfCount_kept (State.perfCount_kept (State.count_kept (State.bump_kept (State.popHead_kept
                    (State.noteRelease_kept (hb _ _ _ (State.chargeTags_kept (State.chargeTags_kept (State.chargeTags_kept
                      (State.gather_kept h0))))))))))
                · exact State.perfCount_kept (State.count_kept (State.bump_kept (State.popHead_kept
                    (State.noteRelease_kept (hb _ _ _ (State.chargeTags_kept (State.chargeTags_kept (State.chargeTags_kept
                      (State.gather_kept h0)))))))))

theorem execEgressSelection_kept {port : Nat} {s : State} (h0 : Kept aim s) : KeptOut aim (execEgressSelection port s) := by
  unfold execEgressSelection
  try dsimp only
  repeat' first
    | with_reducible assumption
    | (with_reducible intro _)
    | with_reducible apply kept_foldl
    | with_reducible apply State.refreshTm_kept
    | with_reducible apply done_kept
    | with_reducible apply State.selectEgress_kept
    | with_reducible apply keptOut_next
    | with_reducible exact keptOut_fault
    | with_reducible exact keep_rfl
    | exact fun _ => by decide
    | exact by decide
    | split

theorem execShaperPayoff_kept {node : Nat} {s : State} (h0 : Kept aim s) : KeptOut aim (execShaperPayoff node s) := by
  unfold execShaperPayoff
  try dsimp only
  repeat' first
    | with_reducible assumption
    | (with_reducible intro _)
    | with_reducible apply kept_foldl
    | with_reducible apply State.refreshTm_kept
    | with_reducible apply keptOut_next
    | with_reducible exact keptOut_fault
    | with_reducible exact keep_rfl
    | exact fun _ => by decide
    | exact by decide
    | split

theorem State.nodeOp_kept {s : State} {b : Bytes} (h0 : Kept aim s) : Kept aim (State.nodeOp s b).2 := by
  unfold State.nodeOp
  try dsimp only
  repeat' first
    | with_reducible assumption
    | (with_reducible intro _)
    | with_reducible apply kept_foldl
    | with_reducible apply State.refreshTm_kept
    | with_reducible apply State.setNode_kept
    | with_reducible apply keptOut_next
    | with_reducible exact keptOut_fault
    | with_reducible exact keep_rfl
    | exact fun _ => by decide
    | exact by decide
    | split

theorem State.nodeOp_kept_eq {s : State} {b : Bytes} {a1 : Nat} {a2 : State}
    (h0 : Kept aim s) (e : State.nodeOp s b = (a1, a2)) : Kept aim a2 := by
  have x := State.nodeOp_kept (aim := aim) (s := s) (b := b) h0
  rw [e] at x
  exact x

theorem cmdSchedNodeSet_kept {c : Cmd} {s : State} (h0 : Kept aim s) : Kept aim (cmdSchedNodeSet c s).st := by
  unfold cmdSchedNodeSet
  repeat' first
    | with_reducible assumption
    | (with_reducible intro _)
    | with_reducible apply gate_kept
    | with_reducible apply Res.err_kept
    | with_reducible apply eachRes_kept
    | with_reducible apply runEach_kept
    | with_reducible apply State.nodeOp_kept
    | (with_reducible refine State.nodeOp_kept_eq ?_ (by assumption))
    | split
    | dsimp only

theorem execSchedNodeSet_kept {c : Cmd} {s : State} (h0 : Kept aim s) : KeptOut aim (execSchedNodeSet c s) := by
  unfold execSchedNodeSet
  repeat' first
    | with_reducible assumption
    | with_reducible apply serve_kept
    | with_reducible apply cmdSchedNodeSet_kept

theorem cmdSchedNodeGet_kept {c : Cmd} {s : State} (h0 : Kept aim s) : Kept aim (cmdSchedNodeGet c s).st := by
  unfold cmdSchedNodeGet
  try dsimp only
  repeat' first
    | with_reducible assumption
    | (with_reducible intro _)
    | with_reducible apply kept_foldl
    | with_reducible apply gate_kept
    | with_reducible apply Res.err_kept
    | with_reducible apply State.refreshTm_kept
    | with_reducible apply keptOut_next
    | with_reducible exact keptOut_fault
    | with_reducible exact keep_rfl
    | exact fun _ => by decide
    | exact by decide
    | split

theorem execSchedNodeGet_kept {c : Cmd} {s : State} (h0 : Kept aim s) : KeptOut aim (execSchedNodeGet c s) := by
  unfold execSchedNodeGet
  repeat' first
    | with_reducible assumption
    | with_reducible apply serve_kept
    | with_reducible apply cmdSchedNodeGet_kept

theorem cmdLengthProfileSet_kept {c : Cmd} {s : State} (h0 : Kept aim s) : Kept aim (cmdLengthProfileSet c s).st := by
  unfold cmdLengthProfileSet
  repeat' first
    | with_reducible assumption
    | (with_reducible intro _)
    | with_reducible apply gate_kept
    | with_reducible apply Res.err_kept
    | (simp only [kept_mk]; with_reducible refine keptMk_of ?_ ?_ ?_ ?_ ?_)
    | with_reducible exact keep_rfl
    | split
    | dsimp only

theorem execLengthProfileSet_kept {c : Cmd} {s : State} (h0 : Kept aim s) : KeptOut aim (execLengthProfileSet c s) := by
  unfold execLengthProfileSet
  repeat' first
    | with_reducible assumption
    | with_reducible apply serve_kept
    | with_reducible apply cmdLengthProfileSet_kept

theorem cmdSiteMapSet_kept {c : Cmd} {s : State} (h0 : Kept aim s) : Kept aim (cmdSiteMapSet c s).st := by
  unfold cmdSiteMapSet
  try dsimp only
  repeat' first
    | with_reducible assumption
    | (with_reducible intro _)
    | with_reducible apply kept_foldl
    | with_reducible apply gate_kept
    | with_reducible apply Res.err_kept
    | with_reducible apply State.updPrt_kept
    | with_reducible apply keptOut_next
    | with_reducible exact keptOut_fault
    | (simp only [kept_mk]; with_reducible refine keptMk_of ?_ ?_ ?_ ?_ ?_)
    | with_reducible exact keep_rfl
    | exact fun _ => by decide
    | exact by decide
    | split

theorem execSiteMapSet_kept {c : Cmd} {s : State} (h0 : Kept aim s) : KeptOut aim (execSiteMapSet c s) := by
  unfold execSiteMapSet
  repeat' first
    | with_reducible assumption
    | with_reducible apply serve_kept
    | with_reducible apply cmdSiteMapSet_kept

theorem cmdDispatchProfileSet_kept {c : Cmd} {s : State} (h0 : Kept aim s) : Kept aim (cmdDispatchProfileSet c s).st := by
  unfold cmdDispatchProfileSet
  repeat' first
    | with_reducible assumption
    | (with_reducible intro _)
    | with_reducible apply kept_foldl
    | with_reducible apply gate_kept
    | with_reducible apply Res.err_kept
    | with_reducible apply State.setClass_kept
    | with_reducible apply State.refreshTm_kept
    | with_reducible exact keep_rfl
    | split
    | dsimp only

theorem execDispatchProfileSet_kept {c : Cmd} {s : State} (h0 : Kept aim s) : KeptOut aim (execDispatchProfileSet c s) := by
  unfold execDispatchProfileSet
  repeat' first
    | with_reducible assumption
    | with_reducible apply serve_kept
    | with_reducible apply cmdDispatchProfileSet_kept

theorem cmdSampleSetConfig_kept {c : Cmd} {s : State} (h0 : Kept aim s) : Kept aim (cmdSampleSetConfig c s).st := by
  unfold cmdSampleSetConfig
  try dsimp only
  repeat' first
    | with_reducible assumption
    | (with_reducible intro _)
    | with_reducible apply kept_foldl
    | with_reducible apply gate_kept
    | with_reducible apply Res.err_kept
    | with_reducible apply State.count_kept
    | with_reducible apply keptOut_next
    | with_reducible exact keptOut_fault
    | (simp only [kept_mk]; with_reducible refine keptMk_of ?_ ?_ ?_ ?_ ?_)
    | with_reducible exact keep_rfl
    | exact fun _ => by decide
    | exact by decide
    | split

theorem execSampleSetConfig_kept {c : Cmd} {s : State} (h0 : Kept aim s) : KeptOut aim (execSampleSetConfig c s) := by
  unfold execSampleSetConfig
  repeat' first
    | with_reducible assumption
    | with_reducible apply serve_kept
    | with_reducible apply cmdSampleSetConfig_kept

theorem execSampleWindowEnd_kept {k : Nat} {s : State} (h0 : Kept aim s) : KeptOut aim (execSampleWindowEnd k s) := by
  unfold execSampleWindowEnd
  try dsimp only
  repeat' first
    | with_reducible assumption
    | (with_reducible intro _)
    | with_reducible apply kept_foldl
    | with_reducible apply State.count_kept
    | with_reducible apply State.telPut_kept
    | (with_reducible refine State.telPut_kept_eq ?_ (by assumption))
    | with_reducible apply done_kept
    | with_reducible apply keptOut_next
    | with_reducible exact keptOut_fault
    | (simp only [kept_mk]; with_reducible refine keptMk_of ?_ ?_ ?_ ?_ ?_)
    | with_reducible exact keep_rfl
    | exact fun _ => by decide
    | exact by decide
    | split

theorem cmdSchedCountersGet_kept {c : Cmd} {s : State} (h0 : Kept aim s) : Kept aim (cmdSchedCountersGet c s).st := by
  unfold cmdSchedCountersGet
  repeat' first
    | with_reducible assumption
    | (with_reducible intro _)
    | with_reducible apply gate_kept

theorem execSchedCountersGet_kept {c : Cmd} {s : State} (h0 : Kept aim s) : KeptOut aim (execSchedCountersGet c s) := by
  unfold execSchedCountersGet
  repeat' first
    | with_reducible assumption
    | with_reducible apply serve_kept
    | with_reducible apply cmdSchedCountersGet_kept

theorem State.egressQueue_kept {s : State} {port tc : Nat} {encap : Option Nat} (h0 : Kept aim s) :
    Kept aim (State.egressQueue s port tc encap).2 := by
  unfold State.egressQueue
  dsimp only
  repeat' first
    | with_reducible assumption
    | (with_reducible intro _)
    | with_reducible apply State.bump_kept
    | with_reducible apply State.raiseLim_kept
    | with_reducible exact keep_rfl
    | split

theorem State.egressQueue_kept_eq {s : State} {port tc : Nat} {encap : Option Nat} {a1 : Option Nat} {a2 : State}
    (h0 : Kept aim s) (e : State.egressQueue s port tc encap = (a1, a2)) : Kept aim a2 := by
  have x := State.egressQueue_kept (aim := aim) (s := s) (port := port) (tc := tc) (encap := encap) h0
  rw [e] at x
  exact x

end Sys2Proof.Machine
end

