-- ==== Sys2Proof/Laws/KeptQueues.lean ====
section
/-! SUPPORT. What Machine/Queues.lean leaves: the queue and the invariant (see Laws/Kept.lean). -/
namespace Sys2Proof.Machine
open Sys2Proof
variable {aim : Aim}

theorem State.creditReq_kept {s : State} {q : Nat} {active : Bool} (h0 : Kept aim s) :
    Kept aim (State.creditReq s q active) := by
  unfold State.creditReq
  try dsimp only
  repeat' first
    | with_reducible assumption
    | (with_reducible intro _)
    | with_reducible apply kept_foldl
    | with_reducible apply keptOut_next
    | with_reducible exact keptOut_fault
    | (simp only [kept_mk]; with_reducible refine keptMk_of ?_ ?_ ?_ ?_ ?_)
    | with_reducible exact keep_rfl
    | exact fun _ => by decide
    | exact by decide
    | split

theorem State.keepCredit_kept {s : State} {q : Nat} (h0 : Kept aim s) : Kept aim (State.keepCredit s q) := h0

theorem State.voqEdge_kept {s s0 : State} {q : Nat} (h0 : Kept aim s) (h1 : Kept aim s0) : Kept aim (State.voqEdge s s0 q) := by
  unfold State.voqEdge
  dsimp only
  repeat' first
    | with_reducible assumption
    | (with_reducible intro _)
    | with_reducible apply State.creditReq_kept
    | with_reducible apply State.keepCredit_kept
    | with_reducible apply State.updQueue_kept
    | with_reducible exact keep_rfl
    | split

theorem State.markShared_kept {s : State} {q pid k : Nat} (h0 : Kept aim s) : Kept aim (State.markShared s q pid k) := h0

theorem Offer.next_kept {a : Offer} {q : Nat} {p : QPkt} (h0 : Kept aim a.st) : Kept aim (Offer.next a q p).st := by
  unfold Offer.next
  try dsimp only
  repeat' first
    | with_reducible assumption
    | (with_reducible intro _)
    | with_reducible apply kept_foldl
    | with_reducible apply State.admitCheck_kept
    | with_reducible apply State.refuse_kept
    | with_reducible apply State.enqueueNew_kept
    | (with_reducible refine State.enqueueNew_kept_eq ?_ (by assumption))
    | with_reducible apply State.count_kept
    | with_reducible apply State.markShared_kept
    | with_reducible apply State.holdCells_kept
    | with_reducible apply State.enqueue_kept
    | with_reducible apply State.bump_kept
    | with_reducible apply keptOut_next
    | with_reducible exact keptOut_fault
    | (simp only [kept_mk]; with_reducible refine keptMk_of ?_ ?_ ?_ ?_ ?_)
    | with_reducible exact keep_rfl
    | exact fun _ => by decide
    | exact by decide
    | split

theorem State.dropNoPeer_kept {s : State} {p : QPkt} (h0 : Kept aim s) : Kept aim (State.dropNoPeer s p) := by
  unfold State.dropNoPeer
  repeat' first
    | with_reducible assumption
    | with_reducible apply State.bump_kept
    | with_reducible apply State.tsDropped_kept

theorem State.copies_kept {s : State} {p : QPkt} {fdis : List Nat} (h0 : Kept aim s) : Kept aim (State.copies s p fdis) := by
  unfold State.copies
  refine kept_foldl_on Offer.st h0 fun a e ha => ?_
  dsimp only
  split
  · exact State.dropNoPeer_kept ha
  · exact State.voqEdge_kept (iteInduction (motive := Kept aim) (fun _ => State.bump_kept (Offer.next_kept ha))
      fun _ => Offer.next_kept ha) ha

theorem State.dropMcast_kept {s : State} {code port : Nat} {tsReq : Option Nat} (h0 : Kept aim s) :
    Kept aim (State.dropMcast s code port tsReq) := by
  unfold State.dropMcast
  repeat' first
    | with_reducible assumption
    | with_reducible apply State.bump_kept
    | with_reducible apply State.tsDropped_kept

theorem State.admitIngress_kept {s : State} {p : QPkt} (h0 : Kept aim s) : Kept aim (State.admitIngress s p) := by
  unfold State.admitIngress
  dsimp only
  repeat' first
    | with_reducible assumption
    | with_reducible apply State.dropMcast_kept
    | with_reducible apply State.copies_kept
    | with_reducible apply State.refreshTm_kept
    | with_reducible apply State.dropNoPeer_kept
    | with_reducible apply State.takeIn_kept
    | with_reducible apply State.voqEdge_kept
    | (simp only [kept_mk]; with_reducible refine keptMk_of ?_ ?_ ?_ ?_ ?_)
    | with_reducible exact keep_rfl
    | split

theorem execHeaderCellAdmission_kept {port : Nat} {s : State} (h0 : Kept aim s) :
    KeptOut aim (execHeaderCellAdmission port s) := by
  unfold execHeaderCellAdmission
  try dsimp only
  repeat' first
    | with_reducible assumption
    | (with_reducible intro _)
    | with_reducible apply kept_foldl
    | with_reducible apply Offer.next_kept
    | with_reducible apply done_kept
    | with_reducible apply State.admitIngress_kept
    | with_reducible apply State.rxCrossed_kept
    | with_reducible apply keptOut_next
    | with_reducible exact keptOut_fault
    | (simp only [kept_mk]; with_reducible refine keptMk_of ?_ ?_ ?_ ?_ ?_)
    | with_reducible exact keep_rfl
    | exact fun _ => by decide
    | exact by decide
    | split

theorem State.chainSeg_kept {s : State} {q seg : Nat} (h0 : Kept aim s) : Kept aim (State.chainSeg s q seg) := by
  unfold State.chainSeg
  try dsimp only
  repeat' first
    | with_reducible assumption
    | (with_reducible intro _)
    | with_reducible apply kept_foldl
    | with_reducible apply keptOut_next
    | with_reducible exact keptOut_fault
    | (simp only [kept_mk]; with_reducible refine keptMk_of ?_ ?_ ?_ ?_ ?_)
    | with_reducible exact keep_rfl
    | exact fun _ => by decide
    | exact by decide
    | split

theorem execSegmentWritten_kept {s : State} (h0 : Kept aim s) : KeptOut aim (execSegmentWritten s) := by
  unfold execSegmentWritten
  try dsimp only
  repeat' first
    | with_reducible assumption
    | (with_reducible intro _)
    | with_reducible apply kept_foldl
    | with_reducible apply Offer.next_kept
    | (with_reducible refine State.grantSeg_kept_eq ?_ (by assumption))
    | with_reducible apply State.updQueue_kept
    | with_reducible apply State.freeCellList_kept
    | with_reducible apply State.chainSeg_kept
    | with_reducible apply done_kept
    | with_reducible apply State.bump_kept
    | with_reducible apply State.perfCount_kept
    | with_reducible apply State.noteSegLow_kept
    | with_reducible apply State.meterTake_kept
    | with_reducible apply State.settleQueue_kept
    | with_reducible apply State.refreshTm_kept
    | with_reducible apply keptOut_next
    | with_reducible exact keptOut_fault
    | (simp only [kept_mk]; with_reducible refine keptMk_of ?_ ?_ ?_ ?_ ?_)
    | with_reducible exact keep_rfl
    | exact fun _ => by decide
    | exact by decide
    | split

theorem State.segmentLost_kept {s : State} {q j : Nat} {word : Bool} (h0 : Kept aim s) :
    Kept aim (State.segmentLost s q j word) := by
  unfold State.segmentLost
  try dsimp only
  repeat' first
    | with_reducible assumption
    | (with_reducible intro _)
    | with_reducible apply kept_foldl
    | with_reducible apply State.setQueue_kept
    | with_reducible apply State.freeMiddle_kept
    | with_reducible apply State.dropPkt_kept
    | with_reducible apply State.raise_kept
    | with_reducible apply State.settleQueue_kept
    | with_reducible apply State.voqEdge_kept
    | with_reducible apply keptOut_next
    | with_reducible exact keptOut_fault
    | with_reducible exact keep_rfl
    | exact fun _ => by decide
    | exact by decide
    | split

theorem State.segLost_kept {s : State} {seg : Nat} {word : Bool} (h0 : Kept aim s) : Kept aim (State.segLost s seg word) := by
  unfold State.segLost
  try dsimp only
  repeat' first
    | with_reducible assumption
    | (with_reducible intro _)
    | with_reducible apply kept_foldl
    | with_reducible apply State.segmentLost_kept
    | with_reducible apply keptOut_next
    | with_reducible exact keptOut_fault
    | with_reducible exact keep_rfl
    | exact fun _ => by decide
    | exact by decide
    | split

theorem execRefillArrival_kept {queue : Nat} {s : State} (h0 : Kept aim s) : KeptOut aim (execRefillArrival queue s) := by
  unfold execRefillArrival
  try dsimp only
  repeat' first
    | with_reducible assumption
    | (with_reducible intro _)
    | with_reducible apply kept_foldl
    | with_reducible apply Offer.next_kept
    | with_reducible apply State.takeCells_kept
    | (with_reducible refine State.takeCells_kept_eq ?_ (by assumption))
    | with_reducible apply State.setQueue_kept
    | with_reducible apply State.freeSegList_kept
    | with_reducible apply State.joinBacklog_kept
    | with_reducible apply State.joinHead_kept
    | with_reducible apply State.endSpill_kept
    | with_reducible apply done_kept
    | with_reducible apply State.bump_kept
    | with_reducible apply State.perfCount_kept
    | with_reducible apply State.meterTake_kept
    | with_reducible apply State.settleQueue_kept
    | with_reducible apply State.refreshTm_kept
    | with_reducible apply keptOut_next
    | with_reducible exact keptOut_fault
    | with_reducible exact keep_rfl
    | exact fun _ => by decide
    | exact by decide
    | split

theorem execAgeExpiry_kept {queue : Nat} {s : State} (h0 : Kept aim s) : KeptOut aim (execAgeExpiry queue s) := by
  unfold execAgeExpiry
  repeat' first
    | with_reducible assumption
    | with_reducible apply Offer.next_kept
    | with_reducible apply done_kept
    | with_reducible apply State.ageHead_kept
    | with_reducible apply State.voqEdge_kept
    | with_reducible apply State.refreshTm_kept
    | with_reducible apply keptOut_next
    | with_reducible exact keptOut_fault
    | split

theorem State.reclaim_kept {s : State} {c : Nat} (h0 : Kept aim s) : Kept aim (State.reclaim s c) := by
  unfold State.reclaim
  try dsimp only
  repeat' first
    | with_reducible assumption
    | (with_reducible intro _)
    | with_reducible apply kept_foldl
    | with_reducible apply State.freeCell_kept
    | with_reducible apply keptOut_next
    | with_reducible exact keptOut_fault
    | (simp only [kept_mk]; with_reducible refine keptMk_of ?_ ?_ ?_ ?_ ?_)
    | with_reducible exact keep_rfl

theorem execCellAudit_kept {s : State} (h0 : Kept aim s) : KeptOut aim (execCellAudit s) := by
  unfold execCellAudit
  try dsimp only
  repeat' first
    | with_reducible assumption
    | (with_reducible intro _)
    | with_reducible apply kept_foldl
    | with_reducible apply Offer.next_kept
    | with_reducible apply State.reclaim_kept
    | with_reducible apply State.freeSegList_kept
    | with_reducible apply done_kept
    | with_reducible apply State.count_kept
    | with_reducible apply State.raise_kept
    | with_reducible apply keptOut_next
    | with_reducible exact keptOut_fault
    | (simp only [kept_mk]; with_reducible refine keptMk_of ?_ ?_ ?_ ?_ ?_)
    | with_reducible exact keep_rfl
    | exact fun _ => by decide
    | exact by decide
    | split

theorem cmdBufferPartitionSet_kept {c : Cmd} {s : State} (h0 : Kept aim s) : Kept aim (cmdBufferPartitionSet c s).st := by
  unfold cmdBufferPartitionSet
  repeat' first
    | with_reducible assumption
    | (with_reducible intro _)
    | with_reducible apply gate_kept
    | with_reducible apply Res.err_kept
    | (simp only [kept_mk]; with_reducible refine keptMk_of ?_ ?_ ?_ ?_ ?_)
    | with_reducible exact keep_rfl
    | split
    | dsimp only

theorem execBufferPartitionSet_kept {c : Cmd} {s : State} (h0 : Kept aim s) : KeptOut aim (execBufferPartitionSet c s) := by
  unfold execBufferPartitionSet
  repeat' first
    | with_reducible assumption
    | with_reducible apply serve_kept
    | with_reducible apply cmdBufferPartitionSet_kept

theorem cmdAdmissionProfileSet_kept {c : Cmd} {s : State} (h0 : Kept aim s) : Kept aim (cmdAdmissionProfileSet c s).st := by
  unfold cmdAdmissionProfileSet
  try dsimp only
  repeat' first
    | with_reducible assumption
    | (with_reducible intro _)
    | with_reducible apply kept_foldl
    | with_reducible apply gate_kept
    | with_reducible apply Res.err_kept
    | with_reducible apply State.lowerMins_kept
    | with_reducible apply keptOut_next
    | with_reducible exact keptOut_fault
    | (simp only [kept_mk]; with_reducible refine keptMk_of ?_ ?_ ?_ ?_ ?_)
    | with_reducible exact keep_rfl
    | exact fun _ => by decide
    | exact by decide
    | split

theorem execAdmissionProfileSet_kept {c : Cmd} {s : State} (h0 : Kept aim s) : KeptOut aim (execAdmissionProfileSet c s) := by
  unfold execAdmissionProfileSet
  repeat' first
    | with_reducible assumption
    | with_reducible apply serve_kept
    | with_reducible apply cmdAdmissionProfileSet_kept

theorem cmdWredProfileSet_kept {c : Cmd} {s : State} (h0 : Kept aim s) : Kept aim (cmdWredProfileSet c s).st := by
  unfold cmdWredProfileSet
  repeat' first
    | with_reducible assumption
    | (with_reducible intro _)
    | with_reducible apply gate_kept
    | with_reducible apply Res.err_kept
    | (simp only [kept_mk]; with_reducible refine keptMk_of ?_ ?_ ?_ ?_ ?_)
    | with_reducible exact keep_rfl
    | split
    | dsimp only

theorem execWredProfileSet_kept {c : Cmd} {s : State} (h0 : Kept aim s) : KeptOut aim (execWredProfileSet c s) := by
  unfold execWredProfileSet
  repeat' first
    | with_reducible assumption
    | with_reducible apply serve_kept
    | with_reducible apply cmdWredProfileSet_kept

theorem State.queueOp_kept {adm wred age : Nat} {on : Bool} {s : State} {b : Bytes} (h0 : Kept aim s) :
    Kept aim (State.queueOp adm wred age on s b).2 := by
  unfold State.queueOp
  try dsimp only
  repeat' first
    | with_reducible assumption
    | (with_reducible intro _)
    | with_reducible apply kept_foldl
    | with_reducible apply State.updQueue_kept
    | with_reducible apply keptOut_next
    | with_reducible exact keptOut_fault
    | with_reducible exact keep_rfl
    | exact fun _ => by decide
    | exact by decide
    | split

theorem State.queueOp_kept_eq {adm wred age : Nat} {on : Bool} {s : State} {b : Bytes} {a1 : Nat} {a2 : State}
    (h0 : Kept aim s) (e : State.queueOp adm wred age on s b = (a1, a2)) : Kept aim a2 := by
  have x := State.queueOp_kept (aim := aim) (adm := adm) (wred := wred) (age := age) (on := on) (s := s) (b := b) h0
  rw [e] at x
  exact x

theorem cmdQueueConfig_kept {c : Cmd} {s : State} (h0 : Kept aim s) : Kept aim (cmdQueueConfig c s).st := by
  unfold cmdQueueConfig
  repeat' first
    | with_reducible assumption
    | (with_reducible intro _)
    | with_reducible apply gate_kept
    | with_reducible apply Res.err_kept
    | with_reducible apply eachRes_kept
    | with_reducible apply runEach_kept
    | with_reducible apply State.queueOp_kept
    | (with_reducible refine State.queueOp_kept_eq ?_ (by assumption))
    | split
    | dsimp only

theorem execQueueConfig_kept {c : Cmd} {s : State} (h0 : Kept aim s) : KeptOut aim (execQueueConfig c s) := by
  unfold execQueueConfig
  repeat' first
    | with_reducible assumption
    | with_reducible apply serve_kept
    | with_reducible apply cmdQueueConfig_kept

theorem cmdQueueFlush_kept {c : Cmd} {s : State} (h0 : Kept aim s) : Kept aim (cmdQueueFlush c s).st := by
  unfold cmdQueueFlush
  repeat' first
    | with_reducible assumption
    | (with_reducible intro _)
    | with_reducible apply gate_kept
    | with_reducible apply Res.err_kept
    | with_reducible apply State.flush38_kept
    | with_reducible apply State.voqEdge_kept
    | with_reducible apply State.refreshTm_kept
    | (simp only [kept_mk]; with_reducible refine keptMk_of ?_ ?_ ?_ ?_ ?_)
    | with_reducible exact keep_rfl
    | split
    | dsimp only

theorem execQueueFlush_kept {c : Cmd} {s : State} (h0 : Kept aim s) : KeptOut aim (execQueueFlush c s) := by
  unfold execQueueFlush
  repeat' first
    | with_reducible assumption
    | with_reducible apply serve_kept
    | with_reducible apply cmdQueueFlush_kept

theorem cmdQueueStatusGet_kept {c : Cmd} {s : State} (h0 : Kept aim s) : Kept aim (cmdQueueStatusGet c s).st := by
  unfold cmdQueueStatusGet
  repeat' first
    | with_reducible assumption
    | (with_reducible intro _)
    | with_reducible apply gate_kept
    | with_reducible apply Res.err_kept
    | (simp only [kept_mk]; with_reducible refine keptMk_of ?_ ?_ ?_ ?_ ?_)
    | with_reducible exact keep_rfl
    | split
    | dsimp only

theorem execQueueStatusGet_kept {c : Cmd} {s : State} (h0 : Kept aim s) : KeptOut aim (execQueueStatusGet c s) := by
  unfold execQueueStatusGet
  repeat' first
    | with_reducible assumption
    | with_reducible apply serve_kept
    | with_reducible apply cmdQueueStatusGet_kept

theorem cmdBufferStatusGet_kept {c : Cmd} {s : State} (h0 : Kept aim s) : Kept aim (cmdBufferStatusGet c s).st := by
  unfold cmdBufferStatusGet
  repeat' first
    | with_reducible assumption
    | (with_reducible intro _)
    | with_reducible apply gate_kept
    | (simp only [kept_mk]; with_reducible refine keptMk_of ?_ ?_ ?_ ?_ ?_)
    | with_reducible exact keep_rfl

theorem execBufferStatusGet_kept {c : Cmd} {s : State} (h0 : Kept aim s) : KeptOut aim (execBufferStatusGet c s) := by
  unfold execBufferStatusGet
  repeat' first
    | with_reducible assumption
    | with_reducible apply serve_kept
    | with_reducible apply cmdBufferStatusGet_kept

theorem cmdBufferGlobalSet_kept {c : Cmd} {s : State} (h0 : Kept aim s) : Kept aim (cmdBufferGlobalSet c s).st := by
  unfold cmdBufferGlobalSet
  repeat' first
    | with_reducible assumption
    | (with_reducible intro _)
    | with_reducible apply gate_kept
    | with_reducible apply Res.err_kept
    | (simp only [kept_mk]; with_reducible refine keptMk_of ?_ ?_ ?_ ?_ ?_)
    | with_reducible exact keep_rfl
    | split
    | dsimp only

theorem execBufferGlobalSet_kept {c : Cmd} {s : State} (h0 : Kept aim s) : KeptOut aim (execBufferGlobalSet c s) := by
  unfold execBufferGlobalSet
  repeat' first
    | with_reducible assumption
    | with_reducible apply serve_kept
    | with_reducible apply cmdBufferGlobalSet_kept

end Sys2Proof.Machine
end

