-- ==== Sys2Proof/Laws/KeptFabric.lean ====
section
/-! SUPPORT. What Machine/Fabric.lean leaves: the queue and the invariant (see Laws/Kept.lean). -/
namespace Sys2Proof.Machine
open Sys2Proof
variable {aim : Aim}

theorem State.setPeer_kept {s : State} {f : Nat} {x : Peer} (h0 : Kept aim s) : Kept aim (State.setPeer s f x) := h0

theorem State.updPlane_kept {s : State} {f k : Nat} {g : PeerPlane → PeerPlane} (h0 : Kept aim s) :
    Kept aim (State.updPlane s f k g) := h0

theorem State.dropFab_kept {s : State} {code : Nat} (h0 : Kept aim s) : Kept aim (State.dropFab s code) := h0

theorem State.discardCtx_kept {s : State} {key code : Nat} (h0 : Kept aim s) : Kept aim (State.discardCtx s key code) := by
  unfold State.discardCtx
  dsimp only
  repeat' first
    | with_reducible assumption
    | with_reducible apply State.reasmAdd_kept
    | with_reducible apply State.dropFab_kept
    | (simp only [kept_mk]; with_reducible refine keptMk_of ?_ ?_ ?_ ?_ ?_)
    | with_reducible exact keep_rfl
    | split

theorem State.abandon_kept {s : State} {f k : Nat} (h0 : Kept aim s) : Kept aim (State.abandon s f k) := by
  unfold State.abandon
  repeat' first
    | with_reducible assumption
    | (with_reducible intro _)
    | with_reducible apply kept_foldl
    | with_reducible apply State.bump_kept
    | with_reducible apply State.popHead_kept
    | with_reducible apply State.voqEdge_kept
    | (simp only [kept_mk]; with_reducible refine keptMk_of ?_ ?_ ?_ ?_ ?_)
    | with_reducible exact keep_rfl
    | split
    | dsimp only

theorem State.unsend_kept {s : State} {f k : Nat} (h0 : Kept aim s) : Kept aim (State.unsend s f k) := by
  unfold State.unsend
  try dsimp only
  repeat' first
    | with_reducible assumption
    | (with_reducible intro _)
    | with_reducible apply kept_foldl
    | with_reducible apply State.count_kept
    | with_reducible apply keptOut_next
    | with_reducible exact keptOut_fault
    | (simp only [kept_mk]; with_reducible refine keptMk_of ?_ ?_ ?_ ?_ ?_)
    | with_reducible exact keep_rfl

theorem State.planeDown_kept {s : State} {f k cause : Nat} (h0 : Kept aim s) : Kept aim (State.planeDown s f k cause) := by
  unfold State.planeDown
  try dsimp only
  repeat' first
    | with_reducible assumption
    | (with_reducible intro _)
    | with_reducible apply kept_foldl
    | with_reducible apply State.updPlane_kept
    | with_reducible apply State.discardCtx_kept
    | with_reducible apply State.abandon_kept
    | with_reducible apply State.unsend_kept
    | with_reducible apply State.bump_kept
    | with_reducible apply State.raise_kept
    | with_reducible apply State.setPeer_kept
    | with_reducible apply State.refreshTm_kept
    | with_reducible apply keptOut_next
    | with_reducible exact keptOut_fault
    | (simp only [kept_mk]; with_reducible refine keptMk_of ?_ ?_ ?_ ?_ ?_)
    | with_reducible exact keep_rfl
    | exact fun _ => by decide
    | exact by decide
    | split

theorem State.reviewPeer_kept {s : State} {f cause : Nat} (h0 : Kept aim s) : Kept aim (State.reviewPeer s f cause) := by
  unfold State.reviewPeer
  repeat' first
    | with_reducible assumption
    | (with_reducible intro _)
    | with_reducible apply kept_foldl
    | with_reducible apply State.planeDown_kept
    | with_reducible apply State.updPlane_kept
    | with_reducible apply State.setPeer_kept
    | with_reducible apply State.refreshTm_kept
    | with_reducible exact keep_rfl
    | split
    | dsimp only

theorem State.reviewPeers_kept {s : State} {cause : Nat} (h0 : Kept aim s) : Kept aim (State.reviewPeers s cause) := by
  unfold State.reviewPeers
  try dsimp only
  repeat' first
    | with_reducible assumption
    | (with_reducible intro _)
    | with_reducible apply kept_foldl
    | with_reducible apply State.reviewPeer_kept

theorem State.planeDownAll_kept {s : State} {k cause : Nat} (h0 : Kept aim s) : Kept aim (State.planeDownAll s k cause) := by
  unfold State.planeDownAll
  repeat' first
    | with_reducible assumption
    | (with_reducible intro _)
    | with_reducible apply kept_foldl
    | with_reducible apply State.planeDown_kept
    | split

theorem State.setLane_kept {s : State} {l : Nat} {x : Lane} (h0 : Kept aim s) : Kept aim (State.setLane s l x) := h0

theorem State.noteGroup_kept {s s0 : State} {l : Nat} (h0 : Kept aim s) (h1 : Kept aim s0) :
    Kept aim (State.noteGroup s s0 l) := by
  unfold State.noteGroup
  try dsimp only
  repeat' first
    | with_reducible assumption
    | (with_reducible intro _)
    | with_reducible apply kept_foldl
    | with_reducible apply State.raise_kept
    | with_reducible apply keptOut_next
    | with_reducible exact keptOut_fault
    | with_reducible exact keep_rfl
    | exact fun _ => by decide
    | exact by decide
    | split

theorem State.afterLane_kept {s : State} {l : Nat} (h0 : Kept aim s) : Kept aim (State.afterLane s l) := by
  unfold State.afterLane
  repeat' first
    | with_reducible assumption
    | with_reducible apply State.planeDownAll_kept
    | split

theorem State.lanesCond_kept {s : State} (h0 : Kept aim s) : Kept aim (State.lanesCond s) := by
  unfold State.lanesCond
  repeat' first
    | with_reducible assumption
    | (with_reducible intro _)
    | with_reducible apply State.fixCond_kept

theorem State.removeLane_kept {s : State} {l cause : Nat} (h0 : Kept aim s) : Kept aim (State.removeLane s l cause) := by
  unfold State.removeLane
  try dsimp only
  repeat' first
    | with_reducible assumption
    | (with_reducible intro _)
    | with_reducible apply kept_foldl
    | with_reducible apply State.setLane_kept
    | with_reducible apply State.bump_kept
    | with_reducible apply State.raise_kept
    | with_reducible apply State.noteGroup_kept
    | with_reducible apply State.lanesCond_kept
    | with_reducible apply State.afterLane_kept

theorem State.badCodeword_kept {s : State} {l : Nat} (h0 : Kept aim s) : Kept aim (State.badCodeword s l) := by
  unfold State.badCodeword
  try dsimp only
  repeat' first
    | with_reducible assumption
    | (with_reducible intro _)
    | with_reducible apply kept_foldl
    | with_reducible apply State.bump_kept
    | with_reducible apply State.setLane_kept
    | with_reducible apply State.removeLane_kept
    | with_reducible apply keptOut_next
    | with_reducible exact keptOut_fault
    | with_reducible exact keep_rfl
    | exact fun _ => by decide
    | exact by decide
    | split

theorem State.declareLock_kept {s : State} {l : Nat} (h0 : Kept aim s) : Kept aim (State.declareLock s l) := by
  unfold State.declareLock
  try dsimp only
  repeat' first
    | with_reducible assumption
    | (with_reducible intro _)
    | with_reducible apply kept_foldl
    | with_reducible apply State.setLane_kept
    | with_reducible apply State.reviewPeers_kept
    | with_reducible apply State.refreshTm_kept

theorem State.loseLock_kept {s : State} {l : Nat} (h0 : Kept aim s) : Kept aim (State.loseLock s l) := by
  unfold State.loseLock
  try dsimp only
  repeat' first
    | with_reducible assumption
    | (with_reducible intro _)
    | with_reducible apply kept_foldl
    | with_reducible apply State.setLane_kept
    | with_reducible apply State.afterLane_kept

theorem State.laneCell_kept {s : State} {l : Nat} {c : Cell} (h0 : Kept aim s) : Kept aim (State.laneCell s l c) := by
  unfold State.laneCell
  try dsimp only
  repeat' first
    | with_reducible assumption
    | (with_reducible intro _)
    | with_reducible apply kept_foldl
    | with_reducible apply State.setLane_kept
    | with_reducible apply State.declareLock_kept
    | with_reducible apply State.loseLock_kept
    | with_reducible apply State.badCodeword_kept
    | with_reducible apply keptOut_next
    | with_reducible exact keptOut_fault
    | with_reducible exact keep_rfl
    | exact fun _ => by decide
    | exact by decide
    | split

theorem receiveCell_kept {type lane : Nat} {c : Cell} {s : State} {f : State → State} (h0 : Kept aim s)
    (h1 : ∀ z, Kept aim z → Kept aim (f z)) : KeptOut aim (receiveCell type lane c s f) := by
  unfold receiveCell
  try dsimp only
  repeat' first
    | with_reducible assumption
    | (with_reducible intro _)
    | with_reducible apply kept_foldl
    | with_reducible apply h1
    | with_reducible apply Offer.next_kept
    | with_reducible apply State.laneCell_kept
    | with_reducible apply done_kept
    | with_reducible apply State.dropFab_kept
    | with_reducible apply State.bump_kept
    | with_reducible apply keptOut_next
    | with_reducible exact keptOut_fault
    | with_reducible exact keep_rfl
    | exact fun _ => by decide
    | exact by decide
    | split

theorem State.heartbeat_kept {s : State} {f k : Nat} (h0 : Kept aim s) : Kept aim (State.heartbeat s f k) := by
  unfold State.heartbeat
  repeat' first
    | with_reducible assumption
    | (with_reducible intro _)
    | with_reducible apply State.updPlane_kept
    | with_reducible apply State.sendCell_kept
    | (simp only [kept_mk]; with_reducible refine keptMk_of ?_ ?_ ?_ ?_ ?_)
    | with_reducible exact keep_rfl
    | split
    | dsimp only

theorem execFabricHeartbeatSend_kept {s : State} (h0 : Kept aim s) : KeptOut aim (execFabricHeartbeatSend s) := by
  unfold execFabricHeartbeatSend
  repeat' first
    | with_reducible assumption
    | (with_reducible intro _)
    | with_reducible apply kept_foldl
    | with_reducible apply Offer.next_kept
    | with_reducible apply State.heartbeat_kept
    | with_reducible apply State.count_kept
    | with_reducible apply done_kept
    | with_reducible apply keptOut_next
    | (simp only [kept_mk]; with_reducible refine keptMk_of ?_ ?_ ?_ ?_ ?_)
    | with_reducible exact keep_rfl
    | split

theorem State.stopHearing_kept {s : State} {f k : Nat} (h0 : Kept aim s) : Kept aim (State.stopHearing s f k) := by
  unfold State.stopHearing
  try dsimp only
  repeat' first
    | with_reducible assumption
    | (with_reducible intro _)
    | with_reducible apply kept_foldl
    | with_reducible apply State.updPlane_kept
    | with_reducible apply State.reviewPeer_kept
    | with_reducible apply State.heartbeat_kept
    | with_reducible apply State.noteSilence_kept

theorem execHeartbeatCell_kept {rx : LaneCell} {s : State} (h0 : Kept aim s) : KeptOut aim (execHeartbeatCell rx s) := by
  unfold execHeartbeatCell
  try dsimp only
  repeat' first
    | with_reducible assumption
    | (with_reducible intro _)
    | with_reducible apply kept_foldl
    | with_reducible apply receiveCell_kept
    | with_reducible apply State.stopHearing_kept
    | with_reducible apply State.setPeer_kept
    | with_reducible apply State.reviewPeer_kept
    | with_reducible apply State.noteSilence_kept
    | with_reducible apply State.reviewChange_kept
    | with_reducible apply keptOut_next
    | with_reducible exact keptOut_fault
    | with_reducible exact keep_rfl
    | exact fun _ => by decide
    | exact by decide
    | split

theorem execHearTimeout_kept {peer plane : Nat} {s : State} (h0 : Kept aim s) : KeptOut aim (execHearTimeout peer plane s) := by
  unfold execHearTimeout
  try dsimp only
  repeat' first
    | with_reducible assumption
    | (with_reducible intro _)
    | with_reducible apply kept_foldl
    | with_reducible apply Offer.next_kept
    | with_reducible apply done_kept
    | with_reducible apply State.stopHearing_kept
    | with_reducible apply keptOut_next
    | with_reducible exact keptOut_fault
    | with_reducible exact keep_rfl
    | exact fun _ => by decide
    | exact by decide
    | split

theorem State.sendResync_kept {s : State} {f kind flags plane hs : Nat} {fences : Bytes} (h0 : Kept aim s) :
    Kept aim (State.sendResync s f kind flags plane hs fences) := by
  unfold State.sendResync
  dsimp only
  repeat' first
    | with_reducible assumption
    | (with_reducible intro _)
    | with_reducible apply kept_foldl
    | with_reducible apply State.sendCell_kept
    | split

theorem State.resyncTo_kept {s : State} {f k hs : Nat} (h0 : Kept aim s) : Kept aim (State.resyncTo s f k hs) := by
  unfold State.resyncTo
  dsimp only
  repeat' first
    | with_reducible assumption
    | (with_reducible intro _)
    | with_reducible apply State.sendResync_kept

theorem State.startResync_kept {s : State} {f k : Nat} (h0 : Kept aim s) : Kept aim (State.startResync s f k) := by
  unfold State.startResync
  dsimp only
  repeat' first
    | with_reducible assumption
    | (with_reducible intro _)
    | with_reducible apply State.updPlane_kept
    | with_reducible apply State.resyncTo_kept
    | (simp only [kept_mk]; with_reducible refine keptMk_of ?_ ?_ ?_ ?_ ?_)
    | with_reducible exact keep_rfl

theorem execUpHoldExpiry_kept {peer plane : Nat} {s : State} (h0 : Kept aim s) :
    KeptOut aim (execUpHoldExpiry peer plane s) := by
  unfold execUpHoldExpiry
  repeat' first
    | with_reducible assumption
    | with_reducible apply Offer.next_kept
    | with_reducible apply done_kept
    | with_reducible apply State.startResync_kept
    | with_reducible apply keptOut_next
    | with_reducible exact keptOut_fault
    | split
    | dsimp only

theorem execResync_kept {rx : LaneCell} {s : State} (h0 : Kept aim s) : KeptOut aim (execResync rx s) := by
  unfold execResync
  try dsimp only
  repeat' first
    | with_reducible assumption
    | (with_reducible intro _)
    | with_reducible apply kept_foldl
    | with_reducible apply receiveCell_kept
    | with_reducible apply State.updPlane_kept
    | with_reducible apply State.sendResync_kept
    | with_reducible apply keptOut_next
    | with_reducible exact keptOut_fault
    | (simp only [kept_mk]; with_reducible refine keptMk_of ?_ ?_ ?_ ?_ ?_)
    | with_reducible exact keep_rfl
    | exact fun _ => by decide
    | exact by decide
    | split

theorem execResyncAck_kept {rx : LaneCell} {s : State} (h0 : Kept aim s) : KeptOut aim (execResyncAck rx s) := by
  unfold execResyncAck
  try dsimp only
  repeat' first
    | with_reducible assumption
    | (with_reducible intro _)
    | with_reducible apply kept_foldl
    | with_reducible apply receiveCell_kept
    | with_reducible apply State.updPlane_kept
    | with_reducible apply State.setPeer_kept
    | with_reducible apply State.raise_kept
    | with_reducible apply State.refreshTm_kept
    | with_reducible apply keptOut_next
    | with_reducible exact keptOut_fault
    | with_reducible exact keep_rfl
    | exact fun _ => by decide
    | exact by decide
    | split

theorem execResyncResend_kept {peer plane : Nat} {s : State} (h0 : Kept aim s) :
    KeptOut aim (execResyncResend peer plane s) := by
  unfold execResyncResend
  repeat' first
    | with_reducible assumption
    | (with_reducible intro _)
    | with_reducible apply Offer.next_kept
    | with_reducible apply done_kept
    | with_reducible apply State.updPlane_kept
    | with_reducible apply State.resyncTo_kept
    | with_reducible apply State.raise_kept
    | with_reducible apply State.startResync_kept
    | with_reducible apply keptOut_next
    | with_reducible exact keptOut_fault
    | with_reducible exact keep_rfl
    | split
    | dsimp only

theorem execControlCell_kept {rx : LaneCell} {s : State} (h0 : Kept aim s) : KeptOut aim (execControlCell rx s) := by
  unfold execControlCell
  try dsimp only
  repeat' first
    | with_reducible assumption
    | (with_reducible intro _)
    | with_reducible apply kept_foldl
    | with_reducible apply receiveCell_kept
    | with_reducible apply State.count_kept
    | with_reducible apply State.bump_kept
    | with_reducible apply keptOut_next
    | with_reducible exact keptOut_fault
    | (simp only [kept_mk]; with_reducible refine keptMk_of ?_ ?_ ?_ ?_ ?_)
    | with_reducible exact keep_rfl
    | exact fun _ => by decide
    | exact by decide
    | split

theorem execControlMessageTimeout_kept {src msgId : Nat} {s : State} (h0 : Kept aim s) :
    KeptOut aim (execControlMessageTimeout src msgId s) := by
  unfold execControlMessageTimeout
  try dsimp only
  repeat' first
    | with_reducible assumption
    | (with_reducible intro _)
    | with_reducible apply kept_foldl
    | with_reducible apply Offer.next_kept
    | with_reducible apply done_kept
    | with_reducible apply State.bump_kept
    | with_reducible apply keptOut_next
    | with_reducible exact keptOut_fault
    | (simp only [kept_mk]; with_reducible refine keptMk_of ?_ ?_ ?_ ?_ ?_)
    | with_reducible exact keep_rfl
    | exact fun _ => by decide
    | exact by decide
    | split

theorem execFabricLaneFault_kept {lane : Nat} {lockLost : Bool} {s : State} (h0 : Kept aim s) :
    KeptOut aim (execFabricLaneFault lane lockLost s) := by
  unfold execFabricLaneFault
  repeat' first
    | with_reducible assumption
    | with_reducible apply Offer.next_kept
    | with_reducible apply done_kept
    | with_reducible apply State.removeLane_kept
    | with_reducible apply keptOut_next
    | with_reducible exact keptOut_fault
    | split
    | dsimp only

theorem execFabricLaneTrainingEnd_kept {lane : Nat} {trained : Bool} {s : State} (h0 : Kept aim s) :
    KeptOut aim (execFabricLaneTrainingEnd lane trained s) := by
  unfold execFabricLaneTrainingEnd
  try dsimp only
  repeat' first
    | with_reducible assumption
    | (with_reducible intro _)
    | with_reducible apply kept_foldl
    | with_reducible apply Offer.next_kept
    | with_reducible apply State.setLane_kept
    | with_reducible apply done_kept
    | with_reducible apply State.raise_kept
    | with_reducible apply State.lanesCond_kept
    | with_reducible apply State.noteGroup_kept
    | with_reducible apply keptOut_next
    | with_reducible exact keptOut_fault
    | with_reducible exact keep_rfl
    | exact fun _ => by decide
    | exact by decide
    | split

theorem execFabricTrainingRetry_kept {lane : Nat} {s : State} (h0 : Kept aim s) :
    KeptOut aim (execFabricTrainingRetry lane s) := by
  unfold execFabricTrainingRetry
  try dsimp only
  repeat' first
    | with_reducible assumption
    | (with_reducible intro _)
    | with_reducible apply kept_foldl
    | with_reducible apply done_kept
    | with_reducible apply State.setLane_kept
    | with_reducible apply Offer.next_kept
    | with_reducible apply keptOut_next
    | with_reducible exact keptOut_fault
    | with_reducible exact keep_rfl
    | exact fun _ => by decide
    | exact by decide
    | split

theorem execLaneLockDeclared_kept {lane : Nat} {s : State} (h0 : Kept aim s) : KeptOut aim (execLaneLockDeclared lane s) := by
  unfold execLaneLockDeclared
  try dsimp only
  repeat' first
    | with_reducible assumption
    | (with_reducible intro _)
    | with_reducible apply kept_foldl
    | with_reducible apply Offer.next_kept
    | with_reducible apply done_kept
    | with_reducible apply State.declareLock_kept
    | with_reducible apply keptOut_next
    | with_reducible exact keptOut_fault
    | with_reducible exact keep_rfl
    | exact fun _ => by decide
    | exact by decide
    | split

theorem execLaneLockLost_kept {lane : Nat} {s : State} (h0 : Kept aim s) : KeptOut aim (execLaneLockLost lane s) := by
  unfold execLaneLockLost
  try dsimp only
  repeat' first
    | with_reducible assumption
    | (with_reducible intro _)
    | with_reducible apply kept_foldl
    | with_reducible apply Offer.next_kept
    | with_reducible apply done_kept
    | with_reducible apply State.loseLock_kept
    | with_reducible apply keptOut_next
    | with_reducible exact keptOut_fault
    | with_reducible exact keep_rfl
    | exact fun _ => by decide
    | exact by decide
    | split

theorem State.laneSlot_kept {s : State} {slot l : Nat} (h0 : Kept aim s) : Kept aim (State.laneSlot s slot l) := by
  unfold State.laneSlot
  try dsimp only
  repeat' first
    | with_reducible assumption
    | (with_reducible intro _)
    | with_reducible apply kept_foldl
    | with_reducible apply State.bump_kept
    | with_reducible apply State.setLane_kept
    | with_reducible apply keptOut_next
    | with_reducible exact keptOut_fault
    | (simp only [kept_mk]; with_reducible refine keptMk_of ?_ ?_ ?_ ?_ ?_)
    | with_reducible exact keep_rfl
    | exact fun _ => by decide
    | exact by decide
    | split

theorem State.requestSlot_kept {s : State} (h0 : Kept aim s) : Kept aim (State.requestSlot s) := by
  unfold State.requestSlot
  try dsimp only
  repeat' first
    | with_reducible assumption
    | (with_reducible intro _)
    | with_reducible apply kept_foldl
    | with_reducible apply State.sendCell_kept
    | with_reducible apply keptOut_next
    | with_reducible exact keptOut_fault
    | (simp only [kept_mk]; with_reducible refine keptMk_of ?_ ?_ ?_ ?_ ?_)
    | with_reducible exact keep_rfl
    | exact fun _ => by decide
    | exact by decide
    | split

theorem State.fabricSlots_kept {s : State} (h0 : Kept aim s) : Kept aim (State.fabricSlots s) := by
  unfold State.fabricSlots
  try dsimp only
  repeat' first
    | with_reducible assumption
    | (with_reducible intro _)
    | with_reducible apply kept_foldl
    | with_reducible apply State.requestSlot_kept
    | with_reducible apply State.laneSlot_kept
    | with_reducible apply keptOut_next
    | with_reducible exact keptOut_fault
    | with_reducible exact keep_rfl
    | exact fun _ => by decide
    | exact by decide
    | split

theorem State.removePeer_kept {s : State} {f : Nat} (h0 : Kept aim s) : Kept aim (State.removePeer s f) := by
  unfold State.removePeer
  dsimp only
  repeat' first
    | with_reducible assumption
    | (with_reducible intro _)
    | with_reducible apply kept_foldl
    | with_reducible apply State.flushQueue_kept
    | with_reducible apply State.dropNoPeer_kept
    | with_reducible apply State.voqEdge_kept
    | with_reducible apply State.refreshTm_kept
    | (simp only [kept_mk]; with_reducible refine keptMk_of ?_ ?_ ?_ ?_ ?_)
    | with_reducible exact keep_rfl

theorem State.addPeer_kept {s : State} {f : Nat} {byManager : Bool} (h0 : Kept aim s) :
    Kept aim (State.addPeer s f byManager) := by
  unfold State.addPeer
  repeat' first
    | with_reducible assumption
    | with_reducible apply State.setPeer_kept
    | split

theorem cmdFabricConfig_kept {c : Cmd} {s : State} (h0 : Kept aim s) : Kept aim (cmdFabricConfig c s).st := by
  unfold cmdFabricConfig
  repeat' first
    | with_reducible assumption
    | (with_reducible intro _)
    | with_reducible apply gate_kept
    | with_reducible apply Res.err_kept
    | with_reducible apply State.removePeer_kept
    | with_reducible apply State.addPeer_kept
    | with_reducible apply State.noteIdentity_kept
    | (simp only [kept_mk]; with_reducible refine keptMk_of ?_ ?_ ?_ ?_ ?_)
    | with_reducible exact keep_rfl
    | split
    | dsimp only

theorem execFabricConfig_kept {c : Cmd} {s : State} (h0 : Kept aim s) : KeptOut aim (execFabricConfig c s) := by
  unfold execFabricConfig
  repeat' first
    | with_reducible assumption
    | with_reducible apply serve_kept
    | with_reducible apply cmdFabricConfig_kept

theorem cmdFabricPeerSet_kept {c : Cmd} {s : State} (h0 : Kept aim s) : Kept aim (cmdFabricPeerSet c s).st := by
  unfold cmdFabricPeerSet
  repeat' first
    | with_reducible assumption
    | (with_reducible intro _)
    | with_reducible apply gate_kept
    | with_reducible apply Res.err_kept
    | with_reducible apply State.addPeer_kept
    | with_reducible apply State.removePeer_kept
    | split
    | dsimp only

theorem execFabricPeerSet_kept {c : Cmd} {s : State} (h0 : Kept aim s) : KeptOut aim (execFabricPeerSet c s) := by
  unfold execFabricPeerSet
  repeat' first
    | with_reducible assumption
    | with_reducible apply serve_kept
    | with_reducible apply cmdFabricPeerSet_kept

theorem cmdProtectClassSet_kept {c : Cmd} {s : State} (h0 : Kept aim s) : Kept aim (cmdProtectClassSet c s).st := by
  unfold cmdProtectClassSet
  repeat' first
    | with_reducible assumption
    | (with_reducible intro _)
    | with_reducible apply gate_kept
    | with_reducible apply State.count_kept
    | with_reducible apply Res.err_kept
    | with_reducible apply State.refreshTm_kept
    | (simp only [kept_mk]; with_reducible refine keptMk_of ?_ ?_ ?_ ?_ ?_)
    | with_reducible exact keep_rfl
    | split
    | dsimp only

theorem execProtectClassSet_kept {c : Cmd} {s : State} (h0 : Kept aim s) : KeptOut aim (execProtectClassSet c s) := by
  unfold execProtectClassSet
  repeat' first
    | with_reducible assumption
    | with_reducible apply serve_kept
    | with_reducible apply cmdProtectClassSet_kept

theorem State.setCredit_kept {s : State} {p : Nat} {x : Credit} (h0 : Kept aim s) : Kept aim (State.setCredit s p x) := h0

theorem cmdCreditProfileSet_kept {c : Cmd} {s : State} (h0 : Kept aim s) : Kept aim (cmdCreditProfileSet c s).st := by
  unfold cmdCreditProfileSet
  repeat' first
    | with_reducible assumption
    | (with_reducible intro _)
    | with_reducible apply gate_kept
    | with_reducible apply Res.err_kept
    | with_reducible apply State.setCredit_kept
    | with_reducible exact keep_rfl
    | split
    | dsimp only

theorem execCreditProfileSet_kept {c : Cmd} {s : State} (h0 : Kept aim s) : KeptOut aim (execCreditProfileSet c s) := by
  unfold execCreditProfileSet
  repeat' first
    | with_reducible assumption
    | with_reducible apply serve_kept
    | with_reducible apply cmdCreditProfileSet_kept

theorem cmdPlaneAdmin_kept {c : Cmd} {s : State} (h0 : Kept aim s) : Kept aim (cmdPlaneAdmin c s).st := by
  unfold cmdPlaneAdmin
  try dsimp only
  repeat' first
    | with_reducible assumption
    | (with_reducible intro _)
    | with_reducible apply kept_foldl
    | with_reducible apply gate_kept
    | with_reducible apply Res.err_kept
    | with_reducible apply State.reviewPeers_kept
    | with_reducible apply State.planeDownAll_kept
    | with_reducible apply keptOut_next
    | with_reducible exact keptOut_fault
    | (simp only [kept_mk]; with_reducible refine keptMk_of ?_ ?_ ?_ ?_ ?_)
    | with_reducible exact keep_rfl
    | exact fun _ => by decide
    | exact by decide
    | split

theorem execPlaneAdmin_kept {c : Cmd} {s : State} (h0 : Kept aim s) : KeptOut aim (execPlaneAdmin c s) := by
  unfold execPlaneAdmin
  repeat' first
    | with_reducible assumption
    | with_reducible apply serve_kept
    | with_reducible apply cmdPlaneAdmin_kept

theorem cmdPlaneRestore_kept {c : Cmd} {s : State} (h0 : Kept aim s) : Kept aim (cmdPlaneRestore c s).st := by
  unfold cmdPlaneRestore
  repeat' first
    | with_reducible assumption
    | (with_reducible intro _)
    | with_reducible apply kept_foldl
    | with_reducible apply gate_kept
    | with_reducible apply Res.err_kept
    | with_reducible apply State.updPlane_kept
    | with_reducible apply State.raise_kept
    | with_reducible apply State.refreshTm_kept
    | with_reducible exact keep_rfl
    | split
    | dsimp only

theorem execPlaneRestore_kept {c : Cmd} {s : State} (h0 : Kept aim s) : KeptOut aim (execPlaneRestore c s) := by
  unfold execPlaneRestore
  repeat' first
    | with_reducible assumption
    | with_reducible apply serve_kept
    | with_reducible apply cmdPlaneRestore_kept

theorem cmdFabricLaneAdmin_kept {c : Cmd} {s : State} (h0 : Kept aim s) : Kept aim (cmdFabricLaneAdmin c s).st := by
  unfold cmdFabricLaneAdmin
  try dsimp only
  repeat' first
    | with_reducible assumption
    | (with_reducible intro _)
    | with_reducible apply kept_foldl
    | with_reducible apply gate_kept
    | with_reducible apply Res.err_kept
    | with_reducible apply State.setLane_kept
    | with_reducible apply State.raise_kept
    | with_reducible apply State.lanesCond_kept
    | with_reducible apply State.afterLane_kept
    | with_reducible apply State.noteGroup_kept
    | with_reducible apply State.reviewPeers_kept
    | with_reducible apply State.refreshTm_kept
    | with_reducible apply keptOut_next
    | with_reducible exact keptOut_fault
    | with_reducible exact keep_rfl
    | exact fun _ => by decide
    | exact by decide
    | split

theorem execFabricLaneAdmin_kept {c : Cmd} {s : State} (h0 : Kept aim s) : KeptOut aim (execFabricLaneAdmin c s) := by
  unfold execFabricLaneAdmin
  repeat' first
    | with_reducible assumption
    | with_reducible apply serve_kept
    | with_reducible apply cmdFabricLaneAdmin_kept

theorem cmdFabricStatusGet_kept {c : Cmd} {s : State} (h0 : Kept aim s) : Kept aim (cmdFabricStatusGet c s).st := by
  unfold cmdFabricStatusGet
  repeat' first
    | with_reducible assumption
    | (with_reducible intro _)
    | with_reducible apply gate_kept

theorem execFabricStatusGet_kept {c : Cmd} {s : State} (h0 : Kept aim s) : KeptOut aim (execFabricStatusGet c s) := by
  unfold execFabricStatusGet
  repeat' first
    | with_reducible assumption
    | with_reducible apply serve_kept
    | with_reducible apply cmdFabricStatusGet_kept

theorem cmdFabricCountersGet_kept {c : Cmd} {s : State} (h0 : Kept aim s) : Kept aim (cmdFabricCountersGet c s).st := by
  unfold cmdFabricCountersGet
  repeat' first
    | with_reducible assumption
    | (with_reducible intro _)
    | with_reducible apply gate_kept

theorem execFabricCountersGet_kept {c : Cmd} {s : State} (h0 : Kept aim s) : KeptOut aim (execFabricCountersGet c s) := by
  unfold execFabricCountersGet
  repeat' first
    | with_reducible assumption
    | with_reducible apply serve_kept
    | with_reducible apply cmdFabricCountersGet_kept

end Sys2Proof.Machine
end

