-- ==== Sys2Proof/Laws/KeptCells.lean ====
section
/-! SUPPORT. What Machine/Cells.lean leaves: the queue and the invariant (see Laws/Kept.lean). -/
namespace Sys2Proof.Machine
open Sys2Proof
variable {aim : Aim}

theorem State.sendData_kept {s : State} {q planes g : Nat} {c : Cell} (h0 : Kept aim s) :
    Kept aim (State.sendData s q planes g c) := by
  unfold State.sendData
  try dsimp only
  repeat' first
    | with_reducible assumption
    | (with_reducible intro _)
    | with_reducible apply kept_foldl
    | with_reducible apply State.sendCell_kept
    | with_reducible apply State.perfCount_kept
    | with_reducible apply State.updQueue_kept
    | with_reducible apply keptOut_next
    | with_reducible exact keptOut_fault
    | (simp only [kept_mk]; with_reducible refine keptMk_of ?_ ?_ ?_ ?_ ?_)
    | with_reducible exact keep_rfl
    | exact fun _ => by decide
    | exact by decide
    | split

theorem State.packStart_kept {s : State} {lane : Nat} {c : Cell} {pseq : Nat} {bytes : Bytes} (h0 : Kept aim s) :
    Kept aim (State.packStart s lane c pseq bytes) := by
  unfold State.packStart
  try dsimp only
  repeat' first
    | with_reducible assumption
    | (with_reducible intro _)
    | with_reducible apply kept_foldl
    | with_reducible apply keptOut_next
    | with_reducible exact keptOut_fault
    | (simp only [kept_mk]; with_reducible refine keptMk_of ?_ ?_ ?_ ?_ ?_)
    | with_reducible exact keep_rfl

theorem State.sendBytes_kept {s : State} {q planes pseq : Nat} {p : QPkt} {from_ : Nat} (h0 : Kept aim s) :
    Kept aim (State.sendBytes s q planes pseq p from_) := by
  unfold State.sendBytes
  try dsimp only
  repeat' first
    | with_reducible assumption
    | (with_reducible intro _)
    | with_reducible apply kept_foldl
    | with_reducible apply State.sendData_kept

theorem State.sendWhole_kept {s : State} {q planes pseq : Nat} {p : QPkt} (h0 : Kept aim s) :
    Kept aim (State.sendWhole s q planes pseq p) := by
  unfold State.sendWhole
  try dsimp only
  repeat' first
    | with_reducible assumption
    | (with_reducible intro _)
    | with_reducible apply kept_foldl
    | with_reducible apply State.packStart_kept
    | with_reducible apply State.sendBytes_kept
    | with_reducible apply keptOut_next
    | with_reducible exact keptOut_fault
    | with_reducible exact keep_rfl
    | exact fun _ => by decide
    | exact by decide
    | split

theorem State.sendCells_kept {s : State} {q planes pseq : Nat} {p : QPkt} {early : Bool} {from_ to_ : Nat}
    (h0 : Kept aim s) : Kept aim (State.sendCells s q planes pseq p early from_ to_) := by
  unfold State.sendCells
  dsimp only
  repeat' first
    | with_reducible assumption
    | (with_reducible intro _)
    | with_reducible apply kept_foldl
    | with_reducible apply State.sendData_kept

theorem State.sentHead_kept {s : State} {q : Nat} {p : QPkt} (h0 : Kept aim s) : Kept aim (State.sentHead s q p) := by
  unfold State.sentHead
  dsimp only
  repeat' first
    | with_reducible assumption
    | with_reducible apply State.noteRelease_kept
    | with_reducible apply State.popHead_kept
    | with_reducible apply State.voqEdge_kept
    | (simp only [kept_mk]; with_reducible refine keptMk_of ?_ ?_ ?_ ?_ ?_)
    | with_reducible exact keep_rfl

theorem State.chargeDispatch_kept {s : State} {q len : Nat} (h0 : Kept aim s) : Kept aim (State.chargeDispatch s q len) := h0

theorem State.dispatchHead_kept {s : State} {q : Nat} {p0 : QPkt} (h0 : Kept aim s) : Kept aim (State.dispatchHead s q p0) := by
  unfold State.dispatchHead
  try dsimp only
  repeat' first
    | with_reducible assumption
    | (with_reducible intro _)
    | with_reducible apply kept_foldl
    | with_reducible apply State.chargeDispatch_kept
    | with_reducible apply State.bump_kept
    | with_reducible apply State.updQueue_kept
    | with_reducible apply State.sendCells_kept
    | with_reducible apply State.sendWhole_kept
    | with_reducible apply State.sentHead_kept
    | with_reducible apply keptOut_next
    | with_reducible exact keptOut_fault
    | (simp only [kept_mk]; with_reducible refine keptMk_of ?_ ?_ ?_ ?_ ?_)
    | with_reducible exact keep_rfl
    | exact fun _ => by decide
    | exact by decide
    | split

theorem State.selectDispatch_kept {n : Nat} {s : State} (h0 : Kept aim s) : Kept aim (State.selectDispatch n s) := by
  induction n generalizing s with
  | zero => exact h0
  | succ n ih =>
    unfold State.selectDispatch
    split
    · exact h0
    · split
      · exact h0
      · split
        · exact ih (State.refreshTm_kept (State.voqEdge_kept (State.ageHead_kept h0) h0))
        · split
          · exact ih (State.refreshTm_kept (State.voqEdge_kept (State.dropHead_kept h0) h0))
          · dsimp only
            split
            · exact State.refreshTm_kept (State.dispatchHead_kept (State.gather_kept h0))
            · exact ih (State.refreshTm_kept (State.gather_kept h0))

theorem execDispatchSelection_kept {s : State} (h0 : Kept aim s) : KeptOut aim (execDispatchSelection s) := by
  unfold execDispatchSelection
  try dsimp only
  repeat' first
    | with_reducible assumption
    | (with_reducible intro _)
    | with_reducible apply kept_foldl
    | with_reducible apply Offer.next_kept
    | with_reducible apply done_kept
    | with_reducible apply State.refreshTm_kept
    | with_reducible apply State.selectDispatch_kept
    | with_reducible apply keptOut_next
    | with_reducible exact keptOut_fault
    | with_reducible exact keep_rfl
    | exact fun _ => by decide
    | exact by decide
    | split

theorem State.tailHere_kept {s : State} {q pid extra : Nat} {free : Bool} (h0 : Kept aim s) :
    Kept aim (State.tailHere s q pid extra free) := by
  unfold State.tailHere
  repeat' first
    | with_reducible assumption
    | (with_reducible intro _)
    | with_reducible apply State.updQueue_kept
    | with_reducible apply State.partAdd_kept

theorem State.removePkt_kept {s : State} {q pid : Nat} (h0 : Kept aim s) : Kept aim (State.removePkt s q pid) := by
  unfold State.removePkt
  try dsimp only
  repeat' first
    | with_reducible assumption
    | (with_reducible intro _)
    | with_reducible apply kept_foldl
    | with_reducible apply State.leave_kept
    | with_reducible apply State.settleQueue_kept

theorem State.tailAt_kept {s : State} {q pid : Nat} {good first : Bool} (h0 : Kept aim s) :
    Kept aim (State.tailAt s q pid good first) := by
  unfold State.tailAt
  dsimp only
  repeat' first
    | with_reducible assumption
    | (with_reducible intro _)
    | with_reducible apply State.tailHere_kept
    | with_reducible apply State.sendCells_kept
    | with_reducible apply State.sentHead_kept
    | with_reducible apply State.sendData_kept
    | with_reducible apply State.bump_kept
    | with_reducible apply State.popHead_kept
    | with_reducible apply State.voqEdge_kept
    | with_reducible apply State.removePkt_kept
    | (simp only [kept_mk]; with_reducible refine keptMk_of ?_ ?_ ?_ ?_ ?_)
    | with_reducible exact keep_rfl
    | split

theorem State.tailAll_kept {s : State} {pid : Nat} (h0 : Kept aim s) : Kept aim (State.tailAll s pid) := by
  unfold State.tailAll
  exact kept_foldl_on Prod.snd h0 fun b x hb => State.tailAt_kept hb

theorem execFrameTail_kept {port : Nat} {s : State} (h0 : Kept aim s) : KeptOut aim (execFrameTail port s) := by
  unfold execFrameTail
  try dsimp only
  repeat' first
    | with_reducible assumption
    | (with_reducible intro _)
    | with_reducible apply kept_foldl
    | with_reducible apply Offer.next_kept
    | with_reducible apply done_kept
    | with_reducible apply State.tailAll_kept
    | with_reducible apply State.count_kept
    | with_reducible apply State.refreshTm_kept
    | with_reducible apply keptOut_next
    | with_reducible exact keptOut_fault
    | with_reducible exact keep_rfl
    | exact fun _ => by decide
    | exact by decide
    | split

theorem State.setCtx_kept {s : State} {k : Nat} {x : Ctx} (h0 : Kept aim s) : Kept aim (State.setCtx s k x) := h0

theorem State.openCtx_kept {s : State} {k : Nat} {c : Cell} {b : Bytes} (h0 : Kept aim s) :
    Kept aim (State.openCtx s k c b) := by
  unfold State.openCtx
  try dsimp only
  repeat' first
    | with_reducible assumption
    | (with_reducible intro _)
    | with_reducible apply kept_foldl
    | with_reducible apply State.setCtx_kept
    | with_reducible apply State.dropFab_kept
    | with_reducible apply State.bump_kept
    | with_reducible apply State.perfCount_kept
    | with_reducible apply State.reasmAdd_kept
    | with_reducible apply keptOut_next
    | with_reducible exact keptOut_fault
    | with_reducible exact keep_rfl
    | exact fun _ => by decide
    | exact by decide
    | split

theorem State.endCtx_kept {s : State} {k src plane : Nat} {c : Cell} (h0 : Kept aim s) :
    Kept aim (State.endCtx s k src plane c) := by
  unfold State.endCtx
  try dsimp only
  repeat' first
    | with_reducible assumption
    | (with_reducible intro _)
    | with_reducible apply kept_foldl
    | with_reducible apply State.discardCtx_kept
    | with_reducible apply State.setCtx_kept
    | with_reducible apply State.reasmAdd_kept
    | with_reducible apply State.copies_kept
    | with_reducible apply done_kept
    | with_reducible apply keptOut_next
    | with_reducible exact keptOut_fault
    | (simp only [kept_mk]; with_reducible refine keptMk_of ?_ ?_ ?_ ?_ ?_)
    | with_reducible exact keep_rfl
    | exact fun _ => by decide
    | exact by decide
    | split

theorem State.passCell_kept {s : State} {c : Cell} (h0 : Kept aim s) : Kept aim (State.passCell s c) := by
  unfold State.passCell
  try dsimp only
  repeat' first
    | with_reducible assumption
    | (with_reducible intro _)
    | with_reducible apply kept_foldl
    | with_reducible apply State.discardCtx_kept
    | with_reducible apply State.bump_kept
    | with_reducible apply State.openCtx_kept
    | with_reducible apply State.setCtx_kept
    | with_reducible apply State.endCtx_kept
    | with_reducible apply State.dropFab_kept
    | with_reducible apply keptOut_next
    | with_reducible exact keptOut_fault
    | with_reducible exact keep_rfl
    | exact fun _ => by decide
    | exact by decide
    | split

theorem State.drainSeq_kept {n : Nat} {s : State} {key : Nat} (h0 : Kept aim s) : Kept aim (State.drainSeq n s key) := by
  induction n generalizing s with
  | zero => exact h0
  | succ n ih =>
    unfold State.drainSeq
    dsimp only
    split
    · exact h0
    · exact ih (State.passCell_kept (s := { s with fab.reseq := _ }) h0)

theorem State.giveUp_kept {s : State} {src plane lgroup : Nat} (h0 : Kept aim s) :
    Kept aim (State.giveUp s src plane lgroup) := by
  unfold State.giveUp
  try dsimp only
  repeat' first
    | with_reducible assumption
    | (with_reducible intro _)
    | with_reducible apply kept_foldl
    | with_reducible apply Offer.next_kept
    | with_reducible apply State.drainSeq_kept
    | with_reducible apply keptOut_next
    | with_reducible exact keptOut_fault
    | (simp only [kept_mk]; with_reducible refine keptMk_of ?_ ?_ ?_ ?_ ?_)
    | with_reducible exact keep_rfl
    | exact fun _ => by decide
    | exact by decide
    | split

theorem State.takeCell_kept {t : State} {cell : Cell} (h0 : Kept aim t) : Kept aim (State.takeCell t cell) := by
  unfold State.takeCell
  dsimp only
  have hu : Kept aim (t.perfCount 1 0x23 cell.plane 2) := State.perfCount_kept h0
  generalize t.perfCount 1 0x23 cell.plane 2 = u at *
  have hr : ∀ r, Kept aim { u with fab.reseq := r } := fun _ => hu
  refine iteInduction (motive := Kept aim) (fun _ => State.drainSeq_kept (State.passCell_kept (hr _))) fun _ => ?_
  refine iteInduction (motive := Kept aim) (fun _ => hu) fun _ => ?_
  exact iteInduction (motive := Kept aim) (fun _ => State.giveUp_kept (hr _)) fun _ => hr _

theorem execDataCell_kept {lane : Nat} {cell : Cell} {s : State} (h0 : Kept aim s) :
    KeptOut aim (execDataCell lane cell s) := by
  unfold execDataCell
  try dsimp only
  repeat' first
    | with_reducible assumption
    | (with_reducible intro _)
    | with_reducible apply kept_foldl
    | with_reducible apply receiveCell_kept
    | with_reducible apply State.takeCell_kept

theorem execResequenceTimeout_kept {src plane lgroup : Nat} {s : State} (h0 : Kept aim s) :
    KeptOut aim (execResequenceTimeout src plane lgroup s) := by
  unfold execResequenceTimeout
  try dsimp only
  repeat' first
    | with_reducible assumption
    | (with_reducible intro _)
    | with_reducible apply kept_foldl
    | with_reducible apply Offer.next_kept
    | with_reducible apply done_kept
    | with_reducible apply State.giveUp_kept
    | with_reducible apply keptOut_next
    | with_reducible exact keptOut_fault
    | with_reducible exact keep_rfl
    | exact fun _ => by decide
    | exact by decide
    | split

theorem execReassemblyTimeout_kept {src plane lgroup tc : Nat} {prot : Bool} {s : State} (h0 : Kept aim s) :
    KeptOut aim (execReassemblyTimeout src plane lgroup tc prot s) := by
  unfold execReassemblyTimeout
  try dsimp only
  repeat' first
    | with_reducible assumption
    | (with_reducible intro _)
    | with_reducible apply kept_foldl
    | with_reducible apply Offer.next_kept
    | with_reducible apply done_kept
    | with_reducible apply State.discardCtx_kept
    | with_reducible apply keptOut_next
    | with_reducible exact keptOut_fault
    | with_reducible exact keep_rfl
    | exact fun _ => by decide
    | exact by decide
    | split

theorem State.eliminate_kept {s : State} {src stream plane seq : Nat} (h0 : Kept aim s) :
    Kept aim (State.eliminate s src stream plane seq).2 := by
  unfold State.eliminate
  dsimp only
  repeat' first
    | with_reducible assumption
    | (simp only [kept_mk]; with_reducible refine keptMk_of ?_ ?_ ?_ ?_ ?_)
    | with_reducible exact keep_rfl
    | split

theorem State.eliminate_kept_eq {s : State} {src stream plane seq : Nat} {a1 : Elim} {a2 : State}
    (h0 : Kept aim s) (e : State.eliminate s src stream plane seq = (a1, a2)) : Kept aim a2 := by
  have x := State.eliminate_kept (aim := aim) (s := s) (src := src) (stream := stream) (plane := plane) (seq := seq) h0
  rw [e] at x
  exact x

theorem execProtectedCopyComplete_kept {src plane stream : Nat} {s : State} (h0 : Kept aim s) :
    KeptOut aim (execProtectedCopyComplete src plane stream s) := by
  unfold execProtectedCopyComplete
  try dsimp only
  repeat' first
    | with_reducible assumption
    | (with_reducible intro _)
    | with_reducible apply kept_foldl
    | with_reducible apply Offer.next_kept
    | with_reducible apply State.copies_kept
    | with_reducible apply State.eliminate_kept
    | (with_reducible refine State.eliminate_kept_eq ?_ (by assumption))
    | with_reducible apply done_kept
    | with_reducible apply State.bump_kept
    | with_reducible apply State.reasmAdd_kept
    | with_reducible apply State.dropFab_kept
    | with_reducible apply keptOut_next
    | with_reducible exact keptOut_fault
    | (simp only [kept_mk]; with_reducible refine keptMk_of ?_ ?_ ?_ ?_ ?_)
    | with_reducible exact keep_rfl
    | exact fun _ => by decide
    | exact by decide
    | split

theorem execWindowIdleExpiry_kept {src stream : Nat} {s : State} (h0 : Kept aim s) :
    KeptOut aim (execWindowIdleExpiry src stream s) := by
  unfold execWindowIdleExpiry
  try dsimp only
  repeat' first
    | with_reducible assumption
    | (with_reducible intro _)
    | with_reducible apply kept_foldl
    | with_reducible apply Offer.next_kept
    | with_reducible apply done_kept
    | with_reducible apply keptOut_next
    | with_reducible exact keptOut_fault
    | (simp only [kept_mk]; with_reducible refine keptMk_of ?_ ?_ ?_ ?_ ?_)
    | with_reducible exact keep_rfl
    | exact fun _ => by decide
    | exact by decide
    | split

theorem State.expand_kept {s : State} {p : QPkt} {base : Nat} {members : List McMember} (h0 : Kept aim s) :
    Kept aim (State.expand s p base members) := by
  unfold State.expand
  refine kept_foldl_on Offer.st h0 fun a e ha => ?_
  dsimp only
  split
  · exact State.dropMcast_kept ha
  · split
    · exact State.egressQueue_kept ha
    · dsimp only
      split
      · exact State.bump_kept (Offer.next_kept (a := { a with st := _ }) (State.egressQueue_kept ha))
      · exact Offer.next_kept (a := { a with st := _ }) (State.egressQueue_kept ha)

theorem State.deliver_kept {a : State} {p : QPkt} (h0 : Kept aim a) : Kept aim (State.deliver a p) := by
  unfold State.deliver
  try dsimp only
  repeat' first
    | with_reducible assumption
    | (with_reducible intro _)
    | with_reducible apply kept_foldl
    | with_reducible apply State.bump_kept
    | with_reducible apply State.dropMcast_kept
    | with_reducible apply State.expand_kept
    | with_reducible apply State.egressQueue_kept
    | (with_reducible refine State.egressQueue_kept_eq ?_ (by assumption))
    | with_reducible apply State.tsDropped_kept
    | with_reducible apply State.takeIn_kept
    | with_reducible apply keptOut_next
    | with_reducible exact keptOut_fault
    | with_reducible exact keep_rfl
    | exact fun _ => by decide
    | exact by decide
    | split

theorem execReassemblyComplete_kept {s : State} (h0 : Kept aim s) : KeptOut aim (execReassemblyComplete s) := by
  unfold execReassemblyComplete
  try dsimp only
  repeat' first
    | with_reducible assumption
    | (with_reducible intro _)
    | with_reducible apply kept_foldl
    | with_reducible apply done_kept
    | with_reducible apply Offer.next_kept
    | with_reducible apply State.deliver_kept
    | with_reducible apply State.reasmAdd_kept
    | with_reducible apply State.refreshTm_kept
    | with_reducible apply keptOut_next
    | with_reducible exact keptOut_fault
    | (simp only [kept_mk]; with_reducible refine keptMk_of ?_ ?_ ?_ ?_ ?_)
    | with_reducible exact keep_rfl
    | exact fun _ => by decide
    | exact by decide
    | split

theorem execCreditRequest_kept {rx : LaneCell} {s : State} (h0 : Kept aim s) : KeptOut aim (execCreditRequest rx s) := by
  unfold execCreditRequest
  try dsimp only
  repeat' first
    | with_reducible assumption
    | (with_reducible intro _)
    | with_reducible apply kept_foldl
    | with_reducible apply receiveCell_kept
    | with_reducible apply State.setCredit_kept
    | with_reducible apply State.leave_kept
    | with_reducible apply keptOut_next
    | with_reducible exact keptOut_fault
    | with_reducible exact keep_rfl
    | exact fun _ => by decide
    | exact by decide
    | split

theorem execCreditRequestRefresh_kept {voq : Nat} {s : State} (h0 : Kept aim s) :
    KeptOut aim (execCreditRequestRefresh voq s) := by
  unfold execCreditRequestRefresh
  repeat' first
    | with_reducible assumption
    | (with_reducible intro _)
    | with_reducible apply Offer.next_kept
    | with_reducible apply done_kept
    | with_reducible apply State.creditReq_kept
    | with_reducible apply State.updQueue_kept
    | with_reducible apply keptOut_next
    | with_reducible exact keptOut_fault
    | with_reducible exact keep_rfl
    | split
    | dsimp only

theorem execVoqActiveTimeout_kept {src voq : Nat} {s : State} (h0 : Kept aim s) :
    KeptOut aim (execVoqActiveTimeout src voq s) := by
  unfold execVoqActiveTimeout
  try dsimp only
  repeat' first
    | with_reducible assumption
    | (with_reducible intro _)
    | with_reducible apply kept_foldl
    | with_reducible apply Offer.next_kept
    | with_reducible apply done_kept
    | with_reducible apply State.setCredit_kept
    | with_reducible apply State.leave_kept
    | with_reducible apply keptOut_next
    | with_reducible exact keptOut_fault
    | with_reducible exact keep_rfl
    | exact fun _ => by decide
    | exact by decide
    | split

theorem State.sendGrants_kept {s : State} {src : Nat} (h0 : Kept aim s) : Kept aim (State.sendGrants s src) := by
  unfold State.sendGrants
  repeat' first
    | with_reducible assumption
    | (with_reducible intro _)
    | with_reducible apply State.sendCell_kept
    | (simp only [kept_mk]; with_reducible refine keptMk_of ?_ ?_ ?_ ?_ ?_)
    | with_reducible exact keep_rfl
    | split
    | dsimp only

theorem State.addGrant_kept {s : State} {src voq : Nat} (h0 : Kept aim s) : Kept aim (State.addGrant s src voq) := by
  unfold State.addGrant
  dsimp only
  repeat' first
    | with_reducible assumption
    | (with_reducible intro _)
    | with_reducible apply State.sendGrants_kept
    | (simp only [kept_mk]; with_reducible refine keptMk_of ?_ ?_ ?_ ?_ ?_)
    | with_reducible exact keep_rfl
    | split

theorem execCreditIssue_kept {port : Nat} {s : State} (h0 : Kept aim s) : KeptOut aim (execCreditIssue port s) := by
  unfold execCreditIssue
  repeat' first
    | with_reducible assumption
    | (with_reducible intro _)
    | with_reducible apply Offer.next_kept
    | with_reducible apply done_kept
    | with_reducible apply State.setCredit_kept
    | with_reducible apply State.bump_kept
    | with_reducible apply State.addGrant_kept
    | with_reducible apply keptOut_next
    | with_reducible exact keptOut_fault
    | with_reducible exact keep_rfl
    | split
    | dsimp only

theorem execGrantBatchTimeout_kept {src : Nat} {s : State} (h0 : Kept aim s) : KeptOut aim (execGrantBatchTimeout src s) := by
  unfold execGrantBatchTimeout
  try dsimp only
  repeat' first
    | with_reducible assumption
    | (with_reducible intro _)
    | with_reducible apply kept_foldl
    | with_reducible apply Offer.next_kept
    | with_reducible apply done_kept
    | with_reducible apply State.sendGrants_kept
    | with_reducible apply keptOut_next
    | with_reducible exact keptOut_fault
    | with_reducible exact keep_rfl
    | exact fun _ => by decide
    | exact by decide
    | split

theorem State.boundKept_kept {s : State} {q : Nat} (h0 : Kept aim s) : Kept aim (State.boundKept s q) := by
  unfold State.boundKept
  try dsimp only
  repeat' first
    | with_reducible assumption
    | (with_reducible intro _)
    | with_reducible apply kept_foldl
    | with_reducible apply State.keepCredit_kept
    | with_reducible apply State.updQueue_kept
    | with_reducible apply keptOut_next
    | with_reducible exact keptOut_fault
    | with_reducible exact keep_rfl
    | exact fun _ => by decide
    | exact by decide
    | split

theorem execCreditGrant_kept {rx : LaneCell} {s : State} (h0 : Kept aim s) : KeptOut aim (execCreditGrant rx s) := by
  unfold execCreditGrant
  try dsimp only
  repeat' first
    | with_reducible assumption
    | (with_reducible intro _)
    | with_reducible apply kept_foldl
    | with_reducible apply receiveCell_kept
    | with_reducible apply State.setQueue_kept
    | with_reducible apply State.count_kept
    | with_reducible apply State.perfCount_kept
    | with_reducible apply State.boundKept_kept
    | with_reducible apply State.refreshTm_kept
    | with_reducible apply keptOut_next
    | with_reducible exact keptOut_fault
    | with_reducible exact keep_rfl
    | exact fun _ => by decide
    | exact by decide
    | split

theorem execCreditKeepExpiry_kept {voq : Nat} {s : State} (h0 : Kept aim s) : KeptOut aim (execCreditKeepExpiry voq s) := by
  unfold execCreditKeepExpiry
  try dsimp only
  repeat' first
    | with_reducible assumption
    | (with_reducible intro _)
    | with_reducible apply kept_foldl
    | with_reducible apply Offer.next_kept
    | with_reducible apply done_kept
    | with_reducible apply State.setQueue_kept
    | with_reducible apply State.count_kept
    | with_reducible apply State.refreshTm_kept
    | with_reducible apply keptOut_next
    | with_reducible exact keptOut_fault
    | with_reducible exact keep_rfl
    | exact fun _ => by decide
    | exact by decide
    | split

end Sys2Proof.Machine
end

