-- ==== Sys2Proof/Laws/KeptInject.lean ====
section
/-! SUPPORT. What Machine/Inject.lean leaves: the queue and the invariant (see Laws/Kept.lean). -/
namespace Sys2Proof.Machine
open Sys2Proof
variable {aim : Aim}

theorem State.injectHand_kept {s : State} {b : Bytes} (h0 : Kept aim s) : Kept aim (State.injectHand s b) := by
  unfold State.injectHand
  dsimp only
  repeat' first
    | with_reducible assumption
    | (with_reducible intro _)
    | with_reducible apply State.updPrt_kept
    | with_reducible apply State.admitIngress_kept
    | with_reducible exact keep_rfl
    | split

theorem execInjectFrameRead_kept {channel : Nat} {data : Bytes} {s : State} (h0 : Kept aim s) :
    KeptOut aim (execInjectFrameRead channel data s) := by
  unfold execInjectFrameRead
  try dsimp only
  repeat' first
    | with_reducible assumption
    | (with_reducible intro _)
    | with_reducible apply kept_foldl
    | with_reducible apply Offer.next_kept
    | with_reducible apply State.setChan_kept
    | with_reducible apply State.injectDone_kept
    | with_reducible apply State.chanDrop_kept
    | with_reducible apply State.raiseLim_kept
    | with_reducible apply State.release_kept
    | (with_reducible refine State.release_kept_eq ?_ (by assumption))
    | with_reducible apply done_kept
    | with_reducible apply State.freeHandles_kept
    | with_reducible apply State.bump_kept
    | with_reducible apply State.count_kept
    | with_reducible apply State.injectHand_kept
    | with_reducible apply State.poolAlloc_kept
    | (with_reducible refine State.poolAlloc_kept_eq ?_ (by assumption))
    | with_reducible apply State.drop3B_kept
    | with_reducible apply State.tsDropped_kept
    | with_reducible apply keptOut_next
    | with_reducible exact keptOut_fault
    | with_reducible exact keep_rfl
    | exact fun _ => by decide
    | exact by decide
    | split

end Sys2Proof.Machine
end

