-- ==== Sys2Proof/Laws/KeptEdit.lean ====
section
/-! SUPPORT. What Machine/Edit.lean leaves: the queue and the invariant (see Laws/Kept.lean). -/
namespace Sys2Proof.Machine
open Sys2Proof
variable {aim : Aim}

theorem State.editDrop_kept {s : State} {code port : Nat} {tsReq : Option Nat} (h0 : Kept aim s) :
    Kept aim (State.editDrop s code port tsReq) := by
  unfold State.editDrop
  repeat' first
    | with_reducible assumption
    | with_reducible apply State.bump_kept
    | with_reducible apply State.tsDropped_kept

theorem State.editFault_kept {s : State} {engine prog : Nat} {head : Option Nat} {code n w : Nat} (h0 : Kept aim s) :
    Kept aim (State.editFault s engine prog head code n w) := by
  unfold State.editFault
  dsimp only
  repeat' first
    | with_reducible assumption
    | (with_reducible intro _)
    | with_reducible apply State.bump_kept
    | with_reducible apply State.perfCount_kept
    | with_reducible apply State.raiseLim_kept
    | with_reducible apply State.psample_kept
    | (simp only [kept_mk]; with_reducible refine keptMk_of ?_ ?_ ?_ ?_ ?_)
    | with_reducible exact keep_rfl

theorem State.toMac_kept {s : State} {port : Nat} {x : EFrame} {e : EditWord} {rx : T32} {tsReq : Option Nat}
    {eapol : Bool} (h0 : Kept aim s) : Kept aim (State.toMac s port x e rx tsReq eapol) := by
  unfold State.toMac
  dsimp only
  repeat' first
    | with_reducible assumption
    | (with_reducible intro _)
    | with_reducible apply State.bump_kept
    | with_reducible apply State.secTransmit_kept
    | with_reducible apply State.tsDropped_kept
    | with_reducible apply State.txDrop_kept
    | with_reducible apply State.endLpi_kept
    | with_reducible apply State.updPrt_kept
    | with_reducible exact keep_rfl
    | split

theorem execEditPacket_kept {port : Nat} {s : State} (h0 : Kept aim s) : KeptOut aim (execEditPacket port s) := by
  unfold execEditPacket
  try dsimp only
  repeat' first
    | with_reducible assumption
    | (with_reducible intro _)
    | with_reducible apply kept_foldl
    | with_reducible apply Offer.next_kept
    | with_reducible apply State.updPrt_kept
    | with_reducible apply done_kept
    | with_reducible apply State.editDrop_kept
    | with_reducible apply State.txDrop_kept
    | with_reducible apply State.bump_kept
    | with_reducible apply State.perfCount_kept
    | with_reducible apply State.editFault_kept
    | with_reducible apply State.pairAdd_kept
    | with_reducible apply State.toMac_kept
    | with_reducible apply keptOut_next
    | with_reducible exact keptOut_fault
    | (simp only [kept_mk]; with_reducible refine keptMk_of ?_ ?_ ?_ ?_ ?_)
    | with_reducible exact keep_rfl
    | exact fun _ => by decide
    | exact by decide
    | split

theorem execTransmitStart_kept {port : Nat} {s : State} (h0 : Kept aim s) : KeptOut aim (execTransmitStart port s) := by
  unfold execTransmitStart
  try dsimp only
  repeat' first
    | with_reducible assumption
    | (with_reducible intro _)
    | with_reducible apply kept_foldl
    | with_reducible apply Offer.next_kept
    | with_reducible apply State.setPrt_kept
    | with_reducible apply State.bump_kept
    | with_reducible apply State.count_kept
    | with_reducible apply State.perfCount_kept
    | with_reducible apply State.histAt_kept
    | with_reducible apply State.txTimestamp_kept
    | with_reducible apply done_kept
    | with_reducible apply keptOut_next
    | with_reducible exact keptOut_fault
    | (simp only [kept_mk]; with_reducible refine keptMk_of ?_ ?_ ?_ ?_ ?_)
    | with_reducible exact keep_rfl
    | exact fun _ => by decide
    | exact by decide
    | split

theorem State.retireEngine_kept {s : State} {engine : Nat} (h0 : Kept aim s) : Kept aim (State.retireEngine s engine) := by
  unfold State.retireEngine
  dsimp only
  repeat' first
    | with_reducible assumption
    | (with_reducible intro _)
    | with_reducible apply State.raise_kept
    | with_reducible apply State.portDown_kept
    | with_reducible apply State.setCond_kept
    | (simp only [kept_mk]; with_reducible refine keptMk_of ?_ ?_ ?_ ?_ ?_)
    | with_reducible exact keep_rfl
    | split

theorem execEditEngineError_kept {engine held : Nat} {s : State} (h0 : Kept aim s) :
    KeptOut aim (execEditEngineError engine held s) := by
  unfold execEditEngineError
  repeat' first
    | with_reducible assumption
    | (with_reducible intro _)
    | with_reducible apply kept_foldl
    | with_reducible apply Offer.next_kept
    | with_reducible apply State.editDrop_kept
    | with_reducible apply State.updPrt_kept
    | with_reducible apply done_kept
    | with_reducible apply State.retireEngine_kept
    | with_reducible apply State.record_kept
    | with_reducible apply keptOut_next
    | with_reducible exact keptOut_fault
    | with_reducible exact keep_rfl
    | split

theorem State.editStoreLost_kept {s : State} {kind index : Nat} (h0 : Kept aim s) :
    Kept aim (State.editStoreLost s kind index) := by
  unfold State.editStoreLost
  repeat' first
    | with_reducible assumption
    | with_reducible apply State.raise_kept
    | (simp only [kept_mk]; with_reducible refine keptMk_of ?_ ?_ ?_ ?_ ?_)
    | with_reducible exact keep_rfl
    | split

theorem cmdEditProgramSet_kept {c : Cmd} {s : State} (h0 : Kept aim s) : Kept aim (cmdEditProgramSet c s).st := by
  unfold cmdEditProgramSet
  repeat' first
    | with_reducible assumption
    | (with_reducible intro _)
    | with_reducible apply gate_kept
    | with_reducible apply Res.err_kept
    | with_reducible apply State.editMended_kept
    | (simp only [kept_mk]; with_reducible refine keptMk_of ?_ ?_ ?_ ?_ ?_)
    | with_reducible exact keep_rfl
    | split
    | dsimp only

theorem execEditProgramSet_kept {c : Cmd} {s : State} (h0 : Kept aim s) : KeptOut aim (execEditProgramSet c s) := by
  unfold execEditProgramSet
  repeat' first
    | with_reducible assumption
    | with_reducible apply serve_kept
    | with_reducible apply cmdEditProgramSet_kept

theorem cmdMcastGroupSet_kept {c : Cmd} {s : State} (h0 : Kept aim s) : Kept aim (cmdMcastGroupSet c s).st := by
  unfold cmdMcastGroupSet
  repeat' first
    | with_reducible assumption
    | (with_reducible intro _)
    | with_reducible apply gate_kept
    | with_reducible apply Res.err_kept
    | with_reducible apply State.editMended_kept
    | (simp only [kept_mk]; with_reducible refine keptMk_of ?_ ?_ ?_ ?_ ?_)
    | with_reducible exact keep_rfl
    | split
    | dsimp only

theorem execMcastGroupSet_kept {c : Cmd} {s : State} (h0 : Kept aim s) : KeptOut aim (execMcastGroupSet c s) := by
  unfold execMcastGroupSet
  repeat' first
    | with_reducible assumption
    | with_reducible apply serve_kept
    | with_reducible apply cmdMcastGroupSet_kept

theorem execMcastBlockRelease_kept {group : Nat} {s : State} (h0 : Kept aim s) :
    KeptOut aim (execMcastBlockRelease group s) := by
  unfold execMcastBlockRelease
  try dsimp only
  repeat' first
    | with_reducible assumption
    | (with_reducible intro _)
    | with_reducible apply kept_foldl
    | with_reducible apply Offer.next_kept
    | with_reducible apply done_kept
    | with_reducible apply keptOut_next
    | with_reducible exact keptOut_fault
    | (simp only [kept_mk]; with_reducible refine keptMk_of ?_ ?_ ?_ ?_ ?_)
    | with_reducible exact keep_rfl
    | exact fun _ => by decide
    | exact by decide
    | split

theorem cmdMcastGroupGet_kept {c : Cmd} {s : State} (h0 : Kept aim s) : Kept aim (cmdMcastGroupGet c s).st := by
  unfold cmdMcastGroupGet
  repeat' first
    | with_reducible assumption
    | (with_reducible intro _)
    | with_reducible apply gate_kept

theorem execMcastGroupGet_kept {c : Cmd} {s : State} (h0 : Kept aim s) : KeptOut aim (execMcastGroupGet c s) := by
  unfold execMcastGroupGet
  repeat' first
    | with_reducible assumption
    | with_reducible apply serve_kept
    | with_reducible apply cmdMcastGroupGet_kept

theorem cmdEditPortSet_kept {c : Cmd} {s : State} (h0 : Kept aim s) : Kept aim (cmdEditPortSet c s).st := by
  unfold cmdEditPortSet
  repeat' first
    | with_reducible assumption
    | (with_reducible intro _)
    | with_reducible apply gate_kept
    | with_reducible apply Res.err_kept
    | with_reducible apply State.updPrt_kept
    | with_reducible exact keep_rfl
    | split
    | dsimp only

theorem execEditPortSet_kept {c : Cmd} {s : State} (h0 : Kept aim s) : KeptOut aim (execEditPortSet c s) := by
  unfold execEditPortSet
  repeat' first
    | with_reducible assumption
    | with_reducible apply serve_kept
    | with_reducible apply cmdEditPortSet_kept

theorem cmdMcastConfig_kept {c : Cmd} {s : State} (h0 : Kept aim s) : Kept aim (cmdMcastConfig c s).st := by
  unfold cmdMcastConfig
  repeat' first
    | with_reducible assumption
    | (with_reducible intro _)
    | with_reducible apply gate_kept
    | with_reducible apply Res.err_kept
    | (simp only [kept_mk]; with_reducible refine keptMk_of ?_ ?_ ?_ ?_ ?_)
    | with_reducible exact keep_rfl
    | split
    | dsimp only

theorem execMcastConfig_kept {c : Cmd} {s : State} (h0 : Kept aim s) : KeptOut aim (execMcastConfig c s) := by
  unfold execMcastConfig
  repeat' first
    | with_reducible assumption
    | with_reducible apply serve_kept
    | with_reducible apply cmdMcastConfig_kept

theorem cmdEditTest_kept {c : Cmd} {s : State} (h0 : Kept aim s) : Kept aim (cmdEditTest c s).st := by
  unfold cmdEditTest
  repeat' first
    | with_reducible assumption
    | (with_reducible intro _)
    | with_reducible apply gate_kept
    | with_reducible apply Res.err_kept
    | split
    | dsimp only

theorem execEditTest_kept {c : Cmd} {s : State} (h0 : Kept aim s) : KeptOut aim (execEditTest c s) := by
  unfold execEditTest
  repeat' first
    | with_reducible assumption
    | with_reducible apply serve_kept
    | with_reducible apply cmdEditTest_kept

theorem cmdEditCountersGet_kept {c : Cmd} {s : State} (h0 : Kept aim s) : Kept aim (cmdEditCountersGet c s).st := by
  unfold cmdEditCountersGet
  repeat' first
    | with_reducible assumption
    | (with_reducible intro _)
    | with_reducible apply gate_kept

theorem execEditCountersGet_kept {c : Cmd} {s : State} (h0 : Kept aim s) : KeptOut aim (execEditCountersGet c s) := by
  unfold execEditCountersGet
  repeat' first
    | with_reducible assumption
    | with_reducible apply serve_kept
    | with_reducible apply cmdEditCountersGet_kept

end Sys2Proof.Machine
end

