-- ==== Sys2Proof/Laws/KeptHbm.lean ====
section
/-! SUPPORT. What Machine/Hbm.lean leaves: the queue and the invariant (see Laws/Kept.lean). -/
namespace Sys2Proof.Machine
open Sys2Proof
variable {aim : Aim}

theorem State.setPc_kept {s : State} {p : Nat} {x : Pc} (h0 : Kept aim s) : Kept aim (State.setPc s p x) := h0

theorem State.setBank_kept {s : State} {p b : Nat} {x : Bank} (h0 : Kept aim s) : Kept aim (State.setBank s p b x) := h0

theorem State.deadlineMiss_kept {s : State} {port : Nat} (h0 : Kept aim s) : Kept aim (State.deadlineMiss s port) := by
  unfold State.deadlineMiss
  repeat' first
    | with_reducible assumption
    | with_reducible apply State.bump_kept
    | with_reducible apply State.perfCount_kept

theorem State.riseReq_kept {s : State} {r : HbmReq} (h0 : Kept aim s) : Kept aim (State.riseReq s r) := by
  unfold State.riseReq
  try dsimp only
  repeat' first
    | with_reducible assumption
    | (with_reducible intro _)
    | with_reducible apply kept_foldl
    | with_reducible apply State.deadlineMiss_kept
    | with_reducible apply keptOut_next
    | with_reducible exact keptOut_fault
    | (simp only [kept_mk]; with_reducible refine keptMk_of ?_ ?_ ?_ ?_ ?_)
    | with_reducible exact keep_rfl
    | exact fun _ => by decide
    | exact by decide
    | split

theorem State.access_kept {s : State} {p b row : Nat} (h0 : Kept aim s) : Kept aim (State.access s p b row) := h0

theorem State.noteStarve_kept {s : State} {p : Nat} {l : List HbmReq} {served : Option HbmReq} (h0 : Kept aim s) :
    Kept aim (State.noteStarve s p l served) := by
  unfold State.noteStarve
  try dsimp only
  repeat' first
    | with_reducible assumption
    | (with_reducible intro _)
    | with_reducible apply kept_foldl
    | with_reducible apply keptOut_next
    | with_reducible exact keptOut_fault
    | (simp only [kept_mk]; with_reducible refine keptMk_of ?_ ?_ ?_ ?_ ?_)
    | with_reducible exact keep_rfl
    | exact fun _ => by decide
    | exact by decide
    | split

theorem State.hbmSlot_kept {s : State} {p : Nat} (h0 : Kept aim s) : Kept aim (State.hbmSlot s p) := by
  unfold State.hbmSlot
  try dsimp only
  repeat' first
    | with_reducible assumption
    | (with_reducible intro _)
    | with_reducible apply kept_foldl
    | with_reducible apply State.noteStarve_kept
    | with_reducible apply State.meterTake_kept
    | with_reducible apply State.setHbmChan_kept
    | with_reducible apply State.setStack_kept
    | with_reducible apply State.access_kept
    | with_reducible apply State.histAdd_kept
    | with_reducible apply keptOut_next
    | with_reducible exact keptOut_fault
    | (simp only [kept_mk]; with_reducible refine keptMk_of ?_ ?_ ?_ ?_ ?_)
    | with_reducible exact keep_rfl
    | exact fun _ => by decide
    | exact by decide
    | split

theorem State.hbmSlots_kept {s : State} (h0 : Kept aim s) : Kept aim (State.hbmSlots s) := by
  unfold State.hbmSlots
  try dsimp only
  repeat' first
    | with_reducible assumption
    | (with_reducible intro _)
    | with_reducible apply kept_foldl
    | with_reducible apply State.hbmSlot_kept
    | with_reducible apply State.riseReq_kept

theorem execHbmRequest_kept {pc port bank row : Nat} {write : Bool} {s : State} (h0 : Kept aim s) :
    KeptOut aim (execHbmRequest pc port bank row write s) := by
  unfold execHbmRequest
  repeat' first
    | with_reducible assumption
    | with_reducible apply Ring.write_kept
    | with_reducible apply Offer.next_kept
    | with_reducible apply State.perfCount_kept
    | with_reducible apply State.setStack_kept
    | with_reducible apply State.bump_kept
    | with_reducible apply done_kept
    | with_reducible apply State.deadlineMiss_kept
    | with_reducible apply keptOut_next
    | with_reducible exact keptOut_fault
    | (simp only [kept_mk]; with_reducible refine keptMk_of ?_ ?_ ?_ ?_ ?_)
    | with_reducible exact keep_rfl
    | split

theorem execRequestUrgencyRise_kept {req : Nat} {s : State} (h0 : Kept aim s) : KeptOut aim (execRequestUrgencyRise req s) := by
  unfold execRequestUrgencyRise
  try dsimp only
  repeat' first
    | with_reducible assumption
    | (with_reducible intro _)
    | with_reducible apply kept_foldl
    | with_reducible apply Offer.next_kept
    | with_reducible apply done_kept
    | with_reducible apply State.riseReq_kept
    | with_reducible apply keptOut_next
    | with_reducible exact keptOut_fault
    | with_reducible exact keep_rfl
    | exact fun _ => by decide
    | exact by decide
    | split

theorem execHbmRefreshDue_kept {pc bank : Nat} {s : State} (h0 : Kept aim s) : KeptOut aim (execHbmRefreshDue pc bank s) := by
  unfold execHbmRefreshDue
  try dsimp only
  repeat' first
    | with_reducible assumption
    | (with_reducible intro _)
    | with_reducible apply kept_foldl
    | with_reducible apply Offer.next_kept
    | with_reducible apply done_kept
    | with_reducible apply State.setBank_kept
    | with_reducible apply State.bump_kept
    | with_reducible apply keptOut_next
    | with_reducible exact keptOut_fault
    | (simp only [kept_mk]; with_reducible refine keptMk_of ?_ ?_ ?_ ?_ ?_)
    | with_reducible exact keep_rfl
    | exact fun _ => by decide
    | exact by decide
    | split

theorem execSelfRefreshIdle_kept {stack : Nat} {s : State} (h0 : Kept aim s) : KeptOut aim (execSelfRefreshIdle stack s) := by
  unfold execSelfRefreshIdle
  try dsimp only
  repeat' first
    | with_reducible assumption
    | (with_reducible intro _)
    | with_reducible apply kept_foldl
    | with_reducible apply Offer.next_kept
    | with_reducible apply done_kept
    | with_reducible apply State.setStack_kept
    | with_reducible apply State.bump_kept
    | with_reducible apply keptOut_next
    | with_reducible exact keptOut_fault
    | (simp only [kept_mk]; with_reducible refine keptMk_of ?_ ?_ ?_ ?_ ?_)
    | with_reducible exact keep_rfl
    | exact fun _ => by decide
    | exact by decide
    | split

theorem execSelfRefreshExit_kept {stack : Nat} {s : State} (h0 : Kept aim s) : KeptOut aim (execSelfRefreshExit stack s) := by
  unfold execSelfRefreshExit
  try dsimp only
  repeat' first
    | with_reducible assumption
    | (with_reducible intro _)
    | with_reducible apply kept_foldl
    | with_reducible apply Offer.next_kept
    | with_reducible apply done_kept
    | with_reducible apply State.setStack_kept
    | with_reducible apply State.count_kept
    | with_reducible apply keptOut_next
    | with_reducible exact keptOut_fault
    | with_reducible exact keep_rfl
    | exact fun _ => by decide
    | exact by decide
    | split

theorem State.zeroPairs_kept {s : State} {first n : Nat} {which : Nat → Bool} (h0 : Kept aim s) :
    Kept aim (State.zeroPairs s first n which) := by
  unfold State.zeroPairs
  repeat' first
    | with_reducible assumption
    | (with_reducible intro _)
    | with_reducible apply State.raise_kept
    | (simp only [kept_mk]; with_reducible refine keptMk_of ?_ ?_ ?_ ?_ ?_)
    | with_reducible exact keep_rfl

theorem State.moveArea_kept {s : State} {x : Nat} (h0 : Kept aim s) : Kept aim (State.moveArea s x) := by
  unfold State.moveArea
  try dsimp only
  repeat' first
    | with_reducible assumption
    | (with_reducible intro _)
    | with_reducible apply kept_foldl
    | with_reducible apply State.setPc_kept
    | with_reducible apply keptOut_next
    | with_reducible exact keptOut_fault
    | with_reducible exact keep_rfl
    | exact fun _ => by decide
    | exact by decide
    | split

theorem State.moveAreas_kept {s : State} {p : Nat} {lost : Bool} (h0 : Kept aim s) : Kept aim (State.moveAreas s p lost) := by
  unfold State.moveAreas
  dsimp only
  repeat' first
    | with_reducible assumption
    | (with_reducible intro _)
    | with_reducible apply kept_foldl
    | with_reducible apply State.moveArea_kept
    | with_reducible apply State.zeroPairs_kept
    | with_reducible apply State.setPc_kept
    | with_reducible exact keep_rfl
    | split

theorem State.loseSegs_kept {s : State} {p : Nat} (h0 : Kept aim s) : Kept aim (State.loseSegs s p) := by
  unfold State.loseSegs
  try dsimp only
  repeat' first
    | with_reducible assumption
    | (with_reducible intro _)
    | with_reducible apply kept_foldl
    | with_reducible apply State.segLost_kept
    | with_reducible apply State.refreshTm_kept
    | with_reducible apply keptOut_next
    | with_reducible exact keptOut_fault
    | (simp only [kept_mk]; with_reducible refine keptMk_of ?_ ?_ ?_ ?_ ?_)
    | with_reducible exact keep_rfl

theorem State.retireLimit_kept {s : State} (h0 : Kept aim s) : Kept aim (State.retireLimit s) := by
  unfold State.retireLimit
  dsimp only
  repeat' first
    | with_reducible assumption
    | with_reducible apply State.raise_kept
    | with_reducible apply State.setCond_kept
    | with_reducible apply State.clearCond_kept
    | (simp only [kept_mk]; with_reducible refine keptMk_of ?_ ?_ ?_ ?_ ?_)
    | with_reducible exact keep_rfl
    | split

theorem State.retirePc_kept {s : State} {p cause : Nat} {lost : Bool} (h0 : Kept aim s) :
    Kept aim (State.retirePc s p cause lost) := by
  unfold State.retirePc
  dsimp only
  repeat' first
    | with_reducible assumption
    | (with_reducible intro _)
    | with_reducible apply State.setPc_kept
    | with_reducible apply State.loseSegs_kept
    | with_reducible apply State.moveAreas_kept
    | with_reducible apply State.record_kept
    | with_reducible apply State.raise_kept
    | with_reducible apply State.retireLimit_kept
    | (simp only [kept_mk]; with_reducible refine keptMk_of ?_ ?_ ?_ ?_ ?_)
    | with_reducible exact keep_rfl
    | split

theorem State.startEvac_kept {s : State} {c : Nat} {pcs : List Nat} (h0 : Kept aim s) : Kept aim (State.startEvac s c pcs) := by
  unfold State.startEvac
  dsimp only
  repeat' first
    | with_reducible assumption
    | (with_reducible intro _)
    | with_reducible apply kept_foldl
    | with_reducible apply State.setPc_kept
    | with_reducible apply State.setHbmChan_kept
    | with_reducible exact keep_rfl
    | split

theorem State.nextRetrain_kept {s : State} (h0 : Kept aim s) : Kept aim (State.nextRetrain s) := by
  unfold State.nextRetrain
  repeat' first
    | with_reducible assumption
    | (with_reducible intro _)
    | with_reducible apply State.setHbmChan_kept
    | with_reducible apply State.startEvac_kept
    | with_reducible exact keep_rfl
    | split

theorem State.askRetrain_kept {s : State} {c : Nat} (h0 : Kept aim s) : Kept aim (State.askRetrain s c) := by
  unfold State.askRetrain
  repeat' first
    | with_reducible assumption
    | with_reducible apply State.setHbmChan_kept
    | with_reducible apply State.nextRetrain_kept

theorem State.unplanned_kept {s : State} {c : Nat} (h0 : Kept aim s) : Kept aim (State.unplanned s c) := by
  unfold State.unplanned
  dsimp only
  repeat' first
    | with_reducible assumption
    | (with_reducible intro _)
    | with_reducible apply kept_foldl
    | with_reducible apply State.setPc_kept
    | with_reducible apply State.setHbmChan_kept
    | with_reducible exact keep_rfl
    | split

theorem State.relocate_kept {s : State} {seg q : Nat} (h0 : Kept aim s) :
    ∀ t, State.relocate s seg q = some t → Kept aim t := by
  intro t e
  unfold State.relocate at e
  split at e
  · split at e
    · cases e
    · rename_i w
      cases e
      apply State.bump_kept
      apply State.chainSeg_kept
      exact kept_core (State.grantSeg_kept h0 _ w) rfl fun _ b => b
  · cases e
    exact h0
theorem State.relocate_kept_eq {s a1 : State} {seg q : Nat} (h0 : Kept aim s) (e : State.relocate s seg q = some a1) :
    Kept aim a1 :=
  State.relocate_kept h0 _ e

theorem State.evacuated_kept {s : State} {c : Nat} (h0 : Kept aim s) : Kept aim (State.evacuated s c) := by
  unfold State.evacuated
  dsimp only
  repeat' first
    | with_reducible assumption
    | (with_reducible intro _)
    | with_reducible apply kept_foldl
    | with_reducible apply State.moveAreas_kept
    | with_reducible apply State.retirePc_kept
    | with_reducible apply State.finishKind_kept
    | with_reducible apply State.setPc_kept
    | with_reducible apply State.setHbmChan_kept
    | with_reducible apply State.nextRetrain_kept
    | with_reducible exact keep_rfl
    | split

theorem State.relocateAll_kept {s : State} {l : List (Nat × Nat)} (h0 : Kept aim s) :
    ∀ t, State.relocateAll s l = some t → Kept aim t := by
  unfold State.relocateAll
  have : ∀ (l : List (Nat × Nat)) (o : Option State), (∀ t, o = some t → Kept aim t) → ∀ t,
      l.foldl (fun (a : Option State) e => a.bind (fun b => b.relocate e.1 e.2)) o = some t → Kept aim t := by
    intro l
    induction l with
    | nil => exact fun o h => h
    | cons x r ih =>
      intro o h
      refine ih _ fun t e => ?_
      obtain ⟨b, hb, hr⟩ := Option.bind_eq_some_iff.mp e
      exact State.relocate_kept (h b hb) t hr
  exact this l _ fun t e => by cases e; exact h0
theorem State.relocateAll_kept_eq {s a1 : State} {l : List (Nat × Nat)}
    (h0 : Kept aim s) (e : State.relocateAll s l = some a1) :
    Kept aim a1 := State.relocateAll_kept h0 _ e

theorem execEvacuationComplete_kept {channel : Nat} {s : State} (h0 : Kept aim s) :
    KeptOut aim (execEvacuationComplete channel s) := by
  unfold execEvacuationComplete
  try dsimp only
  repeat' first
    | with_reducible assumption
    | (with_reducible intro _)
    | with_reducible apply kept_foldl
    | with_reducible apply Offer.next_kept
    | (with_reducible refine State.relocateAll_kept_eq ?_ (by assumption))
    | with_reducible apply done_kept
    | with_reducible apply State.evacuated_kept
    | with_reducible apply keptOut_next
    | with_reducible exact keptOut_fault
    | with_reducible exact keep_rfl
    | exact fun _ => by decide
    | exact by decide
    | split

theorem execEvacuationTimeout_kept {channel : Nat} {s : State} (h0 : Kept aim s) :
    KeptOut aim (execEvacuationTimeout channel s) := by
  unfold execEvacuationTimeout
  try dsimp only
  repeat' first
    | with_reducible assumption
    | (with_reducible intro _)
    | with_reducible apply kept_foldl
    | with_reducible apply Offer.next_kept
    | with_reducible apply State.setPc_kept
    | with_reducible apply State.setHbmChan_kept
    | with_reducible apply State.raise_kept
    | with_reducible apply done_kept
    | with_reducible apply State.finishKind_kept
    | with_reducible apply State.nextRetrain_kept
    | with_reducible apply keptOut_next
    | with_reducible exact keptOut_fault
    | with_reducible exact keep_rfl
    | exact fun _ => by decide
    | exact by decide
    | split

theorem execEvacuationSlotRelease_kept {segment : Nat} {s : State} (h0 : Kept aim s) :
    KeptOut aim (execEvacuationSlotRelease segment s) := by
  unfold execEvacuationSlotRelease
  try dsimp only
  repeat' first
    | with_reducible assumption
    | (with_reducible intro _)
    | with_reducible apply kept_foldl
    | with_reducible apply Offer.next_kept
    | with_reducible apply done_kept
    | with_reducible apply State.noteSegLow_kept
    | with_reducible apply keptOut_next
    | with_reducible exact keptOut_fault
    | (simp only [kept_mk]; with_reducible refine keptMk_of ?_ ?_ ?_ ?_ ?_)
    | with_reducible exact keep_rfl
    | exact fun _ => by decide
    | exact by decide
    | split

theorem State.askRetire_kept {s : State} {p cause : Nat} (h0 : Kept aim s) : Kept aim (State.askRetire s p cause) := by
  unfold State.askRetire
  dsimp only
  repeat' first
    | with_reducible assumption
    | with_reducible apply State.setHbmChan_kept
    | with_reducible apply State.startEvac_kept
    | with_reducible exact keep_rfl
    | split

theorem execHbmTracking_kept {channel : Nat} {marginLost : Bool} {s : State} (h0 : Kept aim s) :
    KeptOut aim (execHbmTracking channel marginLost s) := by
  unfold execHbmTracking
  repeat' first
    | with_reducible assumption
    | with_reducible apply Offer.next_kept
    | with_reducible apply done_kept
    | with_reducible apply State.unplanned_kept
    | with_reducible apply keptOut_next
    | with_reducible exact keptOut_fault
    | split

theorem execPlannedRetrainTrigger_kept {channel : Nat} {s : State} (h0 : Kept aim s) :
    KeptOut aim (execPlannedRetrainTrigger channel s) := by
  unfold execPlannedRetrainTrigger
  repeat' first
    | with_reducible assumption
    | with_reducible apply done_kept
    | with_reducible apply State.askRetrain_kept
    | with_reducible apply Offer.next_kept
    | with_reducible apply keptOut_next
    | with_reducible exact keptOut_fault
    | split

theorem execChannelTrainingEnd_kept {channel : Nat} {ok0 ok1 : Bool} {s : State} (h0 : Kept aim s) :
    KeptOut aim (execChannelTrainingEnd channel ok0 ok1 s) := by
  unfold execChannelTrainingEnd
  try dsimp only
  repeat' first
    | with_reducible assumption
    | (with_reducible intro _)
    | with_reducible apply kept_foldl
    | with_reducible apply Offer.next_kept
    | with_reducible apply State.setHbmChan_kept
    | with_reducible apply State.retirePc_kept
    | with_reducible apply State.finishKind_kept
    | with_reducible apply State.setPc_kept
    | with_reducible apply State.bump_kept
    | with_reducible apply State.raise_kept
    | with_reducible apply done_kept
    | with_reducible apply State.nextRetrain_kept
    | with_reducible apply keptOut_next
    | with_reducible exact keptOut_fault
    | with_reducible exact keep_rfl
    | exact fun _ => by decide
    | exact by decide
    | split

theorem execStackTemperatureReport_kept {stack tempC : Nat} {s : State} (h0 : Kept aim s) :
    KeptOut aim (execStackTemperatureReport stack tempC s) := by
  unfold execStackTemperatureReport
  try dsimp only
  repeat' first
    | with_reducible assumption
    | (with_reducible intro _)
    | with_reducible apply kept_foldl
    | with_reducible apply Offer.next_kept
    | with_reducible apply State.setStack_kept
    | with_reducible apply State.raise_kept
    | with_reducible apply done_kept
    | with_reducible apply State.askRetrain_kept
    | with_reducible apply keptOut_next
    | with_reducible exact keptOut_fault
    | with_reducible exact keep_rfl
    | exact fun _ => by decide
    | exact by decide
    | split

theorem execHbmParityError_kept {channel from_ : Nat} {s : State} (h0 : Kept aim s) :
    KeptOut aim (execHbmParityError channel from_ s) := by
  unfold execHbmParityError
  try dsimp only
  repeat' first
    | with_reducible assumption
    | (with_reducible intro _)
    | with_reducible apply kept_foldl
    | with_reducible apply Offer.next_kept
    | with_reducible apply State.bump_kept
    | with_reducible apply done_kept
    | with_reducible apply State.unplanned_kept
    | with_reducible apply State.setHbmChan_kept
    | with_reducible apply keptOut_next
    | with_reducible exact keptOut_fault
    | with_reducible exact keep_rfl
    | exact fun _ => by decide
    | exact by decide
    | split

theorem execReplayReissue_kept {channel : Nat} {s : State} (h0 : Kept aim s) : KeptOut aim (execReplayReissue channel s) := by
  unfold execReplayReissue
  try dsimp only
  repeat' first
    | with_reducible assumption
    | (with_reducible intro _)
    | with_reducible apply kept_foldl
    | with_reducible apply Offer.next_kept
    | with_reducible apply done_kept
    | with_reducible apply State.setHbmChan_kept
    | with_reducible apply keptOut_next
    | with_reducible exact keptOut_fault
    | with_reducible exact keep_rfl
    | exact fun _ => by decide
    | exact by decide
    | split

theorem State.rowError_kept {s : State} {p b row : Nat} {correctable repairable : Bool} (h0 : Kept aim s) :
    Kept aim (State.rowError s p b row correctable repairable) := by
  unfold State.rowError
  dsimp only
  repeat' first
    | with_reducible assumption
    | (with_reducible intro _)
    | with_reducible apply State.setBank_kept
    | with_reducible exact keep_rfl
    | split

theorem execHbmReadError_kept {pc bank row : Nat} {correctable repairable : Bool} {use : HbmUse} {s : State}
    (h0 : Kept aim s) : KeptOut aim (execHbmReadError pc bank row correctable repairable use s) := by
  unfold execHbmReadError
  try dsimp only
  repeat' first
    | with_reducible assumption
    | (with_reducible intro _)
    | with_reducible apply kept_foldl
    | with_reducible apply Offer.next_kept
    | with_reducible apply State.bump_kept
    | with_reducible apply State.segLost_kept
    | with_reducible apply State.refreshTm_kept
    | with_reducible apply State.zeroPairs_kept
    | with_reducible apply done_kept
    | with_reducible apply State.rowError_kept
    | with_reducible apply keptOut_next
    | with_reducible exact keptOut_fault
    | with_reducible exact keep_rfl
    | exact fun _ => by decide
    | exact by decide
    | split

theorem execCounterScrub_kept {access : Nat} {correctable : Option Bool} {repairable : Bool} {s : State}
    (h0 : Kept aim s) : KeptOut aim (execCounterScrub access correctable repairable s) := by
  unfold execCounterScrub
  repeat' first
    | with_reducible assumption
    | (with_reducible intro _)
    | with_reducible apply State.access_kept
    | with_reducible apply Offer.next_kept
    | with_reducible apply State.bump_kept
    | with_reducible apply State.zeroPairs_kept
    | with_reducible apply done_kept
    | with_reducible apply State.rowError_kept
    | with_reducible apply keptOut_next
    | with_reducible exact keptOut_fault
    | with_reducible exact keep_rfl
    | split
    | dsimp only

theorem execRowRepairDone_kept {pc bank : Nat} {s : State} (h0 : Kept aim s) : KeptOut aim (execRowRepairDone pc bank s) := by
  unfold execRowRepairDone
  try dsimp only
  repeat' first
    | with_reducible assumption
    | (with_reducible intro _)
    | with_reducible apply kept_foldl
    | with_reducible apply Offer.next_kept
    | with_reducible apply State.setBank_kept
    | with_reducible apply done_kept
    | with_reducible apply State.bump_kept
    | with_reducible apply State.record_kept
    | with_reducible apply State.raise_kept
    | with_reducible apply State.setPc_kept
    | with_reducible apply State.askRetire_kept
    | with_reducible apply keptOut_next
    | with_reducible exact keptOut_fault
    | with_reducible exact keep_rfl
    | exact fun _ => by decide
    | exact by decide
    | split

theorem cmdHbmConfig_kept {c : Cmd} {s : State} (h0 : Kept aim s) : Kept aim (cmdHbmConfig c s).st := by
  unfold cmdHbmConfig
  repeat' first
    | with_reducible assumption
    | (with_reducible intro _)
    | with_reducible apply gate_kept
    | with_reducible apply Res.err_kept
    | (simp only [kept_mk]; with_reducible refine keptMk_of ?_ ?_ ?_ ?_ ?_)
    | with_reducible exact keep_rfl
    | split
    | dsimp only

theorem execHbmConfig_kept {c : Cmd} {s : State} (h0 : Kept aim s) : KeptOut aim (execHbmConfig c s) := by
  unfold execHbmConfig
  repeat' first
    | with_reducible assumption
    | with_reducible apply serve_kept
    | with_reducible apply cmdHbmConfig_kept

theorem cmdHbmStatusGet_kept {c : Cmd} {s : State} (h0 : Kept aim s) : Kept aim (cmdHbmStatusGet c s).st := by
  unfold cmdHbmStatusGet
  repeat' first
    | with_reducible assumption
    | (with_reducible intro _)
    | with_reducible apply gate_kept
    | with_reducible apply Res.err_kept
    | split
    | dsimp only

theorem execHbmStatusGet_kept {c : Cmd} {s : State} (h0 : Kept aim s) : KeptOut aim (execHbmStatusGet c s) := by
  unfold execHbmStatusGet
  repeat' first
    | with_reducible assumption
    | with_reducible apply serve_kept
    | with_reducible apply cmdHbmStatusGet_kept

theorem cmdHbmRetrain_kept {c : Cmd} {s : State} (h0 : Kept aim s) : Kept aim (cmdHbmRetrain c s).st := by
  unfold cmdHbmRetrain
  repeat' first
    | with_reducible assumption
    | (with_reducible intro _)
    | with_reducible apply gate_kept
    | with_reducible apply Res.err_kept
    | with_reducible apply State.askRetrain_kept
    | split
    | dsimp only

theorem execHbmRetrain_kept {c : Cmd} {s : State} (h0 : Kept aim s) : KeptOut aim (execHbmRetrain c s) := by
  unfold execHbmRetrain
  repeat' first
    | with_reducible assumption
    | with_reducible apply serve_kept
    | with_reducible apply cmdHbmRetrain_kept

theorem cmdHbmPcRetire_kept {c : Cmd} {s : State} (h0 : Kept aim s) : Kept aim (cmdHbmPcRetire c s).st := by
  unfold cmdHbmPcRetire
  repeat' first
    | with_reducible assumption
    | (with_reducible intro _)
    | with_reducible apply gate_kept
    | with_reducible apply Res.err_kept
    | with_reducible apply State.askRetire_kept
    | split
    | dsimp only

theorem execHbmPcRetire_kept {c : Cmd} {s : State} (h0 : Kept aim s) : KeptOut aim (execHbmPcRetire c s) := by
  unfold execHbmPcRetire
  repeat' first
    | with_reducible assumption
    | with_reducible apply serve_kept
    | with_reducible apply cmdHbmPcRetire_kept

theorem cmdHbmPcRestore_kept {c : Cmd} {s : State} (h0 : Kept aim s) : Kept aim (cmdHbmPcRestore c s).st := by
  unfold cmdHbmPcRestore
  repeat' first
    | with_reducible assumption
    | (with_reducible intro _)
    | with_reducible apply gate_kept
    | with_reducible apply Res.err_kept
    | with_reducible apply State.setPc_kept
    | with_reducible apply State.retireLimit_kept
    | (simp only [kept_mk]; with_reducible refine keptMk_of ?_ ?_ ?_ ?_ ?_)
    | with_reducible exact keep_rfl
    | split
    | dsimp only

theorem execHbmPcRestore_kept {c : Cmd} {s : State} (h0 : Kept aim s) : KeptOut aim (execHbmPcRestore c s) := by
  unfold execHbmPcRestore
  repeat' first
    | with_reducible assumption
    | with_reducible apply serve_kept
    | with_reducible apply cmdHbmPcRestore_kept

theorem cmdHbmCountersGet_kept {c : Cmd} {s : State} (h0 : Kept aim s) : Kept aim (cmdHbmCountersGet c s).st := by
  unfold cmdHbmCountersGet
  repeat' first
    | with_reducible assumption
    | (with_reducible intro _)
    | with_reducible apply gate_kept

theorem execHbmCountersGet_kept {c : Cmd} {s : State} (h0 : Kept aim s) : KeptOut aim (execHbmCountersGet c s) := by
  unfold execHbmCountersGet
  repeat' first
    | with_reducible assumption
    | with_reducible apply serve_kept
    | with_reducible apply cmdHbmCountersGet_kept

end Sys2Proof.Machine
end

