-- ==== Sys2Proof/Laws/KeptTime.lean ====
section
/-! SUPPORT. What Machine/Time.lean leaves: the queue and the invariant (see Laws/Kept.lean). -/
namespace Sys2Proof.Machine
open Sys2Proof
variable {aim : Aim}

theorem State.advance_kept {s : State} (h0 : Kept aim s) : Kept aim (State.advance s) := h0

theorem State.flashPin_kept {s : State} (h0 : Kept aim s) : Kept aim (State.flashPin s) := by
  unfold State.flashPin
  try dsimp only
  repeat' first
    | with_reducible assumption
    | (with_reducible intro _)
    | with_reducible apply kept_foldl
    | with_reducible apply keptOut_next
    | with_reducible exact keptOut_fault
    | (simp only [kept_mk]; with_reducible refine keptMk_of ?_ ?_ ?_ ?_ ?_)
    | with_reducible exact keep_rfl
    | exact fun _ => by decide
    | exact by decide
    | split

theorem State.tickTime_kept {s : State} (h0 : Kept aim s) : Kept aim (State.tickTime s) := by
  unfold State.tickTime
  try dsimp only
  repeat' first
    | with_reducible assumption
    | (with_reducible intro _)
    | with_reducible apply kept_foldl
    | with_reducible apply State.advance_kept
    | with_reducible apply State.rollWindows_kept
    | with_reducible apply State.flashPin_kept

theorem State.writeInc_kept {s : State} {v : BitVec 40} (h0 : Kept aim s) : Kept aim (State.writeInc s v) := by
  unfold State.writeInc
  try dsimp only
  repeat' first
    | with_reducible assumption
    | (with_reducible intro _)
    | with_reducible apply kept_foldl
    | with_reducible apply State.tickTime_kept
    | with_reducible apply State.bump_kept
    | with_reducible apply State.raise_kept
    | with_reducible apply keptOut_next
    | with_reducible exact keptOut_fault
    | (simp only [kept_mk]; with_reducible refine keptMk_of ?_ ?_ ?_ ?_ ?_)
    | with_reducible exact keep_rfl
    | exact fun _ => by decide
    | exact by decide
    | split

theorem State.ppsRises_kept {s : State} {k : Nat} (h0 : Kept aim s) : Kept aim (State.ppsRises s k) := h0

theorem State.afterStep_kept {s s0 : State} {off : Int} (h0 : Kept aim s) (h1 : Kept aim s0) :
    Kept aim (State.afterStep s s0 off) := by
  unfold State.afterStep
  dsimp only
  repeat' first
    | with_reducible assumption
    | with_reducible apply State.delayRetire_kept
    | with_reducible apply State.ppsRises_kept
    | with_reducible apply State.bump_kept
    | split

theorem State.applyStep_kept {s : State} {off : Int} (h0 : Kept aim s) : Kept aim (State.applyStep s off) := by
  unfold State.applyStep
  try dsimp only
  repeat' first
    | with_reducible assumption
    | (with_reducible intro _)
    | with_reducible apply kept_foldl
    | with_reducible apply State.rollWindows_kept
    | with_reducible apply State.afterStep_kept
    | with_reducible apply State.bump_kept
    | with_reducible apply keptOut_next
    | with_reducible exact keptOut_fault
    | (simp only [kept_mk]; with_reducible refine keptMk_of ?_ ?_ ?_ ?_ ?_)
    | with_reducible exact keep_rfl

theorem State.refuseStep_kept {s : State} {off : Int} (h0 : Kept aim s) : Kept aim (State.refuseStep s off) := by
  unfold State.refuseStep
  repeat' first
    | with_reducible assumption
    | with_reducible apply State.bump_kept
    | with_reducible apply State.raise_kept

theorem cmdTimeGet_kept {c : Cmd} {s : State} (h0 : Kept aim s) : Kept aim (cmdTimeGet c s).st := by
  unfold cmdTimeGet
  repeat' first
    | with_reducible assumption
    | (with_reducible intro _)
    | with_reducible apply gate_kept

theorem execTimeGet_kept {c : Cmd} {s : State} (h0 : Kept aim s) : KeptOut aim (execTimeGet c s) := by
  unfold execTimeGet
  repeat' first
    | with_reducible assumption
    | with_reducible apply serve_kept
    | with_reducible apply cmdTimeGet_kept

theorem cmdTimeIncrementSet_kept {c : Cmd} {s : State} (h0 : Kept aim s) : Kept aim (cmdTimeIncrementSet c s).st := by
  unfold cmdTimeIncrementSet
  repeat' first
    | with_reducible assumption
    | (with_reducible intro _)
    | with_reducible apply gate_kept
    | with_reducible apply Res.err_kept
    | with_reducible apply State.writeInc_kept
    | split
    | dsimp only

theorem execTimeIncrementSet_kept {c : Cmd} {s : State} (h0 : Kept aim s) : KeptOut aim (execTimeIncrementSet c s) := by
  unfold execTimeIncrementSet
  repeat' first
    | with_reducible assumption
    | with_reducible apply serve_kept
    | with_reducible apply cmdTimeIncrementSet_kept

theorem cmdTimeStep_kept {c : Cmd} {s : State} (h0 : Kept aim s) : Kept aim (cmdTimeStep c s).st := by
  unfold cmdTimeStep
  repeat' first
    | with_reducible assumption
    | (with_reducible intro _)
    | with_reducible apply gate_kept
    | with_reducible apply State.refuseStep_kept
    | with_reducible apply Res.err_kept
    | with_reducible apply State.advance_kept
    | with_reducible apply State.applyStep_kept
    | (simp only [kept_mk]; with_reducible refine keptMk_of ?_ ?_ ?_ ?_ ?_)
    | with_reducible exact keep_rfl
    | split
    | dsimp only

theorem execTimeStep_kept {c : Cmd} {s : State} (h0 : Kept aim s) : KeptOut aim (execTimeStep c s) := by
  unfold execTimeStep
  repeat' first
    | with_reducible assumption
    | with_reducible apply serve_kept
    | with_reducible apply cmdTimeStep_kept

theorem execTimedStepDue_kept {s : State} (h0 : Kept aim s) : KeptOut aim (execTimedStepDue s) := by
  unfold execTimedStepDue
  try dsimp only
  repeat' first
    | with_reducible assumption
    | (with_reducible intro _)
    | with_reducible apply kept_foldl
    | with_reducible apply Offer.next_kept
    | with_reducible apply done_kept
    | with_reducible apply State.applyStep_kept
    | with_reducible apply State.refuseStep_kept
    | with_reducible apply keptOut_next
    | with_reducible exact keptOut_fault
    | (simp only [kept_mk]; with_reducible refine keptMk_of ?_ ?_ ?_ ?_ ?_)
    | with_reducible exact keep_rfl
    | exact fun _ => by decide
    | exact by decide
    | split

theorem cmdTimeSet_kept {c : Cmd} {s : State} (h0 : Kept aim s) : Kept aim (cmdTimeSet c s).st := by
  unfold cmdTimeSet
  try dsimp only
  repeat' first
    | with_reducible assumption
    | (with_reducible intro _)
    | with_reducible apply kept_foldl
    | with_reducible apply gate_kept
    | with_reducible apply State.refuseStep_kept
    | with_reducible apply State.rollWindows_kept
    | with_reducible apply State.afterStep_kept
    | with_reducible apply keptOut_next
    | with_reducible exact keptOut_fault
    | (simp only [kept_mk]; with_reducible refine keptMk_of ?_ ?_ ?_ ?_ ?_)
    | with_reducible exact keep_rfl
    | exact fun _ => by decide
    | exact by decide
    | split

theorem execTimeSet_kept {c : Cmd} {s : State} (h0 : Kept aim s) : KeptOut aim (execTimeSet c s) := by
  unfold execTimeSet
  repeat' first
    | with_reducible assumption
    | with_reducible apply serve_kept
    | with_reducible apply cmdTimeSet_kept

theorem cmdTimeConfig_kept {c : Cmd} {s : State} (h0 : Kept aim s) : Kept aim (cmdTimeConfig c s).st := by
  unfold cmdTimeConfig
  repeat' first
    | with_reducible assumption
    | (with_reducible intro _)
    | with_reducible apply gate_kept
    | with_reducible apply Res.err_kept
    | (simp only [kept_mk]; with_reducible refine keptMk_of ?_ ?_ ?_ ?_ ?_)
    | with_reducible exact keep_rfl
    | split
    | dsimp only

theorem execTimeConfig_kept {c : Cmd} {s : State} (h0 : Kept aim s) : KeptOut aim (execTimeConfig c s) := by
  unfold execTimeConfig
  repeat' first
    | with_reducible assumption
    | with_reducible apply serve_kept
    | with_reducible apply cmdTimeConfig_kept

theorem cmdTsPortSet_kept {c : Cmd} {s : State} (h0 : Kept aim s) : Kept aim (cmdTsPortSet c s).st := by
  unfold cmdTsPortSet
  repeat' first
    | with_reducible assumption
    | (with_reducible intro _)
    | with_reducible apply gate_kept
    | with_reducible apply Res.err_kept
    | with_reducible apply State.updPrt_kept
    | with_reducible exact keep_rfl
    | split
    | dsimp only

theorem execTsPortSet_kept {c : Cmd} {s : State} (h0 : Kept aim s) : KeptOut aim (execTsPortSet c s) := by
  unfold execTsPortSet
  repeat' first
    | with_reducible assumption
    | with_reducible apply serve_kept
    | with_reducible apply cmdTsPortSet_kept

theorem cmdPpsConfig_kept {c : Cmd} {s : State} (h0 : Kept aim s) : Kept aim (cmdPpsConfig c s).st := by
  unfold cmdPpsConfig
  repeat' first
    | with_reducible assumption
    | (with_reducible intro _)
    | with_reducible apply gate_kept
    | with_reducible apply Res.err_kept
    | (simp only [kept_mk]; with_reducible refine keptMk_of ?_ ?_ ?_ ?_ ?_)
    | with_reducible exact keep_rfl
    | split
    | dsimp only

theorem execPpsConfig_kept {c : Cmd} {s : State} (h0 : Kept aim s) : KeptOut aim (execPpsConfig c s) := by
  unfold execPpsConfig
  repeat' first
    | with_reducible assumption
    | with_reducible apply serve_kept
    | with_reducible apply cmdPpsConfig_kept

theorem cmdTimeCountersGet_kept {c : Cmd} {s : State} (h0 : Kept aim s) : Kept aim (cmdTimeCountersGet c s).st := by
  unfold cmdTimeCountersGet
  repeat' first
    | with_reducible assumption
    | (with_reducible intro _)
    | with_reducible apply gate_kept

theorem execTimeCountersGet_kept {c : Cmd} {s : State} (h0 : Kept aim s) : KeptOut aim (execTimeCountersGet c s) := by
  unfold execTimeCountersGet
  repeat' first
    | with_reducible assumption
    | with_reducible apply serve_kept
    | with_reducible apply cmdTimeCountersGet_kept

theorem execHoldoverTimeout_kept {s : State} (h0 : Kept aim s) : KeptOut aim (execHoldoverTimeout s) := by
  unfold execHoldoverTimeout
  try dsimp only
  repeat' first
    | with_reducible assumption
    | (with_reducible intro _)
    | with_reducible apply kept_foldl
    | with_reducible apply Offer.next_kept
    | with_reducible apply done_kept
    | with_reducible apply State.bump_kept
    | with_reducible apply State.raise_kept
    | with_reducible apply keptOut_next
    | with_reducible exact keptOut_fault
    | (simp only [kept_mk]; with_reducible refine keptMk_of ?_ ?_ ?_ ?_ ?_)
    | with_reducible exact keep_rfl
    | exact fun _ => by decide
    | exact by decide
    | split

theorem execPpsOutTarget_kept {s : State} (h0 : Kept aim s) : KeptOut aim (execPpsOutTarget s) := by
  unfold execPpsOutTarget
  repeat' first
    | with_reducible assumption
    | with_reducible apply done_kept
    | with_reducible apply State.ppsRises_kept
    | with_reducible apply Offer.next_kept
    | with_reducible apply keptOut_next
    | split

theorem execPpsOutWidthEnd_kept {s : State} (h0 : Kept aim s) : KeptOut aim (execPpsOutWidthEnd s) := by
  unfold execPpsOutWidthEnd
  repeat' first
    | with_reducible assumption
    | with_reducible apply done_kept
    | with_reducible apply Offer.next_kept
    | with_reducible apply keptOut_next
    | (simp only [kept_mk]; with_reducible refine keptMk_of ?_ ?_ ?_ ?_ ?_)
    | with_reducible exact keep_rfl
    | split

theorem execPpsInEdge_kept {s : State} (h0 : Kept aim s) : KeptOut aim (execPpsInEdge s) := by
  unfold execPpsInEdge
  repeat' first
    | with_reducible assumption
    | (with_reducible intro _)
    | with_reducible apply Offer.next_kept
    | with_reducible apply State.bump_kept
    | with_reducible apply State.raiseLim_kept
    | with_reducible apply done_kept
    | with_reducible apply State.raise_kept
    | with_reducible apply keptOut_next
    | (simp only [kept_mk]; with_reducible refine keptMk_of ?_ ?_ ?_ ?_ ?_)
    | with_reducible exact keep_rfl
    | split

theorem execPpsInLost_kept {s : State} (h0 : Kept aim s) : KeptOut aim (execPpsInLost s) := by
  unfold execPpsInLost
  try dsimp only
  repeat' first
    | with_reducible assumption
    | (with_reducible intro _)
    | with_reducible apply kept_foldl
    | with_reducible apply Offer.next_kept
    | with_reducible apply done_kept
    | with_reducible apply State.raise_kept
    | with_reducible apply keptOut_next
    | with_reducible exact keptOut_fault
    | (simp only [kept_mk]; with_reducible refine keptMk_of ?_ ?_ ?_ ?_ ?_)
    | with_reducible exact keep_rfl
    | exact fun _ => by decide
    | exact by decide
    | split

end Sys2Proof.Machine
end

