-- ==== Sys2Proof/Laws/KeptModes.lean ====
section
/-! SUPPORT. What Machine/Modes.lean leaves: the queue and the invariant (see Laws/Kept.lean). -/
namespace Sys2Proof.Machine
open Sys2Proof
variable {aim : Aim}

theorem cmdModeSet_kept {c : Cmd} {s : State} (h0 : Kept aim s) : Kept aim (cmdModeSet c s).st := by
  unfold cmdModeSet
  refine gate_kept ?_ h0
  intro c z hz
  dsimp only
  split
  · split
    · exact hz
    · exact State.quarantine_kept hz
  · split
    · exact hz
    · rename_i hr
      have hm : byteAt c.payload 0 ≤ 11 := by
        simp [inRange] at hr
        have h8 : mdMaintenance = 8 := rfl
        omega
      split
      · exact hz
      · split
        · exact hz
        · split
          · exact hz
          · exact State.requestMode_kept (fun _ => hm) hz

theorem execModeSet_kept {c : Cmd} {s : State} (h0 : Kept aim s) : KeptOut aim (execModeSet c s) := by
  unfold execModeSet
  repeat' first
    | with_reducible assumption
    | with_reducible apply serve_kept
    | with_reducible apply cmdModeSet_kept

theorem cmdModeStatusGet_kept {c : Cmd} {s : State} (h0 : Kept aim s) : Kept aim (cmdModeStatusGet c s).st := by
  unfold cmdModeStatusGet
  repeat' first
    | with_reducible assumption
    | (with_reducible intro _)
    | with_reducible apply gate_kept

theorem execModeStatusGet_kept {c : Cmd} {s : State} (h0 : Kept aim s) : KeptOut aim (execModeStatusGet c s) := by
  unfold execModeStatusGet
  repeat' first
    | with_reducible assumption
    | with_reducible apply serve_kept
    | with_reducible apply cmdModeStatusGet_kept

theorem cmdRepairStatusGet_kept {c : Cmd} {s : State} (h0 : Kept aim s) : Kept aim (cmdRepairStatusGet c s).st := by
  unfold cmdRepairStatusGet
  repeat' first
    | with_reducible assumption
    | (with_reducible intro _)
    | with_reducible apply gate_kept

theorem execRepairStatusGet_kept {c : Cmd} {s : State} (h0 : Kept aim s) : KeptOut aim (execRepairStatusGet c s) := by
  unfold execRepairStatusGet
  repeat' first
    | with_reducible assumption
    | with_reducible apply serve_kept
    | with_reducible apply cmdRepairStatusGet_kept

theorem cmdRepairMapRead_kept {c : Cmd} {s : State} (h0 : Kept aim s) : Kept aim (cmdRepairMapRead c s).st := by
  unfold cmdRepairMapRead
  repeat' first
    | with_reducible assumption
    | (with_reducible intro _)
    | with_reducible apply gate_kept
    | with_reducible apply Res.err_kept
    | split
    | dsimp only

theorem execRepairMapRead_kept {c : Cmd} {s : State} (h0 : Kept aim s) : KeptOut aim (execRepairMapRead c s) := by
  unfold execRepairMapRead
  repeat' first
    | with_reducible assumption
    | with_reducible apply serve_kept
    | with_reducible apply cmdRepairMapRead_kept

theorem cmdDeviceReset_kept {c : Cmd} {s : State} (h0 : Kept aim s) : Kept aim (cmdDeviceReset c s).st := by
  unfold cmdDeviceReset
  repeat' first
    | with_reducible assumption
    | (with_reducible intro _)
    | with_reducible apply gate_kept
    | (simp only [kept_mk]; with_reducible refine keptMk_of ?_ ?_ ?_ ?_ ?_)
    | with_reducible exact keep_rfl
    | split

theorem execDeviceReset_kept {c : Cmd} {s : State} (h0 : Kept aim s) : KeptOut aim (execDeviceReset c s) := by
  unfold execDeviceReset
  repeat' first
    | with_reducible assumption
    | with_reducible apply serve_kept
    | with_reducible apply cmdDeviceReset_kept

theorem execResetDelayExpiry_kept {s : State} (h0 : Kept aim s) : KeptOut aim (execResetDelayExpiry s) := by
  unfold execResetDelayExpiry
  repeat' first
    | with_reducible assumption
    | with_reducible apply done_kept
    | with_reducible apply State.resetDies_kept
    | with_reducible apply Offer.next_kept
    | with_reducible apply keptOut_next
    | with_reducible exact keep_rfl
    | split

theorem cmdRepairConfig_kept {c : Cmd} {s : State} (h0 : Kept aim s) : Kept aim (cmdRepairConfig c s).st := by
  unfold cmdRepairConfig
  repeat' first
    | with_reducible assumption
    | (with_reducible intro _)
    | with_reducible apply gate_kept
    | with_reducible apply Res.err_kept
    | with_reducible apply State.noteRate_kept
    | (simp only [kept_mk]; with_reducible refine keptMk_of ?_ ?_ ?_ ?_ ?_)
    | with_reducible exact keep_rfl
    | split
    | dsimp only

theorem execRepairConfig_kept {c : Cmd} {s : State} (h0 : Kept aim s) : KeptOut aim (execRepairConfig c s) := by
  unfold execRepairConfig
  repeat' first
    | with_reducible assumption
    | with_reducible apply serve_kept
    | with_reducible apply cmdRepairConfig_kept

theorem execDegradedConditionArises_kept {bit : Nat} {s : State} (h0 : Kept aim s) :
    KeptOut aim (execDegradedConditionArises bit s) := by
  unfold execDegradedConditionArises
  repeat' first
    | with_reducible assumption
    | with_reducible apply done_kept
    | with_reducible apply State.setCond_kept
    | with_reducible apply Offer.next_kept
    | with_reducible apply keptOut_next
    | with_reducible exact keptOut_fault
    | split

theorem execDegradedConditionClears_kept {bit : Nat} {s : State} (h0 : Kept aim s) :
    KeptOut aim (execDegradedConditionClears bit s) := by
  unfold execDegradedConditionClears
  repeat' first
    | with_reducible assumption
    | with_reducible apply done_kept
    | with_reducible apply State.clearCond_kept
    | with_reducible apply Offer.next_kept
    | with_reducible apply keptOut_next
    | with_reducible exact keptOut_fault
    | split

theorem execDrainComplete_kept {s : State} (h0 : Kept aim s) : KeptOut aim (execDrainComplete s) := by
  unfold execDrainComplete
  repeat' first
    | with_reducible assumption
    | with_reducible apply done_kept
    | with_reducible apply State.raise_kept
    | with_reducible apply Offer.next_kept
    | with_reducible apply keptOut_next
    | (simp only [kept_mk]; with_reducible refine keptMk_of ?_ ?_ ?_ ?_ ?_)
    | with_reducible exact keep_rfl
    | split

theorem execSpareRowFilled_kept {macro_ : Nat} {s : State} (h0 : Kept aim s) : KeptOut aim (execSpareRowFilled macro_ s) := by
  unfold execSpareRowFilled
  try dsimp only
  repeat' first
    | with_reducible assumption
    | (with_reducible intro _)
    | with_reducible apply kept_foldl
    | with_reducible apply Offer.next_kept
    | with_reducible apply done_kept
    | with_reducible apply State.setMacro_kept
    | with_reducible apply keptOut_next
    | with_reducible exact keptOut_fault
    | with_reducible exact keep_rfl
    | exact fun _ => by decide
    | exact by decide
    | split

theorem State.commitMap_kept {s : State} {failedSector : Option Nat} (h0 : Kept aim s) :
    Kept aim (State.commitMap s failedSector) := by
  unfold State.commitMap
  dsimp only
  repeat' first
    | with_reducible assumption
    | with_reducible apply State.bump_kept
    | with_reducible apply State.raise_kept
    | (simp only [kept_mk]; with_reducible refine keptMk_of ?_ ?_ ?_ ?_ ?_)
    | with_reducible exact keep_rfl
    | split

theorem execRepairMapCommit_kept {failedSector : Option Nat} {s : State} (h0 : Kept aim s) :
    KeptOut aim (execRepairMapCommit failedSector s) := by
  unfold execRepairMapCommit
  try dsimp only
  repeat' first
    | with_reducible assumption
    | (with_reducible intro _)
    | with_reducible apply kept_foldl
    | with_reducible apply done_kept
    | with_reducible apply State.commitMap_kept
    | with_reducible apply Offer.next_kept
    | with_reducible apply keptOut_next
    | with_reducible exact keptOut_fault
    | with_reducible exact keep_rfl
    | exact fun _ => by decide
    | exact by decide
    | split

theorem execRepairMapRetry_kept {failedSector : Option Nat} {s : State} (h0 : Kept aim s) :
    KeptOut aim (execRepairMapRetry failedSector s) := by
  unfold execRepairMapRetry
  try dsimp only
  repeat' first
    | with_reducible assumption
    | (with_reducible intro _)
    | with_reducible apply kept_foldl
    | with_reducible apply done_kept
    | with_reducible apply State.commitMap_kept
    | with_reducible apply Offer.next_kept
    | with_reducible apply keptOut_next
    | with_reducible exact keptOut_fault
    | with_reducible exact keep_rfl
    | exact fun _ => by decide
    | exact by decide
    | split

theorem execFwHeartbeatTick_kept {s : State} (h0 : Kept aim s) : KeptOut aim (execFwHeartbeatTick s) := by
  unfold execFwHeartbeatTick
  try dsimp only
  repeat' first
    | with_reducible assumption
    | (with_reducible intro _)
    | with_reducible apply kept_foldl
    | with_reducible apply done_kept
    | with_reducible apply State.heartbeat_kept
    | with_reducible apply State.writeAnswers_kept
    | with_reducible apply Offer.next_kept
    | with_reducible apply keptOut_next
    | with_reducible exact keptOut_fault
    | (simp only [kept_mk]; with_reducible refine keptMk_of ?_ ?_ ?_ ?_ ?_)
    | with_reducible exact keep_rfl
    | exact fun _ => by decide
    | exact by decide
    | split

theorem execFwHaltedTimeout_kept {s : State} (h0 : Kept aim s) : KeptOut aim (execFwHaltedTimeout s) := by
  unfold execFwHaltedTimeout
  repeat' first
    | with_reducible assumption
    | with_reducible apply done_kept
    | with_reducible apply Offer.next_kept
    | with_reducible apply keptOut_next
    | (simp only [kept_mk]; with_reducible refine keptMk_of ?_ ?_ ?_ ?_ ?_)
    | with_reducible exact keep_rfl
    | split

theorem execTmDeputyClear_kept {s : State} (h0 : Kept aim s) : KeptOut aim (execTmDeputyClear s) := by
  unfold execTmDeputyClear
  repeat' first
    | with_reducible assumption
    | with_reducible apply done_kept
    | with_reducible apply Offer.next_kept
    | with_reducible apply keptOut_next
    | (simp only [kept_mk]; with_reducible refine keptMk_of ?_ ?_ ?_ ?_ ?_)
    | with_reducible exact keep_rfl
    | split

theorem execTmCoreFailure_kept {core : Nat} {s : State} (h0 : Kept aim s) : KeptOut aim (execTmCoreFailure core s) := by
  unfold execTmCoreFailure
  repeat' first
    | with_reducible assumption
    | (with_reducible intro _)
    | with_reducible apply Offer.next_kept
    | with_reducible apply done_kept
    | with_reducible apply State.bump_kept
    | with_reducible apply State.record_kept
    | with_reducible apply State.raise_kept
    | with_reducible apply State.setCond_kept
    | with_reducible apply keptOut_next
    | with_reducible exact keptOut_fault
    | (simp only [kept_mk]; with_reducible refine keptMk_of ?_ ?_ ?_ ?_ ?_)
    | with_reducible exact keep_rfl
    | split
    | dsimp only

theorem execD2dFlitError_kept {at_ : FlitError} {s : State} (h0 : Kept aim s) : KeptOut aim (execD2dFlitError at_ s) := by
  unfold execD2dFlitError
  try dsimp only
  repeat' first
    | with_reducible assumption
    | (with_reducible intro _)
    | with_reducible apply kept_foldl
    | with_reducible apply Offer.next_kept
    | with_reducible apply State.mapFlits_kept
    | with_reducible apply done_kept
    | with_reducible apply State.perfCount_kept
    | with_reducible apply keptOut_next
    | with_reducible exact keptOut_fault
    | (simp only [kept_mk]; with_reducible refine keptMk_of ?_ ?_ ?_ ?_ ?_)
    | with_reducible exact keep_rfl
    | exact fun _ => by decide
    | exact by decide
    | split

theorem execD2dLaneFault_kept {module : Nat} {toFe : Bool} {lane : Nat} {s : State} (h0 : Kept aim s) :
    KeptOut aim (execD2dLaneFault module toFe lane s) := by
  unfold execD2dLaneFault
  try dsimp only
  repeat' first
    | with_reducible assumption
    | (with_reducible intro _)
    | with_reducible apply kept_foldl
    | with_reducible apply Offer.next_kept
    | with_reducible apply done_kept
    | with_reducible apply State.record_kept
    | with_reducible apply State.perfCount_kept
    | with_reducible apply State.mapFlits_kept
    | with_reducible apply State.quarantine_kept
    | with_reducible apply State.setCond_kept
    | with_reducible apply keptOut_next
    | with_reducible exact keptOut_fault
    | (simp only [kept_mk]; with_reducible refine keptMk_of ?_ ?_ ?_ ?_ ?_)
    | with_reducible exact keep_rfl
    | exact fun _ => by decide
    | exact by decide
    | split

end Sys2Proof.Machine
end

