-- ==== Sys2Proof/Laws/KeptFirmware.lean ====
section
/-! SUPPORT. What Machine/Firmware.lean leaves: the queue and the invariant (see Laws/Kept.lean). -/
namespace Sys2Proof.Machine
open Sys2Proof
variable {aim : Aim}

theorem State.noteBad_kept {s : State} {region : Nat} {i : Image} (h0 : Kept aim s) : Kept aim (State.noteBad s region i) := by
  unfold State.noteBad
  repeat' first
    | with_reducible assumption
    | (simp only [kept_mk]; with_reducible refine keptMk_of ?_ ?_ ?_ ?_ ?_)
    | with_reducible exact keep_rfl
    | split

theorem State.romRestore_kept {s : State} {r : BootRec} {cause : Nat} (h0 : Kept aim s) :
    Kept aim (State.romRestore s r cause).1 := by
  unfold State.romRestore
  dsimp only
  repeat' first
    | with_reducible assumption
    | with_reducible apply State.noteBad_kept
    | with_reducible apply State.commitRec_kept
    | (simp only [kept_mk]; with_reducible refine keptMk_of ?_ ?_ ?_ ?_ ?_)
    | with_reducible exact keep_rfl
    | split

theorem State.romRestore_kept_eq {s : State} {r : BootRec} {cause : Nat} {a1 : State} {a2 : Bool}
    (h0 : Kept aim s) (e : State.romRestore s r cause = (a1, a2)) : Kept aim a1 := by
  have x := State.romRestore_kept (aim := aim) (s := s) (r := r) (cause := cause) h0
  rw [e] at x
  exact x

theorem State.romFail_kept {s : State} {r : BootRec} {cause : Nat} (h0 : Kept aim s) :
    Kept aim (State.romFail s r cause).1 := by
  unfold State.romFail
  repeat' first
    | with_reducible assumption
    | with_reducible apply State.romRestore_kept
    | (with_reducible refine State.romRestore_kept_eq ?_ (by assumption))
    | split

theorem State.romFail_kept_eq {s : State} {r : BootRec} {cause : Nat} {a1 : State} {a2 : Bool}
    (h0 : Kept aim s) (e : State.romFail s r cause = (a1, a2)) : Kept aim a1 := by
  have x := State.romFail_kept (aim := aim) (s := s) (r := r) (cause := cause) h0
  rw [e] at x
  exact x

theorem State.romSelect_kept {s : State} (h0 : Kept aim s) : Kept aim (State.romSelect s).1 := by
  unfold State.romSelect
  dsimp only
  repeat' first
    | with_reducible assumption
    | with_reducible apply State.commitRec_kept
    | with_reducible apply State.noteBad_kept
    | with_reducible apply State.romRestore_kept
    | (with_reducible refine State.romRestore_kept_eq ?_ (by assumption))
    | with_reducible apply State.romFail_kept
    | (with_reducible refine State.romFail_kept_eq ?_ (by assumption))
    | with_reducible exact keep_rfl
    | split

theorem State.romSelect_kept_eq {s : State} {a1 : State} {a2 : Bool} (h0 : Kept aim s) (e : State.romSelect s = (a1, a2)) :
    Kept aim a1 := by
  have x := State.romSelect_kept (aim := aim) (s := s) h0
  rw [e] at x
  exact x

theorem State.applyRepair_kept {s : State} {r : Repair} (h0 : Kept aim s) : Kept aim (State.applyRepair s r) := by
  unfold State.applyRepair
  repeat' first
    | with_reducible assumption
    | (with_reducible intro _)
    | with_reducible apply State.setMacro_kept
    | with_reducible apply State.setPc_kept
    | with_reducible apply State.moveAreas_kept
    | (simp only [kept_mk]; with_reducible refine keptMk_of ?_ ?_ ?_ ?_ ?_)
    | with_reducible exact keep_rfl
    | split

theorem State.applyMap_kept {s : State} (h0 : Kept aim s) : Kept aim (State.applyMap s) := by
  unfold State.applyMap
  repeat' first
    | with_reducible assumption
    | (with_reducible intro _)
    | with_reducible apply kept_foldl
    | with_reducible apply State.applyRepair_kept
    | (simp only [kept_mk]; with_reducible refine keptMk_of ?_ ?_ ?_ ?_ ?_)
    | with_reducible exact keep_rfl
    | split

theorem State.startConds_kept {s : State} (h0 : Kept aim s) : Kept aim (State.startConds s) := by
  unfold State.startConds
  dsimp only
  repeat' first
    | with_reducible assumption
    | (with_reducible intro _)
    | with_reducible apply kept_foldl
    | with_reducible apply State.setCond_kept
    | split

theorem State.startRestore_kept {s : State} {cause : Nat} (h0 : Kept aim s) : Kept aim (State.startRestore s cause) := by
  unfold State.startRestore
  dsimp only
  have h1 := State.noteBad_kept (region := 1) (i := s.fw.retainedRegion) h0
  generalize s.noteBad 1 s.fw.retainedRegion = t at *
  split
  · exact h1
  · exact kept_core h1 rfl fun _ ⟨b1, b2, _, b4⟩ => ⟨b1, b2, (by intro a e; cases e; exact b2.1), b4⟩

theorem State.applySettings_kept {s : State} {v : Settings} (h0 : Kept aim s) : Kept aim (State.applySettings s v) := h0

theorem State.factory_kept {s : State} (h0 : Kept aim s) : Kept aim (State.factory s) := by
  unfold State.factory
  dsimp only
  have h1 : Kept aim (s.ports.foldl (fun (t : State) p => (t.portDown p 3).clearTx p) s) :=
    kept_foldl h0 fun a x ha => State.clearTx_kept (State.portDown_kept ha)
  exact kept_core h1 rfl fun _ ⟨b1, b2, b3, _⟩ => ⟨b1, b2, b3, by intro a e; cases e⟩

theorem State.readSettings_kept {s : State} {cold : Bool} (h0 : Kept aim s) : Kept aim (State.readSettings s cold) := by
  unfold State.readSettings
  dsimp only
  repeat' first
    | with_reducible assumption
    | with_reducible apply State.factory_kept
    | with_reducible apply State.raise_kept
    | with_reducible apply State.startRestore_kept
    | with_reducible apply State.applySettings_kept
    | (simp only [kept_mk]; with_reducible refine keptMk_of ?_ ?_ ?_ ?_ ?_)
    | with_reducible exact keep_rfl
    | split

theorem State.noteIndices_kept {s : State} (h0 : Kept aim s) : Kept aim (State.noteIndices s) := by
  unfold State.noteIndices
  try dsimp only
  repeat' first
    | with_reducible assumption
    | (with_reducible intro _)
    | with_reducible apply kept_foldl
    | with_reducible apply State.raise_kept
    | with_reducible apply keptOut_next
    | with_reducible exact keptOut_fault
    | (simp only [kept_mk]; with_reducible refine keptMk_of ?_ ?_ ?_ ?_ ?_)
    | with_reducible exact keep_rfl
    | exact fun _ => by decide
    | exact by decide
    | split

theorem State.firstRun_kept {s : State} (h0 : Kept aim s) : Kept aim (State.firstRun s) := by
  unfold State.firstRun
  try dsimp only
  repeat' first
    | with_reducible assumption
    | (with_reducible intro _)
    | with_reducible apply kept_foldl
    | with_reducible apply State.raise_kept
    | with_reducible apply State.noteIndices_kept
    | with_reducible apply keptOut_next
    | with_reducible exact keptOut_fault
    | (simp only [kept_mk]; with_reducible refine keptMk_of ?_ ?_ ?_ ?_ ?_)
    | with_reducible exact keep_rfl
    | exact fun _ => by decide
    | exact by decide
    | split

theorem State.imageStarts_kept {s : State} {img : Image} {pending : Bool} {at_ : Nat} (h0 : Kept aim s) :
    Kept aim (State.imageStarts s img pending at_) := by
  unfold State.imageStarts
  try dsimp only
  repeat' first
    | with_reducible assumption
    | (with_reducible intro _)
    | with_reducible apply kept_foldl
    | with_reducible apply keptOut_next
    | with_reducible exact keptOut_fault
    | (simp only [kept_mk]; with_reducible refine keptMk_of ?_ ?_ ?_ ?_ ?_)
    | with_reducible exact keep_rfl

theorem State.enterRecovery_kept {s : State} (h0 : Kept aim s) : Kept aim (State.enterRecovery s) := by
  unfold State.enterRecovery
  dsimp only
  repeat' first
    | with_reducible assumption
    | with_reducible apply State.changeMode_kept
    | (simp only [kept_mk]; with_reducible refine keptMk_of ?_ ?_ ?_ ?_ ?_)
    | with_reducible exact keep_rfl
    | exact fun _ => by decide

theorem execRomStart_kept {recoveryReq : Bool} {s : State} (h0 : Kept aim s) : KeptOut aim (execRomStart recoveryReq s) := by
  unfold execRomStart
  try dsimp only
  repeat' first
    | with_reducible assumption
    | (with_reducible intro _)
    | with_reducible apply kept_foldl
    | with_reducible apply Offer.next_kept
    | with_reducible apply State.applyMap_kept
    | with_reducible apply done_kept
    | with_reducible apply State.enterRecovery_kept
    | with_reducible apply State.romSelect_kept
    | (with_reducible refine State.romSelect_kept_eq ?_ (by assumption))
    | with_reducible apply State.imageStarts_kept
    | with_reducible apply State.changeMode_kept
    | with_reducible apply State.readSettings_kept
    | with_reducible apply State.firstRun_kept
    | with_reducible apply State.raise_kept
    | with_reducible apply State.startConds_kept
    | with_reducible apply State.startElection_kept
    | with_reducible apply keptOut_next
    | with_reducible exact keptOut_fault
    | (simp only [kept_mk]; with_reducible refine keptMk_of ?_ ?_ ?_ ?_ ?_)
    | with_reducible exact keep_rfl
    | exact fun _ => by decide
    | exact by decide
    | split

theorem cmdFwDownload_kept {c : Cmd} {s : State} (h0 : Kept aim s) : Kept aim (cmdFwDownload c s).st := by
  unfold cmdFwDownload
  try dsimp only
  repeat' first
    | with_reducible assumption
    | (with_reducible intro _)
    | with_reducible apply kept_foldl
    | with_reducible apply gate_kept
    | with_reducible apply Look.act_kept
    | with_reducible apply Res.err_kept
    | with_reducible apply keptOut_next
    | with_reducible exact keptOut_fault
    | (simp only [kept_mk]; with_reducible refine keptMk_of ?_ ?_ ?_ ?_ ?_)
    | with_reducible exact keep_rfl
    | exact fun _ => by decide
    | exact by decide
    | split

theorem execFwDownload_kept {c : Cmd} {s : State} (h0 : Kept aim s) : KeptOut aim (execFwDownload c s) := by
  unfold execFwDownload
  repeat' first
    | with_reducible assumption
    | with_reducible apply serve_kept
    | with_reducible apply cmdFwDownload_kept

theorem cmdFwVerify_kept {c : Cmd} {s : State} (h0 : Kept aim s) : Kept aim (cmdFwVerify c s).st := by
  unfold cmdFwVerify
  repeat' first
    | with_reducible assumption
    | (with_reducible intro _)
    | with_reducible apply gate_kept
    | with_reducible apply Res.err_kept
    | (simp only [kept_mk]; with_reducible refine keptMk_of ?_ ?_ ?_ ?_ ?_)
    | with_reducible exact keep_rfl
    | split
    | dsimp only

theorem execFwVerify_kept {c : Cmd} {s : State} (h0 : Kept aim s) : KeptOut aim (execFwVerify c s) := by
  unfold execFwVerify
  repeat' first
    | with_reducible assumption
    | with_reducible apply serve_kept
    | with_reducible apply cmdFwVerify_kept

theorem State.retainBegin_kept {s : State} (h0 : Kept aim s) : Kept aim (State.retainBegin s) := by
  unfold State.retainBegin
  try dsimp only
  repeat' first
    | with_reducible assumption
    | (with_reducible intro _)
    | with_reducible apply kept_foldl
    | with_reducible apply State.commitRec_kept
    | with_reducible apply keptOut_next
    | with_reducible exact keptOut_fault
    | (simp only [kept_mk]; with_reducible refine keptMk_of ?_ ?_ ?_ ?_ ?_)
    | with_reducible exact keep_rfl

theorem State.retain_kept {s : State} (h0 : Kept aim s) : Kept aim (State.retain s) := by
  unfold State.retain
  try dsimp only
  repeat' first
    | with_reducible assumption
    | (with_reducible intro _)
    | with_reducible apply kept_foldl
    | with_reducible apply State.commitRec_kept
    | with_reducible apply keptOut_next
    | with_reducible exact keptOut_fault
    | (simp only [kept_mk]; with_reducible refine keptMk_of ?_ ?_ ?_ ?_ ?_)
    | with_reducible exact keep_rfl

theorem cmdFwActivate_kept {c : Cmd} {s : State} (h0 : Kept aim s) : Kept aim (cmdFwActivate c s).st := by
  unfold cmdFwActivate
  refine gate_kept ?_ h0
  intro c z hz
  dsimp only
  split
  · exact hz
  · split
    · exact hz
    · split
      · exact hz
      · have ha : Kept aim (if z.hier.member && !z.retained then z.retainBegin else z) := by
          split
          · exact State.retainBegin_kept hz
          · exact hz
        generalize (if z.hier.member && !z.retained then z.retainBegin else z) = a at *
        exact kept_core ha rfl fun hp ⟨b1, b2, _, b4⟩ => ⟨b1, b2, (by intro a e; cases e; exact (hz.2 hp).2.1.1), b4⟩

theorem execFwActivate_kept {c : Cmd} {s : State} (h0 : Kept aim s) : KeptOut aim (execFwActivate c s) := by
  unfold execFwActivate
  repeat' first
    | with_reducible assumption
    | with_reducible apply serve_kept
    | with_reducible apply cmdFwActivate_kept

theorem execActivationPause_kept {s : State} (h0 : Kept aim s) : KeptOut aim (execActivationPause s) := by
  unfold execActivationPause
  split
  · exact keptOut_next h0
  · rename_i a _
    split
    · exact keptOut_next h0
    · split
      · split
        · exact done_kept h0 (State.finishKind_kept
            (kept_core h0 rfl fun _ ⟨b1, b2, _, b4⟩ => ⟨b1, b2, (by intro a e; cases e), b4⟩))
        · exact keptOut_next h0
      · dsimp only
        have hu : Kept aim (if a.cause.isNone && s.hier.member && !s.retained then s.retain else s) := by
          split
          · exact State.retain_kept h0
          · exact h0
        generalize (if a.cause.isNone && s.hier.member && !s.retained then s.retain else s) = u at *
        have h1 : Kept aim { u with fw.act := some { a with at_ := s.time.ticks, startAt := s.time.ticks, prevMode := s.mode.mode } } :=
          kept_core hu rfl fun hp ⟨b1, b2, _, b4⟩ => ⟨b1, b2, (by intro a e; cases e; exact (h0.2 hp).2.1.1), b4⟩
        have h2 := fun t c => State.changeMode_kept (new := mdActivation) (target := t) (cause := c) (fun _ => by decide) h1
        refine done_kept h0 ?_
        refine kept_core (h2 s.mode.target (if a.cause == some 0 || a.cause == some 2 then 0xFFFFFFFF else mcCommand)) rfl ?_
        exact fun hp ⟨b1, b2, _, b4⟩ => ⟨b1, b2, (by intro a e; cases e; exact (h0.2 hp).2.1.1), b4⟩

theorem State.leaveActivation_kept {s : State} {prev : Nat} (hn : aim.inv → prev ≤ 11) (h0 : Kept aim s) :
    Kept aim (State.leaveActivation s prev) := by
  unfold State.leaveActivation
  split
  · exact h0
  · split
    · exact State.changeMode_kept (fun _ => by decide) h0
    · exact State.requestMode_kept hn h0

theorem State.sayResumed_kept {t : State} {a : Activation} {version took : Nat} (h0 : Kept aim t) :
    Kept aim (State.sayResumed t a version took) := by
  unfold State.sayResumed
  repeat' first
    | with_reducible assumption
    | with_reducible apply State.finishKind_kept
    | with_reducible apply State.raise_kept
    | with_reducible exact keep_rfl
    | split

theorem State.recordResumed_kept {v : State} {a : Activation} {r : BootRec} {img : Image} (h0 : Kept aim v) :
    Kept aim (State.recordResumed v a r img) := by
  unfold State.recordResumed
  try dsimp only
  repeat' first
    | with_reducible assumption
    | (with_reducible intro _)
    | with_reducible apply kept_foldl
    | with_reducible apply State.commitRec_kept
    | with_reducible apply keptOut_next
    | with_reducible exact keptOut_fault
    | (simp only [kept_mk]; with_reducible refine keptMk_of ?_ ?_ ?_ ?_ ?_)
    | with_reducible exact keep_rfl
    | exact fun _ => by decide
    | exact by decide
    | split

theorem State.resumeActivation_kept {s : State} {a : Activation} (hn : aim.inv → a.prevMode ≤ 11) (h0 : Kept aim s) :
    Kept aim (State.resumeActivation s a) := by
  unfold State.resumeActivation
  dsimp only
  have hs : Kept aim { s with fw.act := none, mode.gaveUp := false } :=
    kept_core h0 rfl fun _ ⟨b1, b2, _, b4⟩ => ⟨b1, b2, (by intro a e; cases e), b4⟩
  exact State.writeAnswers_kept (State.finishRetired_kept (State.firstRun_kept (State.readSettings_kept (State.recordResumed_kept
    (State.leaveActivation_kept hn (State.sayResumed_kept (State.imageStarts_kept hs)))))))

theorem execImageResumesFetching_kept {s : State} (h0 : Kept aim s) : KeptOut aim (execImageResumesFetching s) := by
  unfold execImageResumesFetching
  split
  · exact keptOut_next h0
  · split
    · rename_i a ha
      split
      · exact done_kept h0 (State.resumeActivation_kept (fun hp => (h0.2 hp).2.2.1 a ha) h0)
      · exact keptOut_next h0
    · split
      · exact keptOut_next h0
      · split
        · exact keptOut_next h0
        · dsimp only
          refine done_kept h0 (State.writeAnswers_kept (State.finishRetired_kept (State.firstRun_kept (State.readSettings_kept
            (State.imageStarts_kept ?_)))))
          exact kept_mode h0 rfl fun _ b => b

theorem execActivationTimeout_kept {s : State} (h0 : Kept aim s) : KeptOut aim (execActivationTimeout s) := by
  unfold execActivationTimeout
  split
  · exact keptOut_next h0
  · rename_i a ha
    dsimp only
    split
    · refine done_kept h0 ?_
      have ht : Kept aim (if (s.bootRec.getD {}).state == 2 then
          s.commitRec { s.bootRec.getD {} with attempts := (s.bootRec.getD {}).attempts + 1 } else s) := by
        split
        · exact State.commitRec_kept h0
        · exact h0
      exact kept_core ht rfl fun hp ⟨b1, b2, b3, b4⟩ => ⟨b1, b2, (by intro x e; cases e; exact (h0.2 hp).2.2.1 a ha), b4⟩
    · exact keptOut_next h0

theorem execFlashUpdateComplete_kept {failedSector : Option Nat} {s : State} (h0 : Kept aim s) :
    KeptOut aim (execFlashUpdateComplete failedSector s) := by
  unfold execFlashUpdateComplete
  try dsimp only
  repeat' first
    | with_reducible assumption
    | (with_reducible intro _)
    | with_reducible apply kept_foldl
    | with_reducible apply Offer.next_kept
    | with_reducible apply done_kept
    | with_reducible apply State.raise_kept
    | with_reducible apply State.commitRec_kept
    | with_reducible apply keptOut_next
    | with_reducible exact keptOut_fault
    | (simp only [kept_mk]; with_reducible refine keptMk_of ?_ ?_ ?_ ?_ ?_)
    | with_reducible exact keep_rfl
    | exact fun _ => by decide
    | exact by decide
    | split

theorem cmdFwConfirm_kept {c : Cmd} {s : State} (h0 : Kept aim s) : Kept aim (cmdFwConfirm c s).st := by
  unfold cmdFwConfirm
  repeat' first
    | with_reducible assumption
    | (with_reducible intro _)
    | with_reducible apply gate_kept
    | with_reducible apply Res.err_kept
    | (simp only [kept_mk]; with_reducible refine keptMk_of ?_ ?_ ?_ ?_ ?_)
    | with_reducible exact keep_rfl
    | split

theorem execFwConfirm_kept {c : Cmd} {s : State} (h0 : Kept aim s) : KeptOut aim (execFwConfirm c s) := by
  unfold execFwConfirm
  repeat' first
    | with_reducible assumption
    | with_reducible apply serve_kept
    | with_reducible apply cmdFwConfirm_kept

theorem execImageConfirm_kept {s : State} (h0 : Kept aim s) : KeptOut aim (execImageConfirm s) := by
  unfold execImageConfirm
  repeat' first
    | with_reducible assumption
    | with_reducible apply Offer.next_kept
    | with_reducible apply Look.act_kept
    | with_reducible apply done_kept
    | with_reducible apply State.commitRec_kept
    | with_reducible apply State.raise_kept
    | with_reducible apply keptOut_next
    | (simp only [kept_mk]; with_reducible refine keptMk_of ?_ ?_ ?_ ?_ ?_)
    | with_reducible exact keep_rfl
    | split

theorem execConfirmWindowEnd_kept {s : State} (h0 : Kept aim s) : KeptOut aim (execConfirmWindowEnd s) := by
  unfold execConfirmWindowEnd
  repeat' first
    | with_reducible assumption
    | with_reducible apply Look.act_kept
    | with_reducible apply done_kept
    | with_reducible apply State.startRestore_kept
    | with_reducible apply Offer.next_kept
    | with_reducible apply keptOut_next
    | split

theorem cmdFwRevert_kept {c : Cmd} {s : State} (h0 : Kept aim s) : Kept aim (cmdFwRevert c s).st := by
  unfold cmdFwRevert
  try dsimp only
  repeat' first
    | with_reducible assumption
    | (with_reducible intro _)
    | with_reducible apply kept_foldl
    | with_reducible apply gate_kept
    | with_reducible apply Res.err_kept
    | with_reducible apply Look.act_kept
    | with_reducible apply State.startRestore_kept
    | with_reducible apply keptOut_next
    | with_reducible exact keptOut_fault
    | with_reducible exact keep_rfl
    | exact fun _ => by decide
    | exact by decide
    | split

theorem execFwRevert_kept {c : Cmd} {s : State} (h0 : Kept aim s) : KeptOut aim (execFwRevert c s) := by
  unfold execFwRevert
  repeat' first
    | with_reducible assumption
    | with_reducible apply serve_kept
    | with_reducible apply cmdFwRevert_kept

theorem cmdFwStatusGet_kept {c : Cmd} {s : State} (h0 : Kept aim s) : Kept aim (cmdFwStatusGet c s).st := by
  unfold cmdFwStatusGet
  repeat' first
    | with_reducible assumption
    | (with_reducible intro _)
    | with_reducible apply gate_kept

theorem execFwStatusGet_kept {c : Cmd} {s : State} (h0 : Kept aim s) : KeptOut aim (execFwStatusGet c s) := by
  unfold execFwStatusGet
  repeat' first
    | with_reducible assumption
    | with_reducible apply serve_kept
    | with_reducible apply cmdFwStatusGet_kept

theorem cmdFwUpdateConfig_kept {c : Cmd} {s : State} (h0 : Kept aim s) : Kept aim (cmdFwUpdateConfig c s).st := by
  unfold cmdFwUpdateConfig
  repeat' first
    | with_reducible assumption
    | (with_reducible intro _)
    | with_reducible apply gate_kept
    | with_reducible apply Res.err_kept
    | with_reducible apply State.commitRec_kept
    | with_reducible exact keep_rfl
    | split
    | dsimp only

theorem execFwUpdateConfig_kept {c : Cmd} {s : State} (h0 : Kept aim s) : KeptOut aim (execFwUpdateConfig c s) := by
  unfold execFwUpdateConfig
  repeat' first
    | with_reducible assumption
    | with_reducible apply serve_kept
    | with_reducible apply cmdFwUpdateConfig_kept

theorem cmdFwSvnCommit_kept {c : Cmd} {s : State} (h0 : Kept aim s) : Kept aim (cmdFwSvnCommit c s).st := by
  unfold cmdFwSvnCommit
  refine gate_kept ?_ h0
  intro c z hz
  dsimp only
  split
  · exact hz
  · split
    · exact hz
    · have ha : Kept aim { z with fw := z.fw.burn z.fw.running.svn } := kept_core hz rfl fun _ b => b
      apply State.raise_kept
      split
      · exact State.commitRec_kept ha
      · exact ha

theorem execFwSvnCommit_kept {c : Cmd} {s : State} (h0 : Kept aim s) : KeptOut aim (execFwSvnCommit c s) := by
  unfold execFwSvnCommit
  repeat' first
    | with_reducible assumption
    | with_reducible apply serve_kept
    | with_reducible apply cmdFwSvnCommit_kept

theorem cmdAttestKeyGet_kept {c : Cmd} {s : State} (h0 : Kept aim s) : Kept aim (cmdAttestKeyGet c s).st := by
  unfold cmdAttestKeyGet
  repeat' first
    | with_reducible assumption
    | (with_reducible intro _)
    | with_reducible apply gate_kept

theorem execAttestKeyGet_kept {c : Cmd} {s : State} (h0 : Kept aim s) : KeptOut aim (execAttestKeyGet c s) := by
  unfold execAttestKeyGet
  repeat' first
    | with_reducible assumption
    | with_reducible apply serve_kept
    | with_reducible apply cmdAttestKeyGet_kept

theorem State.reserve_kept {s : State} {e : Nat} (h0 : Kept aim s) : Kept aim (State.reserve s e) := by
  unfold State.reserve
  try dsimp only
  repeat' first
    | with_reducible assumption
    | (with_reducible intro _)
    | with_reducible apply kept_foldl
    | with_reducible apply keptOut_next
    | with_reducible exact keptOut_fault
    | (simp only [kept_mk]; with_reducible refine keptMk_of ?_ ?_ ?_ ?_ ?_)
    | with_reducible exact keep_rfl
    | exact fun _ => by decide
    | exact by decide
    | split

theorem cmdAttestQuote_kept {c : Cmd} {s : State} (h0 : Kept aim s) : Kept aim (cmdAttestQuote c s).st := by
  unfold cmdAttestQuote
  try dsimp only
  repeat' first
    | with_reducible assumption
    | (with_reducible intro _)
    | with_reducible apply kept_foldl
    | with_reducible apply gate_kept
    | with_reducible apply State.raise_kept
    | with_reducible apply Res.err_kept
    | with_reducible apply State.reserve_kept
    | with_reducible apply State.noteIndices_kept
    | with_reducible apply keptOut_next
    | with_reducible exact keptOut_fault
    | (simp only [kept_mk]; with_reducible refine keptMk_of ?_ ?_ ?_ ?_ ?_)
    | with_reducible exact keep_rfl
    | exact fun _ => by decide
    | exact by decide
    | split

theorem execAttestQuote_kept {c : Cmd} {s : State} (h0 : Kept aim s) : KeptOut aim (execAttestQuote c s) := by
  unfold execAttestQuote
  repeat' first
    | with_reducible assumption
    | with_reducible apply serve_kept
    | with_reducible apply cmdAttestQuote_kept

theorem State.restartFe_kept {s : State} (h0 : Kept aim s) : Kept aim (State.restartFe s) := by
  unfold State.restartFe
  dsimp only
  exact State.bump_kept (kept_core (State.romSelect_kept h0) rfl fun _ ⟨b1, b2, _, b4⟩ => ⟨b1, b2, (by intro a e; cases e), b4⟩)

theorem State.stopRestarts_kept {s : State} {cause : Nat} (h0 : Kept aim s) : Kept aim (State.stopRestarts s cause) := by
  unfold State.stopRestarts
  repeat' first
    | with_reducible assumption
    | with_reducible apply State.raise_kept
    | (simp only [kept_mk]; with_reducible refine keptMk_of ?_ ?_ ?_ ?_ ?_)
    | with_reducible exact keep_rfl

theorem State.retireCore_kept {s : State} {core : Nat} (h0 : Kept aim s) : Kept aim (State.retireCore s core) := by
  unfold State.retireCore
  dsimp only
  repeat' first
    | with_reducible assumption
    | with_reducible apply State.raise_kept
    | with_reducible apply State.record_kept
    | with_reducible apply State.setCond_kept
    | (simp only [kept_mk]; with_reducible refine keptMk_of ?_ ?_ ?_ ?_ ?_)
    | with_reducible exact keep_rfl
    | split

theorem State.feFailed_kept {s : State} {cause : FeCause} {cores : List Nat} (h0 : Kept aim s) :
    Kept aim (State.feFailed s cause cores) := by
  unfold State.feFailed
  try dsimp only
  repeat' first
    | with_reducible assumption
    | (with_reducible intro _)
    | with_reducible apply kept_foldl
    | with_reducible apply State.raise_kept
    | with_reducible apply State.retireCore_kept
    | with_reducible apply State.stopRestarts_kept
    | with_reducible apply State.restartFe_kept
    | with_reducible apply keptOut_next
    | with_reducible exact keptOut_fault
    | (simp only [kept_mk]; with_reducible refine keptMk_of ?_ ?_ ?_ ?_ ?_)
    | with_reducible exact keep_rfl
    | exact fun _ => by decide
    | exact by decide
    | split

theorem execFeFirmwareFailure_kept {cause : FeCause} {cores : List Nat} {s : State} (h0 : Kept aim s) :
    KeptOut aim (execFeFirmwareFailure cause cores s) := by
  unfold execFeFirmwareFailure
  repeat' first
    | with_reducible assumption
    | (with_reducible intro _)
    | with_reducible apply done_kept
    | with_reducible apply State.feFailed_kept
    | with_reducible apply Offer.next_kept
    | with_reducible apply keptOut_next
    | with_reducible exact keptOut_fault
    | split

theorem execFeRestartTimeout_kept {s : State} (h0 : Kept aim s) : KeptOut aim (execFeRestartTimeout s) := by
  unfold execFeRestartTimeout
  repeat' first
    | with_reducible assumption
    | with_reducible apply Offer.next_kept
    | with_reducible apply State.bump_kept
    | with_reducible apply done_kept
    | with_reducible apply State.stopRestarts_kept
    | with_reducible apply State.restartFe_kept
    | with_reducible apply keptOut_next
    | (simp only [kept_mk]; with_reducible refine keptMk_of ?_ ?_ ?_ ?_ ?_)
    | with_reducible exact keep_rfl
    | split

theorem cmdFeRestart_kept {c : Cmd} {s : State} (h0 : Kept aim s) : Kept aim (cmdFeRestart c s).st := by
  unfold cmdFeRestart
  repeat' first
    | with_reducible assumption
    | (with_reducible intro _)
    | with_reducible apply gate_kept
    | with_reducible apply Res.err_kept
    | with_reducible apply State.restartFe_kept
    | (simp only [kept_mk]; with_reducible refine keptMk_of ?_ ?_ ?_ ?_ ?_)
    | with_reducible exact keep_rfl
    | split

theorem execFeRestart_kept {c : Cmd} {s : State} (h0 : Kept aim s) : KeptOut aim (execFeRestart c s) := by
  unfold execFeRestart
  repeat' first
    | with_reducible assumption
    | with_reducible apply serve_kept
    | with_reducible apply cmdFeRestart_kept

end Sys2Proof.Machine
end

