-- ==== Sys2Proof/Laws/KeptFaults.lean ====
section
/-! SUPPORT. What Machine/Faults.lean leaves: the queue and the invariant (see Laws/Kept.lean). -/
namespace Sys2Proof.Machine
open Sys2Proof
variable {aim : Aim}

theorem State.cellLost_kept {s : State} {q pos : Nat} (h0 : Kept aim s) : Kept aim (State.cellLost s q pos) := by
  unfold State.cellLost
  repeat' first
    | with_reducible assumption
    | (with_reducible intro _)
    | with_reducible apply kept_foldl
    | with_reducible apply State.updQueue_kept
    | with_reducible exact keep_rfl
    | split

theorem State.linkLost_kept {s : State} {q : Nat} (h0 : Kept aim s) : Kept aim (State.linkLost s q) := by
  unfold State.linkLost
  dsimp only
  repeat' first
    | with_reducible assumption
    | (with_reducible intro _)
    | with_reducible apply State.flushQueue_kept
    | with_reducible apply State.countDrop_kept
    | with_reducible apply State.voqEdge_kept
    | with_reducible apply State.raise_kept
    | with_reducible apply State.refreshTm_kept
    | (simp only [kept_mk]; with_reducible refine keptMk_of ?_ ?_ ?_ ?_ ?_)
    | with_reducible exact keep_rfl

theorem State.mendLink_kept {s : State} {q pos : Nat} (h0 : Kept aim s) : Kept aim (State.mendLink s q pos) := by
  unfold State.mendLink
  try dsimp only
  repeat' first
    | with_reducible assumption
    | (with_reducible intro _)
    | with_reducible apply kept_foldl
    | with_reducible apply State.setLink_kept
    | with_reducible apply keptOut_next
    | with_reducible exact keptOut_fault
    | with_reducible exact keep_rfl
    | exact fun _ => by decide
    | exact by decide
    | split

theorem State.sharedLost_kept {s : State} {k : Nat} (h0 : Kept aim s) : Kept aim (State.sharedLost s k) := by
  unfold State.sharedLost
  try dsimp only
  repeat' first
    | with_reducible assumption
    | (with_reducible intro _)
    | with_reducible apply kept_foldl
    | with_reducible apply State.dropPkt_kept
    | with_reducible apply State.settleQueue_kept
    | with_reducible apply State.voqEdge_kept
    | with_reducible apply State.raise_kept
    | with_reducible apply State.refreshTm_kept
    | with_reducible apply keptOut_next
    | with_reducible exact keptOut_fault
    | (simp only [kept_mk]; with_reducible refine keptMk_of ?_ ?_ ?_ ?_ ?_)
    | with_reducible exact keep_rfl
    | exact fun _ => by decide
    | exact by decide
    | split

theorem State.recordLost_kept {s : State} {p i : Nat} (h0 : Kept aim s) : Kept aim (State.recordLost s p i) := by
  unfold State.recordLost
  try dsimp only
  repeat' first
    | with_reducible assumption
    | (with_reducible intro _)
    | with_reducible apply kept_foldl
    | with_reducible apply State.chargeAdd_kept
    | with_reducible apply State.setPoolBuf_kept
    | with_reducible apply State.notePoolLow_kept
    | with_reducible apply State.cutReading_kept
    | with_reducible apply State.setChan_kept
    | with_reducible apply State.telLost_kept
    | with_reducible apply State.bump_kept
    | with_reducible apply State.raise_kept
    | with_reducible apply keptOut_next
    | with_reducible exact keptOut_fault
    | (simp only [kept_mk]; with_reducible refine keptMk_of ?_ ?_ ?_ ?_ ?_)
    | with_reducible exact keep_rfl
    | exact fun _ => by decide
    | exact by decide
    | split

theorem State.nodeLost_kept {s : State} {n : Nat} (h0 : Kept aim s) : Kept aim (State.nodeLost s n) := by
  unfold State.nodeLost
  try dsimp only
  repeat' first
    | with_reducible assumption
    | (with_reducible intro _)
    | with_reducible apply kept_foldl
    | with_reducible apply State.setNode_kept
    | with_reducible apply State.refreshTm_kept
    | with_reducible apply State.raise_kept

theorem State.sramLost_kept {s : State} {u : SramUse} (h0 : Kept aim s) : Kept aim (State.sramLost s u) := by
  have hb : Kept aim (s.bump 519 4) := State.bump_kept h0
  cases u with
  | fibBucket =>
    simp only [State.sramLost]
    exact State.poisonFib_kept hb
  | emBucket =>
    simp only [State.sramLost]
    exact State.poisonEm_kept hb
  | labelEntry =>
    simp only [State.sramLost]
    exact State.poisonLabel_kept hb
  | nexthop =>
    simp only [State.sramLost]
    exact State.poisonNexthop_kept hb
  | ecmpRecord =>
    simp only [State.sramLost]
    exact State.poisonEcmp_kept hb
  | memberEntry =>
    simp only [State.sramLost]
    exact State.poisonMember_kept hb
  | directory =>
    simp only [State.sramLost]
    exact hb
  | keyStore =>
    simp only [State.sramLost]
    exact State.saFault_kept h0
  | policer =>
    simp only [State.sramLost]
    exact State.setPolicer_kept h0
  | cell =>
    simp only [State.sramLost]
    exact State.cellLost_kept h0
  | linkWord q c both =>
    simp only [State.sramLost]
    split
    · exact State.linkLost_kept h0
    · exact State.bump_kept (State.mendLink_kept h0)
  | schedNode =>
    simp only [State.sramLost]
    exact State.nodeLost_kept h0
  | bufRecord =>
    simp only [State.sramLost]
    exact State.recordLost_kept h0
  | bufData =>
    simp only [State.sramLost]
    exact State.setPoolBuf_kept h0
  | sharedRecord =>
    simp only [State.sramLost]
    exact State.sharedLost_kept h0
  | serviceMemory =>
    simp only [State.sramLost]
    exact h0
  | encap =>
    simp only [State.sramLost]
    exact State.editStoreLost_kept h0
  | editInsn =>
    simp only [State.sramLost]
    exact State.editStoreLost_kept h0
  | groupRecord =>
    simp only [State.sramLost]
    exact State.editStoreLost_kept h0
  | mcMember =>
    simp only [State.sramLost]
    exact State.editStoreLost_kept h0
  | tcamShadow lt row good =>
    simp only [State.sramLost]
    exact State.shadowLost_kept h0
  | tcamAction =>
    simp only [State.sramLost]
    exact State.tcamPoison_kept h0
  | staging =>
    simp only [State.sramLost]
    exact h0

theorem State.sramCorrected_kept {s : State} {u : SramUse} (h0 : Kept aim s) : Kept aim (State.sramCorrected s u) := by
  have hb : ∀ t n i, Kept aim (s.bump t n i) := fun _ _ _ => State.bump_kept h0
  cases u with
  | tcamShadow lt =>
    simp only [State.sramCorrected]
    split
    · exact hb _ _ _
    · exact h0
  | _ => exact h0

theorem State.withholdCell_kept {s : State} {m row : Nat} {c : Option Nat} (h0 : Kept aim s) :
    Kept aim (State.withholdCell s m row c) := by
  unfold State.withholdCell
  try dsimp only
  repeat' first
    | with_reducible assumption
    | (with_reducible intro _)
    | with_reducible apply kept_foldl
    | with_reducible apply keptOut_next
    | with_reducible exact keptOut_fault
    | (simp only [kept_mk]; with_reducible refine keptMk_of ?_ ?_ ?_ ?_ ?_)
    | with_reducible exact keep_rfl
    | exact fun _ => by decide
    | exact by decide
    | split

theorem execSramError_kept {die macro_ row column : Nat} {correctable : Bool} {use : SramUse} {s : State}
    (h0 : Kept aim s) : KeptOut aim (execSramError die macro_ row column correctable use s) := by
  unfold execSramError
  try dsimp only
  repeat' first
    | with_reducible assumption
    | (with_reducible intro _)
    | with_reducible apply kept_foldl
    | with_reducible apply Offer.next_kept
    | with_reducible apply State.sramCorrected_kept
    | with_reducible apply State.sramLost_kept
    | with_reducible apply State.sramRepair_kept
    | with_reducible apply State.withholdCell_kept
    | with_reducible apply done_kept
    | with_reducible apply State.feFailed_kept
    | with_reducible apply keptOut_next
    | with_reducible exact keptOut_fault
    | with_reducible exact keep_rfl
    | exact fun _ => by decide
    | exact by decide
    | split

end Sys2Proof.Machine
end

