-- ==== Sys2Proof/Laws/KeptHier.lean ====
section
/-! SUPPORT. What Machine/Hier.lean leaves: the queue and the invariant (see Laws/Kept.lean). -/
namespace Sys2Proof.Machine
open Sys2Proof
variable {aim : Aim}

theorem State.receiveMsg_kept {s : State} {path : Path} {type : Nat} {h : CoordHdr} {f : State → State} (h0 : Kept aim s)
    (h1 : ∀ z, Kept aim z → Kept aim (f z)) : KeptOut aim (State.receiveMsg s path type h f) := by
  unfold State.receiveMsg
  repeat' first
    | with_reducible assumption
    | with_reducible apply h1
    | with_reducible apply Offer.next_kept
    | with_reducible apply done_kept
    | with_reducible apply State.bump_kept
    | with_reducible apply State.sendMsg_kept
    | with_reducible apply State.setMember_kept
    | with_reducible apply keptOut_next
    | with_reducible exact keptOut_fault
    | (simp only [kept_mk]; with_reducible refine keptMk_of ?_ ?_ ?_ ?_ ?_)
    | with_reducible exact keep_rfl
    | split
    | dsimp only

theorem State.announceTable_kept {s : State} (h0 : Kept aim s) : Kept aim (State.announceTable s) := by
  unfold State.announceTable
  repeat' first
    | with_reducible assumption
    | with_reducible apply State.sendAll_kept

theorem State.designate_kept {s : State} (h0 : Kept aim s) : Kept aim (State.designate s) := by
  unfold State.designate
  dsimp only
  repeat' first
    | with_reducible assumption
    | (with_reducible intro _)
    | with_reducible apply State.raise_kept
    | (simp only [kept_mk]; with_reducible refine keptMk_of ?_ ?_ ?_ ?_ ?_)
    | with_reducible exact keep_rfl
    | split

theorem State.removeMember_kept {s : State} {f cause : Nat} (h0 : Kept aim s) : Kept aim (State.removeMember s f cause) := by
  unfold State.removeMember
  dsimp only
  repeat' first
    | with_reducible assumption
    | (with_reducible intro _)
    | with_reducible apply State.designate_kept
    | with_reducible apply State.announceTable_kept
    | with_reducible apply State.removePeer_kept
    | with_reducible apply State.raise_kept
    | with_reducible apply State.bump_kept
    | with_reducible apply State.reviewChange_kept
    | (simp only [kept_mk]; with_reducible refine keptMk_of ?_ ?_ ?_ ?_ ?_)
    | with_reducible exact keep_rfl
    | split

theorem State.adoptTable_kept {s : State} {members deputy : Nat} (h0 : Kept aim s) :
    Kept aim (State.adoptTable s members deputy) := by
  unfold State.adoptTable
  dsimp only
  repeat' first
    | with_reducible assumption
    | (with_reducible intro _)
    | with_reducible apply kept_foldl
    | with_reducible apply State.addPeer_kept
    | with_reducible apply State.removePeer_kept
    | with_reducible apply State.noteSilence_kept
    | with_reducible apply State.setRole_kept
    | (simp only [kept_mk]; with_reducible refine keptMk_of ?_ ?_ ?_ ?_ ?_)
    | with_reducible exact keep_rfl

theorem State.depart_kept {s : State} (h0 : Kept aim s) : Kept aim (State.depart s) := by
  unfold State.depart
  exact State.setRole_kept (kept_core h0 rfl fun _ ⟨b1, b2, b3, _⟩ => ⟨b1, b2, b3, by intro a e; cases e⟩)

theorem State.noteManager_kept {s : State} {src term : Nat} (h0 : Kept aim s) : Kept aim (State.noteManager s src term) := by
  unfold State.noteManager
  repeat' first
    | with_reducible assumption
    | with_reducible apply State.setRole_kept
    | with_reducible apply State.raise_kept
    | (simp only [kept_mk]; with_reducible refine keptMk_of ?_ ?_ ?_ ?_ ?_)
    | with_reducible exact keep_rfl
    | split

theorem State.askJoin_kept {s : State} {m : Nat} (h0 : Kept aim s) : Kept aim (State.askJoin s m) := by
  unfold State.askJoin
  repeat' first
    | with_reducible assumption
    | with_reducible apply State.sendMsg_kept
    | (simp only [kept_mk]; with_reducible refine keptMk_of ?_ ?_ ?_ ?_ ?_)
    | with_reducible exact keep_rfl

theorem State.becomeManager_kept {s : State} (h0 : Kept aim s) : Kept aim (State.becomeManager s) := by
  unfold State.becomeManager
  repeat' first
    | with_reducible assumption
    | with_reducible apply State.setRole_kept
    | with_reducible apply State.designate_kept
    | (simp only [kept_mk]; with_reducible refine keptMk_of ?_ ?_ ?_ ?_ ?_)
    | with_reducible exact keep_rfl

theorem State.endElection_kept {s : State} (h0 : Kept aim s) : Kept aim (State.endElection s) := by
  unfold State.endElection
  try dsimp only
  repeat' first
    | with_reducible assumption
    | (with_reducible intro _)
    | with_reducible apply kept_foldl
    | with_reducible apply State.becomeManager_kept
    | with_reducible apply keptOut_next
    | with_reducible exact keptOut_fault
    | (simp only [kept_mk]; with_reducible refine keptMk_of ?_ ?_ ?_ ?_ ?_)
    | with_reducible exact keep_rfl
    | exact fun _ => by decide
    | exact by decide
    | split

theorem execAnnounce_kept {path : Path} {h : CoordHdr} {priority role : Nat} {s : State} (h0 : Kept aim s) :
    KeptOut aim (execAnnounce path h priority role s) := by
  unfold execAnnounce
  try dsimp only
  repeat' first
    | with_reducible assumption
    | (with_reducible intro _)
    | with_reducible apply kept_foldl
    | with_reducible apply State.receiveMsg_kept
    | with_reducible apply State.endElection_kept
    | with_reducible apply State.setMember_kept
    | with_reducible apply State.askJoin_kept
    | with_reducible apply keptOut_next
    | with_reducible exact keptOut_fault
    | (simp only [kept_mk]; with_reducible refine keptMk_of ?_ ?_ ?_ ?_ ?_)
    | with_reducible exact keep_rfl
    | exact fun _ => by decide
    | exact by decide
    | split

theorem execElectionWindowEnd_kept {s : State} (h0 : Kept aim s) : KeptOut aim (execElectionWindowEnd s) := by
  unfold execElectionWindowEnd
  try dsimp only
  repeat' first
    | with_reducible assumption
    | (with_reducible intro _)
    | with_reducible apply kept_foldl
    | with_reducible apply Offer.next_kept
    | with_reducible apply done_kept
    | with_reducible apply State.endElection_kept
    | with_reducible apply keptOut_next
    | with_reducible exact keptOut_fault
    | with_reducible exact keep_rfl
    | exact fun _ => by decide
    | exact by decide
    | split

theorem execAnnounceSend_kept {s : State} (h0 : Kept aim s) : KeptOut aim (execAnnounceSend s) := by
  unfold execAnnounceSend
  dsimp only
  repeat' first
    | with_reducible assumption
    | with_reducible apply Offer.next_kept
    | with_reducible apply done_kept
    | with_reducible apply State.sendGroup_kept
    | with_reducible apply keptOut_next
    | (simp only [kept_mk]; with_reducible refine keptMk_of ?_ ?_ ?_ ?_ ?_)
    | with_reducible exact keep_rfl
    | split

theorem execJoinRequest_kept {path : Path} {h : CoordHdr} {version priority _ordering _svn _fwVersion mode : Nat}
    {s : State} (h0 : Kept aim s) : KeptOut aim (execJoinRequest path h version priority _ordering _svn _fwVersion mode s) := by
  unfold execJoinRequest
  repeat' first
    | with_reducible assumption
    | (with_reducible intro _)
    | with_reducible apply State.receiveMsg_kept
    | with_reducible apply State.sendMsg_kept
    | with_reducible apply State.raise_kept
    | with_reducible apply State.setMember_kept
    | with_reducible apply State.addPeer_kept
    | with_reducible apply State.noteSilence_kept
    | with_reducible apply State.designate_kept
    | with_reducible apply State.sendAll_kept
    | with_reducible apply State.bump_kept
    | (simp only [kept_mk]; with_reducible refine keptMk_of ?_ ?_ ?_ ?_ ?_)
    | with_reducible exact keep_rfl
    | split

theorem execJoinAccept_kept {path : Path} {h : CoordHdr} {members deputy : Nat} {managerT32 : T32} {s : State}
    (h0 : Kept aim s) : KeptOut aim (execJoinAccept path h members deputy managerT32 s) := by
  unfold execJoinAccept
  try dsimp only
  repeat' first
    | with_reducible assumption
    | (with_reducible intro _)
    | with_reducible apply kept_foldl
    | with_reducible apply State.receiveMsg_kept
    | with_reducible apply State.adoptTable_kept
    | with_reducible apply State.refuseStep_kept
    | with_reducible apply State.rollWindows_kept
    | with_reducible apply State.afterStep_kept
    | with_reducible apply keptOut_next
    | with_reducible exact keptOut_fault
    | (simp only [kept_mk]; with_reducible refine keptMk_of ?_ ?_ ?_ ?_ ?_)
    | with_reducible exact keep_rfl
    | exact fun _ => by decide
    | exact by decide
    | split

theorem execJoinReject_kept {path : Path} {h : CoordHdr} {_reason : Nat} {s : State} (h0 : Kept aim s) :
    KeptOut aim (execJoinReject path h _reason s) := by
  unfold execJoinReject
  repeat' first
    | with_reducible assumption
    | (with_reducible intro _)
    | with_reducible apply State.receiveMsg_kept
    | (simp only [kept_mk]; with_reducible refine keptMk_of ?_ ?_ ?_ ?_ ?_)
    | with_reducible exact keep_rfl
    | split

theorem execJoinRequestRepeat_kept {s : State} (h0 : Kept aim s) : KeptOut aim (execJoinRequestRepeat s) := by
  unfold execJoinRequestRepeat
  repeat' first
    | with_reducible assumption
    | with_reducible apply done_kept
    | with_reducible apply State.askJoin_kept
    | with_reducible apply Offer.next_kept
    | with_reducible apply keptOut_next
    | (simp only [kept_mk]; with_reducible refine keptMk_of ?_ ?_ ?_ ?_ ?_)
    | with_reducible exact keep_rfl
    | split

theorem execMemberUpdate_kept {path : Path} {h : CoordHdr} {members deputy : Nat} {s : State} (h0 : Kept aim s) :
    KeptOut aim (execMemberUpdate path h members deputy s) := by
  unfold execMemberUpdate
  repeat' first
    | with_reducible assumption
    | (with_reducible intro _)
    | with_reducible apply State.receiveMsg_kept
    | with_reducible apply State.adoptTable_kept
    | with_reducible apply State.depart_kept
    | split

theorem execLeave_kept {path : Path} {h : CoordHdr} {_cause : Nat} {s : State} (h0 : Kept aim s) :
    KeptOut aim (execLeave path h _cause s) := by
  unfold execLeave
  repeat' first
    | with_reducible assumption
    | (with_reducible intro _)
    | with_reducible apply State.receiveMsg_kept
    | with_reducible apply State.removeMember_kept
    | with_reducible apply State.depart_kept
    | split

theorem State.hearLink_kept {s : State} {f path : Nat} (h0 : Kept aim s) : Kept aim (State.hearLink s f path) := by
  unfold State.hearLink
  dsimp only
  repeat' first
    | with_reducible assumption
    | with_reducible apply State.setMember_kept
    | with_reducible apply State.raise_kept
    | with_reducible exact keep_rfl
    | split

theorem State.linkSilent_kept {s : State} {f link : Nat} (h0 : Kept aim s) : Kept aim (State.linkSilent s f link) := by
  unfold State.linkSilent
  try dsimp only
  repeat' first
    | with_reducible assumption
    | (with_reducible intro _)
    | with_reducible apply kept_foldl
    | with_reducible apply State.setMember_kept
    | with_reducible apply State.noteSilence_kept
    | with_reducible apply State.raise_kept
    | with_reducible apply keptOut_next
    | with_reducible exact keptOut_fault
    | with_reducible exact keep_rfl
    | exact fun _ => by decide
    | exact by decide
    | split

theorem execHeartbeat_kept {path : Path} {h : CoordHdr} {_t32 : T32} {role mode flags _deputy _members : Nat} {s : State}
    (h0 : Kept aim s) : KeptOut aim (execHeartbeat path h _t32 role mode flags _deputy _members s) := by
  unfold execHeartbeat
  try dsimp only
  repeat' first
    | with_reducible assumption
    | (with_reducible intro _)
    | with_reducible apply kept_foldl
    | with_reducible apply State.receiveMsg_kept
    | with_reducible apply State.linkSilent_kept
    | with_reducible apply State.hearLink_kept
    | with_reducible apply State.setMember_kept
    | with_reducible apply State.noteSilence_kept
    | with_reducible apply State.noteManager_kept
    | with_reducible apply State.reviewChange_kept
    | with_reducible apply keptOut_next
    | with_reducible exact keptOut_fault
    | with_reducible exact keep_rfl
    | exact fun _ => by decide
    | exact by decide
    | split

theorem execCoordTimeout_kept {peer link : Nat} {s : State} (h0 : Kept aim s) : KeptOut aim (execCoordTimeout peer link s) := by
  unfold execCoordTimeout
  try dsimp only
  repeat' first
    | with_reducible assumption
    | (with_reducible intro _)
    | with_reducible apply kept_foldl
    | with_reducible apply done_kept
    | with_reducible apply State.linkSilent_kept
    | with_reducible apply Offer.next_kept
    | with_reducible apply keptOut_next
    | with_reducible exact keptOut_fault
    | with_reducible exact keep_rfl
    | exact fun _ => by decide
    | exact by decide
    | split

theorem execCoordHeartbeatSend_kept {s : State} (h0 : Kept aim s) : KeptOut aim (execCoordHeartbeatSend s) := by
  unfold execCoordHeartbeatSend
  repeat' first
    | with_reducible assumption
    | (with_reducible intro _)
    | with_reducible apply kept_foldl
    | with_reducible apply Offer.next_kept
    | with_reducible apply done_kept
    | with_reducible apply State.sendGroup_kept
    | with_reducible apply State.newMsg_kept
    | with_reducible apply keptOut_next
    | (simp only [kept_mk]; with_reducible refine keptMk_of ?_ ?_ ?_ ?_ ?_)
    | with_reducible exact keep_rfl
    | split

theorem execCoordLinkUp_kept {link : Nat} {s : State} (h0 : Kept aim s) : KeptOut aim (execCoordLinkUp link s) := by
  unfold execCoordLinkUp
  repeat' first
    | with_reducible assumption
    | with_reducible apply Offer.next_kept
    | with_reducible apply done_kept
    | with_reducible apply keptOut_next
    | with_reducible exact keptOut_fault
    | (simp only [kept_mk]; with_reducible refine keptMk_of ?_ ?_ ?_ ?_ ?_)
    | with_reducible exact keep_rfl
    | split

theorem execCoordLinkDown_kept {link : Nat} {s : State} (h0 : Kept aim s) : KeptOut aim (execCoordLinkDown link s) := by
  unfold execCoordLinkDown
  repeat' first
    | with_reducible assumption
    | (with_reducible intro _)
    | with_reducible apply done_kept
    | with_reducible exact keptOut_fault
    | (simp only [kept_mk]; with_reducible refine keptMk_of ?_ ?_ ?_ ?_ ?_)
    | with_reducible exact keep_rfl
    | split

theorem execLeaveHoldExpiry_kept {peer : Nat} {s : State} (h0 : Kept aim s) : KeptOut aim (execLeaveHoldExpiry peer s) := by
  unfold execLeaveHoldExpiry
  repeat' first
    | with_reducible assumption
    | with_reducible apply Offer.next_kept
    | with_reducible apply done_kept
    | with_reducible apply State.removeMember_kept
    | with_reducible apply keptOut_next
    | with_reducible exact keptOut_fault
    | with_reducible exact keep_rfl
    | split

theorem execAck_kept {path : Path} {h : CoordHdr} {acked _status : Nat} {s : State} (h0 : Kept aim s) :
    KeptOut aim (execAck path h acked _status s) := by
  unfold execAck
  try dsimp only
  repeat' first
    | with_reducible assumption
    | (with_reducible intro _)
    | with_reducible apply kept_foldl
    | with_reducible apply State.receiveMsg_kept
    | with_reducible apply State.nextMsg_kept
    | with_reducible apply keptOut_next
    | with_reducible exact keptOut_fault
    | (simp only [kept_mk]; with_reducible refine keptMk_of ?_ ?_ ?_ ?_ ?_)
    | with_reducible exact keep_rfl

theorem State.sendCommit_kept {s : State} {dst : List Nat} {epoch mode : Nat} {t : T32} (h0 : Kept aim s) :
    Kept aim (State.sendCommit s dst epoch mode t) := by
  unfold State.sendCommit
  repeat' first
    | with_reducible assumption
    | (with_reducible intro _)
    | with_reducible apply State.sendAll_kept

theorem State.sendAbort_kept {s : State} {dst : List Nat} {epoch : Nat} (h0 : Kept aim s) :
    Kept aim (State.sendAbort s dst epoch) := by
  unfold State.sendAbort
  repeat' first
    | with_reducible assumption
    | (with_reducible intro _)
    | with_reducible apply State.sendAll_kept

/-- A mode change that a device is ready for names a mode that can be commanded. -/
theorem changeStatus_mode {s : State} {epoch mode : Nat} (h : (s.changeStatus epoch mode == stOk) = true) : mode ≤ 11 := by
  unfold State.changeStatus at h
  split at h
  · cases h
  · split at h
    · cases h
    · rename_i _ hc
      simp only [Bool.not_eq_true, Bool.not_eq_false', List.contains_iff_mem] at hc
      have hall : ∀ m, ∀ x ∈ commanded m, x ≤ 11 := by
        intro m x hx
        unfold commanded at hx
        repeat' split at hx
        all_goals simp at hx
        all_goals omega
      exact hall _ _ hc

theorem execPrepare_kept {path : Path} {h : CoordHdr} {newEpoch mode : Nat} {t : T32} {members : Nat} {s : State}
    (h0 : Kept aim s) :
    KeptOut aim (execPrepare path h newEpoch mode t members s) := by
  unfold execPrepare
  refine State.receiveMsg_kept h0 fun z hz => ?_
  dsimp only
  split
  · exact hz
  · split
    · rename_i hs
      apply State.sendMsg_kept
      refine kept_core hz rfl fun _ ⟨b1, b2, b3, _⟩ => ⟨b1, b2, b3, ?_⟩
      intro a e
      cases e
      exact changeStatus_mode hs
    · exact State.sendMsg_kept hz

theorem State.commitChange_kept {s : State} {c : Change} (h0 : Kept aim s) : Kept aim (State.commitChange s c) := by
  unfold State.commitChange
  dsimp only
  apply State.sendCommit_kept
  refine kept_core h0 rfl fun _ ⟨b1, b2, b3, b4⟩ => ⟨b1, b2, b3, ?_⟩
  intro a e
  obtain ⟨x, hx, rfl⟩ := Option.map_eq_some_iff.mp (show s.hier.staged.map _ = some a from e)
  have := b4 x hx
  split <;> exact this

theorem State.abortChange_kept {s : State} {c : Change} {status first : Nat} (h0 : Kept aim s) :
    Kept aim (State.abortChange s c status first) := by
  unfold State.abortChange
  dsimp only
  apply State.raise_kept
  apply State.finishKind_kept
  apply State.sendAbort_kept
  refine kept_core h0 rfl fun _ ⟨b1, b2, b3, b4⟩ => ⟨b1, b2, b3, ?_⟩
  intro a e
  exact b4 a (Option.filter_eq_some_iff.mp (show s.hier.staged.filter _ = some a from e)).1

theorem State.openChange_kept {s : State} {c : Change} (hm : aim.inv → c.mode ≤ 11) (h0 : Kept aim s) :
    Kept aim (State.openChange s c) := by
  unfold State.openChange
  refine kept_core h0 rfl fun hp ⟨b1, b2, b3, b4⟩ => ⟨b1, b2, b3, ?_⟩
  intro a e
  dsimp only at e
  split at e
  · cases e; exact hm hp
  · exact b4 a e

theorem State.startChange_kept {s : State} {c : Change} (hm : aim.inv → c.mode ≤ 11) (h0 : Kept aim s) :
    Kept aim (State.startChange s c) := by
  unfold State.startChange
  dsimp only
  split
  · exact State.commitChange_kept (State.sendAll_kept (State.openChange_kept hm h0))
  · exact State.sendAll_kept (State.openChange_kept hm h0)

theorem cmdHierModeChange_kept {c : Cmd} {s : State} (h0 : Kept aim s) : Kept aim (cmdHierModeChange c s).st := by
  unfold cmdHierModeChange
  refine gate_kept ?_ h0
  intro c z hz
  dsimp only
  split
  · exact hz
  · rename_i hr
    split
    · exact hz
    · split
      · exact State.raise_kept hz
      · have hm : byteAt c.payload 0 ≤ 11 := by
          simp [inRange] at hr
          have h8 : mdMaintenance = 8 := rfl
          omega
        exact State.startChange_kept (fun _ => hm) hz

theorem execHierModeChange_kept {c : Cmd} {s : State} (h0 : Kept aim s) : KeptOut aim (execHierModeChange c s) := by
  unfold execHierModeChange
  repeat' first
    | with_reducible assumption
    | with_reducible apply serve_kept
    | with_reducible apply cmdHierModeChange_kept

theorem execReady_kept {path : Path} {h : CoordHdr} {newEpoch : Nat} {s : State} (h0 : Kept aim s) :
    KeptOut aim (execReady path h newEpoch s) := by
  unfold execReady
  repeat' first
    | with_reducible assumption
    | (with_reducible intro _)
    | with_reducible apply State.receiveMsg_kept
    | with_reducible apply State.commitChange_kept
    | (simp only [kept_mk]; with_reducible refine keptMk_of ?_ ?_ ?_ ?_ ?_)
    | with_reducible exact keep_rfl
    | split
    | dsimp only

theorem execRefuse_kept {path : Path} {h : CoordHdr} {newEpoch _status : Nat} {s : State} (h0 : Kept aim s) :
    KeptOut aim (execRefuse path h newEpoch _status s) := by
  unfold execRefuse
  try dsimp only
  repeat' first
    | with_reducible assumption
    | (with_reducible intro _)
    | with_reducible apply kept_foldl
    | with_reducible apply State.receiveMsg_kept
    | with_reducible apply State.abortChange_kept
    | with_reducible apply keptOut_next
    | with_reducible exact keptOut_fault
    | with_reducible exact keep_rfl
    | exact fun _ => by decide
    | exact by decide
    | split

theorem execPrepareReplyTimeout_kept {s : State} (h0 : Kept aim s) : KeptOut aim (execPrepareReplyTimeout s) := by
  unfold execPrepareReplyTimeout
  repeat' first
    | with_reducible assumption
    | (with_reducible intro _)
    | with_reducible apply done_kept
    | with_reducible apply State.abortChange_kept
    | with_reducible apply Offer.next_kept
    | with_reducible apply keptOut_next
    | with_reducible exact keep_rfl
    | split

theorem State.applyChange_kept {s : State} {x : Staged} (hn : aim.inv → x.mode ≤ 11) (h0 : Kept aim s) :
    Kept aim (State.applyChange s x) := by
  unfold State.applyChange
  dsimp only
  apply State.reviewChange_kept
  have ha : Kept aim { s with hier.epoch := x.epoch, hier.staged := none, hier.lastChange := some (x.epoch, x.mode) } :=
    kept_core h0 rfl fun _ ⟨b1, b2, b3, _⟩ => ⟨b1, b2, b3, by intro a e; cases e⟩
  split
  · exact ha
  · split
    · refine kept_core ha rfl fun hp ⟨b1, b2, _, b4⟩ => ⟨b1, b2, ?_, b4⟩
      intro a e
      obtain ⟨y, _, rfl⟩ := Option.map_eq_some_iff.mp (show s.fw.act.map _ = some a from e)
      exact hn hp
    · exact State.requestMode_kept hn ha

theorem execCommit_kept {path : Path} {h : CoordHdr} {newEpoch mode : Nat} {t : T32} {s : State} (h0 : Kept aim s) :
    KeptOut aim (execCommit path h newEpoch mode t s) := by
  unfold execCommit
  refine State.receiveMsg_kept h0 fun z hz => ?_
  have hput : ∀ y : Staged, (aim.inv → y.mode ≤ 11) → Kept aim { z with hier.staged := some y } := fun y hy =>
    kept_core hz rfl fun hp ⟨b1, b2, b3, _⟩ => ⟨b1, b2, b3, by intro a e; cases e; exact hy hp⟩
  split
  · exact hz
  · split
    · rename_i x hx
      have hm : aim.inv → x.mode ≤ 11 := fun hp => (hz.2 hp).2.2.2 x hx
      split
      · exact hz
      · split
        · exact hput { x with committed := true, t := t } hm
        · split
          · exact State.bump_kept (State.applyChange_kept hm hz)
          · exact hput { x with committed := true } hm
    · split
      · rename_i hr
        refine hput _ fun _ => ?_
        simp [inRange] at hr
        have h8 : mdMaintenance = 8 := rfl
        show mode ≤ 11
        omega
      · exact hz

theorem execModeCommitDue_kept {s : State} (h0 : Kept aim s) : KeptOut aim (execModeCommitDue s) := by
  unfold execModeCommitDue
  split
  · rename_i x hx
    split
    · exact done_kept h0 (State.applyChange_kept (fun hp => (h0.2 hp).2.2.2 x hx) h0)
    · exact keptOut_next h0
  · exact keptOut_next h0

theorem execAbort_kept {path : Path} {h : CoordHdr} {newEpoch : Nat} {s : State} (h0 : Kept aim s) :
    KeptOut aim (execAbort path h newEpoch s) := by
  unfold execAbort
  refine State.receiveMsg_kept h0 fun z hz => ?_
  split
  · refine kept_core hz rfl fun _ ⟨b1, b2, b3, b4⟩ => ⟨b1, b2, b3, ?_⟩
    intro a e
    exact b4 a (Option.filter_eq_some_iff.mp (show z.hier.staged.filter _ = some a from e)).1
  · exact hz

theorem execCommitUncertain_kept {s : State} (h0 : Kept aim s) : KeptOut aim (execCommitUncertain s) := by
  unfold execCommitUncertain
  split
  · rename_i x hx
    split
    · refine done_kept h0 (State.raise_kept ?_)
      exact kept_core h0 rfl fun _ ⟨b1, b2, b3, b4⟩ => ⟨b1, b2, b3, by intro a e; cases e; exact b4 x hx⟩
    · exact keptOut_next h0
  · exact keptOut_next h0

theorem execModeQuerySend_kept {s : State} (h0 : Kept aim s) : KeptOut aim (execModeQuerySend s) := by
  unfold execModeQuerySend
  repeat' first
    | with_reducible assumption
    | with_reducible apply done_kept
    | with_reducible apply State.sendMsg_kept
    | with_reducible apply Offer.next_kept
    | with_reducible apply keptOut_next
    | (simp only [kept_mk]; with_reducible refine keptMk_of ?_ ?_ ?_ ?_ ?_)
    | with_reducible exact keep_rfl
    | split

theorem execModeQuery_kept {path : Path} {h : CoordHdr} {newEpoch : Nat} {s : State} (h0 : Kept aim s) :
    KeptOut aim (execModeQuery path h newEpoch s) := by
  unfold execModeQuery
  repeat' first
    | with_reducible assumption
    | (with_reducible intro _)
    | with_reducible apply State.receiveMsg_kept
    | with_reducible apply State.sendCommit_kept
    | with_reducible apply State.sendAbort_kept
    | with_reducible exact keep_rfl
    | split
    | dsimp only

theorem execDecisionResend_kept {s : State} (h0 : Kept aim s) : KeptOut aim (execDecisionResend s) := by
  unfold execDecisionResend
  repeat' first
    | with_reducible assumption
    | (with_reducible intro _)
    | with_reducible apply done_kept
    | with_reducible apply State.sendCommit_kept
    | with_reducible apply State.count_kept
    | with_reducible apply Offer.next_kept
    | with_reducible apply keptOut_next
    | (simp only [kept_mk]; with_reducible refine keptMk_of ?_ ?_ ?_ ?_ ?_)
    | with_reducible exact keep_rfl
    | split

theorem execModeChangeDeadline_kept {s : State} (h0 : Kept aim s) : KeptOut aim (execModeChangeDeadline s) := by
  unfold execModeChangeDeadline
  repeat' first
    | with_reducible assumption
    | with_reducible apply done_kept
    | with_reducible apply State.finishKind_kept
    | with_reducible apply State.raise_kept
    | with_reducible apply Offer.next_kept
    | with_reducible apply keptOut_next
    | (simp only [kept_mk]; with_reducible refine keptMk_of ?_ ?_ ?_ ?_ ?_)
    | with_reducible exact keep_rfl
    | split

theorem State.reconcile_kept {s : State} (h0 : Kept aim s) : Kept aim (State.reconcile s) := by
  unfold State.reconcile
  split
  · exact h0
  · rename_i x hx
    dsimp only
    split
    · apply State.reviewChange_kept
      apply State.sendCommit_kept
      refine kept_core h0 rfl fun _ ⟨b1, b2, b3, b4⟩ => ⟨b1, b2, b3, ?_⟩
      intro a e
      cases e
      exact b4 x hx
    · apply State.sendAbort_kept
      exact kept_core h0 rfl fun _ ⟨b1, b2, b3, _⟩ => ⟨b1, b2, b3, by intro a e; cases e⟩

theorem State.takeOver_kept {s : State} (h0 : Kept aim s) : Kept aim (State.takeOver s) := by
  unfold State.takeOver
  dsimp only
  repeat' first
    | with_reducible assumption
    | with_reducible apply State.setRole_kept
    | with_reducible apply State.bump_kept
    | with_reducible apply State.designate_kept
    | with_reducible apply State.sendAll_kept
    | with_reducible apply State.announceTable_kept
    | with_reducible apply State.reconcile_kept
    | with_reducible apply State.raise_kept
    | (simp only [kept_mk]; with_reducible refine keptMk_of ?_ ?_ ?_ ?_ ?_)
    | with_reducible exact keep_rfl

theorem execTakeoverHoldExpiry_kept {s : State} (h0 : Kept aim s) : KeptOut aim (execTakeoverHoldExpiry s) := by
  unfold execTakeoverHoldExpiry
  repeat' first
    | with_reducible assumption
    | (with_reducible intro _)
    | with_reducible apply Offer.next_kept
    | with_reducible apply done_kept
    | with_reducible apply State.takeOver_kept
    | with_reducible apply State.raise_kept
    | with_reducible apply keptOut_next
    | (simp only [kept_mk]; with_reducible refine keptMk_of ?_ ?_ ?_ ?_ ?_)
    | with_reducible exact keep_rfl
    | split

theorem execTakeover_kept {path : Path} {h : CoordHdr} {_oldManager newDeputy : Nat} {s : State} (h0 : Kept aim s) :
    KeptOut aim (execTakeover path h _oldManager newDeputy s) := by
  unfold execTakeover
  repeat' first
    | with_reducible assumption
    | (with_reducible intro _)
    | with_reducible apply State.receiveMsg_kept
    | with_reducible apply State.noteManager_kept
    | with_reducible apply State.setRole_kept
    | (simp only [kept_mk]; with_reducible refine keptMk_of ?_ ?_ ?_ ?_ ?_)
    | with_reducible exact keep_rfl
    | split

theorem cmdHierClaim_kept {c : Cmd} {s : State} (h0 : Kept aim s) : Kept aim (cmdHierClaim c s).st := by
  unfold cmdHierClaim
  repeat' first
    | with_reducible assumption
    | (with_reducible intro _)
    | with_reducible apply gate_kept
    | with_reducible apply State.takeOver_kept
    | with_reducible apply Res.err_kept
    | split

theorem execHierClaim_kept {c : Cmd} {s : State} (h0 : Kept aim s) : KeptOut aim (execHierClaim c s) := by
  unfold execHierClaim
  repeat' first
    | with_reducible assumption
    | with_reducible apply serve_kept
    | with_reducible apply cmdHierClaim_kept

theorem State.endRelay_kept {s : State} {r : Relay} {status : Nat} {result : Bytes}
    {resultLength applied failIndex detail : Nat} (h0 : Kept aim s) :
    Kept aim (State.endRelay s r status result resultLength applied failIndex detail) := by
  unfold State.endRelay
  dsimp only
  repeat' first
    | with_reducible assumption
    | (with_reducible intro _)
    | with_reducible apply kept_foldl
    | with_reducible apply State.distStatus_kept
    | with_reducible apply State.complete_kept
    | (simp only [kept_mk]; with_reducible refine keptMk_of ?_ ?_ ?_ ?_ ?_)
    | with_reducible exact keep_rfl
    | split

theorem execRelayCompletion_kept {path : Path} {h : CoordHdr}
    {relayId offset total status resultLength applied failIndex detail : Nat} {result : Bytes} {s : State} (h0 :
    Kept aim s) :
    KeptOut aim (execRelayCompletion path h relayId offset total status resultLength applied failIndex detail result s) := by
  unfold execRelayCompletion
  repeat' first
    | with_reducible assumption
    | (with_reducible intro _)
    | with_reducible apply State.receiveMsg_kept
    | with_reducible apply State.bump_kept
    | with_reducible apply State.endRelay_kept
    | (simp only [kept_mk]; with_reducible refine keptMk_of ?_ ?_ ?_ ?_ ?_)
    | with_reducible exact keep_rfl
    | split
    | dsimp only

theorem execRelayTimeout_kept {relayId : Nat} {s : State} (h0 : Kept aim s) : KeptOut aim (execRelayTimeout relayId s) := by
  unfold execRelayTimeout
  repeat' first
    | with_reducible assumption
    | (with_reducible intro _)
    | with_reducible apply Offer.next_kept
    | with_reducible apply done_kept
    | with_reducible apply State.endRelay_kept
    | with_reducible apply keptOut_next
    | with_reducible exact keep_rfl
    | split

theorem execRelayEvent_kept {path : Path} {h : CoordHdr} {code t32 : Nat} {data : Bytes} {s : State} (h0 : Kept aim s) :
    KeptOut aim (execRelayEvent path h code t32 data s) := by
  unfold execRelayEvent
  repeat' first
    | with_reducible assumption
    | (with_reducible intro _)
    | with_reducible apply State.receiveMsg_kept
    | with_reducible apply State.writeEvent_kept
    | split

theorem execTimeSyncSend_kept {s : State} (h0 : Kept aim s) : KeptOut aim (execTimeSyncSend s) := by
  unfold execTimeSyncSend
  repeat' first
    | with_reducible assumption
    | (with_reducible intro _)
    | with_reducible apply kept_foldl
    | with_reducible apply Offer.next_kept
    | with_reducible apply done_kept
    | with_reducible apply State.newMsg_kept
    | with_reducible apply keptOut_next
    | (simp only [kept_mk]; with_reducible refine keptMk_of ?_ ?_ ?_ ?_ ?_)
    | with_reducible exact keep_rfl
    | split

theorem execTimeSync_kept {path : Path} {h : CoordHdr} {offset : Int} {newInc : BitVec 40} {step : Option Int}
    {s : State} (h0 : Kept aim s) : KeptOut aim (execTimeSync path h offset newInc step s) := by
  unfold execTimeSync
  repeat' first
    | with_reducible assumption
    | (with_reducible intro _)
    | with_reducible apply State.receiveMsg_kept
    | with_reducible apply State.bump_kept
    | with_reducible apply State.writeInc_kept
    | with_reducible apply State.applyStep_kept
    | with_reducible apply State.refuseStep_kept
    | with_reducible apply State.raise_kept
    | (simp only [kept_mk]; with_reducible refine keptMk_of ?_ ?_ ?_ ?_ ?_)
    | with_reducible exact keep_rfl
    | split
    | dsimp only

theorem execTimeSyncLoss_kept {s : State} (h0 : Kept aim s) : KeptOut aim (execTimeSyncLoss s) := by
  unfold execTimeSyncLoss
  repeat' first
    | with_reducible assumption
    | with_reducible apply done_kept
    | with_reducible apply State.raise_kept
    | with_reducible apply Offer.next_kept
    | with_reducible apply keptOut_next
    | (simp only [kept_mk]; with_reducible refine keptMk_of ?_ ?_ ?_ ?_ ?_)
    | with_reducible exact keep_rfl
    | split

theorem cmdHierarchyConfig_kept {c : Cmd} {s : State} (h0 : Kept aim s) : Kept aim (cmdHierarchyConfig c s).st := by
  unfold cmdHierarchyConfig
  repeat' first
    | with_reducible assumption
    | (with_reducible intro _)
    | with_reducible apply gate_kept
    | with_reducible apply Res.err_kept
    | with_reducible apply State.startElection_kept
    | with_reducible apply State.saveSettings_kept
    | with_reducible apply State.noteIdentity_kept
    | (simp only [kept_mk]; with_reducible refine keptMk_of ?_ ?_ ?_ ?_ ?_)
    | with_reducible exact keep_rfl
    | split
    | dsimp only

theorem execHierarchyConfig_kept {c : Cmd} {s : State} (h0 : Kept aim s) : KeptOut aim (execHierarchyConfig c s) := by
  unfold execHierarchyConfig
  repeat' first
    | with_reducible assumption
    | with_reducible apply serve_kept
    | with_reducible apply cmdHierarchyConfig_kept

theorem cmdHierStatusGet_kept {c : Cmd} {s : State} (h0 : Kept aim s) : Kept aim (cmdHierStatusGet c s).st := by
  unfold cmdHierStatusGet
  repeat' first
    | with_reducible assumption
    | (with_reducible intro _)
    | with_reducible apply gate_kept

theorem execHierStatusGet_kept {c : Cmd} {s : State} (h0 : Kept aim s) : KeptOut aim (execHierStatusGet c s) := by
  unfold execHierStatusGet
  repeat' first
    | with_reducible assumption
    | with_reducible apply serve_kept
    | with_reducible apply cmdHierStatusGet_kept

theorem cmdHierDeputySet_kept {c : Cmd} {s : State} (h0 : Kept aim s) : Kept aim (cmdHierDeputySet c s).st := by
  unfold cmdHierDeputySet
  repeat' first
    | with_reducible assumption
    | (with_reducible intro _)
    | with_reducible apply gate_kept
    | with_reducible apply Res.err_kept
    | with_reducible apply State.designate_kept
    | with_reducible apply State.announceTable_kept
    | (simp only [kept_mk]; with_reducible refine keptMk_of ?_ ?_ ?_ ?_ ?_)
    | with_reducible exact keep_rfl
    | split
    | dsimp only

theorem execHierDeputySet_kept {c : Cmd} {s : State} (h0 : Kept aim s) : KeptOut aim (execHierDeputySet c s) := by
  unfold execHierDeputySet
  repeat' first
    | with_reducible assumption
    | with_reducible apply serve_kept
    | with_reducible apply cmdHierDeputySet_kept

theorem cmdHierMemberRemove_kept {c : Cmd} {s : State} (h0 : Kept aim s) : Kept aim (cmdHierMemberRemove c s).st := by
  unfold cmdHierMemberRemove
  repeat' first
    | with_reducible assumption
    | (with_reducible intro _)
    | with_reducible apply gate_kept
    | with_reducible apply Res.err_kept
    | with_reducible apply State.sendMsg_kept
    | with_reducible apply State.removeMember_kept
    | split
    | dsimp only

theorem execHierMemberRemove_kept {c : Cmd} {s : State} (h0 : Kept aim s) : KeptOut aim (execHierMemberRemove c s) := by
  unfold execHierMemberRemove
  repeat' first
    | with_reducible assumption
    | with_reducible apply serve_kept
    | with_reducible apply cmdHierMemberRemove_kept

theorem cmdHierCountersGet_kept {c : Cmd} {s : State} (h0 : Kept aim s) : Kept aim (cmdHierCountersGet c s).st := by
  unfold cmdHierCountersGet
  repeat' first
    | with_reducible assumption
    | (with_reducible intro _)
    | with_reducible apply gate_kept

theorem execHierCountersGet_kept {c : Cmd} {s : State} (h0 : Kept aim s) : KeptOut aim (execHierCountersGet c s) := by
  unfold execHierCountersGet
  repeat' first
    | with_reducible assumption
    | with_reducible apply serve_kept
    | with_reducible apply cmdHierCountersGet_kept

end Sys2Proof.Machine
end

