-- ==== Sys2Proof/Laws/KeptSnow.lean ====
section
/-! SUPPORT. What Machine/Snow.lean leaves: the queue and the invariant (see Laws/Kept.lean). -/
namespace Sys2Proof.Machine
open Sys2Proof
variable {aim : Aim}

theorem State.snowAccept_kept {s : State} {img : Image} {path : Nat} (h0 : Kept aim s) :
    Kept aim (State.snowAccept s img path) := by
  unfold State.snowAccept
  dsimp only
  repeat' first
    | with_reducible assumption
    | with_reducible apply State.commitRec_kept
    | with_reducible apply State.resetDies_kept
    | (simp only [kept_mk]; with_reducible refine keptMk_of ?_ ?_ ?_ ?_ ?_)
    | with_reducible exact keep_rfl

theorem State.snowTake_kept {s : State} {total offset : Nat} {data : Bytes} {most : Nat} (h0 : Kept aim s) :
    Kept aim (State.snowTake s total offset data most).2 := by
  unfold State.snowTake
  dsimp only
  repeat' first
    | with_reducible assumption
    | (simp only [kept_mk]; with_reducible refine keptMk_of ?_ ?_ ?_ ?_ ?_)
    | with_reducible exact keep_rfl
    | split

theorem State.snowTake_kept_eq {s : State} {total offset : Nat} {data : Bytes} {most : Nat} {a1 : Nat} {a2 : State}
    (h0 : Kept aim s) (e : State.snowTake s total offset data most = (a1, a2)) : Kept aim a2 := by
  have x := State.snowTake_kept (aim := aim) (s := s) (total := total) (offset := offset) (data := data) (most := most) h0
  rw [e] at x
  exact x

theorem State.writeSnowdrop_kept {s : State} {ready : Bool} (h0 : Kept aim s) : Kept aim (State.writeSnowdrop s ready) := by
  unfold State.writeSnowdrop
  try dsimp only
  repeat' first
    | with_reducible assumption
    | (with_reducible intro _)
    | with_reducible apply kept_foldl
    | with_reducible apply State.snowTake_kept
    | (with_reducible refine State.snowTake_kept_eq ?_ (by assumption))
    | with_reducible apply State.snowAccept_kept
    | with_reducible apply keptOut_next
    | with_reducible exact keptOut_fault
    | (simp only [kept_mk]; with_reducible refine keptMk_of ?_ ?_ ?_ ?_ ?_)
    | with_reducible exact keep_rfl
    | exact fun _ => by decide
    | exact by decide
    | split

theorem execImageReady_kept {v : BitVec 32} {s : State} (h0 : Kept aim s) : KeptOut aim (execImageReady v s) := by
  unfold execImageReady
  repeat' first
    | with_reducible assumption
    | with_reducible apply done_kept
    | with_reducible apply State.writeSnowdrop_kept
    | with_reducible apply Offer.next_kept
    | with_reducible apply keptOut_next
    | split

theorem execSnowdropOfferSend_kept {s : State} (h0 : Kept aim s) : KeptOut aim (execSnowdropOfferSend s) := by
  unfold execSnowdropOfferSend
  repeat' first
    | with_reducible assumption
    | with_reducible apply Offer.next_kept
    | with_reducible apply done_kept
    | with_reducible apply State.newMsg_kept
    | with_reducible apply keptOut_next
    | (simp only [kept_mk]; with_reducible refine keptMk_of ?_ ?_ ?_ ?_ ?_)
    | with_reducible exact keep_rfl
    | split

theorem execSnowdropChunk_kept {path : Path} {h : CoordHdr} {total offset : Nat} {data : Bytes} {s : State}
    (h0 : Kept aim s) : KeptOut aim (execSnowdropChunk path h total offset data s) := by
  unfold execSnowdropChunk
  refine iteInduction (fun _ => keptOut_fault) fun _ => ?_
  refine iteInduction (fun _ => keptOut_next h0) fun _ => ?_
  refine iteInduction (fun _ => done_kept h0 (State.bump_kept h0)) fun _ => ?_
  refine iteInduction (fun _ => keptOut_next h0) fun _ => ?_
  have hb : Kept aim (if bit h.flags 1 then (s.bump 1512 1 0).newMsg 0 { type := 0x02, dst := some h.src, ack := false, body := toBe 4 h.msgSeq ++ zeros 4 } else s.bump 1512 1 0) :=
    iteInduction (motive := Kept aim) (fun _ => State.newMsg_kept (State.bump_kept h0)) fun _ => State.bump_kept h0
  extract_lets reply a b x c answer r src src2 t u
  replace hb : Kept aim b := hb
  have hc : Kept aim c := State.setMember_kept hb
  have ha : ∀ t code, Kept aim t → Kept aim (answer t code) := fun t code ht => State.newMsg_kept ht
  refine iteInduction (fun _ => done_kept h0 hb) fun _ => ?_
  refine iteInduction (fun _ => done_kept h0 (ha _ _ hc)) fun _ => ?_
  have hr : Kept aim r.2 := State.snowTake_kept hc
  have ht : Kept aim t := iteInduction (motive := Kept aim) (fun _ => kept_core hr rfl fun _ b => b) fun _ => hr
  have hu : Kept aim u := ha _ _ ht
  exact done_kept h0 (iteInduction (motive := Kept aim) (fun _ => State.snowAccept_kept hu) fun _ => hu)

theorem execSnowdropOffer_kept {path : Path} {h : CoordHdr} {dieIds : Bytes} {_cause : Nat} {s : State} (h0 : Kept aim s) :
    KeptOut aim (execSnowdropOffer path h dieIds _cause s) := by
  unfold execSnowdropOffer
  repeat' first
    | with_reducible assumption
    | (with_reducible intro _)
    | with_reducible apply State.receiveMsg_kept
    | (simp only [kept_mk]; with_reducible refine keptMk_of ?_ ?_ ?_ ?_ ?_)
    | with_reducible exact keep_rfl
    | split

theorem State.pushChunk_kept {s : State} {f offset : Nat} (h0 : Kept aim s) : Kept aim (State.pushChunk s f offset) :=
  State.newMsg_kept (kept_core h0 rfl fun _ b => b)

theorem State.endPush_kept {s : State} {f status detail : Nat} (h0 : Kept aim s) :
    Kept aim (State.endPush s f status detail) := by
  unfold State.endPush
  repeat' first
    | with_reducible assumption
    | with_reducible apply State.finishKind_kept
    | (simp only [kept_mk]; with_reducible refine keptMk_of ?_ ?_ ?_ ?_ ?_)
    | with_reducible exact keep_rfl

theorem execSnowdropResult_kept {path : Path} {h : CoordHdr} {code nextOffset : Nat} {s : State} (h0 : Kept aim s) :
    KeptOut aim (execSnowdropResult path h code nextOffset s) := by
  unfold execSnowdropResult
  repeat' first
    | with_reducible assumption
    | (with_reducible intro _)
    | with_reducible apply State.receiveMsg_kept
    | with_reducible apply State.pushChunk_kept
    | with_reducible apply State.endPush_kept
    | (simp only [kept_mk]; with_reducible refine keptMk_of ?_ ?_ ?_ ?_ ?_)
    | with_reducible exact keep_rfl
    | split

theorem cmdFwSnowdropPush_kept {c : Cmd} {s : State} (h0 : Kept aim s) : Kept aim (cmdFwSnowdropPush c s).st := by
  unfold cmdFwSnowdropPush
  repeat' first
    | with_reducible assumption
    | (with_reducible intro _)
    | with_reducible apply gate_kept
    | with_reducible apply Res.err_kept
    | with_reducible apply State.pushChunk_kept
    | split
    | dsimp only

theorem execFwSnowdropPush_kept {c : Cmd} {s : State} (h0 : Kept aim s) : KeptOut aim (execFwSnowdropPush c s) := by
  unfold execFwSnowdropPush
  repeat' first
    | with_reducible assumption
    | with_reducible apply serve_kept
    | with_reducible apply cmdFwSnowdropPush_kept

theorem State.msgFailed_kept {s : State} {m : Msg} (h0 : Kept aim s) : Kept aim (State.msgFailed s m) := by
  unfold State.msgFailed
  dsimp only
  repeat' first
    | with_reducible assumption
    | with_reducible apply State.bump_kept
    | with_reducible apply State.startElection_kept
    | with_reducible apply State.endPush_kept
    | (simp only [kept_mk]; with_reducible refine keptMk_of ?_ ?_ ?_ ?_ ?_)
    | with_reducible exact keep_rfl
    | split

theorem execMessageResend_kept {msgSeq : Nat} {s : State} (h0 : Kept aim s) : KeptOut aim (execMessageResend msgSeq s) := by
  unfold execMessageResend
  try dsimp only
  repeat' first
    | with_reducible assumption
    | (with_reducible intro _)
    | with_reducible apply kept_foldl
    | with_reducible apply Offer.next_kept
    | with_reducible apply done_kept
    | with_reducible apply State.msgFailed_kept
    | with_reducible apply State.nextMsg_kept
    | with_reducible apply State.putMsg_kept
    | with_reducible apply keptOut_next
    | with_reducible exact keptOut_fault
    | (simp only [kept_mk]; with_reducible refine keptMk_of ?_ ?_ ?_ ?_ ?_)
    | with_reducible exact keep_rfl
    | exact fun _ => by decide
    | exact by decide
    | split

end Sys2Proof.Machine
end

