-- ==== Sys2Proof/Laws/KeptTelemetry.lean ====
section
/-! SUPPORT. What Machine/Telemetry.lean leaves: the queue and the invariant (see Laws/Kept.lean). -/
namespace Sys2Proof.Machine
open Sys2Proof
variable {aim : Aim}

theorem State.perfCycles_kept {s : State} (h0 : Kept aim s) : Kept aim (State.perfCycles s) := by
  unfold State.perfCycles
  try dsimp only
  repeat' first
    | with_reducible assumption
    | (with_reducible intro _)
    | with_reducible apply kept_foldl
    | with_reducible apply State.perfAdd_kept

theorem cmdPerfCounterConfig_kept {c : Cmd} {s : State} (h0 : Kept aim s) : Kept aim (cmdPerfCounterConfig c s).st := by
  unfold cmdPerfCounterConfig
  repeat' first
    | with_reducible assumption
    | (with_reducible intro _)
    | with_reducible apply gate_kept
    | with_reducible apply Res.err_kept
    | with_reducible apply State.setPerf_kept
    | with_reducible exact keep_rfl
    | split
    | dsimp only

theorem execPerfCounterConfig_kept {c : Cmd} {s : State} (h0 : Kept aim s) : KeptOut aim (execPerfCounterConfig c s) := by
  unfold execPerfCounterConfig
  repeat' first
    | with_reducible assumption
    | with_reducible apply serve_kept
    | with_reducible apply cmdPerfCounterConfig_kept

theorem State.perfOp_kept {s : State} {op fe tm : Nat} (h0 : Kept aim s) : Kept aim (State.perfOp s op fe tm) := by
  unfold State.perfOp
  repeat' first
    | with_reducible assumption
    | (with_reducible intro _)
    | with_reducible apply kept_foldl
    | with_reducible apply State.setPerf_kept

theorem cmdPerfControl_kept {c : Cmd} {s : State} (h0 : Kept aim s) : Kept aim (cmdPerfControl c s).st := by
  unfold cmdPerfControl
  try dsimp only
  repeat' first
    | with_reducible assumption
    | (with_reducible intro _)
    | with_reducible apply kept_foldl
    | with_reducible apply gate_kept
    | with_reducible apply Res.err_kept
    | with_reducible apply State.perfOp_kept
    | with_reducible apply keptOut_next
    | with_reducible exact keptOut_fault
    | (simp only [kept_mk]; with_reducible refine keptMk_of ?_ ?_ ?_ ?_ ?_)
    | with_reducible exact keep_rfl
    | exact fun _ => by decide
    | exact by decide
    | split

theorem execPerfControl_kept {c : Cmd} {s : State} (h0 : Kept aim s) : KeptOut aim (execPerfControl c s) := by
  unfold execPerfControl
  repeat' first
    | with_reducible assumption
    | with_reducible apply serve_kept
    | with_reducible apply cmdPerfControl_kept

theorem State.perfTick_kept {s : State} (h0 : Kept aim s) : Kept aim (State.perfTick s) := by
  unfold State.perfTick
  try dsimp only
  repeat' first
    | with_reducible assumption
    | (with_reducible intro _)
    | with_reducible apply kept_foldl
    | with_reducible apply State.perfCycles_kept
    | with_reducible apply State.perfOp_kept
    | with_reducible apply keptOut_next
    | with_reducible exact keptOut_fault
    | (simp only [kept_mk]; with_reducible refine keptMk_of ?_ ?_ ?_ ?_ ?_)
    | with_reducible exact keep_rfl

theorem execPerfControlDue_kept {s : State} (h0 : Kept aim s) : KeptOut aim (execPerfControlDue s) := by
  unfold execPerfControlDue
  try dsimp only
  repeat' first
    | with_reducible assumption
    | (with_reducible intro _)
    | with_reducible apply kept_foldl
    | with_reducible apply Offer.next_kept
    | with_reducible apply State.perfOp_kept
    | with_reducible apply done_kept
    | with_reducible apply keptOut_next
    | with_reducible exact keptOut_fault
    | (simp only [kept_mk]; with_reducible refine keptMk_of ?_ ?_ ?_ ?_ ?_)
    | with_reducible exact keep_rfl
    | exact fun _ => by decide
    | exact by decide
    | split

theorem cmdPerfCounterRead_kept {c : Cmd} {s : State} (h0 : Kept aim s) : Kept aim (cmdPerfCounterRead c s).st := by
  unfold cmdPerfCounterRead
  repeat' first
    | with_reducible assumption
    | (with_reducible intro _)
    | with_reducible apply kept_foldl
    | with_reducible apply gate_kept
    | with_reducible apply Res.err_kept
    | with_reducible apply State.setPerf_kept
    | with_reducible exact keep_rfl
    | split
    | dsimp only

theorem execPerfCounterRead_kept {c : Cmd} {s : State} (h0 : Kept aim s) : KeptOut aim (execPerfCounterRead c s) := by
  unfold execPerfCounterRead
  repeat' first
    | with_reducible assumption
    | with_reducible apply serve_kept
    | with_reducible apply cmdPerfCounterRead_kept

theorem execPerfOverflow_kept {die counter : Nat} {s : State} (h0 : Kept aim s) :
    KeptOut aim (execPerfOverflow die counter s) := by
  unfold execPerfOverflow
  repeat' first
    | with_reducible assumption
    | (with_reducible intro _)
    | with_reducible apply kept_foldl
    | with_reducible apply Offer.next_kept
    | with_reducible apply State.setPerf_kept
    | with_reducible apply done_kept
    | with_reducible apply State.perfWrap_kept
    | with_reducible apply keptOut_next
    | with_reducible exact keptOut_fault
    | with_reducible exact keep_rfl
    | split
    | dsimp only

theorem cmdHistogramConfig_kept {c : Cmd} {s : State} (h0 : Kept aim s) : Kept aim (cmdHistogramConfig c s).st := by
  unfold cmdHistogramConfig
  try dsimp only
  repeat' first
    | with_reducible assumption
    | (with_reducible intro _)
    | with_reducible apply kept_foldl
    | with_reducible apply gate_kept
    | with_reducible apply State.count_kept
    | with_reducible apply Res.err_kept
    | with_reducible apply keptOut_next
    | with_reducible exact keptOut_fault
    | (simp only [kept_mk]; with_reducible refine keptMk_of ?_ ?_ ?_ ?_ ?_)
    | with_reducible exact keep_rfl
    | exact fun _ => by decide
    | exact by decide
    | split

theorem execHistogramConfig_kept {c : Cmd} {s : State} (h0 : Kept aim s) : KeptOut aim (execHistogramConfig c s) := by
  unfold execHistogramConfig
  repeat' first
    | with_reducible assumption
    | with_reducible apply serve_kept
    | with_reducible apply cmdHistogramConfig_kept

theorem execHistogramWindowEnd_kept {k : Nat} {s : State} (h0 : Kept aim s) : KeptOut aim (execHistogramWindowEnd k s) := by
  unfold execHistogramWindowEnd
  try dsimp only
  repeat' first
    | with_reducible assumption
    | (with_reducible intro _)
    | with_reducible apply kept_foldl
    | with_reducible apply Offer.next_kept
    | with_reducible apply done_kept
    | with_reducible apply State.writeHist_kept
    | with_reducible apply keptOut_next
    | with_reducible exact keptOut_fault
    | with_reducible exact keep_rfl
    | exact fun _ => by decide
    | exact by decide
    | split

theorem cmdPsampleConfig_kept {c : Cmd} {s : State} (h0 : Kept aim s) : Kept aim (cmdPsampleConfig c s).st := by
  unfold cmdPsampleConfig
  try dsimp only
  repeat' first
    | with_reducible assumption
    | (with_reducible intro _)
    | with_reducible apply kept_foldl
    | with_reducible apply gate_kept
    | with_reducible apply Res.err_kept
    | with_reducible apply keptOut_next
    | with_reducible exact keptOut_fault
    | (simp only [kept_mk]; with_reducible refine keptMk_of ?_ ?_ ?_ ?_ ?_)
    | with_reducible exact keep_rfl
    | exact fun _ => by decide
    | exact by decide
    | split

theorem execPsampleConfig_kept {c : Cmd} {s : State} (h0 : Kept aim s) : KeptOut aim (execPsampleConfig c s) := by
  unfold execPsampleConfig
  repeat' first
    | with_reducible assumption
    | with_reducible apply serve_kept
    | with_reducible apply cmdPsampleConfig_kept

theorem execPsampleRecord_kept {kind unit insn address stall packetId : Nat} {s : State} (h0 : Kept aim s) :
    KeptOut aim (execPsampleRecord kind unit insn address stall packetId s) := by
  unfold execPsampleRecord
  try dsimp only
  repeat' first
    | with_reducible assumption
    | (with_reducible intro _)
    | with_reducible apply kept_foldl
    | with_reducible apply Offer.next_kept
    | with_reducible apply done_kept
    | with_reducible apply State.psample_kept
    | with_reducible apply keptOut_next
    | with_reducible exact keptOut_fault
    | (simp only [kept_mk]; with_reducible refine keptMk_of ?_ ?_ ?_ ?_ ?_)
    | with_reducible exact keep_rfl
    | exact fun _ => by decide
    | exact by decide
    | split

theorem cmdTelemetryConfig_kept {c : Cmd} {s : State} (h0 : Kept aim s) : Kept aim (cmdTelemetryConfig c s).st := by
  unfold cmdTelemetryConfig
  repeat' first
    | with_reducible assumption
    | (with_reducible intro _)
    | with_reducible apply gate_kept
    | with_reducible apply Res.err_kept
    | with_reducible apply State.retain_kept
    | with_reducible apply State.closeBlock_kept
    | with_reducible apply State.drainRing_kept
    | (simp only [kept_mk]; with_reducible refine keptMk_of ?_ ?_ ?_ ?_ ?_)
    | with_reducible exact keep_rfl
    | split
    | dsimp only

theorem execTelemetryConfig_kept {c : Cmd} {s : State} (h0 : Kept aim s) : KeptOut aim (execTelemetryConfig c s) := by
  unfold execTelemetryConfig
  repeat' first
    | with_reducible assumption
    | with_reducible apply serve_kept
    | with_reducible apply cmdTelemetryConfig_kept

theorem execTelemetryFlush_kept {s : State} (h0 : Kept aim s) : KeptOut aim (execTelemetryFlush s) := by
  unfold execTelemetryFlush
  try dsimp only
  repeat' first
    | with_reducible assumption
    | (with_reducible intro _)
    | with_reducible apply kept_foldl
    | with_reducible apply Offer.next_kept
    | with_reducible apply done_kept
    | with_reducible apply State.closeBlock_kept
    | with_reducible apply keptOut_next
    | with_reducible exact keptOut_fault
    | with_reducible exact keep_rfl
    | exact fun _ => by decide
    | exact by decide
    | split

theorem cmdTelemetryCountersGet_kept {c : Cmd} {s : State} (h0 : Kept aim s) : Kept aim (cmdTelemetryCountersGet c s).st := by
  unfold cmdTelemetryCountersGet
  repeat' first
    | with_reducible assumption
    | (with_reducible intro _)
    | with_reducible apply gate_kept

theorem execTelemetryCountersGet_kept {c : Cmd} {s : State} (h0 : Kept aim s) : KeptOut aim (execTelemetryCountersGet c s) := by
  unfold execTelemetryCountersGet
  repeat' first
    | with_reducible assumption
    | with_reducible apply serve_kept
    | with_reducible apply cmdTelemetryCountersGet_kept

end Sys2Proof.Machine
end

