-- ==== Sys2Proof/Laws/KeptPackage.lean ====
section
/-! SUPPORT. What Machine/Package.lean leaves: the queue and the invariant (see Laws/Kept.lean). -/
namespace Sys2Proof.Machine
open Sys2Proof
variable {aim : Aim}

theorem State.latch_kept {s : State} {b : Nat} (h0 : Kept aim s) : Kept aim (State.latch s b) := h0

theorem State.auxReset_kept {s : State} (h0 : Kept aim s) : Kept aim (State.auxReset s) := h0

theorem State.hold_kept {s : State} (h0 : Kept aim s) : Kept aim (State.hold s) := by
  unfold State.hold
  repeat' first
    | with_reducible assumption
    | with_reducible apply State.resetDies_kept
    | (simp only [kept_mk]; with_reducible refine keptMk_of ?_ ?_ ?_ ?_ ?_)
    | with_reducible exact keep_rfl

theorem execVauxChange_kept {millivolt : Nat} {s : State} (h0 : Kept aim s) : KeptOut aim (execVauxChange millivolt s) := by
  unfold execVauxChange
  dsimp only
  repeat' first
    | with_reducible assumption
    | with_reducible apply done_kept
    | with_reducible apply State.auxReset_kept
    | (simp only [kept_mk]; with_reducible refine keptMk_of ?_ ?_ ?_ ?_ ?_)
    | with_reducible exact keep_rfl
    | split

theorem execMainPowerLoss_kept {s : State} (h0 : Kept aim s) : KeptOut aim (execMainPowerLoss s) := by
  unfold execMainPowerLoss
  repeat' first
    | with_reducible assumption
    | with_reducible apply Offer.next_kept
    | with_reducible apply State.resetDies_kept
    | with_reducible apply done_kept
    | with_reducible apply State.latch_kept
    | with_reducible apply keptOut_next
    | (simp only [kept_mk]; with_reducible refine keptMk_of ?_ ?_ ?_ ?_ ?_)
    | with_reducible exact keep_rfl
    | (with_reducible refine keep_mode ?_; rintro ⟨b1, b2, b3⟩; refine ⟨?_, ?_, ?_⟩ <;> dsimp only <;> first | assumption | omega | decide)
    | split

theorem State.railSeen_kept {s : State} {rail : Nat} (h0 : Kept aim s) : Kept aim (State.railSeen s rail) := by
  unfold State.railSeen
  try dsimp only
  repeat' first
    | with_reducible assumption
    | (with_reducible intro _)
    | with_reducible apply kept_foldl
    | with_reducible apply keptOut_next
    | with_reducible exact keptOut_fault
    | (simp only [kept_mk]; with_reducible refine keptMk_of ?_ ?_ ?_ ?_ ?_)
    | with_reducible exact keep_rfl
    | exact fun _ => by decide
    | exact by decide
    | split

theorem execRailFault_kept {rail : Nat} {s : State} (h0 : Kept aim s) : KeptOut aim (execRailFault rail s) := by
  unfold execRailFault
  try dsimp only
  repeat' first
    | with_reducible assumption
    | (with_reducible intro _)
    | with_reducible apply kept_foldl
    | with_reducible apply Offer.next_kept
    | with_reducible apply State.railSeen_kept
    | with_reducible apply State.latch_kept
    | with_reducible apply done_kept
    | with_reducible apply State.hold_kept
    | with_reducible apply State.quarantine_kept
    | with_reducible apply keptOut_next
    | with_reducible exact keptOut_fault
    | with_reducible exact keep_rfl
    | exact fun _ => by decide
    | exact by decide
    | split

theorem execRailsBackInWindow_kept {s : State} (h0 : Kept aim s) : KeptOut aim (execRailsBackInWindow s) := by
  unfold execRailsBackInWindow
  repeat' first
    | with_reducible assumption
    | with_reducible apply Offer.next_kept
    | with_reducible apply done_kept
    | with_reducible apply keptOut_next
    | (simp only [kept_mk]; with_reducible refine keptMk_of ?_ ?_ ?_ ?_ ?_)
    | with_reducible exact keep_rfl
    | split

theorem State.powerUp_kept {s : State} (h0 : Kept aim s) : Kept aim (State.powerUp s) := by
  unfold State.powerUp
  repeat' first
    | with_reducible assumption
    | with_reducible apply State.resetDies_kept
    | (simp only [kept_mk]; with_reducible refine keptMk_of ?_ ?_ ?_ ?_ ?_)
    | with_reducible exact keep_rfl

theorem execMainRailsGood_kept {s : State} (h0 : Kept aim s) : KeptOut aim (execMainRailsGood s) := by
  unfold execMainRailsGood
  try dsimp only
  repeat' first
    | with_reducible assumption
    | (with_reducible intro _)
    | with_reducible apply kept_foldl
    | with_reducible apply done_kept
    | with_reducible apply State.powerUp_kept
    | with_reducible apply keptOut_next
    | with_reducible exact keptOut_fault
    | (simp only [kept_mk]; with_reducible refine keptMk_of ?_ ?_ ?_ ?_ ?_)
    | with_reducible exact keep_rfl
    | exact fun _ => by decide
    | exact by decide
    | split

theorem execRootPllLock_kept {s : State} (h0 : Kept aim s) : KeptOut aim (execRootPllLock s) := by
  unfold execRootPllLock
  repeat' first
    | with_reducible assumption
    | with_reducible apply Offer.next_kept
    | with_reducible apply done_kept
    | with_reducible apply keptOut_next
    | (simp only [kept_mk]; with_reducible refine keptMk_of ?_ ?_ ?_ ?_ ?_)
    | with_reducible exact keep_rfl
    | split

theorem execPllLockRetry_kept {s : State} (h0 : Kept aim s) : KeptOut aim (execPllLockRetry s) := by
  unfold execPllLockRetry
  try dsimp only
  repeat' first
    | with_reducible assumption
    | (with_reducible intro _)
    | with_reducible apply kept_foldl
    | with_reducible apply done_kept
    | with_reducible apply Offer.next_kept
    | with_reducible apply keptOut_next
    | with_reducible exact keptOut_fault
    | (simp only [kept_mk]; with_reducible refine keptMk_of ?_ ?_ ?_ ?_ ?_)
    | with_reducible exact keep_rfl
    | exact fun _ => by decide
    | exact by decide
    | split

theorem execRootPllLoss_kept {s : State} (h0 : Kept aim s) : KeptOut aim (execRootPllLoss s) := by
  unfold execRootPllLoss
  try dsimp only
  repeat' first
    | with_reducible assumption
    | (with_reducible intro _)
    | with_reducible apply kept_foldl
    | with_reducible apply Offer.next_kept
    | with_reducible apply done_kept
    | with_reducible apply State.hold_kept
    | with_reducible apply State.latch_kept
    | with_reducible apply State.pllSteps_kept
    | with_reducible apply State.quarantinePll_kept
    | with_reducible apply keptOut_next
    | with_reducible exact keptOut_fault
    | with_reducible exact keep_rfl
    | exact fun _ => by decide
    | exact by decide
    | split

theorem State.noteTemp_kept {s : State} {sensor : Nat} {t : Int} (h0 : Kept aim s) : Kept aim (State.noteTemp s sensor t) := h0

theorem execThermalAlarm_kept {sensor : Nat} {tempC : Int} {s : State} (h0 : Kept aim s) :
    KeptOut aim (execThermalAlarm sensor tempC s) := by
  unfold execThermalAlarm
  repeat' first
    | with_reducible assumption
    | (with_reducible intro _)
    | with_reducible apply Offer.next_kept
    | with_reducible apply State.noteTemp_kept
    | with_reducible apply State.raise_kept
    | with_reducible apply done_kept
    | with_reducible apply keptOut_next
    | with_reducible exact keptOut_fault
    | (simp only [kept_mk]; with_reducible refine keptMk_of ?_ ?_ ?_ ?_ ?_)
    | with_reducible exact keep_rfl
    | split
    | dsimp only

theorem execThermalTrip_kept {sensor : Nat} {tempC : Int} {s : State} (h0 : Kept aim s) :
    KeptOut aim (execThermalTrip sensor tempC s) := by
  unfold execThermalTrip
  repeat' first
    | with_reducible assumption
    | with_reducible apply Offer.next_kept
    | with_reducible apply State.noteTemp_kept
    | with_reducible apply State.latch_kept
    | with_reducible apply done_kept
    | with_reducible apply State.hold_kept
    | with_reducible apply State.quarantine_kept
    | with_reducible apply keptOut_next
    | with_reducible exact keptOut_fault
    | (simp only [kept_mk]; with_reducible refine keptMk_of ?_ ?_ ?_ ?_ ?_)
    | with_reducible exact keep_rfl
    | split

theorem execTemperatureLow_kept {sensor : Nat} {tempC : Int} {s : State} (h0 : Kept aim s) :
    KeptOut aim (execTemperatureLow sensor tempC s) := by
  unfold execTemperatureLow
  repeat' first
    | with_reducible assumption
    | with_reducible apply Offer.next_kept
    | with_reducible apply State.noteTemp_kept
    | with_reducible apply done_kept
    | with_reducible apply State.raise_kept
    | with_reducible apply keptOut_next
    | with_reducible exact keptOut_fault
    | (simp only [kept_mk]; with_reducible refine keptMk_of ?_ ?_ ?_ ?_ ?_)
    | with_reducible exact keep_rfl
    | split

theorem State.inputMasked_kept {s : State} {bit_ input : Nat} (h0 : Kept aim s) :
    Kept aim (State.inputMasked s bit_ input) := by
  unfold State.inputMasked
  dsimp only
  repeat' first
    | with_reducible assumption
    | with_reducible apply State.latch_kept
    | with_reducible apply State.raise_kept
    | split

theorem execSysResetAssertion_kept {s : State} (h0 : Kept aim s) : KeptOut aim (execSysResetAssertion s) := by
  unfold execSysResetAssertion
  repeat' first
    | with_reducible assumption
    | with_reducible apply Offer.next_kept
    | with_reducible apply done_kept
    | with_reducible apply State.inputMasked_kept
    | with_reducible apply State.resetDies_kept
    | with_reducible apply keptOut_next
    | (simp only [kept_mk]; with_reducible refine keptMk_of ?_ ?_ ?_ ?_ ?_)
    | with_reducible exact keep_rfl
    | split
    | dsimp only

theorem execSysResetRelease_kept {s : State} (h0 : Kept aim s) : KeptOut aim (execSysResetRelease s) := by
  unfold execSysResetRelease
  dsimp only
  repeat' first
    | with_reducible assumption
    | with_reducible apply done_kept
    | with_reducible apply State.powerUp_kept
    | (simp only [kept_mk]; with_reducible refine keptMk_of ?_ ?_ ?_ ?_ ?_)
    | with_reducible exact keep_rfl
    | split

theorem execResetStuck_kept {s : State} (h0 : Kept aim s) : KeptOut aim (execResetStuck s) := by
  unfold execResetStuck
  repeat' first
    | with_reducible assumption
    | with_reducible apply done_kept
    | with_reducible apply Offer.next_kept
    | with_reducible apply keptOut_next
    | (simp only [kept_mk]; with_reducible refine keptMk_of ?_ ?_ ?_ ?_ ?_)
    | with_reducible exact keep_rfl
    | split

theorem execPerstAssertion_kept {s : State} (h0 : Kept aim s) : KeptOut aim (execPerstAssertion s) := by
  unfold execPerstAssertion
  try dsimp only
  repeat' first
    | with_reducible assumption
    | (with_reducible intro _)
    | with_reducible apply kept_foldl
    | with_reducible apply Offer.next_kept
    | with_reducible apply done_kept
    | with_reducible apply State.inputMasked_kept
    | with_reducible apply State.linkReset_kept
    | with_reducible apply keptOut_next
    | with_reducible exact keptOut_fault
    | (simp only [kept_mk]; with_reducible refine keptMk_of ?_ ?_ ?_ ?_ ?_)
    | with_reducible exact keep_rfl
    | exact fun _ => by decide
    | exact by decide
    | split

theorem execPerstUnmaskTimeout_kept {s : State} (h0 : Kept aim s) : KeptOut aim (execPerstUnmaskTimeout s) := by
  unfold execPerstUnmaskTimeout
  repeat' first
    | with_reducible assumption
    | with_reducible apply done_kept
    | with_reducible apply Offer.next_kept
    | with_reducible apply keptOut_next
    | (simp only [kept_mk]; with_reducible refine keptMk_of ?_ ?_ ?_ ?_ ?_)
    | with_reducible exact keep_rfl
    | split

theorem execRecoveryStuck_kept {s : State} (h0 : Kept aim s) : KeptOut aim (execRecoveryStuck s) := by
  unfold execRecoveryStuck
  repeat' first
    | with_reducible assumption
    | with_reducible apply done_kept
    | (simp only [kept_mk]; with_reducible refine keptMk_of ?_ ?_ ?_ ?_ ?_)
    | with_reducible exact keep_rfl

theorem execAlarmInputChange_kept {input : Nat} {level : Bool} {s : State} (h0 : Kept aim s) :
    KeptOut aim (execAlarmInputChange input level s) := by
  unfold execAlarmInputChange
  try dsimp only
  repeat' first
    | with_reducible assumption
    | (with_reducible intro _)
    | with_reducible apply kept_foldl
    | with_reducible apply Offer.next_kept
    | with_reducible apply done_kept
    | with_reducible apply State.inputMasked_kept
    | with_reducible apply State.raise_kept
    | with_reducible apply keptOut_next
    | with_reducible exact keptOut_fault
    | (simp only [kept_mk]; with_reducible refine keptMk_of ?_ ?_ ?_ ?_ ?_)
    | with_reducible exact keep_rfl
    | exact fun _ => by decide
    | exact by decide
    | split

theorem execAuxHeartbeat_kept {s : State} (h0 : Kept aim s) : KeptOut aim (execAuxHeartbeat s) := by
  unfold execAuxHeartbeat
  try dsimp only
  repeat' first
    | with_reducible assumption
    | (with_reducible intro _)
    | with_reducible apply kept_foldl
    | with_reducible apply Offer.next_kept
    | with_reducible apply done_kept
    | with_reducible apply keptOut_next
    | with_reducible exact keptOut_fault
    | (simp only [kept_mk]; with_reducible refine keptMk_of ?_ ?_ ?_ ?_ ?_)
    | with_reducible exact keep_rfl
    | exact fun _ => by decide
    | exact by decide
    | split

theorem execAuxRegisterWrite_kept {reg : Nat} {v : BitVec 32} {s : State} (h0 : Kept aim s) :
    KeptOut aim (execAuxRegisterWrite reg v s) := by
  unfold execAuxRegisterWrite
  try dsimp only
  repeat' first
    | with_reducible assumption
    | (with_reducible intro _)
    | with_reducible apply kept_foldl
    | with_reducible apply Offer.next_kept
    | with_reducible apply done_kept
    | with_reducible apply keptOut_next
    | with_reducible exact keptOut_fault
    | (simp only [kept_mk]; with_reducible refine keptMk_of ?_ ?_ ?_ ?_ ?_)
    | with_reducible exact keep_rfl
    | exact fun _ => by decide
    | exact by decide
    | split

theorem cmdPkgStatusGet_kept {c : Cmd} {s : State} (h0 : Kept aim s) : Kept aim (cmdPkgStatusGet c s).st := by
  unfold cmdPkgStatusGet
  repeat' first
    | with_reducible assumption
    | (with_reducible intro _)
    | with_reducible apply gate_kept

theorem execPkgStatusGet_kept {c : Cmd} {s : State} (h0 : Kept aim s) : KeptOut aim (execPkgStatusGet c s) := by
  unfold execPkgStatusGet
  repeat' first
    | with_reducible assumption
    | with_reducible apply serve_kept
    | with_reducible apply cmdPkgStatusGet_kept

theorem cmdThermalConfig_kept {c : Cmd} {s : State} (h0 : Kept aim s) : Kept aim (cmdThermalConfig c s).st := by
  unfold cmdThermalConfig
  repeat' first
    | with_reducible assumption
    | (with_reducible intro _)
    | with_reducible apply gate_kept
    | with_reducible apply Res.err_kept
    | (simp only [kept_mk]; with_reducible refine keptMk_of ?_ ?_ ?_ ?_ ?_)
    | with_reducible exact keep_rfl
    | split
    | dsimp only

theorem execThermalConfig_kept {c : Cmd} {s : State} (h0 : Kept aim s) : KeptOut aim (execThermalConfig c s) := by
  unfold execThermalConfig
  repeat' first
    | with_reducible assumption
    | with_reducible apply serve_kept
    | with_reducible apply cmdThermalConfig_kept

theorem cmdAlarmInputConfig_kept {c : Cmd} {s : State} (h0 : Kept aim s) : Kept aim (cmdAlarmInputConfig c s).st := by
  unfold cmdAlarmInputConfig
  try dsimp only
  repeat' first
    | with_reducible assumption
    | (with_reducible intro _)
    | with_reducible apply kept_foldl
    | with_reducible apply gate_kept
    | with_reducible apply Res.err_kept
    | with_reducible apply keptOut_next
    | with_reducible exact keptOut_fault
    | (simp only [kept_mk]; with_reducible refine keptMk_of ?_ ?_ ?_ ?_ ?_)
    | with_reducible exact keep_rfl
    | exact fun _ => by decide
    | exact by decide
    | split

theorem execAlarmInputConfig_kept {c : Cmd} {s : State} (h0 : Kept aim s) : KeptOut aim (execAlarmInputConfig c s) := by
  unfold execAlarmInputConfig
  repeat' first
    | with_reducible assumption
    | with_reducible apply serve_kept
    | with_reducible apply cmdAlarmInputConfig_kept

theorem cmdPkgInputUnmask_kept {c : Cmd} {s : State} (h0 : Kept aim s) : Kept aim (cmdPkgInputUnmask c s).st := by
  unfold cmdPkgInputUnmask
  repeat' first
    | with_reducible assumption
    | (with_reducible intro _)
    | with_reducible apply gate_kept
    | (simp only [kept_mk]; with_reducible refine keptMk_of ?_ ?_ ?_ ?_ ?_)
    | with_reducible exact keep_rfl

theorem execPkgInputUnmask_kept {c : Cmd} {s : State} (h0 : Kept aim s) : KeptOut aim (execPkgInputUnmask c s) := by
  unfold execPkgInputUnmask
  repeat' first
    | with_reducible assumption
    | with_reducible apply serve_kept
    | with_reducible apply cmdPkgInputUnmask_kept

theorem cmdAuxStatusClear_kept {c : Cmd} {s : State} (h0 : Kept aim s) : Kept aim (cmdAuxStatusClear c s).st := by
  unfold cmdAuxStatusClear
  repeat' first
    | with_reducible assumption
    | (with_reducible intro _)
    | with_reducible apply gate_kept
    | with_reducible apply Res.err_kept
    | (simp only [kept_mk]; with_reducible refine keptMk_of ?_ ?_ ?_ ?_ ?_)
    | with_reducible exact keep_rfl
    | split
    | dsimp only

theorem execAuxStatusClear_kept {c : Cmd} {s : State} (h0 : Kept aim s) : KeptOut aim (execAuxStatusClear c s) := by
  unfold execAuxStatusClear
  repeat' first
    | with_reducible assumption
    | with_reducible apply serve_kept
    | with_reducible apply cmdAuxStatusClear_kept

end Sys2Proof.Machine
end

