-- ==== Sys2Proof/Laws/KeptRegisters.lean ====
section
/-! SUPPORT. What Machine/Registers.lean leaves: the queue and the invariant (see Laws/Kept.lean). -/
namespace Sys2Proof.Machine
open Sys2Proof
variable {aim : Aim}

theorem State.vecUnmasked_kept {s : State} {v : Nat} (h0 : Kept aim s) : Kept aim (State.vecUnmasked s v) := by
  unfold State.vecUnmasked
  repeat' first
    | with_reducible assumption
    | with_reducible apply State.setVec_kept
    | with_reducible apply State.bump_kept
    | (simp only [kept_mk]; with_reducible refine keptMk_of ?_ ?_ ?_ ?_ ?_)
    | with_reducible exact keep_rfl
    | split

theorem State.writeDoorbell_kept {s : State} {v : Nat} (h0 : Kept aim s) : Kept aim (State.writeDoorbell s v) := by
  unfold State.writeDoorbell
  repeat' first
    | with_reducible assumption
    | with_reducible apply State.doorbellCmd_kept
    | with_reducible apply State.doorbellEvt_kept
    | with_reducible apply State.doorbellChan_kept
    | with_reducible apply State.doorbellIgnored_kept
    | with_reducible exact keep_rfl
    | split

theorem State.writeBar_kept {s : State} {offset : Nat} {v : BitVec 64} {wide : Bool} (h0 : Kept aim s) :
    Kept aim (State.writeBar s offset v wide) := by
  have hb : Kept aim { s with hif.bar := barWrites s.hif.bar offset (toLe (if wide then 8 else 4) v.toNat) } :=
    kept_hif h0 rfl fun ⟨b1, b2⟩ => ⟨barWrites_wf _ _ b1, b2⟩
  unfold State.writeBar
  refine iteInduction (fun _ => h0) fun _ => ?_
  refine iteInduction (fun _ => State.writeHealth_kept h0) fun _ => ?_
  refine iteInduction (fun _ => State.writeCmdBase_kept h0) fun _ => ?_
  refine iteInduction (fun _ => State.writeCmdBase_kept h0) fun _ => ?_
  refine iteInduction (fun _ => State.writeEvtBase_kept h0) fun _ => ?_
  refine iteInduction (fun _ => State.writeEvtBase_kept h0) fun _ => ?_
  refine iteInduction (fun _ => State.writeDoorbell_kept h0) fun _ => ?_
  refine iteInduction (fun _ => State.writeSnowdrop_kept h0) fun _ => ?_
  refine iteInduction (fun _ => iteInduction (fun _ => hb) fun _ => h0) fun _ => ?_
  exact iteInduction (fun _ => State.vecUnmasked_kept hb) fun _ => h0

theorem execRegisterWrite_kept {offset : Nat} {v : BitVec 64} {wide : Bool} {s : State} (h0 : Kept aim s) :
    KeptOut aim (execRegisterWrite offset v wide s) := by
  unfold execRegisterWrite
  repeat' first
    | with_reducible assumption
    | with_reducible apply done_kept
    | with_reducible apply State.writeBar_kept
    | with_reducible apply Offer.next_kept
    | with_reducible apply keptOut_next
    | split

end Sys2Proof.Machine
end

