-- ==== Sys2Proof/Laws/KeptFetch.lean ====
section
/-! SUPPORT. What Machine/Fetch.lean leaves: the queue and the invariant (see Laws/Kept.lean). -/
namespace Sys2Proof.Machine
open Sys2Proof
variable {aim : Aim}

theorem ops00_kept {op : Nat} {f : CmdFn} (e : ops00 op = some f) : ∀ c s, Kept aim s → Kept aim (f c s).st := by
  unfold ops00 at e
  split at e
  · cases e; exact fun _ _ h => cmdNop_kept h
  · cases e; exact fun _ _ h => cmdDeviceInfoGet_kept h
  · cases e; exact fun _ _ h => cmdEventMaskSet_kept h
  · cases e; exact fun _ _ h => cmdEventMaskGet_kept h
  · cases e; exact fun _ _ h => cmdEcho_kept h
  · cases e

theorem ops01_kept {op : Nat} {f : CmdFn} (e : ops01 op = some f) : ∀ c s, Kept aim s → Kept aim (f c s).st := by
  unfold ops01 at e
  split at e
  · cases e; exact fun _ _ h => cmdPortGroupSetMode_kept h
  · cases e; exact fun _ _ h => cmdPortConfig_kept h
  · cases e; exact fun _ _ h => cmdPortAdmin_kept h
  · cases e; exact fun _ _ h => cmdPortStatusGet_kept h
  · cases e; exact fun _ _ h => cmdPortCountersGet_kept h
  · cases e; exact fun _ _ h => cmdModuleRead_kept h
  · cases e; exact fun _ _ h => cmdModuleWrite_kept h
  · cases e; exact fun _ _ h => cmdModuleIntUnmask_kept h
  · cases e; exact fun _ _ h => cmdLedgerRead_kept h
  · cases e; exact fun _ _ h => cmdLedgerSetRating_kept h
  · cases e; exact fun _ _ h => cmdPortRateRestore_kept h
  · cases e; exact fun _ _ h => cmdModuleMapSet_kept h
  · cases e

theorem ops02_kept {op : Nat} {f : CmdFn} (e : ops02 op = some f) : ∀ c s, Kept aim s → Kept aim (f c s).st := by
  unfold ops02 at e
  split at e
  · cases e; exact fun _ _ h => cmdSecyConfig_kept h
  · cases e; exact fun _ _ h => cmdScSet_kept h
  · cases e; exact fun _ _ h => cmdScClear_kept h
  · cases e; exact fun _ _ h => cmdSaInstall_kept h
  · cases e; exact fun _ _ h => cmdSaEnableRx_kept h
  · cases e; exact fun _ _ h => cmdSaTxSwitch_kept h
  · cases e; exact fun _ _ h => cmdSaDelete_kept h
  · cases e; exact fun _ _ h => cmdSaStatusGet_kept h
  · cases e; exact fun _ _ h => cmdSecyCountersGet_kept h
  · cases e

theorem ops03_kept {op : Nat} {f : CmdFn} (e : ops03 op = some f) : ∀ c s, Kept aim s → Kept aim (f c s).st := by
  unfold ops03 at e
  split at e
  · cases e; exact fun _ _ h => cmdParsePolicySet_kept h
  · cases e; exact fun _ _ h => cmdParsePolicyGet_kept h
  · cases e; exact fun _ _ h => cmdSlowpathClassSet_kept h
  · cases e; exact fun _ _ h => cmdHashProfileSet_kept h
  · cases e; exact fun _ _ h => cmdLbMemberAdd_kept h
  · cases e; exact fun _ _ h => cmdLbMemberRemove_kept h
  · cases e; exact fun _ _ h => cmdLbSlotsSet_kept h
  · cases e; exact fun _ _ h => cmdLbSlotsGet_kept h
  · cases e; exact fun _ _ h => cmdParseCountersGet_kept h
  · cases e; exact fun _ _ h => cmdParseTest_kept h
  · cases e

theorem ops04_kept {op : Nat} {f : CmdFn} (e : ops04 op = some f) : ∀ c s, Kept aim s → Kept aim (f c s).st := by
  unfold ops04 at e
  split at e
  · cases e; exact fun _ _ h => cmdRouteAdd_kept h
  · cases e; exact fun _ _ h => cmdRouteDelete_kept h
  · cases e; exact fun _ _ h => cmdRouteGet_kept h
  · cases e; exact fun _ _ h => cmdLengthReserve_kept h
  · cases e; exact fun _ _ h => cmdNexthopSet_kept h
  · cases e; exact fun _ _ h => cmdEcmpCreate_kept h
  · cases e; exact fun _ _ h => cmdLabelSet_kept h
  · cases e; exact fun _ _ h => cmdEmInsert_kept h
  · cases e; exact fun _ _ h => cmdEmDelete_kept h
  · cases e; exact fun _ _ h => cmdEmTableConfig_kept h
  · cases e; exact fun _ _ h => cmdInterfaceSet_kept h
  · cases e; exact fun _ _ h => cmdRouterMacSet_kept h
  · cases e; exact fun _ _ h => cmdObjRetire_kept h
  · cases e; exact fun _ _ h => cmdObjCountersGet_kept h
  · cases e; exact fun _ _ h => cmdTableRepairDone_kept h
  · cases e; exact fun _ _ h => cmdTableSplitSet_kept h
  · cases e; exact fun _ _ h => cmdLookupConfig_kept h
  · cases e; exact fun _ _ h => cmdTableStatusGet_kept h
  · cases e; exact fun _ _ h => cmdEcmpCountSet_kept h
  · cases e

theorem ops05_kept {op : Nat} {f : CmdFn} (e : ops05 op = some f) : ∀ c s, Kept aim s → Kept aim (f c s).st := by
  unfold ops05 at e
  split at e
  · cases e; exact fun _ _ h => cmdTcamChainConfig_kept h
  · cases e; exact fun _ _ h => cmdTcamChainExtend_kept h
  · cases e; exact fun _ _ h => cmdKeyProfileSet_kept h
  · cases e; exact fun _ _ h => cmdSearchProfileSet_kept h
  · cases e; exact fun _ _ h => cmdSearchProfileMap_kept h
  · cases e; exact fun _ _ h => cmdTcamEntryInsert_kept h
  · cases e; exact fun _ _ h => cmdTcamEntryModify_kept h
  · cases e; exact fun _ _ h => cmdTcamEntryDelete_kept h
  · cases e; exact fun _ _ h => cmdTcamSearch_kept h
  · cases e; exact fun _ _ h => cmdTcamSearchContinue_kept h
  · cases e; exact fun _ _ h => cmdTcamCompact_kept h
  · cases e; exact fun _ _ h => cmdTcamEntryRead_kept h
  · cases e; exact fun _ _ h => cmdTcamStatusGet_kept h
  · cases e

theorem ops06_kept {op : Nat} {f : CmdFn} (e : ops06 op = some f) : ∀ c s, Kept aim s → Kept aim (f c s).st := by
  unfold ops06 at e
  split at e
  · cases e; exact fun _ _ h => cmdBufferPartitionSet_kept h
  · cases e; exact fun _ _ h => cmdAdmissionProfileSet_kept h
  · cases e; exact fun _ _ h => cmdWredProfileSet_kept h
  · cases e; exact fun _ _ h => cmdQueueConfig_kept h
  · cases e; exact fun _ _ h => cmdQueueFlush_kept h
  · cases e; exact fun _ _ h => cmdQueueStatusGet_kept h
  · cases e; exact fun _ _ h => cmdBufferStatusGet_kept h
  · cases e; exact fun _ _ h => cmdBufferGlobalSet_kept h
  · cases e

theorem ops07_kept {op : Nat} {f : CmdFn} (e : ops07 op = some f) : ∀ c s, Kept aim s → Kept aim (f c s).st := by
  unfold ops07 at e
  split at e
  · cases e; exact fun _ _ h => cmdSchedNodeSet_kept h
  · cases e; exact fun _ _ h => cmdSchedNodeGet_kept h
  · cases e; exact fun _ _ h => cmdLengthProfileSet_kept h
  · cases e; exact fun _ _ h => cmdSiteMapSet_kept h
  · cases e; exact fun _ _ h => cmdDispatchProfileSet_kept h
  · cases e; exact fun _ _ h => cmdQosMapSet_kept h
  · cases e; exact fun _ _ h => cmdQosPortSet_kept h
  · cases e; exact fun _ _ h => cmdPolicerProfileSet_kept h
  · cases e; exact fun _ _ h => cmdPolicerSet_kept h
  · cases e; exact fun _ _ h => cmdPolicerStatusGet_kept h
  · cases e; exact fun _ _ h => cmdSampleSetConfig_kept h
  · cases e; exact fun _ _ h => cmdSchedCountersGet_kept h
  · cases e

theorem ops08_kept {op : Nat} {f : CmdFn} (e : ops08 op = some f) : ∀ c s, Kept aim s → Kept aim (f c s).st := by
  unfold ops08 at e
  split at e
  · cases e; exact fun _ _ h => cmdPoolCarveSet_kept h
  · cases e; exact fun _ _ h => cmdChannelPoolSet_kept h
  · cases e; exact fun _ _ h => cmdBufShare_kept h
  · cases e; exact fun _ _ h => cmdBufRelease_kept h
  · cases e; exact fun _ _ h => cmdBufInfo_kept h
  · cases e; exact fun _ _ h => cmdBufCellShareSet_kept h
  · cases e; exact fun _ _ h => cmdPoolStatusGet_kept h
  · cases e

theorem ops09_kept {op : Nat} {f : CmdFn} (e : ops09 op = some f) : ∀ c s, Kept aim s → Kept aim (f c s).st := by
  unfold ops09 at e
  split at e
  · cases e; exact fun _ _ h => cmdFabricConfig_kept h
  · cases e; exact fun _ _ h => cmdFabricPeerSet_kept h
  · cases e; exact fun _ _ h => cmdProtectClassSet_kept h
  · cases e; exact fun _ _ h => cmdCreditProfileSet_kept h
  · cases e; exact fun _ _ h => cmdPlaneAdmin_kept h
  · cases e; exact fun _ _ h => cmdPlaneRestore_kept h
  · cases e; exact fun _ _ h => cmdFabricLaneAdmin_kept h
  · cases e; exact fun _ _ h => cmdFabricStatusGet_kept h
  · cases e; exact fun _ _ h => cmdFabricCountersGet_kept h
  · cases e

theorem ops0A_kept {op : Nat} {f : CmdFn} (e : ops0A op = some f) : ∀ c s, Kept aim s → Kept aim (f c s).st := by
  unfold ops0A at e
  split at e
  · cases e; exact fun _ _ h => cmdEditProgramSet_kept h
  · cases e; exact fun _ _ h => cmdEncapSet_kept h
  · cases e; exact fun _ _ h => cmdMcastGroupSet_kept h
  · cases e; exact fun _ _ h => cmdMcastGroupGet_kept h
  · cases e; exact fun _ _ h => cmdEditPortSet_kept h
  · cases e; exact fun _ _ h => cmdMcastConfig_kept h
  · cases e; exact fun _ _ h => cmdEditTest_kept h
  · cases e; exact fun _ _ h => cmdEditCountersGet_kept h
  · cases e

theorem ops0B_kept {op : Nat} {f : CmdFn} (e : ops0B op = some f) : ∀ c s, Kept aim s → Kept aim (f c s).st := by
  unfold ops0B at e
  split at e
  · cases e; exact fun _ _ h => cmdHbmConfig_kept h
  · cases e; exact fun _ _ h => cmdHbmStatusGet_kept h
  · cases e; exact fun _ _ h => cmdHbmRetrain_kept h
  · cases e; exact fun _ _ h => cmdHbmPcRetire_kept h
  · cases e; exact fun _ _ h => cmdHbmPcRestore_kept h
  · cases e; exact fun _ _ h => cmdHbmCountersGet_kept h
  · cases e

theorem ops0C_kept {op : Nat} {f : CmdFn} (e : ops0C op = some f) : ∀ c s, Kept aim s → Kept aim (f c s).st := by
  unfold ops0C at e
  split at e
  · cases e; exact fun _ _ h => cmdTimeGet_kept h
  · cases e; exact fun _ _ h => cmdTimeIncrementSet_kept h
  · cases e; exact fun _ _ h => cmdTimeStep_kept h
  · cases e; exact fun _ _ h => cmdTimeSet_kept h
  · cases e; exact fun _ _ h => cmdTimeConfig_kept h
  · cases e; exact fun _ _ h => cmdTsPortSet_kept h
  · cases e; exact fun _ _ h => cmdPpsConfig_kept h
  · cases e; exact fun _ _ h => cmdTimeCountersGet_kept h
  · cases e

theorem ops0D_kept {op : Nat} {f : CmdFn} (e : ops0D op = some f) : ∀ c s, Kept aim s → Kept aim (f c s).st := by
  unfold ops0D at e
  split at e
  · cases e; exact fun _ _ h => cmdDmaChannelSet_kept h
  · cases e; exact fun _ _ h => cmdDmaChannelEnable_kept h
  · cases e; exact fun _ _ h => cmdDmaChannelStatusGet_kept h
  · cases e; exact fun _ _ h => cmdMsixModerationSet_kept h
  · cases e; exact fun _ _ h => cmdHifCountersGet_kept h
  · cases e

theorem ops0E_kept {op : Nat} {f : CmdFn} (e : ops0E op = some f) : ∀ c s, Kept aim s → Kept aim (f c s).st := by
  unfold ops0E at e
  split at e
  · cases e; exact fun _ _ h => cmdHierarchyConfig_kept h
  · cases e; exact fun _ _ h => cmdHierStatusGet_kept h
  · cases e; exact fun _ _ h => cmdHierDeputySet_kept h
  · cases e; exact fun _ _ h => cmdHierModeChange_kept h
  · cases e; exact fun _ _ h => cmdHierMemberRemove_kept h
  · cases e; exact fun _ _ h => cmdHierCountersGet_kept h
  · cases e; exact fun _ _ h => cmdHierClaim_kept h
  · cases e

theorem ops0F_kept {op : Nat} {f : CmdFn} (e : ops0F op = some f) : ∀ c s, Kept aim s → Kept aim (f c s).st := by
  unfold ops0F at e
  split at e
  · cases e; exact fun _ _ h => cmdFwDownload_kept h
  · cases e; exact fun _ _ h => cmdFwVerify_kept h
  · cases e; exact fun _ _ h => cmdFwActivate_kept h
  · cases e; exact fun _ _ h => cmdFwConfirm_kept h
  · cases e; exact fun _ _ h => cmdFwRevert_kept h
  · cases e; exact fun _ _ h => cmdFwStatusGet_kept h
  · cases e; exact fun _ _ h => cmdFwUpdateConfig_kept h
  · cases e; exact fun _ _ h => cmdFwSvnCommit_kept h
  · cases e; exact fun _ _ h => cmdAttestKeyGet_kept h
  · cases e; exact fun _ _ h => cmdAttestQuote_kept h
  · cases e; exact fun _ _ h => cmdFwSnowdropPush_kept h
  · cases e

theorem ops10_kept {op : Nat} {f : CmdFn} (e : ops10 op = some f) : ∀ c s, Kept aim s → Kept aim (f c s).st := by
  unfold ops10 at e
  split at e
  · cases e; exact fun _ _ h => cmdModeSet_kept h
  · cases e; exact fun _ _ h => cmdModeStatusGet_kept h
  · cases e; exact fun _ _ h => cmdRepairStatusGet_kept h
  · cases e; exact fun _ _ h => cmdRepairMapRead_kept h
  · cases e; exact fun _ _ h => cmdDeviceReset_kept h
  · cases e; exact fun _ _ h => cmdFeRestart_kept h
  · cases e; exact fun _ _ h => cmdRepairConfig_kept h
  · cases e

theorem ops11_kept {op : Nat} {f : CmdFn} (e : ops11 op = some f) : ∀ c s, Kept aim s → Kept aim (f c s).st := by
  unfold ops11 at e
  split at e
  · cases e; exact fun _ _ h => cmdPerfCounterConfig_kept h
  · cases e; exact fun _ _ h => cmdPerfControl_kept h
  · cases e; exact fun _ _ h => cmdPerfCounterRead_kept h
  · cases e; exact fun _ _ h => cmdHistogramConfig_kept h
  · cases e; exact fun _ _ h => cmdPsampleConfig_kept h
  · cases e; exact fun _ _ h => cmdTelemetryConfig_kept h
  · cases e; exact fun _ _ h => cmdTelemetryCountersGet_kept h
  · cases e

theorem ops12_kept {op : Nat} {f : CmdFn} (e : ops12 op = some f) : ∀ c s, Kept aim s → Kept aim (f c s).st := by
  unfold ops12 at e
  split at e
  · cases e; exact fun _ _ h => cmdPkgStatusGet_kept h
  · cases e; exact fun _ _ h => cmdThermalConfig_kept h
  · cases e; exact fun _ _ h => cmdAlarmInputConfig_kept h
  · cases e; exact fun _ _ h => cmdPkgInputUnmask_kept h
  · cases e; exact fun _ _ h => cmdAuxStatusClear_kept h
  · cases e

theorem opsBelow_kept {op : Nat} {f : CmdFn} (e : opsBelow op = some f) : ∀ c s, Kept aim s → Kept aim (f c s).st := by
  unfold opsBelow at e
  split at e
  · exact ops00_kept e
  · exact ops01_kept e
  · exact ops02_kept e
  · exact ops03_kept e
  · exact ops04_kept e
  · exact ops05_kept e
  · exact ops06_kept e
  · exact ops07_kept e
  · exact ops08_kept e
  · exact ops09_kept e
  · exact ops0A_kept e
  · exact ops0B_kept e
  · exact ops0C_kept e
  · exact ops0D_kept e
  · exact ops0E_kept e
  · exact ops0F_kept e
  · exact ops10_kept e
  · exact ops11_kept e
  · exact ops12_kept e
  · cases e

theorem runOp_kept {f : Nat → Option CmdFn} {e : CmdEntry} {s : State}
    (hf : ∀ op x, f op = some x → ∀ c z, Kept aim z → Kept aim (x c z).st) (h0 : Kept aim s) : Kept aim (runOp f e s).st := by
  unfold runOp
  split
  · rename_i w
    exact hf _ _ w _ _ h0
  · exact h0

theorem State.portDone_kept {s : State} {id : Nat} {r : Res} (h0 : Kept aim s) (h1 : Kept aim r.st) :
    Kept aim (State.portDone s id r) := by
  unfold State.portDone
  try dsimp only
  repeat' first
    | with_reducible assumption
    | (with_reducible intro _)
    | with_reducible apply kept_foldl
    | with_reducible apply State.finishOpen_kept
    | with_reducible apply keptOut_next
    | with_reducible exact keptOut_fault
    | (simp only [kept_mk]; with_reducible refine keptMk_of ?_ ?_ ?_ ?_ ?_)
    | with_reducible exact keep_rfl
    | exact fun _ => by decide
    | exact by decide
    | split

theorem State.portEntry_kept {s : State} (h0 : Kept aim s) : Kept aim (State.portEntry s) := by
  unfold State.portEntry
  try dsimp only
  repeat' first
    | with_reducible assumption
    | (with_reducible intro _)
    | with_reducible apply kept_foldl
    | with_reducible apply runOp_kept
    | with_reducible apply opsBelow_kept
    | with_reducible apply State.portDone_kept
    | with_reducible apply State.portOp_kept
    | (with_reducible refine State.portOp_kept_eq ?_ (by assumption))
    | with_reducible apply State.portFinish_kept
    | with_reducible apply keptOut_next
    | with_reducible exact keptOut_fault
    | (simp only [kept_mk]; with_reducible refine keptMk_of ?_ ?_ ?_ ?_ ?_)
    | with_reducible exact keep_rfl
    | exact fun _ => by decide
    | exact by decide
    | split

theorem State.portStep_kept {s : State} (h0 : Kept aim s) : Kept aim (State.portStep s) := by
  unfold State.portStep
  try dsimp only
  repeat' first
    | with_reducible assumption
    | (with_reducible intro _)
    | with_reducible apply kept_foldl
    | with_reducible apply State.portDue_kept
    | with_reducible apply State.portEntry_kept
    | with_reducible apply keptOut_next
    | with_reducible exact keptOut_fault
    | with_reducible exact keep_rfl
    | exact fun _ => by decide
    | exact by decide
    | split

theorem execTimedBatchCommit_kept {s : State} (h0 : Kept aim s) : KeptOut aim (execTimedBatchCommit s) := by
  unfold execTimedBatchCommit
  try dsimp only
  repeat' first
    | with_reducible assumption
    | (with_reducible intro _)
    | with_reducible apply kept_foldl
    | with_reducible apply Offer.next_kept
    | with_reducible apply done_kept
    | with_reducible apply State.portStep_kept
    | with_reducible apply keptOut_next
    | with_reducible exact keptOut_fault
    | with_reducible exact keep_rfl
    | exact fun _ => by decide
    | exact by decide
    | split

theorem State.distribute_kept {s : State} {id : Nat} {e : CmdEntry} {l : List Nat} (h0 : Kept aim s) :
    Kept aim (State.distribute s id e l) := by
  unfold State.distribute
  repeat' first
    | with_reducible assumption
    | (with_reducible intro _)
    | with_reducible apply kept_foldl
    | with_reducible apply State.relayTo_kept

theorem State.startDist_kept {s : State} {bits : Nat} {e : CmdEntry} (h0 : Kept aim s) :
    Kept aim (State.startDist s bits e) := by
  unfold State.startDist
  try dsimp only
  repeat' first
    | with_reducible assumption
    | (with_reducible intro _)
    | with_reducible apply kept_foldl
    | with_reducible apply State.distribute_kept
    | with_reducible apply runOp_kept
    | with_reducible apply opsBelow_kept
    | with_reducible apply State.distNote_kept
    | with_reducible apply keptOut_next
    | with_reducible exact keptOut_fault
    | (simp only [kept_mk]; with_reducible refine keptMk_of ?_ ?_ ?_ ?_ ?_)
    | with_reducible exact keep_rfl
    | exact fun _ => by decide
    | exact by decide
    | split

theorem cmdHierDistribute_kept {c : Cmd} {s : State} (h0 : Kept aim s) : Kept aim (cmdHierDistribute c s).st := by
  unfold cmdHierDistribute
  repeat' first
    | with_reducible assumption
    | (with_reducible intro _)
    | with_reducible apply gate_kept
    | with_reducible apply Res.err_kept
    | with_reducible apply State.startDist_kept
    | with_reducible apply State.distribute_kept
    | (simp only [kept_mk]; with_reducible refine keptMk_of ?_ ?_ ?_ ?_ ?_)
    | with_reducible exact keep_rfl
    | split
    | dsimp only

theorem execHierDistribute_kept {c : Cmd} {s : State} (h0 : Kept aim s) : KeptOut aim (execHierDistribute c s) := by
  unfold execHierDistribute
  repeat' first
    | with_reducible assumption
    | with_reducible apply serve_kept
    | with_reducible apply cmdHierDistribute_kept

theorem opTable_kept {op : Nat} {f : CmdFn} (e : opTable op = some f) : ∀ c s, Kept aim s → Kept aim (f c s).st := by
  unfold opTable at e
  split at e
  · cases e; exact fun _ _ h => cmdHierDistribute_kept h
  · exact opsBelow_kept e

theorem execCommandFetch_kept {e : CmdEntry} {s : State} (h0 : Kept aim s) : KeptOut aim (execCommandFetch e s) := by
  unfold execCommandFetch
  dsimp only
  repeat' first
    | with_reducible assumption
    | with_reducible apply Offer.next_kept
    | with_reducible apply done_kept
    | with_reducible apply runOp_kept
    | with_reducible apply opTable_kept
    | with_reducible apply Res.finish_kept
    | with_reducible apply keptOut_next
    | (simp only [kept_mk]; with_reducible refine keptMk_of ?_ ?_ ?_ ?_ ?_)
    | with_reducible exact keep_rfl
    | (with_reducible refine keep_hif ?_; rintro ⟨b1, b2, b3, b4, b5, b6⟩; refine ⟨?_, ?_, ?_, ?_, ?_, ?_⟩ <;> dsimp only <;> first | assumption | omega)
    | split

theorem execRelayCommand_kept {path : Path} {h : CoordHdr} {relayId offset total : Nat} {entry : CmdEntry} {data : Bytes}
    {s : State} (h0 : Kept aim s) : KeptOut aim (execRelayCommand path h relayId offset total entry data s) := by
  unfold execRelayCommand
  repeat' first
    | with_reducible assumption
    | (with_reducible intro _)
    | with_reducible apply State.receiveMsg_kept
    | with_reducible apply runOp_kept
    | with_reducible apply opTable_kept
    | with_reducible apply Res.finish_kept
    | (simp only [kept_mk]; with_reducible refine keptMk_of ?_ ?_ ?_ ?_ ?_)
    | with_reducible exact keep_rfl
    | split
    | dsimp only

end Sys2Proof.Machine
end

