-- ==== Sys2Proof/Laws/KeptTick.lean ====
section
/-! SUPPORT. What Machine/Tick.lean leaves: the queue and the invariant (see Laws/Kept.lean). -/
namespace Sys2Proof.Machine
open Sys2Proof
variable {aim : Aim}

theorem tick_kept {s : State} (h0 : Kept aim s) : KeptOut aim (tick s) := by
  unfold tick
  try dsimp only
  repeat' first
    | with_reducible assumption
    | (with_reducible intro _)
    | with_reducible apply kept_foldl
    | with_reducible apply done_kept
    | with_reducible apply State.tickTime_kept
    | with_reducible apply State.perfTick_kept
    | with_reducible apply State.portStep_kept
    | with_reducible apply State.fabricSlots_kept
    | with_reducible apply State.hbmSlots_kept
    | with_reducible apply keptOut_next
    | with_reducible exact keptOut_fault
    | with_reducible exact keep_rfl
    | exact fun _ => by decide
    | exact by decide
    | split

end Sys2Proof.Machine
end

