-- ==== Sys2Proof/Laws/Serve.lean ====
section
/-! SUPPORT. The gates of a mailbox command, once: what an accepted command answers, and what the others answer. -/
namespace Sys2Proof.Machine
open Sys2Proof

theorem accepted_iff {x : CmdSpec} {c : Cmd} {s : State} : accepted x c s = true ↔
    s.serving = true ∧ s.blocked c = false ∧ badHeader x c = false ∧ c.target = s.fab.fdi ∧
    (x.opcode / 256 == 2 && !s.sec.gradeS) = false ∧ (s.mode.gaveUp && !x.tm c.payload) = false ∧
    (s.mode.mode == mdQuarantine && !(x.reads || [0, 0xF, 0x10, 0x11].contains (x.opcode / 256))) = false ∧
    x.mode c.payload s = 0 ∧ x.clean c.payload = true ∧ x.size c.payload ≤ c.capacity ∧
    (x.ported c.payload && !s.tbl.port.isEmpty) = false := by
  simp only [accepted, admitted, Bool.and_eq_true, Bool.not_eq_true', beq_iff_eq, decide_eq_true_eq, and_assoc]

/-- The body of an accepted command decides what it answers; a failure leaves the device as it was (R548). -/
theorem serve_gate {x : CmdSpec} {body : Cmd → State → Res} {c : Cmd} {s : State} (h : accepted x c s = true) :
    serve c (gate x body) s = .next (signalStatus s (Res.finish
      (if (body c s).status == stOk || (body c s).status == stPartial || (body c s).keep then body c s
       else { body c s with st := s }) c)) := by
  obtain ⟨h1, h2, h3, h4, h5, h6, h7, h8, h9, h10, h11⟩ := accepted_iff.mp h
  have h10' : ¬ c.capacity < x.size c.payload := Nat.not_lt.mpr h10
  have h4' : (c.target != s.fab.fdi) = false := by simp [h4]
  have h8' : (x.mode c.payload s != 0) = false := by simp [h8]
  unfold serve
  rw [if_pos (by simp [h1, h2])]
  unfold gate runLocal
  rw [if_neg (by simp [h3]), if_neg (by simp [h4']), if_neg (by simp only [h5]; decide), if_neg (by simp only [h6]; decide),
    if_neg (by simp only [h7]; decide), if_neg (by simp only [h8']; decide), if_neg (by simp [h9]), if_neg h10',
    if_neg (by simp only [h11]; decide)]
  rfl

/-- An accepted command whose body succeeds. -/
theorem serve_answered {x : CmdSpec} {body : Cmd → State → Res} {c : Cmd} {s t : State} {r : Bytes} (h : accepted x c s = true)
    (hb : body c s = { st := t, result := r }) : serve c (gate x body) s = s.answered t c r := by
  rw [serve_gate h, hb]
  rfl

/-- An accepted command whose body fails. -/
theorem serve_failed {x : CmdSpec} {body : Cmd → State → Res} {c : Cmd} {s : State} {st d : Nat} (h : accepted x c s = true)
    (hb : body c s = Res.err s st d) : serve c (gate x body) s = s.failed c st d := by
  rw [serve_gate h, hb]
  exact congrArg (fun r : Res => Host.Outcome.next (signalStatus s (r.finish c))) (ite_self _)

/-- An accepted command whose body succeeds, or fails after a part of its effect (R363, R546). -/
theorem serve_finished {x : CmdSpec} {body : Cmd → State → Res} {c : Cmd} {s : State} {r : Res} (h : accepted x c s = true)
    (hb : body c s = r) (hk : (r.status == stOk || r.status == stPartial || r.keep) = true) :
    serve c (gate x body) s = .next (signalStatus s (r.finish c)) := by
  rw [serve_gate h, hb, if_pos hk]

/-- An accepted command whose body opens an operation that completes later. -/
theorem serve_opened {x : CmdSpec} {body : Cmd → State → Res} {c : Cmd} {s t : State} {k : OpenKind} (h : accepted x c s = true)
    (hb : body c s = { st := t, async := some k }) : serve c (gate x body) s = s.opened t c k := by
  rw [serve_gate h, hb]
  rfl

/-- A message that is heard does what its type says, in the state in which it is delivered. -/
theorem receiveMsg_heard {s : State} {path : Path} {type : Nat} {h : CoordHdr} {f : State → State}
    (g : s.hears path type h = true) : s.receiveMsg path type h f = done s (f (s.hearing path h)) := by
  simp only [State.hears, Bool.and_eq_true, Bool.or_eq_true, decide_eq_true_eq, beq_iff_eq, bne_iff_ne, Bool.not_eq_true'] at g
  obtain ⟨⟨⟨⟨⟨⟨⟨⟨⟨⟨h1, h2⟩, h3⟩, h4⟩, h5⟩, h6⟩, h7⟩, h8⟩, h9⟩, h10⟩, h11⟩ := g
  unfold State.receiveMsg
  rw [if_neg (Nat.not_le.mpr h1), if_neg (by
      rcases h3 with k | k
      · simp [h2, Nat.not_lt.mpr k]
      · simp [h2, List.contains_iff_mem.mp k]), if_neg (by
      rcases h4 with k | k
      · simp [h5, h6, h7, h8, Nat.not_lt.mpr k]
      · simp [h5, h6, h7, h8, k]), if_neg (by rcases h9 with k | k <;> simp [k, h10])]
  unfold State.noted at h11
  rw [if_neg (by simp only [h11]; decide)]
  rfl

/-- A cell that is taken is counted and does what its type says, once its lane has counted it. -/
theorem receiveCell_taken {s : State} {type lane : Nat} {c : Cell} {f : State → State} (g : s.takesCell type lane c = true) :
    receiveCell type lane c s f = done s (f ((s.laneCell lane c).bump 1013 1 c.plane c.type)) := by
  simp only [State.takesCell, Bool.and_eq_true, Bool.or_eq_true, decide_eq_true_eq, beq_iff_eq, Option.isNone_iff_eq_none] at g
  obtain ⟨⟨⟨⟨h0, h1⟩, h2⟩, h3⟩, h4⟩ := g
  unfold receiveCell
  rw [if_neg (Nat.not_le.mpr h0), if_neg (by
      rcases h2 with k | k
      · simp [h1, Nat.not_lt.mpr k]
      · simp [h1, k])]
  simp only
  rw [if_neg (by simp [h3]), h4]

/-- What a batch command answers that is not timed (R196). -/
theorem startBatch_now {s : State} {opcode limit : Nat} {c : Cmd} (g : batchGood opcode limit c s = true)
    (hl : (if opcode / 256 == 5 then 256 else 1024) = limit) (hb : bit (byteAt c.payload 2) 1 = false) :
    s.startBatch opcode c.payload =
      s.portStart opcode (byteAt c.payload 2) ((s.opsOf opcode (le c.payload 0 2) (c.payload.drop 8)).getD []) := by
  simp only [batchGood, Bool.and_eq_true, decide_eq_true_eq] at g
  unfold State.startBatch
  simp only
  rw [hl, if_neg (by simp [inRange, g.1.1, g.1.2]), if_pos g.2, if_neg (by simp [hb])]

/-- The outcome of a batch stands, whatever its status (R196); one with entries left goes on. -/
theorem portStart_stands {s : State} {opcode flags : Nat} {l : List Bytes} :
    (s.portStart opcode flags l).keep = true ∨ (s.portStart opcode flags l).status = stOk := by
  unfold State.portStart
  simp only
  split
  · exact .inr rfl
  · exact .inl rfl

end Sys2Proof.Machine
end

