-- ==== Sys2Proof/Laws/State.lean ====
section
/-! SUPPORT. What the operations that write one record of the state leave as it was, and that a record reads as it was written. -/
namespace Sys2Proof.Machine
open Sys2Proof

@[simp] theorem State.setMacro_pending (s : State) (m : Nat) (x : Macro) : (s.setMacro m x).pending = s.pending := rfl
@[simp] theorem State.setMacro_time (s : State) (m : Nat) (x : Macro) : (s.setMacro m x).time = s.time := rfl
@[simp] theorem State.setMacro_hif (s : State) (m : Nat) (x : Macro) : (s.setMacro m x).hif = s.hif := rfl
@[simp] theorem State.setMacro_port (s : State) (m : Nat) (x : Macro) : (s.setMacro m x).port = s.port := rfl
@[simp] theorem State.setMacro_sec (s : State) (m : Nat) (x : Macro) : (s.setMacro m x).sec = s.sec := rfl
@[simp] theorem State.setMacro_parse (s : State) (m : Nat) (x : Macro) : (s.setMacro m x).parse = s.parse := rfl
@[simp] theorem State.setMacro_tbl (s : State) (m : Nat) (x : Macro) : (s.setMacro m x).tbl = s.tbl := rfl
@[simp] theorem State.setMacro_tcam (s : State) (m : Nat) (x : Macro) : (s.setMacro m x).tcam = s.tcam := rfl
@[simp] theorem State.setMacro_buf (s : State) (m : Nat) (x : Macro) : (s.setMacro m x).buf = s.buf := rfl
@[simp] theorem State.setMacro_sched (s : State) (m : Nat) (x : Macro) : (s.setMacro m x).sched = s.sched := rfl
@[simp] theorem State.setMacro_pool (s : State) (m : Nat) (x : Macro) : (s.setMacro m x).pool = s.pool := rfl
@[simp] theorem State.setMacro_fab (s : State) (m : Nat) (x : Macro) : (s.setMacro m x).fab = s.fab := rfl
@[simp] theorem State.setMacro_edit (s : State) (m : Nat) (x : Macro) : (s.setMacro m x).edit = s.edit := rfl
@[simp] theorem State.setMacro_hbm (s : State) (m : Nat) (x : Macro) : (s.setMacro m x).hbm = s.hbm := rfl
@[simp] theorem State.setMacro_hier (s : State) (m : Nat) (x : Macro) : (s.setMacro m x).hier = s.hier := rfl
@[simp] theorem State.setMacro_fw (s : State) (m : Nat) (x : Macro) : (s.setMacro m x).fw = s.fw := rfl
@[simp] theorem State.setMacro_tel (s : State) (m : Nat) (x : Macro) : (s.setMacro m x).tel = s.tel := rfl
@[simp] theorem State.setMacro_aux (s : State) (m : Nat) (x : Macro) : (s.setMacro m x).aux = s.aux := rfl
@[simp] theorem State.setMacro_ctr (s : State) (m : Nat) (x : Macro) : (s.setMacro m x).ctr = s.ctr := rfl
@[simp] theorem State.setChain_pending (s : State) (c : Nat) (x : Chain) : (s.setChain c x).pending = s.pending := rfl
@[simp] theorem State.setChain_time (s : State) (c : Nat) (x : Chain) : (s.setChain c x).time = s.time := rfl
@[simp] theorem State.setChain_hif (s : State) (c : Nat) (x : Chain) : (s.setChain c x).hif = s.hif := rfl
@[simp] theorem State.setChain_port (s : State) (c : Nat) (x : Chain) : (s.setChain c x).port = s.port := rfl
@[simp] theorem State.setChain_sec (s : State) (c : Nat) (x : Chain) : (s.setChain c x).sec = s.sec := rfl
@[simp] theorem State.setChain_parse (s : State) (c : Nat) (x : Chain) : (s.setChain c x).parse = s.parse := rfl
@[simp] theorem State.setChain_tbl (s : State) (c : Nat) (x : Chain) : (s.setChain c x).tbl = s.tbl := rfl
@[simp] theorem State.setChain_buf (s : State) (c : Nat) (x : Chain) : (s.setChain c x).buf = s.buf := rfl
@[simp] theorem State.setChain_sched (s : State) (c : Nat) (x : Chain) : (s.setChain c x).sched = s.sched := rfl
@[simp] theorem State.setChain_pool (s : State) (c : Nat) (x : Chain) : (s.setChain c x).pool = s.pool := rfl
@[simp] theorem State.setChain_fab (s : State) (c : Nat) (x : Chain) : (s.setChain c x).fab = s.fab := rfl
@[simp] theorem State.setChain_edit (s : State) (c : Nat) (x : Chain) : (s.setChain c x).edit = s.edit := rfl
@[simp] theorem State.setChain_hbm (s : State) (c : Nat) (x : Chain) : (s.setChain c x).hbm = s.hbm := rfl
@[simp] theorem State.setChain_hier (s : State) (c : Nat) (x : Chain) : (s.setChain c x).hier = s.hier := rfl
@[simp] theorem State.setChain_fw (s : State) (c : Nat) (x : Chain) : (s.setChain c x).fw = s.fw := rfl
@[simp] theorem State.setChain_mode (s : State) (c : Nat) (x : Chain) : (s.setChain c x).mode = s.mode := rfl
@[simp] theorem State.setChain_tel (s : State) (c : Nat) (x : Chain) : (s.setChain c x).tel = s.tel := rfl
@[simp] theorem State.setChain_aux (s : State) (c : Nat) (x : Chain) : (s.setChain c x).aux = s.aux := rfl
@[simp] theorem State.setChain_ctr (s : State) (c : Nat) (x : Chain) : (s.setChain c x).ctr = s.ctr := rfl
@[simp] theorem State.advance_pending (s : State) : (s.advance ).pending = s.pending := rfl
@[simp] theorem State.advance_hif (s : State) : (s.advance ).hif = s.hif := rfl
@[simp] theorem State.advance_port (s : State) : (s.advance ).port = s.port := rfl
@[simp] theorem State.advance_sec (s : State) : (s.advance ).sec = s.sec := rfl
@[simp] theorem State.advance_parse (s : State) : (s.advance ).parse = s.parse := rfl
@[simp] theorem State.advance_tbl (s : State) : (s.advance ).tbl = s.tbl := rfl
@[simp] theorem State.advance_tcam (s : State) : (s.advance ).tcam = s.tcam := rfl
@[simp] theorem State.advance_buf (s : State) : (s.advance ).buf = s.buf := rfl
@[simp] theorem State.advance_sched (s : State) : (s.advance ).sched = s.sched := rfl
@[simp] theorem State.advance_pool (s : State) : (s.advance ).pool = s.pool := rfl
@[simp] theorem State.advance_fab (s : State) : (s.advance ).fab = s.fab := rfl
@[simp] theorem State.advance_edit (s : State) : (s.advance ).edit = s.edit := rfl
@[simp] theorem State.advance_hbm (s : State) : (s.advance ).hbm = s.hbm := rfl
@[simp] theorem State.advance_hier (s : State) : (s.advance ).hier = s.hier := rfl
@[simp] theorem State.advance_fw (s : State) : (s.advance ).fw = s.fw := rfl
@[simp] theorem State.advance_mode (s : State) : (s.advance ).mode = s.mode := rfl
@[simp] theorem State.advance_tel (s : State) : (s.advance ).tel = s.tel := rfl
@[simp] theorem State.advance_aux (s : State) : (s.advance ).aux = s.aux := rfl
@[simp] theorem State.advance_ctr (s : State) : (s.advance ).ctr = s.ctr := rfl
@[simp] theorem State.setHealth_pending (s : State) (b : Nat) : (s.setHealth b).pending = s.pending := rfl
@[simp] theorem State.setHealth_time (s : State) (b : Nat) : (s.setHealth b).time = s.time := rfl
@[simp] theorem State.setHealth_port (s : State) (b : Nat) : (s.setHealth b).port = s.port := rfl
@[simp] theorem State.setHealth_sec (s : State) (b : Nat) : (s.setHealth b).sec = s.sec := rfl
@[simp] theorem State.setHealth_parse (s : State) (b : Nat) : (s.setHealth b).parse = s.parse := rfl
@[simp] theorem State.setHealth_tbl (s : State) (b : Nat) : (s.setHealth b).tbl = s.tbl := rfl
@[simp] theorem State.setHealth_tcam (s : State) (b : Nat) : (s.setHealth b).tcam = s.tcam := rfl
@[simp] theorem State.setHealth_buf (s : State) (b : Nat) : (s.setHealth b).buf = s.buf := rfl
@[simp] theorem State.setHealth_sched (s : State) (b : Nat) : (s.setHealth b).sched = s.sched := rfl
@[simp] theorem State.setHealth_pool (s : State) (b : Nat) : (s.setHealth b).pool = s.pool := rfl
@[simp] theorem State.setHealth_fab (s : State) (b : Nat) : (s.setHealth b).fab = s.fab := rfl
@[simp] theorem State.setHealth_edit (s : State) (b : Nat) : (s.setHealth b).edit = s.edit := rfl
@[simp] theorem State.setHealth_hbm (s : State) (b : Nat) : (s.setHealth b).hbm = s.hbm := rfl
@[simp] theorem State.setHealth_hier (s : State) (b : Nat) : (s.setHealth b).hier = s.hier := rfl
@[simp] theorem State.setHealth_fw (s : State) (b : Nat) : (s.setHealth b).fw = s.fw := rfl
@[simp] theorem State.setHealth_mode (s : State) (b : Nat) : (s.setHealth b).mode = s.mode := rfl
@[simp] theorem State.setHealth_tel (s : State) (b : Nat) : (s.setHealth b).tel = s.tel := rfl
@[simp] theorem State.setHealth_aux (s : State) (b : Nat) : (s.setHealth b).aux = s.aux := rfl
@[simp] theorem State.setHealth_ctr (s : State) (b : Nat) : (s.setHealth b).ctr = s.ctr := rfl
@[simp] theorem State.setChan_pending (s : State) (c : Nat) (x : Chan) : (s.setChan c x).pending = s.pending := rfl
@[simp] theorem State.setChan_time (s : State) (c : Nat) (x : Chan) : (s.setChan c x).time = s.time := rfl
@[simp] theorem State.setChan_port (s : State) (c : Nat) (x : Chan) : (s.setChan c x).port = s.port := rfl
@[simp] theorem State.setChan_sec (s : State) (c : Nat) (x : Chan) : (s.setChan c x).sec = s.sec := rfl
@[simp] theorem State.setChan_parse (s : State) (c : Nat) (x : Chan) : (s.setChan c x).parse = s.parse := rfl
@[simp] theorem State.setChan_tbl (s : State) (c : Nat) (x : Chan) : (s.setChan c x).tbl = s.tbl := rfl
@[simp] theorem State.setChan_tcam (s : State) (c : Nat) (x : Chan) : (s.setChan c x).tcam = s.tcam := rfl
@[simp] theorem State.setChan_buf (s : State) (c : Nat) (x : Chan) : (s.setChan c x).buf = s.buf := rfl
@[simp] theorem State.setChan_sched (s : State) (c : Nat) (x : Chan) : (s.setChan c x).sched = s.sched := rfl
@[simp] theorem State.setChan_pool (s : State) (c : Nat) (x : Chan) : (s.setChan c x).pool = s.pool := rfl
@[simp] theorem State.setChan_fab (s : State) (c : Nat) (x : Chan) : (s.setChan c x).fab = s.fab := rfl
@[simp] theorem State.setChan_edit (s : State) (c : Nat) (x : Chan) : (s.setChan c x).edit = s.edit := rfl
@[simp] theorem State.setChan_hbm (s : State) (c : Nat) (x : Chan) : (s.setChan c x).hbm = s.hbm := rfl
@[simp] theorem State.setChan_hier (s : State) (c : Nat) (x : Chan) : (s.setChan c x).hier = s.hier := rfl
@[simp] theorem State.setChan_fw (s : State) (c : Nat) (x : Chan) : (s.setChan c x).fw = s.fw := rfl
@[simp] theorem State.setChan_mode (s : State) (c : Nat) (x : Chan) : (s.setChan c x).mode = s.mode := rfl
@[simp] theorem State.setChan_tel (s : State) (c : Nat) (x : Chan) : (s.setChan c x).tel = s.tel := rfl
@[simp] theorem State.setChan_aux (s : State) (c : Nat) (x : Chan) : (s.setChan c x).aux = s.aux := rfl
@[simp] theorem State.setChan_ctr (s : State) (c : Nat) (x : Chan) : (s.setChan c x).ctr = s.ctr := rfl
@[simp] theorem State.setQueue_pending (s : State) (q : Nat) (x : Queue) : (s.setQueue q x).pending = s.pending := rfl
@[simp] theorem State.setQueue_time (s : State) (q : Nat) (x : Queue) : (s.setQueue q x).time = s.time := rfl
@[simp] theorem State.setQueue_hif (s : State) (q : Nat) (x : Queue) : (s.setQueue q x).hif = s.hif := rfl
@[simp] theorem State.setQueue_port (s : State) (q : Nat) (x : Queue) : (s.setQueue q x).port = s.port := rfl
@[simp] theorem State.setQueue_sec (s : State) (q : Nat) (x : Queue) : (s.setQueue q x).sec = s.sec := rfl
@[simp] theorem State.setQueue_parse (s : State) (q : Nat) (x : Queue) : (s.setQueue q x).parse = s.parse := rfl
@[simp] theorem State.setQueue_tbl (s : State) (q : Nat) (x : Queue) : (s.setQueue q x).tbl = s.tbl := rfl
@[simp] theorem State.setQueue_tcam (s : State) (q : Nat) (x : Queue) : (s.setQueue q x).tcam = s.tcam := rfl
@[simp] theorem State.setQueue_sched (s : State) (q : Nat) (x : Queue) : (s.setQueue q x).sched = s.sched := rfl
@[simp] theorem State.setQueue_pool (s : State) (q : Nat) (x : Queue) : (s.setQueue q x).pool = s.pool := rfl
@[simp] theorem State.setQueue_fab (s : State) (q : Nat) (x : Queue) : (s.setQueue q x).fab = s.fab := rfl
@[simp] theorem State.setQueue_edit (s : State) (q : Nat) (x : Queue) : (s.setQueue q x).edit = s.edit := rfl
@[simp] theorem State.setQueue_hbm (s : State) (q : Nat) (x : Queue) : (s.setQueue q x).hbm = s.hbm := rfl
@[simp] theorem State.setQueue_hier (s : State) (q : Nat) (x : Queue) : (s.setQueue q x).hier = s.hier := rfl
@[simp] theorem State.setQueue_fw (s : State) (q : Nat) (x : Queue) : (s.setQueue q x).fw = s.fw := rfl
@[simp] theorem State.setQueue_mode (s : State) (q : Nat) (x : Queue) : (s.setQueue q x).mode = s.mode := rfl
@[simp] theorem State.setQueue_tel (s : State) (q : Nat) (x : Queue) : (s.setQueue q x).tel = s.tel := rfl
@[simp] theorem State.setQueue_aux (s : State) (q : Nat) (x : Queue) : (s.setQueue q x).aux = s.aux := rfl
@[simp] theorem State.setQueue_ctr (s : State) (q : Nat) (x : Queue) : (s.setQueue q x).ctr = s.ctr := rfl
@[simp] theorem State.setHbmChan_pending (s : State) (c : Nat) (x : HbmChan) : (s.setHbmChan c x).pending = s.pending := rfl
@[simp] theorem State.setHbmChan_time (s : State) (c : Nat) (x : HbmChan) : (s.setHbmChan c x).time = s.time := rfl
@[simp] theorem State.setHbmChan_hif (s : State) (c : Nat) (x : HbmChan) : (s.setHbmChan c x).hif = s.hif := rfl
@[simp] theorem State.setHbmChan_port (s : State) (c : Nat) (x : HbmChan) : (s.setHbmChan c x).port = s.port := rfl
@[simp] theorem State.setHbmChan_sec (s : State) (c : Nat) (x : HbmChan) : (s.setHbmChan c x).sec = s.sec := rfl
@[simp] theorem State.setHbmChan_parse (s : State) (c : Nat) (x : HbmChan) : (s.setHbmChan c x).parse = s.parse := rfl
@[simp] theorem State.setHbmChan_tbl (s : State) (c : Nat) (x : HbmChan) : (s.setHbmChan c x).tbl = s.tbl := rfl
@[simp] theorem State.setHbmChan_tcam (s : State) (c : Nat) (x : HbmChan) : (s.setHbmChan c x).tcam = s.tcam := rfl
@[simp] theorem State.setHbmChan_buf (s : State) (c : Nat) (x : HbmChan) : (s.setHbmChan c x).buf = s.buf := rfl
@[simp] theorem State.setHbmChan_sched (s : State) (c : Nat) (x : HbmChan) : (s.setHbmChan c x).sched = s.sched := rfl
@[simp] theorem State.setHbmChan_pool (s : State) (c : Nat) (x : HbmChan) : (s.setHbmChan c x).pool = s.pool := rfl
@[simp] theorem State.setHbmChan_fab (s : State) (c : Nat) (x : HbmChan) : (s.setHbmChan c x).fab = s.fab := rfl
@[simp] theorem State.setHbmChan_edit (s : State) (c : Nat) (x : HbmChan) : (s.setHbmChan c x).edit = s.edit := rfl
@[simp] theorem State.setHbmChan_hier (s : State) (c : Nat) (x : HbmChan) : (s.setHbmChan c x).hier = s.hier := rfl
@[simp] theorem State.setHbmChan_fw (s : State) (c : Nat) (x : HbmChan) : (s.setHbmChan c x).fw = s.fw := rfl
@[simp] theorem State.setHbmChan_mode (s : State) (c : Nat) (x : HbmChan) : (s.setHbmChan c x).mode = s.mode := rfl
@[simp] theorem State.setHbmChan_tel (s : State) (c : Nat) (x : HbmChan) : (s.setHbmChan c x).tel = s.tel := rfl
@[simp] theorem State.setHbmChan_aux (s : State) (c : Nat) (x : HbmChan) : (s.setHbmChan c x).aux = s.aux := rfl
@[simp] theorem State.setHbmChan_ctr (s : State) (c : Nat) (x : HbmChan) : (s.setHbmChan c x).ctr = s.ctr := rfl
@[simp] theorem State.setStack_pending (s : State) (k : Nat) (x : Stack) : (s.setStack k x).pending = s.pending := rfl
@[simp] theorem State.setStack_time (s : State) (k : Nat) (x : Stack) : (s.setStack k x).time = s.time := rfl
@[simp] theorem State.setStack_hif (s : State) (k : Nat) (x : Stack) : (s.setStack k x).hif = s.hif := rfl
@[simp] theorem State.setStack_port (s : State) (k : Nat) (x : Stack) : (s.setStack k x).port = s.port := rfl
@[simp] theorem State.setStack_sec (s : State) (k : Nat) (x : Stack) : (s.setStack k x).sec = s.sec := rfl
@[simp] theorem State.setStack_parse (s : State) (k : Nat) (x : Stack) : (s.setStack k x).parse = s.parse := rfl
@[simp] theorem State.setStack_tbl (s : State) (k : Nat) (x : Stack) : (s.setStack k x).tbl = s.tbl := rfl
@[simp] theorem State.setStack_tcam (s : State) (k : Nat) (x : Stack) : (s.setStack k x).tcam = s.tcam := rfl
@[simp] theorem State.setStack_buf (s : State) (k : Nat) (x : Stack) : (s.setStack k x).buf = s.buf := rfl
@[simp] theorem State.setStack_sched (s : State) (k : Nat) (x : Stack) : (s.setStack k x).sched = s.sched := rfl
@[simp] theorem State.setStack_pool (s : State) (k : Nat) (x : Stack) : (s.setStack k x).pool = s.pool := rfl
@[simp] theorem State.setStack_fab (s : State) (k : Nat) (x : Stack) : (s.setStack k x).fab = s.fab := rfl
@[simp] theorem State.setStack_edit (s : State) (k : Nat) (x : Stack) : (s.setStack k x).edit = s.edit := rfl
@[simp] theorem State.setStack_hier (s : State) (k : Nat) (x : Stack) : (s.setStack k x).hier = s.hier := rfl
@[simp] theorem State.setStack_fw (s : State) (k : Nat) (x : Stack) : (s.setStack k x).fw = s.fw := rfl
@[simp] theorem State.setStack_mode (s : State) (k : Nat) (x : Stack) : (s.setStack k x).mode = s.mode := rfl
@[simp] theorem State.setStack_tel (s : State) (k : Nat) (x : Stack) : (s.setStack k x).tel = s.tel := rfl
@[simp] theorem State.setStack_aux (s : State) (k : Nat) (x : Stack) : (s.setStack k x).aux = s.aux := rfl
@[simp] theorem State.setStack_ctr (s : State) (k : Nat) (x : Stack) : (s.setStack k x).ctr = s.ctr := rfl
@[simp] theorem State.setMod_pending (s : State) (m : Nat) (x : Mod) : (s.setMod m x).pending = s.pending := rfl
@[simp] theorem State.setMod_time (s : State) (m : Nat) (x : Mod) : (s.setMod m x).time = s.time := rfl
@[simp] theorem State.setMod_hif (s : State) (m : Nat) (x : Mod) : (s.setMod m x).hif = s.hif := rfl
@[simp] theorem State.setMod_sec (s : State) (m : Nat) (x : Mod) : (s.setMod m x).sec = s.sec := rfl
@[simp] theorem State.setMod_parse (s : State) (m : Nat) (x : Mod) : (s.setMod m x).parse = s.parse := rfl
@[simp] theorem State.setMod_tbl (s : State) (m : Nat) (x : Mod) : (s.setMod m x).tbl = s.tbl := rfl
@[simp] theorem State.setMod_tcam (s : State) (m : Nat) (x : Mod) : (s.setMod m x).tcam = s.tcam := rfl
@[simp] theorem State.setMod_buf (s : State) (m : Nat) (x : Mod) : (s.setMod m x).buf = s.buf := rfl
@[simp] theorem State.setMod_sched (s : State) (m : Nat) (x : Mod) : (s.setMod m x).sched = s.sched := rfl
@[simp] theorem State.setMod_pool (s : State) (m : Nat) (x : Mod) : (s.setMod m x).pool = s.pool := rfl
@[simp] theorem State.setMod_fab (s : State) (m : Nat) (x : Mod) : (s.setMod m x).fab = s.fab := rfl
@[simp] theorem State.setMod_edit (s : State) (m : Nat) (x : Mod) : (s.setMod m x).edit = s.edit := rfl
@[simp] theorem State.setMod_hbm (s : State) (m : Nat) (x : Mod) : (s.setMod m x).hbm = s.hbm := rfl
@[simp] theorem State.setMod_hier (s : State) (m : Nat) (x : Mod) : (s.setMod m x).hier = s.hier := rfl
@[simp] theorem State.setMod_fw (s : State) (m : Nat) (x : Mod) : (s.setMod m x).fw = s.fw := rfl
@[simp] theorem State.setMod_mode (s : State) (m : Nat) (x : Mod) : (s.setMod m x).mode = s.mode := rfl
@[simp] theorem State.setMod_tel (s : State) (m : Nat) (x : Mod) : (s.setMod m x).tel = s.tel := rfl
@[simp] theorem State.setMod_aux (s : State) (m : Nat) (x : Mod) : (s.setMod m x).aux = s.aux := rfl
@[simp] theorem State.setMod_ctr (s : State) (m : Nat) (x : Mod) : (s.setMod m x).ctr = s.ctr := rfl
@[simp] theorem State.setDir_pending (s : State) (vrf : Nat) (fam : Nat) (d : FibDir) :
    (s.setDir vrf fam d).pending = s.pending := rfl
@[simp] theorem State.setDir_time (s : State) (vrf : Nat) (fam : Nat) (d : FibDir) : (s.setDir vrf fam d).time = s.time := rfl
@[simp] theorem State.setDir_hif (s : State) (vrf : Nat) (fam : Nat) (d : FibDir) : (s.setDir vrf fam d).hif = s.hif := rfl
@[simp] theorem State.setDir_port (s : State) (vrf : Nat) (fam : Nat) (d : FibDir) : (s.setDir vrf fam d).port = s.port := rfl
@[simp] theorem State.setDir_sec (s : State) (vrf : Nat) (fam : Nat) (d : FibDir) : (s.setDir vrf fam d).sec = s.sec := rfl
@[simp] theorem State.setDir_parse (s : State) (vrf : Nat) (fam : Nat) (d : FibDir) :
    (s.setDir vrf fam d).parse = s.parse := rfl
@[simp] theorem State.setDir_tcam (s : State) (vrf : Nat) (fam : Nat) (d : FibDir) : (s.setDir vrf fam d).tcam = s.tcam := rfl
@[simp] theorem State.setDir_buf (s : State) (vrf : Nat) (fam : Nat) (d : FibDir) : (s.setDir vrf fam d).buf = s.buf := rfl
@[simp] theorem State.setDir_sched (s : State) (vrf : Nat) (fam : Nat) (d : FibDir) :
    (s.setDir vrf fam d).sched = s.sched := rfl
@[simp] theorem State.setDir_pool (s : State) (vrf : Nat) (fam : Nat) (d : FibDir) : (s.setDir vrf fam d).pool = s.pool := rfl
@[simp] theorem State.setDir_fab (s : State) (vrf : Nat) (fam : Nat) (d : FibDir) : (s.setDir vrf fam d).fab = s.fab := rfl
@[simp] theorem State.setDir_edit (s : State) (vrf : Nat) (fam : Nat) (d : FibDir) : (s.setDir vrf fam d).edit = s.edit := rfl
@[simp] theorem State.setDir_hbm (s : State) (vrf : Nat) (fam : Nat) (d : FibDir) : (s.setDir vrf fam d).hbm = s.hbm := rfl
@[simp] theorem State.setDir_hier (s : State) (vrf : Nat) (fam : Nat) (d : FibDir) : (s.setDir vrf fam d).hier = s.hier := rfl
@[simp] theorem State.setDir_fw (s : State) (vrf : Nat) (fam : Nat) (d : FibDir) : (s.setDir vrf fam d).fw = s.fw := rfl
@[simp] theorem State.setDir_mode (s : State) (vrf : Nat) (fam : Nat) (d : FibDir) : (s.setDir vrf fam d).mode = s.mode := rfl
@[simp] theorem State.setDir_tel (s : State) (vrf : Nat) (fam : Nat) (d : FibDir) : (s.setDir vrf fam d).tel = s.tel := rfl
@[simp] theorem State.setDir_aux (s : State) (vrf : Nat) (fam : Nat) (d : FibDir) : (s.setDir vrf fam d).aux = s.aux := rfl
@[simp] theorem State.setDir_ctr (s : State) (vrf : Nat) (fam : Nat) (d : FibDir) : (s.setDir vrf fam d).ctr = s.ctr := rfl
@[simp] theorem State.setPeer_pending (s : State) (f : Nat) (x : Peer) : (s.setPeer f x).pending = s.pending := rfl
@[simp] theorem State.setPeer_time (s : State) (f : Nat) (x : Peer) : (s.setPeer f x).time = s.time := rfl
@[simp] theorem State.setPeer_hif (s : State) (f : Nat) (x : Peer) : (s.setPeer f x).hif = s.hif := rfl
@[simp] theorem State.setPeer_port (s : State) (f : Nat) (x : Peer) : (s.setPeer f x).port = s.port := rfl
@[simp] theorem State.setPeer_sec (s : State) (f : Nat) (x : Peer) : (s.setPeer f x).sec = s.sec := rfl
@[simp] theorem State.setPeer_parse (s : State) (f : Nat) (x : Peer) : (s.setPeer f x).parse = s.parse := rfl
@[simp] theorem State.setPeer_tbl (s : State) (f : Nat) (x : Peer) : (s.setPeer f x).tbl = s.tbl := rfl
@[simp] theorem State.setPeer_tcam (s : State) (f : Nat) (x : Peer) : (s.setPeer f x).tcam = s.tcam := rfl
@[simp] theorem State.setPeer_buf (s : State) (f : Nat) (x : Peer) : (s.setPeer f x).buf = s.buf := rfl
@[simp] theorem State.setPeer_sched (s : State) (f : Nat) (x : Peer) : (s.setPeer f x).sched = s.sched := rfl
@[simp] theorem State.setPeer_pool (s : State) (f : Nat) (x : Peer) : (s.setPeer f x).pool = s.pool := rfl
@[simp] theorem State.setPeer_edit (s : State) (f : Nat) (x : Peer) : (s.setPeer f x).edit = s.edit := rfl
@[simp] theorem State.setPeer_hbm (s : State) (f : Nat) (x : Peer) : (s.setPeer f x).hbm = s.hbm := rfl
@[simp] theorem State.setPeer_hier (s : State) (f : Nat) (x : Peer) : (s.setPeer f x).hier = s.hier := rfl
@[simp] theorem State.setPeer_fw (s : State) (f : Nat) (x : Peer) : (s.setPeer f x).fw = s.fw := rfl
@[simp] theorem State.setPeer_mode (s : State) (f : Nat) (x : Peer) : (s.setPeer f x).mode = s.mode := rfl
@[simp] theorem State.setPeer_tel (s : State) (f : Nat) (x : Peer) : (s.setPeer f x).tel = s.tel := rfl
@[simp] theorem State.setPeer_aux (s : State) (f : Nat) (x : Peer) : (s.setPeer f x).aux = s.aux := rfl
@[simp] theorem State.setPeer_ctr (s : State) (f : Nat) (x : Peer) : (s.setPeer f x).ctr = s.ctr := rfl
@[simp] theorem State.setLane_pending (s : State) (l : Nat) (x : Lane) : (s.setLane l x).pending = s.pending := rfl
@[simp] theorem State.setLane_time (s : State) (l : Nat) (x : Lane) : (s.setLane l x).time = s.time := rfl
@[simp] theorem State.setLane_hif (s : State) (l : Nat) (x : Lane) : (s.setLane l x).hif = s.hif := rfl
@[simp] theorem State.setLane_port (s : State) (l : Nat) (x : Lane) : (s.setLane l x).port = s.port := rfl
@[simp] theorem State.setLane_sec (s : State) (l : Nat) (x : Lane) : (s.setLane l x).sec = s.sec := rfl
@[simp] theorem State.setLane_parse (s : State) (l : Nat) (x : Lane) : (s.setLane l x).parse = s.parse := rfl
@[simp] theorem State.setLane_tbl (s : State) (l : Nat) (x : Lane) : (s.setLane l x).tbl = s.tbl := rfl
@[simp] theorem State.setLane_tcam (s : State) (l : Nat) (x : Lane) : (s.setLane l x).tcam = s.tcam := rfl
@[simp] theorem State.setLane_buf (s : State) (l : Nat) (x : Lane) : (s.setLane l x).buf = s.buf := rfl
@[simp] theorem State.setLane_sched (s : State) (l : Nat) (x : Lane) : (s.setLane l x).sched = s.sched := rfl
@[simp] theorem State.setLane_pool (s : State) (l : Nat) (x : Lane) : (s.setLane l x).pool = s.pool := rfl
@[simp] theorem State.setLane_edit (s : State) (l : Nat) (x : Lane) : (s.setLane l x).edit = s.edit := rfl
@[simp] theorem State.setLane_hbm (s : State) (l : Nat) (x : Lane) : (s.setLane l x).hbm = s.hbm := rfl
@[simp] theorem State.setLane_hier (s : State) (l : Nat) (x : Lane) : (s.setLane l x).hier = s.hier := rfl
@[simp] theorem State.setLane_fw (s : State) (l : Nat) (x : Lane) : (s.setLane l x).fw = s.fw := rfl
@[simp] theorem State.setLane_mode (s : State) (l : Nat) (x : Lane) : (s.setLane l x).mode = s.mode := rfl
@[simp] theorem State.setLane_tel (s : State) (l : Nat) (x : Lane) : (s.setLane l x).tel = s.tel := rfl
@[simp] theorem State.setLane_aux (s : State) (l : Nat) (x : Lane) : (s.setLane l x).aux = s.aux := rfl
@[simp] theorem State.setLane_ctr (s : State) (l : Nat) (x : Lane) : (s.setLane l x).ctr = s.ctr := rfl
@[simp] theorem State.setCredit_pending (s : State) (p : Nat) (x : Credit) : (s.setCredit p x).pending = s.pending := rfl
@[simp] theorem State.setCredit_time (s : State) (p : Nat) (x : Credit) : (s.setCredit p x).time = s.time := rfl
@[simp] theorem State.setCredit_hif (s : State) (p : Nat) (x : Credit) : (s.setCredit p x).hif = s.hif := rfl
@[simp] theorem State.setCredit_port (s : State) (p : Nat) (x : Credit) : (s.setCredit p x).port = s.port := rfl
@[simp] theorem State.setCredit_sec (s : State) (p : Nat) (x : Credit) : (s.setCredit p x).sec = s.sec := rfl
@[simp] theorem State.setCredit_parse (s : State) (p : Nat) (x : Credit) : (s.setCredit p x).parse = s.parse := rfl
@[simp] theorem State.setCredit_tbl (s : State) (p : Nat) (x : Credit) : (s.setCredit p x).tbl = s.tbl := rfl
@[simp] theorem State.setCredit_tcam (s : State) (p : Nat) (x : Credit) : (s.setCredit p x).tcam = s.tcam := rfl
@[simp] theorem State.setCredit_buf (s : State) (p : Nat) (x : Credit) : (s.setCredit p x).buf = s.buf := rfl
@[simp] theorem State.setCredit_sched (s : State) (p : Nat) (x : Credit) : (s.setCredit p x).sched = s.sched := rfl
@[simp] theorem State.setCredit_pool (s : State) (p : Nat) (x : Credit) : (s.setCredit p x).pool = s.pool := rfl
@[simp] theorem State.setCredit_edit (s : State) (p : Nat) (x : Credit) : (s.setCredit p x).edit = s.edit := rfl
@[simp] theorem State.setCredit_hbm (s : State) (p : Nat) (x : Credit) : (s.setCredit p x).hbm = s.hbm := rfl
@[simp] theorem State.setCredit_hier (s : State) (p : Nat) (x : Credit) : (s.setCredit p x).hier = s.hier := rfl
@[simp] theorem State.setCredit_fw (s : State) (p : Nat) (x : Credit) : (s.setCredit p x).fw = s.fw := rfl
@[simp] theorem State.setCredit_mode (s : State) (p : Nat) (x : Credit) : (s.setCredit p x).mode = s.mode := rfl
@[simp] theorem State.setCredit_tel (s : State) (p : Nat) (x : Credit) : (s.setCredit p x).tel = s.tel := rfl
@[simp] theorem State.setCredit_aux (s : State) (p : Nat) (x : Credit) : (s.setCredit p x).aux = s.aux := rfl
@[simp] theorem State.setCredit_ctr (s : State) (p : Nat) (x : Credit) : (s.setCredit p x).ctr = s.ctr := rfl
@[simp] theorem State.setSecy_pending (s : State) (p : Nat) (y : SecY) : (s.setSecy p y).pending = s.pending := rfl
@[simp] theorem State.setSecy_time (s : State) (p : Nat) (y : SecY) : (s.setSecy p y).time = s.time := rfl
@[simp] theorem State.setSecy_hif (s : State) (p : Nat) (y : SecY) : (s.setSecy p y).hif = s.hif := rfl
@[simp] theorem State.setSecy_port (s : State) (p : Nat) (y : SecY) : (s.setSecy p y).port = s.port := rfl
@[simp] theorem State.setSecy_parse (s : State) (p : Nat) (y : SecY) : (s.setSecy p y).parse = s.parse := rfl
@[simp] theorem State.setSecy_tbl (s : State) (p : Nat) (y : SecY) : (s.setSecy p y).tbl = s.tbl := rfl
@[simp] theorem State.setSecy_tcam (s : State) (p : Nat) (y : SecY) : (s.setSecy p y).tcam = s.tcam := rfl
@[simp] theorem State.setSecy_buf (s : State) (p : Nat) (y : SecY) : (s.setSecy p y).buf = s.buf := rfl
@[simp] theorem State.setSecy_sched (s : State) (p : Nat) (y : SecY) : (s.setSecy p y).sched = s.sched := rfl
@[simp] theorem State.setSecy_pool (s : State) (p : Nat) (y : SecY) : (s.setSecy p y).pool = s.pool := rfl
@[simp] theorem State.setSecy_fab (s : State) (p : Nat) (y : SecY) : (s.setSecy p y).fab = s.fab := rfl
@[simp] theorem State.setSecy_edit (s : State) (p : Nat) (y : SecY) : (s.setSecy p y).edit = s.edit := rfl
@[simp] theorem State.setSecy_hbm (s : State) (p : Nat) (y : SecY) : (s.setSecy p y).hbm = s.hbm := rfl
@[simp] theorem State.setSecy_hier (s : State) (p : Nat) (y : SecY) : (s.setSecy p y).hier = s.hier := rfl
@[simp] theorem State.setSecy_fw (s : State) (p : Nat) (y : SecY) : (s.setSecy p y).fw = s.fw := rfl
@[simp] theorem State.setSecy_mode (s : State) (p : Nat) (y : SecY) : (s.setSecy p y).mode = s.mode := rfl
@[simp] theorem State.setSecy_tel (s : State) (p : Nat) (y : SecY) : (s.setSecy p y).tel = s.tel := rfl
@[simp] theorem State.setSecy_aux (s : State) (p : Nat) (y : SecY) : (s.setSecy p y).aux = s.aux := rfl
@[simp] theorem State.setSecy_ctr (s : State) (p : Nat) (y : SecY) : (s.setSecy p y).ctr = s.ctr := rfl
@[simp] theorem State.setPoolBuf_pending (s : State) (p : Nat) (i : Nat) (b : PoolBuf) :
    (s.setPoolBuf p i b).pending = s.pending := rfl
@[simp] theorem State.setPoolBuf_time (s : State) (p : Nat) (i : Nat) (b : PoolBuf) :
    (s.setPoolBuf p i b).time = s.time := rfl
@[simp] theorem State.setPoolBuf_hif (s : State) (p : Nat) (i : Nat) (b : PoolBuf) : (s.setPoolBuf p i b).hif = s.hif := rfl
@[simp] theorem State.setPoolBuf_port (s : State) (p : Nat) (i : Nat) (b : PoolBuf) :
    (s.setPoolBuf p i b).port = s.port := rfl
@[simp] theorem State.setPoolBuf_sec (s : State) (p : Nat) (i : Nat) (b : PoolBuf) : (s.setPoolBuf p i b).sec = s.sec := rfl
@[simp] theorem State.setPoolBuf_parse (s : State) (p : Nat) (i : Nat) (b : PoolBuf) :
    (s.setPoolBuf p i b).parse = s.parse := rfl
@[simp] theorem State.setPoolBuf_tbl (s : State) (p : Nat) (i : Nat) (b : PoolBuf) : (s.setPoolBuf p i b).tbl = s.tbl := rfl
@[simp] theorem State.setPoolBuf_tcam (s : State) (p : Nat) (i : Nat) (b : PoolBuf) :
    (s.setPoolBuf p i b).tcam = s.tcam := rfl
@[simp] theorem State.setPoolBuf_buf (s : State) (p : Nat) (i : Nat) (b : PoolBuf) : (s.setPoolBuf p i b).buf = s.buf := rfl
@[simp] theorem State.setPoolBuf_sched (s : State) (p : Nat) (i : Nat) (b : PoolBuf) :
    (s.setPoolBuf p i b).sched = s.sched := rfl
@[simp] theorem State.setPoolBuf_fab (s : State) (p : Nat) (i : Nat) (b : PoolBuf) : (s.setPoolBuf p i b).fab = s.fab := rfl
@[simp] theorem State.setPoolBuf_edit (s : State) (p : Nat) (i : Nat) (b : PoolBuf) :
    (s.setPoolBuf p i b).edit = s.edit := rfl
@[simp] theorem State.setPoolBuf_hbm (s : State) (p : Nat) (i : Nat) (b : PoolBuf) : (s.setPoolBuf p i b).hbm = s.hbm := rfl
@[simp] theorem State.setPoolBuf_hier (s : State) (p : Nat) (i : Nat) (b : PoolBuf) :
    (s.setPoolBuf p i b).hier = s.hier := rfl
@[simp] theorem State.setPoolBuf_fw (s : State) (p : Nat) (i : Nat) (b : PoolBuf) : (s.setPoolBuf p i b).fw = s.fw := rfl
@[simp] theorem State.setPoolBuf_mode (s : State) (p : Nat) (i : Nat) (b : PoolBuf) :
    (s.setPoolBuf p i b).mode = s.mode := rfl
@[simp] theorem State.setPoolBuf_tel (s : State) (p : Nat) (i : Nat) (b : PoolBuf) : (s.setPoolBuf p i b).tel = s.tel := rfl
@[simp] theorem State.setPoolBuf_aux (s : State) (p : Nat) (i : Nat) (b : PoolBuf) : (s.setPoolBuf p i b).aux = s.aux := rfl
@[simp] theorem State.setPoolBuf_ctr (s : State) (p : Nat) (i : Nat) (b : PoolBuf) : (s.setPoolBuf p i b).ctr = s.ctr := rfl
@[simp] theorem State.setPrt_pending (s : State) (p : Nat) (x : Port) : (s.setPrt p x).pending = s.pending := rfl
@[simp] theorem State.setPrt_time (s : State) (p : Nat) (x : Port) : (s.setPrt p x).time = s.time := rfl
@[simp] theorem State.setPrt_hif (s : State) (p : Nat) (x : Port) : (s.setPrt p x).hif = s.hif := rfl
@[simp] theorem State.setPrt_sec (s : State) (p : Nat) (x : Port) : (s.setPrt p x).sec = s.sec := rfl
@[simp] theorem State.setPrt_parse (s : State) (p : Nat) (x : Port) : (s.setPrt p x).parse = s.parse := rfl
@[simp] theorem State.setPrt_tbl (s : State) (p : Nat) (x : Port) : (s.setPrt p x).tbl = s.tbl := rfl
@[simp] theorem State.setPrt_tcam (s : State) (p : Nat) (x : Port) : (s.setPrt p x).tcam = s.tcam := rfl
@[simp] theorem State.setPrt_buf (s : State) (p : Nat) (x : Port) : (s.setPrt p x).buf = s.buf := rfl
@[simp] theorem State.setPrt_sched (s : State) (p : Nat) (x : Port) : (s.setPrt p x).sched = s.sched := rfl
@[simp] theorem State.setPrt_pool (s : State) (p : Nat) (x : Port) : (s.setPrt p x).pool = s.pool := rfl
@[simp] theorem State.setPrt_fab (s : State) (p : Nat) (x : Port) : (s.setPrt p x).fab = s.fab := rfl
@[simp] theorem State.setPrt_edit (s : State) (p : Nat) (x : Port) : (s.setPrt p x).edit = s.edit := rfl
@[simp] theorem State.setPrt_hbm (s : State) (p : Nat) (x : Port) : (s.setPrt p x).hbm = s.hbm := rfl
@[simp] theorem State.setPrt_hier (s : State) (p : Nat) (x : Port) : (s.setPrt p x).hier = s.hier := rfl
@[simp] theorem State.setPrt_fw (s : State) (p : Nat) (x : Port) : (s.setPrt p x).fw = s.fw := rfl
@[simp] theorem State.setPrt_mode (s : State) (p : Nat) (x : Port) : (s.setPrt p x).mode = s.mode := rfl
@[simp] theorem State.setPrt_tel (s : State) (p : Nat) (x : Port) : (s.setPrt p x).tel = s.tel := rfl
@[simp] theorem State.setPrt_aux (s : State) (p : Nat) (x : Port) : (s.setPrt p x).aux = s.aux := rfl
@[simp] theorem State.setPrt_ctr (s : State) (p : Nat) (x : Port) : (s.setPrt p x).ctr = s.ctr := rfl
@[simp] theorem State.setGrp_pending (s : State) (g : Nat) (x : Group) : (s.setGrp g x).pending = s.pending := rfl
@[simp] theorem State.setGrp_time (s : State) (g : Nat) (x : Group) : (s.setGrp g x).time = s.time := rfl
@[simp] theorem State.setGrp_hif (s : State) (g : Nat) (x : Group) : (s.setGrp g x).hif = s.hif := rfl
@[simp] theorem State.setGrp_sec (s : State) (g : Nat) (x : Group) : (s.setGrp g x).sec = s.sec := rfl
@[simp] theorem State.setGrp_parse (s : State) (g : Nat) (x : Group) : (s.setGrp g x).parse = s.parse := rfl
@[simp] theorem State.setGrp_tbl (s : State) (g : Nat) (x : Group) : (s.setGrp g x).tbl = s.tbl := rfl
@[simp] theorem State.setGrp_tcam (s : State) (g : Nat) (x : Group) : (s.setGrp g x).tcam = s.tcam := rfl
@[simp] theorem State.setGrp_buf (s : State) (g : Nat) (x : Group) : (s.setGrp g x).buf = s.buf := rfl
@[simp] theorem State.setGrp_sched (s : State) (g : Nat) (x : Group) : (s.setGrp g x).sched = s.sched := rfl
@[simp] theorem State.setGrp_pool (s : State) (g : Nat) (x : Group) : (s.setGrp g x).pool = s.pool := rfl
@[simp] theorem State.setGrp_fab (s : State) (g : Nat) (x : Group) : (s.setGrp g x).fab = s.fab := rfl
@[simp] theorem State.setGrp_edit (s : State) (g : Nat) (x : Group) : (s.setGrp g x).edit = s.edit := rfl
@[simp] theorem State.setGrp_hbm (s : State) (g : Nat) (x : Group) : (s.setGrp g x).hbm = s.hbm := rfl
@[simp] theorem State.setGrp_hier (s : State) (g : Nat) (x : Group) : (s.setGrp g x).hier = s.hier := rfl
@[simp] theorem State.setGrp_fw (s : State) (g : Nat) (x : Group) : (s.setGrp g x).fw = s.fw := rfl
@[simp] theorem State.setGrp_mode (s : State) (g : Nat) (x : Group) : (s.setGrp g x).mode = s.mode := rfl
@[simp] theorem State.setGrp_tel (s : State) (g : Nat) (x : Group) : (s.setGrp g x).tel = s.tel := rfl
@[simp] theorem State.setGrp_aux (s : State) (g : Nat) (x : Group) : (s.setGrp g x).aux = s.aux := rfl
@[simp] theorem State.setGrp_ctr (s : State) (g : Nat) (x : Group) : (s.setGrp g x).ctr = s.ctr := rfl
@[simp] theorem State.count_pending (s : State) (table : Nat) (name : Nat) (i : Nat) (j : Nat) (n : Nat) :
    (s.count table name i j n).pending = s.pending := rfl
@[simp] theorem State.count_time (s : State) (table : Nat) (name : Nat) (i : Nat) (j : Nat) (n : Nat) :
    (s.count table name i j n).time = s.time := rfl
@[simp] theorem State.count_hif (s : State) (table : Nat) (name : Nat) (i : Nat) (j : Nat) (n : Nat) :
    (s.count table name i j n).hif = s.hif := rfl
@[simp] theorem State.count_port (s : State) (table : Nat) (name : Nat) (i : Nat) (j : Nat) (n : Nat) :
    (s.count table name i j n).port = s.port := rfl
@[simp] theorem State.count_sec (s : State) (table : Nat) (name : Nat) (i : Nat) (j : Nat) (n : Nat) :
    (s.count table name i j n).sec = s.sec := rfl
@[simp] theorem State.count_parse (s : State) (table : Nat) (name : Nat) (i : Nat) (j : Nat) (n : Nat) :
    (s.count table name i j n).parse = s.parse := rfl
@[simp] theorem State.count_tbl (s : State) (table : Nat) (name : Nat) (i : Nat) (j : Nat) (n : Nat) :
    (s.count table name i j n).tbl = s.tbl := rfl
@[simp] theorem State.count_tcam (s : State) (table : Nat) (name : Nat) (i : Nat) (j : Nat) (n : Nat) :
    (s.count table name i j n).tcam = s.tcam := rfl
@[simp] theorem State.count_buf (s : State) (table : Nat) (name : Nat) (i : Nat) (j : Nat) (n : Nat) :
    (s.count table name i j n).buf = s.buf := rfl
@[simp] theorem State.count_sched (s : State) (table : Nat) (name : Nat) (i : Nat) (j : Nat) (n : Nat) :
    (s.count table name i j n).sched = s.sched := rfl
@[simp] theorem State.count_pool (s : State) (table : Nat) (name : Nat) (i : Nat) (j : Nat) (n : Nat) :
    (s.count table name i j n).pool = s.pool := rfl
@[simp] theorem State.count_fab (s : State) (table : Nat) (name : Nat) (i : Nat) (j : Nat) (n : Nat) :
    (s.count table name i j n).fab = s.fab := rfl
@[simp] theorem State.count_edit (s : State) (table : Nat) (name : Nat) (i : Nat) (j : Nat) (n : Nat) :
    (s.count table name i j n).edit = s.edit := rfl
@[simp] theorem State.count_hbm (s : State) (table : Nat) (name : Nat) (i : Nat) (j : Nat) (n : Nat) :
    (s.count table name i j n).hbm = s.hbm := rfl
@[simp] theorem State.count_hier (s : State) (table : Nat) (name : Nat) (i : Nat) (j : Nat) (n : Nat) :
    (s.count table name i j n).hier = s.hier := rfl
@[simp] theorem State.count_fw (s : State) (table : Nat) (name : Nat) (i : Nat) (j : Nat) (n : Nat) :
    (s.count table name i j n).fw = s.fw := rfl
@[simp] theorem State.count_mode (s : State) (table : Nat) (name : Nat) (i : Nat) (j : Nat) (n : Nat) :
    (s.count table name i j n).mode = s.mode := rfl
@[simp] theorem State.count_tel (s : State) (table : Nat) (name : Nat) (i : Nat) (j : Nat) (n : Nat) :
    (s.count table name i j n).tel = s.tel := rfl
@[simp] theorem State.count_aux (s : State) (table : Nat) (name : Nat) (i : Nat) (j : Nat) (n : Nat) :
    (s.count table name i j n).aux = s.aux := rfl
@[simp] theorem State.setVec_pending (s : State) (v : Nat) (x : Vec) : (s.setVec v x).pending = s.pending := rfl
@[simp] theorem State.setVec_time (s : State) (v : Nat) (x : Vec) : (s.setVec v x).time = s.time := rfl
@[simp] theorem State.setVec_port (s : State) (v : Nat) (x : Vec) : (s.setVec v x).port = s.port := rfl
@[simp] theorem State.setVec_sec (s : State) (v : Nat) (x : Vec) : (s.setVec v x).sec = s.sec := rfl
@[simp] theorem State.setVec_parse (s : State) (v : Nat) (x : Vec) : (s.setVec v x).parse = s.parse := rfl
@[simp] theorem State.setVec_tbl (s : State) (v : Nat) (x : Vec) : (s.setVec v x).tbl = s.tbl := rfl
@[simp] theorem State.setVec_tcam (s : State) (v : Nat) (x : Vec) : (s.setVec v x).tcam = s.tcam := rfl
@[simp] theorem State.setVec_buf (s : State) (v : Nat) (x : Vec) : (s.setVec v x).buf = s.buf := rfl
@[simp] theorem State.setVec_sched (s : State) (v : Nat) (x : Vec) : (s.setVec v x).sched = s.sched := rfl
@[simp] theorem State.setVec_pool (s : State) (v : Nat) (x : Vec) : (s.setVec v x).pool = s.pool := rfl
@[simp] theorem State.setVec_fab (s : State) (v : Nat) (x : Vec) : (s.setVec v x).fab = s.fab := rfl
@[simp] theorem State.setVec_edit (s : State) (v : Nat) (x : Vec) : (s.setVec v x).edit = s.edit := rfl
@[simp] theorem State.setVec_hbm (s : State) (v : Nat) (x : Vec) : (s.setVec v x).hbm = s.hbm := rfl
@[simp] theorem State.setVec_hier (s : State) (v : Nat) (x : Vec) : (s.setVec v x).hier = s.hier := rfl
@[simp] theorem State.setVec_fw (s : State) (v : Nat) (x : Vec) : (s.setVec v x).fw = s.fw := rfl
@[simp] theorem State.setVec_mode (s : State) (v : Nat) (x : Vec) : (s.setVec v x).mode = s.mode := rfl
@[simp] theorem State.setVec_tel (s : State) (v : Nat) (x : Vec) : (s.setVec v x).tel = s.tel := rfl
@[simp] theorem State.setVec_aux (s : State) (v : Nat) (x : Vec) : (s.setVec v x).aux = s.aux := rfl
@[simp] theorem State.setVec_ctr (s : State) (v : Nat) (x : Vec) : (s.setVec v x).ctr = s.ctr := rfl
@[simp] theorem State.setMember_pending (s : State) (f : Nat) (x : Member) : (s.setMember f x).pending = s.pending := rfl
@[simp] theorem State.setMember_time (s : State) (f : Nat) (x : Member) : (s.setMember f x).time = s.time := rfl
@[simp] theorem State.setMember_hif (s : State) (f : Nat) (x : Member) : (s.setMember f x).hif = s.hif := rfl
@[simp] theorem State.setMember_port (s : State) (f : Nat) (x : Member) : (s.setMember f x).port = s.port := rfl
@[simp] theorem State.setMember_sec (s : State) (f : Nat) (x : Member) : (s.setMember f x).sec = s.sec := rfl
@[simp] theorem State.setMember_parse (s : State) (f : Nat) (x : Member) : (s.setMember f x).parse = s.parse := rfl
@[simp] theorem State.setMember_tbl (s : State) (f : Nat) (x : Member) : (s.setMember f x).tbl = s.tbl := rfl
@[simp] theorem State.setMember_tcam (s : State) (f : Nat) (x : Member) : (s.setMember f x).tcam = s.tcam := rfl
@[simp] theorem State.setMember_buf (s : State) (f : Nat) (x : Member) : (s.setMember f x).buf = s.buf := rfl
@[simp] theorem State.setMember_sched (s : State) (f : Nat) (x : Member) : (s.setMember f x).sched = s.sched := rfl
@[simp] theorem State.setMember_pool (s : State) (f : Nat) (x : Member) : (s.setMember f x).pool = s.pool := rfl
@[simp] theorem State.setMember_fab (s : State) (f : Nat) (x : Member) : (s.setMember f x).fab = s.fab := rfl
@[simp] theorem State.setMember_edit (s : State) (f : Nat) (x : Member) : (s.setMember f x).edit = s.edit := rfl
@[simp] theorem State.setMember_hbm (s : State) (f : Nat) (x : Member) : (s.setMember f x).hbm = s.hbm := rfl
@[simp] theorem State.setMember_fw (s : State) (f : Nat) (x : Member) : (s.setMember f x).fw = s.fw := rfl
@[simp] theorem State.setMember_mode (s : State) (f : Nat) (x : Member) : (s.setMember f x).mode = s.mode := rfl
@[simp] theorem State.setMember_tel (s : State) (f : Nat) (x : Member) : (s.setMember f x).tel = s.tel := rfl
@[simp] theorem State.setMember_aux (s : State) (f : Nat) (x : Member) : (s.setMember f x).aux = s.aux := rfl
@[simp] theorem State.setMember_ctr (s : State) (f : Nat) (x : Member) : (s.setMember f x).ctr = s.ctr := rfl
@[simp] theorem State.setPerf_pending (s : State) (die : Nat) (n : Nat) (x : Perf) :
    (s.setPerf die n x).pending = s.pending := rfl
@[simp] theorem State.setPerf_time (s : State) (die : Nat) (n : Nat) (x : Perf) : (s.setPerf die n x).time = s.time := rfl
@[simp] theorem State.setPerf_hif (s : State) (die : Nat) (n : Nat) (x : Perf) : (s.setPerf die n x).hif = s.hif := rfl
@[simp] theorem State.setPerf_port (s : State) (die : Nat) (n : Nat) (x : Perf) : (s.setPerf die n x).port = s.port := rfl
@[simp] theorem State.setPerf_sec (s : State) (die : Nat) (n : Nat) (x : Perf) : (s.setPerf die n x).sec = s.sec := rfl
@[simp] theorem State.setPerf_parse (s : State) (die : Nat) (n : Nat) (x : Perf) : (s.setPerf die n x).parse = s.parse := rfl
@[simp] theorem State.setPerf_tbl (s : State) (die : Nat) (n : Nat) (x : Perf) : (s.setPerf die n x).tbl = s.tbl := rfl
@[simp] theorem State.setPerf_tcam (s : State) (die : Nat) (n : Nat) (x : Perf) : (s.setPerf die n x).tcam = s.tcam := rfl
@[simp] theorem State.setPerf_buf (s : State) (die : Nat) (n : Nat) (x : Perf) : (s.setPerf die n x).buf = s.buf := rfl
@[simp] theorem State.setPerf_sched (s : State) (die : Nat) (n : Nat) (x : Perf) : (s.setPerf die n x).sched = s.sched := rfl
@[simp] theorem State.setPerf_pool (s : State) (die : Nat) (n : Nat) (x : Perf) : (s.setPerf die n x).pool = s.pool := rfl
@[simp] theorem State.setPerf_fab (s : State) (die : Nat) (n : Nat) (x : Perf) : (s.setPerf die n x).fab = s.fab := rfl
@[simp] theorem State.setPerf_edit (s : State) (die : Nat) (n : Nat) (x : Perf) : (s.setPerf die n x).edit = s.edit := rfl
@[simp] theorem State.setPerf_hbm (s : State) (die : Nat) (n : Nat) (x : Perf) : (s.setPerf die n x).hbm = s.hbm := rfl
@[simp] theorem State.setPerf_hier (s : State) (die : Nat) (n : Nat) (x : Perf) : (s.setPerf die n x).hier = s.hier := rfl
@[simp] theorem State.setPerf_fw (s : State) (die : Nat) (n : Nat) (x : Perf) : (s.setPerf die n x).fw = s.fw := rfl
@[simp] theorem State.setPerf_mode (s : State) (die : Nat) (n : Nat) (x : Perf) : (s.setPerf die n x).mode = s.mode := rfl
@[simp] theorem State.setPerf_aux (s : State) (die : Nat) (n : Nat) (x : Perf) : (s.setPerf die n x).aux = s.aux := rfl
@[simp] theorem State.setPerf_ctr (s : State) (die : Nat) (n : Nat) (x : Perf) : (s.setPerf die n x).ctr = s.ctr := rfl
@[simp] theorem State.setPc_pending (s : State) (p : Nat) (x : Pc) : (s.setPc p x).pending = s.pending := rfl
@[simp] theorem State.setPc_time (s : State) (p : Nat) (x : Pc) : (s.setPc p x).time = s.time := rfl
@[simp] theorem State.setPc_hif (s : State) (p : Nat) (x : Pc) : (s.setPc p x).hif = s.hif := rfl
@[simp] theorem State.setPc_port (s : State) (p : Nat) (x : Pc) : (s.setPc p x).port = s.port := rfl
@[simp] theorem State.setPc_sec (s : State) (p : Nat) (x : Pc) : (s.setPc p x).sec = s.sec := rfl
@[simp] theorem State.setPc_parse (s : State) (p : Nat) (x : Pc) : (s.setPc p x).parse = s.parse := rfl
@[simp] theorem State.setPc_tbl (s : State) (p : Nat) (x : Pc) : (s.setPc p x).tbl = s.tbl := rfl
@[simp] theorem State.setPc_tcam (s : State) (p : Nat) (x : Pc) : (s.setPc p x).tcam = s.tcam := rfl
@[simp] theorem State.setPc_buf (s : State) (p : Nat) (x : Pc) : (s.setPc p x).buf = s.buf := rfl
@[simp] theorem State.setPc_sched (s : State) (p : Nat) (x : Pc) : (s.setPc p x).sched = s.sched := rfl
@[simp] theorem State.setPc_pool (s : State) (p : Nat) (x : Pc) : (s.setPc p x).pool = s.pool := rfl
@[simp] theorem State.setPc_fab (s : State) (p : Nat) (x : Pc) : (s.setPc p x).fab = s.fab := rfl
@[simp] theorem State.setPc_edit (s : State) (p : Nat) (x : Pc) : (s.setPc p x).edit = s.edit := rfl
@[simp] theorem State.setPc_hier (s : State) (p : Nat) (x : Pc) : (s.setPc p x).hier = s.hier := rfl
@[simp] theorem State.setPc_fw (s : State) (p : Nat) (x : Pc) : (s.setPc p x).fw = s.fw := rfl
@[simp] theorem State.setPc_mode (s : State) (p : Nat) (x : Pc) : (s.setPc p x).mode = s.mode := rfl
@[simp] theorem State.setPc_tel (s : State) (p : Nat) (x : Pc) : (s.setPc p x).tel = s.tel := rfl
@[simp] theorem State.setPc_aux (s : State) (p : Nat) (x : Pc) : (s.setPc p x).aux = s.aux := rfl
@[simp] theorem State.setPc_ctr (s : State) (p : Nat) (x : Pc) : (s.setPc p x).ctr = s.ctr := rfl
@[simp] theorem State.setBank_pending (s : State) (p : Nat) (b : Nat) (x : Bank) :
    (s.setBank p b x).pending = s.pending := rfl
@[simp] theorem State.setBank_time (s : State) (p : Nat) (b : Nat) (x : Bank) : (s.setBank p b x).time = s.time := rfl
@[simp] theorem State.setBank_hif (s : State) (p : Nat) (b : Nat) (x : Bank) : (s.setBank p b x).hif = s.hif := rfl
@[simp] theorem State.setBank_port (s : State) (p : Nat) (b : Nat) (x : Bank) : (s.setBank p b x).port = s.port := rfl
@[simp] theorem State.setBank_sec (s : State) (p : Nat) (b : Nat) (x : Bank) : (s.setBank p b x).sec = s.sec := rfl
@[simp] theorem State.setBank_parse (s : State) (p : Nat) (b : Nat) (x : Bank) : (s.setBank p b x).parse = s.parse := rfl
@[simp] theorem State.setBank_tbl (s : State) (p : Nat) (b : Nat) (x : Bank) : (s.setBank p b x).tbl = s.tbl := rfl
@[simp] theorem State.setBank_tcam (s : State) (p : Nat) (b : Nat) (x : Bank) : (s.setBank p b x).tcam = s.tcam := rfl
@[simp] theorem State.setBank_buf (s : State) (p : Nat) (b : Nat) (x : Bank) : (s.setBank p b x).buf = s.buf := rfl
@[simp] theorem State.setBank_sched (s : State) (p : Nat) (b : Nat) (x : Bank) : (s.setBank p b x).sched = s.sched := rfl
@[simp] theorem State.setBank_pool (s : State) (p : Nat) (b : Nat) (x : Bank) : (s.setBank p b x).pool = s.pool := rfl
@[simp] theorem State.setBank_fab (s : State) (p : Nat) (b : Nat) (x : Bank) : (s.setBank p b x).fab = s.fab := rfl
@[simp] theorem State.setBank_edit (s : State) (p : Nat) (b : Nat) (x : Bank) : (s.setBank p b x).edit = s.edit := rfl
@[simp] theorem State.setBank_hier (s : State) (p : Nat) (b : Nat) (x : Bank) : (s.setBank p b x).hier = s.hier := rfl
@[simp] theorem State.setBank_fw (s : State) (p : Nat) (b : Nat) (x : Bank) : (s.setBank p b x).fw = s.fw := rfl
@[simp] theorem State.setBank_mode (s : State) (p : Nat) (b : Nat) (x : Bank) : (s.setBank p b x).mode = s.mode := rfl
@[simp] theorem State.setBank_tel (s : State) (p : Nat) (b : Nat) (x : Bank) : (s.setBank p b x).tel = s.tel := rfl
@[simp] theorem State.setBank_aux (s : State) (p : Nat) (b : Nat) (x : Bank) : (s.setBank p b x).aux = s.aux := rfl
@[simp] theorem State.setBank_ctr (s : State) (p : Nat) (b : Nat) (x : Bank) : (s.setBank p b x).ctr = s.ctr := rfl
@[simp] theorem State.setPolicer_pending (s : State) (i : Nat) (x : Policer) : (s.setPolicer i x).pending = s.pending := rfl
@[simp] theorem State.setPolicer_time (s : State) (i : Nat) (x : Policer) : (s.setPolicer i x).time = s.time := rfl
@[simp] theorem State.setPolicer_hif (s : State) (i : Nat) (x : Policer) : (s.setPolicer i x).hif = s.hif := rfl
@[simp] theorem State.setPolicer_port (s : State) (i : Nat) (x : Policer) : (s.setPolicer i x).port = s.port := rfl
@[simp] theorem State.setPolicer_sec (s : State) (i : Nat) (x : Policer) : (s.setPolicer i x).sec = s.sec := rfl
@[simp] theorem State.setPolicer_parse (s : State) (i : Nat) (x : Policer) : (s.setPolicer i x).parse = s.parse := rfl
@[simp] theorem State.setPolicer_tbl (s : State) (i : Nat) (x : Policer) : (s.setPolicer i x).tbl = s.tbl := rfl
@[simp] theorem State.setPolicer_tcam (s : State) (i : Nat) (x : Policer) : (s.setPolicer i x).tcam = s.tcam := rfl
@[simp] theorem State.setPolicer_buf (s : State) (i : Nat) (x : Policer) : (s.setPolicer i x).buf = s.buf := rfl
@[simp] theorem State.setPolicer_pool (s : State) (i : Nat) (x : Policer) : (s.setPolicer i x).pool = s.pool := rfl
@[simp] theorem State.setPolicer_fab (s : State) (i : Nat) (x : Policer) : (s.setPolicer i x).fab = s.fab := rfl
@[simp] theorem State.setPolicer_edit (s : State) (i : Nat) (x : Policer) : (s.setPolicer i x).edit = s.edit := rfl
@[simp] theorem State.setPolicer_hbm (s : State) (i : Nat) (x : Policer) : (s.setPolicer i x).hbm = s.hbm := rfl
@[simp] theorem State.setPolicer_hier (s : State) (i : Nat) (x : Policer) : (s.setPolicer i x).hier = s.hier := rfl
@[simp] theorem State.setPolicer_fw (s : State) (i : Nat) (x : Policer) : (s.setPolicer i x).fw = s.fw := rfl
@[simp] theorem State.setPolicer_mode (s : State) (i : Nat) (x : Policer) : (s.setPolicer i x).mode = s.mode := rfl
@[simp] theorem State.setPolicer_tel (s : State) (i : Nat) (x : Policer) : (s.setPolicer i x).tel = s.tel := rfl
@[simp] theorem State.setPolicer_aux (s : State) (i : Nat) (x : Policer) : (s.setPolicer i x).aux = s.aux := rfl
@[simp] theorem State.setPolicer_ctr (s : State) (i : Nat) (x : Policer) : (s.setPolicer i x).ctr = s.ctr := rfl
@[simp] theorem State.setNode_pending (s : State) (n : Nat) (x : Node) : (s.setNode n x).pending = s.pending := rfl
@[simp] theorem State.setNode_time (s : State) (n : Nat) (x : Node) : (s.setNode n x).time = s.time := rfl
@[simp] theorem State.setNode_hif (s : State) (n : Nat) (x : Node) : (s.setNode n x).hif = s.hif := rfl
@[simp] theorem State.setNode_port (s : State) (n : Nat) (x : Node) : (s.setNode n x).port = s.port := rfl
@[simp] theorem State.setNode_sec (s : State) (n : Nat) (x : Node) : (s.setNode n x).sec = s.sec := rfl
@[simp] theorem State.setNode_parse (s : State) (n : Nat) (x : Node) : (s.setNode n x).parse = s.parse := rfl
@[simp] theorem State.setNode_tbl (s : State) (n : Nat) (x : Node) : (s.setNode n x).tbl = s.tbl := rfl
@[simp] theorem State.setNode_tcam (s : State) (n : Nat) (x : Node) : (s.setNode n x).tcam = s.tcam := rfl
@[simp] theorem State.setNode_buf (s : State) (n : Nat) (x : Node) : (s.setNode n x).buf = s.buf := rfl
@[simp] theorem State.setNode_pool (s : State) (n : Nat) (x : Node) : (s.setNode n x).pool = s.pool := rfl
@[simp] theorem State.setNode_fab (s : State) (n : Nat) (x : Node) : (s.setNode n x).fab = s.fab := rfl
@[simp] theorem State.setNode_edit (s : State) (n : Nat) (x : Node) : (s.setNode n x).edit = s.edit := rfl
@[simp] theorem State.setNode_hbm (s : State) (n : Nat) (x : Node) : (s.setNode n x).hbm = s.hbm := rfl
@[simp] theorem State.setNode_hier (s : State) (n : Nat) (x : Node) : (s.setNode n x).hier = s.hier := rfl
@[simp] theorem State.setNode_fw (s : State) (n : Nat) (x : Node) : (s.setNode n x).fw = s.fw := rfl
@[simp] theorem State.setNode_mode (s : State) (n : Nat) (x : Node) : (s.setNode n x).mode = s.mode := rfl
@[simp] theorem State.setNode_tel (s : State) (n : Nat) (x : Node) : (s.setNode n x).tel = s.tel := rfl
@[simp] theorem State.setNode_aux (s : State) (n : Nat) (x : Node) : (s.setNode n x).aux = s.aux := rfl
@[simp] theorem State.setNode_ctr (s : State) (n : Nat) (x : Node) : (s.setNode n x).ctr = s.ctr := rfl
@[simp] theorem State.setClass_pending (s : State) (tc : Nat) (x : ClassNode) : (s.setClass tc x).pending = s.pending := rfl
@[simp] theorem State.setClass_time (s : State) (tc : Nat) (x : ClassNode) : (s.setClass tc x).time = s.time := rfl
@[simp] theorem State.setClass_hif (s : State) (tc : Nat) (x : ClassNode) : (s.setClass tc x).hif = s.hif := rfl
@[simp] theorem State.setClass_port (s : State) (tc : Nat) (x : ClassNode) : (s.setClass tc x).port = s.port := rfl
@[simp] theorem State.setClass_sec (s : State) (tc : Nat) (x : ClassNode) : (s.setClass tc x).sec = s.sec := rfl
@[simp] theorem State.setClass_parse (s : State) (tc : Nat) (x : ClassNode) : (s.setClass tc x).parse = s.parse := rfl
@[simp] theorem State.setClass_tbl (s : State) (tc : Nat) (x : ClassNode) : (s.setClass tc x).tbl = s.tbl := rfl
@[simp] theorem State.setClass_tcam (s : State) (tc : Nat) (x : ClassNode) : (s.setClass tc x).tcam = s.tcam := rfl
@[simp] theorem State.setClass_buf (s : State) (tc : Nat) (x : ClassNode) : (s.setClass tc x).buf = s.buf := rfl
@[simp] theorem State.setClass_pool (s : State) (tc : Nat) (x : ClassNode) : (s.setClass tc x).pool = s.pool := rfl
@[simp] theorem State.setClass_fab (s : State) (tc : Nat) (x : ClassNode) : (s.setClass tc x).fab = s.fab := rfl
@[simp] theorem State.setClass_edit (s : State) (tc : Nat) (x : ClassNode) : (s.setClass tc x).edit = s.edit := rfl
@[simp] theorem State.setClass_hbm (s : State) (tc : Nat) (x : ClassNode) : (s.setClass tc x).hbm = s.hbm := rfl
@[simp] theorem State.setClass_hier (s : State) (tc : Nat) (x : ClassNode) : (s.setClass tc x).hier = s.hier := rfl
@[simp] theorem State.setClass_fw (s : State) (tc : Nat) (x : ClassNode) : (s.setClass tc x).fw = s.fw := rfl
@[simp] theorem State.setClass_mode (s : State) (tc : Nat) (x : ClassNode) : (s.setClass tc x).mode = s.mode := rfl
@[simp] theorem State.setClass_tel (s : State) (tc : Nat) (x : ClassNode) : (s.setClass tc x).tel = s.tel := rfl
@[simp] theorem State.setClass_aux (s : State) (tc : Nat) (x : ClassNode) : (s.setClass tc x).aux = s.aux := rfl
@[simp] theorem State.setClass_ctr (s : State) (tc : Nat) (x : ClassNode) : (s.setClass tc x).ctr = s.ctr := rfl
@[simp] theorem State.setCtx_pending (s : State) (k : Nat) (x : Ctx) : (s.setCtx k x).pending = s.pending := rfl
@[simp] theorem State.setCtx_time (s : State) (k : Nat) (x : Ctx) : (s.setCtx k x).time = s.time := rfl
@[simp] theorem State.setCtx_hif (s : State) (k : Nat) (x : Ctx) : (s.setCtx k x).hif = s.hif := rfl
@[simp] theorem State.setCtx_port (s : State) (k : Nat) (x : Ctx) : (s.setCtx k x).port = s.port := rfl
@[simp] theorem State.setCtx_sec (s : State) (k : Nat) (x : Ctx) : (s.setCtx k x).sec = s.sec := rfl
@[simp] theorem State.setCtx_parse (s : State) (k : Nat) (x : Ctx) : (s.setCtx k x).parse = s.parse := rfl
@[simp] theorem State.setCtx_tbl (s : State) (k : Nat) (x : Ctx) : (s.setCtx k x).tbl = s.tbl := rfl
@[simp] theorem State.setCtx_tcam (s : State) (k : Nat) (x : Ctx) : (s.setCtx k x).tcam = s.tcam := rfl
@[simp] theorem State.setCtx_buf (s : State) (k : Nat) (x : Ctx) : (s.setCtx k x).buf = s.buf := rfl
@[simp] theorem State.setCtx_sched (s : State) (k : Nat) (x : Ctx) : (s.setCtx k x).sched = s.sched := rfl
@[simp] theorem State.setCtx_pool (s : State) (k : Nat) (x : Ctx) : (s.setCtx k x).pool = s.pool := rfl
@[simp] theorem State.setCtx_edit (s : State) (k : Nat) (x : Ctx) : (s.setCtx k x).edit = s.edit := rfl
@[simp] theorem State.setCtx_hbm (s : State) (k : Nat) (x : Ctx) : (s.setCtx k x).hbm = s.hbm := rfl
@[simp] theorem State.setCtx_hier (s : State) (k : Nat) (x : Ctx) : (s.setCtx k x).hier = s.hier := rfl
@[simp] theorem State.setCtx_fw (s : State) (k : Nat) (x : Ctx) : (s.setCtx k x).fw = s.fw := rfl
@[simp] theorem State.setCtx_mode (s : State) (k : Nat) (x : Ctx) : (s.setCtx k x).mode = s.mode := rfl
@[simp] theorem State.setCtx_tel (s : State) (k : Nat) (x : Ctx) : (s.setCtx k x).tel = s.tel := rfl
@[simp] theorem State.setCtx_aux (s : State) (k : Nat) (x : Ctx) : (s.setCtx k x).aux = s.aux := rfl
@[simp] theorem State.setCtx_ctr (s : State) (k : Nat) (x : Ctx) : (s.setCtx k x).ctr = s.ctr := rfl

@[simp] theorem State.updPrt_pending (s : State) (p : Nat) (f : Port → Port) : (s.updPrt p f).pending = s.pending := rfl
@[simp] theorem State.updPrt_time (s : State) (p : Nat) (f : Port → Port) : (s.updPrt p f).time = s.time := rfl
@[simp] theorem State.updPrt_hif (s : State) (p : Nat) (f : Port → Port) : (s.updPrt p f).hif = s.hif := rfl
@[simp] theorem State.updPrt_sec (s : State) (p : Nat) (f : Port → Port) : (s.updPrt p f).sec = s.sec := rfl
@[simp] theorem State.updPrt_parse (s : State) (p : Nat) (f : Port → Port) : (s.updPrt p f).parse = s.parse := rfl
@[simp] theorem State.updPrt_tbl (s : State) (p : Nat) (f : Port → Port) : (s.updPrt p f).tbl = s.tbl := rfl
@[simp] theorem State.updPrt_tcam (s : State) (p : Nat) (f : Port → Port) : (s.updPrt p f).tcam = s.tcam := rfl
@[simp] theorem State.updPrt_buf (s : State) (p : Nat) (f : Port → Port) : (s.updPrt p f).buf = s.buf := rfl
@[simp] theorem State.updPrt_sched (s : State) (p : Nat) (f : Port → Port) : (s.updPrt p f).sched = s.sched := rfl
@[simp] theorem State.updPrt_pool (s : State) (p : Nat) (f : Port → Port) : (s.updPrt p f).pool = s.pool := rfl
@[simp] theorem State.updPrt_fab (s : State) (p : Nat) (f : Port → Port) : (s.updPrt p f).fab = s.fab := rfl
@[simp] theorem State.updPrt_edit (s : State) (p : Nat) (f : Port → Port) : (s.updPrt p f).edit = s.edit := rfl
@[simp] theorem State.updPrt_hbm (s : State) (p : Nat) (f : Port → Port) : (s.updPrt p f).hbm = s.hbm := rfl
@[simp] theorem State.updPrt_hier (s : State) (p : Nat) (f : Port → Port) : (s.updPrt p f).hier = s.hier := rfl
@[simp] theorem State.updPrt_fw (s : State) (p : Nat) (f : Port → Port) : (s.updPrt p f).fw = s.fw := rfl
@[simp] theorem State.updPrt_mode (s : State) (p : Nat) (f : Port → Port) : (s.updPrt p f).mode = s.mode := rfl
@[simp] theorem State.updPrt_tel (s : State) (p : Nat) (f : Port → Port) : (s.updPrt p f).tel = s.tel := rfl
@[simp] theorem State.updPrt_aux (s : State) (p : Nat) (f : Port → Port) : (s.updPrt p f).aux = s.aux := rfl
@[simp] theorem State.updPrt_ctr (s : State) (p : Nat) (f : Port → Port) : (s.updPrt p f).ctr = s.ctr := rfl
@[simp] theorem State.updQueue_pending (s : State) (q : Nat) (f : Queue → Queue) : (s.updQueue q f).pending = s.pending := rfl
@[simp] theorem State.updQueue_time (s : State) (q : Nat) (f : Queue → Queue) : (s.updQueue q f).time = s.time := rfl
@[simp] theorem State.updQueue_hif (s : State) (q : Nat) (f : Queue → Queue) : (s.updQueue q f).hif = s.hif := rfl
@[simp] theorem State.updQueue_port (s : State) (q : Nat) (f : Queue → Queue) : (s.updQueue q f).port = s.port := rfl
@[simp] theorem State.updQueue_sec (s : State) (q : Nat) (f : Queue → Queue) : (s.updQueue q f).sec = s.sec := rfl
@[simp] theorem State.updQueue_parse (s : State) (q : Nat) (f : Queue → Queue) : (s.updQueue q f).parse = s.parse := rfl
@[simp] theorem State.updQueue_tbl (s : State) (q : Nat) (f : Queue → Queue) : (s.updQueue q f).tbl = s.tbl := rfl
@[simp] theorem State.updQueue_tcam (s : State) (q : Nat) (f : Queue → Queue) : (s.updQueue q f).tcam = s.tcam := rfl
@[simp] theorem State.updQueue_sched (s : State) (q : Nat) (f : Queue → Queue) : (s.updQueue q f).sched = s.sched := rfl
@[simp] theorem State.updQueue_pool (s : State) (q : Nat) (f : Queue → Queue) : (s.updQueue q f).pool = s.pool := rfl
@[simp] theorem State.updQueue_fab (s : State) (q : Nat) (f : Queue → Queue) : (s.updQueue q f).fab = s.fab := rfl
@[simp] theorem State.updQueue_edit (s : State) (q : Nat) (f : Queue → Queue) : (s.updQueue q f).edit = s.edit := rfl
@[simp] theorem State.updQueue_hbm (s : State) (q : Nat) (f : Queue → Queue) : (s.updQueue q f).hbm = s.hbm := rfl
@[simp] theorem State.updQueue_hier (s : State) (q : Nat) (f : Queue → Queue) : (s.updQueue q f).hier = s.hier := rfl
@[simp] theorem State.updQueue_fw (s : State) (q : Nat) (f : Queue → Queue) : (s.updQueue q f).fw = s.fw := rfl
@[simp] theorem State.updQueue_mode (s : State) (q : Nat) (f : Queue → Queue) : (s.updQueue q f).mode = s.mode := rfl
@[simp] theorem State.updQueue_tel (s : State) (q : Nat) (f : Queue → Queue) : (s.updQueue q f).tel = s.tel := rfl
@[simp] theorem State.updQueue_aux (s : State) (q : Nat) (f : Queue → Queue) : (s.updQueue q f).aux = s.aux := rfl
@[simp] theorem State.updQueue_ctr (s : State) (q : Nat) (f : Queue → Queue) : (s.updQueue q f).ctr = s.ctr := rfl
@[simp] theorem State.updPlane_pending (s : State) (f k : Nat) (g : PeerPlane → PeerPlane) : (s.updPlane f k g).pending = s.pending := rfl
@[simp] theorem State.updPlane_time (s : State) (f k : Nat) (g : PeerPlane → PeerPlane) : (s.updPlane f k g).time = s.time := rfl
@[simp] theorem State.updPlane_hif (s : State) (f k : Nat) (g : PeerPlane → PeerPlane) : (s.updPlane f k g).hif = s.hif := rfl
@[simp] theorem State.updPlane_port (s : State) (f k : Nat) (g : PeerPlane → PeerPlane) : (s.updPlane f k g).port = s.port := rfl
@[simp] theorem State.updPlane_sec (s : State) (f k : Nat) (g : PeerPlane → PeerPlane) : (s.updPlane f k g).sec = s.sec := rfl
@[simp] theorem State.updPlane_parse (s : State) (f k : Nat) (g : PeerPlane → PeerPlane) : (s.updPlane f k g).parse = s.parse := rfl
@[simp] theorem State.updPlane_tbl (s : State) (f k : Nat) (g : PeerPlane → PeerPlane) : (s.updPlane f k g).tbl = s.tbl := rfl
@[simp] theorem State.updPlane_tcam (s : State) (f k : Nat) (g : PeerPlane → PeerPlane) : (s.updPlane f k g).tcam = s.tcam := rfl
@[simp] theorem State.updPlane_buf (s : State) (f k : Nat) (g : PeerPlane → PeerPlane) : (s.updPlane f k g).buf = s.buf := rfl
@[simp] theorem State.updPlane_sched (s : State) (f k : Nat) (g : PeerPlane → PeerPlane) : (s.updPlane f k g).sched = s.sched := rfl
@[simp] theorem State.updPlane_pool (s : State) (f k : Nat) (g : PeerPlane → PeerPlane) : (s.updPlane f k g).pool = s.pool := rfl
@[simp] theorem State.updPlane_edit (s : State) (f k : Nat) (g : PeerPlane → PeerPlane) : (s.updPlane f k g).edit = s.edit := rfl
@[simp] theorem State.updPlane_hbm (s : State) (f k : Nat) (g : PeerPlane → PeerPlane) : (s.updPlane f k g).hbm = s.hbm := rfl
@[simp] theorem State.updPlane_hier (s : State) (f k : Nat) (g : PeerPlane → PeerPlane) : (s.updPlane f k g).hier = s.hier := rfl
@[simp] theorem State.updPlane_fw (s : State) (f k : Nat) (g : PeerPlane → PeerPlane) : (s.updPlane f k g).fw = s.fw := rfl
@[simp] theorem State.updPlane_mode (s : State) (f k : Nat) (g : PeerPlane → PeerPlane) : (s.updPlane f k g).mode = s.mode := rfl
@[simp] theorem State.updPlane_tel (s : State) (f k : Nat) (g : PeerPlane → PeerPlane) : (s.updPlane f k g).tel = s.tel := rfl
@[simp] theorem State.updPlane_aux (s : State) (f k : Nat) (g : PeerPlane → PeerPlane) : (s.updPlane f k g).aux = s.aux := rfl
@[simp] theorem State.updPlane_ctr (s : State) (f k : Nat) (g : PeerPlane → PeerPlane) : (s.updPlane f k g).ctr = s.ctr := rfl
@[simp] theorem State.latch_pending (s : State) (b : Nat) : (s.latch b).pending = s.pending := rfl
@[simp] theorem State.latch_time (s : State) (b : Nat) : (s.latch b).time = s.time := rfl
@[simp] theorem State.latch_hif (s : State) (b : Nat) : (s.latch b).hif = s.hif := rfl
@[simp] theorem State.latch_port (s : State) (b : Nat) : (s.latch b).port = s.port := rfl
@[simp] theorem State.latch_sec (s : State) (b : Nat) : (s.latch b).sec = s.sec := rfl
@[simp] theorem State.latch_parse (s : State) (b : Nat) : (s.latch b).parse = s.parse := rfl
@[simp] theorem State.latch_tbl (s : State) (b : Nat) : (s.latch b).tbl = s.tbl := rfl
@[simp] theorem State.latch_tcam (s : State) (b : Nat) : (s.latch b).tcam = s.tcam := rfl
@[simp] theorem State.latch_buf (s : State) (b : Nat) : (s.latch b).buf = s.buf := rfl
@[simp] theorem State.latch_sched (s : State) (b : Nat) : (s.latch b).sched = s.sched := rfl
@[simp] theorem State.latch_pool (s : State) (b : Nat) : (s.latch b).pool = s.pool := rfl
@[simp] theorem State.latch_fab (s : State) (b : Nat) : (s.latch b).fab = s.fab := rfl
@[simp] theorem State.latch_edit (s : State) (b : Nat) : (s.latch b).edit = s.edit := rfl
@[simp] theorem State.latch_hbm (s : State) (b : Nat) : (s.latch b).hbm = s.hbm := rfl
@[simp] theorem State.latch_hier (s : State) (b : Nat) : (s.latch b).hier = s.hier := rfl
@[simp] theorem State.latch_fw (s : State) (b : Nat) : (s.latch b).fw = s.fw := rfl
@[simp] theorem State.latch_mode (s : State) (b : Nat) : (s.latch b).mode = s.mode := rfl
@[simp] theorem State.latch_tel (s : State) (b : Nat) : (s.latch b).tel = s.tel := rfl
@[simp] theorem State.latch_ctr (s : State) (b : Nat) : (s.latch b).ctr = s.ctr := rfl
@[simp] theorem State.bump_pending (s : State) (table name i j : Nat) : (s.bump table name i j).pending = s.pending := rfl
@[simp] theorem State.bump_time (s : State) (table name i j : Nat) : (s.bump table name i j).time = s.time := rfl
@[simp] theorem State.bump_hif (s : State) (table name i j : Nat) : (s.bump table name i j).hif = s.hif := rfl
@[simp] theorem State.bump_port (s : State) (table name i j : Nat) : (s.bump table name i j).port = s.port := rfl
@[simp] theorem State.bump_sec (s : State) (table name i j : Nat) : (s.bump table name i j).sec = s.sec := rfl
@[simp] theorem State.bump_parse (s : State) (table name i j : Nat) : (s.bump table name i j).parse = s.parse := rfl
@[simp] theorem State.bump_tbl (s : State) (table name i j : Nat) : (s.bump table name i j).tbl = s.tbl := rfl
@[simp] theorem State.bump_tcam (s : State) (table name i j : Nat) : (s.bump table name i j).tcam = s.tcam := rfl
@[simp] theorem State.bump_buf (s : State) (table name i j : Nat) : (s.bump table name i j).buf = s.buf := rfl
@[simp] theorem State.bump_sched (s : State) (table name i j : Nat) : (s.bump table name i j).sched = s.sched := rfl
@[simp] theorem State.bump_pool (s : State) (table name i j : Nat) : (s.bump table name i j).pool = s.pool := rfl
@[simp] theorem State.bump_fab (s : State) (table name i j : Nat) : (s.bump table name i j).fab = s.fab := rfl
@[simp] theorem State.bump_edit (s : State) (table name i j : Nat) : (s.bump table name i j).edit = s.edit := rfl
@[simp] theorem State.bump_hbm (s : State) (table name i j : Nat) : (s.bump table name i j).hbm = s.hbm := rfl
@[simp] theorem State.bump_hier (s : State) (table name i j : Nat) : (s.bump table name i j).hier = s.hier := rfl
@[simp] theorem State.bump_fw (s : State) (table name i j : Nat) : (s.bump table name i j).fw = s.fw := rfl
@[simp] theorem State.bump_mode (s : State) (table name i j : Nat) : (s.bump table name i j).mode = s.mode := rfl
@[simp] theorem State.bump_tel (s : State) (table name i j : Nat) : (s.bump table name i j).tel = s.tel := rfl
@[simp] theorem State.bump_aux (s : State) (table name i j : Nat) : (s.bump table name i j).aux = s.aux := rfl
@[simp] theorem State.setPrt_prt_same (s : State) (p : Nat) (x : Port) : (s.setPrt p x).prt p = x := by
  simp [State.setPrt, State.prt]
@[simp] theorem State.setGrp_grp_same (s : State) (g : Nat) (x : Group) : (s.setGrp g x).grp g = x := by
  simp [State.setGrp, State.grp]
@[simp] theorem State.setChan_chan_same (s : State) (c : Nat) (x : Chan) : (s.setChan c x).chan c = x := by
  simp [State.setChan, State.chan]
@[simp] theorem State.setVec_vec_same (s : State) (v : Nat) (x : Vec) : (s.setVec v x).vec v = x := by
  simp [State.setVec, State.vec]
@[simp] theorem State.setQueue_queue_same (s : State) (q : Nat) (x : Queue) : (s.setQueue q x).queue q = x := by
  simp [State.setQueue, State.queue]
@[simp] theorem State.updPrt_prt_same (s : State) (p : Nat) (f : Port → Port) : (s.updPrt p f).prt p = f (s.prt p) := by
  simp [State.updPrt]
@[simp] theorem State.updQueue_queue_same (s : State) (q : Nat) (f : Queue → Queue) : (s.updQueue q f).queue q = f (s.queue q) := by
  simp [State.updQueue]
@[simp] theorem State.setPeer_peer_same (s : State) (f : Nat) (x : Peer) : (s.setPeer f x).peer f = x := by
  simp [State.setPeer, State.peer]
@[simp] theorem State.setMember_member_same (s : State) (f : Nat) (x : Member) : (s.setMember f x).member f = x := by
  simp [State.setMember, State.member]
@[simp] theorem State.setStack_stack_same (s : State) (k : Nat) (x : Stack) : (s.setStack k x).stack k = x := by
  simp [State.setStack, State.stack]
@[simp] theorem State.setLane_lane_same (s : State) (l : Nat) (x : Lane) : (s.setLane l x).lane l = x := by
  simp [State.setLane, State.lane]
@[simp] theorem State.setCredit_credit_same (s : State) (p : Nat) (x : Credit) : (s.setCredit p x).credit p = x := by
  simp [State.setCredit, State.credit]
@[simp] theorem State.setSecy_secy_same (s : State) (p : Nat) (y : SecY) : (s.setSecy p y).secy p = y := by
  simp [State.setSecy, State.secy]
@[simp] theorem State.setPerf_perf_same (s : State) (die : Nat) (n : Nat) (x : Perf) : (s.setPerf die n x).perf die n = x := by
  simp [State.setPerf, State.perf]
@[simp] theorem State.setPolicer_policer_same (s : State) (i : Nat) (x : Policer) : (s.setPolicer i x).policer i = x := by
  simp [State.setPolicer, State.policer]
@[simp] theorem State.setPoolBuf_poolBuf_same (s : State) (p : Nat) (i : Nat) (b : PoolBuf) : (s.setPoolBuf p i b).poolBuf p i = b := by
  simp [State.setPoolBuf, State.poolBuf]
@[simp] theorem State.setChain_chain_same (s : State) (c : Nat) (x : Chain) : (s.setChain c x).chain? c = some x := by
  simp [State.setChain, State.chain?]
@[simp] theorem State.setDir_dir_same (s : State) (vrf : Nat) (fam : Nat) (d : FibDir) : (s.setDir vrf fam d).dir vrf fam = d := by
  simp [State.setDir, State.dir]
@[simp] theorem State.setHbmChan_hbmChan_same (s : State) (c : Nat) (x : HbmChan) : (s.setHbmChan c x).hbmChan c = x := by
  simp [State.setHbmChan, State.hbmChan]

end Sys2Proof.Machine
end

