-- ==== Sys2Proof/WellFormed.lean ====
section
/-! DEFINITION. Which commands are well formed: every operand lies in the range that its field, its register or the
part's count of units gives it (Table 00-2, Table 14-7, Table 10-2, Table 15-2). -/
namespace Sys2Proof

/-- The header fields of a mailbox command fit their bytes (Table 14-7). -/
def Cmd.wf (c : Cmd) : Bool := c.seq < 65536 && c.target < 256 && c.flags < 256 && c.capacity < 4294967296

/-- The header fields of a cell fit their bits, and its payload is 256 bytes (Table 10-2). -/
def Cell.wf (c : Cell) : Bool :=
  c.type < 16 && c.src < 256 && c.dst < 256 && c.plane < 2 && c.lgroup < 8 && c.cseq < 65536 && c.tc < 8 &&
    c.stream < 16 && c.pseq < 16777216 && c.startSlot < 8 && c.endOff < 256 && c.payload.length == 256

/-- The fields of a coordination message header fit their bytes (Table 15-2). -/
def CoordHdr.wf (h : CoordHdr) : Bool :=
  h.version < 256 && h.type < 256 && h.systemId < 65536 && h.src < 256 && h.dst < 256 && h.flags < 256 &&
    h.term < 4294967296 && h.msgSeq < 4294967296 && h.epoch < 4294967296 && h.length < 65536 && h.etherType < 65536

/-- The operands of a command are in range. -/
def Instr.wf : Instr → Bool
  | .nop c => c.wf
  | .deviceInfoGet c => c.wf
  | .eventMaskSet c => c.wf
  | .eventMaskGet c => c.wf
  | .echo c => c.wf
  | .portGroupSetMode c => c.wf
  | .portConfig c => c.wf
  | .portAdmin c => c.wf
  | .portStatusGet c => c.wf
  | .portCountersGet c => c.wf
  | .moduleRead c => c.wf
  | .moduleWrite c => c.wf
  | .moduleIntUnmask c => c.wf
  | .ledgerRead c => c.wf
  | .ledgerSetRating c => c.wf
  | .portRateRestore c => c.wf
  | .moduleMapSet c => c.wf
  | .secyConfig c => c.wf
  | .scSet c => c.wf
  | .scClear c => c.wf
  | .saInstall c => c.wf
  | .saEnableRx c => c.wf
  | .saTxSwitch c => c.wf
  | .saDelete c => c.wf
  | .saStatusGet c => c.wf
  | .secyCountersGet c => c.wf
  | .parsePolicySet c => c.wf
  | .parsePolicyGet c => c.wf
  | .slowpathClassSet c => c.wf
  | .hashProfileSet c => c.wf
  | .lbMemberAdd c => c.wf
  | .lbMemberRemove c => c.wf
  | .lbSlotsSet c => c.wf
  | .lbSlotsGet c => c.wf
  | .parseCountersGet c => c.wf
  | .parseTest c => c.wf
  | .routeAdd c => c.wf
  | .routeDelete c => c.wf
  | .routeGet c => c.wf
  | .lengthReserve c => c.wf
  | .nexthopSet c => c.wf
  | .ecmpCreate c => c.wf
  | .labelSet c => c.wf
  | .emInsert c => c.wf
  | .emDelete c => c.wf
  | .emTableConfig c => c.wf
  | .interfaceSet c => c.wf
  | .routerMacSet c => c.wf
  | .objRetire c => c.wf
  | .objCountersGet c => c.wf
  | .tableRepairDone c => c.wf
  | .tableSplitSet c => c.wf
  | .lookupConfig c => c.wf
  | .tableStatusGet c => c.wf
  | .ecmpCountSet c => c.wf
  | .tcamChainConfig c => c.wf
  | .tcamChainExtend c => c.wf
  | .keyProfileSet c => c.wf
  | .searchProfileSet c => c.wf
  | .searchProfileMap c => c.wf
  | .tcamEntryInsert c => c.wf
  | .tcamEntryModify c => c.wf
  | .tcamEntryDelete c => c.wf
  | .tcamSearch c => c.wf
  | .tcamSearchContinue c => c.wf
  | .tcamCompact c => c.wf
  | .tcamEntryRead c => c.wf
  | .tcamStatusGet c => c.wf
  | .bufferPartitionSet c => c.wf
  | .admissionProfileSet c => c.wf
  | .wredProfileSet c => c.wf
  | .queueConfig c => c.wf
  | .queueFlush c => c.wf
  | .queueStatusGet c => c.wf
  | .bufferStatusGet c => c.wf
  | .bufferGlobalSet c => c.wf
  | .schedNodeSet c => c.wf
  | .schedNodeGet c => c.wf
  | .lengthProfileSet c => c.wf
  | .siteMapSet c => c.wf
  | .dispatchProfileSet c => c.wf
  | .qosMapSet c => c.wf
  | .qosPortSet c => c.wf
  | .policerProfileSet c => c.wf
  | .policerSet c => c.wf
  | .policerStatusGet c => c.wf
  | .sampleSetConfig c => c.wf
  | .schedCountersGet c => c.wf
  | .poolCarveSet c => c.wf
  | .channelPoolSet c => c.wf
  | .bufShare c => c.wf
  | .bufRelease c => c.wf
  | .bufInfo c => c.wf
  | .bufCellShareSet c => c.wf
  | .poolStatusGet c => c.wf
  | .fabricConfig c => c.wf
  | .fabricPeerSet c => c.wf
  | .protectClassSet c => c.wf
  | .creditProfileSet c => c.wf
  | .planeAdmin c => c.wf
  | .planeRestore c => c.wf
  | .fabricLaneAdmin c => c.wf
  | .fabricStatusGet c => c.wf
  | .fabricCountersGet c => c.wf
  | .editProgramSet c => c.wf
  | .encapSet c => c.wf
  | .mcastGroupSet c => c.wf
  | .mcastGroupGet c => c.wf
  | .editPortSet c => c.wf
  | .mcastConfig c => c.wf
  | .editTest c => c.wf
  | .editCountersGet c => c.wf
  | .hbmConfig c => c.wf
  | .hbmStatusGet c => c.wf
  | .hbmRetrain c => c.wf
  | .hbmPcRetire c => c.wf
  | .hbmPcRestore c => c.wf
  | .hbmCountersGet c => c.wf
  | .timeGet c => c.wf
  | .timeIncrementSet c => c.wf
  | .timeStep c => c.wf
  | .timeSet c => c.wf
  | .timeConfig c => c.wf
  | .tsPortSet c => c.wf
  | .ppsConfig c => c.wf
  | .timeCountersGet c => c.wf
  | .dmaChannelSet c => c.wf
  | .dmaChannelEnable c => c.wf
  | .dmaChannelStatusGet c => c.wf
  | .msixModerationSet c => c.wf
  | .hifCountersGet c => c.wf
  | .hierarchyConfig c => c.wf
  | .hierStatusGet c => c.wf
  | .hierDeputySet c => c.wf
  | .hierModeChange c => c.wf
  | .hierDistribute c => c.wf
  | .hierMemberRemove c => c.wf
  | .hierCountersGet c => c.wf
  | .hierClaim c => c.wf
  | .fwDownload c => c.wf
  | .fwVerify c => c.wf
  | .fwActivate c => c.wf
  | .fwConfirm c => c.wf
  | .fwRevert c => c.wf
  | .fwStatusGet c => c.wf
  | .fwUpdateConfig c => c.wf
  | .fwSvnCommit c => c.wf
  | .attestKeyGet c => c.wf
  | .attestQuote c => c.wf
  | .fwSnowdropPush c => c.wf
  | .modeSet c => c.wf
  | .modeStatusGet c => c.wf
  | .repairStatusGet c => c.wf
  | .repairMapRead c => c.wf
  | .deviceReset c => c.wf
  | .feRestart c => c.wf
  | .repairConfig c => c.wf
  | .perfCounterConfig c => c.wf
  | .perfControl c => c.wf
  | .perfCounterRead c => c.wf
  | .histogramConfig c => c.wf
  | .psampleConfig c => c.wf
  | .telemetryConfig c => c.wf
  | .telemetryCountersGet c => c.wf
  | .pkgStatusGet c => c.wf
  | .thermalConfig c => c.wf
  | .alarmInputConfig c => c.wf
  | .pkgInputUnmask c => c.wf
  | .auxStatusClear c => c.wf
  | .commandProducerIndex channel rsv index => channel < 64 && rsv < 256 && index < 65536
  | .eventConsumerIndex channel rsv index => channel < 64 && rsv < 256 && index < 65536
  | .channelProducerIndex channel rsv index _ => channel < 64 && rsv < 256 && index < 65536
  | .hifCmdRingBase _ => true
  | .hifEvtRingBase _ => true
  | .hifHealth _ => true
  | .imageReady _ => true
  | .auxRegisterWrite reg _ => reg < 256
  | .registerWrite offset _ _ => offset < 262144
  | .commandFetch e => e.opcode < 65536 && e.cmd.wf
  | .msixTimer vector => vector < 64
  | .relayTimeout relayId => relayId < 4294967296
  | .receiveFrame port f => port < 96 && f.bytes.length ≤ 65535
  | .parserSlot port => port < 96
  | .lookupResult port parity => port < 96 && parity.all (fun x => x < 64)
  | .headerCellAdmission port => port < 96
  | .frameTail port => port < 96
  | .dispatchSelection => true
  | .egressSelection port => port < 96
  | .segmentWritten => true
  | .refillArrival queue => queue < 524288
  | .ageExpiry queue => queue < 524288
  | .cellAudit => true
  | .shaperPayoff node => node < 4294967296
  | .sampleWindowEnd set => set < 16
  | .dataCell lane cell => lane < 128 && cell.wf
  | .resequenceTimeout src plane lgroup => src < 256 && plane < 2 && lgroup < 8
  | .reassemblyTimeout src plane lgroup tc prot => src < 256 && plane < 2 && lgroup < 8 && tc < 16 && (tc < 8 || prot)
  | .protectedCopyComplete src plane stream => src < 256 && plane < 2 && stream < 16
  | .reassemblyComplete => true
  | .windowIdleExpiry src stream => src < 256 && stream < 16
  | .editPacket port => port < 96
  | .transmitStart port => port < 96
  | .creditRequest rx => rx.lane < 128 && rx.cell.wf
  | .creditRequestRefresh voq => voq < 262144
  | .voqActiveTimeout src voq => src < 256 && voq < 262144
  | .creditIssue port => port < 96 || port == 127
  | .grantBatchTimeout src => src < 256
  | .creditGrant rx => rx.lane < 128 && rx.cell.wf
  | .creditKeepExpiry voq => voq < 262144
  | .fabricHeartbeatSend => true
  | .heartbeatCell rx => rx.lane < 128 && rx.cell.wf
  | .hearTimeout peer plane => peer < 256 && plane < 2
  | .upHoldExpiry peer plane => peer < 256 && plane < 2
  | .resync rx => rx.lane < 128 && rx.cell.wf
  | .resyncAck rx => rx.lane < 128 && rx.cell.wf
  | .resyncResend peer plane => peer < 256 && plane < 2
  | .controlCell rx => rx.lane < 128 && rx.cell.wf
  | .controlMessageTimeout src msgId => src < 256 && msgId < 65536
  | .fabricLaneFault lane _ => lane < 128
  | .fabricLaneTrainingEnd lane _ => lane < 128
  | .fabricTrainingRetry lane => lane < 128
  | .linkConditionsMet port => port < 96
  | .linkUpHoldExpiry port => port < 96
  | .linkConditionLost port _ _ => port < 96
  | .linkDownHoldExpiry port => port < 96
  | .remoteFault port => port < 96
  | .fecThreshold report => report.port < 96
  | .laneTrainingEnd lane _ => lane < 96
  | .trainingRetry port => port < 96
  | .fallbackWindow group _ => group < 6
  | .fallbackTimeout group => group < 6
  | .lpiIdleEntry port => port < 96
  | .moduleInserted module page0 => module < 48 && page0.length ≤ 256
  | .moduleRemoved module => module < 48
  | .moduleInterrupt module _ => module < 48
  | .moduleMonitorPoll module _ bias power _ => module < 48 && bias < 4294967296 && power < 4294967296
  | .ledgerAccumulation => true
  | .ledgerHourlyWrite => true
  | .interruptStuck module => module < 48
  | .presenceChatter input => input.module < 48
  | .maskedInputPoll module _ => module < 48
  | .moduleAccessUnacknowledged module => module < 48
  | .busDataLineLow bus _ => bus < 6
  | .timedBatchCommit => true
  | .retirementEpochEnd => true
  | .grownTableRelease table => table < 64
  | .ecmpBlockRelease group => group < 65536
  | .mcastBlockRelease group => group < 65536
  | .markerRebuildDone entry => entry < 256
  | .parserPipelineError pipeline _ => pipeline < 17
  | .lookupPipelineError pipeline _ => pipeline < 17
  | .editEngineError engine held => engine < 100 && held < 4294967296
  | .tcamScrub bad => bad.all (fun e => e.1 < 64 && e.2 < 2048)
  | .spareTileFilled lt => lt < 64
  | .tcamDeleteComplete handle => handle < 4294967296
  | .retainExpiry handle => handle < 4294967296
  | .puntDmaComplete channel => channel < 64
  | .puntFrameAtHead channel => channel < 64
  | .puntHoldExpiry channel => channel < 64
  | .injectFrameRead channel data => channel < 64 && data.length ≤ 1048576
  | .injectHoldExpiry channel => channel < 64
  | .dmaError channel addr _ => channel.all (fun c => c < 64) && addr < 18446744073709551616
  | .functionLevelReset => true
  | .pcieLinkLoss => true
  | .busMasterOff => true
  | .counterUpdate => true
  | .hbmRequest pc port bank row _ => pc < 128 && port < 7 && bank < 32 && row < 16384
  | .requestUrgencyRise req => req < 4294967296
  | .hbmRefreshDue pc bank => pc < 128 && bank < 32
  | .selfRefreshIdle stack => stack < 4
  | .selfRefreshExit stack => stack < 4
  | .hbmParityError channel from_ => channel < 64 && from_ < 4294967296
  | .hbmReadError pc bank row _ _ _ => pc < 128 && bank < 32 && row < 16384
  | .hbmTracking channel _ => channel < 64
  | .plannedRetrainTrigger channel => channel < 64
  | .evacuationComplete channel => channel < 64
  | .evacuationTimeout channel => channel < 64
  | .evacuationSlotRelease segment => segment < 4294967296
  | .channelTrainingEnd channel _ _ => channel < 64
  | .counterScrub access _ _ => access < 8388608
  | .d2dFlitError at_ => at_.module < 16
  | .d2dLaneFault module _ lane => module < 16 && lane < 66
  | .timedStepDue => true
  | .saSwitchDue port => port < 96
  | .perfControlDue => true
  | .holdoverTimeout => true
  | .ppsOutTarget => true
  | .ppsOutWidthEnd => true
  | .ppsInEdge => true
  | .ppsInLost => true
  | .timeSyncSend => true
  | .timeSync path h _ _ _ => path < 3 && h.wf
  | .timeSyncLoss => true
  | .heartbeat path h _ role mode flags deputy members => path < 3 && h.wf && role < 256 && mode < 256 && flags < 256 &&
      deputy < 4294967296 && members < 4294967296
  | .ack path h acked status => path < 3 && h.wf && acked < 4294967296 && status < 256
  | .announce path h priority role => path < 3 && h.wf && priority < 256 && role < 256
  | .joinRequest path h version priority ordering svn fwVersion mode => path < 3 && h.wf && version < 256 && priority < 256 &&
      ordering < 256 && svn < 256 && fwVersion < 4294967296 && mode < 256
  | .joinAccept path h members deputy _ => path < 3 && h.wf && members < 2 ^ 256 && deputy < 256
  | .joinReject path h reason => path < 3 && h.wf && reason < 256
  | .leave path h cause => path < 3 && h.wf && cause < 256
  | .memberUpdate path h members deputy => path < 3 && h.wf && members < 2 ^ 256 && deputy < 256
  | .relayCommand path h relayId offset total entry data => path < 3 && h.wf && relayId < 4294967296 &&
      offset < 4294967296 && total < 4294967296 && entry.opcode < 65536 && entry.cmd.wf && data.length ≤ 3896
  | .relayCompletion path h relayId offset total status resultLength applied failIndex detail result => path < 3 && h.wf &&
      relayId < 4294967296 && offset < 4294967296 && total < 4294967296 && status < 256 && resultLength < 4294967296 &&
      applied < 4294967296 && failIndex < 4294967296 && detail < 4294967296 && result.length ≤ 3896
  | .relayEvent path h code t32 data => path < 3 && h.wf && code < 65536 && t32 < 4294967296 && data.length ≤ 48
  | .prepare path h newEpoch mode _ members => path < 3 && h.wf && newEpoch < 4294967296 && mode < 256 && members < 2 ^ 256
  | .ready path h newEpoch => path < 3 && h.wf && newEpoch < 4294967296
  | .refuse path h newEpoch status => path < 3 && h.wf && newEpoch < 4294967296 && status < 256
  | .commit path h newEpoch mode _ => path < 3 && h.wf && newEpoch < 4294967296 && mode < 256
  | .abort path h newEpoch => path < 3 && h.wf && newEpoch < 4294967296
  | .modeQuery path h newEpoch => path < 3 && h.wf && newEpoch < 4294967296
  | .takeover path h oldManager newDeputy => path < 3 && h.wf && oldManager < 256 && newDeputy < 256
  | .snowdropOffer path h dieIds cause => path < 3 && h.wf && dieIds.length == 16 && cause < 256
  | .snowdropChunk path h total offset data => path < 3 && h.wf && total < 4294967296 && offset < 4294967296 &&
      data.length ≤ 3936
  | .snowdropResult path h code nextOffset => path < 3 && h.wf && code < 256 && nextOffset < 4294967296
  | .snowdropOfferSend => true
  | .electionWindowEnd => true
  | .announceSend => true
  | .joinRequestRepeat => true
  | .coordHeartbeatSend => true
  | .coordTimeout peer link => peer < 256 && link < 2
  | .messageResend msgSeq => msgSeq < 4294967296
  | .leaveHoldExpiry peer => peer < 256
  | .takeoverHoldExpiry => true
  | .prepareReplyTimeout => true
  | .modeCommitDue => true
  | .commitUncertain => true
  | .modeQuerySend => true
  | .decisionResend => true
  | .modeChangeDeadline => true
  | .rootPllLock => true
  | .pllLockRetry => true
  | .rootPllLoss => true
  | .romStart _ => true
  | .activationPause => true
  | .imageResumesFetching => true
  | .activationTimeout => true
  | .flashUpdateComplete _ => true
  | .imageConfirm => true
  | .confirmWindowEnd => true
  | .degradedConditionArises bit => bit < 12
  | .degradedConditionClears bit => bit < 12
  | .drainComplete => true
  | .feFirmwareFailure _ cores => cores.all (fun k => k < 5)
  | .feRestartTimeout => true
  | .tmDeputyClear => true
  | .tmCoreFailure core => core < 2
  | .sramError die macro_ row column _ _ => die < 2 && macro_ < 2304 && row < 4294967296 && column < 4294967296
  | .spareRowFilled macro_ => macro_ < 2304
  | .repairMapCommit _ => true
  | .repairMapRetry _ => true
  | .perfOverflow die counter => die < 2 && counter < 256
  | .histogramWindowEnd h => h < 64
  | .psampleRecord kind unit insn address stall packetId => kind < 3 && unit < 128 && insn < 4294967296 &&
      address < 4294967296 && stall < 4294967296 && packetId < 4294967296
  | .telemetryFlush => true
  | .mainPowerLoss => true
  | .railFault rail => rail < 9
  | .mainRailsGood => true
  | .vauxChange millivolt => millivolt < 4294967296
  | .thermalAlarm sensor _ => sensor < 40
  | .thermalTrip sensor _ => sensor < 40
  | .temperatureLow sensor _ => sensor < 40
  | .sysResetAssertion => true
  | .sysResetRelease => true
  | .resetDelayExpiry => true
  | .resetStuck => true
  | .perstAssertion => true
  | .perstUnmaskTimeout => true
  | .recoveryStuck => true
  | .alarmInputChange input _ => input < 4
  | .auxHeartbeat => true
  | .laneLockDeclared lane => lane < 128
  | .laneLockLost lane => lane < 128
  | .remoteFaultCleared port => port < 96
  | .frameTransmitted port => port < 96
  | .stackTemperatureReport stack tempC => stack < 4 && tempC < 4294967296
  | .replayReissue channel => channel < 64
  | .rowRepairDone pc bank => pc < 128 && bank < 32
  | .railsBackInWindow => true
  | .fwHeartbeatTick => true
  | .fwHaltedTimeout => true
  | .pcieLinkUp => true
  | .coordLinkDown link => link < 2
  | .coordLinkUp link => link < 2

end Sys2Proof
end

