-- ==== Sys2Proof/Tests/Slice0.lean ====
section
/-! SUPPORT. The model's own tests: for every statement with hypotheses, states and operands that meet them; ill-formed terms that
the checks of WellFormed refuse; and the worked examples of the spec, whose figures are the spec's. -/
namespace Sys2Proof.Tests
open Sys2Proof Sys2Proof.Machine

/-- A payload of `n` bytes, 0 but for the listed ones. -/
def pay (n : Nat) (l : List (Nat × Nat)) : Bytes := (List.range n).map (fun i => BitVec.ofNat 8 ((l.lookup i).getD 0))

/-- A command for this device with a payload of `n` bytes and the largest result capacity. -/
def cmd (n : Nat) (l : List (Nat × Nat)) : Cmd := { seq := 1, target := 0, flags := 0, capacity := 1048576, payload := pay n l }

/-- A standalone device in Forwarding, with firmware, rings, two ports, two channels, a module, two next-hops and a fabric lane. -/
def live : State := { State.reset with
  time.ticks := 10000000000000
  time.acc := 0x3B9ACA0000000000#64
  aux.pllLocked := true
  aux.mainGood := true
  mode.mode := mdForwarding
  fw.runs := true
  fw.settingsOk := true
  hif.fwRunning := true
  hif.linkUp := true
  hif.cmdRing := { enable := true, sizeCode := 8, host := 1 }
  hif.evtRing := { enable := true, sizeCode := 8 }
  hif.channels := [(4, { configured := true, enabled := true, inject := true }), (5, { configured := true, enabled := true })]
  port.groups := [(0, { mode := 4, running := 4 }), (1, { mode := 6, running := 6 })]
  port.ports := [(0, { up := true, conditions := true, trained := [0] }), (16, { up := true, conditions := true, trained := [16] })]
  port.mods := [(0, { present := true, lanes := some (0, 8), active := true })]
  tbl.nexthops := [(1, { type := 1 }), (2, { type := 1 })]
  fab.lanes := [(0, { trained := true, lock := true })] }

/-- The manager of a system of two devices. -/
def mgr : State := { live with
  hier.member := true
  hier.role := 1
  hier.systemId := 7
  hier.linkUp := [0]
  hier.table := [0, 1]
  hier.members := [(1, { cl0 := some 0, silent0 := false, role := 2, priority := some 1 })] }

/-- A worker of the same system. -/
def worker : State := { mgr with hier.role := 2, hier.manager := some 1, hier.priority := 1 }

/-- The header of a good coordination message from device 1. -/
def hdr (type : Nat) : CoordHdr :=
  let h : CoordHdr :=
    { version := 1, type, systemId := 7, src := 1, dst := 0, flags := 0, term := 1, msgSeq := 1, epoch := 0 }
  { h with check := crc16 h.bytes }

/-- A cell from device 1. -/
def cell (type : Nat) : Cell :=
  cellSealed { type, src := 1, dst := 0, plane := 0, lgroup := 0, cseq := 0, tc := 0, prot := false, stream := 0, pseq := 0, sop := false,
               eop := false, abort := false, early := false, startSlot := 0, endOff := 0, payload := pay 256 [] }

/-- The cell arrives on lane 0. -/
def onLane (c : Cell) : LaneCell := { lane := 0, cell := c }

/-- A command with the payload `p`. -/
def cmdB (p : Bytes) : Cmd := { cmd 0 [] with payload := p }

/-- A frame of `n` bytes for IPv4 with a right FCS. -/
def frame (n : Nat) : Bytes := pay (n - 4) [(12, 8)] ++ fcsOf (pay (n - 4) [(12, 8)])

/-- A packet of 64 bytes in a queue. -/
def qpkt : QPkt :=
  { pid := 0, entry := 0, frameLen := 64, tc := 0, colour := 0, ecn := 0, mcast := false, dest := 0, encap := none, rxT32 := 0
    edit := {}, hashA := 0, port := 0, frame := pay 60 [(12, 8), (13, 6)], cells := 1 }

/-- The outcome is a next state. -/
def isNext (o : Host.Outcome State Fault Refusal) : Bool := match o with | .next _ => true | _ => false

/-- The same device in Configure. -/
def configure : State := { live with mode.mode := mdConfigure }

/-- A command for device `f`. -/
def toMember (f : Nat) : Cmd := { cmd 0 [] with target := f }

/-- The device with one chain. -/
def timedState : State := { live with tcam.chains := [(0, { width := 0, bases := [0] })] }

/-- The device with one transmit SA on P0. -/
def secyState : State := { live with sec.secys := [(0, { sas := [(0, {})] })] }

/-- The device while a command flagged as ordered is open. -/
def heldBack : State := { live with hif.openCmds := [{ cmd := { cmd 0 [] with flags := 2 }, kind := .modeChange }] }

/-! ### The spec's worked examples and the block's own interface -/

/-- No row of the table has bits, so no word spells a command, and the queue stays as it is. -/
theorem test_no_word_spells_a_command :
    decodeTableWord 32 0x00000001 = none ∧ (State.reset.withFetchWord 32 0x00000001).pending = [] := by decide

/-- 00_scope.md: a window that opens at 0xFFFF_FF00 and runs 40 us ends at 0x0000_9B40. -/
theorem test_t32_window_wraps :
    (0xFFFFFF00#32 + 0x9C40#32, T32.reached 0x9B3F#32 0x9B40#32, T32.reached 0x9B40#32 0x9B40#32) =
      (0x9B40#32, false, true) := by decide

/-- 02_ports.md: NG2 in mode 0x2 has P32, P36, P40 and P44; there is no P37. -/
theorem test_mode_2_ports :
    let s : State := { live with port.groups := [(2, { mode := 2, running := 2 })] }
    modePorts 2 2 = [32, 36, 40, 44] ∧ s.portLanes 36 = [36, 37, 38, 39] ∧ s.portExists 37 = false := by decide

/-- 04_parsing.md: one tag, two labels, IPv4 and UDP in a frame of 1,000 bytes. -/
theorem test_parse_example :
    let d := pay 64 [(12, 0x81), (15, 210), (16, 0x88), (17, 0x47), (24, 1), (25, 64), (26, 0x45), (28, 0x03), (29, 0xCA),
      (34, 64), (35, 17), (36, 0x77), (37, 0x24)] ++ zeros 932
    let p := (parseFrame {} {} 12 0 false d).1
    [p.vlanCount, p.outerTag, p.etherType, p.mplsCount, p.l3Off, p.l4Off, p.l4Proto, p.ipKind, p.resolved, p.status] =
      [1, 210, 0x8847, 2, 26, 46, 17, 1, 2, 0] := by decide +kernel

/-- 04_parsing.md: a 28-byte IPv4 packet in 60 bytes passes; in 64 bytes its padding is too long, and a total length of 48 in 60
bytes is dropped with code 0x18. -/
theorem test_padding_example :
    let f (n total sum : Nat) := (parseFrame {} {} 0 0 false
      (pay n [(12, 0x08), (14, 0x45), (17, total), (22, 64), (23, 253), (24, 0x79), (25, sum)])).1
    ((f 60 28 0xE6).status, (f 60 28 0xE6).puntClass, (f 64 28 0xE6).puntClass, (f 60 48 0xD2).status) = (0, 0, 5, 0x18) := by decide +kernel

/-- The four prefixes of the example and the one that host software adds. -/
def exampleFib : List Pfx :=
  [⟨8, 0x0A000000, 8, 0x100064⟩, ⟨16, 0x0A140000, 16, 0x1000C8⟩, ⟨24, 0x0A141E00, 24, 0x10012C⟩,
    ⟨24, 0xC0A80500, 24, 0x1002BC⟩, ⟨12, 0xAC100000, 12, 0x100258⟩]

/-- 05_forwarding_tables.md: the markers of length 12 and 16, and the four addresses with their results and probes. -/
theorem test_fib_example :
    let l := fibEntries 7 4 exampleFib [8, 12, 16, 24]
    let s : State := { State.reset with tbl.fib := l, tbl.dirs := [(14, { lens := [8, 12, 16, 24] })] }
    let m (len key : Nat) := (s.fibEnt 7 4 len key).map (fun e => [b2n e.pfx, b2n e.marker, e.refs, e.result])
    [m 12 0x0A100000, m 12 0xC0A00000, m 12 0xAC100000, m 16 0x0A140000, m 16 0xC0A80000] =
      [some [0, 1, 2, 0x100064], some [0, 1, 1, 0], some [1, 0, 0, 0x100258], some [1, 1, 1, 0x1000C8], some [0, 1, 1, 0]] ∧
    [0x0A141E05, 0x0A630101, 0xAC100404, 0xC0A80909].map (fun a =>
      [(s.fibLookup 7 4 a false).best, (s.fibLookup 7 4 a false).probes]) =
      [[0x10012C, 3], [0x100064, 2], [0x100258, 2], [0, 3]] := by decide +kernel

/-- 06_associative_search.md: 131 entries laid out with I = 32, and one inserted before the hundred and first. -/
theorem test_tcam_example :
    let l := (List.range 131).map (fun k =>
      ({ index := layoutAt 32 2048 131 k, handle := k, prio := k, value := 0, mask := 0, action := 0 } : TcamEnt))
    let p := placeBetween 2048 (l.take 100) (l.drop 100)
    (l[99]?.map (·.index), l[100]?.map (·.index), p.map (fun r => (r.at_, r.moves))) =
      (some 102, some 103, some (102, 7)) := by decide +kernel

/-- 07_packet_buffer.md: an age limit of 2 ms across the wrap of T32. -/
theorem test_age_example :
    let s (t : Nat) : State := { live with time.acc := BitVec.ofNat 64 (t * 2 ^ 32), buf.queues := [(0, { ageUs := 2000 })] }
    let p : QPkt := { qpkt with entry := 0xFFF00000#32 }
    ((s 0x000E847F).expired 0 p, (s 0x000E8480).expired 0 p) = (false, true) := by decide

/-- 08_scheduling.md: the trTCM policer with bp 600,000 and bc 900. -/
theorem test_policer_example :
    let f : PolProf := { mode := 1, cir := 2000000, eir := 5000000, cbs := 250000, ebs := 625000, overhead := 20, redDrop := true }
    let b := accounted 1480 f.overhead f.minLen * bucketByte
    let x : Policer := { bc := 900 * bucketByte, be := 600000 * bucketByte, at_ := 0 }
    let r := x.take f b 0
    let n := r.2.refill f 300
    (b / bucketByte, r.1, r.2.be / bucketByte, n.be / bucketByte, n.bc / bucketByte, (n.take f b 1).1, (n.take f b 2).1) =
      (1500, 1, 598500, 598750, 1000, 1, 2) := by decide

/-- 08_scheduling.md: the tag steps of weights 1 and 3. -/
theorem test_tag_example :
    (finishTag 0 1000 1, finishTag 0 1000 3, tagMax 3145728000 200000000) = (1048576000, 349525000, 3145728000) := by decide

/-- 09_buffer_pools.md: 1,500 bytes take pool 2, and the handle of buffer 0x0123 at generation 5. -/
theorem test_handle_example : (poolFor 1500, handleOf 5 2 0x0123) = (2, 0x05020123) := by decide

/-- 10_fabric.md: the CRC-16 of "123456789", and the FCS polynomial's own check value. -/
theorem test_crc_check_values :
    (crc16 ((List.range 9).map (fun i => BitVec.ofNat 8 (0x31 + i))), crc32 ((List.range 9).map (fun i => BitVec.ofNat 8 (0x31 + i)))) =
      (0x29B1#16, 0xCBF43926) := by decide +kernel

/-- 10_fabric.md: five copies of protected packets against a window at 0xFF_FFFE. -/
theorem test_elimination_example :
    let s : State := { live with
      fab.fences := [(550, 0xFFF000), (551, 0xFFF000)]
      fab.windows := [(275, { h := 0xFFFFFE, seen := [0xFFFFFE], last := 0 })] }
    let r1 := s.eliminate 17 3 1 1
    let r2 := r1.2.eliminate 17 3 0 0xFFFFFF
    let r3 := r2.2.eliminate 17 3 1 0xFFFFFF
    let r4 := r3.2.eliminate 17 3 0 1
    let r5 := r4.2.eliminate 17 3 0 0xFFF7FE
    [r1.1, r2.1, r3.1, r4.1, r5.1] = [.deliver, .deliver, .duplicate, .duplicate, .drop 0x49] := by decide

/-- 11_egress_editing.md: STRIP and INSERT of program 17 replace the 14 bytes of a frame's Ethernet header by the 22 of the
encapsulation, over IPv4 whose TTL goes from 64 to 63. -/
theorem test_edit_example :
    let data := pay 22 [(0, 0x02), (1, 0x1A), (5, 0x07), (6, 0x02), (7, 0x1A), (10, 0x01), (11, 0x2C), (12, 0x88), (13, 0x47),
      (14, 0x03), (15, 0xE8), (16, 0x40), (17, 0xFF), (18, 0x05), (19, 0xDC), (20, 0x11), (21, 0xFF)]
    let s : State := { live with
      edit.programs := [(17, [0x46000000#32, 0x10016000#32, 0#32])]
      edit.encaps := [(40000, { valid := true, program := 17, countEn := true, data })] }
    let d := pay 96 [(12, 0x08), (14, 0x45), (17, 82), (22, 64), (23, 17), (24, 0x7a), (25, 0x9c)]
    let y := s.editFrame d { op := 1 } false (some 40000)
    (y.code, y.x.d.length, y.x.d.take 22 == data, byteAt y.x.d 22, byteAt y.x.d 30) = (0, 104, true, 0x45, 63) := by
  decide +kernel

/-- 13_time.md: the increment 0x01_5554_3DB6 is good, a step of -400,000 ns is applied and one of -1,500,000 refused. -/
theorem test_time_example :
    let st (o : Nat) := (cmdTimeStep (cmdB (toLe 4 o ++ zeros 4)) live).status
    ((cmdTimeIncrementSet (cmdB (toLe 5 0x0155543DB6 ++ zeros 3)) live).status, st (4294967296 - 400000),
      st (4294967296 - 1500000)) = (stOk, stOk, stRefused) := by decide +kernel

/-- 18_counters.md: 1,234, 40 and 15 ns at shift 4. -/
theorem test_histogram_example : (histBin 4 1234, histBin 4 40, histBin 4 15) = (6, 1, 0) := by decide

/-- 19_package_power.md: register 0x00 after a loss of main power. -/
theorem test_aux_status_example :
    let s : State := { State.reset with aux.lastCause := 4, aux.hb := 0x37, aux.vauxOk := true, aux.latched := 2 }
    (s.auxStatus, s.auxAlertN) = (0x40372002, false) := by decide

/-- R498: the accumulator after one idle tick. -/
theorem test_idle_tick :
    (match step { State.reset with aux.pllLocked := true } with | .next t => t.time.acc | _ => 0) = 0x0155555555#64 := by decide

/-- R545: ECHO returns its payload. -/
theorem test_echo : (cmdEcho (cmdB [1, 2, 3]) live).result = [1, 2, 3] := by decide

/-- PORT_ADMIN with bit 0 clear and bit 1 set takes P0 down and disables its receive path. -/
theorem test_port_admin :
    let t := (cmdPortAdmin (cmd 2 [(1, 2)]) live).st
    ((t.prt 0).adminUp, (t.prt 0).rxDisabled) = (false, true) := by decide

/-- R743: a payload shorter than its opcode's table completes with BAD_PARAM, and a port that does not exist with NOT_FOUND. -/
theorem test_port_admin_errors :
    ((cmdPortAdmin (cmd 1 []) live).status, (cmdPortAdmin (cmd 2 [(0, 96)]) live).status) = (stBadParam, stNotFound) := by decide

/-- MODE_SET to Parked changes the mode, keeps the one before it and counts the change. -/
theorem test_mode_set :
    let t := (cmdModeSet (cmd 4 [(0, 6)]) live).st
    (t.mode.mode, t.mode.prev, t.mode.changes) = (6, 5, 1) := by decide +kernel

/-! ### The statements that stand by themselves -/

/-- The front command is taken: a step of a NOP in front of another command leaves the other. -/
theorem test_step_takes_the_front : isNext (step { live with pending := [.nop (cmd 0 []), .cellAudit] }) = true := by decide

/-- An idle block with the PLL locked and without; work for the packet memory does not stop the time base. -/
theorem witness_IdleStepIsOneTick :
    let quiet (s : State) : Bool := s.pending == [] && s.tbl.port == [] && s.tbl.batches == [] && s.hbm.reqs == [] &&
      s.fab.reqs == [] && s.fab.laneQ == [] && s.tel.perf == [] && s.tel.perfNext == [] && s.tel.hists == [] &&
      s.sched.samples == [] && s.aux.flResetN
    quiet { live with aux.flResetN := true } = true ∧ live.aux.pllLocked = true ∧
    quiet { State.reset with aux.flResetN := true } = true ∧ State.reset.aux.pllLocked = false ∧
    isNext (step { live with tbl.port := [] }) = true := by decide

theorem witness_EveryStepKeepsInv : (HifOk live.hif ∧ ModeOk live.mode ∧ live.fw.act = none ∧ live.hier.staged = none) ∧
    isNext (step { live with pending := [.nop (cmd 0 [])] }) = true := by decide

theorem witness_CommandsLeaveTheQueue : isNext (exec (.nop (cmd 0 [])) { live with pending := [.cellAudit] }) = true := by decide

/-- Boot through the reset delay and through the reset input, Standby through a loss of main power. -/
theorem witness_QuarantineIsLeftOnlyForBootOrStandby :
    isNext (exec .resetDelayExpiry { live with mode.mode := mdQuarantine, mode.resetAt := some 0 }) = true ∧
    isNext (exec .sysResetAssertion { live with mode.mode := mdQuarantine }) = true ∧
    isNext (exec .mainPowerLoss { live with mode.mode := mdQuarantine }) = true := by decide

/-- A command ring with one entry to fetch; an opcode above class 0x12; and each header check of R546 at its boundary. -/
theorem witness_HeaderChecksComeFirst :
    (live.canFetch = true ∧ live.blocked { cmd 0 [] with relay := none } = false ∧ (opTable 0x1300).isNone = true) ∧
    0x12 < 0x1300 / 256 ∧ (live.serving = true ∧ live.blocked (cmd 0 []) = false) ∧ 4 ≤ { cmd 0 [] with flags := 4 }.flags ∧
    eventMaskSetSpec.long (cmd 3 []).payload = false ∧ 1048576 < { cmd 0 [] with capacity := 1048577 }.capacity := by decide

theorem witness_HeaderChecksComeFirst_length : 1048576 < (cmdB (List.replicate 1048577 0)).payload.length :=
  (List.length_replicate (n := 1048577) (a := (0 : Byte))).symm ▸ (by decide)

theorem witness_OtherTargetsAreRelayedOrNotFound :
    (mgr.serving = true ∧ mgr.blocked (toMember 1) = false ∧ badHeader nopSpec (toMember 1) = false ∧
      (toMember 1).target ≠ mgr.fab.fdi ∧ mgr.isManager = true ∧ mgr.hier.table.contains (toMember 1).target = true) ∧
    (nopSpec.relayed = true ∧ timeSetSpec.relayed = false ∧ badHeader timeSetSpec { cmd 8 [] with target := 1 } = false) ∧
    (live.serving = true ∧ live.blocked (toMember 1) = false ∧ (toMember 1).target ≠ live.fab.fdi ∧ live.isManager = false) ∧
    mgr.hier.table.contains (toMember 2).target = false := by decide

theorem witness_FailureLeavesTheDevice :
    let r := gate eventMaskSetSpec cmdEventMaskSet (cmd 4 [(2, 8)]) live
    r.status ≠ stOk ∧ r.status ≠ stPartial ∧ r.keep = false ∧ live.serving = true ∧ live.blocked (cmd 4 [(2, 8)]) = false := by
  decide

/-- The ends of the increment's range and the values next to them; a step of the threshold, of one more, and a timed one. -/
theorem witness_TimeBaseSteeringLimits :
    [0x0154FDF3B6, 0x0155ACB6F4, 0x0154FDF3B5, 0x0155ACB6F5].all (fun v =>
      accepted timeIncrementSetSpec (cmdB (toLe 5 v ++ zeros 3)) live) = true ∧
    [(1000000, 0), (1000001, 0), (1000000, 1010000000)].all (fun v =>
      accepted timeStepSpec (cmdB (toLe 4 v.1 ++ toLe 4 v.2)) live && live.stepFits (v.1 : Nat)) = true ∧
    leS (toLe 4 1000000 ++ toLe 4 0) 0 4 = 1000000 ∧ leS (toLe 4 1000001 ++ toLe 4 0) 0 4 = 1000001 ∧
    live.time.stepThreshold = 1000000 ∧ T32.validCommit live.t32 1010000000#32 = true ∧ live.time.step = none := by decide

/-- Commit times one nanosecond too early (10 ms) and one too late (1 s), for each of the commands. -/
theorem witness_InvalidCommitTimesAreRejected :
    [1009999999, 2000000001].all (fun t =>
      !T32.validCommit live.t32 (BitVec.ofNat 32 t) &&
      [(batchSpec 0x0401 32, 32), (batchSpec 0x0402 32, 32), (batchSpec 0x0405 12, 12), (batchSpec 0x0407 32, 32),
        (batchSpec 0x0408 24, 24), (batchSpec 0x0409 24, 24), (batchSpec 0x0506 176, 176), (batchSpec 0x0507 176, 176),
        (batchSpec 0x0A02 72, 72)].all (fun x => accepted x.1 (cmdB ([1, 0, 2, 0] ++ toLe 4 t ++ zeros x.2)) timedState) &&
      accepted timeStepSpec (cmdB (zeros 4 ++ toLe 4 t)) live && accepted perfControlSpec (cmdB (zeros 4 ++ toLe 4 t ++ zeros 64)) live &&
      accepted hierModeChangeSpec (cmdB (zeros 4 ++ toLe 4 t ++ zeros 32)) mgr &&
      accepted saTxSwitchSpec (cmdB (zeros 4 ++ toLe 4 t)) secyState && secyState.portExists 0 &&
      ((secyState.secy 0).sa 0 0).isSome &&
      accepted histogramConfigSpec (cmdB ([0, 1, 0, 0] ++ zeros 12 ++ toLe 4 t)) live &&
      accepted sampleSetConfigSpec (cmdB ([0, 1, 0, 0] ++ zeros 12 ++ toLe 4 t)) live &&
      accepted ppsConfigSpec (cmdB ([2, 0, 0, 0] ++ zeros 4 ++ toLe 4 t ++ zeros 8)) live) = true := by decide +kernel

theorem witness_ConfigureOnlyCommands :
    (live.mode.mode ≠ mdConfigure ∧ live.serving = true ∧ live.blocked (cmd 8 []) = false ∧
      (cmd 8 []).target = live.fab.fdi ∧ live.mode.gaveUp = false ∧ badHeader tableSplitSetSpec (cmd 8 []) = false ∧
      badHeader tcamChainConfigSpec (cmd 8 []) = false ∧ badHeader poolCarveSetSpec (cmd 8 []) = false) ∧
    [1, 10].all (fun n => accepted tableSplitSetSpec (cmd 4 [(0, n)]) configure) = true ∧
    accepted tcamChainConfigSpec (cmd 8 [(5, 0)]) configure = true ∧
    (accepted poolCarveSetSpec (cmd 8 [(0, 127)]) configure = true ∧
      ((List.range 5).map (fun p => byteAt (cmd 8 [(0, 127)]).payload p)).sum ≠ 128) ∧
    (accepted poolCarveSetSpec (cmd 8 [(0, 128)]) configure = true ∧
      ((List.range 5).map (fun p => byteAt (cmd 8 [(0, 128)]).payload p)).sum = 128 ∧
      configure.pool.bufs.any (fun e => e.2.state == 1) = false) ∧
    (accepted poolCarveSetSpec (cmd 8 [(0, 128)]) { configure with pool.bufs := [(0, { state := 1 })] } = true) := by decide

theorem witness_ModeSetRefusals :
    [5, 8].all (fun m => accepted modeSetSpec (cmd 4 [(0, m)]) mgr) = true ∧ mgr.hier.member = true ∧
    accepted modeSetSpec (cmd 4 [(0, 11), (1, 0xA5)]) { live with mode.mode := mdQuarantine } = true ∧
    accepted modeSetSpec (cmd 4 [(0, 11), (1, 0xA4)]) live = true := by decide

/-- The bounds of bin 0 and bin 1; and, in the open window, a bin that is empty, one below the largest count, and full. -/
theorem witness_HistogramBins :
    (1 / 2 ^ 0 < 2 ∧ 2 ≤ 2 / 2 ^ 0 ∧ 2 / 2 ^ 0 < 2 ^ 32 ∧ 2 ^ (1 + 0) ≤ 2 ∧ 2 < 2 ^ (1 + 1 + 0)) ∧
    [0, 4294967294, 4294967295].all (fun n =>
      let h : Hist := { enable := true, source := 1, count := 1, intervalMs := 1, start := live.t32 - 999999#32, begun := true, bins := [(3, n)] }
      let s : State := { live with tel.hists := [(0, h)] }
      (s.tel.hists.get? 0).isSome && h.bins.getD (histBin 0 8) 0 == n && s.t32.reached h.start &&
        !s.t32.reached (h.start + BitVec.ofNat 32 (h.intervalMs * 1000000))) = true := by decide

/-- A batch of two next hops that runs to its end, and one whose second operation names an index that does not exist. -/
theorem witness_BatchesStopAtTheFirstFailure :
    [([pay 12 [], pay 12 [(0, 1)]], stOk, 2), ([pay 12 [], pay 12 [(3, 255)]], stPartial, 1)].all (fun x =>
      x.1 != [] && (match (live.portRun x.1.length { id := 0, opcode := 0x0405, flags := 0, ops := x.1 }).1 with
        | .ended st n _ => st == x.2.1 && n == x.2.2
        | .more _ => false)) = true := by decide

/-- A route command behind a batch, whose next entry the port applies. -/
theorem witness_TableWritesWaitForThePort :
    let w : PortWork := { id := 0, opcode := 0x0405, flags := 0, ops := [pay 12 [], pay 12 [(0, 1)]] }
    let s : State := { live with tbl.port := [w] }
    admitted (batchSpec 0x0401 32) (cmd 40 [(0, 1)]) s = true ∧ (batchSpec 0x0401 32).ported (cmd 40 [(0, 1)]).payload = true ∧
    s.tbl.port ≠ [] ∧ w.entry = none ∧ s.tbl.batches = [] ∧
    (match ({ s with tbl.port := [] }.portOp w).1 with | .more _ => true | .ended .. => false) = true := by decide

theorem witness_TagsCompareByTheirDifference : 2 ^ 40 - 1 < 2 ^ 40 ∧ 0 < 1 ∧ 1 < 2 ^ 39 ∧ 2 ^ 39 - 1 < 2 ^ 39 := by decide

/-- Another EtherType, another system, another version, a bad check. -/
theorem witness_BadCoordinationFramesAreDiscarded :
    mgr.coordOn = true ∧ mgr.hier.linkUp.contains 0 = true ∧ { hdr 1 with etherType := 0x88B6 }.etherOk = false ∧
    { hdr 1 with systemId := 8 }.systemId ≠ mgr.hier.systemId ∧ { hdr 1 with version := 2 }.version ≠ 1 ∧
    { hdr 1 with check := ~~~(hdr 1).check }.checkOk = false ∧
    messageOf (.ready 0 { hdr 1 with version := 2 } 1) = some (0, { hdr 1 with version := 2 }) := by decide +kernel

theorem witness_RepeatedMessagesAreOnlyAcknowledged :
    (mgr.coordOn = true ∧ mgr.hier.linkUp.contains 0 = true ∧ (hdr 1).etherOk = true ∧ (hdr 1).systemId = mgr.hier.systemId ∧
      (hdr 1).version = 1 ∧ (hdr 1).checkOk = true ∧ (hdr 1).type = 1 ∧ (hdr 1).dst = mgr.fab.fdi ∧ (hdr 1).src ≠ mgr.fab.fdi) ∧
    ((mgr.noted 0 (hdr 1)).member 1).seen.contains 1 = false ∧
    (({ mgr with hier.members := [(1, { seen := [1] })] }.noted 0 (hdr 1)).member 1).seen.contains 1 = true := by decide +kernel

/-- The first and last 8 bytes of the Snowdrop window in Recovery and of the MSI-X table. -/
theorem witness_BarWritesChangeTheirBytes :
    [(mdRecovery, 0x10000), (mdRecovery, 0x1FFF8), (mdForwarding, 0x20000), (mdForwarding, 0x203F8)].all (fun x =>
      let s : State := { live with mode.mode := x.1 }
      Memory.wf s.hif.bar && s.hif.linkUp && x.2 % 8 == 0 && isNext (exec (.registerWrite x.2 0x0123456789ABCDEF#64 true) s)) =
      true := by decide

theorem witness_DeviceCommandsComplete :
    [nopSpec, deviceInfoGetSpec, eventMaskGetSpec, echoSpec].all (fun x => accepted x (cmd 1 []) live) = true ∧
    [7, 8].all (fun n => accepted eventMaskSetSpec (cmd 4 [(2, n)]) live) = true ∧ le (pay 4 [(2, 7)]) 0 4 < 2 ^ 19 ∧
    2 ^ 19 ≤ le (pay 4 [(2, 8)]) 0 4 := by decide

/-- Every setting of a channel at an end of its range, with the channel off and on. -/
theorem witness_ChannelCommandsComplete :
    [[4, 0, 0, 4, 0, 0, 1, 0], [63, 1, 9, 63, 0x10, 0x27, 200, 0]].all (fun b =>
      accepted dmaChannelSetSpec (cmdB (b ++ zeros 8)) live) = true ∧
    (live.chan 63).enabled = false ∧ (live.chan 4).enabled = true ∧
    accepted dmaChannelEnableSpec (cmd 4 [(0, 4), (1, 0)]) live = true ∧ (live.chan 4).configured = true ∧
    accepted dmaChannelEnableSpec (cmd 4 [(0, 6), (1, 1)]) { live with hif.channels := [(6, { configured := true })] } = true ∧
    [4, 63].all (fun k => accepted dmaChannelStatusGetSpec (cmd 4 [(0, k)]) live) = true ∧
    [[0, 0, 1, 0, 0, 0, 0, 0], [63, 0, 0, 1, 0xE8, 3, 0, 0]].all (fun b => accepted msixModerationSetSpec (cmdB b) live) = true ∧
    (live.vec 63).waiting = 0 ∧ accepted hifCountersGetSpec (cmd 0 []) live = true := by decide

/-- Rings off and on, and base register values that enable, that move an enabled ring, and that disable it. -/
theorem witness_RegisterWritesComplete :
    live.hif.linkUp = true ∧ { live with hif.cmdRing := {} }.hif.cmdRing.enable = false ∧ (0x1018#64).getLsbD 4 = true ∧
    live.hif.cmdRing.enable = true ∧ (0x1018#64).toNat / 4096 * 4096 ≠ live.hif.cmdRing.addr ∧
    live.hif.cmdRing.upper < 4294967296 ∧ live.hif.evtRing.enable = true ∧ (8#64).getLsbD 4 = false ∧
    (8#64).toNat / 4096 * 4096 = live.hif.evtRing.addr ∧ (8#64).toNat % 16 = live.hif.evtRing.sizeCode ∧
    { live with hif.evtRing := {} }.hif.evtRing.enable = false ∧ live.hif.evtLost = 0 := by decide

/-- Doorbells that name the ring and that do not; the largest index that fits and the next. -/
theorem witness_DoorbellsComplete :
    live.hif.linkUp = true ∧ live.hif.cmdRing.enable = true ∧ live.hif.evtRing.enable = true ∧ live.hif.evtLost = 0 ∧
    { live with hif.cmdRing := {} }.hif.cmdRing.enable = false ∧ { live with hif.evtRing := {} }.hif.evtRing.enable = false ∧
    (live.hif.cmdRing.entries + 65536 - live.hif.cmdRing.dev) % 65536 ≤ live.hif.cmdRing.entries ∧
    live.hif.cmdRing.entries < (live.hif.cmdRing.entries + 1 + 65536 - live.hif.cmdRing.dev) % 65536 ∧
    (live.chan 6).enabled = false ∧ 0x10000 % 8 = 0 ∧ { live with mode.mode := mdRecovery }.mode.mode = mdRecovery ∧
    live.mode.mode ≠ mdRecovery := by decide

theorem witness_CommandFetchRuns :
    (live.canFetch = true ∧ live.blocked (cmd 0 []) = false ∧ (opTable 1).isSome = true ∧ (opTable 0xFFFF).isNone = true) ∧
    State.reset.canFetch = false ∧ heldBack.blocked (cmd 0 []) = true := by decide

/-! ### Where the outcome rests on a value that the spec leaves to the part -/

/-- FW_VERIFY completes with OK where the staged image is one that the part's key verifies (log 7). -/
theorem witness_fwVerify (i : Image) (h : i.verify 0 = 2) :
    accepted fwVerifySpec (cmd 0 []) live = true ∧ noTm live = false ∧
      ({ live with fw.staging := i }).fw.staging.verify live.fw.floor = 2 := ⟨by decide, by decide, h⟩

/-- FW_REVERT completes with OK where the retained image verifies. -/
theorem witness_fwRevert (i : Image) (h : i.verify 0 = 2) :
    let s : State := { live with
      fw.pending := true, fw.retainedRegion := i, fw.recA := { seq := 1, committed := true, body := some { retainedValid := true } } }
    accepted fwRevertSpec (cmd 0 []) s = true ∧ s.fw.pending = true ∧ (s.bootRec.map (·.retainedValid)).getD false = true ∧
      s.good s.fw.retainedRegion = true := ⟨rfl, rfl, rfl, by show (i.verify 0 == 2) = true; rw [h]; rfl⟩

/-- The time of an activation ends with its change of image where the image of the region verifies. -/
theorem witness_activationTimeout (i : Image) (h : i.verify 0 = 2) :
    let s : State := { live with
      fw.imageRegion := i, fw.act := some { at_ := 0, image := i, prevMode := 5, oldVersion := 0, paused := true } }
    s.ended 0 (ms 30) = true ∧ s.good s.fw.imageRegion = true ∧ noTm s = false :=
  ⟨rfl, by show (i.verify 0 == 2) = true; rw [h]; rfl, rfl⟩

/-- ROM_START starts the image of the region where it verifies and the device has no boot record yet. -/
theorem witness_romStart (i : Image) (h : i.verify 0 = 2) :
    let s : State := { live with mode.mode := mdBoot, fw.runs := false, fw.imageRegion := i }
    s.mode.mode = mdBoot ∧ s.aux.pllLocked = true ∧ s.mode.held = false ∧ s.aux.sysReset.low = false ∧ s.bootRec = none ∧
      s.good s.fw.imageRegion = true := ⟨rfl, rfl, rfl, rfl, rfl,
        by show (i.verify 0 == 2) = true; rw [h]; rfl⟩

/-- HBM_PC_RESTORE of a retired pseudo-channel, whether or not it trains (log 17). -/
theorem witness_hbmPcRestore :
    let s : State := { live with mode.mode := mdConfigure, hbm.pcs := [(0, { state := 2 })] }
    accepted hbmPcRestoreSpec (cmd 4 []) s = true ∧ (s.pcOf 0).state = 2 ∧
      (Config.pcTrains s.tbl.freeIx = false ∨ Config.pcTrains s.tbl.freeIx = true) :=
  ⟨by decide, by decide, by cases Config.pcTrains _ <;> simp⟩

/-! ### Units that the device does not have -/

/-- Operands just past the last unit. -/
theorem witness_AbsentUnitsFault_1 : ([
    .msixTimer 64, .lookupResult 96 [], .lookupResult 0 [64], .headerCellAdmission 96, .frameTail 96, .egressSelection 96,
    .refillArrival 524288, .ageExpiry 524288, .shaperPayoff 96, .sampleWindowEnd 16, .resequenceTimeout 256 0 0,
    .resequenceTimeout 0 2 0, .resequenceTimeout 0 0 8, .reassemblyTimeout 256 0 0 0 false, .reassemblyTimeout 0 2 0 0 false,
    .reassemblyTimeout 0 0 8 0 false, .reassemblyTimeout 0 0 0 16 false, .reassemblyTimeout 0 0 0 8 false,
    .protectedCopyComplete 256 0 0, .protectedCopyComplete 0 2 0, .protectedCopyComplete 0 0 16, .windowIdleExpiry 256 0,
    .windowIdleExpiry 0 16, .editPacket 96, .transmitStart 96, .creditRequestRefresh 262144, .voqActiveTimeout 256 0,
    .voqActiveTimeout 0 262144, .creditIssue 96, .creditIssue 128, .grantBatchTimeout 256, .creditKeepExpiry 262144,
    .hearTimeout 256 0, .hearTimeout 0 2, .upHoldExpiry 256 0, .upHoldExpiry 0 2, .resyncResend 256 0, .resyncResend 0 2,
    .controlMessageTimeout 256 0, .controlMessageTimeout 0 65536, .fabricLaneFault 128 false,
    .fabricLaneTrainingEnd 128 false, .fabricTrainingRetry 128, .fallbackWindow 6 [], .fallbackTimeout 6] : List Instr).all
    (fun i => match exec i live with | .fault .noSuchUnit => true | _ => false) = true := by decide

/-- Operands just past the last unit. -/
theorem witness_AbsentUnitsFault_2 : ([
    .busDataLineLow 6 false, .parserPipelineError 17 [], .lookupPipelineError 17 [], .editEngineError 100 0,
    .tcamScrub [(64, 0)], .tcamScrub [(0, 2048)], .puntDmaComplete 64, .puntFrameAtHead 64, .puntHoldExpiry 64,
    .injectFrameRead 64 [], .injectHoldExpiry 64, .dmaError (some 64) 0 .poisoned, .hbmRequest 128 0 0 0 false,
    .hbmRequest 0 7 0 0 false, .hbmRequest 0 0 32 0 false, .hbmRequest 0 0 0 16384 false, .hbmRefreshDue 128 0,
    .hbmRefreshDue 0 32, .selfRefreshIdle 4, .selfRefreshExit 4, .hbmParityError 64 0,
    .hbmReadError 128 0 0 false false (.counter 0), .hbmReadError 0 32 0 false false (.counter 0),
    .hbmReadError 0 0 16384 false false (.counter 0), .hbmTracking 64 false, .plannedRetrainTrigger 64,
    .evacuationComplete 64, .evacuationTimeout 64, .channelTrainingEnd 64 false false, .counterScrub 8388608 none false,
    .d2dFlitError { module := 16, toFe := true }, .d2dLaneFault 16 false 0, .d2dLaneFault 0 false 66,
    .snowdropChunk 3 (hdr 1) 0 0 [], .coordTimeout 256 0, .coordTimeout 0 2, .leaveHoldExpiry 256,
    .degradedConditionArises 12, .degradedConditionClears 12, .feFirmwareFailure .stall [5], .tmCoreFailure 2,
    .sramError 2 0 0 0 false .serviceMemory, .sramError 0 2304 0 0 false .serviceMemory,
    .sramError 0 0 0 0 false (.labelEntry 1048576), .spareRowFilled 2304] : List Instr).all
    (fun i => match exec i live with | .fault .noSuchUnit => true | _ => false) = true := by decide

/-- Operands just past the last unit. -/
theorem witness_AbsentUnitsFault_3 : ([
    .perfOverflow 2 0, .perfOverflow 0 256, .histogramWindowEnd 64, .psampleRecord 3 0 0 0 0 0, .psampleRecord 0 100 0 0 0 0,
    .railFault 9, .thermalAlarm 40 0, .thermalTrip 40 0, .temperatureLow 40 0, .alarmInputChange 4 false,
    .laneLockDeclared 128, .laneLockLost 128, .stackTemperatureReport 4 0, .replayReissue 64, .rowRepairDone 128 0,
    .rowRepairDone 0 32, .coordLinkDown 2, .coordLinkUp 2] : List Instr).all
    (fun i => match exec i live with | .fault .noSuchUnit => true | _ => false) = true := by decide

/-! ### Commands and events that answer a next state -/

theorem witness_ReadingCommandsFrame_1 : ([
    (.nop (cmd 0 []), live), (.deviceInfoGet (cmd 0 []), live), (.eventMaskSet (cmd 4 []), live),
    (.eventMaskGet (cmd 0 []), live), (.echo (cmd 1 []), live), (.portStatusGet (cmd 1 []), live),
    (.portCountersGet (cmd 1 []), live),
    (.moduleRead (cmd 5 [(4, 1)]), { live with port.mods := [(0, { present := true, retries := 1 })] }),
    (.ledgerRead (cmd 4 [(2, 1)]), live), (.saStatusGet (cmd 2 []), live), (.secyCountersGet (cmd 1 []), live),
    (.parsePolicyGet (cmd 1 []), live),
    (.lbSlotsGet (cmd 4 []), { live with tbl.nexthops := [(1, { type := 1 }), (2, { type := 1 })], tbl.ecmps := [(0, { members := [(0, 1)], slots := List.replicate 256 0, capacity := 8, base := 0, countEn := false })] }),
    (.parseCountersGet (cmd 1 []), live),
    (.routeGet (cmd 20 [(2, 4), (3, 255)]), { live with tbl.dirs := [(0, { dflt := 1048576, lens := [8] })], tbl.fib := [{ vrf := 0, fam := 4, len := 8, key := 0, orig := 8, pfx := true, marker := false, refs := 0, result := 1048577 }] }),
    (.tableStatusGet (cmd 0 []), live),
    (.tcamSearch (cmd 84 []), { live with tcam.chains := [(0, { width := 0, bases := [0], ents := [{ index := 0, handle := 1, prio := 1, value := 0, mask := 0, action := 0 }] })] }),
    (.tcamSearchContinue (cmd 92 []), { live with tcam.chains := [(0, { width := 0, bases := [0], ents := [{ index := 0, handle := 1, prio := 1, value := 0, mask := 0, action := 0 }] })] }),
    (.tcamEntryRead (cmd 4 [(0, 1)]), { live with tcam.chains := [(0, { width := 0, bases := [0], ents := [{ index := 0, handle := 1, prio := 1, value := 0, mask := 0, action := 0 }] })] }),
    (.tcamStatusGet (cmd 0 []), live), (.policerStatusGet (cmd 4 []), live), (.schedCountersGet (cmd 0 []), live),
    (.bufInfo (cmd 4 []), live), (.fabricStatusGet (cmd 0 []), live), (.fabricCountersGet (cmd 0 []), live),
    (.mcastGroupGet (cmd 2 []), live), (.editTest (cmd 26 [(10, 14)]), live), (.editCountersGet (cmd 0 []), live),
    (.hbmStatusGet (cmd 4 [(1, 1)]), live), (.hbmCountersGet (cmd 0 []), live), (.timeGet (cmd 0 []), live),
    (.timeCountersGet (cmd 0 []), live), (.dmaChannelSet (cmd 16 [(0, 6), (3, 4), (6, 1)]), live),
    (.dmaChannelStatusGet (cmd 4 [(0, 4)]), live), (.msixModerationSet (cmd 8 [(2, 1)]), live),
    (.hifCountersGet (cmd 0 []), live), (.hierStatusGet (cmd 0 []), live), (.hierDeputySet (cmd 4 [(0, 1)]), mgr),
    (.hierCountersGet (cmd 0 []), live), (.fwStatusGet (cmd 0 []), live)] : List (Instr × State)).all
    (fun x => isNext (exec x.1 x.2)) = true := by decide

theorem witness_ReadingCommandsFrame_2 : ([
    (.attestKeyGet (cmd 0 []), live),
    (.fwSnowdropPush (cmd 4 [(0, 1)]), { mgr with hier.offers := [(1, [])], fw.verified := true }),
    (.modeStatusGet (cmd 0 []), live), (.repairStatusGet (cmd 0 []), live), (.repairMapRead (cmd 4 [(2, 1)]), live),
    (.perfCounterConfig (cmd 8 [(4, 1), (6, 64)]), live), (.perfControl (cmd 72 []), live),
    (.perfCounterRead (cmd 68 []), live),
    (.histogramConfig (cmdB ([0, 1, 0, 0] ++ toLe 4 0 ++ toLe 4 1 ++ toLe 4 1 ++ toLe 4 1010000000)), live),
    (.psampleConfig (cmd 24 [(20, 1)]), live), (.telemetryCountersGet (cmd 0 []), live), (.pkgStatusGet (cmd 0 []), live)] : List (Instr × State)).all
    (fun x => isNext (exec x.1 x.2)) = true := by decide

theorem witness_UnitCommandsFrame_1 : ([
    (.portConfig (cmd 80 [(3, 8), (12, 1)]), live), (.portAdmin (cmd 2 []), live),
    (.moduleWrite (cmd 6 [(4, 1)]), { live with port.mods := [(0, { present := true, retries := 1 })] }),
    (.moduleIntUnmask (cmd 2 []), live),
    (.ledgerSetRating (cmd 36 []), { live with port.ledger := [{ vendor := pay 16 [], serial := pay 16 [] }] }),
    (.portRateRestore (cmd 2 []), live), (.moduleMapSet (cmd 3 [(2, 1)]), live), (.parsePolicySet (cmd 8 [(2, 1)]), live),
    (.qosPortSet (cmd 36 []), live), (.editPortSet (cmd 2 []), live), (.secyConfig (cmd 24 [(1, 1), (4, 1)]), live),
    (.scSet (cmd 14 [(1, 1)]), live),
    (.scClear (cmd 2 [(1, 1)]), { live with sec.secys := [(0, { rx := [(1, { sci := 1, window := 0 })], sas := [(0, {}), (2, {})] })] }),
    (.saInstall (cmd 64 [(8, 1)]), live),
    (.saEnableRx (cmd 4 [(1, 1)]), { live with sec.secys := [(0, { rx := [(1, { sci := 1, window := 0 })], sas := [(0, {}), (2, {})] })] }),
    (.saTxSwitch (cmd 8 []), { live with sec.secys := [(0, { rx := [(1, { sci := 1, window := 0 })], sas := [(0, {}), (2, {})] })] }),
    (.saDelete (cmd 3 []), { live with sec.secys := [(0, { rx := [(1, { sci := 1, window := 0 })], sas := [(0, {}), (2, {})] })] }),
    (.slowpathClassSet (cmd 12 [(0, 1)]), live), (.hashProfileSet (cmd 12 []), live), (.parseTest (cmd 18 [(2, 14)]), live),
    (.creditProfileSet (cmd 40 ([(1, 100), (5, 1)] ++ (List.range 8).map (fun i => (4 * i + 10, 1)))), live),
    (.lengthReserve (cmd 20 [(2, 4)]), live), (.emTableConfig (cmd 4 []), live), (.interfaceSet (cmd 12 []), live),
    (.routerMacSet (cmd 8 []), live), (.objRetire (cmd 8 [(4, 1)]), live),
    (.tableSplitSet (cmd 1 [(0, 1)]), { live with mode.mode := mdConfigure }), (.lookupConfig (cmd 2 [(0, 1)]), live),
    (.ecmpCountSet (cmd 4 []), { live with tbl.nexthops := [(1, { type := 1 }), (2, { type := 1 })], tbl.ecmps := [(0, { members := [(0, 1)], slots := List.replicate 256 0, capacity := 8, base := 0, countEn := false })] }),
    (.ecmpCreate (cmd 8 [(2, 8), (3, 1), (4, 1)]), live),
    (.tableRepairDone (cmd 2 []), { live with tbl.poison := [(0, { ready := true, table := 0, index := 0 })] }),
    (.objCountersGet (cmd 8 [(4, 1)]), live),
    (.tcamChainConfig (cmd 8 [(4, 2)]), { live with mode.mode := mdConfigure, tcam.chains := [(0, { width := 0, bases := [0], ents := [{ index := 0, handle := 1, prio := 1, value := 0, mask := 0, action := 0 }] })] }),
    (.tcamChainExtend (cmd 2 [(1, 1)]), { live with tcam.chains := [(0, { width := 0, bases := [0], ents := [{ index := 0, handle := 1, prio := 1, value := 0, mask := 0, action := 0 }] })] }),
    (.keyProfileSet (cmd 8 [(1, 1), (4, 0x18), (7, 8)]), live), (.searchProfileSet (cmd 8 []), live),
    (.searchProfileMap (cmd 4 []), live),
    (.tcamEntryDelete (cmd 8 [(0, 1), (4, 9)]), { live with tcam.chains := [(0, { width := 0, bases := [0], ents := [{ index := 0, handle := 1, prio := 1, value := 0, mask := 0, action := 0 }] })] }),
    (.tcamCompact (cmd 6 []), { live with tcam.chains := [(0, { width := 0, bases := [0], ents := [{ index := 0, handle := 1, prio := 1, value := 0, mask := 0, action := 0 }] })] }),
    (.bufferPartitionSet (cmd 12 [(2, 8)]), { live with mode.mode := mdConfigure })] : List (Instr × State)).all
    (fun x => isNext (exec x.1 x.2)) = true := by decide

theorem witness_UnitCommandsFrame_2 : ([
    (.admissionProfileSet (cmd 16 [(8, 39), (12, 48), (14, 16)]), live),
    (.wredProfileSet (cmd 40 [(12, 1), (24, 1), (36, 1)]), live), (.queueConfig (cmd 16 [(4, 1), (12, 1)]), live),
    (.bufferGlobalSet (cmd 4 [(1, 16)]), live), (.bufCellShareSet (cmd 4 []), live), (.queueStatusGet (cmd 8 [(4, 1)]), live),
    (.bufferStatusGet (cmd 0 []), live), (.schedNodeSet (cmd 28 [(0, 1)]), live),
    (.dispatchProfileSet (cmd 32 ((List.range 8).map (fun i => (4 * i + 2, 1)))), live),
    (.protectClassSet (cmd 32 ((List.range 8).map (fun i => (4 * i + 2, 1)))), live),
    (.planeRestore (cmd 4 [(2, 1)]), { live with fab.peers := [(1, { present := true, a := { protecting := true } })] }),
    (.schedNodeGet (cmd 4 []), live), (.lengthProfileSet (cmd 4 []), live), (.qosMapSet (cmd 92 []), live),
    (.policerSet (cmd 36 [(0, 1)]), live),
    (.sampleSetConfig (cmdB ([0, 0, 0, 0] ++ toLe 4 0 ++ toLe 4 1 ++ toLe 4 10 ++ toLe 4 1010000000)), live),
    (.siteMapSet (cmd 12 []), live), (.policerProfileSet (cmd 24 []), live),
    (.poolCarveSet (cmd 8 [(0, 64), (1, 64)]), { live with mode.mode := mdConfigure }),
    (.bufShare (cmdB (toLe 4 0 ++ toLe 4 0x80000 ++ [1, 0, 0, 0] ++ toLe 4 0x80001)), { live with pool.bufs := [(0, { state := 1, owners := [0x80000] })] }),
    (.bufRelease (cmdB (toLe 4 1 ++ toLe 4 0 ++ toLe 4 0x80000)), { live with pool.bufs := [(0, { state := 1, owners := [0x80000] })] }),
    (.channelPoolSet (cmd 28 [(0, 4), (4, 1)]), live), (.poolStatusGet (cmd 0 []), live),
    (.dmaChannelEnable (cmd 4 [(0, 4), (1, 1)]), live), (.planeAdmin (cmd 2 [(1, 1)]), live),
    (.fabricLaneAdmin (cmd 2 []), { live with fab.lanes := [(0, { trained := true, lock := true, adminOut := true })] }),
    (.editProgramSet (cmd 8 [(0, 1), (2, 1)]), live), (.mcastConfig (cmd 4 [(0, 1)]), live),
    (.mcastGroupSet (cmd 36 []), live), (.hbmConfig (cmd 16 [(0, 10), (4, 60), (8, 100), (10, 10)]), live),
    (.hbmRetrain (cmd 4 []), live), (.hbmPcRetire (cmd 4 []), { live with hbm.pcs := [(0, { state := 2 })] }),
    (.timeIncrementSet (cmdB (toLe 5 0x0155555555 ++ zeros 3)), live),
    (.timeSet (cmdB (toLe 4 999000000 ++ toLe 4 0)), { live with mode.mode := mdConfigure, tel.perfOp := some { op := 0, fe := 0, tm := 0, t := 2999500000 } }),
    (.timeConfig (cmd 8 [(1, 4), (4, 1)]), live), (.ppsConfig (cmdB (zeros 12 ++ toLe 4 1000000 ++ toLe 4 1000)), live),
    (.tsPortSet (cmd 8 []), live),
    (.hierarchyConfig (cmdB (zeros 4 ++ toLe 2 500 ++ toLe 2 2 ++ toLe 2 10 ++ toLe 2 11 ++ toLe 2 1 ++ zeros 2)), { live with mode.mode := mdConfigure }),
    (.fwVerify (cmd 0 []), live), (.fwConfirm (cmd 0 []), { live with fw.pending := true })] : List (Instr × State)).all
    (fun x => isNext (exec x.1 x.2)) = true := by decide

theorem witness_UnitCommandsFrame_3 : ([
    (.fwUpdateConfig (cmd 4 [(0, 64)]), live), (.fwSvnCommit (cmd 0 []), live), (.attestQuote (cmd 32 []), live),
    (.hierModeChange (cmd 40 [(0, 5), (8, 1)]), mgr), (.deviceReset (cmd 0 []), { live with mode.mode := mdConfigure }),
    (.repairConfig (cmd 4 [(0, 1)]), live), (.fwDownload (cmd 8 []), live),
    (.fwActivate (cmd 0 []), { live with fw.verified := true }), (.fwRevert (cmd 0 []), live),
    (.telemetryConfig (cmd 4 [(2, 1)]), live), (.thermalConfig (cmd 4 [(0, 100)]), live),
    (.alarmInputConfig (cmd 4 [(2, 1)]), live), (.pkgInputUnmask (cmd 4 []), live), (.auxStatusClear (cmd 4 []), live)] : List (Instr × State)).all
    (fun x => isNext (exec x.1 x.2)) = true := by decide

theorem witness_HostEventsFrame : ([
    (.commandProducerIndex 0 0 0, live), (.eventConsumerIndex 0 0 0, live), (.hifEvtRingBase (.full 0), live),
    (.hifCmdRingBase (.full 0), live), (.hifHealth 0, live),
    (.msixTimer 4, { live with hif.vecs := [(4, { waiting := 1 })] }), (.fwHaltedTimeout, live), (.pcieLinkUp, live),
    (.perfOverflow 0 0, { live with tel.perf := [(0, { enable := true, unit := 0x06, inst := 0, event := 2 })] }),
    (.retainExpiry 0, { live with pool.bufs := [(0, { state := 1, owners := [0x80005], charge := 5, dmaDone := some 0 })] }),
    (.injectHoldExpiry 4, { live with hif.channels := [(4, { configured := true, enabled := true, inject := true, sopSince := some 0 })] }),
    (.puntDmaComplete 5, { live with pool.bufs := [(0, { state := 1, owners := [0x80005], lost := true })], hif.channels := [(5, { configured := true, enabled := true, reading := some { handle := 0, bytes := [] } })] }),
    (.puntHoldExpiry 5, { live with hif.channels := [(5, { configured := true, enabled := true, headSince := some 0, held := [{ handle := 0, bytes := [] }] })] }),
    (.dmaError none 0 .writeFailed, live), (.functionLevelReset, live), (.pcieLinkLoss, live), (.busMasterOff, live),
    (.perfControlDue, { live with tel.perfOp := some { op := 0, fe := 0, tm := 0, t := 0 } }),
    (.telemetryFlush, { live with tel.blockBuf := some 0 })] : List (Instr × State)).all
    (fun x => isNext (exec x.1 x.2)) = true := by decide

theorem witness_PortAndPackageEventsFrame : ([
    (.auxRegisterWrite 0 0, live),
    (.pllLockRetry, { live with mode.mode := mdBoot, fw.runs := false, aux.pllLocked := false }),
    (.vauxChange 0, { State.reset with mode.mode := mdStandby }),
    (.resetStuck, { live with aux.sysReset := { low := true } }),
    (.perstUnmaskTimeout, { live with aux.perst := { masked := true } }), (.recoveryStuck, live), (.auxHeartbeat, live),
    (.linkConditionsMet 0, live), (.linkConditionLost 0 false [], live),
    (.linkDownHoldExpiry 0, { live with port.ports := [(0, { up := true, downSince := some (0, 1) })] }),
    (.remoteFault 0, live), (.trainingRetry 0, { live with port.ports := [(0, { retryAt := some 0 })] }),
    (.lpiIdleEntry 16, { live with port.ports := [(16, { up := true, cfg := { lpiEn := true } })] }),
    (.ledgerHourlyWrite, live), (.remoteFaultCleared 0, live),
    (.frameTransmitted 0, { live with port.ports := [(0, { up := true, sending := some 0 })] }),
    (.fecThreshold ⟨0, {}⟩, live), (.laneTrainingEnd 0 true, { live with port.ports := [(0, { training := [0] })] }),
    (.fallbackWindow 0 [], live),
    (.fallbackTimeout 0, { live with mode.mode := mdMaintenance, port.groups := [(0, { mode := 1, running := 2, fbSince := some 0 })], port.ports := (List.range 16).map (fun p => (p, { cfg := { fbEn := true } })) }),
    (.moduleInserted 1 [], live), (.moduleRemoved 0, live), (.moduleInterrupt 0 [], live),
    (.moduleMonitorPoll 0 0 0 0 [], live), (.ledgerAccumulation, live),
    (.interruptStuck 0, { live with port.mods := [(0, { present := true, intClearedAt := some 0 })] }),
    (.presenceChatter ⟨0, 11⟩, live),
    (.maskedInputPoll 0 [], { live with port.mods := [(0, { present := true, intMasked := true })] }),
    (.moduleAccessUnacknowledged 0, live), (.busDataLineLow 0 false, live),
    (.saSwitchDue 0, { live with sec.secys := [(0, { sas := [(0, {})], switch := some (0, 0) })] }),
    (.rootPllLock, State.reset), (.thermalAlarm 0 130, live), (.temperatureLow 0 (-1), live),
    (.alarmInputChange 0 false, live), (.railsBackInWindow, { live with aux.railsOut := true })] : List (Instr × State)).all
    (fun x => isNext (exec x.1 x.2)) = true := by decide

theorem witness_UnitEventsFrame_1 : ([
    (.resyncResend 1 0, { live with fab.peers := [(1, { present := true, a := { usable := true, waitAck := true } })] }),
    (.laneLockDeclared 0, live),
    (.reassemblyTimeout 1 0 0 0 false, { live with fab.ctxs := [(ctxKey 1 0 0 0 false 0, { open_ := true })] }),
    (.creditRequestRefresh 0, { live with buf.queues := [(0, { pkts := [qpkt] })] }),
    (.windowIdleExpiry 1 0, { live with fab.windows := [(16, { h := 0, seen := [0], last := 0 })] }),
    (.creditIssue 0, { live with fab.credits := [(0, { active := [(524288, 0)] })] }),
    (.grantBatchTimeout 1, { live with fab.grants := [(1, { entries := [(0, 1)], since := 0 })] }),
    (.upHoldExpiry 1 0, { live with fab.peers := [(1, { present := true, a := { usable := true } })] }),
    (.controlMessageTimeout 1 0, { live with fab.ctrlRx := [(65536, { frags := [], count := 2, since := 0 })] }),
    (.fabricTrainingRetry 1, { live with fab.lanes := [(1, { retryAt := some 0 })] }),
    (.creditRequest (onLane (cell 2)), { live with fab.peers := [(1, { present := true })], fab.lanes := [(0, { trained := true, lock := true })] }),
    (.creditGrant (onLane (cell 3)), { live with fab.peers := [(1, { present := true })], fab.lanes := [(0, { trained := true, lock := true })] }),
    (.resync (onLane (cell 5)), { live with fab.peers := [(1, { present := true })], fab.lanes := [(0, { trained := true, lock := true })] }),
    (.controlCell (onLane (cell 4)), { live with fab.peers := [(1, { present := true })], fab.lanes := [(0, { trained := true, lock := true })] }),
    (.voqActiveTimeout 1 0, { live with fab.credits := [(0, { active := [(524288, 0)] })] }),
    (.creditKeepExpiry 0, { live with buf.queues := [(0, { keepAt := some 0 })] }), (.fabricHeartbeatSend, live),
    (.grownTableRelease 0, { live with tbl.oldTables := [(0, 1)] }),
    (.ecmpBlockRelease 0, { live with tbl.oldRuns := [(0, 0, 8)] }),
    (.mcastBlockRelease 0, { live with edit.oldBlocks := [(0, 0, 1)] }),
    (.markerRebuildDone 0, { live with tbl.poison := [(0, { ready := false, table := 0, index := 0 })] }),
    (.tcamDeleteComplete 1, { live with tcam.deleting := [(1, 0)], hif.openCmds := [{ cmd := cmd 8 [(0, 1), (4, 1)], kind := .tcamDelete [1] }] }),
    (.counterUpdate, { live with tbl.updates := [(0, 64)] }), (.hbmRequest 0 0 0 0 false, live),
    (.requestUrgencyRise 0, { live with hbm.reqs := [{ id := 0, pc := 0, port := 0, bank := 0, row := 0, write := false, at_ := 0 }] }),
    (.hbmRefreshDue 0 0, { live with hbm.reqs := [{ id := 0, pc := 0, port := 0, bank := 0, row := 0, write := false, at_ := 0, urgency := 2 }] }),
    (.selfRefreshIdle 0, { live with mode.mode := mdParked, hbm.stackRecs := [(0, { closing := true })] }),
    (.hbmParityError 0 0, { live with hbm.chans := [(0, { retry := [0], replay := some 0, failed := 2 })] }),
    (.hbmTracking 0 true, live), (.plannedRetrainTrigger 0, live),
    (.replayReissue 0, { live with hbm.chans := [(0, { replay := some 0 })] }),
    (.selfRefreshExit 0, { live with hbm.reqs := [{ id := 0, pc := 0, port := 0, bank := 0, row := 0, write := false, at_ := 0 }], hbm.stackRecs := [(0, { selfRefresh := true })] }),
    (.evacuationTimeout 0, { live with hbm.chans := [(0, { evacAt := some 0 })] }), (.counterScrub 0 (some true) false, live),
    (.stackTemperatureReport 0 0, live), (.d2dFlitError ⟨0, true⟩, live),
    (.holdoverTimeout, { live with time.holdover := false }),
    (.ppsInEdge, { live with time.ppsInEn := true, time.ppsLast := some (10000000000000, 0) }),
    (.ppsInLost, { live with time.ppsInEn := true, time.ppsLast := some (0, 0) }),
    (.ppsOutTarget, { live with time.ppsOutEn := true })] : List (Instr × State)).all
    (fun x => isNext (exec x.1 x.2)) = true := by decide +kernel

theorem witness_UnitEventsFrame_2 : ([
    (.ppsOutWidthEnd, { live with time.ppsOut := true }), (.degradedConditionClears 0, live),
    (.drainComplete, { live with mode.mode := mdDrain }), (.repairMapCommit none, { live with mode.uncommitted := 1 }),
    (.repairMapRetry none, { live with mode.mapFailedAt := some 0 }), (.tmDeputyClear, { live with mode.tmDeputy := true }),
    (.spareRowFilled 0, { live with mode.macros := [(0, { rows := 1, filling := some 0 })] }), (.fwHeartbeatTick, live)] : List (Instr × State)).all
    (fun x => isNext (exec x.1 x.2)) = true := by decide

/-! ### Well-formedness -/

theorem test_wf_accepts : (Instr.nop (cmd 0 [])).wf = true ∧ (Instr.dataCell 127 (cell 0)).wf = true ∧
    (Instr.ready 2 (hdr 0x11) 1).wf = true := by decide +kernel

/-- Each field of a mailbox command, of a cell and of a coordination header past its width. -/
theorem test_wf_refuses_headers :
    ([{ cmd 0 [] with seq := 65536 }, { cmd 0 [] with target := 256 }, { cmd 0 [] with flags := 256 },
      { cmd 0 [] with capacity := 4294967296 }] : List Cmd).all (fun c => !c.wf) = true ∧
    ([{ cell 0 with type := 16 }, { cell 0 with src := 256 }, { cell 0 with dst := 256 }, { cell 0 with plane := 2 },
      { cell 0 with lgroup := 8 }, { cell 0 with cseq := 65536 }, { cell 0 with tc := 8 }, { cell 0 with stream := 16 },
      { cell 0 with pseq := 16777216 }, { cell 0 with startSlot := 8 }, { cell 0 with endOff := 256 },
      { cell 0 with payload := [] }] : List Cell).all (fun c => !c.wf) = true ∧
    ([{ hdr 1 with version := 256 }, { hdr 1 with type := 256 }, { hdr 1 with systemId := 65536 }, { hdr 1 with src := 256 },
      { hdr 1 with dst := 256 }, { hdr 1 with flags := 256 }, { hdr 1 with term := 4294967296 },
      { hdr 1 with msgSeq := 4294967296 }, { hdr 1 with epoch := 4294967296 },
      { hdr 1 with length := 65536 }, { hdr 1 with etherType := 65536 }] : List CoordHdr).all (fun h => !h.wf) = true := by
  decide

/-- Every mailbox command refuses a header that is not well formed. -/
theorem test_wf_refuses_commands : ([
    .nop, .deviceInfoGet, .eventMaskSet, .eventMaskGet, .echo, .portGroupSetMode, .portConfig, .portAdmin, .portStatusGet,
    .portCountersGet, .moduleRead, .moduleWrite, .moduleIntUnmask, .ledgerRead, .ledgerSetRating, .portRateRestore,
    .moduleMapSet, .secyConfig, .scSet, .scClear, .saInstall, .saEnableRx, .saTxSwitch, .saDelete, .saStatusGet,
    .secyCountersGet, .parsePolicySet, .parsePolicyGet, .slowpathClassSet, .hashProfileSet, .lbMemberAdd, .lbMemberRemove,
    .lbSlotsSet, .lbSlotsGet, .parseCountersGet, .parseTest, .routeAdd, .routeDelete, .routeGet, .lengthReserve, .nexthopSet,
    .ecmpCreate, .labelSet, .emInsert, .emDelete, .emTableConfig, .interfaceSet, .routerMacSet, .objRetire, .objCountersGet,
    .tableRepairDone, .tableSplitSet, .lookupConfig, .tableStatusGet, .ecmpCountSet, .tcamChainConfig, .tcamChainExtend,
    .keyProfileSet, .searchProfileSet, .searchProfileMap, .tcamEntryInsert, .tcamEntryModify, .tcamEntryDelete, .tcamSearch,
    .tcamSearchContinue, .tcamCompact, .tcamEntryRead, .tcamStatusGet, .bufferPartitionSet, .admissionProfileSet,
    .wredProfileSet, .queueConfig, .queueFlush, .queueStatusGet, .bufferStatusGet, .bufferGlobalSet, .schedNodeSet,
    .schedNodeGet, .lengthProfileSet, .siteMapSet, .dispatchProfileSet, .qosMapSet, .qosPortSet, .policerProfileSet,
    .policerSet, .policerStatusGet, .sampleSetConfig, .schedCountersGet, .poolCarveSet, .channelPoolSet, .bufShare,
    .bufRelease, .bufInfo, .bufCellShareSet, .poolStatusGet, .fabricConfig, .fabricPeerSet, .protectClassSet,
    .creditProfileSet, .planeAdmin, .planeRestore, .fabricLaneAdmin, .fabricStatusGet, .fabricCountersGet, .editProgramSet,
    .encapSet, .mcastGroupSet, .mcastGroupGet, .editPortSet, .mcastConfig, .editTest, .editCountersGet, .hbmConfig,
    .hbmStatusGet, .hbmRetrain, .hbmPcRetire, .hbmPcRestore, .hbmCountersGet, .timeGet, .timeIncrementSet, .timeStep,
    .timeSet, .timeConfig, .tsPortSet, .ppsConfig, .timeCountersGet, .dmaChannelSet, .dmaChannelEnable, .dmaChannelStatusGet,
    .msixModerationSet, .hifCountersGet, .hierarchyConfig, .hierStatusGet, .hierDeputySet, .hierModeChange, .hierDistribute,
    .hierMemberRemove, .hierCountersGet, .hierClaim, .fwDownload, .fwVerify, .fwActivate, .fwConfirm, .fwRevert, .fwStatusGet,
    .fwUpdateConfig, .fwSvnCommit, .attestKeyGet, .attestQuote, .fwSnowdropPush, .modeSet, .modeStatusGet, .repairStatusGet,
    .repairMapRead, .deviceReset, .feRestart, .repairConfig, .perfCounterConfig, .perfControl, .perfCounterRead,
    .histogramConfig, .psampleConfig, .telemetryConfig, .telemetryCountersGet, .pkgStatusGet, .thermalConfig,
    .alarmInputConfig, .pkgInputUnmask, .auxStatusClear] : List (Cmd → Instr)).all
    (fun f => !(f { cmd 0 [] with flags := 256 }).wf) = true := by decide

/-- One operand, just past its range. -/
theorem test_wf_refuses_one_operand :
  ([
      .msixTimer, .grownTableRelease, .spareTileFilled, .puntDmaComplete, .puntFrameAtHead, .puntHoldExpiry,
      .injectHoldExpiry, .plannedRetrainTrigger, .evacuationComplete, .evacuationTimeout, .histogramWindowEnd, .replayReissue] : List (Nat → Instr)).all (fun f => !(f 64).wf) = true ∧
  ([
      .relayTimeout, .shaperPayoff, .tcamDeleteComplete, .retainExpiry, .requestUrgencyRise, .evacuationSlotRelease,
      .messageResend, .vauxChange] : List (Nat → Instr)).all (fun f => !(f 4294967296).wf) = true ∧
  ([
      .parserSlot, .headerCellAdmission, .frameTail, .egressSelection, .editPacket, .transmitStart, .linkConditionsMet,
      .linkUpHoldExpiry, .linkDownHoldExpiry, .remoteFault, .trainingRetry, .lpiIdleEntry, .saSwitchDue, .remoteFaultCleared,
      .frameTransmitted] : List (Nat → Instr)).all (fun f => !(f 96).wf) = true ∧
  ([
      .refillArrival, .ageExpiry] : List (Nat → Instr)).all (fun f => !(f 524288).wf) = true ∧
  ([
      .sampleWindowEnd] : List (Nat → Instr)).all (fun f => !(f 16).wf) = true ∧
  ([
      .creditRequestRefresh, .creditKeepExpiry] : List (Nat → Instr)).all (fun f => !(f 262144).wf) = true ∧
  ([
      .grantBatchTimeout, .markerRebuildDone, .leaveHoldExpiry] : List (Nat → Instr)).all (fun f => !(f 256).wf) = true ∧
  ([
      .fabricTrainingRetry, .laneLockDeclared, .laneLockLost] : List (Nat → Instr)).all (fun f => !(f 128).wf) = true ∧
  ([
      .fallbackTimeout] : List (Nat → Instr)).all (fun f => !(f 6).wf) = true ∧
  ([
      .moduleRemoved, .interruptStuck, .moduleAccessUnacknowledged] : List (Nat → Instr)).all (fun f => !(f 48).wf) = true ∧
  ([
      .ecmpBlockRelease, .mcastBlockRelease] : List (Nat → Instr)).all (fun f => !(f 65536).wf) = true ∧
  ([
      .selfRefreshIdle, .selfRefreshExit] : List (Nat → Instr)).all (fun f => !(f 4).wf) = true ∧
  ([
      .degradedConditionArises, .degradedConditionClears] : List (Nat → Instr)).all (fun f => !(f 12).wf) = true ∧
  ([
      .tmCoreFailure, .coordLinkDown, .coordLinkUp] : List (Nat → Instr)).all (fun f => !(f 2).wf) = true ∧
  ([
      .spareRowFilled] : List (Nat → Instr)).all (fun f => !(f 2304).wf) = true ∧
  ([
      .railFault] : List (Nat → Instr)).all (fun f => !(f 9).wf) = true := by decide

/-- One operand of several, just past its range. -/
theorem test_wf_refuses_1 : ([
    .commandProducerIndex 64 0 0, .commandProducerIndex 0 256 0, .commandProducerIndex 0 0 65536, .eventConsumerIndex 64 0 0,
    .eventConsumerIndex 0 256 0, .eventConsumerIndex 0 0 65536, .channelProducerIndex 64 0 0 [],
    .channelProducerIndex 0 256 0 [], .channelProducerIndex 0 0 65536 [], .auxRegisterWrite 256 0,
    .registerWrite 262144 0 false, .commandFetch ⟨65536, cmd 0 []⟩, .commandFetch ⟨0, { cmd 0 [] with flags := 256 }⟩,
    .receiveFrame 96 { bytes := [], errAt := none, headFirst := false },
    .receiveFrame 0 { bytes := List.replicate 65536 0, errAt := none, headFirst := false }, .lookupResult 96 [],
    .lookupResult 0 [64], .dataCell 128 (cell 0), .dataCell 0 { cell 0 with type := 16 }, .resequenceTimeout 256 0 0,
    .resequenceTimeout 0 2 0, .resequenceTimeout 0 0 8, .reassemblyTimeout 256 0 0 0 false, .reassemblyTimeout 0 2 0 0 false,
    .reassemblyTimeout 0 0 8 0 false, .reassemblyTimeout 0 0 0 16 false, .reassemblyTimeout 0 0 0 8 false,
    .protectedCopyComplete 256 0 0, .protectedCopyComplete 0 2 0, .protectedCopyComplete 0 0 16, .windowIdleExpiry 256 0,
    .windowIdleExpiry 0 16, .creditRequest { lane := 128, cell := cell 0 },
    .creditRequest (onLane { cell 0 with type := 16 }), .voqActiveTimeout 256 0, .voqActiveTimeout 0 262144, .creditIssue 96,
    .creditGrant { lane := 128, cell := cell 0 }, .creditGrant (onLane { cell 0 with type := 16 }),
    .heartbeatCell { lane := 128, cell := cell 0 }, .heartbeatCell (onLane { cell 0 with type := 16 }), .hearTimeout 256 0,
    .hearTimeout 0 2, .upHoldExpiry 256 0, .upHoldExpiry 0 2, .resync { lane := 128, cell := cell 0 },
    .resync (onLane { cell 0 with type := 16 }), .resyncAck { lane := 128, cell := cell 0 },
    .resyncAck (onLane { cell 0 with type := 16 }), .resyncResend 256 0, .resyncResend 0 2,
    .controlCell { lane := 128, cell := cell 0 }, .controlCell (onLane { cell 0 with type := 16 }),
    .controlMessageTimeout 256 0, .controlMessageTimeout 0 65536, .fabricLaneFault 128 false,
    .fabricLaneTrainingEnd 128 false, .linkConditionLost 96 false [], .fecThreshold ⟨96, {}⟩, .laneTrainingEnd 96 false] : List Instr).all (fun i => !i.wf) = true := by decide +kernel

/-- One operand of several, just past its range. -/
theorem test_wf_refuses_2 : ([
    .fallbackWindow 6 [], .moduleInserted 48 [], .moduleInserted 0 (List.replicate 257 0), .moduleInterrupt 48 [],
    .moduleMonitorPoll 48 0 0 0 [], .moduleMonitorPoll 0 0 4294967296 0 [], .moduleMonitorPoll 0 0 0 4294967296 [],
    .presenceChatter ⟨48, 0⟩, .maskedInputPoll 48 [], .busDataLineLow 6 false, .parserPipelineError 17 [],
    .lookupPipelineError 17 [], .editEngineError 100 0, .editEngineError 0 4294967296, .tcamScrub [(64, 0)],
    .injectFrameRead 64 [], .dmaError (some 64) 0 .poisoned, .dmaError none 18446744073709551616 .poisoned,
    .hbmRequest 128 0 0 0 false, .hbmRequest 0 7 0 0 false, .hbmRequest 0 0 32 0 false, .hbmRequest 0 0 0 16384 false,
    .hbmRefreshDue 128 0, .hbmRefreshDue 0 32, .hbmParityError 64 0, .hbmParityError 0 4294967296,
    .hbmReadError 128 0 0 false false (.counter 0), .hbmReadError 0 32 0 false false (.counter 0),
    .hbmReadError 0 0 16384 false false (.counter 0), .hbmTracking 64 false, .channelTrainingEnd 64 false false,
    .counterScrub 8388608 none false, .d2dFlitError ⟨16, true⟩, .d2dLaneFault 16 false 0, .d2dLaneFault 0 false 66,
    .timeSync 3 (hdr 1) 0 0 none, .timeSync 0 { hdr 1 with version := 256 } 0 0 none, .heartbeat 3 (hdr 1) 0 0 0 0 0 0,
    .heartbeat 0 { hdr 1 with version := 256 } 0 0 0 0 0 0, .heartbeat 0 (hdr 1) 0 256 0 0 0 0,
    .heartbeat 0 (hdr 1) 0 0 256 0 0 0, .heartbeat 0 (hdr 1) 0 0 0 256 0 0, .heartbeat 0 (hdr 1) 0 0 0 0 4294967296 0,
    .heartbeat 0 (hdr 1) 0 0 0 0 0 4294967296, .ack 3 (hdr 1) 0 0, .ack 0 { hdr 1 with version := 256 } 0 0,
    .ack 0 (hdr 1) 4294967296 0, .ack 0 (hdr 1) 0 256, .announce 3 (hdr 1) 0 0, .announce 0 { hdr 1 with version := 256 } 0 0,
    .announce 0 (hdr 1) 256 0, .announce 0 (hdr 1) 0 256, .joinRequest 3 (hdr 1) 0 0 0 0 0 0,
    .joinRequest 0 { hdr 1 with version := 256 } 0 0 0 0 0 0, .joinRequest 0 (hdr 1) 256 0 0 0 0 0,
    .joinRequest 0 (hdr 1) 0 256 0 0 0 0, .joinRequest 0 (hdr 1) 0 0 256 0 0 0, .joinRequest 0 (hdr 1) 0 0 0 256 0 0,
    .joinRequest 0 (hdr 1) 0 0 0 0 4294967296 0, .joinRequest 0 (hdr 1) 0 0 0 0 0 256] : List Instr).all (fun i => !i.wf) = true := by decide +kernel

/-- One operand of several, just past its range. -/
theorem test_wf_refuses_3 : ([
    .joinAccept 3 (hdr 1) 0 0 0, .joinAccept 0 { hdr 1 with version := 256 } 0 0 0, .joinAccept 0 (hdr 1) (2 ^ 256) 0 0,
    .joinAccept 0 (hdr 1) 0 256 0, .joinReject 3 (hdr 1) 0, .joinReject 0 { hdr 1 with version := 256 } 0,
    .joinReject 0 (hdr 1) 256, .leave 3 (hdr 1) 0, .leave 0 { hdr 1 with version := 256 } 0, .leave 0 (hdr 1) 256,
    .memberUpdate 3 (hdr 1) 0 0, .memberUpdate 0 { hdr 1 with version := 256 } 0 0, .memberUpdate 0 (hdr 1) (2 ^ 256) 0,
    .memberUpdate 0 (hdr 1) 0 256, .relayCommand 3 (hdr 1) 0 0 0 (⟨0, cmd 0 []⟩) [],
    .relayCommand 0 { hdr 1 with version := 256 } 0 0 0 (⟨0, cmd 0 []⟩) [],
    .relayCommand 0 (hdr 1) 4294967296 0 0 (⟨0, cmd 0 []⟩) [], .relayCommand 0 (hdr 1) 0 4294967296 0 (⟨0, cmd 0 []⟩) [],
    .relayCommand 0 (hdr 1) 0 0 4294967296 (⟨0, cmd 0 []⟩) [], .relayCommand 0 (hdr 1) 0 0 0 ⟨65536, cmd 0 []⟩ [],
    .relayCommand 0 (hdr 1) 0 0 0 ⟨0, { cmd 0 [] with flags := 256 }⟩ [],
    .relayCommand 0 (hdr 1) 0 0 0 (⟨0, cmd 0 []⟩) (List.replicate 3897 0), .relayCompletion 3 (hdr 1) 0 0 0 0 0 0 0 0 [],
    .relayCompletion 0 { hdr 1 with version := 256 } 0 0 0 0 0 0 0 0 [],
    .relayCompletion 0 (hdr 1) 4294967296 0 0 0 0 0 0 0 [], .relayCompletion 0 (hdr 1) 0 4294967296 0 0 0 0 0 0 [],
    .relayCompletion 0 (hdr 1) 0 0 4294967296 0 0 0 0 0 [], .relayCompletion 0 (hdr 1) 0 0 0 256 0 0 0 0 [],
    .relayCompletion 0 (hdr 1) 0 0 0 0 4294967296 0 0 0 [], .relayCompletion 0 (hdr 1) 0 0 0 0 0 4294967296 0 0 [],
    .relayCompletion 0 (hdr 1) 0 0 0 0 0 0 4294967296 0 [], .relayCompletion 0 (hdr 1) 0 0 0 0 0 0 0 4294967296 [],
    .relayCompletion 0 (hdr 1) 0 0 0 0 0 0 0 0 (List.replicate 3897 0), .relayEvent 3 (hdr 1) 0 0 [],
    .relayEvent 0 { hdr 1 with version := 256 } 0 0 [], .relayEvent 0 (hdr 1) 65536 0 [],
    .relayEvent 0 (hdr 1) 0 4294967296 [], .relayEvent 0 (hdr 1) 0 0 (List.replicate 49 0), .prepare 3 (hdr 1) 0 0 0 0,
    .prepare 0 { hdr 1 with version := 256 } 0 0 0 0, .prepare 0 (hdr 1) 4294967296 0 0 0, .prepare 0 (hdr 1) 0 256 0 0,
    .prepare 0 (hdr 1) 0 0 0 (2 ^ 256), .ready 3 (hdr 1) 0, .ready 0 { hdr 1 with version := 256 } 0,
    .ready 0 (hdr 1) 4294967296, .refuse 3 (hdr 1) 0 0, .refuse 0 { hdr 1 with version := 256 } 0 0,
    .refuse 0 (hdr 1) 4294967296 0, .refuse 0 (hdr 1) 0 256, .commit 3 (hdr 1) 0 0 0,
    .commit 0 { hdr 1 with version := 256 } 0 0 0, .commit 0 (hdr 1) 4294967296 0 0, .commit 0 (hdr 1) 0 256 0,
    .abort 3 (hdr 1) 0, .abort 0 { hdr 1 with version := 256 } 0, .abort 0 (hdr 1) 4294967296, .modeQuery 3 (hdr 1) 0,
    .modeQuery 0 { hdr 1 with version := 256 } 0, .modeQuery 0 (hdr 1) 4294967296] : List Instr).all (fun i => !i.wf) = true := by decide +kernel

/-- One operand of several, just past its range. -/
theorem test_wf_refuses_4 : ([
    .takeover 3 (hdr 1) 0 0, .takeover 0 { hdr 1 with version := 256 } 0 0, .takeover 0 (hdr 1) 256 0,
    .takeover 0 (hdr 1) 0 256, .snowdropOffer 3 (hdr 1) [] 0, .snowdropOffer 0 { hdr 1 with version := 256 } [] 0,
    .snowdropOffer 0 (hdr 1) (List.replicate 15 0) 0, .snowdropOffer 0 (hdr 1) [] 256, .snowdropChunk 3 (hdr 1) 0 0 [],
    .snowdropChunk 0 { hdr 1 with version := 256 } 0 0 [], .snowdropChunk 0 (hdr 1) 4294967296 0 [],
    .snowdropChunk 0 (hdr 1) 0 4294967296 [], .snowdropChunk 0 (hdr 1) 0 0 (List.replicate 3937 0),
    .snowdropResult 3 (hdr 1) 0 0, .snowdropResult 0 { hdr 1 with version := 256 } 0 0, .snowdropResult 0 (hdr 1) 256 0,
    .snowdropResult 0 (hdr 1) 0 4294967296, .coordTimeout 256 0, .coordTimeout 0 2, .feFirmwareFailure .stall [5],
    .sramError 2 0 0 0 false .directory, .sramError 0 2304 0 0 false .directory, .sramError 0 0 4294967296 0 false .directory,
    .sramError 0 0 0 4294967296 false .directory, .perfOverflow 2 0, .perfOverflow 0 256, .psampleRecord 3 0 0 0 0 0,
    .psampleRecord 0 128 0 0 0 0, .psampleRecord 0 0 4294967296 0 0 0, .psampleRecord 0 0 0 4294967296 0 0,
    .psampleRecord 0 0 0 0 4294967296 0, .psampleRecord 0 0 0 0 0 4294967296, .thermalAlarm 40 0, .thermalTrip 40 0,
    .temperatureLow 40 0, .alarmInputChange 4 false, .stackTemperatureReport 4 0, .stackTemperatureReport 0 4294967296,
    .rowRepairDone 128 0, .rowRepairDone 0 32, .timeSync 3 (hdr 1) 0 0 none, .heartbeat 3 (hdr 1) 0 0 0 0 0 0,
    .ack 3 (hdr 1) 0 0, .announce 3 (hdr 1) 0 0, .joinRequest 3 (hdr 1) 0 0 0 0 0 0, .joinAccept 3 (hdr 1) 0 0 0,
    .joinReject 3 (hdr 1) 0, .leave 3 (hdr 1) 0, .memberUpdate 3 (hdr 1) 0 0,
    .relayCommand 3 (hdr 1) 0 0 0 (⟨0, cmd 0 []⟩) [], .relayCompletion 3 (hdr 1) 0 0 0 0 0 0 0 0 [],
    .relayEvent 3 (hdr 1) 0 0 [], .prepare 3 (hdr 1) 0 0 0 0, .ready 3 (hdr 1) 0, .refuse 3 (hdr 1) 0 0,
    .commit 3 (hdr 1) 0 0 0, .abort 3 (hdr 1) 0, .modeQuery 3 (hdr 1) 0, .takeover 3 (hdr 1) 0 0,
    .snowdropOffer 3 (hdr 1) [] 0] : List Instr).all (fun i => !i.wf) = true := by decide +kernel

/-- One operand of several, just past its range. -/
theorem test_wf_refuses_5 : ([
    .snowdropChunk 3 (hdr 1) 0 0 [], .snowdropResult 3 (hdr 1) 0 0] : List Instr).all (fun i => !i.wf) = true := by decide

theorem test_wf_refuses_long_data (l : Bytes) (h : 1048576 < l.length) : (Instr.injectFrameRead 4 l).wf = false := by
  simp [Instr.wf]; omega

theorem witness_long_data : 1048576 < (List.replicate 1048577 (0 : Byte)).length :=
  (List.length_replicate (n := 1048577) (a := (0 : Byte))).symm ▸ (by decide)

/-! ### In which states each command completes -/

/-- Where no performance counter is set up, a pipeline that serves a packet leaves nothing but the next free value. -/
theorem servedBy_idle (s : State) (h : s.tel.perf = []) (u : Nat) (p : List Nat) (e : List (Nat × Nat)) :
    s.servedBy u p e = { s with tbl.freeIx := s.tbl.freeIx + 1 } := by
  have k : ∀ (l : List (Nat × Nat)) (t : State) (q : Nat), t.tel.perf = [] →
      l.foldl (fun (x : State) e => if e.2 == 0 then x else x.perfCount 0 u q e.1 e.2) t = t := by
    intro l
    induction l with
    | nil => intros; rfl
    | cons a r ih =>
      intro t q ht
      have : t.perfCount 0 u q a.1 a.2 = t := by simp [State.perfCount, ht]
      simp only [List.foldl_cons, this, ite_self]
      exact ih t q ht
  unfold State.servedBy
  split
  · exact k e _ _ h
  · rfl

/-- The CRC's register after the bytes of a list, each step of which is evaluated before the next one. -/
def crcEager : Bytes → BitVec 32 → BitVec 32
  | [], r => r
  | b :: bs, r => if (crc32Byte r b).toNat < 4294967296 then crcEager bs (crc32Byte r b) else r

/-- It is the register of the CRC. -/
theorem crcEager_eq (bs : Bytes) (r : BitVec 32) : bs.foldl crc32Byte r = crcEager bs r := by
  induction bs generalizing r with
  | nil => rfl
  | cons b bs ih => simp [crcEager, ih, (crc32Byte r b).isLt]

theorem frame64_fcs : fcsOf (pay 60 [(12, 8)]) = [0xA9, 0xE9, 0xEC, 0x32] := by
  rw [fcsOf, crc32, crcEager_eq]; decide +kernel

theorem frame64_eq : frame 64 = pay 60 [(12, 8)] ++ [0xA9, 0xE9, 0xEC, 0x32] := by rw [frame, frame64_fcs]

/-- A frame that ends with its FCS meets the checks of its length alone. -/
theorem fcs_good (b : Bytes) (t : Bytes) (ht : t.length = 4) (h : fcsOf b = t) (s : State) (p : Nat) :
    s.frameChecks p (b ++ t) none = if (s.prt p).cfg.maxFrame < b.length + 4 then some 3 else if b.length < 60 then some 2 else none := by
  have h2 : (b ++ t).take (b.length + 4 - 4) = b := by simp
  have h3 : slice (b ++ t) (b.length + 4 - 4) 4 = t := by simp [slice, ← ht]
  have h4 : ¬ b.length + 4 < 4 := by omega
  have h5 : (b.length + 4 < 64) = (b.length < 60) := by rw [eq_iff_iff]; omega
  simp only [State.frameChecks, List.length_append, ht, h2, h3, h]
  simp [h4, h5]

theorem frameChecks_frame64 (s : State) (p : Nat) :
    s.frameChecks p (frame 64) none = if (s.prt p).cfg.maxFrame < 64 then some 3 else none := by
  have h := fcs_good (pay 60 [(12, 8)]) [0xA9, 0xE9, 0xEC, 0x32] rfl frame64_fcs s p
  have hl : (pay 60 [(12, 8)]).length = 60 := by decide
  rw [frame64_eq, h, hl]
  simp only [Nat.reduceAdd, Nat.lt_irrefl, if_false]

/-- States and operands that meet the hypotheses of clauses of HostEventsComplete. -/
theorem witness_HostEventsComplete_1 : (
    (fun (_ : Nat) (_ : Nat) (_ : Nat) (_ : List Desc) (s : State) => decide (s.hif.linkUp)) 0 0 0 [] live &&
    (fun (vector : Nat) (s : State) =>
      if !(!decide (64 ≤ vector)) then false else
      decide ((s.vec vector).waiting != 0 && s.ended (s.vec vector).since (us (s.vec vector).timerUs))) 4 { live with hif.vecs := [(4, { waiting := 1 })] } &&
    (fun (channel : Nat) (s : State) =>
      if !(!decide (64 ≤ channel)) then false else
      if !(!decide (!s.aux.pllLocked)) then false else
      let x := s.chan channel
      match x.reading with
      | some h =>
        decide ((s.liveBuf h.handle).any (fun b => b.lost))
      | _ => false) 5 { live with pool.bufs := [(0, { state := 1, owners := [0x80005], lost := true })], hif.channels := [(5, { configured := true, enabled := true, reading := some { handle := 0, bytes := [] } })] } &&
    (fun (channel : Nat) (s : State) =>
      if !(!decide (64 ≤ channel)) then false else
      if !(!decide (!s.aux.pllLocked)) then false else
      let x := s.chan channel
      match x.reading with
      | some h =>
        if !(!decide ((s.liveBuf h.handle).any (fun b => b.lost))) then false else
        !decide (!s.mayMove x)
      | _ => false) 5 { live with hif.channels := [(5, { configured := true, enabled := true, reading := some { handle := 0, bytes := [] } })] } &&
    (fun (channel : Nat) (s : State) =>
      if !(!decide (64 ≤ channel)) then false else
      if !(!decide (!s.aux.pllLocked)) then false else
      decide ((s.chan channel).enabled && !(s.chan channel).inject && (s.chan channel).headSince.isNone)) 5 live &&
    (fun (channel : Nat) (s : State) =>
      if !(!decide (64 ≤ channel)) then false else
      if !(!decide (!s.aux.pllLocked)) then false else
      let x := s.chan channel
      match x.headSince, x.held with
      | some t, _ :: _ =>
        decide (s.ended t (us x.holdUs) && x.reading.isNone)
      | _, _ => false) 5 { live with hif.channels := [(5, { configured := true, enabled := true, headSince := some 0, held := [{ handle := 0, bytes := [] }] })] } &&
    (fun (channel : Nat) (s : State) =>
      if !(!decide (64 ≤ channel)) then false else
      if !(!decide (!s.aux.pllLocked)) then false else
      let x := s.chan channel
      match x.sopSince with
      | some t =>
        decide (x.inject && s.ended t (us x.holdUs))
      | _ => false) 4 { live with hif.channels := [(4, { configured := true, enabled := true, inject := true, sopSince := some 0 })] } &&
    (fun (channel : Option Nat) (_ : Nat) (err : PcieErr) (_ : State) =>
      match channel with
      | none =>
        decide (err == .writeFailed)
      | _ => false) none 0 .writeFailed live &&
    (fun (channel : Option Nat) (_ : Nat) (err : PcieErr) (_ : State) =>
      match channel with
      | none =>
        !decide (err == .writeFailed)
      | _ => false) none 0 .completionTimeout live &&
    (fun (channel : Option Nat) (_ : Nat) (_ : PcieErr) (_ : State) =>
      match channel with
      | some c =>
        !decide (64 ≤ c)
      | _ => false) (some 0) 0 .completionTimeout live &&
    (fun (_ : State) => true) live &&
    (fun (_ : State) => true) live) = true := by decide

/-- States and operands that meet the hypotheses of clauses of HostEventsComplete. -/
theorem witness_HostEventsComplete_2 : (
    (fun (_ : State) => true) live &&
    (fun (s : State) => !decide (s.mode.mode == mdStandby)) live &&
    (fun (channel : Nat) (data : Bytes) (s : State) =>
      if !(!decide (64 ≤ channel)) then false else
      let x := s.chan channel
      if !(!decide (!(x.enabled && x.inject && s.hif.linkUp && s.dataPlaneOn && s.mayMove x))) then false else
      match injectUnit [] x.posted with
      | some (unit, rest) =>
        let a := s.setChan channel { s.moves x data.length with posted := rest }
        match a.injectStream channel unit data with
        | none =>
          true
        | _ => false
      | _ => false) 4 [] { live with hif.channels := [(4, { configured := true, enabled := true, inject := true, posted := [{ idx := 0, desc := { addr := 0, bufLen := 0, sop := true, eop := true, handle := false } }] })] } &&
    (fun (channel : Nat) (data : Bytes) (s : State) =>
      if !(!decide (64 ≤ channel)) then false else
      let x := s.chan channel
      if !(!decide (!(x.enabled && x.inject && s.hif.linkUp && s.dataPlaneOn && s.mayMove x))) then false else
      match injectUnit [] x.posted with
      | some (unit, rest) =>
        let a := s.setChan channel { s.moves x data.length with posted := rest }
        match a.injectStream channel unit data with
        | some (_, h) =>
          decide (h.any (fun k => (a.liveBuf k).any (fun z => z.lost)))
        | _ => false
      | _ => false) 4 (pay 32 [(18, 18)]) { live with pool.bufs := [(0, { state := 1, owners := [0x80004], data := List.replicate 82 0, lost := true })], hif.channels := [(4, { configured := true, enabled := true, inject := true, posted := [{ idx := 0, desc := { addr := 0, bufLen := 32, sop := true, eop := false, handle := false } }, { idx := 1, desc := { addr := 0, bufLen := 0, sop := false, eop := true, handle := true } }] })] } &&
    (fun (channel : Nat) (data : Bytes) (s : State) =>
      if !(!decide (64 ≤ channel)) then false else
      let x := s.chan channel
      if !(!decide (!(x.enabled && x.inject && s.hif.linkUp && s.dataPlaneOn && s.mayMove x))) then false else
      match injectUnit [] x.posted with
      | some (unit, rest) =>
        let a := s.setChan channel { s.moves x data.length with posted := rest }
        match a.injectStream channel unit data with
        | some (b, h) =>
          if !(!decide (h.any (fun k => (a.liveBuf k).any (fun z => z.lost)))) then false else
          decide (!a.injectOk b)
        | _ => false
      | _ => false) 4 [] { live with hif.channels := [(4, { configured := true, enabled := true, inject := true, posted := [{ idx := 0, desc := { addr := 0, bufLen := 64, sop := true, eop := true, handle := false } }] })] } &&
    (fun (channel : Nat) (data : Bytes) (s : State) =>
      if !(!decide (64 ≤ channel)) then false else
      let x := s.chan channel
      if !(!decide (!(x.enabled && x.inject && s.hif.linkUp && s.dataPlaneOn && s.mayMove x))) then false else
      match injectUnit [] x.posted with
      | some (unit, rest) =>
        let a := s.setChan channel { s.moves x data.length with posted := rest }
        match a.injectStream channel unit data with
        | some (b, h) =>
          if !(!decide (h.any (fun k => (a.liveBuf k).any (fun z => z.lost)))) then false else
          if !(!decide (!a.injectOk b)) then false else
          match h with
          | some _ =>
            true
          | _ => false
        | _ => false
      | _ => false) 4 (pay 32 [(18, 18)]) { live with pool.bufs := [(0, { state := 1, owners := [0x80004], data := List.replicate 82 0 })], hif.channels := [(4, { configured := true, enabled := true, inject := true, posted := [{ idx := 0, desc := { addr := 0, bufLen := 32, sop := true, eop := false, handle := false } }, { idx := 1, desc := { addr := 0, bufLen := 0, sop := false, eop := true, handle := true } }] })] } &&
    (fun (channel : Nat) (data : Bytes) (s : State) =>
      if !(!decide (64 ≤ channel)) then false else
      let x := s.chan channel
      if !(!decide (!(x.enabled && x.inject && s.hif.linkUp && s.dataPlaneOn && s.mayMove x))) then false else
      match injectUnit [] x.posted with
      | some (unit, rest) =>
        let a := s.setChan channel { s.moves x data.length with posted := rest }
        match a.injectStream channel unit data with
        | some (b, h) =>
          if !(!decide (h.any (fun k => (a.liveBuf k).any (fun z => z.lost)))) then false else
          if !(!decide (!a.injectOk b)) then false else
          match h with
          | none =>
            match a.poolAlloc channel b with
            | (some _, _) =>
              true
            | _ => false
          | _ => false
        | _ => false
      | _ => false) 4 (pay 64 [(18, 32)]) { live with hif.channels := [(4, { configured := true, enabled := true, inject := true, posted := [{ idx := 0, desc := { addr := 0, bufLen := 64, sop := true, eop := true, handle := false } }] })] } &&
    (fun (channel : Nat) (data : Bytes) (s : State) =>
      if !(!decide (64 ≤ channel)) then false else
      let x := s.chan channel
      if !(!decide (!(x.enabled && x.inject && s.hif.linkUp && s.dataPlaneOn && s.mayMove x))) then false else
      match injectUnit [] x.posted with
      | some (unit, rest) =>
        let a := s.setChan channel { s.moves x data.length with posted := rest }
        match a.injectStream channel unit data with
        | some (b, h) =>
          if !(!decide (h.any (fun k => (a.liveBuf k).any (fun z => z.lost)))) then false else
          if !(!decide (!a.injectOk b)) then false else
          match h with
          | none =>
            match a.poolAlloc channel b with
            | (none, _) =>
              true
            | _ => false
          | _ => false
        | _ => false
      | _ => false) 4 (pay 64 [(18, 32)]) { live with pool.chans := [(4, { maxs := [0, 0, 0, 0, 0] })], hif.channels := [(4, { configured := true, enabled := true, inject := true, posted := [{ idx := 0, desc := { addr := 0, bufLen := 64, sop := true, eop := true, handle := false } }] })] }) = true := by decide +kernel

/-- States and operands that meet the hypotheses of clauses of PortsComplete. -/
theorem witness_PortsComplete_1 : (
    (fun (c : Cmd) (s : State) =>
      if !(accepted portGroupSetModeSpec c s) then false else
      let g := byteAt c.payload 0
      let m := byteAt c.payload 1
      if !(!decide (5 < g || 6 < m)) then false else
      !decide ((m == 1 || m == 2) && s.suiteBars g m)) (cmd 2 []) { live with mode.mode := mdConfigure } &&
    (fun (c : Cmd) (s : State) =>
      if !(accepted portConfigSpec c s) then false else
      let b := c.payload
      let p := byteAt b 0
      let fl := byteAt b 1
      let lpi := bit fl 4
      if !(!decide (95 < p)) then false else
      if !(!decide (!s.portExists p)) then false else
      !decide (field fl 3 2 == 3 || !inRange (le b 2 2) 1518 9728 || 1000 < le b 4 2 || 1000 < le b 6 2 || le b 12 2 == 0 || (lpi && (!mode100G (s.grp (p / 16)).mode || le b 8 2 < 4 || le b 10 2 < 4)))) (cmd 80 [(3, 8), (12, 1)]) live &&
    (fun (c : Cmd) (s : State) =>
      if !(accepted portAdminSpec c s) then false else
      let p := byteAt c.payload 0
      !decide (!s.portExists p)) (cmd 2 []) live &&
    (fun (c : Cmd) (s : State) =>
      if !(accepted portStatusGetSpec c s) then false else
      !decide (!s.portExists (byteAt c.payload 0))) (cmd 1 []) live &&
    (fun (c : Cmd) (s : State) =>
      if !(accepted portCountersGetSpec c s) then false else
      !decide (!s.portExists (byteAt c.payload 0))) (cmd 1 []) live &&
    (fun (c : Cmd) (s : State) =>
      if !(accepted portRateRestoreSpec c s) then false else
      let g := byteAt c.payload 0
      let x := s.grp g
      if !(!decide (5 < g || x.mode == 0)) then false else
      decide (x.running == x.mode)) (cmd 2 []) live &&
    (fun (c : Cmd) (s : State) =>
      if !(accepted portRateRestoreSpec c s) then false else
      let g := byteAt c.payload 0
      let x := s.grp g
      if !(!decide (5 < g || x.mode == 0)) then false else
      !decide (x.running == x.mode)) (cmd 2 []) { live with port.groups := [(0, { mode := 1, running := 2 })] } &&
    (fun (port : Nat) (s : State) =>
      if !(!decide (96 ≤ port)) then false else
      decide (s.portExists port && s.portsMayTrain && s.allTrained port)) 0 live &&
    (fun (port : Nat) (s : State) =>
      if !(!decide (96 ≤ port)) then false else
      let x := s.prt port
      match x.upSince with
      | some t =>
        decide (s.ended t (ms x.cfg.upHold) && s.portExists port && s.portsMayTrain && x.conditions && x.adminUp && !x.localFault && !x.remoteFault && !x.up && s.hasEngine port)
      | _ => false) 0 { live with port.ports := [(0, { conditions := true, upSince := some 0 })] } &&
    (fun (port : Nat) (_ : Bool) (_ : List Nat) (s : State) =>
      if !(!decide (96 ≤ port)) then false else
      decide (s.portExists port)) 0 false [] live &&
    (fun (port : Nat) (s : State) =>
      if !(!decide (96 ≤ port)) then false else
      let x := s.prt port
      match x.downSince with
      | some (t, _) =>
        decide (s.ended t (ms x.cfg.downHold) && x.up && (!x.conditions || x.remoteFault || x.localFault))
      | _ => false) 0 { live with port.ports := [(0, { up := true, downSince := some (0, 1) })] } &&
    (fun (port : Nat) (s : State) =>
      if !(!decide (96 ≤ port)) then false else
      decide (s.portExists port)) 0 live) = true := by decide

/-- States and operands that meet the hypotheses of clauses of PortsComplete. -/
theorem witness_PortsComplete_2 : (
    (fun (report : PortFec) (s : State) =>
      if !(!decide (96 ≤ report.port)) then false else
      let port := report.port
      if !(decide (s.portExists port && s.portsMayTrain)) then false else
      let a := s.fecReport port report.fec
      decide ((a.prt port).fecTimes.length ≤ 10)) ⟨0, {}⟩ live &&
    (fun (report : PortFec) (s : State) =>
      if !(!decide (96 ≤ report.port)) then false else
      let port := report.port
      if !(decide (s.portExists port && s.portsMayTrain)) then false else
      let a := s.fecReport port report.fec
      !decide ((a.prt port).fecTimes.length ≤ 10)) { port := 0, fec := { uncorrectable := 11 } } live &&
    (fun (lane : Nat) (trained : Bool) (s : State) =>
      if !(!decide (96 ≤ lane)) then false else
      match s.laneOwner lane with
      | some p =>
        let late := s.ended ((s.prt p).trainAt.getD lane 0) (ms 500)
        decide ((s.prt p).training.contains lane && (trained || late))
      | _ => false) 0 true { live with port.ports := [(0, { training := [0] })] } &&
    (fun (port : Nat) (s : State) =>
      if !(!decide (96 ≤ port)) then false else
      let x := s.prt port
      match x.retryAt with
      | some t =>
        decide (s.ended t (secs 10) && s.portExists port && s.portsMayTrain && x.adminUp && !x.up)
      | _ => false) 0 { live with port.ports := [(0, { retryAt := some 0 })] } &&
    (fun (group : Nat) (_ : List (Nat × Nat × Nat)) (s : State) =>
      if !(!decide (6 ≤ group)) then false else
      decide (s.ended (s.grp group).winStart (ms 100))) 0 [] live &&
    (fun (group : Nat) (s : State) =>
      if !(!decide (6 ≤ group)) then false else
      let x := s.grp group
      match x.fbSince with
      | some t =>
        decide (s.ended t (secs 2) && x.running != x.mode && s.mayFallBack group)
      | _ => false) 0 { live with mode.mode := mdMaintenance, port.groups := [(0, { mode := 1, running := 2, fbSince := some 0 })], port.ports := (List.range 16).map (fun p => (p, { cfg := { fbEn := true } })) } &&
    (fun (port : Nat) (s : State) =>
      if !(!decide (96 ≤ port)) then false else
      let x := s.prt port
      decide (s.portExists port && x.up && x.cfg.lpiEn && mode100G (s.grp (port / 16)).mode && !x.lpi && x.txBuf.isEmpty && x.sending.isNone && (s.mode.mode == mdForwarding || s.mode.mode == mdParked) && s.ended x.txEmpty (us x.cfg.lpiIdle))) 16 { live with port.ports := [(16, { up := true, cfg := { lpiEn := true } })] } &&
    (fun (port : Nat) (s : State) =>
      if !(!decide (96 ≤ port)) then false else
      decide (s.portExists port)) 0 live &&
    (fun (port : Nat) (s : State) =>
      if !(!decide (96 ≤ port)) then false else
      if !(!decide (!s.aux.pllLocked)) then false else
      let x := s.prt port
      decide (x.sending.isSome)) 0 { live with port.ports := [(0, { up := true, sending := some 0 })] }) = true := by decide

/-- States and operands that meet the hypotheses of clauses of ModulesComplete. -/
theorem witness_ModulesComplete_1 : (
    (fun (c : Cmd) (s : State) =>
      if !(accepted moduleReadSpec c s) then false else
      let b := c.payload
      let m := byteAt b 0
      if !(!decide (s.accessStatus b != 0)) then false else
      if !(!decide (!s.busUp m || (s.mod_ m).unresponsive)) then false else
      decide ((s.mod_ m).retries != 0)) (cmd 5 [(4, 1)]) { live with port.mods := [(0, { present := true, retries := 1 })] } &&
    (fun (c : Cmd) (s : State) =>
      if !(accepted moduleReadSpec c s) then false else
      let b := c.payload
      let m := byteAt b 0
      if !(!decide (s.accessStatus b != 0)) then false else
      if !(!decide (!s.busUp m || (s.mod_ m).unresponsive)) then false else
      !decide ((s.mod_ m).retries != 0)) (cmd 5 [(4, 1)]) live &&
    (fun (c : Cmd) (s : State) =>
      if !(accepted moduleWriteSpec c s) then false else
      let b := c.payload
      let m := byteAt b 0
      if !(!decide (s.accessStatus b != 0)) then false else
      if !(!decide (identityWrite b || (dataPathWrite b && s.modulePortsUp m))) then false else
      if !(!decide (!s.busUp m || (s.mod_ m).unresponsive)) then false else
      decide ((s.mod_ m).retries != 0)) (cmd 6 [(4, 1)]) { live with port.mods := [(0, { present := true, retries := 1 })] } &&
    (fun (c : Cmd) (s : State) =>
      if !(accepted moduleWriteSpec c s) then false else
      let b := c.payload
      let m := byteAt b 0
      if !(!decide (s.accessStatus b != 0)) then false else
      if !(!decide (identityWrite b || (dataPathWrite b && s.modulePortsUp m))) then false else
      if !(!decide (!s.busUp m || (s.mod_ m).unresponsive)) then false else
      !decide ((s.mod_ m).retries != 0)) (cmd 6 [(4, 1)]) live &&
    (fun (c : Cmd) (s : State) =>
      if !(accepted moduleIntUnmaskSpec c s) then false else
      let m := byteAt c.payload 0
      !decide (47 < m)) (cmd 2 []) live &&
    (fun (c : Cmd) (s : State) =>
      if !(accepted ledgerReadSpec c s) then false else
      let f := le c.payload 0 2
      let n := le c.payload 2 2
      !decide (!inRange n 1 64 || 16320 < f + n)) (cmd 4 [(2, 1)]) live &&
    (fun (c : Cmd) (s : State) =>
      if !(accepted ledgerSetRatingSpec c s) then false else
      let v := slice c.payload 0 16
      let n := slice c.payload 16 16
      !decide ((ledgerFind s.port.ledger v n).isNone)) (cmd 36 []) { live with port.ledger := [{ vendor := pay 16 [], serial := pay 16 [] }] } &&
    (fun (c : Cmd) (s : State) =>
      if !(accepted moduleMapSetSpec c s) then false else
      let m := byteAt c.payload 0
      let f := byteAt c.payload 1
      let n := byteAt c.payload 2
      if !(!decide (47 < m || !inRange n 1 8 || 96 < f + n)) then false else
      !decide ((List.range n).any (fun i => (s.lanesTaken m).contains (f + i)))) (cmd 3 [(2, 1)]) live &&
    (fun (module : Nat) (_ : Bytes) (s : State) =>
      if !(!decide (48 ≤ module)) then false else
      let x := s.mod_ module
      if !(!decide (x.present || x.presMasked || !s.fwRuns)) then false else
      decide (s.busUp module)) 1 [] live &&
    (fun (module : Nat) (_ : Bytes) (s : State) =>
      if !(!decide (48 ≤ module)) then false else
      let x := s.mod_ module
      if !(!decide (x.present || x.presMasked || !s.fwRuns)) then false else
      !decide (s.busUp module)) 0 (pay 128 []) { live with port.mods := [], port.busFailed := [0] } &&
    (fun (module : Nat) (s : State) =>
      if !(!decide (48 ≤ module)) then false else
      let x := s.mod_ module
      !decide (!x.present || x.presMasked || !s.fwRuns)) 0 live &&
    (fun (module : Nat) (_ : List CmisFlag) (s : State) =>
      if !(!decide (48 ≤ module)) then false else
      if !(!decide (!s.aux.pllLocked)) then false else
      let x := s.mod_ module
      !decide (x.intMasked)) 0 [] live) = true := by decide

/-- States and operands that meet the hypotheses of clauses of ModulesComplete. -/
theorem witness_ModulesComplete_2 : (
    (fun (module : Nat) (_ : Int) (_ : Nat) (_ : Nat) (_ : List CmisFlag) (s : State) =>
      if !(!decide (48 ≤ module)) then false else
      decide ((s.mod_ module).present && s.fwRuns && s.busUp module && s.ended (s.mod_ module).monitorAt (secs 1))) 0 0 0 0 [] live &&
    (fun (s : State) => decide (s.fwRuns && s.ended s.port.accumAt (secs 1))) live &&
    (fun (s : State) => decide (s.fwRuns && s.ended s.port.ledgerAt (secs 3600))) live &&
    (fun (module : Nat) (s : State) =>
      if !(!decide (48 ≤ module)) then false else
      if !(!decide (!s.aux.pllLocked)) then false else
      match (s.mod_ module).intClearedAt with
      | some t =>
        decide (s.ended t (secs 1))
      | _ => false) 0 { live with port.mods := [(0, { present := true, intClearedAt := some 0 })] } &&
    (fun (input : PresenceChanges) (s : State) =>
      if !(!decide (48 ≤ input.module)) then false else
      let module := input.module
      let x := s.mod_ module
      !decide (x.presMasked || !s.aux.pllLocked)) ⟨0, 11⟩ live &&
    (fun (module : Nat) (_ : List CmisFlag) (s : State) =>
      if !(!decide (48 ≤ module)) then false else
      decide ((s.mod_ module).present && (s.mod_ module).intMasked && s.fwRuns && s.busUp module && s.ended (s.mod_ module).polledAt (ms 100))) 0 [] { live with port.mods := [(0, { present := true, intMasked := true })] } &&
    (fun (module : Nat) (s : State) =>
      if !(!decide (48 ≤ module)) then false else
      let x := s.mod_ module
      if !(!decide (!x.present || x.unresponsive || !s.fwRuns)) then false else
      decide (x.retries < 3)) 0 live &&
    (fun (module : Nat) (s : State) =>
      if !(!decide (48 ≤ module)) then false else
      let x := s.mod_ module
      if !(!decide (!x.present || x.unresponsive || !s.fwRuns)) then false else
      !decide (x.retries < 3)) 0 { live with port.mods := [(0, { present := true, retries := 3 })] } &&
    (fun (bus : Nat) (recovered : Bool) (s : State) =>
      if !(!decide (6 ≤ bus)) then false else
      if !(!decide (!s.aux.pllLocked)) then false else
      !decide (recovered || s.port.busFailed.contains bus)) 0 false live) = true := by decide

/-- States and operands that meet the hypotheses of clauses of LinkSecurityComplete. -/
theorem witness_LinkSecurityComplete : (
    (fun (c : Cmd) (s : State) =>
      if !(accepted secyConfigSpec c s) then false else
      let b := c.payload
      let p := byteAt b 0
      let su := byteAt b 1
      let fl := byteAt b 2
      let gm := (s.grp (p / 16)).mode
      if !(!decide (!s.portExists p)) then false else
      !decide (!inRange su 1 4 || field fl 2 1 == 3 || !([0, 30, 50].contains (byteAt b 3)) || !inRange (le b 4 2) 1 100 || (su ≤ 2 && (gm == 1 || gm == 2)))) (cmd 24 [(1, 1), (4, 1)]) live &&
    (fun (c : Cmd) (s : State) =>
      if !(accepted scSetSpec c s) then false else
      let b := c.payload
      let p := byteAt b 0
      let k := byteAt b 1
      let sci := le b 2 8
      let w := le b 10 4
      let y := s.secy p
      if !(!decide (!s.portExists p)) then false else
      if !(!decide (!inRange k 1 3 || (suiteXpn y.suite && 1073741824 < w))) then false else
      !decide (y.rx.any (fun e => e.1 != k && e.2.sci == sci))) (cmd 14 [(1, 1)]) live &&
    (fun (c : Cmd) (s : State) =>
      if !(accepted scClearSpec c s) then false else
      let p := byteAt c.payload 0
      let k := byteAt c.payload 1
      let y := s.secy p
      !decide (!s.portExists p || (Tbl.get? y.rx k).isNone)) (cmd 2 [(1, 1)]) { live with sec.secys := [(0, { rx := [(1, { sci := 1, window := 0 })], sas := [(0, {}), (2, {})] })] } &&
    (fun (c : Cmd) (s : State) =>
      if !(accepted saInstallSpec c s) then false else
      let b := c.payload
      let p := byteAt b 0
      let k := byteAt b 1
      let n := byteAt b 2
      let y := s.secy p
      let reservedSet := (suiteKey y.suite == 16 && !rsv b 32 16) || (!suiteXpn y.suite && !rsv b 48 16)
      if !(!decide (s.portExists p && reservedSet)) then false else
      if !(!decide (!s.portExists p)) then false else
      if !(!decide (3 < k || 1 < n || 3 < byteAt b 3 || le b 8 8 == 0 || suiteMaxPn y.suite < le b 8 8)) then false else
      if !(!decide (k != 0 && (Tbl.get? y.rx k).isNone)) then false else
      !decide ((y.sa k n).isSome || ((y.sa k (1 - n)).map (fun a => a.an == byteAt b 3)).getD false)) (cmd 64 [(8, 1)]) live &&
    (fun (c : Cmd) (s : State) =>
      if !(accepted saEnableRxSpec c s) then false else
      let b := c.payload
      let p := byteAt b 0
      let k := byteAt b 1
      let n := byteAt b 2
      let y := s.secy p
      if !(!decide (!s.portExists p || !inRange k 1 3 || 1 < n)) then false else
      match y.sa k n with
      | some _ =>
        !decide (1 < byteAt b 3)
      | _ => false) (cmd 4 [(1, 1)]) { live with sec.secys := [(0, { rx := [(1, { sci := 1, window := 0 })], sas := [(0, {}), (2, {})] })] } &&
    (fun (c : Cmd) (s : State) =>
      if !(accepted saTxSwitchSpec c s) then false else
      let p := byteAt c.payload 0
      let n := byteAt c.payload 1
      let t := BitVec.ofNat 32 (le c.payload 4 4)
      let y := s.secy p
      if !(!decide (!s.portExists p || 1 < n || (y.sa 0 n).isNone)) then false else
      decide (t == 0)) (cmd 8 []) { live with sec.secys := [(0, { rx := [(1, { sci := 1, window := 0 })], sas := [(0, {}), (2, {})] })] } &&
    (fun (c : Cmd) (s : State) =>
      if !(accepted saTxSwitchSpec c s) then false else
      let p := byteAt c.payload 0
      let n := byteAt c.payload 1
      let t := BitVec.ofNat 32 (le c.payload 4 4)
      let y := s.secy p
      if !(!decide (!s.portExists p || 1 < n || (y.sa 0 n).isNone)) then false else
      if !(!decide (t == 0)) then false else
      !decide (!T32.validCommit s.t32 t)) (cmdB (zeros 4 ++ toLe 4 1010000000)) { live with sec.secys := [(0, { rx := [(1, { sci := 1, window := 0 })], sas := [(0, {}), (2, {})] })] } &&
    (fun (c : Cmd) (s : State) =>
      if !(accepted saDeleteSpec c s) then false else
      let p := byteAt c.payload 0
      let k := byteAt c.payload 1
      let n := byteAt c.payload 2
      let y := s.secy p
      if !(!decide (!s.portExists p || 3 < k || 1 < n || (y.sa k n).isNone)) then false else
      !decide (k == 0 && y.txInUse == some n)) (cmd 3 []) { live with sec.secys := [(0, { rx := [(1, { sci := 1, window := 0 })], sas := [(0, {}), (2, {})] })] } &&
    (fun (c : Cmd) (s : State) =>
      if !(accepted saStatusGetSpec c s) then false else
      let p := byteAt c.payload 0
      let k := byteAt c.payload 1
      let y := s.secy p
      !decide (!s.portExists p || 3 < k || (k != 0 && (Tbl.get? y.rx k).isNone))) (cmd 2 []) live &&
    (fun (c : Cmd) (s : State) =>
      if !(accepted secyCountersGetSpec c s) then false else
      let p := byteAt c.payload 0
      !decide (!s.portExists p)) (cmd 1 []) live &&
    (fun (port : Nat) (s : State) =>
      if !(!decide (96 ≤ port)) then false else
      if !(!decide (!s.aux.pllLocked)) then false else
      let y := s.secy port
      match y.switch with
      | some (_, t) =>
        decide (s.t32.reached t)
      | _ => false) 0 { live with sec.secys := [(0, { sas := [(0, {})], switch := some (0, 0) })] }) = true := by decide

/-- States and operands that meet the hypotheses of clauses of ParserCommandsComplete. -/
theorem witness_ParserCommandsComplete_1 : (
    (fun (c : Cmd) (s : State) =>
      if !(accepted parsePolicySetSpec c s) then false else
      let b := c.payload
      let p := byteAt b 0
      let fl := byteAt b 1
      if !(!decide (!s.portExists p)) then false else
      !decide (field fl 2 1 == 3 || le b 2 2 == 0 || 15 < byteAt b 4)) (cmd 8 [(2, 1)]) live &&
    (fun (c : Cmd) (s : State) =>
      if !(accepted parsePolicyGetSpec c s) then false else
      let p := byteAt c.payload 0
      !decide (!s.portExists p)) (cmd 1 []) live &&
    (fun (c : Cmd) (s : State) =>
      if !(accepted hashProfileSetSpec c s) then false else
      let b := c.payload
      let f := byteAt b 1
      !decide (15 < byteAt b 0 || f % 4 == 3 || f / 4 == 3)) (cmd 12 []) live &&
    (fun (c : Cmd) (s : State) =>
      if !(accepted parseCountersGetSpec c s) then false else
      let p := byteAt c.payload 0
      !decide (!s.portExists p)) (cmd 1 []) live &&
    (fun (c : Cmd) (s : State) =>
      if !(accepted parseTestSpec c s) then false else
      let p := byteAt c.payload 0
      let n := le c.payload 2 2
      if !(!decide (!s.portExists p)) then false else
      !decide (!inRange n 14 192)) (cmd 18 [(2, 14)]) live &&
    (fun (c : Cmd) (s : State) =>
      if !(accepted slowpathClassSetSpec c s) then false else
      let b := c.payload
      let k := byteAt b 0
      let ch := byteAt b 1
      let rate := le b 4 4
      let burst := le b 8 2
      if !(!decide (!inRange k 1 0x3F || k == 0x0E || 10000000 < rate || (rate != 0 && burst == 0))) then false else
      !decide (ch != 0 && !((s.chan ch).configured && !(s.chan ch).inject))) (cmd 12 [(0, 1)]) live &&
    (fun (c : Cmd) (s : State) =>
      if !(accepted lbMemberAddSpec c s) then false else
      let b := c.payload
      let g := le b 2 2
      let v := le b 4 4
      if !(decide (byteAt b 0 == 0)) then false else
      match s.tbl.ecmps.get? g with
      | some x =>
        if !(!decide (s.retiring 1 g)) then false else
        if !(!decide (!(v < 1048576 && s.nexthopSet? v))) then false else
        if !(!decide ((memberPos x.members v).isSome)) then false else
        if !(!decide (128 ≤ x.members.length)) then false else
        decide (x.members.length < x.capacity)
      | _ => false) (cmd 8 [(4, 2)]) { live with tbl.nexthops := [(1, { type := 1 }), (2, { type := 1 })], tbl.ecmps := [(0, { members := [(0, 1)], slots := List.replicate 256 0, capacity := 8, base := 0, countEn := false })] } &&
    (fun (c : Cmd) (s : State) =>
      if !(accepted lbMemberAddSpec c s) then false else
      let b := c.payload
      let g := le b 2 2
      let v := le b 4 4
      if !(decide (byteAt b 0 == 0)) then false else
      match s.tbl.ecmps.get? g with
      | some x =>
        if !(!decide (s.retiring 1 g)) then false else
        if !(!decide (!(v < 1048576 && s.nexthopSet? v))) then false else
        if !(!decide ((memberPos x.members v).isSome)) then false else
        if !(!decide (128 ≤ x.members.length)) then false else
        if !(!decide (x.members.length < x.capacity)) then false else
        match s.freeRun (x.capacity + 8) with
        | some _ =>
          true
        | _ => false
      | _ => false) (cmd 8 [(4, 2)]) { live with tbl.nexthops := [(1, { type := 1 }), (2, { type := 1 })], tbl.ecmps := [(0, { members := (List.range 8).map (fun i => (i, i + 3)), slots := List.replicate 256 0, capacity := 8, base := 0, countEn := false })] } &&
    (fun (c : Cmd) (s : State) =>
      if !(accepted lbMemberAddSpec c s) then false else
      let b := c.payload
      let g := le b 2 2
      let v := le b 4 4
      if !(!decide (byteAt b 0 == 0)) then false else
      if !(decide (byteAt b 0 == 1)) then false else
      let x := s.parse.lags.getD g {}
      if !(!decide (128 ≤ g)) then false else
      if !(!decide (32768 ≤ v)) then false else
      if !(!decide ((memberPos x.members v).isSome)) then false else
      !decide (64 ≤ x.members.length)) (cmd 8 [(0, 1)]) live &&
    (fun (c : Cmd) (s : State) =>
      if !(accepted lbMemberRemoveSpec c s) then false else
      let b := c.payload
      let g := le b 2 2
      let v := le b 4 4
      if !(decide (byteAt b 0 == 0)) then false else
      match s.tbl.ecmps.get? g with
      | some x =>
        match memberPos x.members v with
        | some _ =>
          if !(!decide (s.retiring 1 g)) then false else
          !decide (x.members.length == 1)
        | _ => false
      | _ => false) (cmd 8 [(4, 1)]) { live with tbl.nexthops := [(1, { type := 1 }), (2, { type := 1 })], tbl.ecmps := [(0, { members := [(0, 1), (1, 2)], slots := List.replicate 256 0, capacity := 8, base := 0, countEn := false })] } &&
    (fun (c : Cmd) (s : State) =>
      if !(accepted lbMemberRemoveSpec c s) then false else
      let b := c.payload
      let g := le b 2 2
      let v := le b 4 4
      if !(!decide (byteAt b 0 == 0)) then false else
      if !(decide (byteAt b 0 == 1)) then false else
      let x := s.parse.lags.getD g {}
      if !(!decide (128 ≤ g)) then false else
      match memberPos x.members v with
      | some _ =>
        !decide (x.members.length == 1)
      | _ => false) (cmd 8 [(0, 1), (4, 5)]) { live with parse.lags := [(0, { members := [(0, 5), (1, 6)], slots := List.replicate 256 0 })] } &&
    (fun (c : Cmd) (s : State) =>
      if !(accepted lbSlotsSetSpec c s) then false else
      let b := c.payload
      let g := le b 2 2
      let l := (List.range 256).map (fun i => byteAt b (4 + i))
      if !(decide (byteAt b 0 == 0)) then false else
      match s.tbl.ecmps.get? g with
      | some x =>
        if !(!decide (s.retiring 1 g)) then false else
        !decide (l.any (fun m => (x.members.get? m).isNone))
      | _ => false) (cmd 260 []) { live with tbl.nexthops := [(1, { type := 1 }), (2, { type := 1 })], tbl.ecmps := [(0, { members := [(0, 1)], slots := List.replicate 256 0, capacity := 8, base := 0, countEn := false })] }) = true := by decide +kernel

/-- States and operands that meet the hypotheses of clauses of ParserCommandsComplete. -/
theorem witness_ParserCommandsComplete_2 : (
    (fun (c : Cmd) (s : State) =>
      if !(accepted lbSlotsSetSpec c s) then false else
      let b := c.payload
      let g := le b 2 2
      let l := (List.range 256).map (fun i => byteAt b (4 + i))
      if !(!decide (byteAt b 0 == 0)) then false else
      if !(decide (byteAt b 0 == 1)) then false else
      let x := s.parse.lags.getD g {}
      if !(!decide (128 ≤ g)) then false else
      !decide (l.any (fun m => (x.members.get? m).isNone))) (cmd 260 [(0, 1)]) { live with parse.lags := [(0, { members := [(0, 5), (1, 6)], slots := List.replicate 256 0 })] } &&
    (fun (c : Cmd) (s : State) =>
      if !(accepted lbSlotsGetSpec c s) then false else
      let g := le c.payload 2 2
      if !(decide (byteAt c.payload 0 == 0)) then false else
      match s.tbl.ecmps.get? g with
      | some _ =>
        true
      | _ => false) (cmd 4 []) { live with tbl.nexthops := [(1, { type := 1 }), (2, { type := 1 })], tbl.ecmps := [(0, { members := [(0, 1)], slots := List.replicate 256 0, capacity := 8, base := 0, countEn := false })] } &&
    (fun (c : Cmd) (s : State) =>
      if !(accepted lbSlotsGetSpec c s) then false else
      let g := le c.payload 2 2
      if !(!decide (byteAt c.payload 0 == 0)) then false else
      if !(decide (byteAt c.payload 0 == 1)) then false else
      !decide (128 ≤ g)) (cmd 4 [(0, 1)]) live) = true := by decide +kernel

/-- States and operands that meet the hypotheses of clauses of FrameReceptionCompletes. -/
theorem witness_FrameReceptionCompletes_1 : (
    (fun (port : Nat) (f : RxInput) (s : State) =>
      if !(!decide (96 ≤ port)) then false else
      let x := s.prt port
      if !(!decide (!(s.portExists port && x.up && s.dataPlaneOn))) then false else
      let g := s.fecReport port f.fec
      let b := f.bytes
      let body := b.take (b.length - 4)
      let early := f.headFirst && x.rxBuf.isEmpty && 192 < b.length && (f.errAt.map (fun k => decide (192 ≤ k))).getD true &&
        (g.headChecks port body).isNone
      let tailCode := g.frameChecks port b f.errAt
      match tailCode, early with
      | some _, false =>
        true
      | _, _ => false) 0 { bytes := pay 64 [(12, 8)], errAt := some 300, headFirst := false } { live with port.ports := [(0, { up := true, conditions := true, cfg := { promisc := true } })] }) = true := by decide

/-- States and operands that meet the hypotheses of clauses of FrameReceptionCompletes. -/
theorem witness_FrameReceptionCompletes_2 : (
    (fun (port : Nat) (f : RxInput) (s : State) =>
      if !(!decide (96 ≤ port)) then false else
      let x := s.prt port
      if !(!decide (!(s.portExists port && x.up && s.dataPlaneOn))) then false else
      let g := s.fecReport port f.fec
      let b := f.bytes
      let body := b.take (b.length - 4)
      let early := f.headFirst && x.rxBuf.isEmpty && 192 < b.length && (f.errAt.map (fun k => decide (192 ≤ k))).getD true &&
        (g.headChecks port body).isNone
      let tailCode := g.frameChecks port b f.errAt
      match tailCode, early with
      | some _, true =>
        let v := g.secReceive port body true
        match v.drop with
        | some _ =>
          true
        | _ => false
      | _, _ => false) 0 { bytes := frame 193, errAt := some 192, headFirst := true } { live with port.ports := [(0, { up := true, conditions := true, cfg := { promisc := true } })], sec.secys := [(0, { enabled := true, validation := 2 })] }) = true := by decide +kernel

/-- States and operands that meet the hypotheses of clauses of FrameReceptionCompletes. -/
theorem witness_FrameReceptionCompletes_3 : (
    (fun (port : Nat) (f : RxInput) (s : State) =>
      if !(!decide (96 ≤ port)) then false else
      let x := s.prt port
      if !(!decide (!(s.portExists port && x.up && s.dataPlaneOn))) then false else
      let g := s.fecReport port f.fec
      let b := f.bytes
      let body := b.take (b.length - 4)
      let early := f.headFirst && x.rxBuf.isEmpty && 192 < b.length && (f.errAt.map (fun k => decide (192 ≤ k))).getD true &&
        (g.headChecks port body).isNone
      let tailCode := g.frameChecks port b f.errAt
      match tailCode, early with
      | some _, true =>
        let v := g.secReceive port body true
        match v.drop with
        | none =>
          true
        | _ => false
      | _, _ => false) 0 { bytes := frame 193, errAt := some 192, headFirst := true } { live with port.ports := [(0, { up := true, conditions := true, cfg := { promisc := true } })] }) = true := by decide +kernel

/-- States and operands that meet the hypotheses of clauses of FrameReceptionCompletes. -/
theorem witness_FrameReceptionCompletes_4 : (
    (fun (port : Nat) (f : RxInput) (s : State) (tailCode : Option Nat) =>
      if !(!decide (96 ≤ port)) then false else
      let x := s.prt port
      if !(!decide (!(s.portExists port && x.up && s.dataPlaneOn))) then false else
      let g := s.fecReport port f.fec
      let b := f.bytes
      let body := b.take (b.length - 4)
      let early := f.headFirst && x.rxBuf.isEmpty && 192 < b.length && (f.errAt.map (fun k => decide (192 ≤ k))).getD true &&
        (g.headChecks port body).isNone
      match tailCode, early with
      | none, _ =>
        match g.headChecks port body with
        | some _ =>
          true
        | _ => false
      | _, _ => false) 0 { bytes := frame 64, errAt := none, headFirst := false } live none) = true ∧
    (live : State).frameChecks 0 (frame 64) none = none := by
  refine ⟨by decide +kernel, ?_⟩; rw [frameChecks_frame64]; decide

/-- States and operands that meet the hypotheses of clauses of FrameReceptionCompletes. -/
theorem witness_FrameReceptionCompletes_5 : (
    (fun (port : Nat) (f : RxInput) (s : State) (tailCode : Option Nat) =>
      if !(!decide (96 ≤ port)) then false else
      let x := s.prt port
      if !(!decide (!(s.portExists port && x.up && s.dataPlaneOn))) then false else
      let g := s.fecReport port f.fec
      let b := f.bytes
      let body := b.take (b.length - 4)
      let cap := 16384 * modeLanes (s.grp (port / 16)).running
      let early := f.headFirst && x.rxBuf.isEmpty && 192 < b.length && (f.errAt.map (fun k => decide (192 ≤ k))).getD true &&
        (g.headChecks port body).isNone
      match tailCode, early with
      | none, _ =>
        match g.headChecks port body with
        | none =>
          decide (!early && cap < x.rxHeld + b.length)
        | _ => false
      | _, _ => false) 0 { bytes := frame 64, errAt := none, headFirst := false } { live with port.ports := [(0, { up := true, conditions := true, cfg := { promisc := true }, rxBuf := [{ frame := [], rxT32 := 0, wire := 131009 }] })] } none) = true ∧
    ({ live with port.ports := [(0, { up := true, conditions := true, cfg := { promisc := true }, rxBuf := [{ frame := [], rxT32 := 0, wire := 131009 }] })] } : State).frameChecks 0 (frame 64) none = none := by
  refine ⟨by decide +kernel, ?_⟩; rw [frameChecks_frame64]; decide

/-- States and operands that meet the hypotheses of clauses of FrameReceptionCompletes. -/
theorem witness_FrameReceptionCompletes_6 : (
    (fun (port : Nat) (f : RxInput) (s : State) (tailCode : Option Nat) =>
      if !(!decide (96 ≤ port)) then false else
      let x := s.prt port
      if !(!decide (!(s.portExists port && x.up && s.dataPlaneOn))) then false else
      let g := s.fecReport port f.fec
      let b := f.bytes
      let body := b.take (b.length - 4)
      let cap := 16384 * modeLanes (s.grp (port / 16)).running
      let early := f.headFirst && x.rxBuf.isEmpty && 192 < b.length && (f.errAt.map (fun k => decide (192 ≤ k))).getD true &&
        (g.headChecks port body).isNone
      match tailCode, early with
      | none, _ =>
        match g.headChecks port body with
        | none =>
          if !(!decide (!early && cap < x.rxHeld + b.length)) then false else
          let a := ((g.bump 207 0 port).count 207 1 port 0 b.length).perfCount 0 1 port 1
          let v := a.secReceive port body early
          match v.drop with
          | some _ =>
            true
          | _ => false
        | _ => false
      | _, _ => false) 0 { bytes := frame 64, errAt := none, headFirst := false } { live with port.ports := [(0, { up := true, conditions := true, cfg := { promisc := true } })], sec.secys := [(0, { enabled := true, validation := 2 })] } none) = true ∧
    ({ live with port.ports := [(0, { up := true, conditions := true, cfg := { promisc := true } })], sec.secys := [(0, { enabled := true, validation := 2 })] } : State).frameChecks 0 (frame 64) none = none := by
  refine ⟨by decide +kernel, ?_⟩; rw [frameChecks_frame64]; decide

/-- States and operands that meet the hypotheses of clauses of FrameReceptionCompletes. -/
theorem witness_FrameReceptionCompletes_7 : (
    (fun (port : Nat) (f : RxInput) (s : State) (tailCode : Option Nat) =>
      if !(!decide (96 ≤ port)) then false else
      let x := s.prt port
      if !(!decide (!(s.portExists port && x.up && s.dataPlaneOn))) then false else
      let g := s.fecReport port f.fec
      let b := f.bytes
      let body := b.take (b.length - 4)
      let cap := 16384 * modeLanes (s.grp (port / 16)).running
      let early := f.headFirst && x.rxBuf.isEmpty && 192 < b.length && (f.errAt.map (fun k => decide (192 ≤ k))).getD true &&
        (g.headChecks port body).isNone
      match tailCode, early with
      | none, _ =>
        match g.headChecks port body with
        | none =>
          if !(!decide (!early && cap < x.rxHeld + b.length)) then false else
          let a := ((g.bump 207 0 port).count 207 1 port 0 b.length).perfCount 0 1 port 1
          let v := a.secReceive port body early
          match v.drop with
          | none =>
            true
          | _ => false
        | _ => false
      | _, _ => false) 0 { bytes := frame 64, errAt := none, headFirst := false } { live with port.ports := [(0, { up := true, conditions := true, cfg := { promisc := true }, rxBuf := List.replicate 40 { frame := pay 410 [], rxT32 := 0 } })] } none) = true ∧
    ({ live with port.ports := [(0, { up := true, conditions := true, cfg := { promisc := true }, rxBuf := List.replicate 40 { frame := pay 410 [], rxT32 := 0 } })] } : State).frameChecks 0 (frame 64) none = none := by
  refine ⟨by decide +kernel, ?_⟩; rw [frameChecks_frame64]; decide

/-- States and operands that meet the hypotheses of clauses of FrameReceptionCompletes. -/
theorem witness_FrameReceptionCompletes_8 : (
    (fun (port : Nat) (s : State) =>
      if !(!decide (96 ≤ port)) then false else
      match (s.prt port).rxBuf with
      | f :: _ =>
        if !(!decide (!s.dataPlaneOn || s.parsersIn == 0)) then false else
        let p := parseFrame (s.prt port).policy (s.hashProf port) port f.scIndex f.secured f.frame
        decide (p.1.status != 0)
      | _ => false) 0 { live with port.ports := [(0, { up := true, rxBuf := [{ frame := pay 13 [], rxT32 := 0 }] })] }) = true := by decide

/-- States and operands that meet the hypotheses of clauses of FrameReceptionCompletes. -/
theorem witness_FrameReceptionCompletes_9 : (
    (fun (port : Nat) (s : State) =>
      if !(!decide (96 ≤ port)) then false else
      match (s.prt port).rxBuf with
      | f :: _ =>
        if !(!decide (!s.dataPlaneOn || s.parsersIn == 0)) then false else
        let p := parseFrame (s.prt port).policy (s.hashProf port) port f.scIndex f.secured f.frame
        !decide (p.1.status != 0)
      | _ => false) 0 { live with port.ports := [(0, { up := true, rxBuf := [{ frame := pay 60 [(12, 8), (13, 6)], rxT32 := 0 }] })] }) = true := by decide

/-- States and operands that meet the hypotheses of clauses of FrameReceptionCompletes. -/
theorem witness_FrameReceptionCompletes_10 : (
    (fun (pipeline : Nat) (_ : List Nat) (s : State) =>
      if !(!decide (17 ≤ pipeline)) then false else
      if !(!decide (!s.aux.pllLocked)) then false else
      !decide (s.parse.pipesOut.contains pipeline || (pipeline == 16 && s.parse.pipesOut.isEmpty))) 0 [] live) = true := by decide

/-- States and operands that meet the hypotheses of clauses of TableCommandsComplete. -/
theorem witness_TableCommandsComplete_1 : (
    (fun (c : Cmd) (s : State) =>
      if !(accepted routeGetSpec c s) then false else
      let b := c.payload
      let vrf := le b 0 2
      let fam := byteAt b 2
      let len := byteAt b 3
      let addr := be b 4 (famBits fam / 8)
      if !(!decide (4095 < vrf || !(fam == 4 || fam == 6) || (len != 0xFF && famBits fam < len))) then false else
      if !(decide (len == 0xFF)) then false else
      let r := s.fibLookup vrf fam addr false
      match r.ent with
      | some _ =>
        true
      | _ => false) (cmd 20 [(2, 4), (3, 255)]) { live with tbl.dirs := [(0, { dflt := 1048576, lens := [8] })], tbl.fib := [{ vrf := 0, fam := 4, len := 8, key := 0, orig := 8, pfx := true, marker := false, refs := 0, result := 1048577 }] } &&
    (fun (c : Cmd) (s : State) =>
      if !(accepted routeGetSpec c s) then false else
      let b := c.payload
      let vrf := le b 0 2
      let fam := byteAt b 2
      let len := byteAt b 3
      let addr := be b 4 (famBits fam / 8)
      if !(!decide (4095 < vrf || !(fam == 4 || fam == 6) || (len != 0xFF && famBits fam < len))) then false else
      if !(decide (len == 0xFF)) then false else
      let r := s.fibLookup vrf fam addr false
      match r.ent with
      | none =>
        true
      | _ => false) (cmd 20 [(2, 4), (3, 255)]) live &&
    (fun (c : Cmd) (s : State) =>
      if !(accepted routeGetSpec c s) then false else
      let b := c.payload
      let vrf := le b 0 2
      let fam := byteAt b 2
      let len := byteAt b 3
      let d := s.dir vrf fam
      if !(!decide (4095 < vrf || !(fam == 4 || fam == 6) || (len != 0xFF && famBits fam < len))) then false else
      if !(!decide (len == 0xFF)) then false else
      if !(decide (len == 0)) then false else
      !decide (d.dflt / 1048576 == 0)) (cmd 20 [(2, 4)]) { live with tbl.dirs := [(0, { dflt := 1048576, lens := [8] })], tbl.fib := [{ vrf := 0, fam := 4, len := 8, key := 0, orig := 8, pfx := true, marker := false, refs := 0, result := 1048577 }] } &&
    (fun (c : Cmd) (s : State) =>
      if !(accepted routeGetSpec c s) then false else
      let b := c.payload
      let vrf := le b 0 2
      let fam := byteAt b 2
      let len := byteAt b 3
      let addr := be b 4 (famBits fam / 8)
      if !(!decide (4095 < vrf || !(fam == 4 || fam == 6) || (len != 0xFF && famBits fam < len))) then false else
      if !(!decide (len == 0xFF)) then false else
      if !(!decide (len == 0)) then false else
      match s.fibEnt vrf fam len (maskKey fam len addr) with
      | some _ =>
        true
      | _ => false) (cmd 20 [(2, 4), (3, 8)]) { live with tbl.dirs := [(0, { dflt := 1048576, lens := [8] })], tbl.fib := [{ vrf := 0, fam := 4, len := 8, key := 0, orig := 8, pfx := true, marker := false, refs := 0, result := 1048577 }] } &&
    (fun (c : Cmd) (s : State) =>
      if !(accepted lengthReserveSpec c s) then false else
      let b := c.payload
      let vrf := le b 0 2
      let fam := byteAt b 2
      let l := (bitmapOf (le b 4 16) 16).map (fun i => 8 + i)
      !decide (4095 < vrf || !(fam == 4 || fam == 6) || 1 < byteAt b 3 || l.any (fun k => famBits fam < k))) (cmd 20 [(2, 4)]) live &&
    (fun (c : Cmd) (s : State) =>
      if !(accepted ecmpCreateSpec c s) then false else
      let b := c.payload
      let g := le b 0 2
      let cap := byteAt b 2
      let n := byteAt b 3
      let l := (List.range n).map (fun i => le b (4 + 4 * i) 4)
      if !(!decide (!inRange cap 8 128 || !inRange n 1 cap || l.eraseDups.length != n || l.any (fun v => 1048576 ≤ v))) then false else
      if !(!decide (s.retiring 1 g)) then false else
      if !(!decide ((s.tbl.ecmps.get? g).isSome)) then false else
      if !(!decide (!l.all s.nexthopSet?)) then false else
      let size := 8 * ceilDiv cap 8
      match s.freeRun size with
      | some _ =>
        true
      | _ => false) (cmd 8 [(2, 8), (3, 1), (4, 1)]) live &&
    (fun (c : Cmd) (s : State) =>
      if !(accepted emTableConfigSpec c s) then false else
      let b := c.payload
      let t := byteAt b 0
      let prof := s.keyProfile (le b 2 2)
      if !(!decide (61 < t || 1 < byteAt b 1 || 63 < le b 2 2 || (if byteAt b 1 == 1 then 256 else 128) < keyWidth prof || prof.any (fun g => g.code == 0x16))) then false else
      !decide (0 < s.emCount t)) (cmd 4 []) live &&
    (fun (c : Cmd) (s : State) =>
      if !(accepted interfaceSetSpec c s) then false else
      let v := le c.payload 4 8
      let a := field v 31 26
      let b := field v 25 20
      !decide (a == 62 || b == 62)) (cmd 12 []) live &&
    (fun (c : Cmd) (s : State) =>
      if !(accepted routerMacSetSpec c s) then false else
      let i := byteAt c.payload 0
      !decide (15 < i || 1 < byteAt c.payload 1)) (cmd 8 []) live &&
    (fun (c : Cmd) (s : State) =>
      if !(accepted objRetireSpec c s) then false else
      let k := byteAt c.payload 0
      let i := le c.payload 4 4
      if !(!decide (2 < k)) then false else
      if !(!decide (s.retiring k i)) then false else
      if !(!decide (!(if k == 0 then s.nexthopSet? i else if k == 1 then s.ecmpSet? i else s.encapSet? i))) then false else
      !decide (s.references k i != 0)) (cmd 8 [(4, 1)]) live &&
    (fun (c : Cmd) (s : State) =>
      if !(accepted objCountersGetSpec c s) then false else
      let b := c.payload
      let first := le b 0 4
      let n := le b 4 2
      !decide (!inRange n 1 256 || 1 < byteAt b 6 || 16777216 < first + n)) (cmd 8 [(4, 1)]) live &&
    (fun (c : Cmd) (s : State) =>
      if !(accepted tableRepairDoneSpec c s) then false else
      let i := le c.payload 0 2
      match s.tbl.poison.get? i with
      | some p =>
        if !(!decide (1 < p.table)) then false else
        !decide (!p.ready)
      | _ => false) (cmd 2 []) { live with tbl.poison := [(0, { ready := true, table := 0, index := 0 })] }) = true := by decide

/-- States and operands that meet the hypotheses of clauses of TableCommandsComplete. -/
theorem witness_TableCommandsComplete_2 : (
    (fun (c : Cmd) (s : State) =>
      if !(accepted tableSplitSetSpec c s) then false else
      let n := byteAt c.payload 0
      !decide (!inRange n 1 10)) (cmd 1 [(0, 1)]) { live with mode.mode := mdConfigure } &&
    (fun (c : Cmd) (s : State) =>
      if !(accepted lookupConfigSpec c s) then false else
      !decide (!inRange (le c.payload 0 2) 1 1000)) (cmd 2 [(0, 1)]) live &&
    (fun (c : Cmd) (s : State) =>
      if !(accepted tableStatusGetSpec c s) then false else
      true) (cmd 0 []) live &&
    (fun (c : Cmd) (s : State) =>
      if !(accepted ecmpCountSetSpec c s) then false else
      let g := le c.payload 0 2
      if !(!decide (1 < byteAt c.payload 2)) then false else
      if !(!decide (s.retiring 1 g)) then false else
      match s.tbl.ecmps.get? g with
      | some _ =>
        true
      | _ => false) (cmd 4 []) { live with tbl.nexthops := [(1, { type := 1 }), (2, { type := 1 })], tbl.ecmps := [(0, { members := [(0, 1)], slots := List.replicate 256 0, capacity := 8, base := 0, countEn := false })] } &&
    (fun (c : Cmd) (s : State) =>
      accepted (batchSpec 0x0401 32) c s && batchGood 0x0401 1024 c s && !bit (byteAt c.payload 2) 1) (cmd 40 [(0, 1)]) live &&
    (fun (c : Cmd) (s : State) =>
      accepted (batchSpec 0x0402 32) c s && batchGood 0x0402 1024 c s && !bit (byteAt c.payload 2) 1) (cmd 40 [(0, 1)]) live &&
    (fun (c : Cmd) (s : State) =>
      accepted (batchSpec 0x0405 12) c s && batchGood 0x0405 1024 c s && !bit (byteAt c.payload 2) 1) (cmd 20 [(0, 1)]) live &&
    (fun (c : Cmd) (s : State) =>
      accepted (batchSpec 0x0407 32) c s && batchGood 0x0407 1024 c s && !bit (byteAt c.payload 2) 1) (cmd 40 [(0, 1)]) live &&
    (fun (c : Cmd) (s : State) =>
      accepted (batchSpec 0x0408 24) c s && batchGood 0x0408 1024 c s && !bit (byteAt c.payload 2) 1) (cmd 32 [(0, 1)]) live &&
    (fun (c : Cmd) (s : State) =>
      accepted (batchSpec 0x0409 24) c s && batchGood 0x0409 1024 c s && !bit (byteAt c.payload 2) 1) (cmd 32 [(0, 1)]) live &&
    (fun (c : Cmd) (s : State) =>
      accepted (batchSpec 0x0506 176) c s && batchGood 0x0506 256 c s && !bit (byteAt c.payload 2) 1) (cmd 184 [(0, 1)]) { live with tcam.chains := [(0, { width := 0, bases := [0], ents := [{ index := 0, handle := 1, prio := 1, value := 0, mask := 0, action := 0 }] })] } &&
    (fun (c : Cmd) (s : State) =>
      accepted (batchSpec 0x0507 176) c s && batchGood 0x0507 256 c s && !bit (byteAt c.payload 2) 1) (cmd 184 [(0, 1)]) { live with tcam.chains := [(0, { width := 0, bases := [0], ents := [{ index := 0, handle := 1, prio := 1, value := 0, mask := 0, action := 0 }] })] }) = true := by decide +kernel

/-- States and operands that meet the hypotheses of clauses of TableCommandsComplete. -/
theorem witness_TableCommandsComplete_3 : (
    (fun (c : Cmd) (s : State) =>
      accepted (batchSpec 0x0A02 72) c s && batchGood 0x0A02 1024 c s && !bit (byteAt c.payload 2) 1) (cmd 80 [(0, 1)]) live) = true := by decide

/-- States and operands that meet the hypotheses of clauses of LookupEventsComplete. -/
theorem witness_LookupEventsComplete : (
    (fun (port : Nat) (parity : List Nat) (s : State) =>
      if !(!decide (96 ≤ port || parity.any (fun t => 64 ≤ t))) then false else
      if !(!decide (!s.dataPlaneOn)) then false else
      match firstOf port s.parse.lookupQ with
      | some (k, r) =>
        let w := { s with parse.lookupQ := r }.lookup k parity
        match w.out with
        | some (.slow _ _) =>
          true
        | _ => false
      | _ => false) 0 [] { live with tbl.em := [{ table := 62, key := 0, result := 6291457, override := false }, { table := 63, key := 0, result := 0, override := false }], parse.lookupQ := [{ frame := pay 60 [], parse := { frameLen := 64, puntClass := 1 }, cut := 0, rxT32 := 0, tail := .here }] } &&
    (fun (port : Nat) (parity : List Nat) (s : State) =>
      if !(!decide (96 ≤ port || parity.any (fun t => 64 ≤ t))) then false else
      if !(!decide (!s.dataPlaneOn)) then false else
      match firstOf port s.parse.lookupQ with
      | some (k, r) =>
        let p := k.parse
        let w := { s with parse.lookupQ := r }.lookup k parity
        let _ := pipesIn s.tbl.pipesOut
        if w.st.tel.perf != [] then false else
        let t : State := { w.st with tbl.freeIx := w.st.tbl.freeIx + 1 } -- servedBy_idle
        match w.out with
        | some (.forward _ _ _) =>
          let q := t.classify p k.frame
          let tc := w.setTc.getD q.1
          match w.setPolicer.or ((t.prt p.port).qos.policers.get? tc) with
          | none =>
            true
          | _ => false
        | _ => false
      | _ => false) 0 [] { live with tbl.em := [{ table := 62, key := 0, result := 6291457, override := false }, { table := 63, key := 0, result := 0, override := false }], parse.lookupQ := [{ frame := pay 60 [], parse := { frameLen := 64 }, cut := 0, rxT32 := 0, tail := .here }] } &&
    (fun (port : Nat) (parity : List Nat) (s : State) =>
      if !(!decide (96 ≤ port || parity.any (fun t => 64 ≤ t))) then false else
      if !(!decide (!s.dataPlaneOn)) then false else
      match firstOf port s.parse.lookupQ with
      | some (k, r) =>
        let p := k.parse
        let w := { s with parse.lookupQ := r }.lookup k parity
        let _ := pipesIn s.tbl.pipesOut
        if w.st.tel.perf != [] then false else
        let t : State := { w.st with tbl.freeIx := w.st.tbl.freeIx + 1 } -- servedBy_idle
        match w.out with
        | some (.forward _ _ _) =>
          let q := t.classify p k.frame
          let tc := w.setTc.getD q.1
          match w.setPolicer.or ((t.prt p.port).qos.policers.get? tc) with
          | some i =>
            let v := t.police i w.len q.2
            match v.drop with
            | some _ =>
              true
            | _ => false
          | _ => false
        | _ => false
      | _ => false) 0 [] { live with tbl.em := [{ table := 62, key := 0, result := 6291457, override := false }, { table := 63, key := 0, result := 0, override := false }], parse.lookupQ := [{ frame := pay 60 [], parse := { frameLen := 64 }, cut := 0, rxT32 := 0, tail := .here }], port.ports := [(0, { up := true, qos := { policers := [(0, 0)] } })], sched.policers := [(0, { enabled := true, lost := true })] } &&
    (fun (port : Nat) (parity : List Nat) (s : State) =>
      if !(!decide (96 ≤ port || parity.any (fun t => 64 ≤ t))) then false else
      if !(!decide (!s.dataPlaneOn)) then false else
      match firstOf port s.parse.lookupQ with
      | some (k, r) =>
        let p := k.parse
        let w := { s with parse.lookupQ := r }.lookup k parity
        let _ := pipesIn s.tbl.pipesOut
        if w.st.tel.perf != [] then false else
        let t : State := { w.st with tbl.freeIx := w.st.tbl.freeIx + 1 } -- servedBy_idle
        match w.out with
        | some (.forward _ _ _) =>
          let q := t.classify p k.frame
          let tc := w.setTc.getD q.1
          match w.setPolicer.or ((t.prt p.port).qos.policers.get? tc) with
          | some i =>
            let v := t.police i w.len q.2
            match v.drop with
            | none =>
              true
            | _ => false
          | _ => false
        | _ => false
      | _ => false) 0 [] { live with tbl.em := [{ table := 62, key := 0, result := 6291457, override := false }, { table := 63, key := 0, result := 0, override := false }], parse.lookupQ := [{ frame := pay 60 [], parse := { frameLen := 64 }, cut := 0, rxT32 := 0, tail := .here }], port.ports := [(0, { up := true, qos := { policers := [(0, 0)] } })] } &&
    (fun (port : Nat) (parity : List Nat) (s : State) =>
      if !(!decide (96 ≤ port || parity.any (fun t => 64 ≤ t))) then false else
      if !(!decide (!s.dataPlaneOn)) then false else
      match firstOf port s.parse.lookupQ with
      | some (k, r) =>
        let w := { s with parse.lookupQ := r }.lookup k parity
        match w.out with
        | some (.drop _) =>
          true
        | _ => false
      | _ => false) 0 [] { live with parse.lookupQ := [{ frame := pay 60 [], parse := { frameLen := 64 }, cut := 0, rxT32 := 0, tail := .here }] } &&
    (fun (pipeline : Nat) (_ : List Nat) (s : State) =>
      if !(!decide (17 ≤ pipeline)) then false else
      if !(!decide (!s.aux.pllLocked)) then false else
      !decide (s.tbl.pipesOut.contains pipeline || (pipeline == 16 && s.tbl.pipesOut.isEmpty))) 0 [] live &&
    (fun (s : State) => decide (s.ended s.tbl.epochTick 750000)) live &&
    (fun (table : Nat) (s : State) =>
      if !(!decide (!s.aux.pllLocked)) then false else
      !decide ((s.tbl.oldTables.get? table).isNone)) 0 { live with tbl.oldTables := [(0, 1)] } &&
    (fun (group : Nat) (s : State) =>
      if !(!decide (!s.aux.pllLocked)) then false else
      decide (s.tbl.oldRuns.any (fun r => r.1 == group))) 0 { live with tbl.oldRuns := [(0, 0, 8)] } &&
    (fun (entry : Nat) (s : State) =>
      match s.tbl.poison.get? entry with
      | some p =>
        decide (p.table == 0 && !p.ready && s.fwRuns)
      | _ => false) 0 { live with tbl.poison := [(0, { ready := false, table := 0, index := 0 })] } &&
    (fun (s : State) =>
      if !(!decide (!s.aux.pllLocked)) then false else
      match s.tbl.updates with
      | (_, _) :: _ =>
        true
      | _ => false) { live with tbl.updates := [(0, 64)] } &&
    (fun (s : State) =>
      !decide (!s.aux.pllLocked || !s.tbl.batches.any (fun b => s.t32.reached b.t))) { live with tbl.batches := [{ id := 0, opcode := 0x0401, t := 0, ops := 1, payload := pay 40 [(0, 1)] }] }) = true := by decide

/-- States and operands that meet the hypotheses of clauses of SearchComplete. -/
theorem witness_SearchComplete_1 : (
    (fun (c : Cmd) (s : State) =>
      if !(accepted tcamChainConfigSpec c s) then false else
      let b := c.payload
      let k := byteAt b 0
      if !(!decide (15 < k)) then false else
      if !(decide (bit (byteAt b 4) 1)) then false else
      !decide ((s.chain? k).isNone)) (cmd 8 [(4, 2)]) { live with mode.mode := mdConfigure, tcam.chains := [(0, { width := 0, bases := [0], ents := [{ index := 0, handle := 1, prio := 1, value := 0, mask := 0, action := 0 }] })] } &&
    (fun (c : Cmd) (s : State) =>
      if !(accepted tcamChainConfigSpec c s) then false else
      let b := c.payload
      let k := byteAt b 0
      let w := byteAt b 1
      let hole := le b 2 2
      let n := byteAt b 5
      let bases := (List.range n).map (fun i => byteAt b (8 + i))
      let tiles := bases.flatMap (rankTiles w)
      if !(!decide (15 < k)) then false else
      if !(!decide (bit (byteAt b 4) 1)) then false else
      if !(!decide (2 < w || n == 0 || !(hole == 0 || [8, 16, 32, 64, 128, 256].contains hole))) then false else
      if !(!decide (64 / widthTiles w < n)) then false else
      if !(!decide (!bases.all (baseOk w) || tiles.eraseDups.length != tiles.length || tiles.any (fun t => (s.tileChain t).any (fun j => j != k)))) then false else
      !decide (tiles.any s.tcam.unmapped.contains)) (cmd 9 [(5, 1)]) { live with mode.mode := mdConfigure } &&
    (fun (c : Cmd) (s : State) =>
      if !(accepted tcamChainExtendSpec c s) then false else
      let k := byteAt c.payload 0
      let base := byteAt c.payload 1
      match s.chain? k with
      | some x =>
        let tiles := rankTiles x.width base
        if !(!decide (!baseOk x.width base)) then false else
        if !(!decide (64 / widthTiles x.width ≤ x.bases.length)) then false else
        if !(!decide (tiles.any (fun t => (s.tileChain t).isSome))) then false else
        !decide (tiles.any s.tcam.unmapped.contains)
      | _ => false) (cmd 2 [(1, 1)]) { live with tcam.chains := [(0, { width := 0, bases := [0], ents := [{ index := 0, handle := 1, prio := 1, value := 0, mask := 0, action := 0 }] })] } &&
    (fun (c : Cmd) (s : State) =>
      if !(accepted keyProfileSetSpec c s) then false else
      let b := c.payload
      let n := byteAt b 1
      let l := (List.range n).map (fun i =>
        ({ code := byteAt b (4 + 4 * i), anchor := byteAt b (5 + 4 * i), offset := byteAt b (6 + 4 * i)
           width := byteAt b (7 + 4 * i) } : KeySeg))
      !decide (63 < byteAt b 0 || !inRange n 1 16 || !l.all KeySeg.ok || 640 < keyWidth l)) (cmd 8 [(1, 1), (4, 0x18), (7, 8)]) live &&
    (fun (c : Cmd) (s : State) =>
      if !(accepted searchProfileSetSpec c s) then false else
      match s.slotOf c.payload 1, s.slotOf c.payload 4 with
      | some _, some _ =>
        !decide (63 < byteAt c.payload 0)
      | _, _ => false) (cmd 8 []) live &&
    (fun (c : Cmd) (s : State) =>
      if !(accepted searchProfileMapSpec c s) then false else
      let p := byteAt c.payload 0
      if !(!decide (!s.portExists p)) then false else
      !decide (3 < byteAt c.payload 1 || 63 < byteAt c.payload 2)) (cmd 4 []) live &&
    (fun (c : Cmd) (s : State) =>
      if !(accepted tcamEntryDeleteSpec c s) then false else
      let n := le c.payload 0 2
      let l := (List.range n).map (fun i => le c.payload (4 + 4 * i) 4)
      if !(!decide (!inRange n 1 256)) then false else
      let r := s.tcamDeleteOps 0 l
      decide (r.2.1 == 0)) (cmd 8 [(0, 1), (4, 9)]) { live with tcam.chains := [(0, { width := 0, bases := [0], ents := [{ index := 0, handle := 1, prio := 1, value := 0, mask := 0, action := 0 }] })] } &&
    (fun (c : Cmd) (s : State) =>
      if !(accepted tcamEntryDeleteSpec c s) then false else
      let n := le c.payload 0 2
      let l := (List.range n).map (fun i => le c.payload (4 + 4 * i) 4)
      if !(!decide (!inRange n 1 256)) then false else
      let r := s.tcamDeleteOps 0 l
      !decide (r.2.1 == 0)) (cmd 8 [(0, 1), (4, 1)]) { live with tcam.chains := [(0, { width := 0, bases := [0], ents := [{ index := 0, handle := 1, prio := 1, value := 0, mask := 0, action := 0 }] })] } &&
    (fun (c : Cmd) (s : State) =>
      if !(accepted tcamSearchSpec c s) then false else
      match s.chain? (byteAt c.payload 0) with
      | some _ =>
        true
      | _ => false) (cmd 84 []) { live with tcam.chains := [(0, { width := 0, bases := [0], ents := [{ index := 0, handle := 1, prio := 1, value := 0, mask := 0, action := 0 }] })] } &&
    (fun (c : Cmd) (s : State) =>
      if !(accepted tcamSearchContinueSpec c s) then false else
      match s.chain? (byteAt c.payload 0) with
      | some x =>
        !decide (le c.payload 8 4 != x.gen)
      | _ => false) (cmd 92 []) { live with tcam.chains := [(0, { width := 0, bases := [0], ents := [{ index := 0, handle := 1, prio := 1, value := 0, mask := 0, action := 0 }] })] } &&
    (fun (c : Cmd) (s : State) =>
      if !(accepted tcamCompactSpec c s) then false else
      let k := byteAt c.payload 0
      let v := le c.payload 4 2
      match s.chain? k with
      | some _ =>
        !decide (!(v == 0xFFFF || v == 0 || [8, 16, 32, 64, 128, 256].contains v))
      | _ => false) (cmd 6 []) { live with tcam.chains := [(0, { width := 0, bases := [0], ents := [{ index := 0, handle := 1, prio := 1, value := 0, mask := 0, action := 0 }] })] } &&
    (fun (c : Cmd) (s : State) =>
      if !(accepted tcamEntryReadSpec c s) then false else
      match s.tcamFind (le c.payload 0 4) with
      | some (_, _, _) =>
        true
      | _ => false) (cmd 4 [(0, 1)]) { live with tcam.chains := [(0, { width := 0, bases := [0], ents := [{ index := 0, handle := 1, prio := 1, value := 0, mask := 0, action := 0 }] })] }) = true := by decide

/-- States and operands that meet the hypotheses of clauses of SearchComplete. -/
theorem witness_SearchComplete_2 : (
    (fun (c : Cmd) (s : State) =>
      if !(accepted tcamStatusGetSpec c s) then false else
      true) (cmd 0 []) live &&
    (fun (bad : List (Nat × Nat)) (s : State) =>
      if !(!decide (bad.any (fun e => 64 ≤ e.1 || 2048 ≤ e.2))) then false else
      !decide (!s.aux.pllLocked)) [] live &&
    (fun (lt : Nat) (s : State) =>
      if !(!decide (!s.aux.pllLocked)) then false else
      match s.tcam.filling.find? (fun f => f.1 == lt) with
      | some _ =>
        true
      | _ => false) 0 { live with tcam.filling := [(0, 64)] } &&
    (fun (handle : Nat) (s : State) =>
      if !(!decide (!s.aux.pllLocked)) then false else
      match s.tcam.deleting.find? (fun d => d.1 == handle) with
      | some d =>
        if !(!decide (!s.ended d.2 (us 50))) then false else
        match s.hif.openCmds.find? (fun o => o.deletes handle) with
        | some o =>
          match o.kind with
          | .tcamDelete l =>
            let n := le o.cmd.payload 0 2
            decide (l.length == n)
          | _ => false
        | _ => false
      | _ => false) 1 { live with tcam.deleting := [(1, 0)], hif.openCmds := [{ cmd := cmd 8 [(0, 1), (4, 1)], kind := .tcamDelete [1] }] } &&
    (fun (handle : Nat) (s : State) =>
      if !(!decide (!s.aux.pllLocked)) then false else
      match s.tcam.deleting.find? (fun d => d.1 == handle) with
      | some d =>
        if !(!decide (!s.ended d.2 (us 50))) then false else
        match s.hif.openCmds.find? (fun o => o.deletes handle) with
        | some o =>
          match o.kind with
          | .tcamDelete l =>
            let n := le o.cmd.payload 0 2
            !decide (l.length == n)
          | _ => false
        | _ => false
      | _ => false) 1 { live with tcam.deleting := [(1, 0)], hif.openCmds := [{ cmd := cmd 8 [(0, 2), (4, 1)], kind := .tcamDelete [1] }] } &&
    (fun (handle : Nat) (s : State) =>
      if !(!decide (!s.aux.pllLocked)) then false else
      match s.tcam.deleting.find? (fun d => d.1 == handle) with
      | some d =>
        if !(!decide (!s.ended d.2 (us 50))) then false else
        match s.hif.openCmds.find? (fun o => o.deletes handle) with
        | none =>
          true
        | _ => false
      | _ => false) 1 { live with tcam.deleting := [(1, 0)] }) = true := by decide

/-- States and operands that meet the hypotheses of clauses of PacketBufferComplete. -/
theorem witness_PacketBufferComplete_1 : (
    (fun (c : Cmd) (s : State) =>
      if !(accepted bufferPartitionSetSpec c s) then false else
      let v := le c.payload 0 4
      let r := le c.payload 4 4
      let e := le c.payload 8 4
      !decide (v + r + e != 524288 || v % 1024 != 0 || r % 1024 != 0 || e % 1024 != 0)) (cmd 12 [(2, 8)]) { live with mode.mode := mdConfigure } &&
    (fun (c : Cmd) (s : State) =>
      if !(accepted admissionProfileSetSpec c s) then false else
      let b := c.payload
      let f : AdmProf := {
        spillEn := bit (byteAt b 1) 0, alphaDie := byteAt b 2, alphaHbm := byteAt b 3, minCells := le b 4 4
        maxCells := le b 8 4, spillOn := le b 12 2, headKeep := le b 14 2 }
      if !(!decide (0xB < f.alphaDie || 0xB < f.alphaHbm || 131071 < f.minCells || !inRange f.maxCells 39 268435455 || !inRange f.headKeep 16 2048 || f.headKeep % 16 != 0 || f.spillOn < f.headKeep + 32)) then false else
      let t := { s with buf.profs := s.buf.profs.set (byteAt b 0) f }
      !decide (minTooHigh s t)) (cmd 16 [(8, 39), (12, 48), (14, 16)]) live &&
    (fun (c : Cmd) (s : State) =>
      if !(accepted wredProfileSetSpec c s) then false else
      let b := c.payload
      let curve (o : Nat) : Curve := {
        enable := bit (byteAt b o) 0, mark := bit (byteAt b o) 1, maxP := le b (o + 2) 2, minTh := le b (o + 4) 4
        maxTh := le b (o + 8) 4 }
      let w : Wred := { w := byteAt b 1, green := curve 4, yellow := curve 16, red := curve 28 }
      !decide (63 < byteAt b 0 || 15 < w.w || [w.green, w.yellow, w.red].any (fun c => c.maxTh ≤ c.minTh))) (cmd 40 [(12, 1), (24, 1), (36, 1)]) live &&
    (fun (c : Cmd) (s : State) =>
      if !(accepted queueConfigSpec c s) then false else
      let b := c.payload
      let first := le b 0 4
      let n := le b 4 4
      if !(!decide (524288 ≤ first)) then false else
      !decide (n == 0 || 524288 < first + n || 63 < byteAt b 9 || !inRange (le b 12 4) 1 1000000)) (cmd 16 [(4, 1), (12, 1)]) live &&
    (fun (c : Cmd) (s : State) =>
      if !(accepted queueFlushSpec c s) then false else
      let q := le c.payload 0 4
      !decide (524288 ≤ q)) (cmd 4 []) live &&
    (fun (c : Cmd) (s : State) =>
      if !(accepted queueStatusGetSpec c s) then false else
      let first := le c.payload 0 4
      let n := le c.payload 4 4
      if !(!decide (!inRange n 1 64)) then false else
      !decide (524288 < first + n)) (cmd 8 [(4, 1)]) live &&
    (fun (c : Cmd) (s : State) =>
      if !(accepted bufferStatusGetSpec c s) then false else
      true) (cmd 0 []) live &&
    (fun (c : Cmd) (s : State) =>
      if !(accepted bufferGlobalSetSpec c s) then false else
      let n := le c.payload 0 4
      !decide (!inRange n 4096 262144)) (cmd 4 [(1, 16)]) live &&
    (fun (port : Nat) (s : State) =>
      if !(!decide (96 ≤ port)) then false else
      if !(!decide (!s.dataPlaneOn)) then false else
      match firstDesc port s.parse.d2dQ with
      | some (_, _) =>
        true
      | _ => false) 0 { live with parse.d2dQ := [{ pkt := { frame := pay 60 [], parse := { frameLen := 64 }, cut := 0, rxT32 := 0, tail := .here }, flit := { no := 0, module := 0 }, mcast := false, dest := 0, encap := none, edit := {}, tc := 0, colour := 0 }] } &&
    (fun (s : State) =>
      match s.buf.backlog with
      | q :: _ =>
        match s.grantSeg q with
        | some (i, _) =>
          !decide (s.pcWaits (i % 128) || !s.dataPlaneOn || !s.meterOk 8)
        | _ => false
      | _ => false) { live with buf.backlog := [0] } &&
    (fun (queue : Nat) (s : State) =>
      if !(!decide (524288 ≤ queue)) then false else
      let x := s.queue queue
      match x.mid with
      | g :: _ =>
        !decide (!(g.refill && g.slot.isSome) || !s.dataPlaneOn || g.slot.any (fun i => s.pcWaits (i % 128)) || 524288 < s.buf.cells.length + 16 || !s.meterOk 9)
      | _ => false) 0 { live with buf.queues := [(0, { mid := [{ slot := some 0, refill := true }] })] } &&
    (fun (queue : Nat) (s : State) =>
      if !(!decide (524288 ≤ queue)) then false else
      !decide (!s.dataPlaneOn || (s.fab.sending.get? queue).isSome)) 0 live) = true := by decide

/-- States and operands that meet the hypotheses of clauses of PacketBufferComplete. -/
theorem witness_PacketBufferComplete_2 : (
    (fun (s : State) =>
      if !(!decide (!s.aux.pllLocked)) then false else
      !decide (!s.ended s.buf.auditAt (secs 1))) live) = true := by decide

/-- States and operands that meet the hypotheses of clauses of SchedulingCommandsComplete. -/
theorem witness_SchedulingCommandsComplete_1 : (
    (fun (c : Cmd) (s : State) =>
      if !(accepted schedNodeSetSpec c s) then false else
      let n := le c.payload 0 2
      !decide (!inRange n 1 256)) (cmd 28 [(0, 1)]) live &&
    (fun (c : Cmd) (s : State) =>
      if !(accepted schedNodeGetSpec c s) then false else
      let n := le c.payload 0 4
      !decide (!isNode n)) (cmd 4 []) live &&
    (fun (c : Cmd) (s : State) =>
      if !(accepted lengthProfileSetSpec c s) then false else
      let b := c.payload
      let o := leS b 1 1
      !decide (63 < byteAt b 0 || o < -64 || 63 < o || 9728 < le b 2 2)) (cmd 4 []) live &&
    (fun (c : Cmd) (s : State) =>
      if !(accepted siteMapSetSpec c s) then false else
      let b := c.payload
      let i := le b 4 4
      let site := le b 8 2
      if !(!decide (1 < byteAt b 0 || 32768 ≤ site || 1 < byteAt b 10)) then false else
      if !(decide (byteAt b 0 == 0)) then false else
      !decide (!s.portExists i)) (cmd 12 []) live &&
    (fun (c : Cmd) (s : State) =>
      if !(accepted siteMapSetSpec c s) then false else
      let b := c.payload
      let i := le b 4 4
      let site := le b 8 2
      let on := byteAt b 10 == 1
      if !(!decide (1 < byteAt b 0 || 32768 ≤ site || 1 < byteAt b 10)) then false else
      if !(!decide (byteAt b 0 == 0)) then false else
      !decide (262144 ≤ i || (on && s.retiring 2 i))) (cmd 12 [(0, 1)]) live &&
    (fun (c : Cmd) (s : State) =>
      if !(accepted dispatchProfileSetSpec c s) then false else
      let b := c.payload
      !decide ((List.range 8).any (fun i => 2 < byteAt b (4 * i) || !inRange (le b (4 * i + 2) 2) 1 4096))) (cmd 32 ((List.range 8).map (fun i => (4 * i + 2, 1)))) live &&
    (fun (c : Cmd) (s : State) =>
      if !(accepted sampleSetConfigSpec c s) then false else
      let b := c.payload
      let k := byteAt b 0
      let first := le b 4 4
      let n := le b 8 4
      let i := le b 12 4
      let start : T32 := BitVec.ofNat 32 (le b 16 4)
      if !(!decide (15 < k || 1 < byteAt b 1 || !inRange n 1 524288 || 524288 < first + n || !inRange i 10 1000000 || !T32.validCommit s.t32 start)) then false else
      decide (byteAt b 1 == 0)) (cmdB ([0, 0, 0, 0] ++ toLe 4 0 ++ toLe 4 1 ++ toLe 4 10 ++ toLe 4 1010000000)) live &&
    (fun (c : Cmd) (s : State) =>
      if !(accepted sampleSetConfigSpec c s) then false else
      let b := c.payload
      let k := byteAt b 0
      let first := le b 4 4
      let n := le b 8 4
      let i := le b 12 4
      let start : T32 := BitVec.ofNat 32 (le b 16 4)
      let f := addRate (s.sampleRate k) n i
      if !(!decide (15 < k || 1 < byteAt b 1 || !inRange n 1 524288 || 524288 < first + n || !inRange i 10 1000000 || !T32.validCommit s.t32 start)) then false else
      if !(!decide (byteAt b 1 == 0)) then false else
      !decide (50 * f.2 < f.1)) (cmdB ([0, 1, 0, 0] ++ toLe 4 0 ++ toLe 4 1 ++ toLe 4 10 ++ toLe 4 1010000000)) live &&
    (fun (c : Cmd) (s : State) =>
      if !(accepted schedCountersGetSpec c s) then false else
      true) (cmd 0 []) live &&
    (fun (c : Cmd) (s : State) =>
      if !(accepted qosMapSetSpec c s) then false else
      let l := (List.range 88).map (fun i => byteAt c.payload (4 + i))
      !decide (15 < byteAt c.payload 0 || l.any (fun v => v / 8 == 3))) (cmd 92 []) live &&
    (fun (c : Cmd) (s : State) =>
      if !(accepted qosPortSetSpec c s) then false else
      let b := c.payload
      let p := byteAt b 0
      if !(!decide (!s.portExists p)) then false else
      !decide (15 < byteAt b 1 || 3 < byteAt b 2 || byteAt b 3 / 8 == 3)) (cmd 36 []) live &&
    (fun (c : Cmd) (s : State) =>
      if !(accepted policerProfileSetSpec c s) then false else
      let b := c.payload
      let i := le b 0 2
      let f : PolProf := {
        mode := byteAt b 2, blind := bit (byteAt b 3) 0, yellowDrop := bit (byteAt b 3) 1, redDrop := bit (byteAt b 3) 2
        overhead := leS b 4 1, minLen := le b 6 2, cir := le b 8 4, eir := le b 12 4, cbs := le b 16 4, ebs := le b 20 4 }
      !decide (4095 < i || 2 < f.mode || f.overhead < -64 || 63 < f.overhead || 9728 < f.minLen || 1600000000 < f.cir || (f.mode != 0 && 1600000000 < f.eir) || 16777215 < f.cbs || 16777215 < f.ebs || (f.mode == 1 && f.eir < f.cir))) (cmd 24 []) live) = true := by decide

/-- States and operands that meet the hypotheses of clauses of SchedulingCommandsComplete. -/
theorem witness_SchedulingCommandsComplete_2 : (
    (fun (c : Cmd) (s : State) =>
      if !(accepted policerSetSpec c s) then false else
      let n := le c.payload 0 2
      !decide (!inRange n 1 1024)) (cmd 36 [(0, 1)]) live &&
    (fun (c : Cmd) (s : State) =>
      if !(accepted policerStatusGetSpec c s) then false else
      let i := le c.payload 0 4
      !decide (1048576 ≤ i)) (cmd 4 []) live) = true := by decide

/-- States and operands that meet the hypotheses of clauses of BufferPoolsComplete. -/
theorem witness_BufferPoolsComplete : (
    (fun (c : Cmd) (s : State) =>
      if !(accepted poolCarveSetSpec c s) then false else
      let l := (List.range 5).map (fun p => byteAt c.payload p)
      if !(!decide (l.sum != 128)) then false else
      !decide (s.pool.bufs.any (fun e => e.2.state == 1))) (cmd 8 [(0, 64), (1, 64)]) { live with mode.mode := mdConfigure } &&
    (fun (c : Cmd) (s : State) =>
      if !(accepted channelPoolSetSpec c s) then false else
      let b := c.payload
      let ch := byteAt b 0
      let fl := byteAt b 1
      let priv := bit fl 0
      let mins := (List.range 5).map (fun p => le b (8 + 4 * p) 2)
      let maxs := (List.range 5).map (fun p => le b (10 + 4 * p) 2)
      if !(!decide (!inRange ch 4 63)) then false else
      if !(!decide (4 < byteAt b 2 || !inRange (le b 4 2) 1 60000 || (bit fl 2 && (s.hif.channels.getD ch {}).inject) || (!priv && (List.range 5).any (fun p => maxs.getD p 0 < mins.getD p 0 || 32768 < maxs.getD p 0)))) then false else
      let old := s.pool.chans.getD ch {}
      let oldMin (p : Nat) : Nat := if old.privileged then 0 else old.mins.getD p 0
      let others (p : Nat) : Nat :=
        ((s.pool.chans.filter (fun e => e.1 != ch && 4 ≤ e.1 && !e.2.privileged)).map (fun e => e.2.mins.getD p 0)).sum
      !decide (!priv && (List.range 5).any (fun p => oldMin p < mins.getD p 0 && (s.poolCount p < 2 * (others p + mins.getD p 0) || s.poolFree p - s.poolRu p < mins.getD p 0 - oldMin p)))) (cmd 28 [(0, 4), (4, 1)]) live &&
    (fun (c : Cmd) (s : State) =>
      if !(accepted bufShareSpec c s) then false else
      let b := c.payload
      let h := le b 0 4
      let req := le b 4 4
      let n := byteAt b 8
      let owners := (List.range n).map (fun i => le b (12 + 4 * i) 4)
      if !(!decide (!inRange n 1 7 || (s.handle h).isNone || !isOwner req || !owners.all isOwner)) then false else
      !decide (!s.owns h req)) (cmdB (toLe 4 0 ++ toLe 4 0x80000 ++ [1, 0, 0, 0] ++ toLe 4 0x80001)) { live with pool.bufs := [(0, { state := 1, owners := [0x80000] })] } &&
    (fun (c : Cmd) (s : State) =>
      if !(accepted bufReleaseSpec c s) then false else
      let b := c.payload
      let n := le b 0 2
      let es := (List.range n).map (fun i => (le b (4 + 8 * i) 4, le b (8 + 8 * i) 4))
      !decide (!inRange n 1 256 || es.any (fun e => (s.handle e.1).isNone || !isOwner e.2))) (cmdB (toLe 4 1 ++ toLe 4 0 ++ toLe 4 0x80000)) { live with pool.bufs := [(0, { state := 1, owners := [0x80000] })] } &&
    (fun (c : Cmd) (s : State) =>
      if !(accepted bufInfoSpec c s) then false else
      match s.handle (le c.payload 0 4) with
      | some (_, _, _) =>
        true
      | _ => false) (cmd 4 []) live &&
    (fun (c : Cmd) (s : State) =>
      if !(accepted bufCellShareSetSpec c s) then false else
      !decide (1 < byteAt c.payload 0)) (cmd 4 []) live &&
    (fun (c : Cmd) (s : State) =>
      if !(accepted poolStatusGetSpec c s) then false else
      true) (cmd 0 []) live &&
    (fun (handle : Nat) (s : State) =>
      if !(!decide (!s.aux.pllLocked)) then false else
      match s.handle handle, s.liveBuf handle with
      | some (_, _, _), some b =>
        match b.dmaDone, b.owners.contains (ownerOf b.charge) with
        | some t, true =>
          decide (s.ended t (ms b.retainMs))
        | _, _ => false
      | _, _ => false) 0 { live with pool.bufs := [(0, { state := 1, owners := [0x80005], charge := 5, dmaDone := some 0 })] } &&
    (fun (port : Nat) (s : State) =>
      if !(!decide (96 ≤ port)) then false else
      !decide (!(s.portExists port && (s.prt port).up && s.dataPlaneOn))) 0 live &&
    (fun (node : Nat) (s : State) =>
      if !(!decide (!isNode node)) then false else
      !decide (!s.aux.pllLocked)) 0 live &&
    (fun (k : Nat) (s : State) =>
      if !(!decide (16 ≤ k)) then false else
      if !(!decide (!s.aux.pllLocked)) then false else
      let x := s.sched.samples.getD k {}
      match x.ended with
      | some _ =>
        true
      | _ => false) 0 { live with sched.samples := [(0, { enable := true, intervalUs := 10, ended := some { start := 0, rows := [], skipped := false } })] }) = true := by decide

/-- States and operands that meet the hypotheses of clauses of FabricCommandsComplete. -/
theorem witness_FabricCommandsComplete_1 : (
    (fun (c : Cmd) (s : State) =>
      if !(accepted fabricConfigSpec c s) then false else
      let b := c.payload
      !decide (!inRange (le b 2 2) 1 50 || !inRange (le b 4 2) 1 1000 || !inRange (byteAt b 6) 1 100 || !inRange (byteAt b 7) 1 100 || !inRange (le b 8 2) 1 1000 || 4 < byteAt b 10)) (cmd 12 [(2, 1), (4, 1), (6, 1), (7, 1), (8, 1)]) { live with mode.mode := mdConfigure } &&
    (fun (c : Cmd) (s : State) =>
      if !(accepted fabricPeerSetSpec c s) then false else
      let f := byteAt c.payload 0
      let on := byteAt c.payload 1
      !decide (1 < on || (on == 0 && f == s.fab.fdi))) (cmd 4 [(0, 1)]) live &&
    (fun (c : Cmd) (s : State) =>
      if !(accepted protectClassSetSpec c s) then false else
      let b := c.payload
      let get (i : Nat) : ProtClass := { prot := bit (byteAt b (4 * i)) 0, base := byteAt b (4 * i + 1), count := byteAt b (4 * i + 2) }
      let l := (List.range 8).map get
      !decide (l.any (fun x => 15 < x.base || !([1, 2, 4, 8].contains x.count) || 16 < x.base + x.count))) (cmd 32 ((List.range 8).map (fun i => (4 * i + 2, 1)))) live &&
    (fun (c : Cmd) (s : State) =>
      if !(accepted creditProfileSetSpec c s) then false else
      let b := c.payload
      let p := byteAt b 0
      if !(!decide (!(s.portExists p || p == 127))) then false else
      !decide (!inRange (byteAt b 1) 100 125 || !inRange (le b 4 4) 256 1048576 || (List.range 8).any (fun i => 2 < byteAt b (8 + 4 * i) || !inRange (le b (10 + 4 * i) 2) 1 4096))) (cmd 40 ([(1, 100), (5, 1)] ++ (List.range 8).map (fun i => (4 * i + 10, 1)))) live &&
    (fun (c : Cmd) (s : State) =>
      if !(accepted planeAdminSpec c s) then false else
      let k := byteAt c.payload 0
      let up := byteAt c.payload 1
      if !(!decide (1 < k || 1 < up)) then false else
      decide (up == 1)) (cmd 2 [(1, 1)]) live &&
    (fun (c : Cmd) (s : State) =>
      if !(accepted planeAdminSpec c s) then false else
      let k := byteAt c.payload 0
      let up := byteAt c.payload 1
      if !(!decide (1 < k || 1 < up)) then false else
      !decide (up == 1)) (cmd 2 []) live &&
    (fun (c : Cmd) (s : State) =>
      if !(accepted planeRestoreSpec c s) then false else
      let k := byteAt c.payload 0
      let f := le c.payload 2 2
      let l := if f == 0xFFFF then s.peerList else [f]
      if !(!decide (1 < k || (255 < f && f != 0xFFFF))) then false else
      if !(!decide (f != 0xFFFF && !s.isPeer f)) then false else
      !decide (l.any (fun g => !((s.peer g).plane k).protecting))) (cmd 4 [(2, 1)]) { live with fab.peers := [(1, { present := true, a := { protecting := true } })] } &&
    (fun (c : Cmd) (s : State) =>
      if !(accepted fabricLaneAdminSpec c s) then false else
      let l := byteAt c.payload 0
      let on := byteAt c.payload 1
      let x := s.lane l
      if !(!decide (127 < l || 1 < on)) then false else
      if !(decide (on == 0)) then false else
      decide (x.adminOut)) (cmd 2 []) { live with fab.lanes := [(0, { trained := true, lock := true, adminOut := true })] } &&
    (fun (c : Cmd) (s : State) =>
      if !(accepted fabricLaneAdminSpec c s) then false else
      let l := byteAt c.payload 0
      let on := byteAt c.payload 1
      let x := s.lane l
      if !(!decide (127 < l || 1 < on)) then false else
      if !(decide (on == 0)) then false else
      !decide (x.adminOut)) (cmd 2 []) live &&
    (fun (c : Cmd) (s : State) =>
      if !(accepted fabricLaneAdminSpec c s) then false else
      let l := byteAt c.payload 0
      let on := byteAt c.payload 1
      let x := s.lane l
      if !(!decide (127 < l || 1 < on)) then false else
      if !(!decide (on == 0)) then false else
      decide (!x.adminOut)) (cmd 2 [(1, 1)]) live &&
    (fun (c : Cmd) (s : State) =>
      if !(accepted fabricLaneAdminSpec c s) then false else
      let l := byteAt c.payload 0
      let on := byteAt c.payload 1
      let x := s.lane l
      if !(!decide (127 < l || 1 < on)) then false else
      if !(!decide (on == 0)) then false else
      !decide (!x.adminOut)) (cmd 2 [(1, 1)]) { live with fab.lanes := [(0, { trained := true, lock := true, adminOut := true })] } &&
    (fun (c : Cmd) (s : State) =>
      if !(accepted fabricStatusGetSpec c s) then false else
      true) (cmd 0 []) live) = true := by decide

/-- States and operands that meet the hypotheses of clauses of FabricCommandsComplete. -/
theorem witness_FabricCommandsComplete_2 : (
    (fun (c : Cmd) (s : State) =>
      if !(accepted fabricCountersGetSpec c s) then false else
      true) (cmd 0 []) live) = true := by decide

/-- States and operands that meet the hypotheses of clauses of FabricEventsComplete. -/
theorem witness_FabricEventsComplete_1 : (
    (fun (s : State) => !decide (!s.fabricOn || !s.ended s.fab.hbAt (us 10))) live &&
    (fun (rx : LaneCell) (s : State) =>
      s.takesCell 1 rx.lane rx.cell) (onLane (cell 1)) { live with fab.peers := [(1, { present := true })], fab.lanes := [(0, { trained := true, lock := true })] } &&
    (fun (peer : Nat) (plane : Nat) (s : State) =>
      if !(!decide (256 ≤ peer || 2 ≤ plane)) then false else
      if !(!decide (!s.aux.pllLocked)) then false else
      decide (s.hearingOver peer plane)) 1 0 { live with fab.peers := [(1, { present := true, a := { heard := true, lastTick := some 0 } })] } &&
    (fun (peer : Nat) (plane : Nat) (s : State) =>
      if !(!decide (256 ≤ peer || 2 ≤ plane)) then false else
      let x := (s.peer peer).plane plane
      !decide (!(s.fabricOn && s.isPeer peer && x.usable && s.ended x.usableAt (ms s.fab.upHoldMs)) || x.protecting || x.waitAck || x.failed)) 1 0 { live with fab.peers := [(1, { present := true, a := { usable := true } })] } &&
    (fun (rx : LaneCell) (s : State) =>
      s.takesCell 5 rx.lane rx.cell) (onLane (cell 5)) { live with fab.peers := [(1, { present := true })], fab.lanes := [(0, { trained := true, lock := true })] } &&
    (fun (rx : LaneCell) (s : State) =>
      s.takesCell 5 rx.lane rx.cell) (onLane (cell 5)) { live with fab.peers := [(1, { present := true })], fab.lanes := [(0, { trained := true, lock := true })] } &&
    (fun (peer : Nat) (plane : Nat) (s : State) =>
      if !(!decide (256 ≤ peer || 2 ≤ plane)) then false else
      let x := (s.peer peer).plane plane
      if !(!decide (!(s.fabricOn && s.isPeer peer && x.usable))) then false else
      if !(decide (x.waitAck && s.ended x.sentAt (us 100))) then false else
      decide (x.resends < 10)) 1 0 { live with fab.peers := [(1, { present := true, a := { usable := true, waitAck := true } })] } &&
    (fun (peer : Nat) (plane : Nat) (s : State) =>
      if !(!decide (256 ≤ peer || 2 ≤ plane)) then false else
      let x := (s.peer peer).plane plane
      if !(!decide (!(s.fabricOn && s.isPeer peer && x.usable))) then false else
      if !(decide (x.waitAck && s.ended x.sentAt (us 100))) then false else
      !decide (x.resends < 10)) 1 0 { live with fab.peers := [(1, { present := true, a := { usable := true, waitAck := true, resends := 10 } })] } &&
    (fun (peer : Nat) (plane : Nat) (s : State) =>
      if !(!decide (256 ≤ peer || 2 ≤ plane)) then false else
      let x := (s.peer peer).plane plane
      if !(!decide (!(s.fabricOn && s.isPeer peer && x.usable))) then false else
      if !(!decide (x.waitAck && s.ended x.sentAt (us 100))) then false else
      decide (x.failed && s.ended x.sentAt (ms 10))) 1 0 { live with fab.peers := [(1, { present := true, a := { usable := true, failed := true } })] } &&
    (fun (rx : LaneCell) (s : State) =>
      s.takesCell 4 rx.lane rx.cell) (onLane (cell 4)) { live with fab.peers := [(1, { present := true })], fab.lanes := [(0, { trained := true, lock := true })] } &&
    (fun (src : Nat) (msgId : Nat) (s : State) =>
      if !(!decide (256 ≤ src || 65536 ≤ msgId)) then false else
      if !(!decide (!s.aux.pllLocked)) then false else
      match s.fab.ctrlRx.get? (65536 * src + msgId) with
      | some x =>
        decide (s.ended x.since (ms 1))
      | _ => false) 1 0 { live with fab.ctrlRx := [(65536, { frags := [], count := 2, since := 0 })] } &&
    (fun (lane : Nat) (lockLost : Bool) (s : State) =>
      if !(!decide (128 ≤ lane)) then false else
      let x := s.lane lane
      if !(!decide (!s.aux.pllLocked || x.removed || !x.trained || x.adminOut)) then false else
      if !(decide (lockLost)) then false else
      decide (!x.lock && s.ended x.lockLost (ms 1))) 0 true { live with fab.lanes := [(0, { trained := true })] }) = true := by decide +kernel

/-- States and operands that meet the hypotheses of clauses of FabricEventsComplete. -/
theorem witness_FabricEventsComplete_2 : (
    (fun (lane : Nat) (lockLost : Bool) (s : State) =>
      if !(!decide (128 ≤ lane)) then false else
      let x := s.lane lane
      if !(!decide (!s.aux.pllLocked || x.removed || !x.trained || x.adminOut)) then false else
      !decide (lockLost)) 0 false live &&
    (fun (lane : Nat) (trained : Bool) (s : State) =>
      if !(!decide (128 ≤ lane)) then false else
      let x := s.lane lane
      let late := x.trainAt.any (fun t => s.ended t (ms 500))
      if !(!decide (!s.aux.pllLocked || x.trained || x.retryAt.isSome || !(trained || late || x.trainAt.isNone))) then false else
      decide (trained && !late)) 1 true live &&
    (fun (lane : Nat) (trained : Bool) (s : State) =>
      if !(!decide (128 ≤ lane)) then false else
      let x := s.lane lane
      let late := x.trainAt.any (fun t => s.ended t (ms 500))
      if !(!decide (!s.aux.pllLocked || x.trained || x.retryAt.isSome || !(trained || late || x.trainAt.isNone))) then false else
      if !(!decide (trained && !late)) then false else
      decide (x.attempts < 2)) 1 false live &&
    (fun (lane : Nat) (trained : Bool) (s : State) =>
      if !(!decide (128 ≤ lane)) then false else
      let x := s.lane lane
      let late := x.trainAt.any (fun t => s.ended t (ms 500))
      if !(!decide (!s.aux.pllLocked || x.trained || x.retryAt.isSome || !(trained || late || x.trainAt.isNone))) then false else
      if !(!decide (trained && !late)) then false else
      !decide (x.attempts < 2)) 1 false { live with fab.lanes := [(1, { attempts := 2 })] } &&
    (fun (lane : Nat) (s : State) =>
      if !(!decide (128 ≤ lane)) then false else
      let x := s.lane lane
      decide (s.aux.pllLocked && (x.retryAt.map (fun t => s.ended t (secs 10))).getD false)) 1 { live with fab.lanes := [(1, { retryAt := some 0 })] } &&
    (fun (lane : Nat) (s : State) =>
      if !(!decide (128 ≤ lane)) then false else
      !decide (!s.aux.pllLocked)) 0 live &&
    (fun (lane : Nat) (s : State) =>
      if !(!decide (128 ≤ lane)) then false else
      if !(!decide (!s.aux.pllLocked)) then false else
      !decide (!(s.lane lane).lock)) 0 live) = true := by decide

/-- States and operands that meet the hypotheses of clauses of CellsComplete. -/
theorem witness_CellsComplete_1 : (
    (fun (port : Nat) (s : State) =>
      if !(!decide (96 ≤ port)) then false else
      if !(!decide (!s.dataPlaneOn)) then false else
      match s.oldestTail port with
      | some _ =>
        true
      | _ => false) 0 { live with buf.queues := [(0, { pkts := [{ qpkt with tail := .good }] })] } &&
    (fun (s : State) => !decide (!s.dataPlaneOn)) live &&
    (fun (lane : Nat) (cell : Cell) (s : State) =>
      s.takesCell 0 lane cell) 0 (cell 0) { live with fab.peers := [(1, { present := true })], fab.lanes := [(0, { trained := true, lock := true })] } &&
    (fun (src : Nat) (plane : Nat) (lgroup : Nat) (s : State) =>
      if !(!decide (256 ≤ src || 2 ≤ plane || 8 ≤ lgroup)) then false else
      if !(!decide (!s.aux.pllLocked)) then false else
      let x := s.fab.reseq.getD (reseqKey src plane lgroup) {}
      decide (x.waiting.any (fun e => s.ended e.1 (us s.fab.reseqUs)))) 1 0 0 { live with fab.reseq := [(reseqKey 1 0 0, { waiting := [(1, cell 0)] })] } &&
    (fun (src : Nat) (plane : Nat) (lgroup : Nat) (tc : Nat) (prot : Bool) (s : State) =>
      if !(!decide (256 ≤ src || 2 ≤ plane || 8 ≤ lgroup || 16 ≤ tc || (8 ≤ tc && !prot))) then false else
      if !(!decide (!s.aux.pllLocked)) then false else
      let k := ctxKey src plane lgroup tc prot tc
      let x := s.fab.ctxs.getD k {}
      !decide (!x.open_ || !s.ended x.last (us s.fab.reasmUs))) 1 0 0 0 false { live with fab.ctxs := [(ctxKey 1 0 0 0 false 0, { open_ := true })] } &&
    (fun (src : Nat) (plane : Nat) (stream : Nat) (s : State) =>
      if !(!decide (256 ≤ src || 2 ≤ plane || 16 ≤ stream)) then false else
      if !(!decide (!s.aux.pllLocked)) then false else
      match takeCopy src plane stream s.fab.copies with
      | some (d, r) =>
        let e := ({ s with fab.copies := r }).eliminate src stream plane d.pseq
        match e.1 with
        | .deliver =>
          true
        | _ => false
      | _ => false) 1 0 0 { live with fab.copies := [{ src := 1, plane := 0, stream := 0, pseq := 0, prot := true, bytes := [], cells := 1 }], fab.fences := [(32, 0)] } &&
    (fun (src : Nat) (plane : Nat) (stream : Nat) (s : State) =>
      if !(!decide (256 ≤ src || 2 ≤ plane || 16 ≤ stream)) then false else
      if !(!decide (!s.aux.pllLocked)) then false else
      match takeCopy src plane stream s.fab.copies with
      | some (d, r) =>
        let e := ({ s with fab.copies := r }).eliminate src stream plane d.pseq
        match e.1 with
        | .duplicate =>
          true
        | _ => false
      | _ => false) 1 0 0 { live with fab.copies := [{ src := 1, plane := 0, stream := 0, pseq := 0, prot := true, bytes := [], cells := 1 }], fab.fences := [(32, 0)], fab.windows := [(16, { h := 0, seen := [0], last := 0 })] } &&
    (fun (src : Nat) (plane : Nat) (stream : Nat) (s : State) =>
      if !(!decide (256 ≤ src || 2 ≤ plane || 16 ≤ stream)) then false else
      if !(!decide (!s.aux.pllLocked)) then false else
      match takeCopy src plane stream s.fab.copies with
      | some (d, r) =>
        let e := ({ s with fab.copies := r }).eliminate src stream plane d.pseq
        match e.1 with
        | .drop _ =>
          true
        | _ => false
      | _ => false) 1 0 0 { live with fab.copies := [{ src := 1, plane := 0, stream := 0, pseq := 0, prot := true, bytes := [], cells := 1 }] } &&
    (fun (s : State) =>
      match s.fab.done with
      | _ :: _ =>
        !decide (!s.dataPlaneOn)
      | _ => false) { live with fab.done := [{ src := 1, plane := 0, stream := 0, pseq := 0, prot := true, bytes := [], cells := 1 }] } &&
    (fun (src : Nat) (stream : Nat) (s : State) =>
      if !(!decide (256 ≤ src || 16 ≤ stream)) then false else
      if !(!decide (!s.aux.pllLocked)) then false else
      match s.fab.windows.get? (16 * src + stream) with
      | some w =>
        decide (s.ended w.last (ms s.fab.windowMs))
      | _ => false) 1 0 { live with fab.windows := [(16, { h := 0, seen := [0], last := 0 })] } &&
    (fun (rx : LaneCell) (s : State) =>
      s.takesCell 2 rx.lane rx.cell) (onLane (cell 2)) { live with fab.peers := [(1, { present := true })], fab.lanes := [(0, { trained := true, lock := true })] } &&
    (fun (voq : Nat) (s : State) =>
      if !(!decide (262144 ≤ voq)) then false else
      let x := s.queue voq
      !decide (x.pkts.isEmpty || !s.fabricOn || !s.ended x.reqAt (us 50))) 0 { live with buf.queues := [(0, { pkts := [qpkt] })] }) = true := by decide +kernel

/-- States and operands that meet the hypotheses of clauses of CellsComplete. -/
theorem witness_CellsComplete_2 : (
    (fun (src : Nat) (voq : Nat) (s : State) =>
      if !(!decide (256 ≤ src || 262144 ≤ voq)) then false else
      if !(!decide (!s.aux.pllLocked)) then false else
      let p := voq / 8 % 128
      let key := 524288 * src + voq
      match (s.credit p).active.get? key with
      | some t =>
        decide (s.ended t (us 200))
      | _ => false) 1 0 { live with fab.credits := [(0, { active := [(524288, 0)] })] } &&
    (fun (port : Nat) (s : State) =>
      if !(!decide (!(port < 96 || port == 127))) then false else
      let x := s.credit port
      let dt := s.unitTime port
      let now := 1000 * s.time.ticks
      if !(!decide (dt == 0 || !s.fabricOn || now < x.budgetAt + dt || x.stop < s.portCells port || s.buf.reasmCells - s.buf.reasmUsed < 4096)) then false else
      let cls := (List.range 8).filter (fun tc => !(x.asking tc).isEmpty)
      match pickChild (cls.map (fun tc => (tc, (x.classes.getD tc {}).set, (x.classes.getD tc {}).sTag))) with
      | some tc =>
        match pickChild ((x.asking tc).map (fun k => (k, 2, (x.tags.getD k (0, 0)).1))) with
        | some _ =>
          true
        | _ => false
      | _ => false) 0 { live with fab.credits := [(0, { active := [(524288, 0)] })] } &&
    (fun (src : Nat) (s : State) =>
      if !(!decide (256 ≤ src)) then false else
      if !(!decide (!s.aux.pllLocked)) then false else
      match s.fab.grants.get? src with
      | some g =>
        decide (s.ended g.since (us 1))
      | _ => false) 1 { live with fab.grants := [(1, { entries := [(0, 1)], since := 0 })] } &&
    (fun (rx : LaneCell) (s : State) =>
      s.takesCell 3 rx.lane rx.cell) (onLane (cell 3)) { live with fab.peers := [(1, { present := true })], fab.lanes := [(0, { trained := true, lock := true })] } &&
    (fun (voq : Nat) (s : State) =>
      if !(!decide (262144 ≤ voq)) then false else
      if !(!decide (!s.aux.pllLocked)) then false else
      let x := s.queue voq
      !decide (!x.pkts.isEmpty || !((x.keepAt.map (fun t => s.ended t (us s.fab.keepUs))).getD false))) 0 { live with buf.queues := [(0, { keepAt := some 0 })] }) = true := by decide +kernel

/-- States and operands that meet the hypotheses of clauses of EditComplete. -/
theorem witness_EditComplete_1 : (
    (fun (c : Cmd) (s : State) =>
      if !(accepted editProgramSetSpec c s) then false else
      let p := le c.payload 0 2
      let n := byteAt c.payload 2
      !decide (!inRange p 1 1023 || !inRange n 1 32)) (cmd 8 [(0, 1), (2, 1)]) live &&
    (fun (c : Cmd) (s : State) =>
      if !(accepted mcastGroupSetSpec c s) then false else
      let b := c.payload
      let n := le b 2 2
      let map := le b 4 32
      let l := (List.range n).map (fun i => memberOf (le b (36 + 4 * i) 4))
      if !(!decide (1024 < n || l.any (fun m => 95 < m.port))) then false else
      decide (map == 0 && n == 0)) (cmd 36 []) live &&
    (fun (c : Cmd) (s : State) =>
      if !(accepted mcastGroupSetSpec c s) then false else
      let b := c.payload
      let g := le b 0 2
      let n := le b 2 2
      let map := le b 4 32
      let l := (List.range n).map (fun i => memberOf (le b (36 + 4 * i) 4))
      let old := s.edit.groups.getD g {}
      if !(!decide (1024 < n || l.any (fun m => 95 < m.port))) then false else
      if !(!decide (map == 0 && n == 0)) then false else
      if !(!decide (old.deletedAt.any (fun k => s.tbl.epoch ≤ k))) then false else
      if !(!decide (l.any (fun m => m.encap.any (fun e => !s.encapSet? e)))) then false else
      match (if n == 0 then some 0 else s.mcastRun n) with
      | some _ =>
        true
      | _ => false) (cmd 36 [(4, 1)]) live &&
    (fun (c : Cmd) (s : State) =>
      if !(accepted mcastGroupGetSpec c s) then false else
      true) (cmd 2 []) live &&
    (fun (c : Cmd) (s : State) =>
      if !(accepted editPortSetSpec c s) then false else
      let p := byteAt c.payload 0
      !decide (!s.portExists p)) (cmd 2 []) live &&
    (fun (c : Cmd) (s : State) =>
      if !(accepted mcastConfigSpec c s) then false else
      let r := le c.payload 0 4
      !decide (!inRange r 1 4800)) (cmd 4 [(0, 1)]) live &&
    (fun (c : Cmd) (s : State) =>
      if !(accepted editTestSpec c s) then false else
      let b := c.payload
      let e := le b 0 4
      let n := le b 10 2
      if !(!decide (!inRange n 14 9728 || 1 < byteAt b 8)) then false else
      !decide (bit e 31 && !(s.encap (e % 262144)).valid)) (cmd 26 [(10, 14)]) live &&
    (fun (c : Cmd) (s : State) =>
      if !(accepted editCountersGetSpec c s) then false else
      true) (cmd 0 []) live &&
    (fun (port : Nat) (s : State) =>
      if !(!decide (96 ≤ port)) then false else
      match (s.prt port).feQ with
      | _ :: _ =>
        if !(!decide (!s.dataPlaneOn)) then false else
        let es := s.engines port
        match es[s.edit.rr.getD port 0 % es.length]? with
        | none =>
          true
        | _ => false
      | _ => false) 0 { live with port.ports := [(0, { up := true, conditions := true, feQ := [qpkt] })], edit.dead := [0] } &&
    (fun (port : Nat) (s : State) =>
      if !(!decide (96 ≤ port)) then false else
      match (s.prt port).feQ with
      | p :: _ =>
        if !(!decide (!s.dataPlaneOn)) then false else
        let es := s.engines port
        match es[s.edit.rr.getD port 0 % es.length]? with
        | some _ =>
          let y := s.editFrame p.frame p.edit p.ce p.encap
          decide (y.code != 0)
        | _ => false
      | _ => false) 0 { live with port.ports := [(0, { up := true, feQ := [{ qpkt with encap := some 1 }] })] } &&
    (fun (port : Nat) (s : State) =>
      if !(!decide (96 ≤ port)) then false else
      match (s.prt port).feQ with
      | p :: _ =>
        if !(!decide (!s.dataPlaneOn)) then false else
        let es := s.engines port
        match es[s.edit.rr.getD port 0 % es.length]? with
        | some _ =>
          let y := s.editFrame p.frame p.edit p.ce p.encap
          !decide (y.code != 0)
        | _ => false
      | _ => false) 0 { live with port.ports := [(0, { up := true, conditions := true, feQ := [qpkt] })] } &&
    (fun (port : Nat) (s : State) =>
      if !(!decide (96 ≤ port)) then false else
      let q := s.prt port
      match q.txBuf with
      | f :: _ =>
        let now : T32 := s.t32 + BitVec.ofInt 32 q.txAdjust
        let held := match f.launch with | some l => !T32.reached now l | none => false
        !decide (!(s.portExists port && q.up && s.dataPlaneOn) || q.remoteFault || q.sending.isSome || held || q.lpiWake.any (fun t => s.time.ticks < t))
      | _ => false) 0 { live with port.ports := [(0, { up := true, txBuf := [{ frame := pay 60 [], rxT32 := 0 }] })] }) = true := by decide

/-- States and operands that meet the hypotheses of clauses of EditComplete. -/
theorem witness_EditComplete_2 : (
    (fun (group : Nat) (s : State) =>
      if !(!decide (!s.aux.pllLocked)) then false else
      decide (s.edit.oldBlocks.any (fun b => b.1 == group))) 0 { live with edit.oldBlocks := [(0, 0, 1)] } &&
    (fun (engine : Nat) (_ : Nat) (s : State) =>
      if !(!decide (100 ≤ engine)) then false else
      !decide (s.edit.dead.contains engine || !s.dataPlaneOn)) 0 0 live) = true := by decide

/-- States and operands that meet the hypotheses of clauses of HbmCommandsComplete. -/
theorem witness_HbmCommandsComplete : (
    (fun (c : Cmd) (s : State) =>
      if !(accepted hbmConfigSpec c s) then false else
      let b := c.payload
      !decide (!inRange (le b 0 4) 10 10000 || !inRange (le b 4 4) 60 86400 || !inRange (le b 8 2) 100 4000 || !inRange (le b 10 2) 10 10000)) (cmd 16 [(0, 10), (4, 60), (8, 100), (10, 10)]) live &&
    (fun (c : Cmd) (s : State) =>
      if !(accepted hbmStatusGetSpec c s) then false else
      let p := byteAt c.payload 0
      let n := byteAt c.payload 1
      !decide (!inRange n 1 128 || 128 < p + n)) (cmd 4 [(1, 1)]) live &&
    (fun (c : Cmd) (s : State) =>
      if !(accepted hbmRetrainSpec c s) then false else
      let k := byteAt c.payload 0
      let n := byteAt c.payload 1
      if !(!decide (3 < k || 15 < n)) then false else
      !decide (s.retraining)) (cmd 4 []) live &&
    (fun (c : Cmd) (s : State) =>
      if !(accepted hbmPcRetireSpec c s) then false else
      let p := byteAt c.payload 0
      if !(!decide (127 < p)) then false else
      decide ((s.pcOf p).state == 2)) (cmd 4 []) { live with hbm.pcs := [(0, { state := 2 })] } &&
    (fun (c : Cmd) (s : State) =>
      if !(accepted hbmPcRetireSpec c s) then false else
      let p := byteAt c.payload 0
      if !(!decide (127 < p)) then false else
      !decide ((s.pcOf p).state == 2)) (cmd 4 []) live &&
    (fun (c : Cmd) (s : State) =>
      if !(accepted hbmCountersGetSpec c s) then false else
      true) (cmd 0 []) live) = true := by decide

/-- States and operands that meet the hypotheses of clauses of HbmEventsComplete. -/
theorem witness_HbmEventsComplete_1 : (
    (fun (pc : Nat) (port : Nat) (bank : Nat) (row : Nat) (_ : Bool) (s : State) =>
      if !(!decide (128 ≤ pc || 7 ≤ port || 32 ≤ bank || 16384 ≤ row)) then false else
      !decide (!s.aux.pllLocked || (s.pcOf pc).state == 2)) 0 0 0 0 false live &&
    (fun (req : Nat) (s : State) =>
      if !(!decide (!s.aux.pllLocked)) then false else
      match s.hbm.reqs.find? (fun r => r.id == req) with
      | some r =>
        !decide (urgencyOf r.port (s.time.ticks - r.at_) ≤ r.urgency)
      | _ => false) 0 { live with hbm.reqs := [{ id := 0, pc := 0, port := 0, bank := 0, row := 0, write := false, at_ := 0 }] } &&
    (fun (pc : Nat) (bank : Nat) (s : State) =>
      if !(!decide (128 ≤ pc || 32 ≤ bank)) then false else
      if !(!decide (!s.aux.pllLocked || (s.stack (pc / 32)).selfRefresh || (s.pcOf pc).state == 2)) then false else
      let x := s.bank pc bank
      let urgent := s.hbm.reqs.any (fun r => r.pc == pc && r.bank == bank && 2 ≤ r.urgency)
      decide (urgent && x.owed < 8)) 0 0 { live with hbm.reqs := [{ id := 0, pc := 0, port := 0, bank := 0, row := 0, write := false, at_ := 0, urgency := 2 }] } &&
    (fun (pc : Nat) (bank : Nat) (s : State) =>
      if !(!decide (128 ≤ pc || 32 ≤ bank)) then false else
      if !(!decide (!s.aux.pllLocked || (s.stack (pc / 32)).selfRefresh || (s.pcOf pc).state == 2)) then false else
      let x := s.bank pc bank
      let urgent := s.hbm.reqs.any (fun r => r.pc == pc && r.bank == bank && 2 ≤ r.urgency)
      if !(!decide (urgent && x.owed < 8)) then false else
      decide (urgent)) 0 0 { live with hbm.reqs := [{ id := 0, pc := 0, port := 0, bank := 0, row := 0, write := false, at_ := 0, urgency := 2 }], hbm.banks := [(0, { owed := 8 })] } &&
    (fun (pc : Nat) (bank : Nat) (s : State) =>
      if !(!decide (128 ≤ pc || 32 ≤ bank)) then false else
      if !(!decide (!s.aux.pllLocked || (s.stack (pc / 32)).selfRefresh || (s.pcOf pc).state == 2)) then false else
      let x := s.bank pc bank
      let urgent := s.hbm.reqs.any (fun r => r.pc == pc && r.bank == bank && 2 ≤ r.urgency)
      if !(!decide (urgent && x.owed < 8)) then false else
      !decide (urgent)) 0 0 live &&
    (fun (stack : Nat) (s : State) =>
      if !(!decide (4 ≤ stack)) then false else
      if !(!decide (!s.aux.pllLocked)) then false else
      let x := s.stack stack
      if !(!decide (s.mode.mode != mdParked || x.selfRefresh)) then false else
      decide (x.closing)) 0 { live with mode.mode := mdParked, hbm.stackRecs := [(0, { closing := true })] } &&
    (fun (stack : Nat) (s : State) =>
      if !(!decide (4 ≤ stack)) then false else
      if !(!decide (!s.aux.pllLocked)) then false else
      let x := s.stack stack
      if !(!decide (s.mode.mode != mdParked || x.selfRefresh)) then false else
      if !(!decide (x.closing)) then false else
      decide (s.ended x.lastReq (us s.hbm.srIdleUs) && !s.hbm.reqs.any (fun r => r.pc / 32 == stack) && !s.hbm.banks.any (fun e => inStack stack e.1 && e.2.owed != 0))) 0 { live with mode.mode := mdParked } &&
    (fun (stack : Nat) (s : State) =>
      if !(!decide (4 ≤ stack)) then false else
      if !(!decide (!s.aux.pllLocked)) then false else
      let x := s.stack stack
      decide (x.selfRefresh && s.hbm.reqs.any (fun r => r.pc / 32 == stack) && s.ended x.entryAt 300)) 0 { live with hbm.reqs := [{ id := 0, pc := 0, port := 0, bank := 0, row := 0, write := false, at_ := 0 }], hbm.stackRecs := [(0, { selfRefresh := true })] } &&
    (fun (channel : Nat) (from_ : Nat) (s : State) =>
      if !(!decide (64 ≤ channel)) then false else
      if !(!decide (!s.aux.pllLocked)) then false else
      let x := s.hbmChan channel
      if !(!decide (x.training.isSome || !x.retry.contains from_)) then false else
      if !(decide (x.replay.isSome)) then false else
      decide (3 ≤ x.failed + 1)) 0 0 { live with hbm.chans := [(0, { retry := [0], replay := some 0, failed := 2 })] } &&
    (fun (channel : Nat) (from_ : Nat) (s : State) =>
      if !(!decide (64 ≤ channel)) then false else
      if !(!decide (!s.aux.pllLocked)) then false else
      let x := s.hbmChan channel
      if !(!decide (x.training.isSome || !x.retry.contains from_)) then false else
      if !(decide (x.replay.isSome)) then false else
      !decide (3 ≤ x.failed + 1)) 0 0 { live with hbm.chans := [(0, { retry := [0], replay := some 0, failed := 1 })] } &&
    (fun (channel : Nat) (from_ : Nat) (s : State) =>
      if !(!decide (64 ≤ channel)) then false else
      if !(!decide (!s.aux.pllLocked)) then false else
      let x := s.hbmChan channel
      if !(!decide (x.training.isSome || !x.retry.contains from_)) then false else
      !decide (x.replay.isSome)) 0 0 { live with hbm.chans := [(0, { retry := [0] })] } &&
    (fun (pc : Nat) (bank : Nat) (row : Nat) (_ : Bool) (_ : Bool) (_ : HbmUse) (s : State) =>
      if !(!decide (128 ≤ pc || 32 ≤ bank || 16384 ≤ row)) then false else
      !decide ((s.pcOf pc).state == 2 || !s.aux.pllLocked)) 0 0 0 false false (.counter 0) live) = true := by decide

/-- States and operands that meet the hypotheses of clauses of HbmEventsComplete. -/
theorem witness_HbmEventsComplete_2 : (
    (fun (channel : Nat) (marginLost : Bool) (s : State) =>
      if !(!decide (64 ≤ channel)) then false else
      !decide (!marginLost || !s.aux.pllLocked || (s.hbmChan channel).training.isSome || ((s.pcOf (2 * channel)).state == 2 && (s.pcOf (2 * channel + 1)).state == 2))) 0 true live &&
    (fun (channel : Nat) (s : State) =>
      if !(!decide (64 ≤ channel)) then false else
      decide (s.aux.pllLocked && s.retrainDue channel && !(s.hbmChan channel).queued)) 0 live &&
    (fun (channel : Nat) (s : State) =>
      if !(!decide (64 ≤ channel)) then false else
      if !(!decide (!s.aux.pllLocked)) then false else
      if !(!decide ((s.hbmChan channel).training.isSome || !(s.hbmChan channel).evacAt.any (fun t => s.evacCost channel ≤ s.meterRate 5 * (s.time.ticks - t)))) then false else
      match s.relocateAll (s.evacLeft channel) with
      | some _ =>
        true
      | _ => false) 0 { live with hbm.chans := [(0, { evacAt := some 0 })] } &&
    (fun (channel : Nat) (s : State) =>
      if !(!decide (64 ≤ channel)) then false else
      if !(!decide (!s.aux.pllLocked)) then false else
      let x := s.hbmChan channel
      match x.evacAt with
      | some t =>
        !decide (!s.ended t (ms s.hbm.evacMs) || x.training.isSome)
      | _ => false) 0 { live with hbm.chans := [(0, { evacAt := some 0 })] } &&
    (fun (segment : Nat) (s : State) =>
      if !(!decide (!s.aux.pllLocked)) then false else
      decide (s.hbm.oldSegs.contains segment)) 0 { live with hbm.oldSegs := [0] } &&
    (fun (channel : Nat) (_ : Bool) (_ : Bool) (s : State) =>
      if !(!decide (64 ≤ channel)) then false else
      if !(!decide (!s.aux.pllLocked)) then false else
      let x := s.hbmChan channel
      let start := x.training.isNone && !x.started && s.mode.mode == mdConfigure
      !decide (!start && x.training.isNone)) 0 false false { live with mode.mode := mdConfigure } &&
    (fun (access : Nat) (correctable : Option Bool) (_ : Bool) (s : State) =>
      if !(!decide (8388608 ≤ access)) then false else
      let p := (s.pcOf (access % 128)).remapped.getD (access % 128)
      match correctable with
      | some _ =>
        !decide (!s.aux.pllLocked || s.pcWaits p)
      | _ => false) 0 (some true) false live &&
    (fun (stack : Nat) (_ : Nat) (s : State) =>
      if !(!decide (4 ≤ stack)) then false else
      !decide (!s.aux.pllLocked)) 0 0 live &&
    (fun (channel : Nat) (s : State) =>
      if !(!decide (64 ≤ channel)) then false else
      if !(!decide (!s.aux.pllLocked)) then false else
      let x := s.hbmChan channel
      !decide (x.replay.isNone)) 0 { live with hbm.chans := [(0, { replay := some 0 })] } &&
    (fun (pc : Nat) (bank : Nat) (s : State) =>
      if !(!decide (128 ≤ pc || 32 ≤ bank)) then false else
      if !(!decide (!s.aux.pllLocked)) then false else
      let x := s.bank pc bank
      match x.repairs with
      | (_, spare, _) :: _ =>
        decide (spare)
      | _ => false) 0 0 { live with hbm.banks := [(0, { repairs := [(0, true, true)] })] } &&
    (fun (pc : Nat) (bank : Nat) (s : State) =>
      if !(!decide (128 ≤ pc || 32 ≤ bank)) then false else
      if !(!decide (!s.aux.pllLocked)) then false else
      let x := s.bank pc bank
      match x.repairs with
      | (_, spare, _) :: _ =>
        !decide (spare)
      | _ => false) 0 0 { live with hbm.banks := [(0, { repairs := [(0, false, true)] })] }) = true := by decide

/-- States and operands that meet the hypotheses of clauses of TimeComplete. -/
theorem witness_TimeComplete_1 : (
    (fun (c : Cmd) (s : State) =>
      if !(accepted timeGetSpec c s) then false else
      true) (cmd 0 []) live &&
    (fun (c : Cmd) (s : State) =>
      if !(accepted timeIncrementSetSpec c s) then false else
      let v := le c.payload 0 5
      !decide (!inRange v 0x0154FDF3B6 0x0155ACB6F4)) (cmdB (toLe 5 0x0155555555 ++ zeros 3)) live &&
    (fun (c : Cmd) (s : State) =>
      if !(accepted timeStepSpec c s) then false else
      let off := leS c.payload 0 4
      let t : T32 := BitVec.ofNat 32 (le c.payload 4 4)
      if !(!decide (t != 0 && !T32.validCommit s.t32 t)) then false else
      if !(!decide (t != 0 && s.time.step.isSome)) then false else
      decide (s.time.stepThreshold < off.natAbs)) (cmd 8 [(2, 16)]) live &&
    (fun (c : Cmd) (s : State) =>
      if !(accepted timeStepSpec c s) then false else
      let off := leS c.payload 0 4
      let t : T32 := BitVec.ofNat 32 (le c.payload 4 4)
      if !(!decide (t != 0 && !T32.validCommit s.t32 t)) then false else
      if !(!decide (t != 0 && s.time.step.isSome)) then false else
      if !(!decide (s.time.stepThreshold < off.natAbs)) then false else
      decide (!s.stepFits off)) (cmdB (toLe 4 (4294967296 - 1000000) ++ toLe 4 0)) { live with tel.perfOp := some { op := 0, fe := 0, tm := 0, t := 2999500000 } } &&
    (fun (c : Cmd) (s : State) =>
      if !(accepted timeStepSpec c s) then false else
      let off := leS c.payload 0 4
      let t : T32 := BitVec.ofNat 32 (le c.payload 4 4)
      if !(!decide (t != 0 && !T32.validCommit s.t32 t)) then false else
      if !(!decide (t != 0 && s.time.step.isSome)) then false else
      if !(!decide (s.time.stepThreshold < off.natAbs)) then false else
      if !(!decide (!s.stepFits off)) then false else
      decide (t != 0)) (cmd 8 [(7, 64)]) live &&
    (fun (c : Cmd) (s : State) =>
      if !(accepted timeStepSpec c s) then false else
      let off := leS c.payload 0 4
      let t : T32 := BitVec.ofNat 32 (le c.payload 4 4)
      if !(!decide (t != 0 && !T32.validCommit s.t32 t)) then false else
      if !(!decide (t != 0 && s.time.step.isSome)) then false else
      if !(!decide (s.time.stepThreshold < off.natAbs)) then false else
      if !(!decide (!s.stepFits off)) then false else
      !decide (t != 0)) (cmd 8 []) live &&
    (fun (c : Cmd) (s : State) =>
      if !(accepted timeSetSpec c s) then false else
      let v := le c.payload 0 4
      let d : Int := T32.diff (BitVec.ofNat 32 v) s.t32
      decide (!s.stepFits d)) (cmdB (toLe 4 999000000 ++ toLe 4 0)) { live with mode.mode := mdConfigure, tel.perfOp := some { op := 0, fe := 0, tm := 0, t := 2999500000 } } &&
    (fun (c : Cmd) (s : State) =>
      if !(accepted timeSetSpec c s) then false else
      let v := le c.payload 0 4
      let d : Int := T32.diff (BitVec.ofNat 32 v) s.t32
      !decide (!s.stepFits d)) (cmd 8 []) { live with mode.mode := mdConfigure } &&
    (fun (c : Cmd) (s : State) =>
      if !(accepted timeConfigSpec c s) then false else
      let t := le c.payload 0 4
      let h := le c.payload 4 2
      !decide (!inRange t 1000 1000000000 || !inRange h 1 600)) (cmd 8 [(1, 4), (4, 1)]) live &&
    (fun (c : Cmd) (s : State) =>
      if !(accepted tsPortSetSpec c s) then false else
      let p := byteAt c.payload 0
      !decide (!s.portExists p)) (cmd 8 []) live &&
    (fun (c : Cmd) (s : State) =>
      if !(accepted ppsConfigSpec c s) then false else
      let b := c.payload
      let outEn := bit (byteAt b 0) 1
      let t : T32 := BitVec.ofNat 32 (le b 8 4)
      let period := le b 12 4
      let width := le b 16 4
      !decide ((outEn && !T32.validCommit s.t32 t) || !inRange period 1000000 1000000000 || width < 1000 || period < 2 * width)) (cmdB (zeros 12 ++ toLe 4 1000000 ++ toLe 4 1000)) live &&
    (fun (c : Cmd) (s : State) =>
      if !(accepted timeCountersGetSpec c s) then false else
      true) (cmd 0 []) live) = true := by decide

/-- States and operands that meet the hypotheses of clauses of TimeComplete. -/
theorem witness_TimeComplete_2 : (
    (fun (s : State) =>
      if !(!decide (!s.aux.pllLocked)) then false else
      match s.time.step with
      | some x =>
        !decide (!s.t32.reached x.t)
      | _ => false) { live with time.step := some { offset := 1, t := 0 } } &&
    (fun (s : State) =>
      if !(!decide (!s.aux.pllLocked)) then false else
      decide (!s.time.holdover && s.ended s.time.incTick (secs s.time.holdoverS))) { live with time.holdover := false } &&
    (fun (s : State) =>
      decide (s.ppsDrives && s.t32.reached (s.time.ppsTarget - BitVec.ofInt 32 s.time.ppsOutAdjust))) { live with time.ppsOutEn := true } &&
    (fun (s : State) =>
      decide (s.time.ppsOut && s.ended s.time.ppsRise (ceilDiv (s.time.ppsWidth * 3) 4))) { live with time.ppsOut := true } &&
    (fun (s : State) =>
      if !(!decide (!s.time.ppsInEn || s.time.ppsInMasked || !s.aux.pllLocked)) then false else
      decide (s.time.ppsLast.any (fun a => s.time.ticks < a.1 + ms 500))) { live with time.ppsInEn := true, time.ppsLast := some (10000000000000, 0) } &&
    (fun (s : State) =>
      if !(!decide (!s.time.ppsInEn || s.time.ppsInMasked || !s.aux.pllLocked)) then false else
      !decide (s.time.ppsLast.any (fun a => s.time.ticks < a.1 + ms 500))) { live with time.ppsInEn := true } &&
    (fun (s : State) =>
      if !(!decide (!s.aux.pllLocked)) then false else
      match s.time.ppsLast with
      | some (a, _) =>
        decide (s.time.ppsInEn && !s.time.ppsInLost && s.ended a (ms 1500))
      | _ => false) { live with time.ppsInEn := true, time.ppsLast := some (0, 0) }) = true := by decide

/-- States and operands that meet the hypotheses of clauses of HierarchyCommandsComplete. -/
theorem witness_HierarchyCommandsComplete : (
    (fun (c : Cmd) (s : State) =>
      if !(accepted hierarchyConfigSpec c s) then false else
      let b := c.payload
      let el := le b 4 2
      let co := le b 6 2
      let ta := le b 8 2
      let lv := le b 10 2
      let re := le b 12 2
      !decide (1 < byteAt b 0 || !inRange el 500 10000 || !inRange co 2 100 || !inRange ta 10 1000 || !inRange lv 10 10000 || lv ≤ ta || !inRange re 1 600)) (cmdB (zeros 4 ++ toLe 2 500 ++ toLe 2 2 ++ toLe 2 10 ++ toLe 2 11 ++ toLe 2 1 ++ zeros 2)) { live with mode.mode := mdConfigure } &&
    (fun (c : Cmd) (s : State) =>
      if !(accepted hierStatusGetSpec c s) then false else
      true) (cmd 0 []) live &&
    (fun (c : Cmd) (s : State) =>
      if !(accepted hierDeputySetSpec c s) then false else
      let f := byteAt c.payload 0
      if !(!decide (!s.others.contains f)) then false else
      !decide (s.priorityOf f == 0)) (cmd 4 [(0, 1)]) mgr &&
    (fun (c : Cmd) (s : State) =>
      if !(accepted hierModeChangeSpec c s) then false else
      let b := c.payload
      let m := byteAt b 0
      let t0 : T32 := BitVec.ofNat 32 (le b 4 4)
      let bits := le b 8 32
      let l := bitmapOf bits 32
      let e := (s.hier.epoch + 1) % 4294967296
      let own := s.fab.fdi
      if !(!decide (!inRange m mdForwarding mdMaintenance || (t0 != 0 && !T32.validCommit s.t32 t0) || l.isEmpty || l.any (fun f => !s.hier.table.contains f))) then false else
      if !(!decide (s.hier.change.isSome)) then false else
      decide (bit bits own && s.changeStatus e m != stOk)) (cmd 40 [(0, 5), (8, 1)]) mgr &&
    (fun (c : Cmd) (s : State) =>
      if !(accepted hierModeChangeSpec c s) then false else
      let b := c.payload
      let m := byteAt b 0
      let t0 : T32 := BitVec.ofNat 32 (le b 4 4)
      let bits := le b 8 32
      let l := bitmapOf bits 32
      let e := (s.hier.epoch + 1) % 4294967296
      let own := s.fab.fdi
      if !(!decide (!inRange m mdForwarding mdMaintenance || (t0 != 0 && !T32.validCommit s.t32 t0) || l.isEmpty || l.any (fun f => !s.hier.table.contains f))) then false else
      if !(!decide (s.hier.change.isSome)) then false else
      !decide (bit bits own && s.changeStatus e m != stOk)) (cmd 40 [(0, 6), (8, 2)]) mgr &&
    (fun (c : Cmd) (s : State) =>
      if !(accepted hierMemberRemoveSpec c s) then false else
      let f := byteAt c.payload 0
      !decide (!s.others.contains f)) (cmd 4 [(0, 1)]) mgr &&
    (fun (c : Cmd) (s : State) =>
      if !(accepted hierCountersGetSpec c s) then false else
      true) (cmd 0 []) live &&
    (fun (c : Cmd) (s : State) =>
      if !(accepted hierClaimSpec c s) then false else
      decide (s.isWorker && s.hier.priority != 0 && s.quorate && s.managerSilent)) (cmd 0 []) { worker with hier.members := [] } &&
    (fun (c : Cmd) (s : State) =>
      if !(accepted hierDistributeSpec c s) then false else
      let bits := le c.payload 0 32
      let l := bitmapOf bits 32
      let e := carried c.payload
      let id := s.hier.relaySeq
      if !(!decide (!([3, 4, 5, 6, 7, 0xA].contains (e.opcode / 256)) || l.any (fun f => !s.hier.table.contains f))) then false else
      let b := s.startDist bits e
      match b.distOver id with
      | some _ =>
        true
      | _ => false) (cmd 64 [(32, 1), (33, 3)]) mgr &&
    (fun (c : Cmd) (s : State) =>
      if !(accepted hierDistributeSpec c s) then false else
      let bits := le c.payload 0 32
      let l := bitmapOf bits 32
      let e := carried c.payload
      let id := s.hier.relaySeq
      if !(!decide (!([3, 4, 5, 6, 7, 0xA].contains (e.opcode / 256)) || l.any (fun f => !s.hier.table.contains f))) then false else
      let b := s.startDist bits e
      match b.distOver id with
      | none =>
        true
      | _ => false) (cmd 64 [(0, 2), (32, 1), (33, 3)]) mgr &&
    (fun (path : Path) (h : CoordHdr) (_ : Nat) (_ : Nat) (_ : Nat) (_ : CmdEntry) (_ : Bytes) (s : State) =>
      s.hears path 0x09 h) 0 (hdr 0x09) 0 0 0 { opcode := 1, cmd := cmd 0 [] } [] mgr) = true := by decide +kernel

/-- States and operands that meet the hypotheses of clauses of CoordinationMessagesComplete. -/
theorem witness_CoordinationMessagesComplete_1 : (
    (fun (path : Path) (h : CoordHdr) (_ : Int) (_ : BitVec 40) (_ : Option Int) (s : State) =>
      s.hears path 0x20 h) 0 (hdr 32) 0 0 none mgr &&
    (fun (path : Path) (h : CoordHdr) (_ : T32) (_ : Nat) (_ : Nat) (_ : Nat) (_ : Nat) (_ : Nat) (s : State) =>
      s.hears path 0x01 h) 0 (hdr 0x01) 0 0 0 0 0 0 mgr &&
    (fun (path : Path) (h : CoordHdr) (_ : Nat) (_ : Nat) (s : State) => s.hears path 0x02 h) 0 (hdr 0x02) 0 0 mgr &&
    (fun (path : Path) (h : CoordHdr) (_ : Nat) (_ : Nat) (s : State) => s.hears path 0x03 h) 0 (hdr 0x03) 1 0 mgr &&
    (fun (path : Path) (h : CoordHdr) (_ : Nat) (_ : Nat) (_ : Nat) (_ : Nat) (_ : Nat) (_ : Nat) (s : State) =>
      s.hears path 0x04 h) 0 (hdr 0x04) 1 1 0 0 0 3 mgr &&
    (fun (path : Path) (h : CoordHdr) (_ : Nat) (_ : Nat) (_ : T32) (s : State) =>
      s.hears path 0x05 h) 0 (hdr 0x05) 3 0xFF 0 mgr &&
    (fun (path : Path) (h : CoordHdr) (_ : Nat) (s : State) => s.hears path 0x06 h) 0 (hdr 0x06) 0 mgr &&
    (fun (path : Path) (h : CoordHdr) (_ : Nat) (s : State) => s.hears path 0x07 h) 0 (hdr 0x07) 0 mgr &&
    (fun (path : Path) (h : CoordHdr) (_ : Nat) (_ : Nat) (s : State) => s.hears path 0x08 h) 0 (hdr 0x08) 3 0xFF mgr &&
    (fun (path : Path) (h : CoordHdr) (_ : Nat) (_ : Nat) (_ : Nat) (_ : Nat) (_ : Nat) (_ : Nat) (_ : Nat) (_ : Nat) (_ : Bytes) (s : State) =>
      s.hears path 0x0A h) 0 (hdr 0x0A) 0 0 0 0 0 0 0 0 [] mgr &&
    (fun (path : Path) (h : CoordHdr) (_ : Nat) (_ : Nat) (_ : Bytes) (s : State) =>
      s.hears path 0x0B h) 0 (hdr 0x0B) 0 0 [] mgr &&
    (fun (path : Path) (h : CoordHdr) (_ : Nat) (_ : Nat) (_ : T32) (_ : Nat) (s : State) =>
      s.hears path 0x10 h) 0 (hdr 0x10) 1 6 0 3 mgr) = true := by decide +kernel

/-- States and operands that meet the hypotheses of clauses of CoordinationMessagesComplete. -/
theorem witness_CoordinationMessagesComplete_2 : (
    (fun (path : Path) (h : CoordHdr) (_ : Nat) (s : State) => s.hears path 0x11 h) 0 (hdr 0x11) 1 mgr &&
    (fun (path : Path) (h : CoordHdr) (_ : Nat) (_ : Nat) (s : State) => s.hears path 0x12 h) 0 (hdr 0x12) 1 0 mgr &&
    (fun (path : Path) (h : CoordHdr) (_ : Nat) (_ : Nat) (_ : T32) (s : State) =>
      s.hears path 0x13 h) 0 (hdr 0x13) 1 6 0 mgr &&
    (fun (path : Path) (h : CoordHdr) (_ : Nat) (s : State) => s.hears path 0x14 h) 0 (hdr 0x14) 1 mgr &&
    (fun (path : Path) (h : CoordHdr) (_ : Nat) (s : State) => s.hears path 0x15 h) 0 (hdr 0x15) 1 mgr &&
    (fun (path : Path) (h : CoordHdr) (_ : Nat) (_ : Nat) (s : State) => s.hears path 0x18 h) 0 (hdr 0x18) 0 0xFF mgr &&
    (fun (path : Path) (h : CoordHdr) (_ : Bytes) (_ : Nat) (s : State) => s.hears path 0x30 h) 0 (hdr 0x30) [] 0 mgr &&
    (fun (path : Path) (h : CoordHdr) (_ : Nat) (_ : Nat) (s : State) => s.hears path 0x32 h) 0 (hdr 0x32) 0 0 mgr) = true := by decide +kernel

/-- States and operands that meet the hypotheses of clauses of HierarchyTimersComplete. -/
theorem witness_HierarchyTimersComplete_1 : (
    (fun (relayId : Nat) (s : State) =>
      match s.hier.relays.find? (fun r => r.id == relayId) with
      | some r =>
        decide (s.coordOn && s.ended r.at_ (secs s.hier.relayS))
      | _ => false) 0 { mgr with hier.relays := [{ id := 0, fdi := 1, at_ := 0 }] } &&
    (fun (s : State) => !decide (!s.coordOn || !s.isManager || !s.ended s.hier.syncAt 46875000)) mgr &&
    (fun (s : State) => decide (s.coordOn && s.isWorker && !s.time.syncLost && s.ended s.time.lastSync (secs 1))) worker &&
    (fun (s : State) =>
      !decide (!s.coordOn || s.hier.election.isNone)) { mgr with hier.role := 0, mode.mode := mdConfigure, hier.priority := 1, hier.election := some (0, 1) } &&
    (fun (s : State) =>
      let electing := s.hier.role == 0 && s.hier.priority != 0 && s.mode.mode == mdConfigure &&
        (s.hier.election.map Prod.snd) == some 2
      !decide (!s.coordOn || !(electing || s.isManager) || !s.ended s.hier.announceAt (ms 100))) mgr &&
    (fun (s : State) =>
      match s.hier.rejectedAt, s.hier.joining with
      | some t, some _ =>
        decide (s.coordOn && s.hier.role == 0 && s.mode.mode == mdConfigure && s.ended t (secs 10))
      | _, _ => false) { mgr with hier.role := 0, mode.mode := mdConfigure, hier.priority := 1, hier.rejectedAt := some 0, hier.joining := some 1 } &&
    (fun (s : State) =>
      if !(!decide (!s.coordOn || !(s.isManager || s.isWorker) || !s.ended s.hier.hbAt (ms 1))) then false else
      decide (s.isManager)) mgr &&
    (fun (s : State) =>
      if !(!decide (!s.coordOn || !(s.isManager || s.isWorker) || !s.ended s.hier.hbAt (ms 1))) then false else
      !decide (s.isManager)) worker &&
    (fun (peer : Nat) (link : Nat) (s : State) =>
      if !(!decide (256 ≤ peer || 2 ≤ link)) then false else
      decide (s.coordOn && s.linkOver peer link)) 1 0 mgr &&
    (fun (peer : Nat) (s : State) =>
      if !(!decide (256 ≤ peer)) then false else
      match (s.member peer).silentAt with
      | some t =>
        decide (s.coordOn && s.isManager && s.others.contains peer && s.ended t (ms s.hier.leaveMs))
      | _ => false) 1 { mgr with hier.members := [(1, { silentAt := some 0 })] } &&
    (fun (s : State) =>
      match s.hier.manager.bind (fun m => (s.member m).silentAt) with
      | some t =>
        if !(!decide (!s.coordOn || s.hier.role != 3 || !s.managerSilent || !s.ended t (ms s.hier.takeoverMs) || (t < s.hier.withheldAt && !s.ended s.hier.withheldAt (ms s.hier.takeoverMs)))) then false else
        decide (s.quorate)
      | _ => false) { worker with hier.role := 3, hier.members := [(1, { silentAt := some 0 })] } &&
    (fun (s : State) =>
      match s.hier.manager.bind (fun m => (s.member m).silentAt) with
      | some t =>
        if !(!decide (!s.coordOn || s.hier.role != 3 || !s.managerSilent || !s.ended t (ms s.hier.takeoverMs) || (t < s.hier.withheldAt && !s.ended s.hier.withheldAt (ms s.hier.takeoverMs)))) then false else
        !decide (s.quorate)
      | _ => false) { worker with hier.role := 3, hier.table := [0, 1, 2], hier.members := [(1, { silentAt := some 0 })] }) = true := by decide

/-- States and operands that meet the hypotheses of clauses of HierarchyTimersComplete. -/
theorem witness_HierarchyTimersComplete_2 : (
    (fun (s : State) =>
      match s.hier.change with
      | some c =>
        match (bitmapOf c.members 32).find? (fun f => !c.ready.contains f) with
        | some _ =>
          decide (s.isManager && c.decided.isNone && s.ended c.at_ (ms 5))
        | _ => false
      | _ => false) { mgr with hier.change := some { epoch := 1, mode := 6, t := 0, members := 3, ready := [0], at_ := 0 } } &&
    (fun (s : State) =>
      match s.hier.staged with
      | some x =>
        decide (s.coordOn && x.committed && s.t32.reached x.t)
      | _ => false) { mgr with hier.staged := some { epoch := 1, mode := 6, t := 0, members := 3, committed := true } } &&
    (fun (s : State) =>
      match s.hier.staged with
      | some x =>
        decide (s.coordOn && s.isWorker && !x.committed && !x.uncertain && s.t32.reached (x.t + 100000000#32))
      | _ => false) { worker with hier.staged := some { epoch := 1, mode := 6, t := 0, members := 3 } } &&
    (fun (s : State) =>
      match s.hier.staged, s.hier.manager with
      | some x, some _ =>
        decide (s.coordOn && s.isWorker && x.uncertain && !x.committed && s.ended s.hier.queryAt (ms 10))
      | _, _ => false) { worker with hier.staged := some { epoch := 1, mode := 6, t := 0, members := 3, uncertain := true } } &&
    (fun (s : State) =>
      match s.hier.change with
      | some c =>
        decide (s.coordOn && s.isManager && c.decided == some true && s.t32.reached (c.t + 1000000#32) && (c.lastResend == 0 || s.ended c.lastResend (ms 10)))
      | _ => false) { mgr with hier.change := some { epoch := 1, mode := 6, t := 0, members := 3, ready := [0], at_ := 0, decided := some true } } &&
    (fun (s : State) =>
      match s.hier.change with
      | some c =>
        decide (c.decided == some true && !c.completed && s.t32.reached (c.t + 100000000#32))
      | _ => false) { mgr with hier.change := some { epoch := 1, mode := 6, t := 0, members := 3, ready := [0], at_ := 0, decided := some true } } &&
    (fun (link : Nat) (_ : State) => !decide (2 ≤ link)) 0 live &&
    (fun (link : Nat) (s : State) =>
      if !(!decide (2 ≤ link)) then false else
      !decide (s.hier.linkUp.contains link || !s.aux.pllLocked)) 0 live &&
    (fun (msgSeq : Nat) (s : State) =>
      match s.hier.unacked.find? (fun u => u.seq == msgSeq) with
      | some u =>
        if !(!decide (!s.coordOn || !s.ended u.at_ (ms 1))) then false else
        decide (8 ≤ u.resends)
      | _ => false) 0 { mgr with hier.unacked := [{ seq := 0, msg := { type := 3, dst := some 1, ack := true, body := [] }, resends := 8, at_ := 0 }] } &&
    (fun (msgSeq : Nat) (s : State) =>
      match s.hier.unacked.find? (fun u => u.seq == msgSeq) with
      | some u =>
        if !(!decide (!s.coordOn || !s.ended u.at_ (ms 1))) then false else
        !decide (8 ≤ u.resends)
      | _ => false) 0 { mgr with hier.unacked := [{ seq := 0, msg := { type := 3, dst := some 1, ack := true, body := [] }, resends := 7, at_ := 0 }] }) = true := by decide

/-- States and operands that meet the hypotheses of clauses of FirmwareCommandsComplete. -/
theorem witness_FirmwareCommandsComplete_1 : (
    (fun (c : Cmd) (s : State) =>
      if !(accepted fwDownloadSpec c s) then false else
      let off := le c.payload 0 4
      let total := le c.payload 4 4
      let d := c.payload.drop 8
      if !(!decide (noTm s || s.fw.act.isSome || s.hier.push.isSome)) then false else
      if !(decide (off == 0)) then false else
      !decide (8388608 < total || total < d.length)) (cmd 8 []) live &&
    (fun (c : Cmd) (s : State) =>
      if !(accepted fwDownloadSpec c s) then false else
      let off := le c.payload 0 4
      let d := c.payload.drop 8
      if !(!decide (noTm s || s.fw.act.isSome || s.hier.push.isSome)) then false else
      if !(!decide (off == 0)) then false else
      !decide (off != s.fw.staging.bytes.length || s.fw.stagedTotal < off + d.length)) (cmd 9 [(0, 1)]) { live with fw.staging := { bytes := [0] }, fw.stagedTotal := 2 } &&
    (fun (c : Cmd) (s : State) =>
      if !(accepted fwActivateSpec c s) then false else
      if !(!decide (noTm s || s.fw.flashBusy || s.fw.act.isSome)) then false else
      if !(!decide (!s.fw.verified || s.fw.pending)) then false else
      !decide (s.hier.member && !s.retained && !s.good s.fw.imageRegion)) (cmd 0 []) { live with fw.verified := true } &&
    (fun (c : Cmd) (s : State) =>
      if !(accepted fwConfirmSpec c s) then false else
      decide (s.fw.pending)) (cmd 0 []) { live with fw.pending := true } &&
    (fun (c : Cmd) (s : State) =>
      if !(accepted fwStatusGetSpec c s) then false else
      true) (cmd 0 []) live &&
    (fun (c : Cmd) (s : State) =>
      if !(accepted fwUpdateConfigSpec c s) then false else
      let w := le c.payload 0 2
      !decide (!inRange w 60 3600)) (cmd 4 [(0, 64)]) live &&
    (fun (c : Cmd) (s : State) =>
      if !(accepted fwSvnCommitSpec c s) then false else
      let n := s.fw.running.svn
      if !(!decide (s.fw.pending)) then false else
      decide (n ≤ s.fw.floor)) (cmd 0 []) live &&
    (fun (c : Cmd) (s : State) =>
      if !(accepted fwSvnCommitSpec c s) then false else
      let n := s.fw.running.svn
      if !(!decide (s.fw.pending)) then false else
      !decide (n ≤ s.fw.floor)) (cmd 0 []) { live with fw.running := { bytes := pay 10 [(9, 1)] } } &&
    (fun (c : Cmd) (s : State) =>
      if !(accepted attestKeyGetSpec c s) then false else
      true) (cmd 0 []) live &&
    (fun (c : Cmd) (s : State) =>
      if !(accepted attestQuoteSpec c s) then false else
      match s.fw.nextIndex with
      | none =>
        true
      | _ => false) (cmd 32 []) live &&
    (fun (c : Cmd) (s : State) =>
      if !(accepted attestQuoteSpec c s) then false else
      match s.fw.nextIndex with
      | some i =>
        if !(!decide (1073741824 ≤ i)) then false else
        !decide (s.sigTokens < 750000000)
      | _ => false) (cmd 32 []) { live with fw.nextIndex := some 0 } &&
    (fun (c : Cmd) (s : State) =>
      if !(accepted feRestartSpec c s) then false else
      !decide (s.fw.runs || s.mode.restartAt.isSome)) (cmd 0 []) { live with fw.runs := false, mode.gaveUp := true }) = true := by decide

/-- States and operands that meet the hypotheses of clauses of FirmwareCommandsComplete. -/
theorem witness_FirmwareCommandsComplete_2 : (
    (fun (c : Cmd) (s : State) =>
      if !(accepted fwSnowdropPushSpec c s) then false else
      let f := byteAt c.payload 0
      if !(!decide (!s.isManager)) then false else
      if !(!decide ((s.hier.offers.get? f).isNone)) then false else
      if !(!decide (!s.fw.verified)) then false else
      !decide (s.hier.push.isSome)) (cmd 4 [(0, 1)]) { mgr with hier.offers := [(1, [])], fw.verified := true }) = true := by decide

/-- States and operands that meet the hypotheses of clauses of FirmwareEventsComplete. -/
theorem witness_FirmwareEventsComplete_1 : (
    (fun (recoveryReq : Bool) (s : State) =>
      if !(!decide (s.mode.mode != mdBoot || !s.aux.pllLocked || s.mode.held || s.aux.sysReset.low)) then false else
      decide (recoveryReq)) true { live with mode.mode := mdBoot, fw.runs := false } &&
    (fun (recoveryReq : Bool) (s : State) =>
      if !(!decide (s.mode.mode != mdBoot || !s.aux.pllLocked || s.mode.held || s.aux.sysReset.low)) then false else
      let a := s.applyMap
      if !(!decide (recoveryReq)) then false else
      let sel := a.romSelect
      decide (!sel.2)) false { live with mode.mode := mdBoot, fw.runs := false } &&
    (fun (s : State) =>
      match s.fw.act with
      | some a =>
        if !(!decide (a.paused || noTm s || !s.inService || (s.fw.runs && !s.quiet))) then false else
        if !(decide (!activable s.mode.mode)) then false else
        decide (s.fw.runs && a.cause.isNone)
      | _ => false) { live with mode.mode := mdQuarantine, fw.act := some { at_ := 0, image := {}, prevMode := 5, oldVersion := 0 } } &&
    (fun (s : State) =>
      match s.fw.act with
      | some a =>
        if !(!decide (a.paused || noTm s || !s.inService || (s.fw.runs && !s.quiet))) then false else
        !decide (!activable s.mode.mode)
      | _ => false) { live with fw.act := some { at_ := 0, image := {}, prevMode := 5, oldVersion := 0 } } &&
    (fun (s : State) =>
      if !(!decide (!s.inService)) then false else
      match s.fw.act with
      | some a =>
        decide (a.paused && !s.resumeLate a)
      | _ => false) { live with fw.act := some { at_ := 0, image := {}, prevMode := 5, oldVersion := 0, paused := true } } &&
    (fun (s : State) =>
      if !(!decide (!s.inService)) then false else
      match s.fw.act with
      | none =>
        match s.mode.restartAt with
        | some t =>
          !decide (s.fw.running.bytes.isEmpty || s.ended t (ms 100))
        | _ => false
      | _ => false) { live with mode.restartAt := some 10000000000000, fw.running := { bytes := [0] } } &&
    (fun (failedSector : Option Nat) (s : State) =>
      if !(!decide (!s.fw.flashBusy || !s.inService || noTm s)) then false else
      match failedSector with
      | some sector =>
        !decide (!inRegion 10 sector)
      | _ => false) (some 0x1440000) { live with fw.flashBusy := true } &&
    (fun (failedSector : Option Nat) (s : State) =>
      let r := s.bootRec.getD {}
      if !(!decide (!s.fw.flashBusy || !s.inService || noTm s)) then false else
      match failedSector with
      | none =>
        decide (r.state == 3)
      | _ => false) none { live with fw.flashBusy := true, fw.recA := { seq := 1, committed := true, body := some { state := 3 } } } &&
    (fun (failedSector : Option Nat) (s : State) =>
      let r := s.bootRec.getD {}
      if !(!decide (!s.fw.flashBusy || !s.inService || noTm s)) then false else
      match failedSector with
      | none =>
        !decide (r.state == 3)
      | _ => false) none { live with fw.flashBusy := true } &&
    (fun (s : State) =>
      match s.bootRec with
      | some r =>
        decide (s.fw.pending && r.state == 2 && s.fwRuns && s.fw.act.isNone && s.fw.settingsOk && s.ended s.fw.hbSince (secs 10) && s.hier.role == s.fw.roleWanted && (!s.fw.hostGate || s.fw.hostOk))
      | _ => false) { live with fw.pending := true, fw.recA := { seq := 1, committed := true, body := some { state := 2 } } } &&
    (fun (s : State) =>
      decide (s.fw.pending && s.fw.act.isNone && s.inService && s.ended s.fw.startTick (secs s.fw.windowS) && (s.bootRec.map (·.retainedValid)).getD false)) { live with fw.pending := true, fw.recA := { seq := 1, committed := true, body := some { state := 2, retainedValid := true } } } &&
    (fun (cause : FeCause) (cores : List Nat) (s : State) =>
      if !(!decide (cores.any (fun k => 5 ≤ k))) then false else
      decide (s.watched && (cause != FeCause.stall || s.ended s.hif.hbTick (ms 100)))) .coreHeartbeat [] live) = true := by decide

/-- States and operands that meet the hypotheses of clauses of FirmwareEventsComplete. -/
theorem witness_FirmwareEventsComplete_2 : (
    (fun (s : State) =>
      match s.mode.restartAt with
      | some t =>
        decide (s.inService && s.ended t (ms 100))
      | _ => false) { live with mode.restartAt := some 0 } &&
    (fun (_ : BitVec 32) (s : State) => decide (s.hif.linkUp)) 0 live &&
    (fun (path : Path) (h : CoordHdr) (_ : Nat) (_ : Nat) (_ : Bytes) (s : State) =>
      if !(!decide (3 ≤ path)) then false else
      if !(!decide (!s.windowOpen || path != 0 || !s.hier.linkUp.contains 0 || s.bootRec.isNone)) then false else
      decide (!h.etherOk || h.systemId != s.hier.systemId || h.version != 1 || !h.checkOk || h.type != 0x31)) 0 (hdr 0x30) 1 0 [0] { live with mode.mode := mdRecovery, fw.runs := false, hier.systemId := 7, hier.linkUp := [0], fw.recA := { seq := 1, committed := true, body := some {} } } &&
    (fun (path : Path) (h : CoordHdr) (_ : Nat) (_ : Nat) (_ : Bytes) (s : State) =>
      if !(!decide (3 ≤ path)) then false else
      if !(!decide (!s.windowOpen || path != 0 || !s.hier.linkUp.contains 0 || s.bootRec.isNone)) then false else
      if !(!decide (!h.etherOk || h.systemId != s.hier.systemId || h.version != 1 || !h.checkOk || h.type != 0x31)) then false else
      if !(!decide ((!bit h.flags 0 && h.dst != s.fab.fdi) || h.src == s.fab.fdi)) then false else
      let reply (t : State) (type : Nat) (body : Bytes) : State := t.newMsg 0 { type, dst := some h.src, ack := false, body }
      let a := s.bump 1512 1 0
      let b := if bit h.flags 1 then reply a 0x02 (toBe 4 h.msgSeq ++ zeros 4) else a
      let x := b.member h.src
      decide (x.seen.contains h.msgSeq)) 0 (hdr 0x31) 1 0 [0] { live with mode.mode := mdRecovery, fw.runs := false, hier.systemId := 7, hier.linkUp := [0], fw.recA := { seq := 1, committed := true, body := some {} }, hier.members := [(1, { seen := [1] })] } &&
    (fun (path : Path) (h : CoordHdr) (_ : Nat) (_ : Nat) (_ : Bytes) (s : State) =>
      if !(!decide (3 ≤ path)) then false else
      if !(!decide (!s.windowOpen || path != 0 || !s.hier.linkUp.contains 0 || s.bootRec.isNone)) then false else
      if !(!decide (!h.etherOk || h.systemId != s.hier.systemId || h.version != 1 || !h.checkOk || h.type != 0x31)) then false else
      if !(!decide ((!bit h.flags 0 && h.dst != s.fab.fdi) || h.src == s.fab.fdi)) then false else
      let reply (t : State) (type : Nat) (body : Bytes) : State := t.newMsg 0 { type, dst := some h.src, ack := false, body }
      let a := s.bump 1512 1 0
      let b := if bit h.flags 1 then reply a 0x02 (toBe 4 h.msgSeq ++ zeros 4) else a
      let x := b.member h.src
      if !(!decide (x.seen.contains h.msgSeq)) then false else
      let c := b.setMember h.src { x with seen := (h.msgSeq :: x.seen).take 1024 }
      decide (c.fw.snowNext != 0 && c.fw.snowSender != some h.src)) 0 (hdr 0x31) 1 0 [0] { live with mode.mode := mdRecovery, fw.runs := false, hier.systemId := 7, hier.linkUp := [0], fw.recA := { seq := 1, committed := true, body := some {} }, fw.snowSender := some 2, fw.snowNext := 1 } &&
    (fun (path : Path) (h : CoordHdr) (_ : Nat) (_ : Nat) (_ : Bytes) (s : State) =>
      if !(!decide (3 ≤ path)) then false else
      if !(!decide (!s.windowOpen || path != 0 || !s.hier.linkUp.contains 0 || s.bootRec.isNone)) then false else
      if !(!decide (!h.etherOk || h.systemId != s.hier.systemId || h.version != 1 || !h.checkOk || h.type != 0x31)) then false else
      if !(!decide ((!bit h.flags 0 && h.dst != s.fab.fdi) || h.src == s.fab.fdi)) then false else
      let reply (t : State) (type : Nat) (body : Bytes) : State := t.newMsg 0 { type, dst := some h.src, ack := false, body }
      let a := s.bump 1512 1 0
      let b := if bit h.flags 1 then reply a 0x02 (toBe 4 h.msgSeq ++ zeros 4) else a
      let x := b.member h.src
      if !(!decide (x.seen.contains h.msgSeq)) then false else
      let c := b.setMember h.src { x with seen := (h.msgSeq :: x.seen).take 1024 }
      !decide (c.fw.snowNext != 0 && c.fw.snowSender != some h.src)) 0 (hdr 0x31) 1 0 [0] { live with mode.mode := mdRecovery, fw.runs := false, hier.systemId := 7, hier.linkUp := [0], fw.recA := { seq := 1, committed := true, body := some {} } } &&
    (fun (s : State) =>
      !decide (!s.windowOpen || s.bootRec.isNone || !s.hier.linkUp.contains 0 || !s.ended s.fw.snowAt (secs 1))) { live with mode.mode := mdRecovery, fw.runs := false, hier.systemId := 7, hier.linkUp := [0], fw.recA := { seq := 1, committed := true, body := some {} } }) = true := by decide +kernel

/-- States and operands that meet the hypotheses of clauses of ModesComplete. -/
theorem witness_ModesComplete_1 : (
    (fun (c : Cmd) (s : State) =>
      if !(accepted modeSetSpec c s) then false else
      let m := byteAt c.payload 0
      if !(decide (m == mdQuarantine)) then false else
      !decide (byteAt c.payload 1 != 0xA5)) (cmd 4 [(0, 11), (1, 0xA5)]) live &&
    (fun (c : Cmd) (s : State) =>
      if !(accepted modeSetSpec c s) then false else
      let m := byteAt c.payload 0
      if !(!decide (m == mdQuarantine)) then false else
      if !(!decide (!inRange m mdBringUp mdMaintenance)) then false else
      if !(!decide (s.hier.member && inRange m mdForwarding mdMaintenance)) then false else
      if !(!decide (!(commanded s.mode.mode).contains m)) then false else
      !decide (s.mode.mode == mdDegraded && s.mode.conds != 0 && m != mdDrain)) (cmd 4 [(0, 6)]) live &&
    (fun (c : Cmd) (s : State) =>
      if !(accepted modeStatusGetSpec c s) then false else
      true) (cmd 0 []) live &&
    (fun (c : Cmd) (s : State) =>
      if !(accepted repairStatusGetSpec c s) then false else
      true) (cmd 0 []) live &&
    (fun (c : Cmd) (s : State) =>
      if !(accepted repairMapReadSpec c s) then false else
      let first := le c.payload 0 2
      let n := le c.payload 2 2
      !decide (!inRange n 1 256 || 65280 < first + n)) (cmd 4 [(2, 1)]) live &&
    (fun (c : Cmd) (s : State) =>
      if !(accepted deviceResetSpec c s) then false else
      true) (cmd 0 []) { live with mode.mode := mdConfigure } &&
    (fun (c : Cmd) (s : State) =>
      if !(accepted repairConfigSpec c s) then false else
      let v := le c.payload 0 2
      !decide (!inRange v 1 10000)) (cmd 4 [(0, 1)]) live &&
    (fun (at_ : FlitError) (s : State) =>
      let module := at_.module
      if !(!decide (16 ≤ module)) then false else
      !decide (!s.aux.pllLocked || s.mode.d2dOut.contains module)) ⟨0, true⟩ live &&
    (fun (module : Nat) (toFe : Bool) (lane : Nat) (s : State) =>
      if !(!decide (16 ≤ module || 66 ≤ lane)) then false else
      if !(!decide (!s.aux.pllLocked || s.mode.d2dOut.contains module)) then false else
      let key := 2 * module + b2n toFe
      let used := s.mode.d2dLanes.getD key 0
      decide (used < 2)) 0 false 0 live &&
    (fun (module : Nat) (toFe : Bool) (lane : Nat) (s : State) =>
      if !(!decide (16 ≤ module || 66 ≤ lane)) then false else
      if !(!decide (!s.aux.pllLocked || s.mode.d2dOut.contains module)) then false else
      let key := 2 * module + b2n toFe
      let used := s.mode.d2dLanes.getD key 0
      let r (k i : Nat) : Repair := { kind := k, die := b2n toFe, cause := 2, unit := module, index := i, hours := s.hours }
      if !(!decide (used < 2)) then false else
      let b := { s with mode.d2dOut := s.mode.d2dOut ++ [module] }.record (r 0xB 0)
      let moved := if toFe then [] else (b.parse.d2dQ.filter (fun d => d.flit.module == module)).map (fun d => (b.reroute module d.flit).module)
      let a := moved.foldl (fun (t : State) m => t.perfCount 0 8 m 2) (b.mapFlits (b.reroute module))
      decide (12 ≤ a.mode.d2dOut.length)) 0 false 0 { live with mode.d2dLanes := [(0, 2)], mode.d2dOut := (List.range 11).map (· + 1) } &&
    (fun (module : Nat) (toFe : Bool) (lane : Nat) (s : State) =>
      if !(!decide (16 ≤ module || 66 ≤ lane)) then false else
      if !(!decide (!s.aux.pllLocked || s.mode.d2dOut.contains module)) then false else
      let key := 2 * module + b2n toFe
      let used := s.mode.d2dLanes.getD key 0
      let r (k i : Nat) : Repair := { kind := k, die := b2n toFe, cause := 2, unit := module, index := i, hours := s.hours }
      if !(!decide (used < 2)) then false else
      let b := { s with mode.d2dOut := s.mode.d2dOut ++ [module] }.record (r 0xB 0)
      let moved := if toFe then [] else (b.parse.d2dQ.filter (fun d => d.flit.module == module)).map (fun d => (b.reroute module d.flit).module)
      let a := moved.foldl (fun (t : State) m => t.perfCount 0 8 m 2) (b.mapFlits (b.reroute module))
      if !(!decide (12 ≤ a.mode.d2dOut.length)) then false else
      decide (6 ≤ a.mode.d2dOut.length)) 0 false 0 { live with mode.d2dLanes := [(0, 2)], mode.d2dOut := (List.range 5).map (· + 1) } &&
    (fun (module : Nat) (toFe : Bool) (lane : Nat) (s : State) =>
      if !(!decide (16 ≤ module || 66 ≤ lane)) then false else
      if !(!decide (!s.aux.pllLocked || s.mode.d2dOut.contains module)) then false else
      let key := 2 * module + b2n toFe
      let used := s.mode.d2dLanes.getD key 0
      let r (k i : Nat) : Repair := { kind := k, die := b2n toFe, cause := 2, unit := module, index := i, hours := s.hours }
      if !(!decide (used < 2)) then false else
      let b := { s with mode.d2dOut := s.mode.d2dOut ++ [module] }.record (r 0xB 0)
      let moved := if toFe then [] else (b.parse.d2dQ.filter (fun d => d.flit.module == module)).map (fun d => (b.reroute module d.flit).module)
      let a := moved.foldl (fun (t : State) m => t.perfCount 0 8 m 2) (b.mapFlits (b.reroute module))
      if !(!decide (12 ≤ a.mode.d2dOut.length)) then false else
      !decide (6 ≤ a.mode.d2dOut.length)) 0 false 0 { live with mode.d2dLanes := [(0, 2)] }) = true := by decide

/-- States and operands that meet the hypotheses of clauses of ModesComplete. -/
theorem witness_ModesComplete_2 : (
    (fun (bit : Nat) (s : State) =>
      if !(!decide (12 ≤ bit)) then false else
      decide (s.inService)) 0 live &&
    (fun (bit : Nat) (s : State) =>
      if !(!decide (12 ≤ bit)) then false else
      decide (s.inService && !s.condHolds bit)) 0 live &&
    (fun (s : State) =>
      decide (s.aux.pllLocked && s.mode.mode == mdDrain && !s.mode.drainSaid && s.queuesEmpty)) { live with mode.mode := mdDrain } &&
    (fun (s : State) =>
      decide (s.mode.tmDeputy && s.fwRuns && s.ended s.fw.hbSince (secs 10))) { live with mode.tmDeputy := true } &&
    (fun (core : Nat) (s : State) =>
      if !(!decide (2 ≤ core)) then false else
      if !(!decide (!s.fwRuns || s.mode.tmDead.contains core)) then false else
      let l := (s.mode.tmRestarts.getD core []).filter (fun t => !s.ended t (secs 600))
      decide (l.length < 3)) 0 live &&
    (fun (core : Nat) (s : State) =>
      if !(!decide (2 ≤ core)) then false else
      if !(!decide (!s.fwRuns || s.mode.tmDead.contains core)) then false else
      let l := (s.mode.tmRestarts.getD core []).filter (fun t => !s.ended t (secs 600))
      !decide (l.length < 3)) 0 { live with mode.tmRestarts := [(0, [10000000000000, 10000000000000, 10000000000000])] } &&
    (fun (macro_ : Nat) (s : State) =>
      if !(!decide (2304 ≤ macro_)) then false else
      if !(!decide (!s.aux.pllLocked)) then false else
      decide ((s.macro_ macro_).filling.isSome)) 0 { live with mode.macros := [(0, { rows := 1, filling := some 0 })] } &&
    (fun (failedSector : Option Nat) (s : State) =>
      if !(!decide (!s.mapSector failedSector)) then false else
      decide (s.fwRuns && s.mode.uncommitted != 0 && s.mode.mapFailedAt.isNone)) none { live with mode.uncommitted := 1 } &&
    (fun (failedSector : Option Nat) (s : State) =>
      if !(!decide (!s.mapSector failedSector)) then false else
      match s.mode.mapFailedAt with
      | some t =>
        decide (s.fwRuns && s.ended t (secs 60))
      | _ => false) none { live with mode.mapFailedAt := some 0 } &&
    (fun (s : State) =>
      match s.mode.resetAt with
      | some t =>
        decide (s.ended t (ms 10))
      | _ => false) { live with mode.resetAt := some 0 } &&
    (fun (s : State) => decide (s.fwRuns && (!s.hif.fwRunning || s.ended s.hif.hbTick (ms 1)))) live &&
    (fun (s : State) =>
      decide (!s.hif.fwHalted && s.hif.fwRunning && s.ended s.hif.hbTick (ms 200) && !(s.mode.mode == mdStandby || s.mode.mode == mdRecovery || s.mode.mode == mdBoot))) live) = true := by decide

/-- States and operands that meet the hypotheses of clauses of ModesComplete. -/
theorem witness_ModesComplete_3 : (
    (fun (die : Nat) (macro_ : Nat) (_ : Nat) (_ : Nat) (_ : Bool) (use : SramUse) (s : State) =>
      if !(!decide (2 ≤ die || 2304 ≤ macro_ || !sramExists use)) then false else
      !decide (!s.aux.pllLocked)) 0 0 0 0 false .directory live) = true := by decide

/-- States and operands that meet the hypotheses of clauses of TelemetryComplete. -/
theorem witness_TelemetryComplete_1 : (
    (fun (c : Cmd) (s : State) =>
      if !(accepted perfCounterConfigSpec c s) then false else
      let die := byteAt c.payload 0
      let n := byteAt c.payload 1
      let w := le c.payload 4 4
      let unit := field w 27 20
      let inst := field w 19 12
      let event := field w 7 0
      let chain := bit w 30
      let x := s.perf die n
      if !(!decide (1 < die || !selectorOk die unit inst event || (chain && n == 255) || (chain && 3 < s.chainBelow die 4 n + 1 + s.chainAbove die 4 (n + 1)))) then false else
      !decide (x.enable)) (cmd 8 [(4, 1), (6, 64)]) live &&
    (fun (c : Cmd) (s : State) =>
      if !(accepted perfControlSpec c s) then false else
      let b := c.payload
      let op := byteAt b 0
      let t : T32 := BitVec.ofNat 32 (le b 4 4)
      if !(!decide (2 < op || (t != 0 && !T32.validCommit s.t32 t))) then false else
      decide (t == 0)) (cmd 72 []) live &&
    (fun (c : Cmd) (s : State) =>
      if !(accepted perfControlSpec c s) then false else
      let b := c.payload
      let op := byteAt b 0
      let t : T32 := BitVec.ofNat 32 (le b 4 4)
      if !(!decide (2 < op || (t != 0 && !T32.validCommit s.t32 t))) then false else
      if !(!decide (t == 0)) then false else
      !decide (s.tel.perfOp.isSome)) (cmd 72 [(7, 64)]) live &&
    (fun (c : Cmd) (s : State) =>
      if !(accepted perfCounterReadSpec c s) then false else
      let b := c.payload
      let clear := byteAt b 64
      !decide (1 < clear)) (cmd 68 []) live &&
    (fun (c : Cmd) (s : State) =>
      if !(accepted histogramConfigSpec c s) then false else
      let b := c.payload
      let k := byteAt b 0
      let source := byteAt b 2
      let first := if source == 0 then le b 4 4 else if source == 3 then 0 else byteAt b 4
      let count := if source == 0 then le b 8 4 else 1
      let i := le b 12 4
      let start : T32 := BitVec.ofNat 32 (le b 16 4)
      if !(!decide (63 < k || 1 < byteAt b 1 || 3 < source || 15 < byteAt b 3 || !inRange i 1 1000 || !T32.validCommit s.t32 start || count == 0)) then false else
      !decide (!s.sourceExists source first count)) (cmdB ([0, 1, 0, 0] ++ toLe 4 0 ++ toLe 4 1 ++ toLe 4 1 ++ toLe 4 1010000000)) live &&
    (fun (c : Cmd) (s : State) =>
      if !(accepted psampleConfigSpec c s) then false else
      let b := c.payload
      !decide (2 ^ 100 ≤ le b 0 16 || 32 ≤ byteAt b 16 || 4 ≤ byteAt b 17 || !inRange (le b 20 4) 1 1048576)) (cmd 24 [(20, 1)]) live &&
    (fun (c : Cmd) (s : State) =>
      if !(accepted telemetryConfigSpec c s) then false else
      let n := byteAt c.payload 0
      let f := le c.payload 2 2
      let x := s.chan n
      if !(!decide (!(n == 0 || inRange n 4 63) || !inRange f 1 1000)) then false else
      if !(!decide (n != 0 && (!x.configured || x.inject))) then false else
      !decide (n != 0 && (s.chanPool n).retain)) (cmd 4 [(2, 1)]) live &&
    (fun (c : Cmd) (s : State) =>
      if !(accepted telemetryCountersGetSpec c s) then false else
      true) (cmd 0 []) live &&
    (fun (s : State) =>
      if !(!decide (!s.aux.pllLocked)) then false else
      match s.tel.perfOp with
      | some x =>
        decide (s.t32.reached x.t)
      | _ => false) { live with tel.perfOp := some { op := 0, fe := 0, tm := 0, t := 0 } } &&
    (fun (die : Nat) (counter : Nat) (s : State) =>
      if !(!decide (2 ≤ die || 256 ≤ counter)) then false else
      let k := s.chainBelow die 4 counter
      let x := s.perf die (counter - k)
      !decide (!s.aux.pllLocked || !x.enable || (s.perf die counter).chain || countedEvent x.unit x.event)) 0 0 { live with tel.perf := [(0, { enable := true, unit := 0x06, inst := 0, event := 2 })] } &&
    (fun (k : Nat) (s : State) =>
      if !(!decide (64 ≤ k)) then false else
      if !(!decide (!s.aux.pllLocked)) then false else
      !decide ((s.tel.hists.getD k {}).ended.isNone)) 0 { live with tel.hists := [(0, { enable := true, intervalMs := 1, ended := some {} })] } &&
    (fun (kind : Nat) (unit : Nat) (_ : Nat) (_ : Nat) (_ : Nat) (_ : Nat) (s : State) =>
      if !(!decide (3 ≤ kind || [100, 5, 2].getD kind 0 ≤ unit)) then false else
      !decide (!s.aux.pllLocked || !s.sampled kind unit || !s.sampleDue kind unit)) 1 0 0 0 0 0 { live with tel.feCores := 1 }) = true := by decide

/-- States and operands that meet the hypotheses of clauses of TelemetryComplete. -/
theorem witness_TelemetryComplete_2 : (
    (fun (s : State) =>
      if !(!decide (!s.aux.pllLocked)) then false else
      decide (s.tel.blockBuf.isSome && s.ended s.tel.blockAt (us s.tel.flushUs))) { live with tel.blockBuf := some 0 }) = true := by decide

/-- States and operands that meet the hypotheses of clauses of PackageComplete. -/
theorem witness_PackageComplete_1 : (
    (fun (c : Cmd) (s : State) =>
      if !(accepted pkgStatusGetSpec c s) then false else
      true) (cmd 0 []) live &&
    (fun (c : Cmd) (s : State) =>
      if !(accepted thermalConfigSpec c s) then false else
      let t := byteAt c.payload 0
      !decide (!inRange t 70 105)) (cmd 4 [(0, 100)]) live &&
    (fun (c : Cmd) (s : State) =>
      if !(accepted alarmInputConfigSpec c s) then false else
      let k := byteAt c.payload 0
      let l := byteAt c.payload 1
      let d := le c.payload 2 2
      !decide (3 < k || 1 < l || !inRange d 1 1000)) (cmd 4 [(2, 1)]) live &&
    (fun (c : Cmd) (s : State) =>
      if !(accepted pkgInputUnmaskSpec c s) then false else
      true) (cmd 4 []) live &&
    (fun (c : Cmd) (s : State) =>
      if !(accepted auxStatusClearSpec c s) then false else
      let m := le c.payload 0 4
      !decide (m ||| auxLatchedMask != auxLatchedMask)) (cmd 4 []) live &&
    (fun (reg : Nat) (_ : BitVec 32) (s : State) => !decide (reg != 0 || !s.auxRuns)) 0 0 live &&
    (fun (s : State) => !decide (s.mode.mode == mdStandby || s.aux.pllLocked || s.aux.sysReset.low)) State.reset &&
    (fun (s : State) =>
      decide (s.mode.mode == mdBoot && !s.aux.pllLocked && s.retryDue)) { live with mode.mode := mdBoot, fw.runs := false, aux.pllLocked := false } &&
    (fun (s : State) =>
      if !(!decide (!s.aux.pllLocked || s.mode.mode == mdStandby)) then false else
      decide (s.starting)) { live with mode.mode := mdBoot, fw.runs := false } &&
    (fun (s : State) =>
      if !(!decide (!s.aux.pllLocked || s.mode.mode == mdStandby)) then false else
      if !(!decide (s.starting)) then false else
      decide (s.mode.mode == mdQuarantine)) { live with mode.mode := mdQuarantine } &&
    (fun (s : State) =>
      if !(!decide (!s.aux.pllLocked || s.mode.mode == mdStandby)) then false else
      if !(!decide (s.starting)) then false else
      !decide (s.mode.mode == mdQuarantine)) live &&
    (fun (s : State) => !decide (s.mode.mode == mdStandby)) live) = true := by decide

/-- States and operands that meet the hypotheses of clauses of PackageComplete. -/
theorem witness_PackageComplete_2 : (
    (fun (rail : Nat) (s : State) =>
      if !(!decide (9 ≤ rail)) then false else
      !decide (s.mode.mode == mdStandby)) 0 live &&
    (fun (_ : State) => true) live &&
    (fun (millivolt : Nat) (s : State) =>
      decide (millivolt < 2600 && s.mode.mode == mdStandby && !s.aux.mainGood)) 0 { State.reset with mode.mode := mdStandby } &&
    (fun (millivolt : Nat) (s : State) =>
      if !(!decide (millivolt < 2600 && s.mode.mode == mdStandby && !s.aux.mainGood)) then false else
      decide (inRange millivolt 2700 5500)) 3000 live &&
    (fun (millivolt : Nat) (s : State) =>
      if !(!decide (millivolt < 2600 && s.mode.mode == mdStandby && !s.aux.mainGood)) then false else
      if !(!decide (inRange millivolt 2700 5500)) then false else
      decide (millivolt < 2600)) 0 live &&
    (fun (millivolt : Nat) (s : State) =>
      if !(!decide (millivolt < 2600 && s.mode.mode == mdStandby && !s.aux.mainGood)) then false else
      if !(!decide (inRange millivolt 2700 5500)) then false else
      !decide (millivolt < 2600)) 2650 live &&
    (fun (sensor : Nat) (tempC : Int) (s : State) =>
      if !(!decide (40 ≤ sensor)) then false else
      if !(!decide (s.mode.mode == mdStandby)) then false else
      decide (!s.aux.alarm && (s.aux.alarmC : Int) ≤ tempC)) 0 130 live &&
    (fun (sensor : Nat) (tempC : Int) (s : State) =>
      if !(!decide (40 ≤ sensor)) then false else
      if !(!decide (s.mode.mode == mdStandby)) then false else
      let a := s.noteTemp sensor tempC
      if !(!decide (!s.aux.alarm && (s.aux.alarmC : Int) ≤ tempC)) then false else
      decide (s.aux.alarm && a.aux.temps.all (fun e => e.2 ≤ (s.aux.alarmC : Int) - 5))) 0 95 { live with aux.alarm := true } &&
    (fun (sensor : Nat) (tempC : Int) (s : State) =>
      if !(!decide (40 ≤ sensor)) then false else
      if !(!decide (s.mode.mode == mdStandby)) then false else
      let a := s.noteTemp sensor tempC
      if !(!decide (!s.aux.alarm && (s.aux.alarmC : Int) ≤ tempC)) then false else
      !decide (s.aux.alarm && a.aux.temps.all (fun e => e.2 ≤ (s.aux.alarmC : Int) - 5))) 0 0 live &&
    (fun (sensor : Nat) (tempC : Int) (s : State) =>
      if !(!decide (40 ≤ sensor)) then false else
      !decide (s.mode.mode == mdStandby || tempC < 115)) 0 130 live &&
    (fun (sensor : Nat) (tempC : Int) (s : State) =>
      if !(!decide (40 ≤ sensor)) then false else
      if !(!decide (s.mode.mode == mdStandby)) then false else
      decide (tempC < 0 && !s.aux.cold && s.inService)) 0 (-1) live &&
    (fun (sensor : Nat) (tempC : Int) (s : State) =>
      if !(!decide (40 ≤ sensor)) then false else
      if !(!decide (s.mode.mode == mdStandby)) then false else
      !decide (tempC < 0 && !s.aux.cold && s.inService)) 0 0 live) = true := by decide

/-- States and operands that meet the hypotheses of clauses of PackageComplete. -/
theorem witness_PackageComplete_3 : (
    (fun (s : State) =>
      if !(!decide (s.aux.sysReset.masked || s.aux.sysReset.low)) then false else
      let r := s.inputHit s.aux.sysReset 3 (secs 10)
      decide (r.2)) { live with aux.sysReset := { asserts := [10000000000000, 10000000000000, 10000000000000] } } &&
    (fun (s : State) =>
      if !(!decide (s.aux.sysReset.masked || s.aux.sysReset.low)) then false else
      let r := s.inputHit s.aux.sysReset 3 (secs 10)
      !decide (r.2)) live &&
    (fun (_ : State) => true) live &&
    (fun (s : State) =>
      decide (s.aux.sysReset.low && s.ended s.aux.sysReset.since (secs 1))) { live with aux.sysReset := { low := true } } &&
    (fun (s : State) => decide (s.aux.perst.masked)) { live with aux.perst := { masked := true } } &&
    (fun (s : State) =>
      if !(!decide (s.aux.perst.masked)) then false else
      let r := s.inputHit s.aux.perst 10 (secs 1)
      decide (r.2)) { live with aux.perst := { asserts := List.replicate 10 10000000000000 } } &&
    (fun (s : State) =>
      if !(!decide (s.aux.perst.masked)) then false else
      let r := s.inputHit s.aux.perst 10 (secs 1)
      !decide (r.2)) live &&
    (fun (s : State) =>
      decide (s.aux.perst.masked && s.ended s.aux.perst.since (secs 10))) { live with aux.perst := { masked := true } } &&
    (fun (_ : State) => true) live &&
    (fun (input : Nat) (level : Bool) (s : State) =>
      if !(!decide (4 ≤ input)) then false else
      let x := s.aux.alarms.getD input {}
      !decide (x.masked || x.low == !level || !s.ended x.since (ms (s.aux.alarmCfg.getD input (false, 10)).2))) 0 false live &&
    (fun (s : State) => !decide (!s.auxRuns || !s.ended s.aux.hbAt (ms 100))) live &&
    (fun (s : State) => !decide (s.mode.mode == mdStandby || !s.aux.railsOut)) { live with aux.railsOut := true }) = true := by decide

/-- States and operands that meet the hypotheses of clauses of HostInterfaceRows. -/
theorem witness_HostInterfaceRows_1 : (
    (fun (c : Cmd) (s : State) =>
      if !(accepted nopSpec c s) then false else
      true) (cmd 0 []) live &&
    (fun (c : Cmd) (s : State) =>
      if !(accepted deviceInfoGetSpec c s) then false else
      true) (cmd 0 []) live &&
    (fun (c : Cmd) (s : State) =>
      if !(accepted eventMaskSetSpec c s) then false else
      !decide (2 ^ 19 ≤ le c.payload 0 4)) (cmd 4 []) live &&
    (fun (c : Cmd) (s : State) =>
      if !(accepted eventMaskGetSpec c s) then false else
      true) (cmd 0 []) live &&
    (fun (c : Cmd) (s : State) =>
      if !(accepted echoSpec c s) then false else
      true) (cmd 1 []) live &&
    (fun (c : Cmd) (s : State) =>
      if !(accepted dmaChannelSetSpec c s) then false else
      let b := c.payload
      let ch := byteAt b 0
      if !(!decide (!inRange ch 4 63)) then false else
      if !(!decide (1 < byteAt b 1 || 9 < byteAt b 2 || !inRange (byteAt b 3) 4 63 || 10000 < le b 4 2 || !inRange (le b 6 2) 1 200 || le b 8 8 % 4096 != 0)) then false else
      !decide ((s.chan ch).enabled)) (cmd 16 [(0, 6), (3, 4), (6, 1)]) live &&
    (fun (c : Cmd) (s : State) =>
      if !(accepted dmaChannelEnableSpec c s) then false else
      let ch := byteAt c.payload 0
      let en := byteAt c.payload 1
      let x := s.chan ch
      if !(!decide (!inRange ch 4 63 || !x.configured)) then false else
      if !(!decide (1 < en)) then false else
      decide (en == 1)) (cmd 4 [(0, 4), (1, 1)]) live &&
    (fun (c : Cmd) (s : State) =>
      if !(accepted dmaChannelEnableSpec c s) then false else
      let ch := byteAt c.payload 0
      let en := byteAt c.payload 1
      let x := s.chan ch
      if !(!decide (!inRange ch 4 63 || !x.configured)) then false else
      if !(!decide (1 < en)) then false else
      !decide (en == 1)) (cmd 4 [(0, 4)]) live &&
    (fun (c : Cmd) (s : State) =>
      if !(accepted dmaChannelStatusGetSpec c s) then false else
      let ch := byteAt c.payload 0
      !decide (!inRange ch 4 63)) (cmd 4 [(0, 4)]) live &&
    (fun (c : Cmd) (s : State) =>
      if !(accepted msixModerationSetSpec c s) then false else
      let b := c.payload
      let v := byteAt b 0
      !decide (63 < v || !inRange (le b 2 2) 1 256 || 1000 < le b 4 2)) (cmd 8 [(2, 1)]) live &&
    (fun (c : Cmd) (s : State) =>
      if !(accepted hifCountersGetSpec c s) then false else
      true) (cmd 0 []) live &&
    (fun (_ : Nat) (_ : Nat) (_ : Nat) (s : State) => decide (s.hif.linkUp)) 0 0 0 live) = true := by decide

/-- States and operands that meet the hypotheses of clauses of HostInterfaceRows. -/
theorem witness_HostInterfaceRows_2 : (
    (fun (_ : Nat) (_ : Nat) (_ : Nat) (s : State) => decide (s.hif.linkUp)) 0 0 0 live &&
    (fun (_ : RegWrite) (s : State) => decide (s.hif.linkUp)) (.full 0) live &&
    (fun (_ : RegWrite) (s : State) => decide (s.hif.linkUp)) (.full 0) live &&
    (fun (_ : BitVec 32) (s : State) => decide (s.hif.linkUp)) 0 live &&
    (fun (_ : Nat) (_ : BitVec 64) (_ : Bool) (s : State) => decide (s.hif.linkUp)) 0 0 false live &&
    (fun (e : CmdEntry) (s : State) =>
      let c : Cmd := { e.cmd with relay := none }
      !decide (!s.canFetch || s.blocked c)) (⟨1, cmd 0 []⟩ : CmdEntry) live) = true := by decide

end Sys2Proof.Tests
end

section
/-! The table write port: a command that is admitted while the port has work waits behind it, and a tick's turn of the port
applies one entry of the work in hand (R21, R22, R24, R194). -/
namespace Sys2Proof.Machine
open Sys2Proof

theorem admitted_iff {x : CmdSpec} {c : Cmd} {s : State} : admitted x c s = true ↔
    s.serving = true ∧ s.blocked c = false ∧ badHeader x c = false ∧ c.target = s.fab.fdi ∧
    (x.opcode / 256 == 2 && !s.sec.gradeS) = false ∧ (s.mode.gaveUp && !x.tm c.payload) = false ∧
    (s.mode.mode == mdQuarantine && !(x.reads || [0, 0xF, 0x10, 0x11].contains (x.opcode / 256))) = false ∧
    x.mode c.payload s = 0 ∧ x.clean c.payload = true ∧ x.size c.payload ≤ c.capacity := by
  simp only [admitted, Bool.and_eq_true, Bool.not_eq_true', beq_iff_eq, decide_eq_true_eq, and_assoc]

/-- Firmware executes a command that is admitted, whatever that command does. -/
theorem serve_of_admitted {x : CmdSpec} {c : Cmd} {s : State} (f : Cmd → State → Res) (h : admitted x c s = true) :
    serve c f s = done s ((f c s).finish c) := by
  obtain ⟨hserving, hblocked, -⟩ := admitted_iff.mp h
  exact if_pos (by simp [hserving, hblocked])

/-- The gate of an admitted command passes every check, and a busy table write port makes it wait. -/
theorem gate_of_busy_port {x : CmdSpec} {body : Cmd → State → Res} {c : Cmd} {s : State} (h : admitted x c s = true)
    (hported : x.ported c.payload = true) (hbusy : s.tbl.port ≠ []) :
    gate x body c s = s.portWait { opcode := x.opcode, cmd := c } := by
  obtain ⟨-, -, hheader, htarget, hgrade, hgaveUp, hquarantine, hmode, hclean, hsize⟩ := admitted_iff.mp h
  unfold gate runLocal
  rw [if_neg (by simp [hheader]), if_neg (by simp [htarget]), if_neg (by simp [hgrade]), if_neg (by simp [hgaveUp]),
    if_neg (Bool.eq_false_iff.mp hquarantine), if_neg (by simp [hmode]), if_neg (by simp [hclean]),
    if_neg (Nat.not_lt.mpr hsize), if_pos (by simp [hported, hbusy])]

/-- A command that finds work in the table write port stays open, the last of the port's work (R21, R194). -/
theorem serve_gate_of_busy_port {x : CmdSpec} {body : Cmd → State → Res} {c : Cmd} {s : State} (h : admitted x c s = true)
    (hported : x.ported c.payload = true) (hbusy : s.tbl.port ≠ []) :
    serve c (gate x body) s = s.opened { s with
      tbl.batchSeq := s.tbl.batchSeq + 1
      tbl.port := s.tbl.port ++ [{ id := s.tbl.batchSeq, opcode := x.opcode, entry := some { opcode := x.opcode, cmd := c } }] }
      c (.batch s.tbl.batchSeq) := by
  rw [serve_of_admitted _ h, gate_of_busy_port h hported hbusy]
  rfl

/-- Where no timed batch is staged, none is due (R197). -/
theorem portDue_of_none_staged {s : State} (h : s.tbl.batches = []) : s.portDue = s := by
  simp [State.portDue, h]

/-- Where no timed batch is staged, the turn of a port with work is one entry of that work. -/
theorem portStep_of_none_staged {s : State} (hbusy : s.tbl.port ≠ []) (h : s.tbl.batches = []) :
    s.portStep = s.portEntry := by
  simp [State.portStep, portDue_of_none_staged h, hbusy]

/-- A batch with operations left once its next one is applied stays first in the port (R22, R24). -/
theorem portEntry_of_more {s t : State} {w v : PortWork} {l : List PortWork} (hport : s.tbl.port = w :: l)
    (hbatch : w.entry = none) (hop : { s with tbl.port := l }.portOp w = (.more v, t)) :
    s.portEntry = { t with tbl.port := v :: t.tbl.port } := by
  simp only [State.portEntry, hport, hbatch, hop]

/-- Settles O17: the gate of an admitted command ends in the port's queue while the port is busy, and a turn of the port with no
timed batch staged is one application of `portOp` to the work in hand. -/
theorem tableWritesWaitForThePort : Obligations.TableWritesWaitForThePort := by
  unfold Obligations.TableWritesWaitForThePort
  refine ⟨fun _ _ _ _ => serve_gate_of_busy_port, fun _ _ _ _ _ hport hbatch hstaged hop => ?_⟩
  have hbusy := hport.trans_ne (List.cons_ne_nil _ _)
  exact (portStep_of_none_staged hbusy hstaged).trans (portEntry_of_more hport hbatch hop)

end Sys2Proof.Machine
end

section
/-! What sending a message, raising an event and counting change: the parts of the state they may touch, each operation once
(R551, R554, R588, R698). -/
namespace Sys2Proof.Machine
open Sys2Proof

/-- Two states agree in every part that is not listed. -/
def AgreeOff (l : List Part) (s t : State) : Prop := ∀ p : Part, p ∉ l → p.same s t

section
variable {l m : List Part} {s t u : State}

theorem AgreeOff.refl : AgreeOff l s s := fun p _ => by cases p <;> rfl

theorem AgreeOff.trans (h : AgreeOff l s t) (k : AgreeOff l t u) : AgreeOff l s u := by
  intro p hp
  have hst := h p hp
  have htu := k p hp
  cases p <;> exact Eq.trans htu hst

theorem AgreeOff.mono (h : AgreeOff l s t) (hlm : l ⊆ m) : AgreeOff m s t := fun p hp => h p (fun hl => hp (hlm hl))

/-- Steps that each keep the parts not listed keep them together. -/
theorem AgreeOff.foldl {α : Type} {f : State → α → State} (hf : ∀ a x, AgreeOff l a (f a x)) (xs : List α) :
    AgreeOff l s (xs.foldl f s) := by
  induction xs generalizing s with
  | nil => exact .refl
  | cons x xs ih => exact (hf s x).trans ih

theorem agreeOff_hif {x : HifSt} : AgreeOff [.hif] s { s with hif := x } := by
  intro p hp
  cases p <;> simp [Part.same] at hp ⊢

theorem agreeOff_fab {x : FabSt} : AgreeOff [.fab] s { s with fab := x } := by
  intro p hp
  cases p <;> simp [Part.same] at hp ⊢

theorem agreeOff_hier {x : HierSt} : AgreeOff [.hier] s { s with hier := x } := by
  intro p hp
  cases p <;> simp [Part.same] at hp ⊢

theorem agreeOff_tel {x : TelSt} : AgreeOff [.tel] s { s with tel := x } := by
  intro p hp
  cases p <;> simp [Part.same] at hp ⊢

theorem count_agreeOff (table name i j n : Nat) : AgreeOff [.ctr] s (s.count table name i j n) := by
  intro p hp
  cases p <;> simp [Part.same] at hp ⊢

end

/-! ### Messages (R423, R588) -/

theorem sendCell_agreeOff (s : State) (plane g : Nat) (c : Cell) : AgreeOff [.fab] s (s.sendCell plane g c) := by
  unfold State.sendCell
  split
  · simp only
    split
    · split <;> exact agreeOff_fab
    · exact .refl
  · exact .refl

theorem sendControl_agreeOff (s : State) (f : Nat) (b : Bytes) : AgreeOff [.fab, .ctr] s (s.sendControl f b) := by
  unfold State.sendControl
  split
  · exact (count_agreeOff _ _ _ _ _).mono (by decide)
  · have hcells {f : Nat × Bytes → Cell} {k : Nat} {l : List (Nat × Bytes)} :
        AgreeOff [.fab, .ctr] s (l.foldl (fun a p => a.sendCell k 0 (f p)) s) :=
      (AgreeOff.foldl (fun _ _ => sendCell_agreeOff _ _ _ _) _).mono (by decide)
    exact (hcells.trans (agreeOff_fab.mono (by decide))).trans ((count_agreeOff _ _ _ _ _).mono (by decide))

theorem putMsg_agreeOff (s : State) (path seq : Nat) (m : Msg) : AgreeOff [.fab, .hier, .ctr] s (s.putMsg path seq m) := by
  have hsent {x : HierSt} : AgreeOff [.fab, .hier, .ctr] s ({ s with hier := x }.bump 1512 0 path) :=
    (agreeOff_hier.mono (by decide)).trans ((count_agreeOff _ _ _ _ _).mono (by decide))
  unfold State.putMsg
  simp only
  split
  · exact hsent.trans ((sendControl_agreeOff _ _ _).mono (by decide))
  · exact hsent

theorem numberMsg_agreeOff (s : State) (path : Nat) (m : Msg) : AgreeOff [.fab, .hier, .ctr] s (s.numberMsg path m) := by
  have hput {x : HierSt} {q : Nat} : AgreeOff [.fab, .hier, .ctr] s ({ s with hier := x }.putMsg path q m) :=
    (agreeOff_hier.mono (by decide)).trans (putMsg_agreeOff _ _ _ _)
  unfold State.numberMsg
  simp only
  split
  · exact hput.trans (agreeOff_hier.mono (by decide))
  · exact hput

theorem newMsg_agreeOff (s : State) (path : Nat) (m : Msg) : AgreeOff [.fab, .hier, .ctr] s (s.newMsg path m) := by
  unfold State.newMsg
  split
  · exact agreeOff_hier.mono (by decide)
  · exact numberMsg_agreeOff _ _ _

theorem sendMsg_agreeOff (s : State) (f type : Nat) (ack : Bool) (b : Bytes) :
    AgreeOff [.fab, .hier, .ctr] s (s.sendMsg f type ack b) := by
  unfold State.sendMsg
  split
  · exact newMsg_agreeOff _ _ _
  · exact .refl

/-! ### Events (R551, R554, R557) -/

theorem sendMsix_agreeOff (s : State) (v : Nat) : AgreeOff [.hif, .ctr] s (s.sendMsix v) := by
  have hhif {a : State} {x : HifSt} : AgreeOff [.hif, .ctr] a { a with hif := x } := agreeOff_hif.mono (by decide)
  unfold State.sendMsix
  simp only
  split
  · exact hhif
  · split
    · exact hhif
    · exact hhif.trans ((count_agreeOff _ _ _ _ _).mono (by decide))

theorem signal_agreeOff (s : State) (v n : Nat) : AgreeOff [.hif, .ctr] s (s.signal v n) := by
  have hvec {x : Vec} : AgreeOff [.hif, .ctr] s (s.setVec v x) := agreeOff_hif.mono (by decide)
  unfold State.signal
  simp only
  split
  · exact .refl
  · split
    · exact hvec.trans (sendMsix_agreeOff _ _)
    · exact hvec

theorem writeEvent_agreeOff (s : State) (code src : Nat) (now : T32) (data : Bytes) :
    AgreeOff [.hif, .ctr] s (s.writeEvent code src now data) := by
  have hcount {a : State} (n : Nat) : AgreeOff [.hif, .ctr] a (a.bump 1418 n) := (count_agreeOff _ _ _ _ _).mono (by decide)
  have hhif {x : HifSt} : AgreeOff [.hif, .ctr] s { s with hif := x } := agreeOff_hif.mono (by decide)
  unfold State.writeEvent
  split
  · exact hcount 3
  · split
    · exact hhif.trans (hcount 2)
    · exact (hhif.trans (hcount 1)).trans (signal_agreeOff _ _ _)

/-- The parts that an event changes: it is written to the own ring or goes to the manager in a message (R554). -/
abbrev eventParts : List Part := [.hif, .fab, .hier, .ctr]

theorem raise_agreeOff (s : State) (code : Nat) (data : Bytes) : AgreeOff eventParts s (s.raise code data) := by
  unfold State.raise
  split
  · split
    · exact (count_agreeOff _ _ _ _ _).mono (by decide)
    · split
      · split
        · exact (sendMsg_agreeOff _ _ _ _ _).mono (by decide)
        · exact .refl
      · exact .refl
  · exact (writeEvent_agreeOff _ _ _ _ _).mono (by decide)

/-! ### Counting (R22, R698-R701) -/

/-- The parts that counting changes: the counters, and an event where a performance counter wraps (R701). -/
abbrev countParts : List Part := [.hif, .fab, .hier, .tel, .ctr]

theorem perfWrap_agreeOff (s : State) (die n : Nat) : AgreeOff countParts s (s.perfWrap die n) := by
  unfold State.perfWrap
  split
  · exact .refl
  · exact (agreeOff_tel.mono (by decide)).trans ((raise_agreeOff _ _ _).mono (by decide))

theorem perfAdd_agreeOff (s : State) (die n k fuel : Nat) : AgreeOff countParts s (s.perfAdd die n k fuel) := by
  induction fuel generalizing s n k with
  | zero => exact .refl
  | succ fuel ih =>
    have hset {x : Perf} : AgreeOff countParts s (s.setPerf die n x) := agreeOff_tel.mono (by decide)
    unfold State.perfAdd
    simp only
    split
    · exact hset
    · split
      · exact hset.trans (ih _ _ _)
      · exact hset.trans (perfWrap_agreeOff _ _ _)

theorem perfCount_agreeOff (s : State) (die unit inst event k : Nat) :
    AgreeOff countParts s (s.perfCount die unit inst event k) :=
  .foldl (fun _ _ => perfAdd_agreeOff _ _ _ _ _) _

/-- An entry that the table write port applies is counted (R22). -/
theorem wrote_agreeOff (s : State) (n : Nat) : AgreeOff countParts s (s.wrote n) :=
  ((count_agreeOff _ _ _ _ _).mono (by decide)).trans (perfCount_agreeOff _ _ _ _ _ _)

@[simp] theorem State.wrote_tcam (s : State) (n : Nat) : (s.wrote n).tcam = s.tcam := wrote_agreeOff s n .tcam (by decide)

end Sys2Proof.Machine
end

section
/-! TABLE_SPLIT_SET, TCAM_CHAIN_CONFIG and POOL_CARVE_SET: what their fill and level checks leave, and what the commands answer
(R165, R220, R340). -/
namespace Sys2Proof.Machine
open Sys2Proof

@[simp] theorem State.raise_tbl (s : State) (code : Nat) (data : Bytes) : (s.raise code data).tbl = s.tbl :=
  raise_agreeOff s code data .tbl (by decide)

@[simp] theorem State.raise_pool (s : State) (code : Nat) (data : Bytes) : (s.raise code data).pool = s.pool :=
  raise_agreeOff s code data .pool (by decide)

/-- The fill check of a table area changes nothing of the tables but what `set` does (Table 05-18). -/
theorem noteFill_tbl (s : State) (area used slots : Nat) (raised : Bool) (set : Bool → State → State) :
    (s.noteFill area used slots raised set).tbl = s.tbl ∨ ∃ b, (s.noteFill area used slots raised set).tbl = (set b s).tbl := by
  unfold State.noteFill
  split
  · exact .inr ⟨true, State.raise_tbl _ _ _⟩
  · split
    · exact .inr ⟨false, rfl⟩
    · exact .inl rfl

theorem noteFibFill_tbl (s : State) : ∃ b, s.noteFibFill.tbl = { s.tbl with fillFib := b } :=
  (noteFill_tbl s 0 _ _ _ _).elim (fun h => ⟨s.tbl.fillFib, h⟩) id

theorem noteEmFill_tbl (s : State) : ∃ b, s.noteEmFill.tbl = { s.tbl with fillEm := b } :=
  (noteFill_tbl s 1 _ _ _ _).elim (fun h => ⟨s.tbl.fillEm, h⟩) id

/-- The fill checks of both areas change only their two marks. -/
theorem noteFills_tbl (s : State) : ∃ a b, s.noteFibFill.noteEmFill.tbl = { s.tbl with fillFib := a, fillEm := b } := by
  obtain ⟨a, ha⟩ := noteFibFill_tbl s
  obtain ⟨b, hb⟩ := noteEmFill_tbl s.noteFibFill
  exact ⟨a, b, by rw [hb, ha]⟩

/-- The level check of a pool does not move its pages (Table 09-9). -/
@[simp] theorem notePoolLow_pages (s : State) (p : Nat) : (s.notePoolLow p).pool.pages = s.pool.pages := by
  unfold State.notePoolLow
  simp only
  split
  · rw [State.raise_pool]
  · split <;> rfl

theorem foldl_notePoolLow_pages (l : List Nat) (s : State) :
    (l.foldl (fun (a : State) p => a.notePoolLow p) s).pool.pages = s.pool.pages := by
  induction l generalizing s with
  | nil => rfl
  | cons p l ih => rw [List.foldl_cons, ih, notePoolLow_pages]

/-- A command with good header for this device that its mode check refuses with WRONG_MODE, while firmware serves it. In Quarantine
R674 gives the same status. -/
theorem serve_of_wrong_mode {x : CmdSpec} {body : Cmd → State → Res} {c : Cmd} {s : State} (hserving : s.serving = true)
    (hblocked : s.blocked c = false) (htarget : c.target = s.fab.fdi) (hgaveUp : s.mode.gaveUp = false)
    (hheader : badHeader x c = false) (hgrade : x.opcode / 256 ≠ 2) (hmode : x.mode c.payload s = stWrongMode) :
    serve c (gate x body) s = s.failed c stWrongMode := by
  have hlocal : runLocal x body c s = Res.err s stWrongMode := by
    unfold runLocal
    rw [if_neg (by simp [hgrade]), if_neg (by simp [hgaveUp])]
    split
    · rfl
    · rw [if_pos (by rw [hmode]; decide), hmode]
  unfold serve gate
  rw [if_pos (by simp [hserving, hblocked]), if_neg (by simp [hheader]), if_neg (by simp [htarget]), hlocal]
  rfl

section
variable {c : Cmd} {s : State}

/-- R165: the banks are split anew and every table that lies in them is erased. -/
theorem tableSplitSet_erases (h : accepted tableSplitSetSpec c s = true) (hlow : 1 ≤ byteAt c.payload 0)
    (hhigh : byteAt c.payload 0 ≤ 10) :
    ∃ t, exec (.tableSplitSet c) s = s.answered t c ∧ t.tbl.emBanks = byteAt c.payload 0 ∧ t.tbl.fib = [] ∧ t.tbl.em = [] ∧
      t.tbl.dirs = [] := by
  obtain ⟨a, b, htbl⟩ := noteFills_tbl { s with
    tbl.emBanks := byteAt c.payload 0, tbl.fib := [], tbl.fibLost := [], tbl.dirs := [], tbl.em := [], tbl.sizes := []
    tbl.oldTables := [] }
  refine ⟨_, serve_answered h (if_neg (by simp [inRange, hlow, hhigh])), ?_⟩
  rw [htbl]
  exact ⟨rfl, rfl, rfl, rfl⟩

/-- R340: a carve that does not share out all 128 pages. -/
theorem poolCarveSet_bad_sum (h : accepted poolCarveSetSpec c s = true)
    (hsum : ((List.range 5).map (fun p => byteAt c.payload p)).sum ≠ 128) :
    exec (.poolCarveSet c) s = s.failed c stBadParam :=
  serve_failed h (if_pos (bne_iff_ne.mpr hsum))

/-- R340: a carve while a buffer is allocated. -/
theorem poolCarveSet_busy (h : accepted poolCarveSetSpec c s = true)
    (hsum : ((List.range 5).map (fun p => byteAt c.payload p)).sum = 128)
    (hbusy : s.pool.bufs.any (fun e => e.2.state == 1) = true) : exec (.poolCarveSet c) s = s.failed c stBusy :=
  serve_failed h ((if_neg (by simp [hsum])).trans (if_pos hbusy))

theorem poolCarveSet_sets_pages (h : accepted poolCarveSetSpec c s = true)
    (hsum : ((List.range 5).map (fun p => byteAt c.payload p)).sum = 128)
    (hfree : s.pool.bufs.any (fun e => e.2.state == 1) = false) :
    ∃ t, exec (.poolCarveSet c) s = s.answered t c ∧ t.pool.pages = (List.range 5).map (fun p => byteAt c.payload p) :=
  ⟨_, serve_answered h ((if_neg (by simp [hsum])).trans (if_neg (by simp [hfree]))), foldl_notePoolLow_pages _ _⟩

/-- The chain is configured with nothing in it, or not at all. -/
def State.chainEmpty (s : State) (k : Nat) : Prop := ∀ x, s.chain? k = some x → x.ents = []

theorem chainEmpty_of_deleted (k : Nat) : ({ s with tcam.chains := s.tcam.chains.del k }.wrote 1).chainEmpty k := by
  intro x hx
  rw [State.chain?, State.wrote_tcam, Tbl.get?_del_same] at hx
  cases hx

theorem chainEmpty_of_set {k : Nat} {y : Chain} (hy : y.ents = []) : ((s.setChain k y).wrote 1).chainEmpty k := by
  intro x hx
  rw [State.chain?, State.wrote_tcam] at hx
  rw [← hy, ← Option.some.inj ((State.setChain_chain_same s k y).symm.trans hx)]

/-- The result of a command's body is a failure that leaves the device as it was, or OK in a state with a property. -/
def FailsOrReaches (s : State) (P : State → Prop) (r : Res) : Prop :=
  (∃ st, st ≠ stOk ∧ r = Res.err s st) ∨ ∃ t, r = { st := t } ∧ P t

section
variable {P : State → Prop}

theorem FailsOrReaches.err {st : Nat} (h : st ≠ stOk) : FailsOrReaches s P (Res.err s st) := .inl ⟨st, h, rfl⟩

theorem FailsOrReaches.ok {t : State} (h : P t) : FailsOrReaches s P { st := t } := .inr ⟨t, rfl, h⟩

theorem FailsOrReaches.ite {p : Prop} [Decidable p] {a b : Res} (ha : FailsOrReaches s P a) (hb : FailsOrReaches s P b) :
    FailsOrReaches s P (if p then a else b) := by
  split
  · exact ha
  · exact hb

/-- An accepted command fails or completes with OK as its body does. -/
theorem serve_of_failsOrReaches {x : CmdSpec} {body : Cmd → State → Res} (h : accepted x c s = true)
    (hbody : FailsOrReaches s P (body c s)) :
    (∃ st, st ≠ stOk ∧ serve c (gate x body) s = s.failed c st) ∨ ∃ t, serve c (gate x body) s = s.answered t c ∧ P t :=
  hbody.imp (fun ⟨st, hst, he⟩ => ⟨st, hst, serve_failed h he⟩) (fun ⟨t, he, ht⟩ => ⟨t, serve_answered h he, ht⟩)

end

/-- R220: each check of TCAM_CHAIN_CONFIG fails it; past them its chain is deleted, or set up without an entry. -/
theorem tcamChainConfig_empties (h : accepted tcamChainConfigSpec c s = true) :
    (∃ st, st ≠ stOk ∧ exec (.tcamChainConfig c) s = s.failed c st) ∨
    ∃ t, exec (.tcamChainConfig c) s = s.answered t c ∧ t.chainEmpty (byteAt c.payload 0) := by
  have hbad : stBadParam ≠ stOk := by decide
  have hfull : stNoResource ≠ stOk := by decide
  refine serve_of_failsOrReaches h ?_
  exact .ite (.err hbad) (.ite (.ite (.err hbad) (.ok (chainEmpty_of_deleted _)))
    (.ite (.err hbad) (.ite (.err hfull) (.ite (.err hbad) (.ite (.err hfull) (.ok (chainEmpty_of_set rfl)))))))

end

/-- Settles O13: the three commands share the mode check of Configure, and each accepted one is run through its body. -/
theorem configureOnlyCommands : Obligations.ConfigureOnlyCommands := by
  unfold Obligations.ConfigureOnlyCommands
  intro c s
  have hmode (hm : s.mode.mode ≠ mdConfigure) : (if s.mode.mode == mdConfigure then 0 else stWrongMode) = stWrongMode :=
    if_neg (by simpa using hm)
  refine ⟨fun hm => ⟨hmode hm, hmode hm, hmode hm⟩, ?_, tableSplitSet_erases, tcamChainConfig_empties, poolCarveSet_bad_sum,
    poolCarveSet_busy, poolCarveSet_sets_pages⟩
  intro hserving hblocked htarget hgaveUp hm
  have hrefused {x : CmdSpec} {body : Cmd → State → Res} (hgrade : x.opcode / 256 ≠ 2)
      (hx : x.mode c.payload s = stWrongMode) (hheader : badHeader x c = false) :
      serve c (gate x body) s = s.failed c stWrongMode :=
    serve_of_wrong_mode hserving hblocked htarget hgaveUp hheader hgrade hx
  exact ⟨hrefused (by decide) (hmode hm), hrefused (by decide) (hmode hm), hrefused (by decide) (hmode hm)⟩

end Sys2Proof.Machine
end

section
/-! Batches in the table write port (R22, R196): one operation of a batch, the first failing one, and a batch run to its end. -/
namespace Sys2Proof.Machine
open Sys2Proof

/-- The state once an operation of a batch has succeeded: the route commands count the entries that they write themselves. -/
def State.opApplied (s : State) (opcode flags : Nat) (b : Bytes) : State :=
  if opcode == 0x0401 || opcode == 0x0402 then (s.batchOp opcode flags b).2 else (s.batchOp opcode flags b).2.wrote 1

theorem appliedOps_cons_of_ok {s : State} {opcode flags : Nat} {b : Bytes} {l : List Bytes}
    (h : (s.batchOp opcode flags b).1 = stOk) :
    s.appliedOps opcode flags (b :: l) = (s.opApplied opcode flags b).appliedOps opcode flags l :=
  if_pos (beq_iff_eq.mpr h)

/-- The operation of index `n` of a batch is the first one to fail: the `n` operations before it succeed and lead to state `u`,
and there operation `b` fails. -/
structure FirstFailure (s : State) (opcode flags : Nat) (l : List Bytes) (n : Nat) (u : State) (b : Bytes) : Prop where
  applied : s.appliedOps opcode flags (l.take n) = some u
  op : l[n]? = some b
  fails : (u.batchOp opcode flags b).1 ≠ stOk

theorem FirstFailure.head {s : State} {opcode flags : Nat} {b : Bytes} (l : List Bytes)
    (h : (s.batchOp opcode flags b).1 ≠ stOk) : FirstFailure s opcode flags (b :: l) 0 s b :=
  ⟨rfl, rfl, h⟩

/-- Behind an operation that succeeds the index of the first failing one is one greater. -/
theorem FirstFailure.cons {s u : State} {opcode flags n : Nat} {b d : Bytes} {l : List Bytes}
    (hok : (s.batchOp opcode flags b).1 = stOk) (h : FirstFailure (s.opApplied opcode flags b) opcode flags l n u d) :
    FirstFailure s opcode flags (b :: l) (n + 1) u d :=
  ⟨by rw [List.take_succ_cons, appliedOps_cons_of_ok hok, h.applied], h.op, h.fails⟩

/-- R22: an operation that succeeds with others behind it leaves those to the port. -/
theorem portOp_of_ok {s : State} {w : PortWork} {b : Bytes} {l : List Bytes} (hops : w.ops = b :: l) (hl : l ≠ [])
    (hok : (s.batchOp w.opcode w.flags b).1 = stOk) :
    s.portOp w = (.more { w with ops := l, applied := w.applied + 1 }, s.opApplied w.opcode w.flags b) := by
  simp [State.portOp, State.opApplied, hops, hok, hl]

/-- A batch whose last operation succeeds ends with OK. -/
theorem portOp_of_last_ok {s : State} {w : PortWork} {b : Bytes} (hops : w.ops = [b])
    (hok : (s.batchOp w.opcode w.flags b).1 = stOk) :
    s.portOp w = (.ended stOk (w.applied + 1) 0xFFFFFFFF, s.opApplied w.opcode w.flags b) := by
  simp [State.portOp, State.opApplied, hops, hok]

/-- R196: the status of a batch whose operation of index `n` fails with `st`. -/
def batchStatus (n st : Nat) : Nat := if n = 0 then st else stPartial

theorem batchStatus_ne_ok {st : Nat} (n : Nat) (h : st ≠ stOk) : batchStatus n st ≠ stOk := by
  unfold batchStatus
  split
  · exact h
  · decide

/-- R196: an operation that fails ends its batch, whatever stands behind it. -/
theorem portOp_of_failure {s : State} {w : PortWork} {b : Bytes} {l : List Bytes} (hops : w.ops = b :: l)
    (hfail : (s.batchOp w.opcode w.flags b).1 ≠ stOk) :
    s.portOp w = (.ended (batchStatus w.applied (s.batchOp w.opcode w.flags b).1) w.applied w.applied,
      (s.batchOp w.opcode w.flags b).2) := by
  simp [State.portOp, batchStatus, hops, hfail]

theorem portRun_succ_of_more {s t : State} {w v : PortWork} (n : Nat) (h : s.portOp w = (.more v, t)) :
    s.portRun (n + 1) w = t.portRun n v := by
  simp only [State.portRun, h]

theorem portRun_succ_of_ended {s t : State} {w : PortWork} {st a f : Nat} (n : Nat) (h : s.portOp w = (.ended st a f, t)) :
    s.portRun (n + 1) w = (.ended st a f, t) := by
  simp only [State.portRun, h]

/-- How the port ends the work in hand: with OK once every operation is applied, or at the first one that fails, whose index counts
from the first operation of the batch. -/
def RunEnds (s : State) (w : PortWork) : Prop :=
  (∃ t, s.portRun w.ops.length w = (.ended stOk (w.applied + w.ops.length) 0xFFFFFFFF, t) ∧
    s.appliedOps w.opcode w.flags w.ops = some t) ∨
  ∃ n u b, FirstFailure s w.opcode w.flags w.ops n u b ∧
    s.portRun w.ops.length w = (.ended (batchStatus (w.applied + n) (u.batchOp w.opcode w.flags b).1) (w.applied + n)
      (w.applied + n), (u.batchOp w.opcode w.flags b).2)

theorem runEnds_of_failure {s : State} {w : PortWork} {b : Bytes} {l : List Bytes} (hops : w.ops = b :: l)
    (hfail : (s.batchOp w.opcode w.flags b).1 ≠ stOk) : RunEnds s w := by
  refine .inr ⟨0, s, b, hops ▸ .head l hfail, ?_⟩
  rw [hops, List.length_cons, portRun_succ_of_ended _ (portOp_of_failure hops hfail), Nat.add_zero]

theorem runEnds_of_last_ok {s : State} {w : PortWork} {b : Bytes} (hops : w.ops = [b])
    (hok : (s.batchOp w.opcode w.flags b).1 = stOk) : RunEnds s w := by
  refine .inl ⟨s.opApplied w.opcode w.flags b, ?_, ?_⟩
  · rw [hops, List.length_singleton, portRun_succ_of_ended 0 (portOp_of_last_ok hops hok)]
  · rw [hops, appliedOps_cons_of_ok hok]
    rfl

/-- An operation that succeeds with others behind it: the run ends as that of the others does. -/
theorem runEnds_of_ok {s : State} {w : PortWork} {b : Bytes} {l : List Bytes} (hops : w.ops = b :: l) (hl : l ≠ [])
    (hok : (s.batchOp w.opcode w.flags b).1 = stOk)
    (hrest : RunEnds (s.opApplied w.opcode w.flags b) { w with ops := l, applied := w.applied + 1 }) : RunEnds s w := by
  have hrun : s.portRun w.ops.length w =
      (s.opApplied w.opcode w.flags b).portRun l.length { w with ops := l, applied := w.applied + 1 } := by
    rw [hops, List.length_cons, portRun_succ_of_more _ (portOp_of_ok hops hl hok)]
  have hcount (n : Nat) : w.applied + (n + 1) = w.applied + 1 + n := by omega
  obtain ⟨t, ht, happlied⟩ | ⟨n, u, d, hfirst, hend⟩ := hrest
  · refine .inl ⟨t, ?_, ?_⟩
    · rw [hrun, ht, hops, List.length_cons, hcount l.length]
    · rw [hops, appliedOps_cons_of_ok hok, happlied]
  · refine .inr ⟨n + 1, u, d, hops ▸ hfirst.cons hok, ?_⟩
    rw [hrun, hend, hcount n]

/-- The port ends every batch of at least one operation, by induction over its operations. -/
theorem runEnds_of_ne_nil {l : List Bytes} (hl : l ≠ []) (s : State) (w : PortWork) (hops : w.ops = l) : RunEnds s w := by
  induction l generalizing s w with
  | nil => exact absurd rfl hl
  | cons b l ih =>
    by_cases hok : (s.batchOp w.opcode w.flags b).1 = stOk
    · by_cases hlast : l = []
      · exact runEnds_of_last_ok (hlast ▸ hops) hok
      · exact runEnds_of_ok hops hlast hok (ih hlast _ _ rfl)
    · exact runEnds_of_failure hops hok

/-- Settles O16: the port ends every batch of at least one operation, either with all of them applied or at the first failing one,
and the status tells the two apart. -/
theorem batchesStopAtTheFirstFailure : Obligations.BatchesStopAtTheFirstFailure := by
  unfold Obligations.BatchesStopAtTheFirstFailure
  intro s id opcode flags l hl
  obtain ⟨t, hrun, happlied⟩ | ⟨n, u, b, ⟨happlied, hop, hfails⟩, hrun⟩ :=
    runEnds_of_ne_nil hl s { id, opcode, flags, ops := l } rfl
  · rw [Nat.zero_add] at hrun
    exact ⟨stOk, l.length, 0xFFFFFFFF, t, hrun, fun _ => ⟨rfl, rfl, happlied⟩, fun h => absurd rfl h⟩
  · rw [Nat.zero_add] at hrun
    obtain ⟨hn, -⟩ := List.getElem?_eq_some_iff.mp hop
    exact ⟨_, n, n, _, hrun, fun h => absurd h (batchStatus_ne_ok n hfails),
      fun _ => ⟨hn, rfl, u, b, happlied, hop, hfails, rfl, rfl⟩⟩

end Sys2Proof.Machine
end

section
/-! Scheduling tags (R316): the comparison is a signed reading of a 40-bit difference, and orders tags less than half the range
apart by which of them lies ahead. -/
namespace Sys2Proof.Machine
open Sys2Proof

theorem tagLt_iff (a b : Nat) : tagLt a b = true ↔ 2 ^ 39 ≤ (a + 2 ^ 40 - b) % 2 ^ 40 := decide_eq_true_iff

/-- The difference that `tagLt` forms without a negative intermediate value is the 40-bit one. -/
theorem toNat_tag_sub (a b : BitVec 40) : (a - b).toNat = (a.toNat + 2 ^ 40 - b.toNat) % 2 ^ 40 := by
  have hb := b.isLt
  rw [BitVec.toNat_sub, ← Nat.sub_add_comm hb.le, Nat.add_comm]

theorem tagLt_toNat_iff (a b : BitVec 40) : tagLt a.toNat b.toNat = true ↔ (a - b).toInt < 0 := by
  rw [tagLt_iff, BitVec.toInt_neg_iff, toNat_tag_sub]
  omega

/-- Seen from a tag, one that lies `d` ahead differs by `2 ^ 40 - d`, which is half the range or more. -/
theorem tagLt_ahead {a d : Nat} (ha : a < 2 ^ 40) (hpos : 0 < d) (hhalf : d < 2 ^ 39) :
    tagLt a ((a + d) % 2 ^ 40) = true := by
  have hdiff : (a + 2 ^ 40 - (a + d) % 2 ^ 40) % 2 ^ 40 = 2 ^ 40 - d := by omega
  rw [tagLt_iff, hdiff]
  omega

/-- Seen from a tag `d` ahead, the first one differs by `d`, which is below half the range. -/
theorem not_tagLt_of_ahead {a d : Nat} (ha : a < 2 ^ 40) (hhalf : d < 2 ^ 39) : tagLt ((a + d) % 2 ^ 40) a = false := by
  have hdiff : ((a + d) % 2 ^ 40 + 2 ^ 40 - a) % 2 ^ 40 = d := by omega
  rw [Bool.eq_false_iff, ne_eq, tagLt_iff, hdiff]
  exact Nat.not_le.mpr hhalf

/-- Settles O18: the signed reading for every two 40-bit tags, and both comparisons of a tag with one ahead of it. -/
theorem tagsCompareByTheirDifference : Obligations.TagsCompareByTheirDifference := by
  unfold Obligations.TagsCompareByTheirDifference
  exact ⟨tagLt_toNat_iff, fun _ _ ha hpos hhalf => ⟨tagLt_ahead ha hpos hhalf, not_tagLt_of_ahead ha hhalf⟩⟩

end Sys2Proof.Machine
end

section
/-! Commit times (R511): when one is valid, and the commands that fail with BAD_PARAM over an invalid one. -/
namespace Sys2Proof.Machine
open Sys2Proof

theorem validCommit_iff (now t : T32) :
    T32.validCommit now t = true ↔ 10000000 ≤ (t - now).toNat ∧ (t - now).toNat ≤ 1000000000 := by
  simp only [T32.validCommit, Bool.and_eq_true, decide_eq_true_eq]

theorem leValue_lt (n : Nat) (b : Bytes) : leValue n b < 256 ^ n := by
  induction n generalizing b with
  | zero => exact Nat.one_pos
  | succ n ih =>
    cases b with
    | nil => exact Nat.pow_pos (by decide)
    | cons d r =>
      have hd := d.isLt
      have hr := ih r
      simp only [leValue, Nat.pow_succ]
      omega

/-- A commit time other than 0 is not 0 as a T32 value: four bytes hold no more than 32 bits. -/
theorem commitTime_ne_zero {b : Bytes} {off : Nat} (h : le b off 4 ≠ 0) : BitVec.ofNat 32 (le b off 4) ≠ 0#32 := by
  have hlt : le b off 4 < 2 ^ 32 := leValue_lt 4 _
  intro hzero
  have hnat := congrArg BitVec.toNat hzero
  rw [BitVec.toNat_ofNat, Nat.mod_eq_of_lt hlt] at hnat
  exact h hnat

section
variable {c : Cmd} {s : State}

/-- R197, R511: every check that a timed batch meets up to its commit time gives the same status. -/
theorem startBatch_bad_commit {b : Bytes} (opcode : Nat) (htimed : bit (byteAt b 2) 1 = true)
    (hbad : T32.validCommit s.t32 (BitVec.ofNat 32 (le b 4 4)) = false) : s.startBatch opcode b = Res.err s stBadParam := by
  simp only [State.startBatch, htimed, hbad, Bool.not_false, if_true, ite_self]

theorem batch_bad_commit {opcode size : Nat} (htimed : bit (byteAt c.payload 2) 1 = true)
    (hbad : T32.validCommit s.t32 (BitVec.ofNat 32 (le c.payload 4 4)) = false)
    (h : accepted (batchSpec opcode size) c s = true) :
    serve c (gate (batchSpec opcode size) (fun c s => s.startBatch opcode c.payload)) s = s.failed c stBadParam :=
  serve_failed h (startBatch_bad_commit opcode htimed hbad)

section
variable (hbad : T32.validCommit s.t32 (BitVec.ofNat 32 (le c.payload 4 4)) = false) (htimed : le c.payload 4 4 ≠ 0)
include hbad htimed

theorem timeStep_bad_commit (h : accepted timeStepSpec c s = true) : exec (.timeStep c) s = s.failed c stBadParam :=
  serve_failed h (if_pos (by simp [hbad, commitTime_ne_zero htimed]))

theorem perfControl_bad_commit (h : accepted perfControlSpec c s = true) :
    exec (.perfControl c) s = s.failed c stBadParam :=
  serve_failed h (if_pos (by simp [hbad, commitTime_ne_zero htimed]))

theorem hierModeChange_bad_commit (h : accepted hierModeChangeSpec c s = true) :
    exec (.hierModeChange c) s = s.failed c stBadParam :=
  serve_failed h (if_pos (by simp [hbad, commitTime_ne_zero htimed]))

theorem saTxSwitch_bad_commit (h : accepted saTxSwitchSpec c s = true)
    (hport : s.portExists (byteAt c.payload 0) = true) (hslot : byteAt c.payload 1 ≤ 1)
    (hsa : ((s.secy (byteAt c.payload 0)).sa 0 (byteAt c.payload 1)).isSome = true) :
    exec (.saTxSwitch c) s = s.failed c stBadParam := by
  have hexists : (!s.portExists (byteAt c.payload 0) || decide (1 < byteAt c.payload 1) ||
      ((s.secy (byteAt c.payload 0)).sa 0 (byteAt c.payload 1)).isNone) = false := by
    simp [hport, Nat.not_lt.mpr hslot, Option.isNone_eq_false_iff.mpr hsa]
  exact serve_failed h ((if_neg (Bool.eq_false_iff.mp hexists)).trans
    ((if_neg (by simp [commitTime_ne_zero htimed])).trans (if_pos (by simp [hbad]))))

end

theorem histogramConfig_bad_start (hbad : T32.validCommit s.t32 (BitVec.ofNat 32 (le c.payload 16 4)) = false)
    (h : accepted histogramConfigSpec c s = true) : exec (.histogramConfig c) s = s.failed c stBadParam :=
  serve_failed h (if_pos (by simp [hbad]))

theorem sampleSetConfig_bad_start (hbad : T32.validCommit s.t32 (BitVec.ofNat 32 (le c.payload 16 4)) = false)
    (h : accepted sampleSetConfigSpec c s = true) : exec (.sampleSetConfig c) s = s.failed c stBadParam :=
  serve_failed h (if_pos (by simp [hbad]))

theorem ppsConfig_bad_target (hbad : T32.validCommit s.t32 (BitVec.ofNat 32 (le c.payload 8 4)) = false)
    (henable : bit (byteAt c.payload 0) 1 = true) (h : accepted ppsConfigSpec c s = true) :
    exec (.ppsConfig c) s = s.failed c stBadParam :=
  serve_failed h (if_pos (by simp [hbad, henable]))

end

/-- Settles O12: each command's body comes to its commit time before it changes anything, and the checks before that give
BAD_PARAM too. -/
theorem invalidCommitTimesAreRejected : Obligations.InvalidCommitTimesAreRejected := by
  unfold Obligations.InvalidCommitTimesAreRejected
  refine ⟨validCommit_iff, fun c s hbad => ⟨fun htimed => ?_, fun htimed => ?_⟩, fun c s hbad _ => ?_, fun c s => ?_⟩
  · have hbatch {opcode size : Nat} := batch_bad_commit (opcode := opcode) (size := size) htimed hbad
    simp only [List.forall_mem_cons]
    exact ⟨hbatch, hbatch, hbatch, hbatch, hbatch, hbatch, hbatch, hbatch, hbatch, List.forall_mem_nil _⟩
  · exact ⟨timeStep_bad_commit hbad htimed, perfControl_bad_commit hbad htimed, hierModeChange_bad_commit hbad htimed,
      saTxSwitch_bad_commit hbad htimed⟩
  · exact ⟨histogramConfig_bad_start hbad, sampleSetConfig_bad_start hbad⟩
  · exact ppsConfig_bad_target

end Sys2Proof.Machine
end

section
/-! What completing a command, telemetry and the work of a tick change: the parts of the state that they may touch, each operation
once. None of them touches the time base. -/
namespace Sys2Proof.Machine
open Sys2Proof

section
variable {l m : List Part} {s t u : State}

/-- `AgreeOff.mono` where the two lists are concrete. -/
theorem AgreeOff.widen (h : AgreeOff l s t) (hlm : l ⊆ m := by decide) : AgreeOff m s t := h.mono hlm

/-- A further change, of parts that are already listed. -/
theorem AgreeOff.andThen (h : AgreeOff m s t) (k : AgreeOff l t u) (hlm : l ⊆ m := by decide) : AgreeOff m s u :=
  h.trans (k.mono hlm)

/-- What both branches of a choice leave, the choice leaves. -/
theorem AgreeOff.ite {p : Prop} [Decidable p] (h : AgreeOff m s t) (k : AgreeOff m s u) :
    AgreeOff m s (if p then t else u) := by
  split
  · exact h
  · exact k

theorem agreeOff_sched {x : SchedSt} : AgreeOff [.sched] s { s with sched := x } := by
  intro p hp
  cases p <;> simp [Part.same] at hp ⊢

theorem agreeOff_pool {x : PoolSt} : AgreeOff [.pool] s { s with pool := x } := by
  intro p hp
  cases p <;> simp [Part.same] at hp ⊢

theorem agreeOff_hbm {x : HbmSt} : AgreeOff [.hbm] s { s with hbm := x } := by
  intro p hp
  cases p <;> simp [Part.same] at hp ⊢

theorem agreeOff_aux {x : AuxSt} : AgreeOff [.aux] s { s with aux := x } := by
  intro p hp
  cases p <;> simp [Part.same] at hp ⊢

end

theorem raiseLim_agreeOff (s : State) (code idx : Nat) (data : Nat → Bytes) :
    AgreeOff eventParts s (s.raiseLim code idx data) := by
  have hopened {x : HifSt} {b : Bytes} : AgreeOff eventParts s ({ s with hif := x }.raise code b) :=
    agreeOff_hif.widen.andThen (raise_agreeOff _ _ _)
  unfold State.raiseLim
  simp only
  split
  · exact hopened
  · split
    · exact hopened
    · exact agreeOff_hif.widen

theorem signalStatus_agreeOff (s t : State) : AgreeOff [.hif, .ctr] t (signalStatus s t) := by
  unfold signalStatus
  split
  · exact .refl
  · exact sendMsix_agreeOff _ _

theorem histAdd_agreeOff (s : State) (source inst v : Nat) : AgreeOff [.tel] s (s.histAdd source inst v) := agreeOff_tel

/-! ### Completions (R544, R548, R605) -/

theorem completeRing_agreeOff (s : State) (c : Cmd) (silent : Bool) (since : T32) (status : Nat) (result : Bytes)
    (resultLength applied failIndex detail : Nat) :
    AgreeOff countParts s (s.completeRing c silent since status result resultLength applied failIndex detail) := by
  unfold State.completeRing
  split
  · exact .refl
  · have hwritten {x : HifSt} {i v : Nat} : AgreeOff countParts s (({ s with hif := x }.bump 1418 0 status).histAdd 3 i v) :=
      (agreeOff_hif.widen.andThen (count_agreeOff _ _ _ _ _)).andThen (histAdd_agreeOff _ _ _ _)
    simp only
    split
    · exact hwritten.andThen (signal_agreeOff _ _ _)
    · exact hwritten

theorem reviewDist_agreeOff (s : State) (id : Nat) : AgreeOff countParts s (s.reviewDist id) := by
  unfold State.reviewDist
  split
  · split
    · exact agreeOff_hier.widen.trans
        (.foldl (fun _ _ => agreeOff_hif.widen.trans (completeRing_agreeOff _ _ _ _ _ _ _ _ _ _)) _)
    · exact .refl
  · exact .refl

theorem distStatus_agreeOff (s : State) (id f st : Nat) : AgreeOff countParts s (s.distStatus id f st) :=
  agreeOff_hier.widen.trans (reviewDist_agreeOff _ _)

theorem complete_agreeOff (s : State) (c : Cmd) (silent : Bool) (since : T32) (status : Nat) (result : Bytes)
    (resultLength applied failIndex detail : Nat) :
    AgreeOff countParts s (s.complete c silent since status result resultLength applied failIndex detail) := by
  unfold State.complete
  split
  · split
    · exact distStatus_agreeOff _ _ _ _
    · exact .foldl (fun _ _ => (sendMsg_agreeOff _ _ _ _ _).widen) _
  · exact completeRing_agreeOff _ _ _ _ _ _ _ _ _ _

/-- Ending the execution of a command changes no more than counting and sending do. -/
theorem finish_agreeOff (r : Res) (c : Cmd) : AgreeOff countParts r.st (r.finish c) := by
  unfold Res.finish
  split
  · exact agreeOff_hif.widen
  · exact complete_agreeOff _ _ _ _ _ _ _ _ _ _

/-! ### The telemetry channel (R346, R710-R713) -/

/-- The parts that a telemetry record changes: it lies in a buffer of the packet pools. -/
abbrev telemetryParts : List Part := [.pool, .hif, .fab, .hier, .tel, .ctr]

theorem notePoolLow_agreeOff (s : State) (p : Nat) : AgreeOff telemetryParts s (s.notePoolLow p) := by
  unfold State.notePoolLow
  simp only
  split
  · exact agreeOff_pool.widen.andThen (raise_agreeOff _ _ _)
  · split
    · exact agreeOff_pool.widen
    · exact .refl

theorem poolTake_agreeOff {s t : State} {c p h : Nat} {data : Bytes} (htake : s.poolTake c p data = some (h, t)) :
    AgreeOff telemetryParts s t := by
  unfold State.poolTake at htake
  split at htake
  · cases htake
  · cases htake
    exact (agreeOff_pool.widen.andThen (count_agreeOff _ _ _ _ _)).andThen (notePoolLow_agreeOff _ _)

theorem telLost_agreeOff (s : State) (l : List Nat) : AgreeOff telemetryParts s (s.telLost l) := by
  have hlost {x : TelSt} : AgreeOff telemetryParts s
      { (numbered 0 l).foldl (fun (a : State) e => a.count 1809 1 e.1 0 e.2) s with tel := x } :=
    (AgreeOff.foldl (fun _ _ => (count_agreeOff _ _ _ _ _).widen) _).andThen agreeOff_tel
  have hlimits {f : State → Nat × Nat → HifSt} {a : State} {m : List (Nat × Nat)} :
      AgreeOff telemetryParts a (m.foldl (fun (a : State) e => { a with hif := f a e }) a) :=
    .foldl (fun _ _ => agreeOff_hif.widen) _
  unfold State.telLost
  exact .ite .refl (.ite (((hlost.andThen agreeOff_hif).trans hlimits).andThen (raise_agreeOff _ _ _)) (hlost.trans hlimits))

theorem closeBlock_agreeOff (s : State) : AgreeOff telemetryParts s s.closeBlock := by
  unfold State.closeBlock
  split
  · exact .refl
  · have hblock {a : State} {x : HifSt} {y : TelSt} (h : AgreeOff telemetryParts s a) :
        AgreeOff telemetryParts s { a with hif := x, tel := y } :=
      (h.andThen agreeOff_hif).andThen (agreeOff_tel (s := { a with hif := x }))
    simp only
    split
    · exact hblock agreeOff_pool.widen
    · exact hblock .refl

theorem openBlock_agreeOff {s t : State} (hopen : s.openBlock = some t) : AgreeOff telemetryParts s t := by
  unfold State.openBlock at hopen
  split at hopen
  · cases hopen
  · split at hopen
    · obtain ⟨⟨h, u⟩, htake, rfl⟩ := Option.map_eq_some_iff.mp hopen
      exact (poolTake_agreeOff htake).andThen agreeOff_tel
    · cases hopen

/-- The open block, or a new one. -/
theorem heldBlock_agreeOff {s t : State}
    (h : (if s.tel.blockBuf.isSome then some s else s.openBlock) = some t) : AgreeOff telemetryParts s t := by
  split at h
  · cases h
    exact .refl
  · exact openBlock_agreeOff h

theorem telPut_agreeOff (s : State) (r : TelRec) : AgreeOff telemetryParts s (s.telPut r).2 := by
  unfold State.telPut
  extract_lets room t u
  have hroom : AgreeOff telemetryParts s t := .ite (closeBlock_agreeOff s) .refl
  cases hu : u with
  | some v => exact (hroom.trans (heldBlock_agreeOff hu)).andThen agreeOff_tel
  | none => exact hroom.trans (telLost_agreeOff _ _)

/-! ### Windows of sample sets and histograms (R331-R336, R705, R706) -/

theorem rollSamples_agreeOff (s : State) (k : Nat) (x : SampleSet) :
    AgreeOff [.sched, .hif, .fab, .hier, .ctr] s (s.rollSamples k x) := by
  have hset {y : SchedSt} : AgreeOff [.sched, .hif, .fab, .hier, .ctr] s { s with sched := y } := agreeOff_sched.widen
  unfold State.rollSamples
  refine .ite .refl (.ite (.ite hset .refl) (.ite .refl ?_))
  exact (AgreeOff.ite hset (hset.andThen (count_agreeOff _ _ _ _ _))).trans
    (.foldl (fun _ _ => (raiseLim_agreeOff _ _ _ _).widen) _)

theorem writeHist_agreeOff (s : State) (k : Nat) : AgreeOff telemetryParts s (s.writeHist k) := by
  unfold State.writeHist
  simp only
  split
  · exact .refl
  · exact ((telPut_agreeOff _ _).andThen (count_agreeOff _ _ _ _ _)).andThen agreeOff_tel

theorem rollHist_agreeOff (s : State) (k : Nat) : AgreeOff telemetryParts s (s.rollHist k) := by
  unfold State.rollHist
  exact .ite .refl (.ite (.ite agreeOff_tel.widen .refl) (.ite .refl ((writeHist_agreeOff _ _).andThen agreeOff_tel)))

/-- The parts that the windows which end at a tick change. -/
abbrev windowParts : List Part := .sched :: telemetryParts

theorem rollWindows_agreeOff (s : State) : AgreeOff windowParts s s.rollWindows :=
  .trans (.foldl (fun _ _ => (rollSamples_agreeOff _ _ _).widen) _) (.foldl (fun _ _ => (rollHist_agreeOff _ _).widen) _)

/-! ### The time base (R498, R499) -/

theorem flashPin_agreeOff (s : State) : AgreeOff [.aux] s s.flashPin := .ite agreeOff_aux .refl

/-- A tick of the time base is its advance, with the windows that end then and the flash pin. -/
theorem tickTime_agreeOff (s : State) : AgreeOff (.aux :: windowParts) s.advance s.tickTime :=
  (rollWindows_agreeOff _).widen.andThen (flashPin_agreeOff _)

@[simp] theorem State.tickTime_time (s : State) : s.tickTime.time = s.advance.time := tickTime_agreeOff s .time (by decide)

@[simp] theorem State.tickTime_tbl (s : State) : s.tickTime.tbl = s.tbl := tickTime_agreeOff s .tbl (by decide)

@[simp] theorem State.raise_time (s : State) (code : Nat) (data : Bytes) : (s.raise code data).time = s.time :=
  raise_agreeOff s code data .time (by decide)

@[simp] theorem finish_time (r : Res) (c : Cmd) : (r.finish c).time = r.st.time := finish_agreeOff r c .time (by decide)

@[simp] theorem signalStatus_time (s t : State) : (signalStatus s t).time = t.time :=
  signalStatus_agreeOff s t .time (by decide)

section
variable {c : Cmd} {s : State}

/-! ### TIME_INCREMENT_SET and TIME_STEP (R500-R504, R510) -/

/-- The tick that adds a new increment leaves it as it was written, and so does the end of holdover (R501, R514). -/
theorem writeInc_inc (s : State) (v : BitVec 40) : (s.writeInc v).time.inc = v := by
  have hwritten : ({ s with time.inc := v }.tickTime).time.inc = v := by rw [State.tickTime_time]; rfl
  unfold State.writeInc
  simp only
  split
  · rw [State.raise_time]
    exact hwritten
  · exact hwritten

/-- R500: an increment in range is written. -/
theorem timeIncrementSet_writes (h : accepted timeIncrementSetSpec c s = true) (hlow : 0x0154FDF3B6 ≤ le c.payload 0 5)
    (hhigh : le c.payload 0 5 ≤ 0x0155ACB6F4) :
    exec (.timeIncrementSet c) s = s.answered (s.writeInc (BitVec.ofNat 40 (le c.payload 0 5))) c
      (toLe 4 (s.writeInc (BitVec.ofNat 40 (le c.payload 0 5))).time.incT32.toNat) :=
  serve_answered h (if_neg (by simp [inRange, hlow, hhigh]))

/-- R500: an increment out of range. -/
theorem timeIncrementSet_bad_param (h : accepted timeIncrementSetSpec c s = true)
    (hrange : le c.payload 0 5 < 0x0154FDF3B6 ∨ 0x0155ACB6F4 < le c.payload 0 5) :
    exec (.timeIncrementSet c) s = s.failed c stBadParam :=
  serve_failed h (if_pos (by rcases hrange with hr | hr <;> simp [inRange, Nat.not_le.mpr hr]))

/-- A step is untimed, or has a valid commit time and no other step is staged (R504, R511). -/
def State.stepTimeOk (s : State) (t : T32) : Prop := t = 0 ∨ (T32.validCommit s.t32 t = true ∧ s.time.step = none)

/-- The checks of TIME_STEP on its commit time let such a step through to the rest `r`. -/
theorem stepTimeOk_passes {t : T32} {a b r : Res} (h : s.stepTimeOk t) :
    (if t != 0 && !T32.validCommit s.t32 t then a else if t != 0 && s.time.step.isSome then b else r) = r := by
  rcases h with rfl | ⟨hvalid, hnone⟩
  · simp
  · simp [hvalid, hnone]

section
variable (h : accepted timeStepSpec c s = true) (htime : s.stepTimeOk (BitVec.ofNat 32 (le c.payload 4 4)))
include h htime

/-- R503: a step beyond the threshold is refused, and the clock does not move. -/
theorem timeStep_refused (hoff : s.time.stepThreshold < (leS c.payload 0 4).natAbs) :
    exec (.timeStep c) s = .next (signalStatus s (Res.finish
      { st := s.refuseStep (leS c.payload 0 4), status := stRefused, keep := true } c)) :=
  serve_finished h ((stepTimeOk_passes htime).trans (if_pos hoff)) rfl

section
variable (hoff : (leS c.payload 0 4).natAbs ≤ s.time.stepThreshold) (hfits : s.stepFits (leS c.payload 0 4) = true)
include hoff hfits

/-- R502, R743: an untimed step takes place at the next tick. -/
theorem timeStep_applied (huntimed : BitVec.ofNat 32 (le c.payload 4 4) = 0) :
    exec (.timeStep c) s = s.answered (s.advance.applyStep (leS c.payload 0 4)) c
      (toLe 4 (s.advance.applyStep (leS c.payload 0 4)).t32.toNat) :=
  serve_answered h ((stepTimeOk_passes htime).trans ((if_neg (Nat.not_lt.mpr hoff)).trans
    ((if_neg (by simp [hfits])).trans (if_neg (by simp [huntimed])))))

/-- R504: a timed step is staged. -/
theorem timeStep_staged (htimed : BitVec.ofNat 32 (le c.payload 4 4) ≠ 0) :
    exec (.timeStep c) s = s.answered { s with
      time.step := some { offset := leS c.payload 0 4, t := BitVec.ofNat 32 (le c.payload 4 4) } } c (zeros 4) :=
  serve_answered h ((stepTimeOk_passes htime).trans ((if_neg (Nat.not_lt.mpr hoff)).trans
    ((if_neg (by simp [hfits])).trans (if_pos (bne_iff_ne.mpr htimed)))))

end
end
end

/-- Settles O11: both commands are run through their checks; neither raising an event nor completing moves the clock. -/
theorem timeBaseSteeringLimits : Obligations.TimeBaseSteeringLimits := by
  unfold Obligations.TimeBaseSteeringLimits
  refine fun c s => ⟨fun h => ⟨fun hlow hhigh => ⟨writeInc_inc _ _, timeIncrementSet_writes h hlow hhigh⟩,
    timeIncrementSet_bad_param h⟩, fun h htime => ⟨fun hoff => ?_, timeStep_applied h htime, timeStep_staged h htime⟩⟩
  refine ⟨_, timeStep_refused h htime hoff, ?_, rfl⟩
  rw [finish_time]
  exact State.raise_time _ _ _

end Sys2Proof.Machine
end

section
/-! The idle step (R498, R499; that it is a tick is log 3's choice): the work of a tick beside the time base changes neither that nor
the tables while no batch is in the table write port, and with nothing waiting there is no such work. -/
namespace Sys2Proof.Machine
open Sys2Proof

/-! ### Performance counters (R699, R702) -/

theorem perfCycles_agreeOff (s : State) : AgreeOff countParts s s.perfCycles := by
  unfold State.perfCycles
  exact .foldl (fun _ _ => perfAdd_agreeOff _ _ _ _ _) _

theorem perfOp_agreeOff (s : State) (op fe tm : Nat) : AgreeOff [.tel] s (s.perfOp op fe tm) := by
  unfold State.perfOp
  exact .foldl (fun _ _ => agreeOff_tel) _

theorem perfTick_agreeOff (s : State) : AgreeOff countParts s s.perfTick := by
  unfold State.perfTick
  exact ((perfCycles_agreeOff s).andThen agreeOff_tel).trans (.foldl (fun _ _ => (perfOp_agreeOff _ _ _ _).widen) _)

/-! ### Cell slots of the fabric lanes (R330, R379, R425) -/

theorem requestSlot_agreeOff (s : State) : AgreeOff [.fab] s s.requestSlot := by
  unfold State.requestSlot
  simp only
  split
  · exact .refl
  · split
    · exact .refl
    · exact .ite (agreeOff_fab.trans (sendCell_agreeOff _ _ _ _)) agreeOff_fab

theorem laneSlot_agreeOff (s : State) (slot l : Nat) : AgreeOff [.fab, .ctr] s (s.laneSlot slot l) := by
  have hput {x : FabSt} : AgreeOff [.fab, .ctr] s { s with fab := x } := agreeOff_fab.widen
  unfold State.laneSlot
  refine .ite hput ?_
  split
  · exact hput
  · have hsent {x : FabSt} {i j : Nat} : AgreeOff [.fab, .ctr] s ({ s with fab := x }.bump 1013 0 i j) :=
      hput.andThen (count_agreeOff _ _ _ _ _)
    exact .ite (hsent.andThen agreeOff_fab) hsent

theorem fabricSlots_agreeOff (s : State) : AgreeOff [.fab, .ctr] s s.fabricSlots := by
  unfold State.fabricSlots
  exact .ite .refl ((AgreeOff.ite .refl (requestSlot_agreeOff s).widen).trans (.foldl (fun _ _ => laneSlot_agreeOff _ _ _) _))

/-! ### Command slots of the packet memory (R461-R468) -/

/-- The parts that a command slot of the packet memory changes. -/
abbrev hbmParts : List Part := .hbm :: countParts

theorem riseReq_agreeOff (s : State) (r : HbmReq) : AgreeOff hbmParts s (s.riseReq r) := by
  have hrisen {x : HbmSt} : AgreeOff hbmParts s { s with hbm := x } := agreeOff_hbm.widen
  unfold State.riseReq State.deadlineMiss
  exact .ite .refl (.ite ((hrisen.andThen (count_agreeOff _ _ _ _ _)).andThen (perfCount_agreeOff _ _ _ _ _ _)) hrisen)

theorem meterTake_agreeOff (s : State) (k : Nat) : AgreeOff [.hbm] s (s.meterTake k) := agreeOff_hbm

theorem noteStarve_agreeOff (s : State) (p : Nat) (l : List HbmReq) (served : Option HbmReq) :
    AgreeOff [.hbm] s (s.noteStarve p l served) := by
  unfold State.noteStarve
  exact .ite agreeOff_hbm agreeOff_hbm

theorem access_agreeOff (s : State) (p b row : Nat) : AgreeOff [.hbm, .ctr] s (s.access p b row) := by
  unfold State.access
  exact agreeOff_hbm.widen.andThen (count_agreeOff _ _ _ _ _)

theorem hbmSlot_agreeOff (s : State) (p : Nat) : AgreeOff hbmParts s (s.hbmSlot p) := by
  have hturned {x : HbmSt} : AgreeOff [.hbm] s { s with hbm := x } := agreeOff_hbm
  unfold State.hbmSlot
  refine .ite .refl (.ite hturned.widen ?_)
  simp only
  split
  · exact (hturned.trans (noteStarve_agreeOff _ _ _ _)).widen
  · have hmetered {q : Prop} [Decidable q] {a : State} {k : Nat} (h : AgreeOff [.hbm] s a) :
        AgreeOff [.hbm] s (if q then a.meterTake k else a) := .ite (h.trans (meterTake_agreeOff _ _)) h
    have hissued {a : State} {x : HbmSt} (h : AgreeOff [.hbm] s a) : AgreeOff hbmParts s { a with hbm := x } :=
      (h.trans agreeOff_hbm).widen
    exact ((hissued ((hmetered hturned).trans (noteStarve_agreeOff _ _ _ _))).andThen (access_agreeOff _ _ _ _)).andThen
      (histAdd_agreeOff _ _ _ _)

theorem hbmSlots_agreeOff (s : State) : AgreeOff hbmParts s s.hbmSlots := by
  unfold State.hbmSlots
  exact .trans (.foldl (fun _ _ => riseReq_agreeOff _ _) _) (.foldl (fun _ _ => hbmSlot_agreeOff _ _) _)

/-! ### The tick -/

/-- A port without work and without a timed batch does nothing. -/
theorem portStep_of_idle {s : State} (hport : s.tbl.port = []) (hbatches : s.tbl.batches = []) : s.portStep = s := by
  simp [State.portStep, hport, hbatches]

/-- The parts that a tick changes, beside those which its time base and table write port do. -/
abbrev tickParts : List Part := .hbm :: .aux :: windowParts

/-- While no batch is in the table write port a tick is the advance of the time base and work elsewhere. -/
theorem tick_agreeOff {s t : State} (hport : s.tbl.port = []) (hbatches : s.tbl.batches = []) (h : tick s = .next t) :
    AgreeOff tickParts s.advance t := by
  have htime : AgreeOff tickParts s.advance s.tickTime := (tickTime_agreeOff s).widen
  unfold tick at h
  split at h
  · cases h
    exact htime.andThen (signalStatus_agreeOff _ _)
  · have hperf : AgreeOff countParts s.tickTime s.tickTime.perfTick := perfTick_agreeOff _
    have htbl : s.tickTime.perfTick.tbl = s.tbl := (hperf .tbl (by decide)).trans (State.tickTime_tbl s)
    rw [portStep_of_idle (by rw [htbl, hport]) (by rw [htbl, hbatches])] at h
    cases h
    have hslots := (htime.andThen hperf).andThen (fabricSlots_agreeOff _)
    exact (hslots.trans (.ite .refl (hbmSlots_agreeOff _).widen)).andThen (signalStatus_agreeOff _ _)

theorem tick_completes (s : State) : ∃ t, tick s = .next t := by
  unfold tick
  split
  · exact ⟨_, rfl⟩
  · exact ⟨_, rfl⟩

section
variable {s : State}

/-- No window can end where there is no sample set and no histogram. -/
theorem rollWindows_of_none (hsamples : s.sched.samples = []) (hhists : s.tel.hists = []) : s.rollWindows = s := by
  simp [State.rollWindows, hsamples, hhists]

theorem tickTime_of_no_windows (hsamples : s.sched.samples = []) (hhists : s.tel.hists = [])
    (hflash : s.aux.flResetN = true) : s.tickTime = s.advance := by
  rw [State.tickTime, rollWindows_of_none (s := s.advance) hsamples hhists]
  exact if_neg (by simp [hflash])

theorem perfTick_of_none (hperf : s.tel.perf = []) (hnext : s.tel.perfNext = []) : s.perfTick = s := by
  have hcycles : s.perfCycles = s := by simp [State.perfCycles, hperf]
  unfold State.perfTick
  rw [hcycles, hnext]
  exact congrArg (fun x => { s with tel := { s.tel with perfNext := x } }) hnext.symm

theorem fabricSlots_of_none (hreqs : s.fab.reqs = []) (hlanes : s.fab.laneQ = []) : s.fabricSlots = s := by
  simp [State.fabricSlots, hreqs, hlanes]

end

/-- Settles O2: a tick always answers; the frame of its work holds the time base, and with nothing waiting each part of that work
leaves the state as it is. -/
theorem idleStepIsOneTick : Obligations.IdleStepIsOneTick := by
  unfold Obligations.IdleStepIsOneTick
  intro s hpending
  have hstep : step s = tick s := by rw [step, hpending]
  rw [hstep]
  refine ⟨tick_completes s, fun hport hbatches t h => tick_agreeOff hport hbatches h .time (by decide), ?_⟩
  intro hport hbatches hhbm hreqs hlanes hperf hnext hhists hsamples hflash
  have htime : s.tickTime = s.advance := tickTime_of_no_windows hsamples hhists hflash
  have hperfTick : s.advance.perfTick = s.advance := perfTick_of_none hperf hnext
  have hfabric : s.advance.fabricSlots = s.advance := fabricSlots_of_none hreqs hlanes
  unfold tick
  rw [htime, hperfTick, portStep_of_idle (s := s.advance) hport hbatches, hfabric]
  simp [hhbm]

end Sys2Proof.Machine
end

section
/-! The checks that stand before a mailbox command: its header and its target (R546, R547), and what a command that fails leaves
(R548). -/
namespace Sys2Proof.Machine
open Sys2Proof

section
variable {x : CmdSpec} {body : Cmd → State → Res} {c : Cmd} {s : State}

theorem serve_of_serving (f : Cmd → State → Res) (hserving : s.serving = true) (hblocked : s.blocked c = false) :
    serve c f s = done s ((f c s).finish c) :=
  if_pos (by simp [hserving, hblocked])

/-- A command that a check fails is served by its completion alone. -/
theorem serve_of_err {f : Cmd → State → Res} {st : Nat} (hserving : s.serving = true) (hblocked : s.blocked c = false)
    (h : f c s = Res.err s st) : serve c f s = s.failed c st := by
  rw [serve_of_serving f hserving hblocked, h]
  rfl

/-! ### The header (R546) -/

theorem badHeader_iff : badHeader x c = true ↔
    4 ≤ c.flags ∨ 1048576 < c.payload.length ∨ x.long c.payload = false ∨ 1048576 < c.capacity := by
  simp only [badHeader, Bool.or_eq_true, decide_eq_true_eq, Bool.not_eq_true', or_assoc]
  exact or_congr_right (or_congr_right or_comm)

theorem gate_of_bad_header (h : badHeader x c = true) : gate x body c s = Res.err s stBadParam := if_pos h

theorem runOp_of_undefined {f : Nat → Option CmdFn} {op : Nat} (h : f op = none) :
    runOp f { opcode := op, cmd := c } s = Res.err s stBadOpcode := by
  simp only [runOp, h]

/-- An entry that firmware may fetch leaves the ring and is executed (R542). -/
theorem commandFetch_of_canFetch {e : CmdEntry} (hfetch : s.canFetch = true)
    (hblocked : s.blocked { e.cmd with relay := none } = false) :
    exec (.commandFetch e) s = done s ((runOp opTable { e with cmd := { e.cmd with relay := none } }
      { s with hif.cmdRing.dev := (s.hif.cmdRing.dev + 1) % 65536 }).finish { e.cmd with relay := none }) :=
  if_neg (by simp [hfetch, hblocked])

/-- The classes of opcodes end with 0x12. -/
theorem opsBelow_of_class_above {op : Nat} (h : 0x12 < op / 256) : opsBelow op = none := by
  obtain ⟨n, hn⟩ : ∃ n, op / 256 = n + 0x13 := ⟨op / 256 - 0x13, by omega⟩
  simp only [opsBelow, hn]

theorem opTable_of_class_above {op : Nat} (h : 0x12 < op / 256) : opTable op = none := by
  have hdist : op ≠ 0x0E05 := by omega
  rw [opTable, if_neg (by simp [hdist]), opsBelow_of_class_above h]

/-! ### The target (R547) -/

/-- A command with a good header for another device comes to the relay of R547. -/
theorem gate_of_other_target (hheader : badHeader x c = false) (htarget : c.target ≠ s.fab.fdi) :
    gate x body c s = if s.isManager && s.hier.table.contains c.target then
      if x.relayed then { st := s.relayTo x.opcode c none, async := some (.relay s.hier.relaySeq) } else Res.err s stRefused
      else Res.err s stNotFound :=
  (if_neg (by simp [hheader])).trans (if_pos (by simp [htarget]))

section
variable (hheader : badHeader x c = false) (htarget : c.target ≠ s.fab.fdi)
include hheader htarget

theorem gate_relays (hmember : (s.isManager && s.hier.table.contains c.target) = true) (hrelayed : x.relayed = true) :
    gate x body c s = { st := s.relayTo x.opcode c none, async := some (.relay s.hier.relaySeq) } :=
  (gate_of_other_target hheader htarget).trans ((if_pos hmember).trans (if_pos hrelayed))

/-- R530: steering the time base of another device. -/
theorem gate_refuses (hmember : (s.isManager && s.hier.table.contains c.target) = true) (hrelayed : x.relayed = false) :
    gate x body c s = Res.err s stRefused :=
  (gate_of_other_target hheader htarget).trans ((if_pos hmember).trans (if_neg (by simp [hrelayed])))

theorem gate_finds_no_target (hmember : (s.isManager && s.hier.table.contains c.target) = false) :
    gate x body c s = Res.err s stNotFound :=
  (gate_of_other_target hheader htarget).trans (if_neg (Bool.eq_false_iff.mp hmember))

end

/-! ### What a failure leaves (R548) -/

/-- The state is the one before a command on this device, or its result stands: OK, PARTIAL, or kept by the command's chapter. -/
theorem runLocal_st_or_stands : (runLocal x body c s).st = s ∨ ((runLocal x body c s).status == stOk ||
    (runLocal x body c s).status == stPartial || (runLocal x body c s).keep) = true := by
  unfold runLocal
  split_ifs with hgrade hgaveUp hquarantine hmode hclean hsize hwaits
  · exact .inl rfl
  · exact .inl rfl
  · exact .inl rfl
  · exact .inl rfl
  · exact .inl rfl
  · exact .inl rfl
  · exact .inr rfl
  · simp only
    split
    next hstands => exact .inr hstands
    next => exact .inl rfl

/-- The same of every mailbox command: a relayed one waits with status OK. -/
theorem gate_st_or_stands : (gate x body c s).st = s ∨ ((gate x body c s).status == stOk ||
    (gate x body c s).status == stPartial || (gate x body c s).keep) = true := by
  unfold gate
  split_ifs with hheader htarget hmember hrelayed
  · exact .inl rfl
  · exact .inr rfl
  · exact .inl rfl
  · exact .inl rfl
  · exact runLocal_st_or_stands

/-- A command with another status than OK and PARTIAL, which no rule keeps, leaves the state. -/
theorem gate_st_of_failure (hok : (gate x body c s).status ≠ stOk) (hpartial : (gate x body c s).status ≠ stPartial)
    (hkeep : (gate x body c s).keep = false) : (gate x body c s).st = s :=
  Or.resolve_right gate_st_or_stands (by simp [hok, hpartial, hkeep])

theorem Res.with_own_st {r : Res} (h : r.st = s) : { r with st := s } = r := by
  subst h
  rfl

end

/-- Settles O8: an opcode above the last class meets no row of the table, and each fault of the header makes `badHeader` true, the
first check of the gate. -/
theorem headerChecksComeFirst : Obligations.HeaderChecksComeFirst := by
  unfold Obligations.HeaderChecksComeFirst
  refine ⟨fun e s hfetch hblocked hop => ?_, fun _ => opTable_of_class_above, fun x body c s hserving hblocked hfault => ?_⟩
  · rw [commandFetch_of_canFetch hfetch hblocked, runOp_of_undefined hop]
  · exact serve_of_err hserving hblocked (gate_of_bad_header (Iff.mpr badHeader_iff hfault))

/-- Settles O9: past a good header a foreign target decides the gate by the member table and by whether the command is relayed. -/
theorem otherTargetsAreRelayedOrNotFound : Obligations.OtherTargetsAreRelayedOrNotFound := by
  unfold Obligations.OtherTargetsAreRelayedOrNotFound
  intro x body c s hserving hblocked hheader htarget
  refine ⟨fun hmgr htable hrelayed => ?_, fun hmgr htable hrelayed => ?_, fun hnone => ?_⟩
  · rw [serve_of_serving _ hserving hblocked, gate_relays hheader htarget (by simp only [hmgr, htable, Bool.and_self]) hrelayed]
    rfl
  · exact serve_of_err hserving hblocked
      (gate_refuses hheader htarget (by simp only [hmgr, htable, Bool.and_self]) hrelayed)
  · exact serve_of_err hserving hblocked (gate_finds_no_target hheader htarget (Bool.and_eq_false_iff.mpr hnone))

/-- Settles O10: every way through the gate to a failing status keeps the state, and the completion is then that of the result in
its own state. -/
theorem failureLeavesTheDevice : Obligations.FailureLeavesTheDevice := by
  unfold Obligations.FailureLeavesTheDevice
  intro x body c s hok hpartial hkeep
  have hst : (gate x body c s).st = s := gate_st_of_failure hok hpartial hkeep
  refine ⟨hst, fun hserving hblocked => ?_⟩
  rw [Res.with_own_st hst]
  exact serve_of_serving _ hserving hblocked

end Sys2Proof.Machine
end

section
/-! The size of a counter snapshot (R745). -/
namespace Sys2Proof.Machine
open Sys2Proof

@[simp] theorem toLe_length (n v : Nat) : (toLe n v).length = n := by
  induction n generalizing v with
  | zero => rfl
  | succ n ih => rw [toLe, List.length_cons, ih]

/-- One name of a table: 8 bytes for each pair of indices. -/
theorem snapName_length (val : Nat → Nat → Nat) (ni nj : Nat) : (snapName val ni nj).length = 8 * (ni * nj) := by
  simp only [snapName, List.length_flatMap, toLe_length, List.map_const', List.length_range, List.sum_replicate, smul_eq_mul]
  ring

theorem snapFrom_length (s : State) (table : Nat) (current : Nat → Nat → Nat → Option Nat) (n : Nat)
    (dims : List (Nat × Nat)) : (s.snapFrom table current n dims).length = snapSize dims := by
  induction dims generalizing n with
  | nil => rfl
  | cons d dims ih =>
    obtain ⟨ni, nj⟩ := d
    rw [State.snapFrom, List.length_append, snapName_length, ih, snapSize, snapSize, List.map_cons, List.sum_cons, Nat.mul_add]

/-- Settles O21, by induction over the names of the table. -/
theorem snapshotsHaveTheirSize : Obligations.SnapshotsHaveTheirSize := by
  unfold Obligations.SnapshotsHaveTheirSize
  exact fun s table dims current => snapFrom_length s table current 0 dims

end Sys2Proof.Machine
end

section
/-! MSIX_TIMER sends the message of its vector, and every message sent is counted (R558, Table 14-18): the row changes the counters
too, and not the host interface alone. -/
namespace Sys2Proof.Machine
open Sys2Proof

/-- Over a link that is up, the message of a vector that is not masked is counted under its vector. -/
theorem sendMsix_ctr {s : State} {v : Nat} (hlink : s.hif.linkUp = true) (hmask : s.vecMasked v = false) :
    (s.sendMsix v).ctr = ctrAdd s.ctr ⟨1418, 4, v, 0⟩ 1 := by
  unfold State.sendMsix
  rw [if_neg (by simp [State.setVec, hlink])]
  exact congrArg State.ctr (if_neg (Bool.eq_false_iff.mp hmask))

/-- Sending a message changes neither of the registers that vector 2 signals. -/
theorem signalStatus_sendMsix (s : State) (v : Nat) : signalStatus s (s.sendMsix v) = s.sendMsix v := by
  have hstatus : (s.sendMsix v).modeStatus = s.modeStatus ∧ (s.sendMsix v).health = s.health := by
    unfold State.sendMsix
    simp only
    split
    · exact ⟨rfl, rfl⟩
    · split <;> exact ⟨rfl, rfl⟩
  exact if_pos (by simp [hstatus])

/-- A vector whose timer has run since its first item sends its message (R558). -/
theorem msixTimer_sends {s : State} {v : Nat} (hvector : v < 64) (hwaiting : (s.vec v).waiting ≠ 0)
    (hended : s.ended (s.vec v).since (us (s.vec v).timerUs) = true) :
    exec (.msixTimer v) s = .next (s.sendMsix v) :=
  (if_neg (Nat.not_le.mpr hvector)).trans ((if_pos (by simp [hwaiting, hended])).trans
    (congrArg Host.Outcome.next (signalStatus_sendMsix s v)))

/-- Where such a message is the first thing that a device counts, the counters change. -/
theorem msixTimer_changes_ctr {s : State} {v : Nat} (hvector : v < 64) (hwaiting : (s.vec v).waiting ≠ 0)
    (hended : s.ended (s.vec v).since (us (s.vec v).timerUs) = true) (hlink : s.hif.linkUp = true)
    (hmask : s.vecMasked v = false) (hcounters : s.ctr = []) : ¬ changesOnly [.hif] (.msixTimer v) := by
  intro hframe
  have hctr : (s.sendMsix v).ctr = s.ctr := hframe s _ (msixTimer_sends hvector hwaiting hended) .ctr (by simp)
  rw [sendMsix_ctr hlink hmask, hcounters] at hctr
  exact List.cons_ne_nil _ _ hctr

/-- A device whose vector 4, not masked, has held one item for the whole time of its timer, 1 µs. -/
def timerDue : State := { State.reset with
  time.ticks := 750
  hif.linkUp := true
  hif.bar := [(0x2004C, 1)]
  hif.vecs := [(4, { count := 2, timerUs := 1, waiting := 1 })] }

/-- Refutes O58: in `timerDue` MSIX_TIMER sends a message, which the counter of its vector counts, while its frame leaves no room
for the counters. -/
theorem not_hostEventsFrame : ¬ Obligations.HostEventsFrame := by
  unfold Obligations.HostEventsFrame
  intro h
  obtain ⟨-, -, -, -, -, hmsix, -⟩ := h
  exact msixTimer_changes_ctr (s := timerDue) (v := 4) (by omega) Nat.one_ne_zero rfl rfl rfl rfl (hmsix 4)

end Sys2Proof.Machine
end

section
/-! Coordination messages: the discards of R587, and the repeated copies of R588. -/
namespace Sys2Proof.Machine
open Sys2Proof

/-- Coordination that runs hears every path that is up; the fabric path needs no coordination link. -/
theorem arrives_of_up {s : State} {path : Path} (hon : s.coordOn = true)
    (hup : path < 2 → s.hier.linkUp.contains path = true) :
    (!s.coordOn || (path < 2 && !s.hier.linkUp.contains path)) = false := by
  by_cases hlink : path < 2
  · rw [hon, hup hlink]
    simp
  · simp [hon, hlink]

/-- A frame that R587 discards is counted, and its type and what a delivery would do play no part. -/
theorem receiveMsg_discards {s : State} {path : Path} {type : Nat} {h : CoordHdr} {f : State → State} (hpath : path < 3)
    (hon : s.coordOn = true) (hup : path < 2 → s.hier.linkUp.contains path = true)
    (hbad : (path < 2 ∧ h.etherOk = false) ∨ h.systemId ≠ s.hier.systemId ∨ h.version ≠ 1 ∨ h.checkOk = false) :
    s.receiveMsg path type h f = done s (s.bump 1512 2) := by
  have hfails : ((path < 2 && !h.etherOk) || h.systemId != s.hier.systemId || h.version != 1 || !h.checkOk ||
      h.type != type) = true := by
    rcases hbad with ⟨hlink, hether⟩ | hsystem | hversion | hcheck
    · simp [hlink, hether]
    · simp [hsystem]
    · simp [hversion]
    · simp [hcheck]
  unfold State.receiveMsg
  rw [if_neg (Nat.not_le.mpr hpath), if_neg (Bool.eq_false_iff.mp (arrives_of_up hon hup)), if_pos hfails]

/-- Every instruction that is a coordination message is executed by `receiveMsg`, with one type and one effect for all states. -/
theorem exec_of_messageOf {i : Instr} {path : Path} {h : CoordHdr} (hi : messageOf i = some (path, h)) :
    ∃ (type : Nat) (f : State → State), ∀ s : State, exec i s = s.receiveMsg path type h f := by
  unfold messageOf at hi
  split at hi
  case h_22 => cases hi
  all_goals
    cases hi
    exact ⟨_, _, fun _ => by unfold exec; rfl⟩

/-- Settles O19: every message of a type comes to `receiveMsg`, which discards the frame before it looks at the type. -/
theorem badCoordinationFramesAreDiscarded : Obligations.BadCoordinationFramesAreDiscarded := by
  unfold Obligations.BadCoordinationFramesAreDiscarded
  intro s path h hpath hon hup hbad i hi
  obtain ⟨type, f, hexec⟩ := exec_of_messageOf hi
  rw [hexec s]
  exact receiveMsg_discards hpath hon hup hbad

/-- A delivered message is among those remembered of its sender. -/
theorem hearing_seen (s : State) (path : Path) (h : CoordHdr) :
    ((s.hearing path h).member h.src).seen.contains h.msgSeq = true := by
  simp [State.hearing]

section
variable {s : State} {path : Path} {type : Nat} {h : CoordHdr} {f : State → State}
variable (hpath : path < 3) (hon : s.coordOn = true)
    (hlink : path < 2 → s.hier.linkUp.contains path = true ∧ h.etherOk = true) (hsystem : h.systemId = s.hier.systemId)
    (hversion : h.version = 1) (hcheck : h.checkOk = true) (htype : h.type = type)
    (hdst : bit h.flags 0 = true ∨ h.dst = s.fab.fdi) (hsrc : h.src ≠ s.fab.fdi)
include hpath hon hlink hsystem hversion hcheck htype hdst hsrc

/-- A message that R587 does not discard and that is for this device is heard where its sequence number is new. -/
theorem hears_of_new (hnew : ((s.noted path h).member h.src).seen.contains h.msgSeq = false) :
    s.hears path type h = true := by
  have hup : 2 ≤ path ∨ s.hier.linkUp.contains path = true := (Nat.lt_or_ge path 2).symm.imp_right fun k => (hlink k).1
  have hether : 2 ≤ path ∨ h.etherOk = true := (Nat.lt_or_ge path 2).symm.imp_right fun k => (hlink k).2
  simp only [State.hears, Bool.and_eq_true, Bool.or_eq_true, decide_eq_true_eq, beq_iff_eq, bne_iff_ne, Bool.not_eq_true']
  exact ⟨⟨⟨⟨⟨⟨⟨⟨⟨⟨hpath, hon⟩, hup⟩, hether⟩, hsystem⟩, hversion⟩, hcheck⟩, htype⟩, hdst⟩, hsrc⟩, hnew⟩

/-- A repeated copy of such a message is counted and acknowledged, and nothing is delivered (R588). -/
theorem receiveMsg_repeated (hseen : ((s.noted path h).member h.src).seen.contains h.msgSeq = true) :
    s.receiveMsg path type h f = done s (s.noted path h) := by
  have hgood : ((path < 2 && !h.etherOk) || h.systemId != s.hier.systemId || h.version != 1 || !h.checkOk ||
      h.type != type) = false := by
    by_cases k : path < 2
    · simp [hlink k, hsystem, hversion, hcheck, htype]
    · simp [k, hsystem, hversion, hcheck, htype]
  have hours : ((!bit h.flags 0 && h.dst != s.fab.fdi) || h.src == s.fab.fdi) = false := by
    rcases hdst with hgroup | hdst
    · simp [hgroup, hsrc]
    · simp [hdst, hsrc]
  unfold State.receiveMsg
  rw [if_neg (Nat.not_le.mpr hpath), if_neg (Bool.eq_false_iff.mp (arrives_of_up hon fun k => (hlink k).1)),
    if_neg (Bool.eq_false_iff.mp hgood), if_neg (Bool.eq_false_iff.mp hours)]
  exact if_pos hseen

end

/-- Settles O20: the remembered sequence numbers of the sender decide, once the message has been counted and acknowledged. -/
theorem repeatedMessagesAreOnlyAcknowledged : Obligations.RepeatedMessagesAreOnlyAcknowledged := by
  unfold Obligations.RepeatedMessagesAreOnlyAcknowledged
  intro s path type h f hpath hon hlink hsystem hversion hcheck htype hdst hsrc
  refine ⟨fun hseen => ?_, fun hnew => ⟨?_, hearing_seen s path h⟩⟩
  · exact receiveMsg_repeated hpath hon hlink hsystem hversion hcheck htype hdst hsrc hseen
  · exact receiveMsg_heard (hears_of_new hpath hon hlink hsystem hversion hcheck htype hdst hsrc hnew)

end Sys2Proof.Machine
end

section
/-! Operations that leave the mode of the device alone (`State.mode`). -/
namespace Sys2Proof.Machine
open Sys2Proof

@[simp] theorem mode_ite {p : Prop} [Decidable p] (a b : State) : (if p then a else b).mode = if p then a.mode else b.mode :=
  apply_ite State.mode p a b

@[simp] theorem foldl_mode {α : Type} {f : State → α → State} (hf : ∀ a x, (f a x).mode = a.mode) (s : State) (l : List α) :
    (l.foldl f s).mode = s.mode := by
  induction l generalizing s with
  | nil => rfl
  | cons x l ih => rw [List.foldl_cons, ih, hf]

@[simp] theorem State.sendMsix_mode (s : State) (v : Nat) :
    (s.sendMsix v).mode = s.mode := sendMsix_agreeOff s v .mode (by decide)

@[simp] theorem State.signal_mode (s : State) (v n : Nat) :
    (s.signal v n).mode = s.mode := signal_agreeOff s v n .mode (by decide)

@[simp] theorem State.mapFlits_mode (s : State) (f : Flit → Flit) : (s.mapFlits f).mode = s.mode := rfl

@[simp] theorem State.sendCell_mode (s : State) (plane g : Nat) (c : Cell) :
    (s.sendCell plane g c).mode = s.mode := sendCell_agreeOff s plane g c .mode (by decide)

@[simp] theorem State.noteSilence_mode (s : State) (f : Nat) : (s.noteSilence f).mode = s.mode := by
  simp [State.noteSilence]

@[simp] theorem State.putMsg_mode (s : State) (path seq : Nat) (m : Msg) :
    (s.putMsg path seq m).mode = s.mode := putMsg_agreeOff s path seq m .mode (by decide)

@[simp] theorem State.numberMsg_mode (s : State) (path : Nat) (m : Msg) :
    (s.numberMsg path m).mode = s.mode := numberMsg_agreeOff s path m .mode (by decide)

@[simp] theorem State.newMsg_mode (s : State) (path : Nat) (m : Msg) :
    (s.newMsg path m).mode = s.mode := newMsg_agreeOff s path m .mode (by decide)

@[simp] theorem State.nextMsg_mode (s : State) (dst : Option Nat) : (s.nextMsg dst).mode = s.mode := by
  unfold State.nextMsg
  split <;> simp

@[simp] theorem State.sendMsg_mode (s : State) (f type : Nat) (ack : Bool) (body : Bytes) :
    (s.sendMsg f type ack body).mode = s.mode := sendMsg_agreeOff s f type ack body .mode (by decide)

@[simp] theorem State.sendGroup_mode (s : State) (type : Nat) (body : Bytes) : (s.sendGroup type body).mode = s.mode := by
  simp [State.sendGroup]

@[simp] theorem State.sendAll_mode (s : State) (fs : List Nat) (type : Nat) (ack : Bool) (body : Bytes) :
    (s.sendAll fs type ack body).mode = s.mode := by simp [State.sendAll]

@[simp] theorem State.writeEvent_mode (s : State) (code src : Nat) (t : T32) (data : Bytes) :
    (s.writeEvent code src t data).mode = s.mode := writeEvent_agreeOff s code src t data .mode (by decide)

@[simp] theorem State.raise_mode (s : State) (code : Nat) (data : Bytes) :
    (s.raise code data).mode = s.mode := raise_agreeOff s code data .mode (by decide)

@[simp] theorem State.raiseLim_mode (s : State) (code idx : Nat) (data : Nat → Bytes) :
    (s.raiseLim code idx data).mode = s.mode := raiseLim_agreeOff s code idx data .mode (by decide)

@[simp] theorem State.perfWrap_mode (s : State) (die n : Nat) :
    (s.perfWrap die n).mode = s.mode := perfWrap_agreeOff s die n .mode (by decide)

@[simp] theorem State.perfCount_mode (s : State) (die unit inst event : Nat) (k : Nat) :
    (s.perfCount die unit inst event k).mode = s.mode := perfCount_agreeOff s die unit inst event k .mode (by decide)

@[simp] theorem State.relayTo_mode (s : State) (opcode : Nat) (c : Cmd) (dist : Option Nat) :
    (s.relayTo opcode c dist).mode = s.mode := by simp [State.relayTo]

@[simp] theorem State.distStatus_mode (s : State) (id f st : Nat) :
    (s.distStatus id f st).mode = s.mode := distStatus_agreeOff s id f st .mode (by decide)

@[simp] theorem State.complete_mode (s : State) (c : Cmd) (silent : Bool) (since : T32) (status : Nat) (result : Bytes)
    (resultLength applied failIndex detail : Nat) :
    (s.complete c silent since status result resultLength applied failIndex detail).mode = s.mode :=
  complete_agreeOff s c silent since status result resultLength applied failIndex detail .mode (by decide)

@[simp] theorem Res.finish_mode (r : Res) (c : Cmd) : (r.finish c).mode = r.st.mode := finish_agreeOff r c .mode (by decide)

@[simp] theorem State.finishOpen_mode (s : State) (o : OpenCmd) (status : Nat) (result : Bytes) (applied failIndex detail : Nat) :
    (s.finishOpen o status result applied failIndex detail).mode = s.mode := by simp [State.finishOpen]

@[simp] theorem State.writeAnswers_mode (s : State) : s.writeAnswers.mode = s.mode := by
  unfold State.writeAnswers
  split
  · exact foldl_mode (fun a o => by split <;> simp) s _
  · rfl

@[simp] theorem State.finishKind_mode (s : State) (k : OpenKind) (status applied detail : Nat) :
    (s.finishKind k status applied detail).mode = s.mode := by simp [State.finishKind]

@[simp] theorem State.reviewChange_mode (s : State) : s.reviewChange.mode = s.mode := by
  unfold State.reviewChange
  split <;> simp

@[simp] theorem State.train_mode (s : State) (p : Nat) (lanes : List Nat) : (s.train p lanes).mode = s.mode := by
  simp [State.train]

@[simp] theorem State.retrainLost_mode (s : State) (p : Nat) : (s.retrainLost p).mode = s.mode := by
  simp [State.retrainLost]

@[simp] theorem State.txTimestamp_mode (s : State) (p status tag : Nat) (t : Nat) (f : TxFrame) (launch : Nat) :
    (s.txTimestamp p status tag t f launch).mode = s.mode := by simp [State.txTimestamp]

@[simp] theorem State.tsDropped_mode (s : State) (p : Nat) (tsReq : Option Nat) : (s.tsDropped p tsReq).mode = s.mode := by
  unfold State.tsDropped
  split <;> simp

@[simp] theorem State.txDrop_mode (s : State) (p code : Nat) (tsReq : Option Nat) : (s.txDrop p code tsReq).mode = s.mode := by
  simp [State.txDrop]

@[simp] theorem State.clearTx_mode (s : State) (p : Nat) : (s.clearTx p).mode = s.mode := by simp [State.clearTx]

@[simp] theorem State.endLpi_mode (s : State) (p : Nat) : (s.endLpi p).mode = s.mode := by simp [State.endLpi]

@[simp] theorem State.portDown_mode (s : State) (p reason : Nat) (quiet : Bool) : (s.portDown p reason quiet).mode = s.mode := by
  simp [State.portDown]

@[simp] theorem State.startUpHold_mode (s : State) (p : Nat) : (s.startUpHold p).mode = s.mode := by
  simp [State.startUpHold]

@[simp] theorem State.activateModule_mode (s : State) (m : Nat) : (s.activateModule m).mode = s.mode := by
  unfold State.activateModule
  simp only
  split <;> simp

@[simp] theorem State.pairAdd_mode (s : State) (pair bytes : Nat) : (s.pairAdd pair bytes).mode = s.mode := rfl

@[simp] theorem State.observe_mode (s : State) (q : Nat) (f : QStat → QStat) : (s.observe q f).mode = s.mode := by
  simp [State.observe]

@[simp] theorem State.partAdd_mode (s : State) (q take free : Nat) : (s.partAdd q take free).mode = s.mode := by
  simp [State.partAdd]

@[simp] theorem State.reasmAdd_mode (s : State) (take free : Nat) : (s.reasmAdd take free).mode = s.mode := rfl

@[simp] theorem State.freeCell_mode (s : State) (c : Nat) : (s.freeCell c).mode = s.mode := by
  unfold State.freeCell
  split <;> simp

@[simp] theorem State.freeCellList_mode (s : State) (l : List QCell) : (s.freeCellList l).mode = s.mode := by
  simp [State.freeCellList]

@[simp] theorem State.setLink_mode (s : State) (c next : Nat) : (s.setLink c next).mode = s.mode := by
  unfold State.setLink
  split <;> simp

@[simp] theorem State.linkCells_mode : ∀ (s : State) (l : List Nat), (s.linkCells l).mode = s.mode
  | _, [] => rfl
  | _, [_] => rfl
  | s, a :: b :: r => ((s.setLink a b).linkCells_mode (b :: r)).trans (s.setLink_mode a b)

@[simp] theorem State.linkRun_mode (s : State) (run more : List QCell) : (s.linkRun run more).mode = s.mode := by
  simp [State.linkRun]

@[simp] theorem State.endSpill_mode (s : State) (q : Nat) : (s.endSpill q).mode = s.mode := by simp [State.endSpill]

@[simp] theorem State.sweep_mode (s : State) (q : Nat) (free : Bool) : (s.sweep q free).mode = s.mode := by
  simp [State.sweep]

@[simp] theorem State.joinHead_mode (s : State) (q : Nat) (l : List QCell) : (s.joinHead q l).mode = s.mode := by
  simp [State.joinHead]

@[simp] theorem State.joinBacklog_mode (n : Nat) (s : State) (q : Nat) : (State.joinBacklog n s q).mode = s.mode := by
  induction n generalizing s with
  | zero => rfl
  | succ n ih =>
    unfold State.joinBacklog
    simp only
    split
    · split <;> simp [ih]
    · rfl

@[simp] theorem State.refillOnce_mode (s : State) (q : Nat) : (s.refillOnce q).mode = s.mode := by simp [State.refillOnce]

@[simp] theorem State.issueRefills_mode (n : Nat) (s : State) (q : Nat) : (State.issueRefills n s q).mode = s.mode := by
  induction n generalizing s with
  | zero => rfl
  | succ n ih => simp [State.issueRefills, ih]

@[simp] theorem State.noteStall_mode (s : State) (q : Nat) : (s.noteStall q).mode = s.mode := by simp [State.noteStall]

theorem grantSeg_mode {s t : State} {q i : Nat} (hgrant : s.grantSeg q = some (i, t)) : t.mode = s.mode := by
  unfold State.grantSeg at hgrant
  split at hgrant
  · cases hgrant
  · split at hgrant <;> cases hgrant
    rfl

@[simp] theorem State.noteSegLow_mode (s : State) : s.noteSegLow.mode = s.mode := by simp [State.noteSegLow]

@[simp] theorem State.freeSegList_mode (s : State) (l : List Nat) : (s.freeSegList l).mode = s.mode := by
  simp [State.freeSegList]

@[simp] theorem State.freeMiddle_mode (s : State) (q : Nat) (l : List Seg) : (s.freeMiddle q l).mode = s.mode := by
  simp [State.freeMiddle]

@[simp] theorem State.clearMiddle_mode (s : State) (q : Nat) : (s.clearMiddle q).mode = s.mode := by
  simp [State.clearMiddle]

@[simp] theorem State.settleQueue_mode (s : State) (q : Nat) : (s.settleQueue q).mode = s.mode := by
  simp [State.settleQueue]

@[simp] theorem State.rejectRelease_mode (s : State) (h owner reason source : Nat) :
    (s.rejectRelease h owner reason source).mode = s.mode := by simp [State.rejectRelease]

@[simp] theorem State.dropShare_mode (s : State) (rec q : Nat) : (s.dropShare rec q).2.mode = s.mode := by
  unfold State.dropShare
  simp only
  repeat' split
  all_goals simp

@[simp] theorem State.leave_mode (s : State) (q pid : Nat) : (s.leave q pid).mode = s.mode := by
  unfold State.leave
  simp only
  repeat' split
  all_goals simp

@[simp] theorem State.popHead_mode (s : State) (q : Nat) : (s.popHead q).mode = s.mode := by
  unfold State.popHead
  split <;> simp

@[simp] theorem State.countDrop_mode (s : State) (q code len : Nat) (pair : Bool) (tsReq : Option Nat) (port : Nat) :
    (s.countDrop q code len pair tsReq port).mode = s.mode := by simp [State.countDrop]

@[simp] theorem State.dropPkt_mode (s : State) (q code : Nat) (p : QPkt) : (s.dropPkt q code p).mode = s.mode := by
  simp [State.dropPkt]

theorem State.flushQueue_mode (s : State) (q : Nat) {count : QPkt → State → State} (hcount : ∀ p a, (count p a).mode = a.mode) :
    (s.flushQueue q count).mode = s.mode := by simp [State.flushQueue, hcount]

@[simp] theorem State.notePoolLow_mode (s : State) (p : Nat) :
    (s.notePoolLow p).mode = s.mode := notePoolLow_agreeOff s p .mode (by decide)

@[simp] theorem State.chargeAdd_mode (s : State) (c p take free : Nat) : (s.chargeAdd c p take free).mode = s.mode := rfl

@[simp] theorem State.release_mode (s : State) (h owner source : Nat) : (s.release h owner source).2.mode = s.mode := by
  unfold State.release
  simp only
  repeat' split
  all_goals simp

@[simp] theorem State.telLost_mode (s : State) (l : List Nat) :
    (s.telLost l).mode = s.mode := telLost_agreeOff s l .mode (by decide)

@[simp] theorem State.closeBlock_mode (s : State) : s.closeBlock.mode = s.mode := closeBlock_agreeOff s .mode (by decide)

@[simp] theorem State.telPut_mode (s : State) (r : TelRec) :
    (s.telPut r).2.mode = s.mode := telPut_agreeOff s r .mode (by decide)

@[simp] theorem State.telRecord_mode (s : State) (r : TelRec) : (s.telRecord r).mode = s.mode := by simp [State.telRecord]

@[simp] theorem State.drainRing_mode (s : State) : s.drainRing.mode = s.mode := by simp [State.drainRing]

@[simp] theorem State.psample_mode (s : State) (body : Bytes) : (s.psample body).mode = s.mode := by simp [State.psample]

@[simp] theorem State.writeHist_mode (s : State) (k : Nat) :
    (s.writeHist k).mode = s.mode := writeHist_agreeOff s k .mode (by decide)

@[simp] theorem State.rollWindows_mode (s : State) : s.rollWindows.mode = s.mode := rollWindows_agreeOff s .mode (by decide)

@[simp] theorem State.eventRoom_mode (s : State) : s.eventRoom.mode = s.mode := by simp [State.eventRoom]

@[simp] theorem State.writeCmdBase_mode (s : State) (w : RegWrite) : (s.writeCmdBase w).mode = s.mode := by
  unfold State.writeCmdBase
  simp only
  split <;> simp

@[simp] theorem State.writeEvtBase_mode (s : State) (w : RegWrite) : (s.writeEvtBase w).mode = s.mode := by
  unfold State.writeEvtBase
  simp only
  split <;> simp

@[simp] theorem State.writeHealth_mode (s : State) (v : Nat) : (s.writeHealth v).mode = s.mode := rfl

@[simp] theorem State.doorbellIgnored_mode (s : State) : s.doorbellIgnored.mode = s.mode := rfl

@[simp] theorem State.doorbellCmd_mode (s : State) (channel rsv index : Nat) :
    (s.doorbellCmd channel rsv index).mode = s.mode := by simp [State.doorbellCmd]

@[simp] theorem State.doorbellEvt_mode (s : State) (channel rsv index : Nat) :
    (s.doorbellEvt channel rsv index).mode = s.mode := by simp [State.doorbellEvt]

@[simp] theorem State.chanDrop_mode (s : State) (c code : Nat) : (s.chanDrop c code).mode = s.mode := rfl

@[simp] theorem State.dropHeld_mode (s : State) (c code : Nat) (h : Held) : (s.dropHeld c code h).mode = s.mode := by
  unfold State.dropHeld
  split <;> simp

@[simp] theorem State.freeHandles_mode (s : State) (c : Nat) (l : List Posted) : (s.freeHandles c l).mode = s.mode := by
  simp [State.freeHandles]

@[simp] theorem State.cutReading_mode (s : State) (c : Nat) : (s.cutReading c).mode = s.mode := rfl

@[simp] theorem State.chanOff_mode (s : State) (c : Nat) (finish : Bool) : (s.chanOff c finish).mode = s.mode := by
  simp [State.chanOff]

@[simp] theorem State.puntHead_mode (s : State) (c : Nat) : (s.puntHead c).mode = s.mode := by
  unfold State.puntHead
  simp only
  repeat' split
  all_goals simp

@[simp] theorem State.doorbellChan_mode (s : State) (channel rsv index : Nat) (descs : List Desc) :
    (s.doorbellChan channel rsv index descs).mode = s.mode := by simp [State.doorbellChan]

@[simp] theorem State.injectDone_mode (s : State) (c status : Nat) (ts : Bool) (l : List Posted) :
    (s.injectDone c status ts l).mode = s.mode := by simp [State.injectDone]

@[simp] theorem State.linkReset_mode (s : State) : s.linkReset.mode = s.mode := by simp [State.linkReset]

@[simp] theorem State.pllSteps_mode (s : State) : s.pllSteps.mode = s.mode := rfl

@[simp] theorem State.saveSettings_mode (s : State) : s.saveSettings.mode = s.mode := by simp [State.saveSettings]

@[simp] theorem State.commitRec_mode (s : State) (r : BootRec) : (s.commitRec r).mode = s.mode := rfl

@[simp] theorem State.setRole_mode (s : State) (role : Nat) : (s.setRole role).mode = s.mode := by simp [State.setRole]

@[simp] theorem State.startElection_mode (s : State) : s.startElection.mode = s.mode := by simp [State.startElection]

@[simp] theorem State.loseLink_mode (s : State) (p reason : Nat) : (s.loseLink p reason).mode = s.mode := by
  simp [State.loseLink]

@[simp] theorem State.attemptEnd_mode (s : State) (p : Nat) : (s.attemptEnd p).mode = s.mode := by simp [State.attemptEnd]

@[simp] theorem State.ledgerUpd_mode (s : State) (vendor serial : Bytes) (f : LedgerRec → LedgerRec) :
    (s.ledgerUpd vendor serial f).mode = s.mode := rfl

@[simp] theorem State.ledgerInsert_mode (s : State) (vendor serial : Bytes) : (s.ledgerInsert vendor serial).mode = s.mode := by
  unfold State.ledgerInsert
  simp only
  repeat' split
  all_goals simp

@[simp] theorem State.ratingCheck_mode (s : State) (m : Nat) : (s.ratingCheck m).mode = s.mode := by
  unfold State.ratingCheck
  simp only
  split <;> simp

@[simp] theorem State.ledgerWrite_mode (s : State) : s.ledgerWrite.mode = s.mode := rfl

@[simp] theorem State.moduleStore_mode (s : State) (b : Bytes) : (s.moduleStore b).mode = s.mode := rfl

@[simp] theorem State.moduleAnswers_mode (s : State) (m : Nat) : (s.moduleAnswers m).mode = s.mode :=
  (foldl_mode (fun a o => by split <;> simp) _ _).trans (s.setMod_mode _ _)

@[simp] theorem State.moduleAborts_mode (s : State) (m status : Nat) : (s.moduleAborts m status).mode = s.mode := by
  simp [State.moduleAborts]

@[simp] theorem State.moduleFlags_mode (s : State) (m : Nat) (flags : List CmisFlag) : (s.moduleFlags m flags).mode = s.mode := by
  simp [State.moduleFlags]

@[simp] theorem State.maskPresence_mode (s : State) (m : Nat) : (s.maskPresence m).mode = s.mode := by
  simp [State.maskPresence]

@[simp] theorem State.presenceCheck_mode (s : State) (m : Nat) : (s.presenceCheck m).mode = s.mode := by
  simp [State.presenceCheck]

@[simp] theorem State.maskInterrupt_mode (s : State) (m condition : Nat) : (s.maskInterrupt m condition).mode = s.mode := by
  simp [State.maskInterrupt]

@[simp] theorem State.saFault_mode (s : State) (p slot n : Nat) : (s.saFault p slot n).mode = s.mode := by
  unfold State.saFault
  simp only
  split <;> simp

@[simp] theorem State.rxCrossed_mode (s : State) (k : LkPkt) : (s.rxCrossed k).mode = s.mode := by simp [State.rxCrossed]

@[simp] theorem State.wrote_mode (s : State) (n : Nat) : (s.wrote n).mode = s.mode := wrote_agreeOff s n .mode (by decide)

theorem State.noteFill_mode (s : State) (area used slots : Nat) (raised : Bool) {set : Bool → State → State}
    (hset : ∀ b a, (set b a).mode = a.mode) : (s.noteFill area used slots raised set).mode = s.mode := by
  simp [State.noteFill, hset]

@[simp] theorem State.notePoolFill_mode (s : State) : s.notePoolFill.mode = s.mode :=
  s.noteFill_mode _ _ _ _ fun _ _ => rfl

@[simp] theorem State.placed_mode (s : State) : s.placed.2.mode = s.mode := rfl

@[simp] theorem State.growTable_mode (s : State) (t used per units : Nat) : (s.growTable t used per units).mode = s.mode := by
  simp [State.growTable]

@[simp] theorem State.fibStore_mode (s : State) (vrf fam : Nat) (ps : List Pfx) (d : FibDir) :
    (s.fibStore vrf fam ps d).mode = s.mode := rfl

@[simp] theorem State.noteFibFill_mode (s : State) : s.noteFibFill.mode = s.mode := s.noteFill_mode _ _ _ _ fun _ _ => rfl

@[simp] theorem State.noteEmFill_mode (s : State) : s.noteEmFill.mode = s.mode := s.noteFill_mode _ _ _ _ fun _ _ => rfl

@[simp] theorem State.growFib_mode (s : State) (vrf fam : Nat) (old : List FibEnt) : (s.growFib vrf fam old).mode = s.mode := by
  simp [State.growFib]

@[simp] theorem State.fibChange_mode (s : State) (vrf fam : Nat) (ps : List Pfx) (d : FibDir) :
    (s.fibChange (s.fibStore vrf fam ps d) vrf fam).2.mode = s.mode := by
  unfold State.fibChange
  simp only
  split
  · simp
  · split <;> simp

@[simp] theorem State.routeInsert_mode (s : State) (vrf fam len key res : Nat) (replace : Bool) :
    (s.routeInsert vrf fam len key res replace).2.mode = s.mode := by
  unfold State.routeInsert
  simp only
  repeat' split
  all_goals simp

@[simp] theorem State.fibShrink_mode (s : State) (vrf fam : Nat) (ps : List Pfx) (d : FibDir) :
    (s.fibShrink (s.fibStore vrf fam ps d) vrf fam).2.mode = s.mode := by simp [State.fibShrink]

@[simp] theorem State.routeRemove_mode (s : State) (vrf fam len key : Nat) :
    (s.routeRemove vrf fam len key).2.mode = s.mode := by
  unfold State.routeRemove
  simp only
  repeat' split
  all_goals simp

@[simp] theorem State.routeOp_mode (s : State) (add replace : Bool) (b : Bytes) : (s.routeOp add replace b).2.mode = s.mode := by
  unfold State.routeOp
  simp only
  repeat' split
  all_goals simp

@[simp] theorem State.noteChainFill_mode (s : State) (c : Nat) : (s.noteChainFill c).mode = s.mode := by
  unfold State.noteChainFill
  split <;> simp

@[simp] theorem State.foundAgain_mode (s : State) (h : Nat) : (s.foundAgain h).mode = s.mode := rfl

theorem placeEntry_mode {s t : State} {c k drop : Nat} {x : Chain} {e : TcamEnt}
    (hplace : s.placeEntry c x k drop e = some t) : t.mode = s.mode := by
  unfold State.placeEntry at hplace
  simp only at hplace
  split at hplace
  · cases hplace
  · split at hplace <;> cases hplace
    simp

@[simp] theorem State.tcamInsertOp_mode (s : State) (b : Bytes) : (s.tcamInsertOp b).2.mode = s.mode := by
  unfold State.tcamInsertOp
  simp only
  repeat' split
  all_goals first | rfl | exact placeEntry_mode ‹_›

@[simp] theorem State.tcamModifyOp_mode (s : State) (hitless actionOnly : Bool) (b : Bytes) :
    (s.tcamModifyOp hitless actionOnly b).2.mode = s.mode := by
  unfold State.tcamModifyOp
  simp only
  repeat' split
  all_goals first | simp; done | exact placeEntry_mode ‹_›

@[simp] theorem State.tcamFree_mode (s : State) (l : List Nat) : (s.tcamFree l).mode = s.mode := rfl

@[simp] theorem State.tcamPoison_mode (s : State) (c i : Nat) : (s.tcamPoison c i).mode = s.mode := by
  unfold State.tcamPoison
  split
  · rfl
  · split <;> simp

@[simp] theorem State.shadowLost_mode (s : State) (lt row : Nat) (good : Bool) : (s.shadowLost lt row good).mode = s.mode := by
  unfold State.shadowLost
  simp only
  repeat' split
  all_goals simp

@[simp] theorem State.emOp_mode (s : State) (add replace : Bool) (b : Bytes) : (s.emOp add replace b).2.mode = s.mode := by
  unfold State.emOp
  simp only
  repeat' split
  all_goals simp

@[simp] theorem State.editMended_mode (s : State) (kind : Nat) (l : List Nat) : (s.editMended kind l).mode = s.mode := rfl

@[simp] theorem State.encapOp_mode (s : State) (b : Bytes) : (s.encapOp b).2.mode = s.mode := by
  unfold State.encapOp
  simp only
  repeat' split
  all_goals simp

@[simp] theorem State.portFinish_mode (s : State) (id status applied failIndex : Nat) :
    (s.portFinish id status applied failIndex).mode = s.mode := by simp [State.portFinish]

@[simp] theorem State.portDue_mode (s : State) : s.portDue.mode = s.mode := by simp [State.portDue]

@[simp] theorem State.finishRetired_mode (s : State) : s.finishRetired.mode = s.mode := by simp [State.finishRetired]

@[simp] theorem State.delayRetire_mode (s : State) (δ : Nat) : (s.delayRetire δ).mode = s.mode := rfl

@[simp] theorem State.refreshKids_mode (s : State) (parent : Nat) (kids : List Nat) :
    (s.refreshKids parent kids).mode = s.mode := by simp [State.refreshKids]

@[simp] theorem State.refreshClass_mode (s : State) (tc : Nat) : (s.refreshClass tc).mode = s.mode := by
  unfold State.refreshClass
  extract_lets qs c v t
  have ht : t.mode = s.mode := by simp [t]
  exact (foldl_mode (fun a (e : Nat × Bool) => a.updQueue_mode e.1 _) t _).trans ht

@[simp] theorem State.refreshRoot_mode (s : State) : s.refreshRoot.mode = s.mode := by simp [State.refreshRoot]

@[simp] theorem State.refreshTm_mode (s : State) : s.refreshTm.mode = s.mode := by simp [State.refreshTm]

@[simp] theorem State.creditReq_mode (s : State) (q : Nat) (active : Bool) : (s.creditReq q active).mode = s.mode := by
  simp [State.creditReq]

@[simp] theorem State.keepCredit_mode (s : State) (q : Nat) : (s.keepCredit q).mode = s.mode := rfl

@[simp] theorem State.voqEdge_mode (s s0 : State) (q : Nat) : (s.voqEdge s0 q).mode = s.mode := by simp [State.voqEdge]

@[simp] theorem State.dropNoPeer_mode (s : State) (p : QPkt) : (s.dropNoPeer p).mode = s.mode := by simp [State.dropNoPeer]

@[simp] theorem State.chainSeg_mode (s : State) (q seg : Nat) : (s.chainSeg q seg).mode = s.mode := by
  unfold State.chainSeg
  split <;> simp

@[simp] theorem State.segmentLost_mode (s : State) (q j : Nat) (word : Bool) : (s.segmentLost q j word).mode = s.mode := by
  unfold State.segmentLost
  simp only
  split <;> simp

@[simp] theorem State.segLost_mode (s : State) (seg : Nat) (word : Bool) : (s.segLost seg word).mode = s.mode := by
  unfold State.segLost
  split
  · rfl
  · split <;> simp

@[simp] theorem State.reclaim_mode (s : State) (c : Nat) : (s.reclaim c).mode = s.mode := by simp [State.reclaim]

@[simp] theorem State.dropFab_mode (s : State) (code : Nat) : (s.dropFab code).mode = s.mode := rfl

@[simp] theorem State.discardCtx_mode (s : State) (key code : Nat) : (s.discardCtx key code).mode = s.mode := by
  simp [State.discardCtx]

@[simp] theorem State.abandon_mode (s : State) (f k : Nat) : (s.abandon f k).mode = s.mode := by simp [State.abandon]

@[simp] theorem State.unsend_mode (s : State) (f k : Nat) : (s.unsend f k).mode = s.mode := rfl

@[simp] theorem State.planeDown_mode (s : State) (f k cause : Nat) : (s.planeDown f k cause).mode = s.mode := by
  simp [State.planeDown]

@[simp] theorem State.reviewPeer_mode (s : State) (f cause : Nat) : (s.reviewPeer f cause).mode = s.mode := by
  simp [State.reviewPeer]

@[simp] theorem State.reviewPeers_mode (s : State) (cause : Nat) : (s.reviewPeers cause).mode = s.mode := by
  simp [State.reviewPeers]

@[simp] theorem State.planeDownAll_mode (s : State) (k cause : Nat) : (s.planeDownAll k cause).mode = s.mode := by
  simp [State.planeDownAll]

@[simp] theorem State.noteGroup_mode (s s0 : State) (l : Nat) : (s.noteGroup s0 l).mode = s.mode := by
  simp [State.noteGroup]

@[simp] theorem State.afterLane_mode (s : State) (l : Nat) : (s.afterLane l).mode = s.mode := by simp [State.afterLane]

@[simp] theorem State.declareLock_mode (s : State) (l : Nat) : (s.declareLock l).mode = s.mode := by
  simp [State.declareLock]

@[simp] theorem State.loseLock_mode (s : State) (l : Nat) : (s.loseLock l).mode = s.mode := by simp [State.loseLock]

@[simp] theorem State.heartbeat_mode (s : State) (f k : Nat) : (s.heartbeat f k).mode = s.mode := by
  unfold State.heartbeat
  simp only
  repeat' split
  all_goals simp

@[simp] theorem State.stopHearing_mode (s : State) (f k : Nat) : (s.stopHearing f k).mode = s.mode := by
  simp [State.stopHearing]

@[simp] theorem State.removePeer_mode (s : State) (f : Nat) : (s.removePeer f).mode = s.mode := by
  simp [State.removePeer, State.flushQueue_mode]

@[simp] theorem State.addPeer_mode (s : State) (f : Nat) (byManager : Bool) : (s.addPeer f byManager).mode = s.mode := by
  simp [State.addPeer]

@[simp] theorem State.openCtx_mode (s : State) (k : Nat) (c : Cell) (b : Bytes) : (s.openCtx k c b).mode = s.mode := by
  simp [State.openCtx]

@[simp] theorem State.endCtx_mode (s : State) (k src plane : Nat) (c : Cell) : (s.endCtx k src plane c).mode = s.mode := by
  simp [State.endCtx]

@[simp] theorem State.passCell_mode (s : State) (c : Cell) : (s.passCell c).mode = s.mode := by simp [State.passCell]

@[simp] theorem State.drainSeq_mode (n : Nat) (s : State) (key : Nat) : (State.drainSeq n s key).mode = s.mode := by
  induction n generalizing s with
  | zero => rfl
  | succ n ih =>
    unfold State.drainSeq
    simp only
    split
    · rfl
    · simp [ih]

@[simp] theorem State.giveUp_mode (s : State) (src plane lgroup : Nat) : (s.giveUp src plane lgroup).mode = s.mode := by
  unfold State.giveUp
  simp only
  split <;> simp

@[simp] theorem State.eliminate_mode (s : State) (src stream plane seq : Nat) :
    (s.eliminate src stream plane seq).2.mode = s.mode := by
  unfold State.eliminate
  simp only
  repeat' split
  all_goals simp

@[simp] theorem State.sendGrants_mode (s : State) (src : Nat) : (s.sendGrants src).mode = s.mode := by
  unfold State.sendGrants
  split <;> simp

@[simp] theorem State.editStoreLost_mode (s : State) (kind index : Nat) : (s.editStoreLost kind index).mode = s.mode := by
  simp [State.editStoreLost]

@[simp] theorem State.deadlineMiss_mode (s : State) (port : Nat) : (s.deadlineMiss port).mode = s.mode := by
  simp [State.deadlineMiss]

@[simp] theorem State.riseReq_mode (s : State) (r : HbmReq) :
    (s.riseReq r).mode = s.mode := riseReq_agreeOff s r .mode (by decide)

@[simp] theorem State.zeroPairs_mode (s : State) (first n : Nat) (which : Nat → Bool) :
    (s.zeroPairs first n which).mode = s.mode := by simp [State.zeroPairs]

@[simp] theorem State.moveArea_mode (s : State) (x : Nat) : (s.moveArea x).mode = s.mode := by
  unfold State.moveArea
  simp only
  split <;> simp

@[simp] theorem State.moveAreas_mode (s : State) (p : Nat) (lost : Bool) : (s.moveAreas p lost).mode = s.mode := by
  simp [State.moveAreas]

@[simp] theorem State.loseSegs_mode (s : State) (p : Nat) : (s.loseSegs p).mode = s.mode := by simp [State.loseSegs]

@[simp] theorem State.startEvac_mode (s : State) (c : Nat) (pcs : List Nat) : (s.startEvac c pcs).mode = s.mode := by
  simp [State.startEvac]

@[simp] theorem State.nextRetrain_mode (s : State) : s.nextRetrain.mode = s.mode := by
  unfold State.nextRetrain
  split
  · rfl
  · split <;> simp

@[simp] theorem State.askRetrain_mode (s : State) (c : Nat) : (s.askRetrain c).mode = s.mode := by simp [State.askRetrain]

@[simp] theorem State.unplanned_mode (s : State) (c : Nat) : (s.unplanned c).mode = s.mode := by simp [State.unplanned]

theorem relocate_mode {s t : State} {seg q : Nat} (hmove : s.relocate seg q = some t) : t.mode = s.mode := by
  unfold State.relocate at hmove
  split at hmove
  · split at hmove
    · cases hmove
    · rename_i i u hgrant
      cases hmove
      simp [grantSeg_mode hgrant]
  · cases hmove
    rfl

theorem relocateAll_mode {s t : State} {l : List (Nat × Nat)} (hmove : s.relocateAll l = some t) : t.mode = s.mode := by
  induction l generalizing s with
  | nil => cases hmove; rfl
  | cons e l ih =>
    cases hfirst : s.relocate e.1 e.2 with
    | none =>
      have hnone : ∀ l : List (Nat × Nat), l.foldl (fun (a : Option State) e => a.bind (fun b => b.relocate e.1 e.2)) none = none :=
        fun l => by induction l with
        | nil => rfl
        | cons e l ih => exact ih
      simp [State.relocateAll, hfirst, hnone] at hmove
    | some u =>
      have hrest : u.relocateAll l = some t := by simpa [State.relocateAll, hfirst] using hmove
      exact (ih hrest).trans (relocate_mode hfirst)

@[simp] theorem State.askRetire_mode (s : State) (p cause : Nat) : (s.askRetire p cause).mode = s.mode := by
  simp [State.askRetire]

@[simp] theorem State.rowError_mode (s : State) (p b row : Nat) (correctable repairable : Bool) :
    (s.rowError p b row correctable repairable).mode = s.mode := by simp [State.rowError]

@[simp] theorem State.flashPin_mode (s : State) : s.flashPin.mode = s.mode := flashPin_agreeOff s .mode (by decide)

@[simp] theorem State.tickTime_mode (s : State) : s.tickTime.mode = s.mode := by simp [State.tickTime]

@[simp] theorem State.writeInc_mode (s : State) (v : BitVec 40) : (s.writeInc v).mode = s.mode := by simp [State.writeInc]

@[simp] theorem State.ppsRises_mode (s : State) (k : Nat) : (s.ppsRises k).mode = s.mode := rfl

@[simp] theorem State.afterStep_mode (s s0 : State) (off : Int) : (s.afterStep s0 off).mode = s.mode := by
  simp [State.afterStep]

@[simp] theorem State.applyStep_mode (s : State) (off : Int) : (s.applyStep off).mode = s.mode := by simp [State.applyStep]

@[simp] theorem State.refuseStep_mode (s : State) (off : Int) : (s.refuseStep off).mode = s.mode := by
  simp [State.refuseStep]

@[simp] theorem State.noteBad_mode (s : State) (region : Nat) (i : Image) : (s.noteBad region i).mode = s.mode := by
  simp [State.noteBad]

@[simp] theorem State.romRestore_mode (s : State) (r : BootRec) (cause : Nat) : (s.romRestore r cause).1.mode = s.mode := by
  unfold State.romRestore
  simp only
  split <;> simp

@[simp] theorem State.romFail_mode (s : State) (r : BootRec) (cause : Nat) : (s.romFail r cause).1.mode = s.mode := by
  unfold State.romFail
  split <;> simp

@[simp] theorem State.romSelect_mode (s : State) : s.romSelect.1.mode = s.mode := by
  unfold State.romSelect
  simp only
  repeat' split
  all_goals simp

@[simp] theorem State.startRestore_mode (s : State) (cause : Nat) : (s.startRestore cause).mode = s.mode := by
  simp [State.startRestore]

@[simp] theorem State.applySettings_mode (s : State) (v : Settings) : (s.applySettings v).mode = s.mode := rfl

@[simp] theorem State.factory_mode (s : State) : s.factory.mode = s.mode := by simp [State.factory]

@[simp] theorem State.noteIndices_mode (s : State) : s.noteIndices.mode = s.mode := by
  unfold State.noteIndices
  split <;> simp

@[simp] theorem State.firstRun_mode (s : State) : s.firstRun.mode = s.mode := by
  unfold State.firstRun
  simp only
  repeat' split
  all_goals simp

@[simp] theorem State.imageStarts_mode (s : State) (img : Image) (pending : Bool) (at_ : Nat) :
    (s.imageStarts img pending at_).mode = s.mode := rfl

@[simp] theorem State.retainBegin_mode (s : State) : s.retainBegin.mode = s.mode := rfl

@[simp] theorem State.sayResumed_mode (s : State) (a : Activation) (version took : Nat) :
    (s.sayResumed a version took).mode = s.mode := by
  unfold State.sayResumed
  split <;> simp

@[simp] theorem State.recordResumed_mode (s : State) (a : Activation) (r : BootRec) (img : Image) :
    (s.recordResumed a r img).mode = s.mode := by simp [State.recordResumed]

@[simp] theorem State.cellLost_mode (s : State) (q pos : Nat) : (s.cellLost q pos).mode = s.mode := by
  unfold State.cellLost
  split
  · rfl
  · exact foldl_mode (fun a x => a.updQueue_mode x _) s _

@[simp] theorem State.linkLost_mode (s : State) (q : Nat) : (s.linkLost q).mode = s.mode := by
  simp [State.linkLost, State.flushQueue_mode]

@[simp] theorem State.mendLink_mode (s : State) (q pos : Nat) : (s.mendLink q pos).mode = s.mode := by
  unfold State.mendLink
  split
  · rfl
  · split <;> simp

@[simp] theorem State.sharedLost_mode (s : State) (k : Nat) : (s.sharedLost k).mode = s.mode := by
  unfold State.sharedLost
  split
  · rfl
  · extract_lets t u
    have ht : t.mode = s.mode := foldl_mode (fun a q => by split <;> simp) _ _
    simpa [u] using ht

@[simp] theorem State.recordLost_mode (s : State) (p i : Nat) : (s.recordLost p i).mode = s.mode := by
  unfold State.recordLost
  extract_lets b h back a c d
  have hc : c.mode = a.mode := foldl_mode (fun t n => by
    simp only
    split
    · rfl
    · split <;> simp) _ _
  simp [d, hc, a, back]

@[simp] theorem State.nodeLost_mode (s : State) (n : Nat) : (s.nodeLost n).mode = s.mode := by simp [State.nodeLost]

@[simp] theorem State.sramCorrected_mode (s : State) (use : SramUse) : (s.sramCorrected use).mode = s.mode := by
  unfold State.sramCorrected
  repeat' split
  all_goals simp

@[simp] theorem State.withholdCell_mode (s : State) (m row : Nat) (c : Option Nat) : (s.withholdCell m row c).mode = s.mode := by
  unfold State.withholdCell
  split <;> simp

@[simp] theorem State.announceTable_mode (s : State) : s.announceTable.mode = s.mode := by simp [State.announceTable]

@[simp] theorem State.designate_mode (s : State) : s.designate.mode = s.mode := by
  unfold State.designate
  simp only
  split <;> simp

@[simp] theorem State.removeMember_mode (s : State) (f cause : Nat) : (s.removeMember f cause).mode = s.mode := by
  simp [State.removeMember]

@[simp] theorem State.adoptTable_mode (s : State) (members deputy : Nat) : (s.adoptTable members deputy).mode = s.mode := by
  simp [State.adoptTable]

@[simp] theorem State.depart_mode (s : State) : s.depart.mode = s.mode := by simp [State.depart]

@[simp] theorem State.noteManager_mode (s : State) (src term : Nat) : (s.noteManager src term).mode = s.mode := by
  simp [State.noteManager]

@[simp] theorem State.becomeManager_mode (s : State) : s.becomeManager.mode = s.mode := by simp [State.becomeManager]

@[simp] theorem State.endElection_mode (s : State) : s.endElection.mode = s.mode := by
  unfold State.endElection
  split <;> simp

@[simp] theorem State.hearLink_mode (s : State) (f path : Nat) : (s.hearLink f path).mode = s.mode := by
  simp [State.hearLink]

@[simp] theorem State.linkSilent_mode (s : State) (f link : Nat) : (s.linkSilent f link).mode = s.mode := by
  simp [State.linkSilent]

@[simp] theorem State.sendCommit_mode (s : State) (dst : List Nat) (epoch mode : Nat) (t : T32) :
    (s.sendCommit dst epoch mode t).mode = s.mode := by simp [State.sendCommit]

@[simp] theorem State.sendAbort_mode (s : State) (dst : List Nat) (epoch : Nat) : (s.sendAbort dst epoch).mode = s.mode := by
  simp [State.sendAbort]

@[simp] theorem State.commitChange_mode (s : State) (c : Change) : (s.commitChange c).mode = s.mode := by
  simp [State.commitChange]

@[simp] theorem State.abortChange_mode (s : State) (c : Change) (status first : Nat) :
    (s.abortChange c status first).mode = s.mode := by simp [State.abortChange]

@[simp] theorem State.endRelay_mode (s : State) (r : Relay) (status : Nat) (result : Bytes) (resultLength applied failIndex detail : Nat) :
    (s.endRelay r status result resultLength applied failIndex detail).mode = s.mode := by
  unfold State.endRelay
  split <;> simp

@[simp] theorem State.pushChunk_mode (s : State) (f offset : Nat) : (s.pushChunk f offset).mode = s.mode := by
  simp [State.pushChunk]

@[simp] theorem State.endPush_mode (s : State) (f status detail : Nat) : (s.endPush f status detail).mode = s.mode := by
  simp [State.endPush]

@[simp] theorem State.msgFailed_mode (s : State) (m : Msg) : (s.msgFailed m).mode = s.mode := by
  unfold State.msgFailed
  simp only
  repeat' split
  all_goals simp

@[simp] theorem State.perfOp_mode (s : State) (op fe tm : Nat) :
    (s.perfOp op fe tm).mode = s.mode := perfOp_agreeOff s op fe tm .mode (by decide)

@[simp] theorem State.railSeen_mode (s : State) (rail : Nat) : (s.railSeen rail).mode = s.mode := by simp [State.railSeen]

@[simp] theorem State.noteTemp_mode (s : State) (sensor : Nat) (t : Int) : (s.noteTemp sensor t).mode = s.mode := rfl

@[simp] theorem State.inputMasked_mode (s : State) (bit_ input : Nat) : (s.inputMasked bit_ input).mode = s.mode := by
  simp [State.inputMasked]

@[simp] theorem State.vecUnmasked_mode (s : State) (v : Nat) : (s.vecUnmasked v).mode = s.mode := by
  simp [State.vecUnmasked]

@[simp] theorem State.writeDoorbell_mode (s : State) (v : Nat) : (s.writeDoorbell v).mode = s.mode := by
  unfold State.writeDoorbell
  split <;> simp

@[simp] theorem State.portDone_mode (s : State) (id : Nat) (r : Res) : (s.portDone id r).mode = s.mode := by
  unfold State.portDone
  split <;> simp

end Sys2Proof.Machine
end

section
/-! Operations of a device in Quarantine: those that may set a condition, repair memory or change the mode leave it there (R666). -/
namespace Sys2Proof.Machine
open Sys2Proof

@[simp] theorem State.reconcile_mode (s : State) : s.reconcile.mode = s.mode := by
  unfold State.reconcile
  split <;> simp

@[simp] theorem State.takeOver_mode (s : State) : s.takeOver.mode = s.mode := by simp [State.takeOver]

@[simp] theorem State.readSettings_mode (s : State) (cold : Bool) : (s.readSettings cold).mode = s.mode := by
  unfold State.readSettings
  simp only
  split
  · split <;> simp
  · simp

@[simp] theorem modeCode_ite {p : Prop} [Decidable p] (a b : ModeSt) : (if p then a else b).mode = if p then a.mode else b.mode :=
  apply_ite ModeSt.mode p a b

@[simp] theorem State.clearCond_modeCode (s : State) (b : Nat) : (s.clearCond b).mode.mode = s.mode.mode := by
  simp [State.clearCond]

@[simp] theorem State.noteRate_modeCode (s : State) : s.noteRate.mode.mode = s.mode.mode := by simp [State.noteRate]

@[simp] theorem State.setMacro_modeCode (s : State) (m : Nat) (x : Macro) : (s.setMacro m x).mode.mode = s.mode.mode := rfl

@[simp] theorem State.unpoison_modeCode (s : State) (table i : Nat) : (s.unpoison table i).mode.mode = s.mode.mode := by
  simp [State.unpoison]

@[simp] theorem State.nexthopOp_modeCode (s : State) (b : Bytes) : (s.nexthopOp b).2.mode.mode = s.mode.mode := by
  unfold State.nexthopOp
  simp only
  repeat' split
  all_goals simp

@[simp] theorem State.labelOp_modeCode (s : State) (b : Bytes) : (s.labelOp b).2.mode.mode = s.mode.mode := by
  unfold State.labelOp
  simp only
  repeat' split
  all_goals simp

@[simp] theorem State.batchOp_modeCode (s : State) (opcode flags : Nat) (b : Bytes) :
    (s.batchOp opcode flags b).2.mode.mode = s.mode.mode := by
  unfold State.batchOp
  simp only
  repeat' split
  all_goals simp

@[simp] theorem State.portOp_modeCode (s : State) (w : PortWork) : (s.portOp w).2.mode.mode = s.mode.mode := by
  unfold State.portOp
  split
  · rfl
  · simp only
    split <;> simp

@[simp] theorem State.freeObject_modeCode (s : State) (r : Retiring) : (s.freeObject r).mode.mode = s.mode.mode := by
  unfold State.freeObject
  simp only
  repeat' split
  all_goals simp

@[simp] theorem State.commitMap_modeCode (s : State) (failedSector : Option Nat) :
    (s.commitMap failedSector).mode.mode = s.mode.mode := by
  unfold State.commitMap
  split <;> simp

@[simp] theorem State.restartFe_modeCode (s : State) : s.restartFe.mode.mode = s.mode.mode := by simp [State.restartFe]

@[simp] theorem State.stopRestarts_modeCode (s : State) (cause : Nat) : (s.stopRestarts cause).mode.mode = s.mode.mode := by
  simp [State.stopRestarts]

theorem foldl_quarantine {α : Type} {s : State} {f : State → α → State} {l : List α} (hq : s.mode.mode = mdQuarantine)
    (hf : ∀ a x, a.mode.mode = mdQuarantine → (f a x).mode.mode = mdQuarantine) : (l.foldl f s).mode.mode = mdQuarantine := by
  induction l generalizing s with
  | nil => exact hq
  | cons x l ih => exact ih (hf s x hq)

section
variable {s : State} (hq : s.mode.mode = mdQuarantine)
include hq

@[simp] theorem State.setCond_quarantine (b : Nat) : (s.setCond b).mode.mode = mdQuarantine := by
  simp [State.setCond, degradable, hq]

@[simp] theorem State.fixCond_quarantine (b : Nat) (holds : Bool) : (s.fixCond b holds).mode.mode = mdQuarantine := by
  simp [State.fixCond, hq]

theorem State.quarantine_of_quarantine (cause : Nat) : s.quarantine cause = s := by simp [State.quarantine, hq]

theorem State.leaveActivation_of_quarantine (prev : Nat) : s.leaveActivation prev = s := by simp [State.leaveActivation, hq]

@[simp] theorem State.record_quarantine (r : Repair) : (s.record r).mode.mode = mdQuarantine := by
  unfold State.record
  simp only
  split <;> simp [hq]

@[simp] theorem State.sramSpare_quarantine (die m row col cause : Nat) :
    (s.sramSpare die m row col cause).mode.mode = mdQuarantine := by
  simp [State.sramSpare, hq]

@[simp] theorem State.sramRepair_quarantine (die m row col : Nat) (correctable : Bool) :
    (s.sramRepair die m row col correctable).mode.mode = mdQuarantine := by
  unfold State.sramRepair
  simp only
  split <;> simp [hq]

@[simp] theorem State.pipelineCheck_quarantine : s.pipelineCheck.mode.mode = mdQuarantine := by
  simp [State.pipelineCheck, State.quarantine_of_quarantine, hq]

@[simp] theorem State.tileLost_quarantine (lt : Nat) : (s.tileLost lt).mode.mode = mdQuarantine := by
  unfold State.tileLost
  simp only
  repeat' split
  all_goals simp [hq]

@[simp] theorem State.tileError_quarantine (lt : Nat) : (s.tileError lt).mode.mode = mdQuarantine := by
  unfold State.tileError
  simp only
  repeat' split
  all_goals simp [hq]

theorem State.poisonAdd_quarantine (p : Poison) {empty : State → State} (hempty : ∀ a, (empty a).mode = a.mode) :
    (s.poisonAdd p empty).mode.mode = mdQuarantine := by
  unfold State.poisonAdd
  split
  · exact hq
  · split <;> simp [hempty, hq]

@[simp] theorem State.poisonFib_quarantine (vrf fam len way bucket : Nat) :
    (s.poisonFib vrf fam len way bucket).mode.mode = mdQuarantine := by
  simp [State.poisonFib, State.poisonAdd_quarantine, hq]

@[simp] theorem State.poisonEm_quarantine (table way bucket : Nat) :
    (s.poisonEm table way bucket).mode.mode = mdQuarantine := by
  simp [State.poisonEm, State.poisonAdd_quarantine, hq]

@[simp] theorem State.poisonLabel_quarantine (i : Nat) : (s.poisonLabel i).mode.mode = mdQuarantine :=
  s.poisonAdd_quarantine hq _ fun _ => rfl

@[simp] theorem State.poisonNexthop_quarantine (i : Nat) : (s.poisonNexthop i).mode.mode = mdQuarantine :=
  s.poisonAdd_quarantine hq _ fun _ => rfl

@[simp] theorem State.poisonEcmp_quarantine (g : Nat) : (s.poisonEcmp g).mode.mode = mdQuarantine :=
  s.poisonAdd_quarantine hq _ fun _ => rfl

@[simp] theorem State.poisonMember_quarantine (i : Nat) : (s.poisonMember i).mode.mode = mdQuarantine :=
  s.poisonAdd_quarantine hq _ fun _ => rfl

@[simp] theorem State.sramLost_quarantine (use : SramUse) : (s.sramLost use).mode.mode = mdQuarantine := by
  unfold State.sramLost
  split <;> simp [hq]

@[simp] theorem State.lanesCond_quarantine : s.lanesCond.mode.mode = mdQuarantine := s.fixCond_quarantine hq _ _

@[simp] theorem State.removeLane_quarantine (l cause : Nat) : (s.removeLane l cause).mode.mode = mdQuarantine := by
  simp [State.removeLane, hq]

@[simp] theorem State.retireLimit_quarantine : s.retireLimit.mode.mode = mdQuarantine := by
  simp [State.retireLimit, hq]

@[simp] theorem State.retirePc_quarantine (p cause : Nat) (lost : Bool) : (s.retirePc p cause lost).mode.mode = mdQuarantine := by
  simp [State.retirePc, hq]

@[simp] theorem State.evacuated_quarantine (c : Nat) : (s.evacuated c).mode.mode = mdQuarantine := by
  unfold State.evacuated
  extract_lets x pcs a r d y
  have ha : a.mode.mode = mdQuarantine := by simp [a, hq]
  have hr : r.mode.mode = mdQuarantine := foldl_quarantine ha fun b e hb => by simp [hb]
  have hd : d.mode = r.mode := by simp [d]
  simp [hd, hr]

@[simp] theorem State.resumeActivation_quarantine (a : Activation) : (s.resumeActivation a).mode.mode = mdQuarantine := by
  unfold State.resumeActivation
  extract_lets img pending _ mode t u v
  have hu : u.mode.mode = mdQuarantine := by simp [u, t, mode, hq]
  simp [v, State.leaveActivation_of_quarantine hu, hu]

@[simp] theorem State.retireCore_quarantine (core : Nat) : (s.retireCore core).mode.mode = mdQuarantine := by
  simp [State.retireCore, hq]

@[simp] theorem State.feFailed_quarantine (cause : FeCause) (cores : List Nat) :
    (s.feFailed cause cores).mode.mode = mdQuarantine := by
  unfold State.feFailed
  extract_lets l mode a short _ b mode' c
  have ha : a.mode.mode = mdQuarantine := by simp [a, mode, hq]
  have hb : b.mode.mode = mdQuarantine := foldl_quarantine ha fun t k ht => t.retireCore_quarantine ht k
  split <;> simp [c, mode', hb]

@[simp] theorem State.applyChange_quarantine (x : Staged) : (s.applyChange x).mode.mode = mdQuarantine := by
  simp [State.applyChange, hq]

@[simp] theorem State.writeSnowdrop_quarantine (ready : Bool) : (s.writeSnowdrop ready).mode.mode = mdQuarantine := by
  simp [State.writeSnowdrop, State.windowOpen, hq]

@[simp] theorem State.writeBar_quarantine (offset : Nat) (v : BitVec 64) (wide : Bool) :
    (s.writeBar offset v wide).mode.mode = mdQuarantine := by
  simp [State.writeBar, hq]

end

end Sys2Proof.Machine
end

section
/-! MODE_SET (R668, R765). -/
namespace Sys2Proof.Machine
open Sys2Proof

/-- Settles O14: an accepted MODE_SET is answered by its own checks, and entering Quarantine again is the identity. -/
theorem modeSetRefusals : Obligations.ModeSetRefusals := by
  intro c s h
  refine ⟨fun hmember hlow hhigh => serve_failed h ?_, fun hm hconfirm hq => serve_answered h ?_,
    fun hm hconfirm => serve_failed h ?_⟩
  · have hsystem : inRange (byteAt c.payload 0) mdForwarding mdMaintenance = true := by simp [inRange, hlow, hhigh]
    have hrange : inRange (byteAt c.payload 0) mdBringUp mdMaintenance = true := by
      simp [inRange, hhigh, Nat.le_trans (show mdBringUp ≤ mdForwarding by decide) hlow]
    have hother : byteAt c.payload 0 ≠ mdQuarantine := Nat.ne_of_lt (Nat.lt_of_le_of_lt hhigh (by decide))
    simp [hother, hrange, hmember, hsystem]
  · simp [hm, hconfirm, State.quarantine_of_quarantine hq]
  · simp [hm, hconfirm]

end Sys2Proof.Machine
end

section
/-! Outcomes that stay in Quarantine, and what Quarantine switches off: the data plane, the fabric, training. -/
namespace Sys2Proof.Machine
open Sys2Proof

/-- Every next state that an outcome answers is in Quarantine. -/
def Quarantined (o : Out) : Prop := ∀ t, o = .next t → t.mode.mode = mdQuarantine

@[simp] theorem quarantined_next (t : State) : Quarantined (.next t) ↔ t.mode.mode = mdQuarantine := by simp [Quarantined]

@[simp] theorem quarantined_fault (e : Fault) : Quarantined (.fault e) := by simp [Quarantined]

@[simp] theorem signalStatus_mode (s t : State) : (signalStatus s t).mode = t.mode := signalStatus_agreeOff s t .mode (by decide)

@[simp] theorem quarantined_done (s t : State) : Quarantined (done s t) ↔ t.mode.mode = mdQuarantine := by simp [done]

@[simp] theorem quarantined_ite {p : Prop} [Decidable p] (a b : Out) :
    Quarantined (if p then a else b) ↔ if p then Quarantined a else Quarantined b := by split <;> rfl

section
variable {s : State} (hq : s.mode.mode = mdQuarantine)
include hq

theorem dataPlaneOn_of_quarantine : s.dataPlaneOn = false := by
  simp [State.dataPlaneOn, State.planeMode, inRange, hq, mdBringUp, mdMaintenance, mdQuarantine]

theorem fabricOn_of_quarantine : s.fabricOn = false := by simp [State.fabricOn, inRange, hq]

theorem portsMayTrain_of_quarantine : s.portsMayTrain = false := dataPlaneOn_of_quarantine hq

theorem mayFallBack_of_quarantine (g : Nat) : s.mayFallBack g = false := by simp [State.mayFallBack, hq]

theorem windowOpen_of_quarantine : s.windowOpen = false := by simp [State.windowOpen, hq]

theorem starting_of_quarantine : s.starting = false := by simp [State.starting, hq]

theorem receiveCell_quarantine (type lane : Nat) (c : Cell) (f : State → State) :
    Quarantined (receiveCell type lane c s f) := by
  simp [receiveCell, fabricOn_of_quarantine hq, hq]

theorem receiveMsg_quarantine (path : Path) (type : Nat) (h : CoordHdr) {f : State → State}
    (hf : ∀ a : State, a.mode.mode = mdQuarantine → (f a).mode.mode = mdQuarantine) :
    Quarantined (s.receiveMsg path type h f) := by
  unfold State.receiveMsg
  extract_lets src a b x
  have hb : b.mode.mode = mdQuarantine := by simp [b, a, hq]
  simp [hf, hb, hq]

end

/-- Every next state that an outcome answers is in Quarantine or in the mode named. -/
def QuarantinedOr (m : Nat) (o : Out) : Prop := ∀ t, o = .next t → t.mode.mode = mdQuarantine ∨ t.mode.mode = m

@[simp] theorem quarantinedOr_next (m : Nat) (t : State) :
    QuarantinedOr m (.next t) ↔ t.mode.mode = mdQuarantine ∨ t.mode.mode = m := by simp [QuarantinedOr]

@[simp] theorem quarantinedOr_done (m : Nat) (s t : State) :
    QuarantinedOr m (done s t) ↔ t.mode.mode = mdQuarantine ∨ t.mode.mode = m := by simp [done]

@[simp] theorem quarantinedOr_ite (m : Nat) {p : Prop} [Decidable p] (a b : Out) :
    QuarantinedOr m (if p then a else b) ↔ if p then QuarantinedOr m a else QuarantinedOr m b := by split <;> rfl

@[simp] theorem State.resetDies_modeCode (s : State) : s.resetDies.mode.mode = mdBoot := rfl

end Sys2Proof.Machine
end

section
/-! What the mailbox commands leave in Quarantine: the gates bar most of them (R674). -/
namespace Sys2Proof.Machine
open Sys2Proof

@[simp] theorem res_st_ite {p : Prop} [Decidable p] (a b : Res) : (if p then a else b).st = if p then a.st else b.st :=
  apply_ite Res.st p a b

@[simp] theorem Res.err_st (s : State) (status detail : Nat) : (Res.err s status detail).st = s := rfl

/-- The command leaves a device that is in Quarantine there. -/
def HoldsQuarantine (f : CmdFn) : Prop := ∀ c s, s.mode.mode = mdQuarantine → (f c s).st.mode.mode = mdQuarantine

/-- R674: the commands that a device in Quarantine serves. -/
def CmdSpec.servedInQuarantine (x : CmdSpec) : Bool := x.reads || [0, 0xF, 0x10, 0x11].contains (x.opcode / 256)

/-- Behind the gates it is enough to look at a body that the gates let run in Quarantine. -/
theorem gate_quarantine_of {x : CmdSpec} {body : Cmd → State → Res} (h : x.servedInQuarantine = true → HoldsQuarantine body) :
    HoldsQuarantine (gate x body) := by
  intro c s hq
  have hlocal : (runLocal x body c s).st.mode.mode = mdQuarantine := by
    cases hx : x.servedInQuarantine with
    | false =>
      have hbar : (s.mode.mode == mdQuarantine && !(x.reads || [0, 0xF, 0x10, 0x11].contains (x.opcode / 256))) = true := by
        rw [hq, show (x.reads || [0, 0xF, 0x10, 0x11].contains (x.opcode / 256)) = false from hx]
        rfl
      unfold runLocal
      rw [if_pos hbar]
      simp [hq]
    | true => simp [runLocal, State.portWait, hq, h hx c s hq]
  simp [gate, hq, hlocal]

theorem gate_quarantine {x : CmdSpec} {body : Cmd → State → Res} (h : HoldsQuarantine body) : HoldsQuarantine (gate x body) :=
  gate_quarantine_of fun _ => h

theorem gate_barred {x : CmdSpec} {body : Cmd → State → Res} (h : x.servedInQuarantine = false) :
    HoldsQuarantine (gate x body) :=
  gate_quarantine_of fun hx => absurd hx (by simp [h])

theorem serve_quarantine {f : CmdFn} (hf : HoldsQuarantine f) (c : Cmd) {s : State} (hq : s.mode.mode = mdQuarantine) :
    Quarantined (serve c f s) := by
  simp [serve, hf c s hq, hq]

@[simp] theorem State.reserve_mode (s : State) (n : Nat) : (s.reserve n).mode = s.mode := by simp [State.reserve]

theorem cmdNop_quarantine : HoldsQuarantine cmdNop := gate_quarantine fun _ _ hq => hq

theorem cmdDeviceInfoGet_quarantine : HoldsQuarantine cmdDeviceInfoGet := gate_quarantine fun _ _ hq => hq

theorem cmdEventMaskSet_quarantine : HoldsQuarantine cmdEventMaskSet :=
  gate_quarantine fun c s hq => by
    simp [hq]

theorem cmdEventMaskGet_quarantine : HoldsQuarantine cmdEventMaskGet := gate_quarantine fun _ _ hq => hq

theorem cmdEcho_quarantine : HoldsQuarantine cmdEcho := gate_quarantine fun _ _ hq => hq

theorem cmdPortStatusGet_quarantine : HoldsQuarantine cmdPortStatusGet :=
  gate_quarantine fun c s hq => by
    simp [hq]

theorem cmdPortCountersGet_quarantine : HoldsQuarantine cmdPortCountersGet :=
  gate_quarantine fun c s hq => by
    simp [hq]

theorem cmdModuleRead_quarantine : HoldsQuarantine cmdModuleRead :=
  gate_quarantine fun c s hq => by
    simp [hq]

theorem cmdLedgerRead_quarantine : HoldsQuarantine cmdLedgerRead :=
  gate_quarantine fun c s hq => by
    simp [hq]

theorem cmdSaStatusGet_quarantine : HoldsQuarantine cmdSaStatusGet :=
  gate_quarantine fun c s hq => by
    simp [hq]

theorem cmdSecyCountersGet_quarantine : HoldsQuarantine cmdSecyCountersGet :=
  gate_quarantine fun c s hq => by
    simp [hq]

theorem cmdParsePolicyGet_quarantine : HoldsQuarantine cmdParsePolicyGet :=
  gate_quarantine fun c s hq => by
    simp [hq]

theorem cmdLbSlotsGet_quarantine : HoldsQuarantine cmdLbSlotsGet :=
  gate_quarantine fun c s hq => by
    simp only
    repeat' split
    all_goals simp [hq]

theorem cmdParseCountersGet_quarantine : HoldsQuarantine cmdParseCountersGet :=
  gate_quarantine fun c s hq => by
    simp [hq]

theorem cmdRouteGet_quarantine : HoldsQuarantine cmdRouteGet :=
  gate_quarantine fun c s hq => by
    simp only
    repeat' split
    all_goals simp [hq]

theorem cmdObjCountersGet_quarantine : HoldsQuarantine cmdObjCountersGet :=
  gate_quarantine fun c s hq => by
    simp [hq]

theorem cmdTableStatusGet_quarantine : HoldsQuarantine cmdTableStatusGet := gate_quarantine fun _ _ hq => hq

theorem cmdTcamSearch_quarantine : HoldsQuarantine cmdTcamSearch :=
  gate_quarantine fun c s hq => by
    split <;> exact hq

theorem cmdTcamSearchContinue_quarantine : HoldsQuarantine cmdTcamSearchContinue :=
  gate_quarantine fun c s hq => by
    split <;> simp [hq]

theorem cmdTcamEntryRead_quarantine : HoldsQuarantine cmdTcamEntryRead :=
  gate_quarantine fun c s hq => by
    split <;> exact hq

theorem cmdTcamStatusGet_quarantine : HoldsQuarantine cmdTcamStatusGet := gate_quarantine fun _ _ hq => hq

theorem cmdQueueStatusGet_quarantine : HoldsQuarantine cmdQueueStatusGet :=
  gate_quarantine fun c s hq => by
    simp [hq]

theorem cmdBufferStatusGet_quarantine : HoldsQuarantine cmdBufferStatusGet := gate_quarantine fun _ _ hq => hq

theorem cmdSchedNodeGet_quarantine : HoldsQuarantine cmdSchedNodeGet :=
  gate_quarantine fun c s hq => by
    simp [hq]

theorem cmdPolicerStatusGet_quarantine : HoldsQuarantine cmdPolicerStatusGet :=
  gate_quarantine fun c s hq => by
    simp [hq]

theorem cmdSchedCountersGet_quarantine : HoldsQuarantine cmdSchedCountersGet := gate_quarantine fun _ _ hq => hq

theorem cmdBufInfo_quarantine : HoldsQuarantine cmdBufInfo :=
  gate_quarantine fun c s hq => by
    split <;> exact hq

theorem cmdPoolStatusGet_quarantine : HoldsQuarantine cmdPoolStatusGet := gate_quarantine fun _ _ hq => hq

theorem cmdFabricStatusGet_quarantine : HoldsQuarantine cmdFabricStatusGet := gate_quarantine fun _ _ hq => hq

theorem cmdFabricCountersGet_quarantine : HoldsQuarantine cmdFabricCountersGet := gate_quarantine fun _ _ hq => hq

theorem cmdMcastGroupGet_quarantine : HoldsQuarantine cmdMcastGroupGet := gate_quarantine fun _ _ hq => hq

theorem cmdEditTest_quarantine : HoldsQuarantine cmdEditTest :=
  gate_quarantine fun c s hq => by
    simp [hq]

theorem cmdEditCountersGet_quarantine : HoldsQuarantine cmdEditCountersGet := gate_quarantine fun _ _ hq => hq

theorem cmdHbmStatusGet_quarantine : HoldsQuarantine cmdHbmStatusGet :=
  gate_quarantine fun c s hq => by
    simp [hq]

theorem cmdHbmCountersGet_quarantine : HoldsQuarantine cmdHbmCountersGet := gate_quarantine fun _ _ hq => hq

theorem cmdTimeGet_quarantine : HoldsQuarantine cmdTimeGet := gate_quarantine fun _ _ hq => hq

theorem cmdTimeCountersGet_quarantine : HoldsQuarantine cmdTimeCountersGet := gate_quarantine fun _ _ hq => hq

theorem cmdDmaChannelStatusGet_quarantine : HoldsQuarantine cmdDmaChannelStatusGet :=
  gate_quarantine fun c s hq => by
    simp [hq]

theorem cmdHifCountersGet_quarantine : HoldsQuarantine cmdHifCountersGet := gate_quarantine fun _ _ hq => hq

theorem cmdHierStatusGet_quarantine : HoldsQuarantine cmdHierStatusGet := gate_quarantine fun _ _ hq => hq

theorem cmdHierCountersGet_quarantine : HoldsQuarantine cmdHierCountersGet := gate_quarantine fun _ _ hq => hq

theorem cmdFwDownload_quarantine : HoldsQuarantine cmdFwDownload :=
  gate_quarantine fun c s hq => by
    simp [hq]

theorem cmdFwVerify_quarantine : HoldsQuarantine cmdFwVerify :=
  gate_quarantine fun c s hq => by
    simp [hq]

theorem cmdFwActivate_quarantine : HoldsQuarantine cmdFwActivate :=
  gate_quarantine fun c s hq => by
    simp [hq]

theorem cmdFwConfirm_quarantine : HoldsQuarantine cmdFwConfirm :=
  gate_quarantine fun c s hq => by
    simp [hq]

theorem cmdFwRevert_quarantine : HoldsQuarantine cmdFwRevert :=
  gate_quarantine fun c s hq => by
    simp [hq]

theorem cmdFwStatusGet_quarantine : HoldsQuarantine cmdFwStatusGet := gate_quarantine fun _ _ hq => hq

theorem cmdFwUpdateConfig_quarantine : HoldsQuarantine cmdFwUpdateConfig :=
  gate_quarantine fun c s hq => by
    simp [hq]

theorem cmdFwSvnCommit_quarantine : HoldsQuarantine cmdFwSvnCommit :=
  gate_quarantine fun c s hq => by
    simp [hq]

theorem cmdAttestKeyGet_quarantine : HoldsQuarantine cmdAttestKeyGet := gate_quarantine fun _ _ hq => hq

theorem cmdAttestQuote_quarantine : HoldsQuarantine cmdAttestQuote :=
  gate_quarantine fun c s hq => by
    split <;> simp [hq]

theorem cmdFwSnowdropPush_quarantine : HoldsQuarantine cmdFwSnowdropPush :=
  gate_quarantine fun c s hq => by
    simp [hq]

/-- MODE_SET names no other mode that Quarantine may be left for (Table 17-1). -/
theorem cmdModeSet_quarantine : HoldsQuarantine cmdModeSet :=
  gate_quarantine fun c s hq => by
    have hnone : commanded mdQuarantine = [] := by decide
    simp [State.quarantine_of_quarantine hq, hnone, hq]

theorem cmdModeStatusGet_quarantine : HoldsQuarantine cmdModeStatusGet := gate_quarantine fun _ _ hq => hq

theorem cmdRepairStatusGet_quarantine : HoldsQuarantine cmdRepairStatusGet := gate_quarantine fun _ _ hq => hq

theorem cmdRepairMapRead_quarantine : HoldsQuarantine cmdRepairMapRead :=
  gate_quarantine fun c s hq => by
    simp [hq]

theorem cmdDeviceReset_quarantine : HoldsQuarantine cmdDeviceReset :=
  gate_quarantine fun c s hq => by
    simp [hq]

theorem cmdFeRestart_quarantine : HoldsQuarantine cmdFeRestart :=
  gate_quarantine fun c s hq => by
    simp [hq]

theorem cmdRepairConfig_quarantine : HoldsQuarantine cmdRepairConfig :=
  gate_quarantine fun c s hq => by
    simp [hq]

theorem cmdPerfCounterConfig_quarantine : HoldsQuarantine cmdPerfCounterConfig :=
  gate_quarantine fun c s hq => by
    simp [hq]

theorem cmdPerfControl_quarantine : HoldsQuarantine cmdPerfControl :=
  gate_quarantine fun c s hq => by
    simp [hq]

theorem cmdPerfCounterRead_quarantine : HoldsQuarantine cmdPerfCounterRead :=
  gate_quarantine fun c s hq => by
    have hclear (a : State) (e : Nat × Nat) :
        (a.setPerf e.1 e.2 { a.perf e.1 e.2 with value := 0, overflow := false }).mode = a.mode := by simp
    simp [foldl_mode hclear, hq]

theorem cmdHistogramConfig_quarantine : HoldsQuarantine cmdHistogramConfig :=
  gate_quarantine fun c s hq => by
    simp [hq]

theorem cmdPsampleConfig_quarantine : HoldsQuarantine cmdPsampleConfig :=
  gate_quarantine fun c s hq => by
    simp [hq]

theorem cmdTelemetryConfig_quarantine : HoldsQuarantine cmdTelemetryConfig :=
  gate_quarantine fun c s hq => by
    simp [hq]

theorem cmdTelemetryCountersGet_quarantine : HoldsQuarantine cmdTelemetryCountersGet := gate_quarantine fun _ _ hq => hq

theorem cmdPkgStatusGet_quarantine : HoldsQuarantine cmdPkgStatusGet := gate_quarantine fun _ _ hq => hq

theorem ops00_quarantine {op : Nat} {f : CmdFn} (e : ops00 op = some f) : HoldsQuarantine f := by
  unfold ops00 at e
  split at e
  · cases e; exact cmdNop_quarantine
  · cases e; exact cmdDeviceInfoGet_quarantine
  · cases e; exact cmdEventMaskSet_quarantine
  · cases e; exact cmdEventMaskGet_quarantine
  · cases e; exact cmdEcho_quarantine
  · cases e

theorem ops01_quarantine {op : Nat} {f : CmdFn} (e : ops01 op = some f) : HoldsQuarantine f := by
  unfold ops01 at e
  split at e
  · cases e; exact gate_barred rfl
  · cases e; exact gate_barred rfl
  · cases e; exact gate_barred rfl
  · cases e; exact cmdPortStatusGet_quarantine
  · cases e; exact cmdPortCountersGet_quarantine
  · cases e; exact cmdModuleRead_quarantine
  · cases e; exact gate_barred rfl
  · cases e; exact gate_barred rfl
  · cases e; exact cmdLedgerRead_quarantine
  · cases e; exact gate_barred rfl
  · cases e; exact gate_barred rfl
  · cases e; exact gate_barred rfl
  · cases e

theorem ops02_quarantine {op : Nat} {f : CmdFn} (e : ops02 op = some f) : HoldsQuarantine f := by
  unfold ops02 at e
  split at e
  · cases e; exact gate_barred rfl
  · cases e; exact gate_barred rfl
  · cases e; exact gate_barred rfl
  · cases e; exact gate_barred rfl
  · cases e; exact gate_barred rfl
  · cases e; exact gate_barred rfl
  · cases e; exact gate_barred rfl
  · cases e; exact cmdSaStatusGet_quarantine
  · cases e; exact cmdSecyCountersGet_quarantine
  · cases e

theorem ops03_quarantine {op : Nat} {f : CmdFn} (e : ops03 op = some f) : HoldsQuarantine f := by
  unfold ops03 at e
  split at e
  · cases e; exact gate_barred rfl
  · cases e; exact cmdParsePolicyGet_quarantine
  · cases e; exact gate_barred rfl
  · cases e; exact gate_barred rfl
  · cases e; exact gate_barred rfl
  · cases e; exact gate_barred rfl
  · cases e; exact gate_barred rfl
  · cases e; exact cmdLbSlotsGet_quarantine
  · cases e; exact cmdParseCountersGet_quarantine
  · cases e; exact gate_barred rfl
  · cases e

theorem ops04_quarantine {op : Nat} {f : CmdFn} (e : ops04 op = some f) : HoldsQuarantine f := by
  unfold ops04 at e
  split at e
  · cases e; exact gate_barred rfl
  · cases e; exact gate_barred rfl
  · cases e; exact cmdRouteGet_quarantine
  · cases e; exact gate_barred rfl
  · cases e; exact gate_barred rfl
  · cases e; exact gate_barred rfl
  · cases e; exact gate_barred rfl
  · cases e; exact gate_barred rfl
  · cases e; exact gate_barred rfl
  · cases e; exact gate_barred rfl
  · cases e; exact gate_barred rfl
  · cases e; exact gate_barred rfl
  · cases e; exact gate_barred rfl
  · cases e; exact cmdObjCountersGet_quarantine
  · cases e; exact gate_barred rfl
  · cases e; exact gate_barred rfl
  · cases e; exact gate_barred rfl
  · cases e; exact cmdTableStatusGet_quarantine
  · cases e; exact gate_barred rfl
  · cases e

theorem ops05_quarantine {op : Nat} {f : CmdFn} (e : ops05 op = some f) : HoldsQuarantine f := by
  unfold ops05 at e
  split at e
  · cases e; exact gate_barred rfl
  · cases e; exact gate_barred rfl
  · cases e; exact gate_barred rfl
  · cases e; exact gate_barred rfl
  · cases e; exact gate_barred rfl
  · cases e; exact gate_barred rfl
  · cases e; exact gate_barred rfl
  · cases e; exact gate_barred rfl
  · cases e; exact cmdTcamSearch_quarantine
  · cases e; exact cmdTcamSearchContinue_quarantine
  · cases e; exact gate_barred rfl
  · cases e; exact cmdTcamEntryRead_quarantine
  · cases e; exact cmdTcamStatusGet_quarantine
  · cases e

theorem ops06_quarantine {op : Nat} {f : CmdFn} (e : ops06 op = some f) : HoldsQuarantine f := by
  unfold ops06 at e
  split at e
  · cases e; exact gate_barred rfl
  · cases e; exact gate_barred rfl
  · cases e; exact gate_barred rfl
  · cases e; exact gate_barred rfl
  · cases e; exact gate_barred rfl
  · cases e; exact cmdQueueStatusGet_quarantine
  · cases e; exact cmdBufferStatusGet_quarantine
  · cases e; exact gate_barred rfl
  · cases e

theorem ops07_quarantine {op : Nat} {f : CmdFn} (e : ops07 op = some f) : HoldsQuarantine f := by
  unfold ops07 at e
  split at e
  · cases e; exact gate_barred rfl
  · cases e; exact cmdSchedNodeGet_quarantine
  · cases e; exact gate_barred rfl
  · cases e; exact gate_barred rfl
  · cases e; exact gate_barred rfl
  · cases e; exact gate_barred rfl
  · cases e; exact gate_barred rfl
  · cases e; exact gate_barred rfl
  · cases e; exact gate_barred rfl
  · cases e; exact cmdPolicerStatusGet_quarantine
  · cases e; exact gate_barred rfl
  · cases e; exact cmdSchedCountersGet_quarantine
  · cases e

theorem ops08_quarantine {op : Nat} {f : CmdFn} (e : ops08 op = some f) : HoldsQuarantine f := by
  unfold ops08 at e
  split at e
  · cases e; exact gate_barred rfl
  · cases e; exact gate_barred rfl
  · cases e; exact gate_barred rfl
  · cases e; exact gate_barred rfl
  · cases e; exact cmdBufInfo_quarantine
  · cases e; exact gate_barred rfl
  · cases e; exact cmdPoolStatusGet_quarantine
  · cases e

theorem ops09_quarantine {op : Nat} {f : CmdFn} (e : ops09 op = some f) : HoldsQuarantine f := by
  unfold ops09 at e
  split at e
  · cases e; exact gate_barred rfl
  · cases e; exact gate_barred rfl
  · cases e; exact gate_barred rfl
  · cases e; exact gate_barred rfl
  · cases e; exact gate_barred rfl
  · cases e; exact gate_barred rfl
  · cases e; exact gate_barred rfl
  · cases e; exact cmdFabricStatusGet_quarantine
  · cases e; exact cmdFabricCountersGet_quarantine
  · cases e

theorem ops0A_quarantine {op : Nat} {f : CmdFn} (e : ops0A op = some f) : HoldsQuarantine f := by
  unfold ops0A at e
  split at e
  · cases e; exact gate_barred rfl
  · cases e; exact gate_barred rfl
  · cases e; exact gate_barred rfl
  · cases e; exact cmdMcastGroupGet_quarantine
  · cases e; exact gate_barred rfl
  · cases e; exact gate_barred rfl
  · cases e; exact cmdEditTest_quarantine
  · cases e; exact cmdEditCountersGet_quarantine
  · cases e

theorem ops0B_quarantine {op : Nat} {f : CmdFn} (e : ops0B op = some f) : HoldsQuarantine f := by
  unfold ops0B at e
  split at e
  · cases e; exact gate_barred rfl
  · cases e; exact cmdHbmStatusGet_quarantine
  · cases e; exact gate_barred rfl
  · cases e; exact gate_barred rfl
  · cases e; exact gate_barred rfl
  · cases e; exact cmdHbmCountersGet_quarantine
  · cases e

theorem ops0C_quarantine {op : Nat} {f : CmdFn} (e : ops0C op = some f) : HoldsQuarantine f := by
  unfold ops0C at e
  split at e
  · cases e; exact cmdTimeGet_quarantine
  · cases e; exact gate_barred rfl
  · cases e; exact gate_barred rfl
  · cases e; exact gate_barred rfl
  · cases e; exact gate_barred rfl
  · cases e; exact gate_barred rfl
  · cases e; exact gate_barred rfl
  · cases e; exact cmdTimeCountersGet_quarantine
  · cases e

theorem ops0D_quarantine {op : Nat} {f : CmdFn} (e : ops0D op = some f) : HoldsQuarantine f := by
  unfold ops0D at e
  split at e
  · cases e; exact gate_barred rfl
  · cases e; exact gate_barred rfl
  · cases e; exact cmdDmaChannelStatusGet_quarantine
  · cases e; exact gate_barred rfl
  · cases e; exact cmdHifCountersGet_quarantine
  · cases e

theorem ops0E_quarantine {op : Nat} {f : CmdFn} (e : ops0E op = some f) : HoldsQuarantine f := by
  unfold ops0E at e
  split at e
  · cases e; exact gate_barred rfl
  · cases e; exact cmdHierStatusGet_quarantine
  · cases e; exact gate_barred rfl
  · cases e; exact gate_barred rfl
  · cases e; exact gate_barred rfl
  · cases e; exact cmdHierCountersGet_quarantine
  · cases e; exact gate_barred rfl
  · cases e

theorem ops0F_quarantine {op : Nat} {f : CmdFn} (e : ops0F op = some f) : HoldsQuarantine f := by
  unfold ops0F at e
  split at e
  · cases e; exact cmdFwDownload_quarantine
  · cases e; exact cmdFwVerify_quarantine
  · cases e; exact cmdFwActivate_quarantine
  · cases e; exact cmdFwConfirm_quarantine
  · cases e; exact cmdFwRevert_quarantine
  · cases e; exact cmdFwStatusGet_quarantine
  · cases e; exact cmdFwUpdateConfig_quarantine
  · cases e; exact cmdFwSvnCommit_quarantine
  · cases e; exact cmdAttestKeyGet_quarantine
  · cases e; exact cmdAttestQuote_quarantine
  · cases e; exact cmdFwSnowdropPush_quarantine
  · cases e

theorem ops10_quarantine {op : Nat} {f : CmdFn} (e : ops10 op = some f) : HoldsQuarantine f := by
  unfold ops10 at e
  split at e
  · cases e; exact cmdModeSet_quarantine
  · cases e; exact cmdModeStatusGet_quarantine
  · cases e; exact cmdRepairStatusGet_quarantine
  · cases e; exact cmdRepairMapRead_quarantine
  · cases e; exact cmdDeviceReset_quarantine
  · cases e; exact cmdFeRestart_quarantine
  · cases e; exact cmdRepairConfig_quarantine
  · cases e

theorem ops11_quarantine {op : Nat} {f : CmdFn} (e : ops11 op = some f) : HoldsQuarantine f := by
  unfold ops11 at e
  split at e
  · cases e; exact cmdPerfCounterConfig_quarantine
  · cases e; exact cmdPerfControl_quarantine
  · cases e; exact cmdPerfCounterRead_quarantine
  · cases e; exact cmdHistogramConfig_quarantine
  · cases e; exact cmdPsampleConfig_quarantine
  · cases e; exact cmdTelemetryConfig_quarantine
  · cases e; exact cmdTelemetryCountersGet_quarantine
  · cases e

theorem ops12_quarantine {op : Nat} {f : CmdFn} (e : ops12 op = some f) : HoldsQuarantine f := by
  unfold ops12 at e
  split at e
  · cases e; exact cmdPkgStatusGet_quarantine
  · cases e; exact gate_barred rfl
  · cases e; exact gate_barred rfl
  · cases e; exact gate_barred rfl
  · cases e; exact gate_barred rfl
  · cases e

theorem opsBelow_quarantine {op : Nat} {f : CmdFn} (e : opsBelow op = some f) : HoldsQuarantine f := by
  unfold opsBelow at e
  split at e
  · exact ops00_quarantine e
  · exact ops01_quarantine e
  · exact ops02_quarantine e
  · exact ops03_quarantine e
  · exact ops04_quarantine e
  · exact ops05_quarantine e
  · exact ops06_quarantine e
  · exact ops07_quarantine e
  · exact ops08_quarantine e
  · exact ops09_quarantine e
  · exact ops0A_quarantine e
  · exact ops0B_quarantine e
  · exact ops0C_quarantine e
  · exact ops0D_quarantine e
  · exact ops0E_quarantine e
  · exact ops0F_quarantine e
  · exact ops10_quarantine e
  · exact ops11_quarantine e
  · exact ops12_quarantine e
  · cases e

/-- Every command of the table leaves a device that is in Quarantine there. -/
theorem opTable_quarantine {op : Nat} {f : CmdFn} (e : opTable op = some f) : HoldsQuarantine f := by
  unfold opTable at e
  split at e
  · cases e; exact gate_barred rfl
  · exact opsBelow_quarantine e

theorem runOp_quarantine {f : Nat → Option CmdFn} (hf : ∀ {op : Nat} {x : CmdFn}, f op = some x → HoldsQuarantine x) (e : CmdEntry)
    {s : State} (hq : s.mode.mode = mdQuarantine) : (runOp f e s).st.mode.mode = mdQuarantine := by
  unfold runOp
  split
  case h_1 x hx => exact hf hx e.cmd s hq
  case h_2 => exact hq

end Sys2Proof.Machine
end

section
/-! The table write port of a device in Quarantine. -/
namespace Sys2Proof.Machine
open Sys2Proof

section
variable {s : State} (hq : s.mode.mode = mdQuarantine)
include hq

/-- R21: the entry at the head of the table write port, a command that waited there or one operation of a batch. -/
theorem State.portEntry_quarantine : s.portEntry.mode.mode = mdQuarantine := by
  unfold State.portEntry
  split
  · exact hq
  · split
    · rename_i w l _ e _
      have hrun : (runOp opsBelow e { s with tbl.port := [] }).st.mode.mode = mdQuarantine :=
        runOp_quarantine opsBelow_quarantine e hq
      simp [hrun]
    · simp only
      split <;> simp [hq]

theorem State.portStep_quarantine : s.portStep.mode.mode = mdQuarantine := by
  have hdue : s.portDue.mode.mode = mdQuarantine := by simp [hq]
  unfold State.portStep
  simp only
  split
  · exact hq
  · split
    · exact hdue
    · exact State.portEntry_quarantine hdue

end

end Sys2Proof.Machine
end

section
/-! Doorbells, ring registers and host interface events (14_host_interface.md). -/
namespace Sys2Proof.Machine
open Sys2Proof

section
variable {s : State} (hq : s.mode.mode = mdQuarantine)
include hq

theorem execCommandProducerIndex_quarantine (channel rsv index : Nat) :
    Quarantined (execCommandProducerIndex channel rsv index s) := by
  simp [execCommandProducerIndex, hq]

theorem execEventConsumerIndex_quarantine (channel rsv index : Nat) : Quarantined (execEventConsumerIndex channel rsv index s) := by
  simp [execEventConsumerIndex, hq]

theorem execChannelProducerIndex_quarantine (channel rsv index : Nat) (descs : List Desc) :
    Quarantined (execChannelProducerIndex channel rsv index descs s) := by
  simp [execChannelProducerIndex, hq]

theorem execHifCmdRingBase_quarantine (w : RegWrite) : Quarantined (execHifCmdRingBase w s) := by
  simp [execHifCmdRingBase, hq]

theorem execHifEvtRingBase_quarantine (w : RegWrite) : Quarantined (execHifEvtRingBase w s) := by
  simp [execHifEvtRingBase, hq]

theorem execHifHealth_quarantine (v : BitVec 32) : Quarantined (execHifHealth v s) := by
  simp [execHifHealth, hq]

theorem execMsixTimer_quarantine (vector : Nat) : Quarantined (execMsixTimer vector s) := by
  simp [execMsixTimer, hq]

theorem execPuntDmaComplete_quarantine (channel : Nat) : Quarantined (execPuntDmaComplete channel s) := by
  have hcount (l : List (Nat × Nat)) (a : State) : (l.foldl (fun (a : State) e => a.count 1809 0 e.1 0 e.2) a).mode = a.mode :=
    foldl_mode (fun a e => a.count_mode ..) a l
  unfold execPuntDmaComplete
  simp only
  repeat' split
  all_goals simp [hcount, hq]

theorem execPuntFrameAtHead_quarantine (channel : Nat) : Quarantined (execPuntFrameAtHead channel s) := by
  simp [execPuntFrameAtHead, hq]

theorem execPuntHoldExpiry_quarantine (channel : Nat) : Quarantined (execPuntHoldExpiry channel s) := by
  unfold execPuntHoldExpiry
  simp only
  repeat' split
  all_goals simp [hq]

theorem execInjectHoldExpiry_quarantine (channel : Nat) : Quarantined (execInjectHoldExpiry channel s) := by
  unfold execInjectHoldExpiry
  simp only
  repeat' split
  all_goals simp [hq]

theorem execDmaError_quarantine (channel : Option Nat) (addr : Nat) (err : PcieErr) :
    Quarantined (execDmaError channel addr err s) := by
  unfold execDmaError
  simp only
  repeat' split
  all_goals simp [hq]

theorem execFunctionLevelReset_quarantine : Quarantined (execFunctionLevelReset s) := by
  simp [execFunctionLevelReset, hq]

theorem execPcieLinkLoss_quarantine : Quarantined (execPcieLinkLoss s) := by
  simp [execPcieLinkLoss, hq]

theorem execBusMasterOff_quarantine : Quarantined (execBusMasterOff s) := by
  simp [execBusMasterOff, hq]

theorem execPcieLinkUp_quarantine : Quarantined (execPcieLinkUp s) := by
  simp [execPcieLinkUp, hq]

end

end Sys2Proof.Machine
end

section
/-! Snowdrop recovery and the resending of coordination messages (R588, R647-R651). -/
namespace Sys2Proof.Machine
open Sys2Proof

section
variable {s : State} (hq : s.mode.mode = mdQuarantine)
include hq

theorem execImageReady_quarantine (v : BitVec 32) : Quarantined (execImageReady v s) := by
  simp [execImageReady, hq]

theorem execSnowdropOffer_quarantine (path : Path) (h : CoordHdr) (dieIds : Bytes) (cause : Nat) :
    Quarantined (execSnowdropOffer path h dieIds cause s) :=
  receiveMsg_quarantine hq _ _ _ fun a ha => by simp [ha]

theorem execSnowdropChunk_quarantine (path : Path) (h : CoordHdr) (total offset : Nat) (data : Bytes) :
    Quarantined (execSnowdropChunk path h total offset data s) := by
  simp [execSnowdropChunk, windowOpen_of_quarantine hq, hq]

theorem execSnowdropResult_quarantine (path : Path) (h : CoordHdr) (code nextOffset : Nat) :
    Quarantined (execSnowdropResult path h code nextOffset s) :=
  receiveMsg_quarantine hq _ _ _ fun a ha => by simp [ha]

theorem execSnowdropOfferSend_quarantine : Quarantined (execSnowdropOfferSend s) := by
  simp [execSnowdropOfferSend, hq]

theorem execMessageResend_quarantine (msgSeq : Nat) : Quarantined (execMessageResend msgSeq s) := by
  unfold execMessageResend
  split <;> simp [hq]

end

end Sys2Proof.Machine
end

section
/-! Power, clock, thermal and input events (19_package_power.md): the loss of main power and the reset input are the exceptions of
R666. -/
namespace Sys2Proof.Machine
open Sys2Proof

section
variable {s : State} (hq : s.mode.mode = mdQuarantine)
include hq

theorem execAuxRegisterWrite_quarantine (reg : Nat) (v : BitVec 32) : Quarantined (execAuxRegisterWrite reg v s) := by
  simp [execAuxRegisterWrite, hq]

theorem execRootPllLock_quarantine : Quarantined (execRootPllLock s) := by
  simp [execRootPllLock, hq]

theorem execPllLockRetry_quarantine : Quarantined (execPllLockRetry s) := by
  simp [execPllLockRetry, hq]

theorem execRootPllLoss_quarantine : Quarantined (execRootPllLoss s) := by
  simp [execRootPllLoss, starting_of_quarantine hq, hq]

theorem execMainPowerLoss_quarantine : QuarantinedOr mdStandby (execMainPowerLoss s) := by
  simp [execMainPowerLoss, hq]

theorem execRailFault_quarantine (rail : Nat) : Quarantined (execRailFault rail s) := by
  have hlatched : ((s.railSeen rail).latch 3).mode.mode = mdQuarantine := by simp [hq]
  simp [execRailFault, starting_of_quarantine hq, State.quarantine_of_quarantine hlatched, hq]

theorem execMainRailsGood_quarantine : Quarantined (execMainRailsGood s) := by
  simp [execMainRailsGood, hq]

theorem execVauxChange_quarantine (millivolt : Nat) : Quarantined (execVauxChange millivolt s) := by
  simp [execVauxChange, hq]

theorem execThermalAlarm_quarantine (sensor : Nat) (tempC : Int) : Quarantined (execThermalAlarm sensor tempC s) := by
  simp [execThermalAlarm, hq]

theorem execThermalTrip_quarantine (sensor : Nat) (tempC : Int) : Quarantined (execThermalTrip sensor tempC s) := by
  unfold execThermalTrip
  extract_lets noted aux latched
  have hlatched : latched.mode.mode = mdQuarantine := by simp [latched, aux, noted, hq]
  simp [starting_of_quarantine hq, State.quarantine_of_quarantine hlatched, hlatched, hq]

theorem execTemperatureLow_quarantine (sensor : Nat) (tempC : Int) : Quarantined (execTemperatureLow sensor tempC s) := by
  simp [execTemperatureLow, hq]

theorem execSysResetAssertion_quarantine : QuarantinedOr mdBoot (execSysResetAssertion s) := by
  simp [execSysResetAssertion, hq]

theorem execSysResetRelease_quarantine : Quarantined (execSysResetRelease s) := by
  simp [execSysResetRelease, hq]

theorem execResetStuck_quarantine : Quarantined (execResetStuck s) := by
  simp [execResetStuck, hq]

theorem execPerstAssertion_quarantine : Quarantined (execPerstAssertion s) := by
  simp [execPerstAssertion, hq]

theorem execPerstUnmaskTimeout_quarantine : Quarantined (execPerstUnmaskTimeout s) := by
  simp [execPerstUnmaskTimeout, hq]

theorem execRecoveryStuck_quarantine : Quarantined (execRecoveryStuck s) := by
  simp [execRecoveryStuck, hq]

theorem execAlarmInputChange_quarantine (input : Nat) (level : Bool) : Quarantined (execAlarmInputChange input level s) := by
  simp [execAlarmInputChange, hq]

theorem execAuxHeartbeat_quarantine : Quarantined (execAuxHeartbeat s) := by
  simp [execAuxHeartbeat, hq]

theorem execRailsBackInWindow_quarantine : Quarantined (execRailsBackInWindow s) := by
  simp [execRailsBackInWindow, hq]

end

end Sys2Proof.Machine
end

section
/-! BAR0 writes and reads (Table 14-1). -/
namespace Sys2Proof.Machine
open Sys2Proof

section
variable {s : State} (hq : s.mode.mode = mdQuarantine)
include hq

theorem execRegisterWrite_quarantine (offset : Nat) (v : BitVec 64) (wide : Bool) :
    Quarantined (execRegisterWrite offset v wide s) := by
  simp [execRegisterWrite, hq]

end

end Sys2Proof.Machine
end

section
/-! Fetched, relayed and waiting commands (R197, R542, R603). -/
namespace Sys2Proof.Machine
open Sys2Proof

section
variable {s : State} (hq : s.mode.mode = mdQuarantine)
include hq

theorem execCommandFetch_quarantine (e : CmdEntry) : Quarantined (execCommandFetch e s) := by
  unfold execCommandFetch
  simp only
  split
  · simp [hq]
  · simp only [quarantined_done, Res.finish_mode]
    exact runOp_quarantine opTable_quarantine _ hq

theorem execTimedBatchCommit_quarantine : Quarantined (execTimedBatchCommit s) := by
  simp [execTimedBatchCommit, State.portStep_quarantine hq, hq]

theorem execRelayCommand_quarantine (path : Path) (h : CoordHdr) (relayId offset total : Nat) (entry : CmdEntry) (data : Bytes) :
    Quarantined (execRelayCommand path h relayId offset total entry data s) :=
  receiveMsg_quarantine hq _ _ _ fun a ha => by
    split
    · exact ha
    · simp only
      split
      · exact ha
      · split
        · exact ha
        · rw [Res.finish_mode]
          exact runOp_quarantine opTable_quarantine _ ha

end

end Sys2Proof.Machine
end

section
/-! Coordination messages and timers (15_device_hierarchy.md). -/
namespace Sys2Proof.Machine
open Sys2Proof

section
variable {s : State} (hq : s.mode.mode = mdQuarantine)
include hq

theorem execRelayTimeout_quarantine (relayId : Nat) : Quarantined (execRelayTimeout relayId s) := by
  unfold execRelayTimeout
  split <;> simp [hq]

theorem execTimeSyncSend_quarantine : Quarantined (execTimeSyncSend s) := by
  simp [execTimeSyncSend, hq]

theorem execTimeSync_quarantine (path : Path) (h : CoordHdr) (offset : Int) (newInc : BitVec 40) (step : Option Int) :
    Quarantined (execTimeSync path h offset newInc step s) :=
  receiveMsg_quarantine hq _ _ _ fun a ha => by
    simp only
    repeat' split
    all_goals simp [ha]

theorem execTimeSyncLoss_quarantine : Quarantined (execTimeSyncLoss s) := by
  simp [execTimeSyncLoss, hq]

theorem execHeartbeat_quarantine (path : Path) (h : CoordHdr) (t32 : T32) (role mode flags deputy members : Nat) :
    Quarantined (execHeartbeat path h t32 role mode flags deputy members s) :=
  receiveMsg_quarantine hq _ _ _ fun a ha => by simp [ha]

theorem execAck_quarantine (path : Path) (h : CoordHdr) (acked status : Nat) : Quarantined (execAck path h acked status s) :=
  receiveMsg_quarantine hq _ _ _ fun a ha => by simp [ha]

theorem execAnnounce_quarantine (path : Path) (h : CoordHdr) (priority role : Nat) :
    Quarantined (execAnnounce path h priority role s) :=
  receiveMsg_quarantine hq _ _ _ fun a ha => by simp [ha]

theorem execJoinRequest_quarantine (path : Path) (h : CoordHdr) (version priority ordering svn fwVersion mode : Nat) :
    Quarantined (execJoinRequest path h version priority ordering svn fwVersion mode s) :=
  receiveMsg_quarantine hq _ _ _ fun a ha => by
    simp only
    repeat' split
    all_goals simp [ha]

theorem execJoinAccept_quarantine (path : Path) (h : CoordHdr) (members deputy : Nat) (managerT32 : T32) :
    Quarantined (execJoinAccept path h members deputy managerT32 s) :=
  receiveMsg_quarantine hq _ _ _ fun a ha => by simp [ha]

theorem execJoinReject_quarantine (path : Path) (h : CoordHdr) (reason : Nat) : Quarantined (execJoinReject path h reason s) :=
  receiveMsg_quarantine hq _ _ _ fun a ha => by simp [ha]

theorem execLeave_quarantine (path : Path) (h : CoordHdr) (cause : Nat) : Quarantined (execLeave path h cause s) :=
  receiveMsg_quarantine hq _ _ _ fun a ha => by simp [ha]

theorem execMemberUpdate_quarantine (path : Path) (h : CoordHdr) (members deputy : Nat) :
    Quarantined (execMemberUpdate path h members deputy s) :=
  receiveMsg_quarantine hq _ _ _ fun a ha => by simp [ha]

theorem execRelayCompletion_quarantine (path : Path) (h : CoordHdr) (relayId offset total status resultLength applied failIndex detail : Nat) (result : Bytes) :
    Quarantined (execRelayCompletion path h relayId offset total status resultLength applied failIndex detail result s) :=
  receiveMsg_quarantine hq _ _ _ fun a ha => by split <;> simp [ha]

theorem execRelayEvent_quarantine (path : Path) (h : CoordHdr) (code t32 : Nat) (data : Bytes) :
    Quarantined (execRelayEvent path h code t32 data s) :=
  receiveMsg_quarantine hq _ _ _ fun a ha => by simp [ha]

theorem execPrepare_quarantine (path : Path) (h : CoordHdr) (newEpoch mode : Nat) (t : T32) (members : Nat) :
    Quarantined (execPrepare path h newEpoch mode t members s) :=
  receiveMsg_quarantine hq _ _ _ fun a ha => by simp [ha]

theorem execReady_quarantine (path : Path) (h : CoordHdr) (newEpoch : Nat) : Quarantined (execReady path h newEpoch s) :=
  receiveMsg_quarantine hq _ _ _ fun a ha => by split <;> simp [ha]

theorem execRefuse_quarantine (path : Path) (h : CoordHdr) (newEpoch status : Nat) :
    Quarantined (execRefuse path h newEpoch status s) :=
  receiveMsg_quarantine hq _ _ _ fun a ha => by split <;> simp [ha]

theorem execCommit_quarantine (path : Path) (h : CoordHdr) (newEpoch mode : Nat) (t : T32) :
    Quarantined (execCommit path h newEpoch mode t s) :=
  receiveMsg_quarantine hq _ _ _ fun a ha => by
    simp only
    repeat' split
    all_goals simp [ha]

theorem execAbort_quarantine (path : Path) (h : CoordHdr) (newEpoch : Nat) : Quarantined (execAbort path h newEpoch s) :=
  receiveMsg_quarantine hq _ _ _ fun a ha => by simp [ha]

theorem execModeQuery_quarantine (path : Path) (h : CoordHdr) (newEpoch : Nat) : Quarantined (execModeQuery path h newEpoch s) :=
  receiveMsg_quarantine hq _ _ _ fun a ha => by
    simp only
    repeat' split
    all_goals simp [ha]

theorem execTakeover_quarantine (path : Path) (h : CoordHdr) (oldManager newDeputy : Nat) :
    Quarantined (execTakeover path h oldManager newDeputy s) :=
  receiveMsg_quarantine hq _ _ _ fun a ha => by simp [ha]

theorem execElectionWindowEnd_quarantine : Quarantined (execElectionWindowEnd s) := by
  simp [execElectionWindowEnd, hq]

theorem execAnnounceSend_quarantine : Quarantined (execAnnounceSend s) := by
  simp [execAnnounceSend, hq]

theorem execJoinRequestRepeat_quarantine : Quarantined (execJoinRequestRepeat s) := by
  unfold execJoinRequestRepeat
  split <;> simp [hq]

theorem execCoordHeartbeatSend_quarantine : Quarantined (execCoordHeartbeatSend s) := by
  simp [execCoordHeartbeatSend, hq]

theorem execCoordTimeout_quarantine (peer link : Nat) : Quarantined (execCoordTimeout peer link s) := by
  simp [execCoordTimeout, hq]

theorem execLeaveHoldExpiry_quarantine (peer : Nat) : Quarantined (execLeaveHoldExpiry peer s) := by
  unfold execLeaveHoldExpiry
  repeat' split
  all_goals simp [hq]

theorem execTakeoverHoldExpiry_quarantine : Quarantined (execTakeoverHoldExpiry s) := by
  unfold execTakeoverHoldExpiry
  split <;> simp [hq]

theorem execPrepareReplyTimeout_quarantine : Quarantined (execPrepareReplyTimeout s) := by
  unfold execPrepareReplyTimeout
  repeat' split
  all_goals simp [hq]

theorem execModeCommitDue_quarantine : Quarantined (execModeCommitDue s) := by
  unfold execModeCommitDue
  split <;> simp [hq]

theorem execCommitUncertain_quarantine : Quarantined (execCommitUncertain s) := by
  unfold execCommitUncertain
  split <;> simp [hq]

theorem execModeQuerySend_quarantine : Quarantined (execModeQuerySend s) := by
  unfold execModeQuerySend
  split <;> simp [hq]

theorem execDecisionResend_quarantine : Quarantined (execDecisionResend s) := by
  unfold execDecisionResend
  split <;> simp [hq]

theorem execModeChangeDeadline_quarantine : Quarantined (execModeChangeDeadline s) := by
  unfold execModeChangeDeadline
  split <;> simp [hq]

theorem execCoordLinkDown_quarantine (link : Nat) : Quarantined (execCoordLinkDown link s) := by
  simp [execCoordLinkDown, hq]

theorem execCoordLinkUp_quarantine (link : Nat) : Quarantined (execCoordLinkUp link s) := by
  simp [execCoordLinkUp, hq]

end

end Sys2Proof.Machine
end

section
/-! Parser events (04_parsing.md): they need the data plane. -/
namespace Sys2Proof.Machine
open Sys2Proof

section
variable {s : State} (hq : s.mode.mode = mdQuarantine)
include hq

theorem execReceiveFrame_quarantine (port : Nat) (f : RxInput) : Quarantined (execReceiveFrame port f s) := by
  simp [execReceiveFrame, onPort, dataPlaneOn_of_quarantine hq, hq]

theorem execParserSlot_quarantine (port : Nat) : Quarantined (execParserSlot port s) := by
  unfold execParserSlot onPort
  split
  · simp
  · simp only
    split <;> simp [dataPlaneOn_of_quarantine hq, hq]

theorem execParserPipelineError_quarantine (pipeline : Nat) (held : List Nat) :
    Quarantined (execParserPipelineError pipeline held s) := by
  simp [execParserPipelineError, hq]

end

end Sys2Proof.Machine
end

section
/-! Lookup events: they need the data plane. -/
namespace Sys2Proof.Machine
open Sys2Proof

section
variable {s : State} (hq : s.mode.mode = mdQuarantine)
include hq

theorem execLookupResult_quarantine (port : Nat) (parity : List Nat) : Quarantined (execLookupResult port parity s) := by
  simp [execLookupResult, dataPlaneOn_of_quarantine hq, hq]

theorem execLookupPipelineError_quarantine (pipeline : Nat) (held : List Nat) :
    Quarantined (execLookupPipelineError pipeline held s) := by
  simp [execLookupPipelineError, hq]

end

end Sys2Proof.Machine
end

section
/-! Queue events (07_packet_buffer.md). -/
namespace Sys2Proof.Machine
open Sys2Proof

section
variable {s : State} (hq : s.mode.mode = mdQuarantine)
include hq

theorem execHeaderCellAdmission_quarantine (port : Nat) : Quarantined (execHeaderCellAdmission port s) := by
  simp [execHeaderCellAdmission, dataPlaneOn_of_quarantine hq, hq]

theorem execSegmentWritten_quarantine : Quarantined (execSegmentWritten s) := by
  unfold execSegmentWritten
  split
  · simp [hq]
  · split <;> simp [dataPlaneOn_of_quarantine hq, hq]

theorem execRefillArrival_quarantine (queue : Nat) : Quarantined (execRefillArrival queue s) := by
  unfold execRefillArrival
  split
  · simp
  · simp only
    split <;> simp [dataPlaneOn_of_quarantine hq, hq]

theorem execAgeExpiry_quarantine (queue : Nat) : Quarantined (execAgeExpiry queue s) := by
  simp [execAgeExpiry, dataPlaneOn_of_quarantine hq, hq]

theorem execCellAudit_quarantine : Quarantined (execCellAudit s) := by
  simp [execCellAudit, hq]

end

end Sys2Proof.Machine
end

section
/-! Cell, reassembly and credit events (10_fabric.md). -/
namespace Sys2Proof.Machine
open Sys2Proof

section
variable {s : State} (hq : s.mode.mode = mdQuarantine)
include hq

theorem execFrameTail_quarantine (port : Nat) : Quarantined (execFrameTail port s) := by
  simp [execFrameTail, dataPlaneOn_of_quarantine hq, hq]

theorem execDispatchSelection_quarantine : Quarantined (execDispatchSelection s) := by
  simp [execDispatchSelection, dataPlaneOn_of_quarantine hq, hq]

theorem execDataCell_quarantine (lane : Nat) (cell : Cell) : Quarantined (execDataCell lane cell s) :=
  receiveCell_quarantine hq _ _ _ _

theorem execResequenceTimeout_quarantine (src plane lgroup : Nat) : Quarantined (execResequenceTimeout src plane lgroup s) := by
  simp [execResequenceTimeout, hq]

theorem execReassemblyTimeout_quarantine (src plane lgroup tc : Nat) (prot : Bool) :
    Quarantined (execReassemblyTimeout src plane lgroup tc prot s) := by
  simp [execReassemblyTimeout, hq]

theorem execProtectedCopyComplete_quarantine (src plane stream : Nat) :
    Quarantined (execProtectedCopyComplete src plane stream s) := by
  unfold execProtectedCopyComplete
  simp only
  repeat' split
  all_goals simp [hq]

theorem execReassemblyComplete_quarantine : Quarantined (execReassemblyComplete s) := by
  unfold execReassemblyComplete
  split <;> simp [dataPlaneOn_of_quarantine hq, hq]

theorem execWindowIdleExpiry_quarantine (src stream : Nat) : Quarantined (execWindowIdleExpiry src stream s) := by
  unfold execWindowIdleExpiry
  simp only
  repeat' split
  all_goals simp [hq]

theorem execCreditRequest_quarantine (rx : LaneCell) : Quarantined (execCreditRequest rx s) :=
  receiveCell_quarantine hq _ _ _ _

theorem execCreditRequestRefresh_quarantine (voq : Nat) : Quarantined (execCreditRequestRefresh voq s) := by
  simp [execCreditRequestRefresh, hq]

theorem execVoqActiveTimeout_quarantine (src voq : Nat) : Quarantined (execVoqActiveTimeout src voq s) := by
  unfold execVoqActiveTimeout
  simp only
  repeat' split
  all_goals simp [hq]

theorem execCreditIssue_quarantine (port : Nat) : Quarantined (execCreditIssue port s) := by
  simp [execCreditIssue, fabricOn_of_quarantine hq, hq]

theorem execGrantBatchTimeout_quarantine (src : Nat) : Quarantined (execGrantBatchTimeout src s) := by
  unfold execGrantBatchTimeout
  repeat' split
  all_goals simp [hq]

theorem execCreditGrant_quarantine (rx : LaneCell) : Quarantined (execCreditGrant rx s) :=
  receiveCell_quarantine hq _ _ _ _

theorem execCreditKeepExpiry_quarantine (voq : Nat) : Quarantined (execCreditKeepExpiry voq s) := by
  simp [execCreditKeepExpiry, hq]

end

end Sys2Proof.Machine
end

section
/-! Dispatch and scheduling events (08_scheduling.md). -/
namespace Sys2Proof.Machine
open Sys2Proof

section
variable {s : State} (hq : s.mode.mode = mdQuarantine)
include hq

theorem execEgressSelection_quarantine (port : Nat) : Quarantined (execEgressSelection port s) := by
  simp [execEgressSelection, dataPlaneOn_of_quarantine hq, hq]

theorem execShaperPayoff_quarantine (node : Nat) : Quarantined (execShaperPayoff node s) := by
  simp [execShaperPayoff, hq]

theorem execSampleWindowEnd_quarantine (k : Nat) : Quarantined (execSampleWindowEnd k s) := by
  unfold execSampleWindowEnd
  simp only
  repeat' split
  all_goals simp [hq]

end

end Sys2Proof.Machine
end

section
/-! Editing and transmission events (11_egress_editing.md). -/
namespace Sys2Proof.Machine
open Sys2Proof

section
variable {s : State} (hq : s.mode.mode = mdQuarantine)
include hq

theorem execEditPacket_quarantine (port : Nat) : Quarantined (execEditPacket port s) := by
  unfold execEditPacket
  split
  · simp
  · split <;> simp [dataPlaneOn_of_quarantine hq, hq]

theorem execTransmitStart_quarantine (port : Nat) : Quarantined (execTransmitStart port s) := by
  unfold execTransmitStart
  split
  · simp
  · simp only
    split <;> simp [dataPlaneOn_of_quarantine hq, hq]

theorem execMcastBlockRelease_quarantine (group : Nat) : Quarantined (execMcastBlockRelease group s) := by
  simp [execMcastBlockRelease, hq]

theorem execEditEngineError_quarantine (engine held : Nat) : Quarantined (execEditEngineError engine held s) := by
  simp [execEditEngineError, dataPlaneOn_of_quarantine hq, hq]

end

end Sys2Proof.Machine
end

section
/-! Plane, peer and lane events (10_fabric.md). -/
namespace Sys2Proof.Machine
open Sys2Proof

section
variable {s : State} (hq : s.mode.mode = mdQuarantine)
include hq

theorem execFabricHeartbeatSend_quarantine : Quarantined (execFabricHeartbeatSend s) := by
  simp [execFabricHeartbeatSend, hq]

theorem execHeartbeatCell_quarantine (rx : LaneCell) : Quarantined (execHeartbeatCell rx s) :=
  receiveCell_quarantine hq _ _ _ _

theorem execHearTimeout_quarantine (peer plane : Nat) : Quarantined (execHearTimeout peer plane s) := by
  simp [execHearTimeout, hq]

theorem execUpHoldExpiry_quarantine (peer plane : Nat) : Quarantined (execUpHoldExpiry peer plane s) := by
  simp [execUpHoldExpiry, fabricOn_of_quarantine hq, hq]

theorem execResync_quarantine (rx : LaneCell) : Quarantined (execResync rx s) :=
  receiveCell_quarantine hq _ _ _ _

theorem execResyncAck_quarantine (rx : LaneCell) : Quarantined (execResyncAck rx s) :=
  receiveCell_quarantine hq _ _ _ _

theorem execResyncResend_quarantine (peer plane : Nat) : Quarantined (execResyncResend peer plane s) := by
  simp [execResyncResend, fabricOn_of_quarantine hq, hq]

theorem execControlCell_quarantine (rx : LaneCell) : Quarantined (execControlCell rx s) :=
  receiveCell_quarantine hq _ _ _ _

theorem execControlMessageTimeout_quarantine (src msgId : Nat) : Quarantined (execControlMessageTimeout src msgId s) := by
  unfold execControlMessageTimeout
  simp only
  repeat' split
  all_goals simp [hq]

theorem execFabricLaneFault_quarantine (lane : Nat) (lockLost : Bool) : Quarantined (execFabricLaneFault lane lockLost s) := by
  simp [execFabricLaneFault, hq]

theorem execFabricLaneTrainingEnd_quarantine (lane : Nat) (trained : Bool) :
    Quarantined (execFabricLaneTrainingEnd lane trained s) := by
  simp [execFabricLaneTrainingEnd, hq]

theorem execFabricTrainingRetry_quarantine (lane : Nat) : Quarantined (execFabricTrainingRetry lane s) := by
  simp [execFabricTrainingRetry, hq]

theorem execLaneLockDeclared_quarantine (lane : Nat) : Quarantined (execLaneLockDeclared lane s) := by
  simp [execLaneLockDeclared, hq]

theorem execLaneLockLost_quarantine (lane : Nat) : Quarantined (execLaneLockLost lane s) := by
  simp [execLaneLockLost, hq]

end

end Sys2Proof.Machine
end

section
/-! Port events (02_ports.md). -/
namespace Sys2Proof.Machine
open Sys2Proof

section
variable {s : State} (hq : s.mode.mode = mdQuarantine)
include hq

theorem execLinkConditionsMet_quarantine (port : Nat) : Quarantined (execLinkConditionsMet port s) := by
  simp [execLinkConditionsMet, onPort, hq]

theorem execLinkUpHoldExpiry_quarantine (port : Nat) : Quarantined (execLinkUpHoldExpiry port s) := by
  unfold execLinkUpHoldExpiry onPort
  split
  · simp
  · simp only
    split <;> simp [portsMayTrain_of_quarantine hq, hq]

theorem execLinkConditionLost_quarantine (port : Nat) (fault : Bool) (lanesLost : List Nat) :
    Quarantined (execLinkConditionLost port fault lanesLost s) := by
  simp [execLinkConditionLost, onPort, hq]

theorem execLinkDownHoldExpiry_quarantine (port : Nat) : Quarantined (execLinkDownHoldExpiry port s) := by
  unfold execLinkDownHoldExpiry
  simp only [onPort]
  repeat' split
  all_goals simp [hq]

theorem execRemoteFault_quarantine (port : Nat) : Quarantined (execRemoteFault port s) := by
  simp [execRemoteFault, onPort, hq]

theorem execFecThreshold_quarantine (report : PortFec) : Quarantined (execFecThreshold report s) := by
  simp [execFecThreshold, onPort, portsMayTrain_of_quarantine hq, hq]

theorem execLaneTrainingEnd_quarantine (lane : Nat) (trained : Bool) : Quarantined (execLaneTrainingEnd lane trained s) := by
  unfold execLaneTrainingEnd
  simp only [onPort]
  repeat' split
  all_goals simp [hq]

theorem execTrainingRetry_quarantine (port : Nat) : Quarantined (execTrainingRetry port s) := by
  unfold execTrainingRetry
  simp only [onPort]
  repeat' split
  all_goals simp [hq]

theorem execFallbackWindow_quarantine (group : Nat) (rxTx : List (Nat × Nat × Nat)) :
    Quarantined (execFallbackWindow group rxTx s) := by
  simp [execFallbackWindow, mayFallBack_of_quarantine hq, hq]

theorem execFallbackTimeout_quarantine (group : Nat) : Quarantined (execFallbackTimeout group s) := by
  unfold execFallbackTimeout
  split
  · simp
  · simp only
    split <;> simp [mayFallBack_of_quarantine hq, hq]

theorem execLpiIdleEntry_quarantine (port : Nat) : Quarantined (execLpiIdleEntry port s) := by
  simp [execLpiIdleEntry, onPort, hq]

theorem execRemoteFaultCleared_quarantine (port : Nat) : Quarantined (execRemoteFaultCleared port s) := by
  simp [execRemoteFaultCleared, onPort, hq]

theorem execFrameTransmitted_quarantine (port : Nat) : Quarantined (execFrameTransmitted port s) := by
  simp [execFrameTransmitted, onPort, hq]

end

end Sys2Proof.Machine
end

section
/-! Module and ledger events (R80-R96). -/
namespace Sys2Proof.Machine
open Sys2Proof

section
variable {s : State} (hq : s.mode.mode = mdQuarantine)
include hq

theorem execModuleInserted_quarantine (module : Nat) (page0 : Bytes) : Quarantined (execModuleInserted module page0 s) := by
  simp [execModuleInserted, onModule, hq]

theorem execModuleRemoved_quarantine (module : Nat) : Quarantined (execModuleRemoved module s) := by
  simp [execModuleRemoved, onModule, hq]

theorem execModuleInterrupt_quarantine (module : Nat) (flags : List CmisFlag) :
    Quarantined (execModuleInterrupt module flags s) := by
  simp [execModuleInterrupt, onModule, hq]

theorem execModuleMonitorPoll_quarantine (module : Nat) (tempC : Int) (bias power : Nat) (flags : List CmisFlag) :
    Quarantined (execModuleMonitorPoll module tempC bias power flags s) := by
  simp [execModuleMonitorPoll, onModule, hq]

theorem execLedgerAccumulation_quarantine : Quarantined (execLedgerAccumulation s) := by
  simp [execLedgerAccumulation, hq]

theorem execLedgerHourlyWrite_quarantine : Quarantined (execLedgerHourlyWrite s) := by
  simp [execLedgerHourlyWrite, hq]

theorem execInterruptStuck_quarantine (module : Nat) : Quarantined (execInterruptStuck module s) := by
  unfold execInterruptStuck
  simp only [onModule]
  repeat' split
  all_goals simp [hq]

theorem execPresenceChatter_quarantine (input : PresenceChanges) : Quarantined (execPresenceChatter input s) := by
  simp [execPresenceChatter, onModule, hq]

theorem execMaskedInputPoll_quarantine (module : Nat) (flags : List CmisFlag) :
    Quarantined (execMaskedInputPoll module flags s) := by
  simp [execMaskedInputPoll, onModule, hq]

theorem execModuleAccessUnacknowledged_quarantine (module : Nat) : Quarantined (execModuleAccessUnacknowledged module s) := by
  simp [execModuleAccessUnacknowledged, onModule, hq]

theorem execBusDataLineLow_quarantine (bus : Nat) (recovered : Bool) : Quarantined (execBusDataLineLow bus recovered s) := by
  simp [execBusDataLineLow, hq]

end

end Sys2Proof.Machine
end

section
/-! Forwarding table events (05_forwarding_tables.md). -/
namespace Sys2Proof.Machine
open Sys2Proof

section
variable {s : State} (hq : s.mode.mode = mdQuarantine)
include hq

theorem execRetirementEpochEnd_quarantine : Quarantined (execRetirementEpochEnd s) := by
  have hfreed : ((s.tbl.retiring.filter fun r => r.freeAt ≤ s.tbl.epoch).foldl (fun a r => a.freeObject r) s).mode.mode =
      mdQuarantine := foldl_quarantine hq fun a r ha => by simp [ha]
  simp [execRetirementEpochEnd, hfreed, hq]

theorem execGrownTableRelease_quarantine (table : Nat) : Quarantined (execGrownTableRelease table s) := by
  simp [execGrownTableRelease, hq]

theorem execEcmpBlockRelease_quarantine (group : Nat) : Quarantined (execEcmpBlockRelease group s) := by
  simp [execEcmpBlockRelease, hq]

theorem execMarkerRebuildDone_quarantine (entry : Nat) : Quarantined (execMarkerRebuildDone entry s) := by
  unfold execMarkerRebuildDone
  split <;> simp [hq]

theorem execCounterUpdate_quarantine : Quarantined (execCounterUpdate s) := by
  unfold execCounterUpdate
  simp only
  repeat' split
  all_goals simp [hq]

end

end Sys2Proof.Machine
end

section
/-! Associative search events (06_associative_search.md). -/
namespace Sys2Proof.Machine
open Sys2Proof

section
variable {s : State} (hq : s.mode.mode = mdQuarantine)
include hq

theorem execTcamScrub_quarantine (bad : List (Nat × Nat)) : Quarantined (execTcamScrub bad s) := by
  have hscrubbed : (bad.foldl (fun a e => a.tileError e.1) s).mode.mode = mdQuarantine :=
    foldl_quarantine hq fun a e ha => State.tileError_quarantine ha e.1
  simp [execTcamScrub, hscrubbed, hq]

theorem execSpareTileFilled_quarantine (lt : Nat) : Quarantined (execSpareTileFilled lt s) := by
  unfold execSpareTileFilled
  simp only
  repeat' split
  all_goals simp [hq]

theorem execTcamDeleteComplete_quarantine (handle : Nat) : Quarantined (execTcamDeleteComplete handle s) := by
  unfold execTcamDeleteComplete
  simp only
  repeat' split
  all_goals simp [hq]

end

end Sys2Proof.Machine
end

section
/-! Buffer pool events (09_buffer_pools.md). -/
namespace Sys2Proof.Machine
open Sys2Proof

section
variable {s : State} (hq : s.mode.mode = mdQuarantine)
include hq

theorem execRetainExpiry_quarantine (handle : Nat) : Quarantined (execRetainExpiry handle s) := by
  unfold execRetainExpiry
  simp only
  repeat' split
  all_goals simp [hq]

end

end Sys2Proof.Machine
end

section
/-! Inject frames (R565-R571). -/
namespace Sys2Proof.Machine
open Sys2Proof

section
variable {s : State} (hq : s.mode.mode = mdQuarantine)
include hq

theorem execInjectFrameRead_quarantine (channel : Nat) (data : Bytes) : Quarantined (execInjectFrameRead channel data s) := by
  simp [execInjectFrameRead, dataPlaneOn_of_quarantine hq, hq]

end

end Sys2Proof.Machine
end

section
/-! Packet memory events (12_packet_memory.md). -/
namespace Sys2Proof.Machine
open Sys2Proof

section
variable {s : State} (hq : s.mode.mode = mdQuarantine)
include hq

theorem execHbmRequest_quarantine (pc port bank row : Nat) (write : Bool) :
    Quarantined (execHbmRequest pc port bank row write s) := by
  simp [execHbmRequest, hq]

theorem execRequestUrgencyRise_quarantine (req : Nat) : Quarantined (execRequestUrgencyRise req s) := by
  unfold execRequestUrgencyRise
  repeat' split
  all_goals simp [hq]

theorem execHbmRefreshDue_quarantine (pc bank : Nat) : Quarantined (execHbmRefreshDue pc bank s) := by
  simp [execHbmRefreshDue, hq]

theorem execSelfRefreshIdle_quarantine (stack : Nat) : Quarantined (execSelfRefreshIdle stack s) := by
  simp [execSelfRefreshIdle, hq]

theorem execSelfRefreshExit_quarantine (stack : Nat) : Quarantined (execSelfRefreshExit stack s) := by
  simp [execSelfRefreshExit, hq]

theorem execHbmParityError_quarantine (channel from_ : Nat) : Quarantined (execHbmParityError channel from_ s) := by
  simp [execHbmParityError, hq]

theorem execHbmReadError_quarantine (pc bank row : Nat) (correctable repairable : Bool) (use : HbmUse) :
    Quarantined (execHbmReadError pc bank row correctable repairable use s) := by
  unfold execHbmReadError
  simp only
  repeat' split
  all_goals simp [hq]

theorem execHbmTracking_quarantine (channel : Nat) (marginLost : Bool) : Quarantined (execHbmTracking channel marginLost s) := by
  simp [execHbmTracking, hq]

theorem execPlannedRetrainTrigger_quarantine (channel : Nat) : Quarantined (execPlannedRetrainTrigger channel s) := by
  simp [execPlannedRetrainTrigger, hq]

theorem execEvacuationComplete_quarantine (channel : Nat) : Quarantined (execEvacuationComplete channel s) := by
  unfold execEvacuationComplete
  split
  · simp
  · split
    · simp [hq]
    · split
      · simp [hq]
      · split
        · simp [hq]
        · rename_i t ht
          have hmoved : t.mode.mode = mdQuarantine := by rw [relocateAll_mode ht, hq]
          simp [State.evacuated_quarantine hmoved]

theorem execEvacuationTimeout_quarantine (channel : Nat) : Quarantined (execEvacuationTimeout channel s) := by
  unfold execEvacuationTimeout
  simp only
  repeat' split
  all_goals simp [hq]

theorem execEvacuationSlotRelease_quarantine (segment : Nat) : Quarantined (execEvacuationSlotRelease segment s) := by
  simp [execEvacuationSlotRelease, hq]

theorem execChannelTrainingEnd_quarantine (channel : Nat) (ok0 ok1 : Bool) :
    Quarantined (execChannelTrainingEnd channel ok0 ok1 s) := by
  simp [execChannelTrainingEnd, hq]

theorem execCounterScrub_quarantine (access : Nat) (correctable : Option Bool) (repairable : Bool) :
    Quarantined (execCounterScrub access correctable repairable s) := by
  unfold execCounterScrub
  simp only
  repeat' split
  all_goals simp [hq]

theorem execStackTemperatureReport_quarantine (stack tempC : Nat) : Quarantined (execStackTemperatureReport stack tempC s) := by
  simp [execStackTemperatureReport, hq]

theorem execReplayReissue_quarantine (channel : Nat) : Quarantined (execReplayReissue channel s) := by
  simp [execReplayReissue, hq]

theorem execRowRepairDone_quarantine (pc bank : Nat) : Quarantined (execRowRepairDone pc bank s) := by
  unfold execRowRepairDone
  simp only
  repeat' split
  all_goals simp [hq]

end

end Sys2Proof.Machine
end

section
/-! Mode, fault and repair events (17_modes_and_repair.md): the end of the reset delay is an exception of R666. -/
namespace Sys2Proof.Machine
open Sys2Proof

section
variable {s : State} (hq : s.mode.mode = mdQuarantine)
include hq

theorem execD2dFlitError_quarantine (at_ : FlitError) : Quarantined (execD2dFlitError at_ s) := by
  simp [execD2dFlitError, hq]

theorem execD2dLaneFault_quarantine (module : Nat) (toFe : Bool) (lane : Nat) : Quarantined (execD2dLaneFault module toFe lane s) := by
  unfold execD2dLaneFault
  extract_lets key used r mode b moved a
  have hb : b.mode.mode = mdQuarantine := State.record_quarantine (by exact hq) _
  have ha : a.mode.mode = mdQuarantine := by
    unfold a
    rw [foldl_mode fun t m => t.perfCount_mode ..]
    exact hb
  simp [State.quarantine_of_quarantine ha, mode, ha, hq]

theorem execDegradedConditionArises_quarantine (bit : Nat) : Quarantined (execDegradedConditionArises bit s) := by
  simp [execDegradedConditionArises, hq]

theorem execDegradedConditionClears_quarantine (bit : Nat) : Quarantined (execDegradedConditionClears bit s) := by
  simp [execDegradedConditionClears, hq]

theorem execDrainComplete_quarantine : Quarantined (execDrainComplete s) := by
  simp [execDrainComplete, hq]

theorem execTmDeputyClear_quarantine : Quarantined (execTmDeputyClear s) := by
  simp [execTmDeputyClear, hq]

theorem execTmCoreFailure_quarantine (core : Nat) : Quarantined (execTmCoreFailure core s) := by
  simp [execTmCoreFailure, hq]

theorem execSpareRowFilled_quarantine (macro_ : Nat) : Quarantined (execSpareRowFilled macro_ s) := by
  simp [execSpareRowFilled, hq]

theorem execRepairMapCommit_quarantine (failedSector : Option Nat) : Quarantined (execRepairMapCommit failedSector s) := by
  simp [execRepairMapCommit, hq]

theorem execRepairMapRetry_quarantine (failedSector : Option Nat) : Quarantined (execRepairMapRetry failedSector s) := by
  unfold execRepairMapRetry
  split
  · simp
  · split <;> simp [hq]

/-- DEVICE_RESET resets the device at the end of its delay (R666). -/
theorem execResetDelayExpiry_quarantine : QuarantinedOr mdBoot (execResetDelayExpiry s) := by
  unfold execResetDelayExpiry
  split <;> simp [hq]

theorem execFwHeartbeatTick_quarantine : Quarantined (execFwHeartbeatTick s) := by
  simp [execFwHeartbeatTick, hq]

theorem execFwHaltedTimeout_quarantine : Quarantined (execFwHaltedTimeout s) := by
  simp [execFwHaltedTimeout, hq]

end

end Sys2Proof.Machine
end

section
/-! Time base events (13_time.md). -/
namespace Sys2Proof.Machine
open Sys2Proof

section
variable {s : State} (hq : s.mode.mode = mdQuarantine)
include hq

theorem execTimedStepDue_quarantine : Quarantined (execTimedStepDue s) := by
  unfold execTimedStepDue
  simp only
  repeat' split
  all_goals simp [hq]

theorem execHoldoverTimeout_quarantine : Quarantined (execHoldoverTimeout s) := by
  simp [execHoldoverTimeout, hq]

theorem execPpsOutTarget_quarantine : Quarantined (execPpsOutTarget s) := by
  simp [execPpsOutTarget, hq]

theorem execPpsOutWidthEnd_quarantine : Quarantined (execPpsOutWidthEnd s) := by
  simp [execPpsOutWidthEnd, hq]

theorem execPpsInEdge_quarantine : Quarantined (execPpsInEdge s) := by
  simp [execPpsInEdge, hq]

theorem execPpsInLost_quarantine : Quarantined (execPpsInLost s) := by
  unfold execPpsInLost
  simp only
  repeat' split
  all_goals simp [hq]

end

end Sys2Proof.Machine
end

section
/-! Link security events (03_link_security.md). -/
namespace Sys2Proof.Machine
open Sys2Proof

section
variable {s : State} (hq : s.mode.mode = mdQuarantine)
include hq

theorem execSaSwitchDue_quarantine (port : Nat) : Quarantined (execSaSwitchDue port s) := by
  unfold execSaSwitchDue
  simp only [onPort]
  repeat' split
  all_goals simp [hq]

end

end Sys2Proof.Machine
end

section
/-! Counter and telemetry events (18_counters.md). -/
namespace Sys2Proof.Machine
open Sys2Proof

section
variable {s : State} (hq : s.mode.mode = mdQuarantine)
include hq

theorem execPerfControlDue_quarantine : Quarantined (execPerfControlDue s) := by
  unfold execPerfControlDue
  simp only
  repeat' split
  all_goals simp [hq]

theorem execPerfOverflow_quarantine (die counter : Nat) : Quarantined (execPerfOverflow die counter s) := by
  have hclear (k : Nat) : ((List.range (k + 1)).foldl (fun (a : State) i =>
      a.setPerf die (counter - i) { a.perf die (counter - i) with value := 0 }) s).mode = s.mode :=
    foldl_mode (fun a i => a.setPerf_mode ..) s _
  simp [execPerfOverflow, hclear, hq]

theorem execHistogramWindowEnd_quarantine (k : Nat) : Quarantined (execHistogramWindowEnd k s) := by
  simp [execHistogramWindowEnd, hq]

theorem execPsampleRecord_quarantine (kind unit insn address stall packetId : Nat) :
    Quarantined (execPsampleRecord kind unit insn address stall packetId s) := by
  simp [execPsampleRecord, hq]

theorem execTelemetryFlush_quarantine : Quarantined (execTelemetryFlush s) := by
  simp [execTelemetryFlush, hq]

end

end Sys2Proof.Machine
end

section
/-! Boot, firmware and restart events (16_firmware.md). -/
namespace Sys2Proof.Machine
open Sys2Proof

section
variable {s : State} (hq : s.mode.mode = mdQuarantine)
include hq

theorem execRomStart_quarantine (recoveryReq : Bool) : Quarantined (execRomStart recoveryReq s) := by
  simp [execRomStart, hq]

theorem execActivationPause_quarantine : Quarantined (execActivationPause s) := by
  have hstays : activable mdQuarantine = false := by decide
  unfold execActivationPause
  split <;> simp [hstays, hq]

theorem execImageResumesFetching_quarantine : Quarantined (execImageResumesFetching s) := by
  unfold execImageResumesFetching
  simp only
  repeat' split
  all_goals simp [hq]

theorem execActivationTimeout_quarantine : Quarantined (execActivationTimeout s) := by
  unfold execActivationTimeout
  split <;> simp [hq]

theorem execFlashUpdateComplete_quarantine (failedSector : Option Nat) : Quarantined (execFlashUpdateComplete failedSector s) := by
  unfold execFlashUpdateComplete
  simp only
  repeat' split
  all_goals simp [hq]

theorem execImageConfirm_quarantine : Quarantined (execImageConfirm s) := by
  unfold execImageConfirm
  split <;> simp [hq]

theorem execConfirmWindowEnd_quarantine : Quarantined (execConfirmWindowEnd s) := by
  simp [execConfirmWindowEnd, hq]

theorem execFeFirmwareFailure_quarantine (cause : FeCause) (cores : List Nat) :
    Quarantined (execFeFirmwareFailure cause cores s) := by
  simp [execFeFirmwareFailure, hq]

theorem execFeRestartTimeout_quarantine : Quarantined (execFeRestartTimeout s) := by
  unfold execFeRestartTimeout
  split <;> simp [hq]

end

end Sys2Proof.Machine
end

section
/-! SRAM errors (R677-R682). -/
namespace Sys2Proof.Machine
open Sys2Proof

section
variable {s : State} (hq : s.mode.mode = mdQuarantine)
include hq

theorem execSramError_quarantine (die macro_ row column : Nat) (correctable : Bool) (use : SramUse) :
    Quarantined (execSramError die macro_ row column correctable use s) := by
  unfold execSramError
  extract_lets a b
  have ha : a.mode.mode = mdQuarantine := by
    unfold a
    split <;> simp [hq]
  have hb : b.mode.mode = mdQuarantine := by simp [b, ha]
  simp [hb, hq]

end

end Sys2Proof.Machine
end

section
/-! Quarantine is left only for Boot or Standby (R666). -/
namespace Sys2Proof.Machine
open Sys2Proof

/-- A mailbox command, named by its opcode. -/
theorem command_quarantine {op : Nat} {f : CmdFn} (hop : opTable op = some f) (c : Cmd) {s : State}
    (hq : s.mode.mode = mdQuarantine) : Quarantined (serve c f s) :=
  serve_quarantine (opTable_quarantine hop) c hq

/-- Every command but the end of the reset delay, the reset input and the loss of main power. -/
theorem exec_quarantine {s : State} (hq : s.mode.mode = mdQuarantine) {i : Instr} (hdelay : i ≠ .resetDelayExpiry)
    (hinput : i ≠ .sysResetAssertion) (hpower : i ≠ .mainPowerLoss) : Quarantined (exec i s) := by
  cases i with
  | nop c => exact command_quarantine (op := 0x0001) rfl c hq
  | deviceInfoGet c => exact command_quarantine (op := 0x0002) rfl c hq
  | eventMaskSet c => exact command_quarantine (op := 0x0003) rfl c hq
  | eventMaskGet c => exact command_quarantine (op := 0x0004) rfl c hq
  | echo c => exact command_quarantine (op := 0x0005) rfl c hq
  | portGroupSetMode c => exact command_quarantine (op := 0x0101) rfl c hq
  | portConfig c => exact command_quarantine (op := 0x0102) rfl c hq
  | portAdmin c => exact command_quarantine (op := 0x0103) rfl c hq
  | portStatusGet c => exact command_quarantine (op := 0x0104) rfl c hq
  | portCountersGet c => exact command_quarantine (op := 0x0105) rfl c hq
  | moduleRead c => exact command_quarantine (op := 0x0106) rfl c hq
  | moduleWrite c => exact command_quarantine (op := 0x0107) rfl c hq
  | moduleIntUnmask c => exact command_quarantine (op := 0x0108) rfl c hq
  | ledgerRead c => exact command_quarantine (op := 0x0109) rfl c hq
  | ledgerSetRating c => exact command_quarantine (op := 0x010A) rfl c hq
  | portRateRestore c => exact command_quarantine (op := 0x010B) rfl c hq
  | moduleMapSet c => exact command_quarantine (op := 0x010C) rfl c hq
  | secyConfig c => exact command_quarantine (op := 0x0201) rfl c hq
  | scSet c => exact command_quarantine (op := 0x0202) rfl c hq
  | scClear c => exact command_quarantine (op := 0x0203) rfl c hq
  | saInstall c => exact command_quarantine (op := 0x0204) rfl c hq
  | saEnableRx c => exact command_quarantine (op := 0x0205) rfl c hq
  | saTxSwitch c => exact command_quarantine (op := 0x0206) rfl c hq
  | saDelete c => exact command_quarantine (op := 0x0207) rfl c hq
  | saStatusGet c => exact command_quarantine (op := 0x0208) rfl c hq
  | secyCountersGet c => exact command_quarantine (op := 0x0209) rfl c hq
  | parsePolicySet c => exact command_quarantine (op := 0x0301) rfl c hq
  | parsePolicyGet c => exact command_quarantine (op := 0x0302) rfl c hq
  | slowpathClassSet c => exact command_quarantine (op := 0x0303) rfl c hq
  | hashProfileSet c => exact command_quarantine (op := 0x0304) rfl c hq
  | lbMemberAdd c => exact command_quarantine (op := 0x0305) rfl c hq
  | lbMemberRemove c => exact command_quarantine (op := 0x0306) rfl c hq
  | lbSlotsSet c => exact command_quarantine (op := 0x0307) rfl c hq
  | lbSlotsGet c => exact command_quarantine (op := 0x0308) rfl c hq
  | parseCountersGet c => exact command_quarantine (op := 0x0309) rfl c hq
  | parseTest c => exact command_quarantine (op := 0x030A) rfl c hq
  | routeAdd c => exact command_quarantine (op := 0x0401) rfl c hq
  | routeDelete c => exact command_quarantine (op := 0x0402) rfl c hq
  | routeGet c => exact command_quarantine (op := 0x0403) rfl c hq
  | lengthReserve c => exact command_quarantine (op := 0x0404) rfl c hq
  | nexthopSet c => exact command_quarantine (op := 0x0405) rfl c hq
  | ecmpCreate c => exact command_quarantine (op := 0x0406) rfl c hq
  | labelSet c => exact command_quarantine (op := 0x0407) rfl c hq
  | emInsert c => exact command_quarantine (op := 0x0408) rfl c hq
  | emDelete c => exact command_quarantine (op := 0x0409) rfl c hq
  | emTableConfig c => exact command_quarantine (op := 0x040A) rfl c hq
  | interfaceSet c => exact command_quarantine (op := 0x040B) rfl c hq
  | routerMacSet c => exact command_quarantine (op := 0x040C) rfl c hq
  | objRetire c => exact command_quarantine (op := 0x040D) rfl c hq
  | objCountersGet c => exact command_quarantine (op := 0x040E) rfl c hq
  | tableRepairDone c => exact command_quarantine (op := 0x040F) rfl c hq
  | tableSplitSet c => exact command_quarantine (op := 0x0410) rfl c hq
  | lookupConfig c => exact command_quarantine (op := 0x0411) rfl c hq
  | tableStatusGet c => exact command_quarantine (op := 0x0412) rfl c hq
  | ecmpCountSet c => exact command_quarantine (op := 0x0413) rfl c hq
  | tcamChainConfig c => exact command_quarantine (op := 0x0501) rfl c hq
  | tcamChainExtend c => exact command_quarantine (op := 0x0502) rfl c hq
  | keyProfileSet c => exact command_quarantine (op := 0x0503) rfl c hq
  | searchProfileSet c => exact command_quarantine (op := 0x0504) rfl c hq
  | searchProfileMap c => exact command_quarantine (op := 0x0505) rfl c hq
  | tcamEntryInsert c => exact command_quarantine (op := 0x0506) rfl c hq
  | tcamEntryModify c => exact command_quarantine (op := 0x0507) rfl c hq
  | tcamEntryDelete c => exact command_quarantine (op := 0x0508) rfl c hq
  | tcamSearch c => exact command_quarantine (op := 0x0509) rfl c hq
  | tcamSearchContinue c => exact command_quarantine (op := 0x050A) rfl c hq
  | tcamCompact c => exact command_quarantine (op := 0x050B) rfl c hq
  | tcamEntryRead c => exact command_quarantine (op := 0x050C) rfl c hq
  | tcamStatusGet c => exact command_quarantine (op := 0x050D) rfl c hq
  | bufferPartitionSet c => exact command_quarantine (op := 0x0601) rfl c hq
  | admissionProfileSet c => exact command_quarantine (op := 0x0602) rfl c hq
  | wredProfileSet c => exact command_quarantine (op := 0x0603) rfl c hq
  | queueConfig c => exact command_quarantine (op := 0x0604) rfl c hq
  | queueFlush c => exact command_quarantine (op := 0x0605) rfl c hq
  | queueStatusGet c => exact command_quarantine (op := 0x0606) rfl c hq
  | bufferStatusGet c => exact command_quarantine (op := 0x0607) rfl c hq
  | bufferGlobalSet c => exact command_quarantine (op := 0x0608) rfl c hq
  | schedNodeSet c => exact command_quarantine (op := 0x0701) rfl c hq
  | schedNodeGet c => exact command_quarantine (op := 0x0702) rfl c hq
  | lengthProfileSet c => exact command_quarantine (op := 0x0703) rfl c hq
  | siteMapSet c => exact command_quarantine (op := 0x0704) rfl c hq
  | dispatchProfileSet c => exact command_quarantine (op := 0x0705) rfl c hq
  | qosMapSet c => exact command_quarantine (op := 0x0706) rfl c hq
  | qosPortSet c => exact command_quarantine (op := 0x0707) rfl c hq
  | policerProfileSet c => exact command_quarantine (op := 0x0708) rfl c hq
  | policerSet c => exact command_quarantine (op := 0x0709) rfl c hq
  | policerStatusGet c => exact command_quarantine (op := 0x070A) rfl c hq
  | sampleSetConfig c => exact command_quarantine (op := 0x070B) rfl c hq
  | schedCountersGet c => exact command_quarantine (op := 0x070C) rfl c hq
  | poolCarveSet c => exact command_quarantine (op := 0x0801) rfl c hq
  | channelPoolSet c => exact command_quarantine (op := 0x0802) rfl c hq
  | bufShare c => exact command_quarantine (op := 0x0803) rfl c hq
  | bufRelease c => exact command_quarantine (op := 0x0804) rfl c hq
  | bufInfo c => exact command_quarantine (op := 0x0805) rfl c hq
  | bufCellShareSet c => exact command_quarantine (op := 0x0806) rfl c hq
  | poolStatusGet c => exact command_quarantine (op := 0x0807) rfl c hq
  | fabricConfig c => exact command_quarantine (op := 0x0901) rfl c hq
  | fabricPeerSet c => exact command_quarantine (op := 0x0902) rfl c hq
  | protectClassSet c => exact command_quarantine (op := 0x0903) rfl c hq
  | creditProfileSet c => exact command_quarantine (op := 0x0904) rfl c hq
  | planeAdmin c => exact command_quarantine (op := 0x0905) rfl c hq
  | planeRestore c => exact command_quarantine (op := 0x0906) rfl c hq
  | fabricLaneAdmin c => exact command_quarantine (op := 0x0907) rfl c hq
  | fabricStatusGet c => exact command_quarantine (op := 0x0908) rfl c hq
  | fabricCountersGet c => exact command_quarantine (op := 0x0909) rfl c hq
  | editProgramSet c => exact command_quarantine (op := 0x0A01) rfl c hq
  | encapSet c => exact command_quarantine (op := 0x0A02) rfl c hq
  | mcastGroupSet c => exact command_quarantine (op := 0x0A03) rfl c hq
  | mcastGroupGet c => exact command_quarantine (op := 0x0A04) rfl c hq
  | editPortSet c => exact command_quarantine (op := 0x0A05) rfl c hq
  | mcastConfig c => exact command_quarantine (op := 0x0A06) rfl c hq
  | editTest c => exact command_quarantine (op := 0x0A07) rfl c hq
  | editCountersGet c => exact command_quarantine (op := 0x0A08) rfl c hq
  | hbmConfig c => exact command_quarantine (op := 0x0B01) rfl c hq
  | hbmStatusGet c => exact command_quarantine (op := 0x0B02) rfl c hq
  | hbmRetrain c => exact command_quarantine (op := 0x0B03) rfl c hq
  | hbmPcRetire c => exact command_quarantine (op := 0x0B04) rfl c hq
  | hbmPcRestore c => exact command_quarantine (op := 0x0B05) rfl c hq
  | hbmCountersGet c => exact command_quarantine (op := 0x0B06) rfl c hq
  | timeGet c => exact command_quarantine (op := 0x0C01) rfl c hq
  | timeIncrementSet c => exact command_quarantine (op := 0x0C02) rfl c hq
  | timeStep c => exact command_quarantine (op := 0x0C03) rfl c hq
  | timeSet c => exact command_quarantine (op := 0x0C04) rfl c hq
  | timeConfig c => exact command_quarantine (op := 0x0C05) rfl c hq
  | tsPortSet c => exact command_quarantine (op := 0x0C06) rfl c hq
  | ppsConfig c => exact command_quarantine (op := 0x0C07) rfl c hq
  | timeCountersGet c => exact command_quarantine (op := 0x0C08) rfl c hq
  | dmaChannelSet c => exact command_quarantine (op := 0x0D01) rfl c hq
  | dmaChannelEnable c => exact command_quarantine (op := 0x0D02) rfl c hq
  | dmaChannelStatusGet c => exact command_quarantine (op := 0x0D03) rfl c hq
  | msixModerationSet c => exact command_quarantine (op := 0x0D04) rfl c hq
  | hifCountersGet c => exact command_quarantine (op := 0x0D05) rfl c hq
  | hierarchyConfig c => exact command_quarantine (op := 0x0E01) rfl c hq
  | hierStatusGet c => exact command_quarantine (op := 0x0E02) rfl c hq
  | hierDeputySet c => exact command_quarantine (op := 0x0E03) rfl c hq
  | hierModeChange c => exact command_quarantine (op := 0x0E04) rfl c hq
  | hierDistribute c => exact command_quarantine (op := 0x0E05) rfl c hq
  | hierMemberRemove c => exact command_quarantine (op := 0x0E06) rfl c hq
  | hierCountersGet c => exact command_quarantine (op := 0x0E07) rfl c hq
  | hierClaim c => exact command_quarantine (op := 0x0E08) rfl c hq
  | fwDownload c => exact command_quarantine (op := 0x0F01) rfl c hq
  | fwVerify c => exact command_quarantine (op := 0x0F02) rfl c hq
  | fwActivate c => exact command_quarantine (op := 0x0F03) rfl c hq
  | fwConfirm c => exact command_quarantine (op := 0x0F04) rfl c hq
  | fwRevert c => exact command_quarantine (op := 0x0F05) rfl c hq
  | fwStatusGet c => exact command_quarantine (op := 0x0F06) rfl c hq
  | fwUpdateConfig c => exact command_quarantine (op := 0x0F07) rfl c hq
  | fwSvnCommit c => exact command_quarantine (op := 0x0F08) rfl c hq
  | attestKeyGet c => exact command_quarantine (op := 0x0F09) rfl c hq
  | attestQuote c => exact command_quarantine (op := 0x0F0A) rfl c hq
  | fwSnowdropPush c => exact command_quarantine (op := 0x0F0B) rfl c hq
  | modeSet c => exact command_quarantine (op := 0x1001) rfl c hq
  | modeStatusGet c => exact command_quarantine (op := 0x1002) rfl c hq
  | repairStatusGet c => exact command_quarantine (op := 0x1003) rfl c hq
  | repairMapRead c => exact command_quarantine (op := 0x1004) rfl c hq
  | deviceReset c => exact command_quarantine (op := 0x1005) rfl c hq
  | feRestart c => exact command_quarantine (op := 0x1006) rfl c hq
  | repairConfig c => exact command_quarantine (op := 0x1007) rfl c hq
  | perfCounterConfig c => exact command_quarantine (op := 0x1101) rfl c hq
  | perfControl c => exact command_quarantine (op := 0x1102) rfl c hq
  | perfCounterRead c => exact command_quarantine (op := 0x1103) rfl c hq
  | histogramConfig c => exact command_quarantine (op := 0x1104) rfl c hq
  | psampleConfig c => exact command_quarantine (op := 0x1105) rfl c hq
  | telemetryConfig c => exact command_quarantine (op := 0x1106) rfl c hq
  | telemetryCountersGet c => exact command_quarantine (op := 0x1107) rfl c hq
  | pkgStatusGet c => exact command_quarantine (op := 0x1201) rfl c hq
  | thermalConfig c => exact command_quarantine (op := 0x1202) rfl c hq
  | alarmInputConfig c => exact command_quarantine (op := 0x1203) rfl c hq
  | pkgInputUnmask c => exact command_quarantine (op := 0x1204) rfl c hq
  | auxStatusClear c => exact command_quarantine (op := 0x1205) rfl c hq
  | commandProducerIndex channel rsv index => exact execCommandProducerIndex_quarantine hq channel rsv index
  | eventConsumerIndex channel rsv index => exact execEventConsumerIndex_quarantine hq channel rsv index
  | channelProducerIndex channel rsv index descs => exact execChannelProducerIndex_quarantine hq channel rsv index descs
  | hifCmdRingBase w => exact execHifCmdRingBase_quarantine hq w
  | hifEvtRingBase w => exact execHifEvtRingBase_quarantine hq w
  | hifHealth v => exact execHifHealth_quarantine hq v
  | imageReady v => exact execImageReady_quarantine hq v
  | auxRegisterWrite reg v => exact execAuxRegisterWrite_quarantine hq reg v
  | registerWrite offset v wide => exact execRegisterWrite_quarantine hq offset v wide
  | commandFetch e => exact execCommandFetch_quarantine hq e
  | msixTimer vector => exact execMsixTimer_quarantine hq vector
  | relayTimeout relayId => exact execRelayTimeout_quarantine hq relayId
  | receiveFrame port f => exact execReceiveFrame_quarantine hq port f
  | parserSlot port => exact execParserSlot_quarantine hq port
  | lookupResult port parity => exact execLookupResult_quarantine hq port parity
  | headerCellAdmission port => exact execHeaderCellAdmission_quarantine hq port
  | frameTail port => exact execFrameTail_quarantine hq port
  | dispatchSelection => exact execDispatchSelection_quarantine hq
  | egressSelection port => exact execEgressSelection_quarantine hq port
  | segmentWritten => exact execSegmentWritten_quarantine hq
  | refillArrival queue => exact execRefillArrival_quarantine hq queue
  | ageExpiry queue => exact execAgeExpiry_quarantine hq queue
  | cellAudit => exact execCellAudit_quarantine hq
  | shaperPayoff node => exact execShaperPayoff_quarantine hq node
  | sampleWindowEnd set => exact execSampleWindowEnd_quarantine hq set
  | dataCell lane cell => exact execDataCell_quarantine hq lane cell
  | resequenceTimeout src plane lgroup => exact execResequenceTimeout_quarantine hq src plane lgroup
  | reassemblyTimeout src plane lgroup tc prot => exact execReassemblyTimeout_quarantine hq src plane lgroup tc prot
  | protectedCopyComplete src plane stream => exact execProtectedCopyComplete_quarantine hq src plane stream
  | reassemblyComplete => exact execReassemblyComplete_quarantine hq
  | windowIdleExpiry src stream => exact execWindowIdleExpiry_quarantine hq src stream
  | editPacket port => exact execEditPacket_quarantine hq port
  | transmitStart port => exact execTransmitStart_quarantine hq port
  | creditRequest rx => exact execCreditRequest_quarantine hq rx
  | creditRequestRefresh voq => exact execCreditRequestRefresh_quarantine hq voq
  | voqActiveTimeout src voq => exact execVoqActiveTimeout_quarantine hq src voq
  | creditIssue port => exact execCreditIssue_quarantine hq port
  | grantBatchTimeout src => exact execGrantBatchTimeout_quarantine hq src
  | creditGrant rx => exact execCreditGrant_quarantine hq rx
  | creditKeepExpiry voq => exact execCreditKeepExpiry_quarantine hq voq
  | fabricHeartbeatSend => exact execFabricHeartbeatSend_quarantine hq
  | heartbeatCell rx => exact execHeartbeatCell_quarantine hq rx
  | hearTimeout peer plane => exact execHearTimeout_quarantine hq peer plane
  | upHoldExpiry peer plane => exact execUpHoldExpiry_quarantine hq peer plane
  | resync rx => exact execResync_quarantine hq rx
  | resyncAck rx => exact execResyncAck_quarantine hq rx
  | resyncResend peer plane => exact execResyncResend_quarantine hq peer plane
  | controlCell rx => exact execControlCell_quarantine hq rx
  | controlMessageTimeout src msgId => exact execControlMessageTimeout_quarantine hq src msgId
  | fabricLaneFault lane lockLost => exact execFabricLaneFault_quarantine hq lane lockLost
  | fabricLaneTrainingEnd lane trained => exact execFabricLaneTrainingEnd_quarantine hq lane trained
  | fabricTrainingRetry lane => exact execFabricTrainingRetry_quarantine hq lane
  | linkConditionsMet port => exact execLinkConditionsMet_quarantine hq port
  | linkUpHoldExpiry port => exact execLinkUpHoldExpiry_quarantine hq port
  | linkConditionLost port fault lanesLost => exact execLinkConditionLost_quarantine hq port fault lanesLost
  | linkDownHoldExpiry port => exact execLinkDownHoldExpiry_quarantine hq port
  | remoteFault port => exact execRemoteFault_quarantine hq port
  | fecThreshold report => exact execFecThreshold_quarantine hq report
  | laneTrainingEnd lane trained => exact execLaneTrainingEnd_quarantine hq lane trained
  | trainingRetry port => exact execTrainingRetry_quarantine hq port
  | fallbackWindow group rxTx => exact execFallbackWindow_quarantine hq group rxTx
  | fallbackTimeout group => exact execFallbackTimeout_quarantine hq group
  | lpiIdleEntry port => exact execLpiIdleEntry_quarantine hq port
  | moduleInserted module page0 => exact execModuleInserted_quarantine hq module page0
  | moduleRemoved module => exact execModuleRemoved_quarantine hq module
  | moduleInterrupt module flags => exact execModuleInterrupt_quarantine hq module flags
  | moduleMonitorPoll module tempC bias power flags => exact execModuleMonitorPoll_quarantine hq module tempC bias power flags
  | ledgerAccumulation => exact execLedgerAccumulation_quarantine hq
  | ledgerHourlyWrite => exact execLedgerHourlyWrite_quarantine hq
  | interruptStuck module => exact execInterruptStuck_quarantine hq module
  | presenceChatter input => exact execPresenceChatter_quarantine hq input
  | maskedInputPoll module flags => exact execMaskedInputPoll_quarantine hq module flags
  | moduleAccessUnacknowledged module => exact execModuleAccessUnacknowledged_quarantine hq module
  | busDataLineLow bus recovered => exact execBusDataLineLow_quarantine hq bus recovered
  | timedBatchCommit => exact execTimedBatchCommit_quarantine hq
  | retirementEpochEnd => exact execRetirementEpochEnd_quarantine hq
  | grownTableRelease table => exact execGrownTableRelease_quarantine hq table
  | ecmpBlockRelease group => exact execEcmpBlockRelease_quarantine hq group
  | mcastBlockRelease group => exact execMcastBlockRelease_quarantine hq group
  | markerRebuildDone entry => exact execMarkerRebuildDone_quarantine hq entry
  | parserPipelineError pipeline held => exact execParserPipelineError_quarantine hq pipeline held
  | lookupPipelineError pipeline held => exact execLookupPipelineError_quarantine hq pipeline held
  | editEngineError engine held => exact execEditEngineError_quarantine hq engine held
  | tcamScrub bad => exact execTcamScrub_quarantine hq bad
  | spareTileFilled lt => exact execSpareTileFilled_quarantine hq lt
  | tcamDeleteComplete handle => exact execTcamDeleteComplete_quarantine hq handle
  | retainExpiry handle => exact execRetainExpiry_quarantine hq handle
  | puntDmaComplete channel => exact execPuntDmaComplete_quarantine hq channel
  | puntFrameAtHead channel => exact execPuntFrameAtHead_quarantine hq channel
  | puntHoldExpiry channel => exact execPuntHoldExpiry_quarantine hq channel
  | injectFrameRead channel data => exact execInjectFrameRead_quarantine hq channel data
  | injectHoldExpiry channel => exact execInjectHoldExpiry_quarantine hq channel
  | dmaError channel addr err => exact execDmaError_quarantine hq channel addr err
  | functionLevelReset => exact execFunctionLevelReset_quarantine hq
  | pcieLinkLoss => exact execPcieLinkLoss_quarantine hq
  | busMasterOff => exact execBusMasterOff_quarantine hq
  | counterUpdate => exact execCounterUpdate_quarantine hq
  | hbmRequest pc port bank row write => exact execHbmRequest_quarantine hq pc port bank row write
  | requestUrgencyRise req => exact execRequestUrgencyRise_quarantine hq req
  | hbmRefreshDue pc bank => exact execHbmRefreshDue_quarantine hq pc bank
  | selfRefreshIdle stack => exact execSelfRefreshIdle_quarantine hq stack
  | selfRefreshExit stack => exact execSelfRefreshExit_quarantine hq stack
  | hbmParityError channel from_ => exact execHbmParityError_quarantine hq channel from_
  | hbmReadError pc bank row correctable repairable use =>
    exact execHbmReadError_quarantine hq pc bank row correctable repairable use
  | hbmTracking channel marginLost => exact execHbmTracking_quarantine hq channel marginLost
  | plannedRetrainTrigger channel => exact execPlannedRetrainTrigger_quarantine hq channel
  | evacuationComplete channel => exact execEvacuationComplete_quarantine hq channel
  | evacuationTimeout channel => exact execEvacuationTimeout_quarantine hq channel
  | evacuationSlotRelease segment => exact execEvacuationSlotRelease_quarantine hq segment
  | channelTrainingEnd channel ok0 ok1 => exact execChannelTrainingEnd_quarantine hq channel ok0 ok1
  | counterScrub access correctable repairable => exact execCounterScrub_quarantine hq access correctable repairable
  | d2dFlitError at_ => exact execD2dFlitError_quarantine hq at_
  | d2dLaneFault module toFe lane => exact execD2dLaneFault_quarantine hq module toFe lane
  | timedStepDue => exact execTimedStepDue_quarantine hq
  | saSwitchDue port => exact execSaSwitchDue_quarantine hq port
  | perfControlDue => exact execPerfControlDue_quarantine hq
  | holdoverTimeout => exact execHoldoverTimeout_quarantine hq
  | ppsOutTarget => exact execPpsOutTarget_quarantine hq
  | ppsOutWidthEnd => exact execPpsOutWidthEnd_quarantine hq
  | ppsInEdge => exact execPpsInEdge_quarantine hq
  | ppsInLost => exact execPpsInLost_quarantine hq
  | timeSyncSend => exact execTimeSyncSend_quarantine hq
  | timeSync path h offset newInc step => exact execTimeSync_quarantine hq path h offset newInc step
  | timeSyncLoss => exact execTimeSyncLoss_quarantine hq
  | heartbeat path h t32 role mode flags deputy members =>
    exact execHeartbeat_quarantine hq path h t32 role mode flags deputy members
  | ack path h acked status => exact execAck_quarantine hq path h acked status
  | announce path h priority role => exact execAnnounce_quarantine hq path h priority role
  | joinRequest path h version priority ordering svn fwVersion mode =>
    exact execJoinRequest_quarantine hq path h version priority ordering svn fwVersion mode
  | joinAccept path h members deputy managerT32 => exact execJoinAccept_quarantine hq path h members deputy managerT32
  | joinReject path h reason => exact execJoinReject_quarantine hq path h reason
  | leave path h cause => exact execLeave_quarantine hq path h cause
  | memberUpdate path h members deputy => exact execMemberUpdate_quarantine hq path h members deputy
  | relayCommand path h relayId offset total entry data =>
    exact execRelayCommand_quarantine hq path h relayId offset total entry data
  | relayCompletion path h relayId offset total status resultLength applied failIndex detail result =>
    exact execRelayCompletion_quarantine hq path h relayId offset total status resultLength applied failIndex detail result
  | relayEvent path h code t32 data => exact execRelayEvent_quarantine hq path h code t32 data
  | prepare path h newEpoch mode t members => exact execPrepare_quarantine hq path h newEpoch mode t members
  | ready path h newEpoch => exact execReady_quarantine hq path h newEpoch
  | refuse path h newEpoch status => exact execRefuse_quarantine hq path h newEpoch status
  | commit path h newEpoch mode t => exact execCommit_quarantine hq path h newEpoch mode t
  | abort path h newEpoch => exact execAbort_quarantine hq path h newEpoch
  | modeQuery path h newEpoch => exact execModeQuery_quarantine hq path h newEpoch
  | takeover path h oldManager newDeputy => exact execTakeover_quarantine hq path h oldManager newDeputy
  | snowdropOffer path h dieIds cause => exact execSnowdropOffer_quarantine hq path h dieIds cause
  | snowdropChunk path h total offset data => exact execSnowdropChunk_quarantine hq path h total offset data
  | snowdropResult path h code nextOffset => exact execSnowdropResult_quarantine hq path h code nextOffset
  | snowdropOfferSend => exact execSnowdropOfferSend_quarantine hq
  | electionWindowEnd => exact execElectionWindowEnd_quarantine hq
  | announceSend => exact execAnnounceSend_quarantine hq
  | joinRequestRepeat => exact execJoinRequestRepeat_quarantine hq
  | coordHeartbeatSend => exact execCoordHeartbeatSend_quarantine hq
  | coordTimeout peer link => exact execCoordTimeout_quarantine hq peer link
  | messageResend msgSeq => exact execMessageResend_quarantine hq msgSeq
  | leaveHoldExpiry peer => exact execLeaveHoldExpiry_quarantine hq peer
  | takeoverHoldExpiry => exact execTakeoverHoldExpiry_quarantine hq
  | prepareReplyTimeout => exact execPrepareReplyTimeout_quarantine hq
  | modeCommitDue => exact execModeCommitDue_quarantine hq
  | commitUncertain => exact execCommitUncertain_quarantine hq
  | modeQuerySend => exact execModeQuerySend_quarantine hq
  | decisionResend => exact execDecisionResend_quarantine hq
  | modeChangeDeadline => exact execModeChangeDeadline_quarantine hq
  | rootPllLock => exact execRootPllLock_quarantine hq
  | pllLockRetry => exact execPllLockRetry_quarantine hq
  | rootPllLoss => exact execRootPllLoss_quarantine hq
  | romStart recoveryReq => exact execRomStart_quarantine hq recoveryReq
  | activationPause => exact execActivationPause_quarantine hq
  | imageResumesFetching => exact execImageResumesFetching_quarantine hq
  | activationTimeout => exact execActivationTimeout_quarantine hq
  | flashUpdateComplete failedSector => exact execFlashUpdateComplete_quarantine hq failedSector
  | imageConfirm => exact execImageConfirm_quarantine hq
  | confirmWindowEnd => exact execConfirmWindowEnd_quarantine hq
  | degradedConditionArises bit => exact execDegradedConditionArises_quarantine hq bit
  | degradedConditionClears bit => exact execDegradedConditionClears_quarantine hq bit
  | drainComplete => exact execDrainComplete_quarantine hq
  | feFirmwareFailure cause cores => exact execFeFirmwareFailure_quarantine hq cause cores
  | feRestartTimeout => exact execFeRestartTimeout_quarantine hq
  | tmDeputyClear => exact execTmDeputyClear_quarantine hq
  | tmCoreFailure core => exact execTmCoreFailure_quarantine hq core
  | sramError die macro_ row column correctable use => exact execSramError_quarantine hq die macro_ row column correctable use
  | spareRowFilled macro_ => exact execSpareRowFilled_quarantine hq macro_
  | repairMapCommit failedSector => exact execRepairMapCommit_quarantine hq failedSector
  | repairMapRetry failedSector => exact execRepairMapRetry_quarantine hq failedSector
  | perfOverflow die counter => exact execPerfOverflow_quarantine hq die counter
  | histogramWindowEnd h => exact execHistogramWindowEnd_quarantine hq h
  | psampleRecord kind unit insn address stall packetId =>
    exact execPsampleRecord_quarantine hq kind unit insn address stall packetId
  | telemetryFlush => exact execTelemetryFlush_quarantine hq
  | mainPowerLoss => exact absurd rfl hpower
  | railFault rail => exact execRailFault_quarantine hq rail
  | mainRailsGood => exact execMainRailsGood_quarantine hq
  | vauxChange millivolt => exact execVauxChange_quarantine hq millivolt
  | thermalAlarm sensor tempC => exact execThermalAlarm_quarantine hq sensor tempC
  | thermalTrip sensor tempC => exact execThermalTrip_quarantine hq sensor tempC
  | temperatureLow sensor tempC => exact execTemperatureLow_quarantine hq sensor tempC
  | sysResetAssertion => exact absurd rfl hinput
  | sysResetRelease => exact execSysResetRelease_quarantine hq
  | resetDelayExpiry => exact absurd rfl hdelay
  | resetStuck => exact execResetStuck_quarantine hq
  | perstAssertion => exact execPerstAssertion_quarantine hq
  | perstUnmaskTimeout => exact execPerstUnmaskTimeout_quarantine hq
  | recoveryStuck => exact execRecoveryStuck_quarantine hq
  | alarmInputChange input level => exact execAlarmInputChange_quarantine hq input level
  | auxHeartbeat => exact execAuxHeartbeat_quarantine hq
  | laneLockDeclared lane => exact execLaneLockDeclared_quarantine hq lane
  | laneLockLost lane => exact execLaneLockLost_quarantine hq lane
  | remoteFaultCleared port => exact execRemoteFaultCleared_quarantine hq port
  | frameTransmitted port => exact execFrameTransmitted_quarantine hq port
  | stackTemperatureReport stack tempC => exact execStackTemperatureReport_quarantine hq stack tempC
  | replayReissue channel => exact execReplayReissue_quarantine hq channel
  | rowRepairDone pc bank => exact execRowRepairDone_quarantine hq pc bank
  | railsBackInWindow => exact execRailsBackInWindow_quarantine hq
  | fwHeartbeatTick => exact execFwHeartbeatTick_quarantine hq
  | fwHaltedTimeout => exact execFwHaltedTimeout_quarantine hq
  | pcieLinkUp => exact execPcieLinkUp_quarantine hq
  | coordLinkDown link => exact execCoordLinkDown_quarantine hq link
  | coordLinkUp link => exact execCoordLinkUp_quarantine hq link

/-- Settles O6: every command of a device in Quarantine keeps the mode, except the two that reset the dies and the one that
takes them out of power. -/
theorem quarantineIsLeftOnlyForBootOrStandby : Obligations.QuarantineIsLeftOnlyForBootOrStandby := by
  intro i s t hq hnext
  by_cases hdelay : i = .resetDelayExpiry
  · subst hdelay
    exact (execResetDelayExpiry_quarantine hq t hnext).imp id fun hboot => .inl ⟨hboot, .inl rfl⟩
  · by_cases hinput : i = .sysResetAssertion
    · subst hinput
      exact (execSysResetAssertion_quarantine hq t hnext).imp id fun hboot => .inl ⟨hboot, .inr rfl⟩
    · by_cases hpower : i = .mainPowerLoss
      · subst hpower
        exact (execMainPowerLoss_quarantine hq t hnext).imp id fun hstandby => .inr ⟨hstandby, rfl⟩
      · exact .inl (exec_quarantine hq hdelay hinput hpower t hnext)

end Sys2Proof.Machine
end

section
/-! The bins of a histogram and the values it counts (18_counters.md, R704, R705). -/
namespace Sys2Proof.Machine
open Sys2Proof

theorem histBin_of_lt {shift v : Nat} (h : v / 2 ^ shift < 2) : histBin shift v = 0 := if_pos h

/-- The cap at the last bin, 31, does nothing to a shifted value of 32 bits. -/
theorem histBin_of_le {shift v : Nat} (hlow : 2 ≤ v / 2 ^ shift) (hhigh : v / 2 ^ shift < 2 ^ 32) :
    histBin shift v = Nat.log2 (v / 2 ^ shift) := by
  have hlog : Nat.log2 (v / 2 ^ shift) < 32 := (Nat.log2_lt (by omega)).mpr hhigh
  rw [histBin, if_neg (Nat.not_lt.mpr hlow), Nat.min_eq_right (Nat.le_of_lt_succ hlog)]

/-- A shifted value lies in [2^b, 2^c) exactly when the value itself lies in [2^(b+shift), 2^(c+shift)). -/
theorem shifted_mem_iff (shift v b c : Nat) :
    2 ^ b ≤ v / 2 ^ shift ∧ v / 2 ^ shift < 2 ^ c ↔ 2 ^ (b + shift) ≤ v ∧ v < 2 ^ (c + shift) := by
  have hpos : 0 < 2 ^ shift := Nat.two_pow_pos shift
  rw [Nat.le_div_iff_mul_le hpos, Nat.div_lt_iff_lt_mul hpos, Nat.pow_add, Nat.pow_add]

theorem histBin_eq_iff {shift v b : Nat} (hhigh : v / 2 ^ shift < 2 ^ 32) (hb : 1 ≤ b) :
    histBin shift v = b ↔ 2 ^ (b + shift) ≤ v ∧ v < 2 ^ (b + 1 + shift) := by
  rw [← shifted_mem_iff]
  rcases Nat.lt_or_ge (v / 2 ^ shift) 2 with hlow | hlow
  · have hpow : 2 ^ 1 ≤ 2 ^ b := Nat.pow_le_pow_right (by decide) hb
    rw [histBin_of_lt hlow]
    omega
  · rw [histBin_of_le hlow hhigh, Nat.log2_eq_iff (by omega)]

theorem Tbl.get?_map_of_key {α : Type} {t : Tbl α} {f : Nat × α → Nat × α} (hkey : ∀ e, (f e).1 = e.1) {k : Nat} {x : α}
    (h : t.get? k = some x) : Tbl.get? (t.map f) k = some (f (k, x)).2 := by
  induction t with
  | nil => cases h
  | cons e r ih =>
    obtain ⟨i, y⟩ := e
    have hi : f (i, y) = (i, (f (i, y)).2) := Prod.ext (hkey _) rfl
    rw [List.map_cons, hi]
    unfold Tbl.get? at h ⊢
    split at h
    · next heq =>
      cases h
      rw [if_pos heq, heq]
    · next hne => rw [if_neg hne, ih h]

namespace HistBank

variable {b : HistBank} {shift v : Nat}

theorem add_of_room (h : b.bins.getD (histBin shift v) 0 < 4294967295) :
    (b.add shift v).bins = b.bins.set (histBin shift v) (b.bins.getD (histBin shift v) 0 + 1) ∧
      (b.add shift v).saturated = b.saturated := by
  simp [add, Nat.ne_of_lt h]

theorem add_of_full (h : b.bins.getD (histBin shift v) 0 = 4294967295) :
    (b.add shift v).bins = b.bins ∧ (b.add shift v).saturated = true := by
  simp [add, h]

end HistBank

/-- R705: a value stamped within the open window enters its bank. -/
theorem Hist.put_of_open {h : Hist} {stamp : T32} (v : Nat) (hbegun : h.begun = true) (hstart : stamp.reached h.start = true)
    (hend : stamp.reached (h.start + BitVec.ofNat 32 (h.intervalMs * 1000000)) = false) :
    h.put stamp v = { h with
      bins := (h.open_.add h.shift v).bins, max := (h.open_.add h.shift v).max
      total := (h.open_.add h.shift v).total, saturated := (h.open_.add h.shift v).saturated } := by
  simp [Hist.put, hbegun, hstart, hend]

theorem State.histAt_of_observed {s : State} {source inst k : Nat} {h : Hist} (v : Nat) (stamp : T32)
    (hget : s.tel.hists.get? k = some h) (henable : h.enable = true) (hsource : h.source = source)
    (hfirst : h.first ≤ inst) (hlast : inst < h.first + h.count) :
    (s.histAt source inst v stamp).tel.hists.get? k = some (h.put stamp v) := by
  dsimp only [State.histAt]
  rw [Tbl.get?_map_of_key (fun e => by split <;> rfl) hget]
  simp [henable, hsource, hfirst, hlast]

/-- Settles O15: the bins are the powers of two of the shifted value, and a value stamped in the open window of a histogram
that observes it enters the bank of that window. -/
theorem histogramBins : Obligations.HistogramBins := by
  refine ⟨fun _ _ => histBin_of_lt, fun _ _ => histBin_of_le, fun _ _ _ => histBin_eq_iff, ?_⟩
  intro s source inst v k h hget henable hsource hfirst hlast hbegun hstart hend
  have hput : (s.histAdd source inst v).tel.hists.get? k = some (h.put s.t32 v) :=
    State.histAt_of_observed v s.t32 hget henable hsource hfirst hlast
  rw [Hist.put_of_open v hbegun hstart hend] at hput
  exact ⟨_, hput, HistBank.add_of_room (b := h.open_), HistBank.add_of_full (b := h.open_), rfl, rfl⟩

end Sys2Proof.Machine
end

section
/-! What every step keeps, where commands and events complete, and what they leave unchanged. The option below has no
section variable to act on that a statement does not name; with it the proofs are elaborated in order and not side by side,
which takes more memory than a check of this text has. -/
set_option deprecated.oldSectionVars true

section
/-! Every command and every tick leave the queue and keep the invariant. -/
namespace Sys2Proof.Machine
open Sys2Proof

/-- A command keeps what its row of the dispatch keeps (Laws/Kept.lean). -/
theorem exec_kept {aim : Aim} {s : State} (i : Instr) (h0 : Kept aim s) : KeptOut aim (exec i s) :=
  match i with
  | .nop _ => execNop_kept h0
  | .deviceInfoGet _ => execDeviceInfoGet_kept h0
  | .eventMaskSet _ => execEventMaskSet_kept h0
  | .eventMaskGet _ => execEventMaskGet_kept h0
  | .echo _ => execEcho_kept h0
  | .portGroupSetMode _ => execPortGroupSetMode_kept h0
  | .portConfig _ => execPortConfig_kept h0
  | .portAdmin _ => execPortAdmin_kept h0
  | .portStatusGet _ => execPortStatusGet_kept h0
  | .portCountersGet _ => execPortCountersGet_kept h0
  | .moduleRead _ => execModuleRead_kept h0
  | .moduleWrite _ => execModuleWrite_kept h0
  | .moduleIntUnmask _ => execModuleIntUnmask_kept h0
  | .ledgerRead _ => execLedgerRead_kept h0
  | .ledgerSetRating _ => execLedgerSetRating_kept h0
  | .portRateRestore _ => execPortRateRestore_kept h0
  | .moduleMapSet _ => execModuleMapSet_kept h0
  | .secyConfig _ => execSecyConfig_kept h0
  | .scSet _ => execScSet_kept h0
  | .scClear _ => execScClear_kept h0
  | .saInstall _ => execSaInstall_kept h0
  | .saEnableRx _ => execSaEnableRx_kept h0
  | .saTxSwitch _ => execSaTxSwitch_kept h0
  | .saDelete _ => execSaDelete_kept h0
  | .saStatusGet _ => execSaStatusGet_kept h0
  | .secyCountersGet _ => execSecyCountersGet_kept h0
  | .parsePolicySet _ => execParsePolicySet_kept h0
  | .parsePolicyGet _ => execParsePolicyGet_kept h0
  | .slowpathClassSet _ => execSlowpathClassSet_kept h0
  | .hashProfileSet _ => execHashProfileSet_kept h0
  | .lbMemberAdd _ => execLbMemberAdd_kept h0
  | .lbMemberRemove _ => execLbMemberRemove_kept h0
  | .lbSlotsSet _ => execLbSlotsSet_kept h0
  | .lbSlotsGet _ => execLbSlotsGet_kept h0
  | .parseCountersGet _ => execParseCountersGet_kept h0
  | .parseTest _ => execParseTest_kept h0
  | .routeAdd _ => execRouteAdd_kept h0
  | .routeDelete _ => execRouteDelete_kept h0
  | .routeGet _ => execRouteGet_kept h0
  | .lengthReserve _ => execLengthReserve_kept h0
  | .nexthopSet _ => execNexthopSet_kept h0
  | .ecmpCreate _ => execEcmpCreate_kept h0
  | .labelSet _ => execLabelSet_kept h0
  | .emInsert _ => execEmInsert_kept h0
  | .emDelete _ => execEmDelete_kept h0
  | .emTableConfig _ => execEmTableConfig_kept h0
  | .interfaceSet _ => execInterfaceSet_kept h0
  | .routerMacSet _ => execRouterMacSet_kept h0
  | .objRetire _ => execObjRetire_kept h0
  | .objCountersGet _ => execObjCountersGet_kept h0
  | .tableRepairDone _ => execTableRepairDone_kept h0
  | .tableSplitSet _ => execTableSplitSet_kept h0
  | .lookupConfig _ => execLookupConfig_kept h0
  | .tableStatusGet _ => execTableStatusGet_kept h0
  | .ecmpCountSet _ => execEcmpCountSet_kept h0
  | .tcamChainConfig _ => execTcamChainConfig_kept h0
  | .tcamChainExtend _ => execTcamChainExtend_kept h0
  | .keyProfileSet _ => execKeyProfileSet_kept h0
  | .searchProfileSet _ => execSearchProfileSet_kept h0
  | .searchProfileMap _ => execSearchProfileMap_kept h0
  | .tcamEntryInsert _ => execTcamEntryInsert_kept h0
  | .tcamEntryModify _ => execTcamEntryModify_kept h0
  | .tcamEntryDelete _ => execTcamEntryDelete_kept h0
  | .tcamSearch _ => execTcamSearch_kept h0
  | .tcamSearchContinue _ => execTcamSearchContinue_kept h0
  | .tcamCompact _ => execTcamCompact_kept h0
  | .tcamEntryRead _ => execTcamEntryRead_kept h0
  | .tcamStatusGet _ => execTcamStatusGet_kept h0
  | .bufferPartitionSet _ => execBufferPartitionSet_kept h0
  | .admissionProfileSet _ => execAdmissionProfileSet_kept h0
  | .wredProfileSet _ => execWredProfileSet_kept h0
  | .queueConfig _ => execQueueConfig_kept h0
  | .queueFlush _ => execQueueFlush_kept h0
  | .queueStatusGet _ => execQueueStatusGet_kept h0
  | .bufferStatusGet _ => execBufferStatusGet_kept h0
  | .bufferGlobalSet _ => execBufferGlobalSet_kept h0
  | .schedNodeSet _ => execSchedNodeSet_kept h0
  | .schedNodeGet _ => execSchedNodeGet_kept h0
  | .lengthProfileSet _ => execLengthProfileSet_kept h0
  | .siteMapSet _ => execSiteMapSet_kept h0
  | .dispatchProfileSet _ => execDispatchProfileSet_kept h0
  | .qosMapSet _ => execQosMapSet_kept h0
  | .qosPortSet _ => execQosPortSet_kept h0
  | .policerProfileSet _ => execPolicerProfileSet_kept h0
  | .policerSet _ => execPolicerSet_kept h0
  | .policerStatusGet _ => execPolicerStatusGet_kept h0
  | .sampleSetConfig _ => execSampleSetConfig_kept h0
  | .schedCountersGet _ => execSchedCountersGet_kept h0
  | .poolCarveSet _ => execPoolCarveSet_kept h0
  | .channelPoolSet _ => execChannelPoolSet_kept h0
  | .bufShare _ => execBufShare_kept h0
  | .bufRelease _ => execBufRelease_kept h0
  | .bufInfo _ => execBufInfo_kept h0
  | .bufCellShareSet _ => execBufCellShareSet_kept h0
  | .poolStatusGet _ => execPoolStatusGet_kept h0
  | .fabricConfig _ => execFabricConfig_kept h0
  | .fabricPeerSet _ => execFabricPeerSet_kept h0
  | .protectClassSet _ => execProtectClassSet_kept h0
  | .creditProfileSet _ => execCreditProfileSet_kept h0
  | .planeAdmin _ => execPlaneAdmin_kept h0
  | .planeRestore _ => execPlaneRestore_kept h0
  | .fabricLaneAdmin _ => execFabricLaneAdmin_kept h0
  | .fabricStatusGet _ => execFabricStatusGet_kept h0
  | .fabricCountersGet _ => execFabricCountersGet_kept h0
  | .editProgramSet _ => execEditProgramSet_kept h0
  | .encapSet _ => execEncapSet_kept h0
  | .mcastGroupSet _ => execMcastGroupSet_kept h0
  | .mcastGroupGet _ => execMcastGroupGet_kept h0
  | .editPortSet _ => execEditPortSet_kept h0
  | .mcastConfig _ => execMcastConfig_kept h0
  | .editTest _ => execEditTest_kept h0
  | .editCountersGet _ => execEditCountersGet_kept h0
  | .hbmConfig _ => execHbmConfig_kept h0
  | .hbmStatusGet _ => execHbmStatusGet_kept h0
  | .hbmRetrain _ => execHbmRetrain_kept h0
  | .hbmPcRetire _ => execHbmPcRetire_kept h0
  | .hbmPcRestore _ => execHbmPcRestore_kept h0
  | .hbmCountersGet _ => execHbmCountersGet_kept h0
  | .timeGet _ => execTimeGet_kept h0
  | .timeIncrementSet _ => execTimeIncrementSet_kept h0
  | .timeStep _ => execTimeStep_kept h0
  | .timeSet _ => execTimeSet_kept h0
  | .timeConfig _ => execTimeConfig_kept h0
  | .tsPortSet _ => execTsPortSet_kept h0
  | .ppsConfig _ => execPpsConfig_kept h0
  | .timeCountersGet _ => execTimeCountersGet_kept h0
  | .dmaChannelSet _ => execDmaChannelSet_kept h0
  | .dmaChannelEnable _ => execDmaChannelEnable_kept h0
  | .dmaChannelStatusGet _ => execDmaChannelStatusGet_kept h0
  | .msixModerationSet _ => execMsixModerationSet_kept h0
  | .hifCountersGet _ => execHifCountersGet_kept h0
  | .hierarchyConfig _ => execHierarchyConfig_kept h0
  | .hierStatusGet _ => execHierStatusGet_kept h0
  | .hierDeputySet _ => execHierDeputySet_kept h0
  | .hierModeChange _ => execHierModeChange_kept h0
  | .hierDistribute _ => execHierDistribute_kept h0
  | .hierMemberRemove _ => execHierMemberRemove_kept h0
  | .hierCountersGet _ => execHierCountersGet_kept h0
  | .hierClaim _ => execHierClaim_kept h0
  | .fwDownload _ => execFwDownload_kept h0
  | .fwVerify _ => execFwVerify_kept h0
  | .fwActivate _ => execFwActivate_kept h0
  | .fwConfirm _ => execFwConfirm_kept h0
  | .fwRevert _ => execFwRevert_kept h0
  | .fwStatusGet _ => execFwStatusGet_kept h0
  | .fwUpdateConfig _ => execFwUpdateConfig_kept h0
  | .fwSvnCommit _ => execFwSvnCommit_kept h0
  | .attestKeyGet _ => execAttestKeyGet_kept h0
  | .attestQuote _ => execAttestQuote_kept h0
  | .fwSnowdropPush _ => execFwSnowdropPush_kept h0
  | .modeSet _ => execModeSet_kept h0
  | .modeStatusGet _ => execModeStatusGet_kept h0
  | .repairStatusGet _ => execRepairStatusGet_kept h0
  | .repairMapRead _ => execRepairMapRead_kept h0
  | .deviceReset _ => execDeviceReset_kept h0
  | .feRestart _ => execFeRestart_kept h0
  | .repairConfig _ => execRepairConfig_kept h0
  | .perfCounterConfig _ => execPerfCounterConfig_kept h0
  | .perfControl _ => execPerfControl_kept h0
  | .perfCounterRead _ => execPerfCounterRead_kept h0
  | .histogramConfig _ => execHistogramConfig_kept h0
  | .psampleConfig _ => execPsampleConfig_kept h0
  | .telemetryConfig _ => execTelemetryConfig_kept h0
  | .telemetryCountersGet _ => execTelemetryCountersGet_kept h0
  | .pkgStatusGet _ => execPkgStatusGet_kept h0
  | .thermalConfig _ => execThermalConfig_kept h0
  | .alarmInputConfig _ => execAlarmInputConfig_kept h0
  | .pkgInputUnmask _ => execPkgInputUnmask_kept h0
  | .auxStatusClear _ => execAuxStatusClear_kept h0
  | .commandProducerIndex _ _ _ => execCommandProducerIndex_kept h0
  | .eventConsumerIndex _ _ _ => execEventConsumerIndex_kept h0
  | .channelProducerIndex _ _ _ _ => execChannelProducerIndex_kept h0
  | .hifCmdRingBase _ => execHifCmdRingBase_kept h0
  | .hifEvtRingBase _ => execHifEvtRingBase_kept h0
  | .hifHealth _ => execHifHealth_kept h0
  | .imageReady _ => execImageReady_kept h0
  | .auxRegisterWrite _ _ => execAuxRegisterWrite_kept h0
  | .registerWrite _ _ _ => execRegisterWrite_kept h0
  | .commandFetch _ => execCommandFetch_kept h0
  | .msixTimer _ => execMsixTimer_kept h0
  | .relayTimeout _ => execRelayTimeout_kept h0
  | .receiveFrame _ _ => execReceiveFrame_kept h0
  | .parserSlot _ => execParserSlot_kept h0
  | .lookupResult _ _ => execLookupResult_kept h0
  | .headerCellAdmission _ => execHeaderCellAdmission_kept h0
  | .frameTail _ => execFrameTail_kept h0
  | .dispatchSelection => execDispatchSelection_kept h0
  | .egressSelection _ => execEgressSelection_kept h0
  | .segmentWritten => execSegmentWritten_kept h0
  | .refillArrival _ => execRefillArrival_kept h0
  | .ageExpiry _ => execAgeExpiry_kept h0
  | .cellAudit => execCellAudit_kept h0
  | .shaperPayoff _ => execShaperPayoff_kept h0
  | .sampleWindowEnd _ => execSampleWindowEnd_kept h0
  | .dataCell _ _ => execDataCell_kept h0
  | .resequenceTimeout _ _ _ => execResequenceTimeout_kept h0
  | .reassemblyTimeout _ _ _ _ _ => execReassemblyTimeout_kept h0
  | .protectedCopyComplete _ _ _ => execProtectedCopyComplete_kept h0
  | .reassemblyComplete => execReassemblyComplete_kept h0
  | .windowIdleExpiry _ _ => execWindowIdleExpiry_kept h0
  | .editPacket _ => execEditPacket_kept h0
  | .transmitStart _ => execTransmitStart_kept h0
  | .creditRequest _ => execCreditRequest_kept h0
  | .creditRequestRefresh _ => execCreditRequestRefresh_kept h0
  | .voqActiveTimeout _ _ => execVoqActiveTimeout_kept h0
  | .creditIssue _ => execCreditIssue_kept h0
  | .grantBatchTimeout _ => execGrantBatchTimeout_kept h0
  | .creditGrant _ => execCreditGrant_kept h0
  | .creditKeepExpiry _ => execCreditKeepExpiry_kept h0
  | .fabricHeartbeatSend => execFabricHeartbeatSend_kept h0
  | .heartbeatCell _ => execHeartbeatCell_kept h0
  | .hearTimeout _ _ => execHearTimeout_kept h0
  | .upHoldExpiry _ _ => execUpHoldExpiry_kept h0
  | .resync _ => execResync_kept h0
  | .resyncAck _ => execResyncAck_kept h0
  | .resyncResend _ _ => execResyncResend_kept h0
  | .controlCell _ => execControlCell_kept h0
  | .controlMessageTimeout _ _ => execControlMessageTimeout_kept h0
  | .fabricLaneFault _ _ => execFabricLaneFault_kept h0
  | .fabricLaneTrainingEnd _ _ => execFabricLaneTrainingEnd_kept h0
  | .fabricTrainingRetry _ => execFabricTrainingRetry_kept h0
  | .linkConditionsMet _ => execLinkConditionsMet_kept h0
  | .linkUpHoldExpiry _ => execLinkUpHoldExpiry_kept h0
  | .linkConditionLost _ _ _ => execLinkConditionLost_kept h0
  | .linkDownHoldExpiry _ => execLinkDownHoldExpiry_kept h0
  | .remoteFault _ => execRemoteFault_kept h0
  | .fecThreshold _ => execFecThreshold_kept h0
  | .laneTrainingEnd _ _ => execLaneTrainingEnd_kept h0
  | .trainingRetry _ => execTrainingRetry_kept h0
  | .fallbackWindow _ _ => execFallbackWindow_kept h0
  | .fallbackTimeout _ => execFallbackTimeout_kept h0
  | .lpiIdleEntry _ => execLpiIdleEntry_kept h0
  | .moduleInserted _ _ => execModuleInserted_kept h0
  | .moduleRemoved _ => execModuleRemoved_kept h0
  | .moduleInterrupt _ _ => execModuleInterrupt_kept h0
  | .moduleMonitorPoll _ _ _ _ _ => execModuleMonitorPoll_kept h0
  | .ledgerAccumulation => execLedgerAccumulation_kept h0
  | .ledgerHourlyWrite => execLedgerHourlyWrite_kept h0
  | .interruptStuck _ => execInterruptStuck_kept h0
  | .presenceChatter _ => execPresenceChatter_kept h0
  | .maskedInputPoll _ _ => execMaskedInputPoll_kept h0
  | .moduleAccessUnacknowledged _ => execModuleAccessUnacknowledged_kept h0
  | .busDataLineLow _ _ => execBusDataLineLow_kept h0
  | .timedBatchCommit => execTimedBatchCommit_kept h0
  | .retirementEpochEnd => execRetirementEpochEnd_kept h0
  | .grownTableRelease _ => execGrownTableRelease_kept h0
  | .ecmpBlockRelease _ => execEcmpBlockRelease_kept h0
  | .mcastBlockRelease _ => execMcastBlockRelease_kept h0
  | .markerRebuildDone _ => execMarkerRebuildDone_kept h0
  | .parserPipelineError _ _ => execParserPipelineError_kept h0
  | .lookupPipelineError _ _ => execLookupPipelineError_kept h0
  | .editEngineError _ _ => execEditEngineError_kept h0
  | .tcamScrub _ => execTcamScrub_kept h0
  | .spareTileFilled _ => execSpareTileFilled_kept h0
  | .tcamDeleteComplete _ => execTcamDeleteComplete_kept h0
  | .retainExpiry _ => execRetainExpiry_kept h0
  | .puntDmaComplete _ => execPuntDmaComplete_kept h0
  | .puntFrameAtHead _ => execPuntFrameAtHead_kept h0
  | .puntHoldExpiry _ => execPuntHoldExpiry_kept h0
  | .injectFrameRead _ _ => execInjectFrameRead_kept h0
  | .injectHoldExpiry _ => execInjectHoldExpiry_kept h0
  | .dmaError _ _ _ => execDmaError_kept h0
  | .functionLevelReset => execFunctionLevelReset_kept h0
  | .pcieLinkLoss => execPcieLinkLoss_kept h0
  | .busMasterOff => execBusMasterOff_kept h0
  | .counterUpdate => execCounterUpdate_kept h0
  | .hbmRequest _ _ _ _ _ => execHbmRequest_kept h0
  | .requestUrgencyRise _ => execRequestUrgencyRise_kept h0
  | .hbmRefreshDue _ _ => execHbmRefreshDue_kept h0
  | .selfRefreshIdle _ => execSelfRefreshIdle_kept h0
  | .selfRefreshExit _ => execSelfRefreshExit_kept h0
  | .hbmParityError _ _ => execHbmParityError_kept h0
  | .hbmReadError _ _ _ _ _ _ => execHbmReadError_kept h0
  | .hbmTracking _ _ => execHbmTracking_kept h0
  | .plannedRetrainTrigger _ => execPlannedRetrainTrigger_kept h0
  | .evacuationComplete _ => execEvacuationComplete_kept h0
  | .evacuationTimeout _ => execEvacuationTimeout_kept h0
  | .evacuationSlotRelease _ => execEvacuationSlotRelease_kept h0
  | .channelTrainingEnd _ _ _ => execChannelTrainingEnd_kept h0
  | .counterScrub _ _ _ => execCounterScrub_kept h0
  | .d2dFlitError _ => execD2dFlitError_kept h0
  | .d2dLaneFault _ _ _ => execD2dLaneFault_kept h0
  | .timedStepDue => execTimedStepDue_kept h0
  | .saSwitchDue _ => execSaSwitchDue_kept h0
  | .perfControlDue => execPerfControlDue_kept h0
  | .holdoverTimeout => execHoldoverTimeout_kept h0
  | .ppsOutTarget => execPpsOutTarget_kept h0
  | .ppsOutWidthEnd => execPpsOutWidthEnd_kept h0
  | .ppsInEdge => execPpsInEdge_kept h0
  | .ppsInLost => execPpsInLost_kept h0
  | .timeSyncSend => execTimeSyncSend_kept h0
  | .timeSync _ _ _ _ _ => execTimeSync_kept h0
  | .timeSyncLoss => execTimeSyncLoss_kept h0
  | .heartbeat _ _ t32 _ _ _ deputy members =>
    execHeartbeat_kept (_t32 := t32) (_deputy := deputy) (_members := members) h0
  | .ack _ _ _ status => execAck_kept (_status := status) h0
  | .announce _ _ _ _ => execAnnounce_kept h0
  | .joinRequest _ _ _ _ ordering svn fwVersion _ =>
    execJoinRequest_kept (_ordering := ordering) (_svn := svn) (_fwVersion := fwVersion) h0
  | .joinAccept _ _ _ _ _ => execJoinAccept_kept h0
  | .joinReject _ _ reason => execJoinReject_kept (_reason := reason) h0
  | .leave _ _ cause => execLeave_kept (_cause := cause) h0
  | .memberUpdate _ _ _ _ => execMemberUpdate_kept h0
  | .relayCommand _ _ _ _ _ _ _ => execRelayCommand_kept h0
  | .relayCompletion _ _ _ _ _ _ _ _ _ _ _ => execRelayCompletion_kept h0
  | .relayEvent _ _ _ _ _ => execRelayEvent_kept h0
  | .prepare _ _ _ _ _ _ => execPrepare_kept h0
  | .ready _ _ _ => execReady_kept h0
  | .refuse _ _ _ status => execRefuse_kept (_status := status) h0
  | .commit _ _ _ _ _ => execCommit_kept h0
  | .abort _ _ _ => execAbort_kept h0
  | .modeQuery _ _ _ => execModeQuery_kept h0
  | .takeover _ _ oldManager _ => execTakeover_kept (_oldManager := oldManager) h0
  | .snowdropOffer _ _ _ cause => execSnowdropOffer_kept (_cause := cause) h0
  | .snowdropChunk _ _ _ _ _ => execSnowdropChunk_kept h0
  | .snowdropResult _ _ _ _ => execSnowdropResult_kept h0
  | .snowdropOfferSend => execSnowdropOfferSend_kept h0
  | .electionWindowEnd => execElectionWindowEnd_kept h0
  | .announceSend => execAnnounceSend_kept h0
  | .joinRequestRepeat => execJoinRequestRepeat_kept h0
  | .coordHeartbeatSend => execCoordHeartbeatSend_kept h0
  | .coordTimeout _ _ => execCoordTimeout_kept h0
  | .messageResend _ => execMessageResend_kept h0
  | .leaveHoldExpiry _ => execLeaveHoldExpiry_kept h0
  | .takeoverHoldExpiry => execTakeoverHoldExpiry_kept h0
  | .prepareReplyTimeout => execPrepareReplyTimeout_kept h0
  | .modeCommitDue => execModeCommitDue_kept h0
  | .commitUncertain => execCommitUncertain_kept h0
  | .modeQuerySend => execModeQuerySend_kept h0
  | .decisionResend => execDecisionResend_kept h0
  | .modeChangeDeadline => execModeChangeDeadline_kept h0
  | .rootPllLock => execRootPllLock_kept h0
  | .pllLockRetry => execPllLockRetry_kept h0
  | .rootPllLoss => execRootPllLoss_kept h0
  | .romStart _ => execRomStart_kept h0
  | .activationPause => execActivationPause_kept h0
  | .imageResumesFetching => execImageResumesFetching_kept h0
  | .activationTimeout => execActivationTimeout_kept h0
  | .flashUpdateComplete _ => execFlashUpdateComplete_kept h0
  | .imageConfirm => execImageConfirm_kept h0
  | .confirmWindowEnd => execConfirmWindowEnd_kept h0
  | .degradedConditionArises _ => execDegradedConditionArises_kept h0
  | .degradedConditionClears _ => execDegradedConditionClears_kept h0
  | .drainComplete => execDrainComplete_kept h0
  | .feFirmwareFailure _ _ => execFeFirmwareFailure_kept h0
  | .feRestartTimeout => execFeRestartTimeout_kept h0
  | .tmDeputyClear => execTmDeputyClear_kept h0
  | .tmCoreFailure _ => execTmCoreFailure_kept h0
  | .sramError _ _ _ _ _ _ => execSramError_kept h0
  | .spareRowFilled _ => execSpareRowFilled_kept h0
  | .repairMapCommit _ => execRepairMapCommit_kept h0
  | .repairMapRetry _ => execRepairMapRetry_kept h0
  | .perfOverflow _ _ => execPerfOverflow_kept h0
  | .histogramWindowEnd _ => execHistogramWindowEnd_kept h0
  | .psampleRecord _ _ _ _ _ _ => execPsampleRecord_kept h0
  | .telemetryFlush => execTelemetryFlush_kept h0
  | .mainPowerLoss => execMainPowerLoss_kept h0
  | .railFault _ => execRailFault_kept h0
  | .mainRailsGood => execMainRailsGood_kept h0
  | .vauxChange _ => execVauxChange_kept h0
  | .thermalAlarm _ _ => execThermalAlarm_kept h0
  | .thermalTrip _ _ => execThermalTrip_kept h0
  | .temperatureLow _ _ => execTemperatureLow_kept h0
  | .sysResetAssertion => execSysResetAssertion_kept h0
  | .sysResetRelease => execSysResetRelease_kept h0
  | .resetDelayExpiry => execResetDelayExpiry_kept h0
  | .resetStuck => execResetStuck_kept h0
  | .perstAssertion => execPerstAssertion_kept h0
  | .perstUnmaskTimeout => execPerstUnmaskTimeout_kept h0
  | .recoveryStuck => execRecoveryStuck_kept h0
  | .alarmInputChange _ _ => execAlarmInputChange_kept h0
  | .auxHeartbeat => execAuxHeartbeat_kept h0
  | .laneLockDeclared _ => execLaneLockDeclared_kept h0
  | .laneLockLost _ => execLaneLockLost_kept h0
  | .remoteFaultCleared _ => execRemoteFaultCleared_kept h0
  | .frameTransmitted _ => execFrameTransmitted_kept h0
  | .stackTemperatureReport _ _ => execStackTemperatureReport_kept h0
  | .replayReissue _ => execReplayReissue_kept h0
  | .rowRepairDone _ _ => execRowRepairDone_kept h0
  | .railsBackInWindow => execRailsBackInWindow_kept h0
  | .fwHeartbeatTick => execFwHeartbeatTick_kept h0
  | .fwHaltedTimeout => execFwHaltedTimeout_kept h0
  | .pcieLinkUp => execPcieLinkUp_kept h0
  | .coordLinkDown _ => execCoordLinkDown_kept h0
  | .coordLinkUp _ => execCoordLinkUp_kept h0

/-- A step keeps what its command keeps, once that command is off the queue; an idle one keeps what a tick keeps. -/
theorem step_kept {aim : Aim} {s : State} (h0 : Kept aim { s with pending := s.pending.tail }) : KeptOut aim (step s) := by
  unfold step
  cases hqueue : s.pending with
  | nil =>
    rw [hqueue, List.tail_nil, ← hqueue] at h0
    exact tick_kept h0
  | cons c rest =>
    rw [hqueue] at h0
    exact exec_kept c h0

/-- Settles O4: a step is aimed at the rest of the queue and at the invariant, which speaks of no queue. -/
theorem everyStepKeepsInv : Obligations.EveryStepKeepsInv := by
  intro s t hinv hstep
  have hkept := step_kept (aim := ⟨s.pending.tail, True⟩) ⟨rfl, fun _ => hinv⟩ t hstep
  exact ⟨hkept.2 trivial, hkept.1⟩

/-- Settles O5: a command is aimed at the queue it finds. -/
theorem commandsLeaveTheQueue : Obligations.CommandsLeaveTheQueue := by
  intro i s t hexec
  have hkept := exec_kept (aim := ⟨s.pending, False⟩) i ⟨rfl, False.elim⟩ t hexec
  exact hkept.1

end Sys2Proof.Machine
end

section
/-! The front command of the queue, and the state after reset. -/
namespace Sys2Proof.Machine
open Sys2Proof

/-- Settles O1: a step takes the front command off the queue before it runs it. -/
theorem stepRunsTheFrontCommand : Obligations.StepRunsTheFrontCommand := fun _ _ _ => rfl

/-- Settles O3: reset holds nothing in BAR0's storage, starts in Boot, and has no activation and no change staged. -/
theorem resetIsSound : Obligations.ResetIsSound :=
  ⟨by decide, by decide, fun _ hact => absurd hact (Option.some_ne_none _).symm,
    fun _ hstaged => absurd hstaged (Option.some_ne_none _).symm⟩

/-- Settles O7: no table of the reset state has an entry, so every channel, lane group and port reads its default. -/
theorem resetValues : Obligations.ResetValues := by
  unfold Obligations.ResetValues
  refine ⟨rfl, rfl, rfl, rfl, rfl, rfl, rfl, rfl, rfl, fun _ => rfl, rfl, rfl, rfl, rfl, rfl, fun _ => rfl, fun _ => ?_⟩
  exact ⟨rfl, rfl, rfl, rfl, rfl, rfl, rfl, rfl, rfl, rfl, rfl, rfl, rfl, rfl⟩

end Sys2Proof.Machine
end

section
/-! What commands answer whose outcome stands although their status need not be OK (R196, R363, R605). -/
namespace Sys2Proof.Machine
open Sys2Proof

section
variable {x : CmdSpec} {body : Cmd → State → Res} {c : Cmd} {s : State} {r : Res}

/-- An accepted command whose outcome stands whatever its status. -/
theorem serve_stands (h : accepted x c s = true) (hbody : body c s = r) (hkeep : r.keep = true) :
    serve c (gate x body) s = .next (signalStatus s (r.finish c)) :=
  serve_finished h hbody (by simp [hkeep])

/-- An accepted command whose body leaves the state as it is, whatever its status (R548). -/
theorem serve_unchanged (h : accepted x c s = true) (hbody : body c s = r) (hst : r.st = s) :
    serve c (gate x body) s = .next (signalStatus s (r.finish c)) := by
  rw [serve_gate h, hbody, show { r with st := s } = r by rw [← hst], ite_self]

end

/-- An accepted batch command that is not timed starts its operations in the table write port. -/
theorem batch_completes {opcode limit size : Nat} {c : Cmd} {s : State} (h : accepted (batchSpec opcode size) c s = true)
    (hgood : batchGood opcode limit c s = true) (hlimit : (if opcode / 256 == 5 then 256 else 1024) = limit)
    (huntimed : bit (byteAt c.payload 2) 1 = false) :
    serve c (gate (batchSpec opcode size) (fun c s => s.startBatch opcode c.payload)) s =
      .next (signalStatus s (Res.finish (s.portStart opcode (byteAt c.payload 2)
        ((s.opsOf opcode (le c.payload 0 2) (c.payload.drop 8)).getD [])) c)) := by
  refine serve_finished h (startBatch_now hgood hlimit huntimed) ?_
  rcases portStart_stands (s := s) (opcode := opcode) (flags := byteAt c.payload 2)
    (l := (s.opsOf opcode (le c.payload 0 2) (c.payload.drop 8)).getD []) with hk | hk <;> simp [hk]

end Sys2Proof.Machine
end

section
/-! Ring registers, HIF_HEALTH, doorbells, channels and the fetch of a command (14_host_interface.md). -/
namespace Sys2Proof.Machine
open Sys2Proof

theorem bit_toNat {w : Nat} (v : BitVec w) (i : Nat) : bit v.toNat i = v.getLsbD i := by
  rw [BitVec.getLsbD, Nat.testBit_eq_decide_div_mod_eq]
  rfl

section
variable {r : Ring} {v : Nat}

/-- R539: enabling a ring sets both indices to 0. -/
theorem Ring.write_of_enabling (hoff : r.enable = false) (hon : bit v 4 = true) :
    r.write v = ({ r with addr := v / 4096 * 4096, sizeCode := v % 16, enable := true, dev := 0, host := 0 }, true) := by
  simp [Ring.write, hoff, hon]

/-- R539: an enabled ring keeps its address and its size. -/
theorem Ring.write_of_moving (hon : r.enable = true) (hmove : v / 4096 * 4096 ≠ r.addr ∨ v % 16 ≠ r.sizeCode) :
    r.write v = (r, false) :=
  if_pos (by simpa [hon] using hmove)

theorem Ring.write_of_disabling (hon : r.enable = true) (hoff : bit v 4 = false) (haddr : v / 4096 * 4096 = r.addr)
    (hsize : v % 16 = r.sizeCode) : r.write v = ({ r with enable := false }, false) := by
  simp [Ring.write, hon, hoff, haddr, hsize]

end

/-- No lost record is reported where none was lost (R556). -/
theorem eventRoom_of_none_lost {s : State} (h : s.hif.evtLost = 0) : s.eventRoom = s :=
  if_neg (by simp [h])

section
variable {s : State}

theorem execHifCmdRingBase_of_link (hlink : s.hif.linkUp = true) (w : RegWrite) :
    exec (.hifCmdRingBase w) s = done s (s.writeCmdBase w) := if_pos hlink

theorem execHifEvtRingBase_of_link (hlink : s.hif.linkUp = true) (w : RegWrite) :
    exec (.hifEvtRingBase w) s = done s (s.writeEvtBase w) := if_pos hlink

/-- The upper dword held and the lower one written make the value of a 64-bit write (R537). -/
theorem regValue_lower {upper : Nat} (hupper : upper < 4294967296) (v : BitVec 32) :
    regValue upper (.lower v) = regValue upper (.full (BitVec.ofNat 64 (upper * 4294967296 + v.toNat))) := by
  have hv := v.isLt
  have hsum : upper * 4294967296 + v.toNat < 2 ^ 64 := by omega
  have hdiv : (upper * 4294967296 + v.toNat) / 4294967296 = upper := by omega
  simp only [regValue, BitVec.toNat_ofNat, Nat.mod_eq_of_lt hsum, hdiv]

/-- Settles O25: a write comes to the rules of its ring's register, and what R539 says of the ring decides the state. -/
theorem registerWritesComplete : Obligations.RegisterWritesComplete := by
  intro s hlink
  refine ⟨fun v hoff hon => ?_, fun v hon hmove => ?_, fun v => execHifCmdRingBase_of_link hlink _, fun v hupper => ?_,
    fun v hon hoff haddr hsize => ?_, fun v hoff hon hlost => ?_, fun v => ?_⟩
  · have hwrite := Ring.write_of_enabling (r := { s.hif.cmdRing with upper := v.toNat / 4294967296 }) hoff
      ((bit_toNat v 4).trans hon)
    rw [execHifCmdRingBase_of_link hlink]
    simp only [State.writeCmdBase, regValue, hwrite, if_true]
  · have hwrite := Ring.write_of_moving (r := { s.hif.cmdRing with upper := v.toNat / 4294967296 }) hon hmove
    rw [execHifCmdRingBase_of_link hlink]
    simp only [State.writeCmdBase, regValue, hwrite, Bool.false_eq_true, if_false]
  · rw [execHifCmdRingBase_of_link hlink, execHifCmdRingBase_of_link hlink]
    simp only [State.writeCmdBase, regValue_lower hupper]
  · have hwrite := Ring.write_of_disabling (r := { s.hif.evtRing with upper := v.toNat / 4294967296 }) hon
      ((bit_toNat v 4).trans hoff) haddr hsize
    rw [execHifEvtRingBase_of_link hlink]
    simp only [State.writeEvtBase, regValue, hwrite, Bool.false_eq_true, if_false]
  · have hwrite := Ring.write_of_enabling (r := { s.hif.evtRing with upper := v.toNat / 4294967296 }) hoff
      ((bit_toNat v 4).trans hon)
    rw [execHifEvtRingBase_of_link hlink]
    simp only [State.writeEvtBase, regValue, hwrite, if_true]
    exact congrArg (done s) (eventRoom_of_none_lost hlost)
  · refine (if_pos hlink).trans ?_
    simp only [State.writeHealth, bit_toNat]

end

section
variable {s : State} {channel rsv index : Nat}

/-- R541: a doorbell that names a channel or a reserved field, or a ring that is off, is ignored. -/
theorem doorbellCmd_of_bad (h : channel ≠ 0 ∨ rsv ≠ 0 ∨ s.hif.cmdRing.enable = false) :
    s.doorbellCmd channel rsv index = s.doorbellIgnored :=
  if_pos (by simpa [or_assoc] using h)

theorem doorbellEvt_of_bad (h : channel ≠ 0 ∨ rsv ≠ 0 ∨ s.hif.evtRing.enable = false) :
    s.doorbellEvt channel rsv index = s.doorbellIgnored :=
  if_pos (by simpa [or_assoc] using h)

theorem doorbellChan_of_bad {descs : List Desc} (h : rsv ≠ 0 ∨ channel < 4 ∨ (s.chan channel).enabled = false) :
    s.doorbellChan channel rsv index descs = s.doorbellIgnored :=
  if_pos (by simpa [or_assoc] using h)

/-- R550: a producer index within the ring is taken. -/
theorem doorbellCmd_of_room (hon : s.hif.cmdRing.enable = true) (hindex : index < 65536)
    (hroom : (index + 65536 - s.hif.cmdRing.dev) % 65536 ≤ s.hif.cmdRing.entries) :
    s.doorbellCmd 0 0 index = { s with hif.cmdRing.host := index } := by
  simp [State.doorbellCmd, hon, Nat.not_lt.mpr hroom, Nat.mod_eq_of_lt hindex]

/-- R550: a producer index beyond the ring stops fetching. -/
theorem doorbellCmd_of_overrun (hon : s.hif.cmdRing.enable = true) (hindex : index < 65536)
    (hover : s.hif.cmdRing.entries < (index + 65536 - s.hif.cmdRing.dev) % 65536) :
    s.doorbellCmd 0 0 index =
      ({ s with hif.fetchStopped := true }.setHealth 1).raise 0x0D81 (d4 s.hif.cmdRing.dev ++ d4 index) := by
  simp [State.doorbellCmd, hon, hover, Nat.mod_eq_of_lt hindex]

theorem doorbellEvt_of_none_lost (hon : s.hif.evtRing.enable = true) (hindex : index < 65536) (hlost : s.hif.evtLost = 0) :
    s.doorbellEvt 0 0 index = { s with
      hif.evtRing.host := index, hif.events := s.hif.events.drop ((index + 65536 - s.hif.evtRing.host) % 65536) } := by
  simp only [State.doorbellEvt, hon, Nat.mod_eq_of_lt hindex]
  exact (if_neg (by decide)).trans (eventRoom_of_none_lost hlost)

variable {offset : Nat} {v : BitVec 64} {wide : Bool}

/-- R536: an aligned write in the Snowdrop data window takes its bytes in Recovery alone. -/
theorem writeBar_snowdropWindow (halign : offset % 8 = 0) (hlow : 0x10000 ≤ offset) (hhigh : offset < 0x20000) :
    s.writeBar offset v wide = if s.mode.mode == mdRecovery then
      { s with hif.bar := barWrites s.hif.bar offset (toLe (if wide then 8 else 4) v.toNat) } else s := by
  have hwidth : offset % (if wide then 8 else 4) = 0 := by cases wide <;> simp <;> omega
  have hother : ∀ o < 0x10000, (offset == o) = false := fun o ho => beq_false_of_ne (by omega)
  simp [State.writeBar, hwidth, hother, hlow, hhigh]

end

/-- Settles O26: with the link up each write comes to the rules of its doorbell or of the window it lies in. -/
theorem doorbellsComplete : Obligations.DoorbellsComplete := by
  intro s channel rsv index hlink hindex
  refine ⟨fun h => ?_, fun h => ?_, fun hon hroom => ?_, fun hon hover => ?_, fun hon hlost => ?_, fun descs h => ?_,
    fun offset v wide halign hlow hhigh hmode => ?_, fun offset v wide halign hlow hhigh hmode => ?_⟩ <;>
    refine (if_pos hlink).trans ?_
  · rw [doorbellCmd_of_bad h]
    rfl
  · rw [doorbellEvt_of_bad h]
    rfl
  · rw [doorbellCmd_of_room hon hindex hroom]
  · rw [doorbellCmd_of_overrun hon hindex hover]
    rfl
  · rw [doorbellEvt_of_none_lost hon hindex hlost]
  · rw [doorbellChan_of_bad h]
    rfl
  · rw [writeBar_snowdropWindow halign hlow hhigh, if_pos (beq_iff_eq.mpr hmode)]
  · rw [writeBar_snowdropWindow halign hlow hhigh, if_neg (by simpa using hmode)]

/-- Settles O24: past its gate each command comes to its own checks of the operands. -/
theorem channelCommandsComplete : Obligations.ChannelCommandsComplete := by
  intro c s
  have hchannel {ch : Nat} (hlow : 4 ≤ ch) (hhigh : ch ≤ 63) : inRange ch 4 63 = true := by simp [inRange, hlow, hhigh]
  refine ⟨fun h hlow hhigh hdir hsize hvlow hvhigh hhold hglow hghigh hbase => ⟨fun hoff => ?_, fun hon => ?_⟩,
    fun h hlow hhigh hset => ⟨fun hen hoff => ?_, fun hen hon => ?_⟩, fun h hlow hhigh => ?_,
    fun h hv hclow hchigh htimer hwaiting => ?_, fun h => serve_answered h rfl⟩
  · refine serve_answered h ((if_neg (by simp [hchannel hlow hhigh])).trans ((if_neg ?_).trans (if_neg (by simp [hoff]))))
    simp [inRange]
    omega
  · refine serve_failed h ((if_neg (by simp [hchannel hlow hhigh])).trans ((if_neg ?_).trans (if_pos hon)))
    simp [inRange]
    omega
  · exact serve_answered h (by simp [hchannel hlow hhigh, hset, hen, hoff])
  · exact serve_answered h (by simp [hchannel hlow hhigh, hset, hen, hon])
  · exact serve_answered h (if_neg (by simp [hchannel hlow hhigh]))
  · refine serve_answered h ((if_neg ?_).trans (by simp [hwaiting]))
    simp [inRange]
    omega

/-- Settles O27: the fetch index moves on and the row of the opcode runs, or nothing happens. -/
theorem commandFetchRuns : Obligations.CommandFetchRuns := by
  intro e s
  refine ⟨fun hfetch hfree f hop => ?_, fun hfetch hfree hop => ?_, fun hwait => if_pos (by simpa using hwait)⟩
  · refine (if_neg (by simp [hfetch, hfree])).trans ?_
    simp only [runOp, hop]
  · refine (if_neg (by simp [hfetch, hfree])).trans ?_
    simp only [runOp, hop]

end Sys2Proof.Machine
end

section
/-! In which states the rows of the host interface and of the ports complete (14_host_interface.md, 02_ports.md,
03_link_security.md). Here and below a clause is one path of a row: its conditions are the branches
that the row takes, in the order in which it takes them. -/
namespace Sys2Proof.Machine
open Sys2Proof

/-- Settles O28. An inject frame that is read goes to its buffer's handle or to a new buffer, so its last clauses match
what `poolAlloc` gives. -/
theorem hostEventsComplete : Obligations.HostEventsComplete := ⟨
  -- CHANNEL_PRODUCER_INDEX
  fun _ _ _ _ _ hyes => if_pos hyes,
  -- MSIX_TIMER
  fun _ _ hvector hended => (if_neg hvector).trans (if_pos hended),
  -- PUNT_DMA_COMPLETE
  fun _ _ hchannel hpll _ hh hlost => (if_neg hchannel).trans ((if_neg hpll).trans (by simp only [hh, if_pos hlost])),
  fun _ _ hchannel hpll _ hh hlost hno =>
    (if_neg hchannel).trans ((if_neg hpll).trans (by simp only [hh, if_neg hlost, if_neg hno] <;> rfl)),
  -- PUNT_FRAME_AT_HEAD
  fun _ _ hchannel hpll hheld => (if_neg hchannel).trans ((if_neg hpll).trans (if_pos hheld)),
  -- PUNT_HOLD_EXPIRY
  fun _ _ hchannel hpll _ _ _ ht hcons hended =>
    (if_neg hchannel).trans ((if_neg hpll).trans (by simp only [ht, hcons, if_pos hended])),
  -- INJECT_HOLD_EXPIRY
  fun _ _ hchannel hpll _ ht hended => (if_neg hchannel).trans ((if_neg hpll).trans (by simp only [ht, if_pos hended])),
  -- DMA_ERROR
  fun channel addr err s hnone hyes =>
    (by simp only [execDmaError, hnone, if_pos hyes] : execDmaError channel addr err s = _),
  fun channel addr err s hnone hno =>
    (by simp only [execDmaError, hnone, if_neg hno] : execDmaError channel addr err s = _),
  fun channel addr err s _ hc hc2 =>
    (by simp only [execDmaError, hc, if_neg hc2] <;> rfl : execDmaError channel addr err s = _),
  -- FUNCTION_LEVEL_RESET
  fun _ => rfl,
  -- PCIE_LINK_LOSS
  fun _ => rfl,
  -- BUS_MASTER_OFF
  fun _ => rfl,
  -- PCIE_LINK_UP
  fun _ hmode => if_neg hmode,
  -- INJECT_FRAME_READ
  fun _ _ _ hchannel hplane _ _ hsome hnone =>
    (if_neg hchannel).trans ((if_neg hplane).trans (by simp only [hsome, hnone])),
  fun _ _ _ hchannel hplane _ _ hsome _ _ hsome2 hlost =>
    (if_neg hchannel).trans ((if_neg hplane).trans (by simp only [hsome, hsome2, if_pos hlost])),
  fun _ _ _ hchannel hplane _ _ hsome _ _ hsome2 hlost hyes =>
    (if_neg hchannel).trans ((if_neg hplane).trans (by simp only [hsome, hsome2, if_neg hlost, if_pos hyes] <;> rfl)),
  fun _ _ _ hchannel hplane _ _ hsome _ _ hsome2 hlost hno _ hk =>
    (if_neg hchannel).trans ((if_neg hplane).trans (by
      simp only [hsome, hsome2]
      refine (if_neg hlost).trans ((if_neg hno).trans ?_)
      simp only [hk])),
  fun _ _ _ hchannel hplane _ _ hsome _ _ hsome2 _ hno hnone _ _ hpair =>
    (if_neg hchannel).trans ((if_neg hplane).trans (by simp only [hsome, hsome2, if_neg hno, hnone, hpair] <;> rfl)),
  fun _ _ _ hchannel hplane _ _ hsome _ _ hsome2 _ hno hnone _ hpair =>
    (if_neg hchannel).trans ((if_neg hplane).trans (by simp only [hsome, hsome2, if_neg hno, hnone, hpair] <;> rfl))⟩

/-- Settles O29. What an event of a port waits for is an option of its record: it is matched first, then its time is
tested. -/
theorem portsComplete : Obligations.PortsComplete := ⟨
  -- PORT_GROUP_SET_MODE
  fun _ _ hacc hunit hno => serve_answered hacc ((if_neg hunit).trans (if_neg hno)),
  -- PORT_CONFIG
  fun _ _ hacc hbound hexists hrange =>
    serve_answered hacc ((if_neg hbound).trans ((if_neg hexists).trans (if_neg hrange))),
  -- PORT_ADMIN
  fun _ _ hacc hexists => serve_answered hacc (if_neg hexists),
  -- PORT_STATUS_GET
  fun _ _ hacc hexists => serve_answered hacc (if_neg hexists),
  -- PORT_COUNTERS_GET
  fun _ _ hacc hexists => serve_answered hacc (if_neg hexists),
  -- PORT_RATE_RESTORE
  fun _ _ hacc hunit hyes => serve_answered hacc ((if_neg hunit).trans (if_pos hyes)),
  fun _ _ hacc hunit hno => serve_answered hacc ((if_neg hunit).trans (if_neg hno)),
  -- LINK_CONDITIONS_MET
  fun _ _ hport hexists => (if_neg hport).trans (if_pos hexists),
  -- LINK_UP_HOLD_EXPIRY
  fun _ _ hport _ ht hended => (if_neg hport).trans (by simp only [ht, if_pos hended]),
  -- LINK_CONDITION_LOST
  fun _ _ _ _ hport hexists => (if_neg hport).trans (if_pos hexists),
  -- LINK_DOWN_HOLD_EXPIRY
  fun _ _ hport _ _ hsome hended => (if_neg hport).trans (by simp only [hsome, if_pos hended]),
  -- REMOTE_FAULT
  fun _ _ hport hexists => (if_neg hport).trans (if_pos hexists),
  -- FEC_THRESHOLD
  fun _ _ hbound hexists hbound2 => (if_neg hbound).trans ((if_pos hexists).trans (if_pos hbound2)),
  fun _ _ hbound hexists hbound2 => (if_neg hbound).trans ((if_pos hexists).trans (if_neg hbound2)),
  -- LANE_TRAINING_END
  fun _ _ _ hlane _ hp hlisted => (if_neg hlane).trans (by simp only [hp, if_pos hlisted]),
  -- TRAINING_RETRY
  fun _ _ hport _ ht hended => (if_neg hport).trans (by simp only [ht, if_pos hended]),
  -- FALLBACK_WINDOW
  fun _ _ _ hgroup hended => (if_neg hgroup).trans (if_pos hended),
  -- FALLBACK_TIMEOUT
  fun _ _ hgroup _ ht hended => (if_neg hgroup).trans (by simp only [ht, if_pos hended]),
  -- LPI_IDLE_ENTRY
  fun _ _ hport hended => (if_neg hport).trans (if_pos hended),
  -- REMOTE_FAULT_CLEARED
  fun _ _ hport hexists => (if_neg hport).trans (if_pos hexists),
  -- FRAME_TRANSMITTED
  fun _ _ hport hpll hheld => (if_neg hport).trans ((if_neg hpll).trans (if_pos hheld))⟩

/-- Settles O30. A read or write of a module that firmware may start leaves its command open; the other commands are
answered. -/
theorem modulesComplete : Obligations.ModulesComplete := ⟨
  -- MODULE_READ
  fun _ _ hacc hno hno2 hyes => serve_opened hacc ((if_neg hno).trans ((if_neg hno2).trans (if_pos hyes))),
  fun _ _ hacc hno hno2 hno3 => serve_answered hacc ((if_neg hno).trans ((if_neg hno2).trans (if_neg hno3))),
  -- MODULE_WRITE
  fun _ _ hacc hno hno2 hno3 hyes =>
    serve_opened hacc ((if_neg hno).trans ((if_neg hno2).trans ((if_neg hno3).trans (if_pos hyes)))),
  fun _ _ hacc hno hno2 hno3 hno4 =>
    serve_answered hacc ((if_neg hno).trans ((if_neg hno2).trans ((if_neg hno3).trans (if_neg hno4)))),
  -- MODULE_INT_UNMASK
  fun _ _ hacc hbound => serve_answered hacc (if_neg hbound),
  -- LEDGER_READ
  fun _ _ hacc hrange => serve_answered hacc (if_neg hrange),
  -- LEDGER_SET_RATING
  fun _ _ hacc hheld => serve_answered hacc (if_neg hheld),
  -- MODULE_MAP_SET
  fun _ _ hacc hrange hlisted => serve_answered hacc ((if_neg hrange).trans (if_neg hlisted)),
  -- MODULE_INSERTED
  fun _ _ _ hmodule hno hyes => (if_neg hmodule).trans ((if_neg hno).trans (if_pos hyes)),
  fun _ _ _ hmodule hno hno2 => (if_neg hmodule).trans ((if_neg hno).trans (if_neg hno2)),
  -- MODULE_REMOVED
  fun _ _ hmodule hno => (if_neg hmodule).trans (if_neg hno),
  -- MODULE_INTERRUPT
  fun _ _ _ hmodule hpll hno => (if_neg hmodule).trans ((if_neg hpll).trans (if_neg hno)),
  -- MODULE_MONITOR_POLL
  fun _ _ _ _ _ _ hmodule hended => (if_neg hmodule).trans (if_pos hended),
  -- LEDGER_ACCUMULATION
  fun _ hended => if_pos hended,
  -- LEDGER_HOURLY_WRITE
  fun _ hended => if_pos hended,
  -- INTERRUPT_STUCK
  fun _ _ hmodule hpll _ ht hended => (if_neg hmodule).trans ((if_neg hpll).trans (by simp only [ht, if_pos hended])),
  -- PRESENCE_CHATTER
  fun _ _ hbound hno => (if_neg hbound).trans (if_neg hno),
  -- MASKED_INPUT_POLL
  fun _ _ _ hmodule hended => (if_neg hmodule).trans (if_pos hended),
  -- MODULE_ACCESS_UNACKNOWLEDGED
  fun _ _ hmodule hno hbound => (if_neg hmodule).trans ((if_neg hno).trans (if_pos hbound)),
  fun _ _ hmodule hno hbound => (if_neg hmodule).trans ((if_neg hno).trans (if_neg hbound)),
  -- BUS_DATA_LINE_LOW
  fun _ _ _ hbus hpll hlisted => (if_neg hbus).trans ((if_neg hpll).trans (if_neg hlisted))⟩

/-- Settles O31. Past its checks each command is answered; the events match the association that they name. -/
theorem linkSecurityComplete : Obligations.LinkSecurityComplete := ⟨
  -- SECY_CONFIG
  fun _ _ hacc hexists hrange => serve_answered hacc ((if_neg hexists).trans (if_neg hrange)),
  -- SC_SET
  fun _ _ hacc hexists hrange hno => serve_answered hacc ((if_neg hexists).trans ((if_neg hrange).trans (if_neg hno))),
  -- SC_CLEAR
  fun _ _ hacc hexists => serve_answered hacc (if_neg hexists),
  -- SA_INSTALL
  fun _ _ hacc hexists hexists2 hunit hheld hheld2 =>
    serve_answered hacc ((if_neg hexists).trans ((if_neg hexists2).trans ((if_neg hunit).trans ((if_neg hheld).trans
      (if_neg hheld2))))),
  -- SA_ENABLE_RX
  fun _ _ hacc hrange _ ha hbound => serve_answered hacc ((if_neg hrange).trans (by simp only [ha, if_neg hbound])),
  -- SA_TX_SWITCH
  fun _ _ hacc hexists hyes => serve_answered hacc ((if_neg hexists).trans (if_pos hyes)),
  fun _ _ hacc hexists hno hno2 => serve_answered hacc ((if_neg hexists).trans ((if_neg hno).trans (if_neg hno2))),
  -- SA_DELETE
  fun _ _ hacc hexists hno => serve_answered hacc ((if_neg hexists).trans (if_neg hno)),
  -- SA_STATUS_GET
  fun _ _ hacc hexists => serve_answered hacc (if_neg hexists),
  -- SECY_COUNTERS_GET
  fun _ _ hacc hexists => serve_answered hacc (if_neg hexists),
  -- SA_SWITCH_DUE
  fun _ _ hport hpll _ _ hsome hyes => (if_neg hport).trans ((if_neg hpll).trans (by simp only [hsome, if_pos hyes]))⟩

end Sys2Proof.Machine
end

section
/-! In which states frames are received, parsed and looked up, and the rows of their tables complete (04_parsing.md,
05_forwarding_tables.md, 06_associative_search.md). -/
namespace Sys2Proof.Machine
open Sys2Proof

/-- Settles O32. A command on load balancing branches on the kind of group first, and then looks the group up. -/
theorem parserCommandsComplete : Obligations.ParserCommandsComplete := ⟨
  -- PARSE_POLICY_SET
  fun _ _ hacc hexists hbound => serve_answered hacc ((if_neg hexists).trans (if_neg hbound)),
  -- PARSE_POLICY_GET
  fun _ _ hacc hexists => serve_answered hacc (if_neg hexists),
  -- HASH_PROFILE_SET
  fun _ _ hacc hbound => serve_answered hacc (if_neg hbound),
  -- PARSE_COUNTERS_GET
  fun _ _ hacc hexists => serve_answered hacc (if_neg hexists),
  -- PARSE_TEST
  fun _ _ hacc hexists hrange => serve_answered hacc ((if_neg hexists).trans (if_neg hrange)),
  -- SLOWPATH_CLASS_SET
  fun _ _ hacc hrange hno => serve_answered hacc ((if_neg hrange).trans (if_neg hno)),
  -- LB_MEMBER_ADD
  fun _ _ hacc hyes _ hx hno hbound hheld hbound2 hbound3 =>
    serve_answered hacc ((if_pos hyes).trans (by simp only [hx, if_neg hno, if_neg hbound, if_neg hheld,
      if_neg hbound2, if_pos hbound3])),
  fun _ _ hacc hyes _ hx hno hbound hheld hbound2 hbound3 _ hbase =>
    serve_answered hacc ((if_pos hyes).trans (by simp only [hx, if_neg hno, if_neg hbound, if_neg hheld,
      if_neg hbound2, if_neg hbound3, hbase])),
  fun _ _ hacc hno hyes hg hv hheld hbound =>
    serve_answered hacc ((if_neg hno).trans ((if_pos hyes).trans ((if_neg hg).trans ((if_neg hv).trans
      ((if_neg hheld).trans (if_neg hbound)))))),
  -- LB_MEMBER_REMOVE
  fun _ _ hacc hyes _ hx _ hm hno hno2 =>
    serve_answered hacc ((if_pos hyes).trans (by simp only [hx, hm, if_neg hno, if_neg hno2])),
  fun _ _ hacc hno hyes hg _ hm hno2 =>
    serve_answered hacc ((if_neg hno).trans ((if_pos hyes).trans ((if_neg hg).trans (by simp only [hm, if_neg hno2])))),
  -- LB_SLOTS_SET
  fun _ _ hacc hyes _ hx hno hheld =>
    serve_answered hacc ((if_pos hyes).trans (by simp only [hx, if_neg hno, if_neg hheld])),
  fun _ _ hacc hno hyes hg hheld =>
    serve_answered hacc ((if_neg hno).trans ((if_pos hyes).trans ((if_neg hg).trans (if_neg hheld)))),
  -- LB_SLOTS_GET
  fun _ _ hacc hyes _ hx => serve_answered hacc ((if_pos hyes).trans (by simp only [hx])),
  fun _ _ hacc hno hyes hg => serve_answered hacc ((if_neg hno).trans ((if_pos hyes).trans (if_neg hg)))⟩

/-- Settles O33. Whether a frame is taken early depends on its head checks, so their result is put into the conditions
that follow. -/
theorem frameReceptionCompletes : Obligations.FrameReceptionCompletes := ⟨
  -- RECEIVE_FRAME
  fun _ _ _ hport hexists _ hc hfalse => (if_neg hport).trans ((if_neg hexists).trans (by simp only [hc, hfalse])),
  fun _ _ _ hport hexists _ hc htrue _ hw0 =>
    (if_neg hport).trans ((if_neg hexists).trans (by simp only [hc, htrue, hw0])),
  fun _ _ _ hport hexists _ hc htrue hnone =>
    (if_neg hport).trans ((if_neg hexists).trans (by simp only [hc, htrue, hnone])),
  fun _ _ _ hport hexists hnone _ hc => (if_neg hport).trans ((if_neg hexists).trans (by simp only [hnone, hc])),
  fun _ _ _ hport hexists hnone hnone2 hbound => (if_neg hport).trans ((if_neg hexists).trans (by
    rw [hnone2] at hbound
    simp only [hnone, hnone2, if_pos hbound])),
  fun _ _ _ hport hexists hnone hnone2 hbound _ hw0 => (if_neg hport).trans ((if_neg hexists).trans (by
    rw [hnone2] at hbound hw0
    simp only [hnone, hnone2, if_neg hbound, hw0])),
  fun _ _ _ hport hexists hnone hnone2 hbound hnone3 => (if_neg hport).trans ((if_neg hexists).trans (by
    rw [hnone2] at hbound hnone3
    simp only [hnone, hnone2, if_neg hbound, hnone3])),
  -- PARSER_SLOT
  fun _ _ hport _ _ hcons hplane hyes => (if_neg hport).trans (by simp only [hcons, if_neg hplane, if_pos hyes]),
  fun _ _ hport _ _ hcons hplane hno => (if_neg hport).trans (by simp only [hcons, if_neg hplane, if_neg hno]),
  -- PARSER_PIPELINE_ERROR
  fun _ _ _ hpipeline hpll hlisted => (if_neg hpipeline).trans ((if_neg hpll).trans (if_neg hlisted))⟩

/-- Settles O34. The batch commands that are not timed share `batch_completes`: what the table write port then answers
stands. -/
theorem tableCommandsComplete : Obligations.TableCommandsComplete := ⟨
  -- ROUTE_GET
  fun _ _ hacc hunit hyes _ he => serve_answered hacc ((if_neg hunit).trans ((if_pos hyes).trans (by simp only [he]))),
  fun _ _ hacc hunit hyes hnone =>
    serve_answered hacc ((if_neg hunit).trans ((if_pos hyes).trans (by simp only [hnone]))),
  fun _ _ hacc hunit hno hyes hno2 =>
    serve_answered hacc ((if_neg hunit).trans ((if_neg hno).trans ((if_pos hyes).trans (if_neg hno2)))),
  fun _ _ hacc hunit hno hno2 _ he =>
    serve_answered hacc ((if_neg hunit).trans ((if_neg hno).trans ((if_neg hno2).trans (by simp only [he])))),
  -- LENGTH_RESERVE
  fun _ _ hacc hunit => serve_answered hacc (if_neg hunit),
  -- ECMP_CREATE
  fun _ _ hacc hrange hno hheld hno2 _ hbase =>
    serve_answered hacc ((if_neg hrange).trans ((if_neg hno).trans ((if_neg hheld).trans ((if_neg hno2).trans
      (by simp only [hbase]))))),
  -- EM_TABLE_CONFIG
  fun _ _ hacc hunit hbound => serve_answered hacc ((if_neg hunit).trans (if_neg hbound)),
  -- INTERFACE_SET
  fun _ _ hacc hno => serve_answered hacc (if_neg hno),
  -- ROUTER_MAC_SET
  fun _ _ hacc hunit => serve_answered hacc (if_neg hunit),
  -- OBJ_RETIRE
  fun _ _ hacc hbound hno hno2 hno3 =>
    serve_opened hacc ((if_neg hbound).trans ((if_neg hno).trans ((if_neg hno2).trans (if_neg hno3)))),
  -- OBJ_COUNTERS_GET
  fun _ _ hacc hrange => serve_answered hacc (if_neg hrange),
  -- TABLE_REPAIR_DONE
  fun _ _ hacc _ hp hbound hno => serve_answered hacc (by simp only [hp, if_neg hbound, if_neg hno]),
  -- TABLE_SPLIT_SET
  fun _ _ hacc hrange => serve_answered hacc (if_neg hrange),
  -- LOOKUP_CONFIG
  fun _ _ hacc hrange => serve_answered hacc (if_neg hrange),
  -- TABLE_STATUS_GET
  fun _ _ hacc => serve_answered hacc rfl,
  -- ECMP_COUNT_SET
  fun _ _ hacc hbound hno _ hx => serve_answered hacc ((if_neg hbound).trans ((if_neg hno).trans (by simp only [hx]))),
  -- ROUTE_ADD
  fun _ _ hacc hgood hfalse => batch_completes hacc hgood rfl hfalse,
  -- ROUTE_DELETE
  fun _ _ hacc hgood hfalse => batch_completes hacc hgood rfl hfalse,
  -- NEXTHOP_SET
  fun _ _ hacc hgood hfalse => batch_completes hacc hgood rfl hfalse,
  -- LABEL_SET
  fun _ _ hacc hgood hfalse => batch_completes hacc hgood rfl hfalse,
  -- EM_INSERT
  fun _ _ hacc hgood hfalse => batch_completes hacc hgood rfl hfalse,
  -- EM_DELETE
  fun _ _ hacc hgood hfalse => batch_completes hacc hgood rfl hfalse,
  -- TCAM_ENTRY_INSERT
  fun _ _ hacc hgood hfalse => batch_completes hacc hgood rfl hfalse,
  -- TCAM_ENTRY_MODIFY
  fun _ _ hacc hgood hfalse => batch_completes hacc hgood rfl hfalse,
  -- ENCAP_SET
  fun _ _ hacc hgood hfalse => batch_completes hacc hgood rfl hfalse⟩

/-- Settles O35. The first frame of the port in the lookup queue is matched, then what the lookup says of it. -/
theorem lookupEventsComplete : Obligations.LookupEventsComplete := ⟨
  -- LOOKUP_RESULT
  fun _ _ _ hunit hplane _ _ hsome _ _ hsome2 =>
    (if_neg hunit).trans ((if_neg hplane).trans (by simp only [hsome, hsome2])),
  fun _ _ _ hunit hplane _ _ hsome _ _ _ hsome2 hnone =>
    (if_neg hunit).trans ((if_neg hplane).trans (by simp only [hsome, hsome2, hnone])),
  fun _ _ _ hunit hplane _ _ hsome _ _ _ hsome2 _ hi _ hw0 =>
    (if_neg hunit).trans ((if_neg hplane).trans (by simp only [hsome, hsome2, hi, hw0])),
  fun _ _ _ hunit hplane _ _ hsome _ _ _ hsome2 _ hi hnone =>
    (if_neg hunit).trans ((if_neg hplane).trans (by simp only [hsome, hsome2, hi, hnone])),
  fun _ _ _ hunit hplane _ _ hsome _ hsome2 =>
    (if_neg hunit).trans ((if_neg hplane).trans (by simp only [hsome, hsome2])),
  -- LOOKUP_PIPELINE_ERROR
  fun _ _ _ hpipeline hpll hlisted => (if_neg hpipeline).trans ((if_neg hpll).trans (if_neg hlisted)),
  -- RETIREMENT_EPOCH_END
  fun _ hended => if_pos hended,
  -- GROWN_TABLE_RELEASE
  fun _ _ hpll hheld => (if_neg hpll).trans (if_neg hheld),
  -- ECMP_BLOCK_RELEASE
  fun _ _ hpll hyes => (if_neg hpll).trans (if_pos hyes),
  -- MARKER_REBUILD_DONE
  fun entry s _ hp hyes => (by simp only [execMarkerRebuildDone, hp, if_pos hyes] : execMarkerRebuildDone entry s = _),
  -- COUNTER_UPDATE
  fun _ hpll _ _ _ hcons => (if_neg hpll).trans (by simp only [hcons]),
  -- TIMED_BATCH_COMMIT
  fun _ hno => if_neg hno⟩

/-- Settles O36. A deletion that applies no operation leaves the state, whatever its status; the others change it or fail. -/
theorem searchComplete : Obligations.SearchComplete := ⟨
  -- TCAM_CHAIN_CONFIG
  fun _ _ hacc hbound hyes hheld => serve_answered hacc ((if_neg hbound).trans ((if_pos hyes).trans (if_neg hheld))),
  fun _ _ hacc hbound hno hlisted hbound2 hno2 hlisted2 =>
    serve_answered hacc ((if_neg hbound).trans ((if_neg hno).trans ((if_neg hlisted).trans ((if_neg hbound2).trans
      ((if_neg hno2).trans (if_neg hlisted2)))))),
  -- TCAM_CHAIN_EXTEND
  fun _ _ hacc _ hx hno hbound hheld hlisted =>
    serve_answered hacc (by simp only [hx, if_neg hno, if_neg hbound, if_neg hheld, if_neg hlisted]),
  -- KEY_PROFILE_SET
  fun _ _ hacc hrange => serve_answered hacc (if_neg hrange),
  -- SEARCH_PROFILE_SET
  fun _ _ hacc _ _ ha hb hbound => serve_answered hacc (by simp only [ha, hb, if_neg hbound]),
  -- SEARCH_PROFILE_MAP
  fun _ _ hacc hexists hbound => serve_answered hacc ((if_neg hexists).trans (if_neg hbound)),
  -- TCAM_ENTRY_DELETE
  fun _ _ hacc hrange hyes => serve_unchanged hacc ((if_neg hrange).trans (if_pos hyes)) rfl,
  fun _ _ hacc hrange hno => serve_opened hacc ((if_neg hrange).trans (if_neg hno)),
  -- TCAM_SEARCH
  fun _ _ hacc _ hx => serve_answered hacc (by simp only [hx]),
  -- TCAM_SEARCH_CONTINUE
  fun _ _ hacc _ hx hno => serve_answered hacc (by simp only [hx, if_neg hno]),
  -- TCAM_COMPACT
  fun _ _ hacc _ hx hlisted => serve_answered hacc (by simp only [hx, if_neg hlisted]),
  -- TCAM_ENTRY_READ
  fun _ _ hacc _ _ _ hsome => serve_answered hacc (by simp only [hsome]),
  -- TCAM_STATUS_GET
  fun _ _ hacc => serve_answered hacc rfl,
  -- TCAM_SCRUB
  fun _ _ hbound hpll => (if_neg hbound).trans (if_neg hpll),
  -- SPARE_TILE_FILLED
  fun _ _ hpll _ hf => (if_neg hpll).trans (by simp only [hf]),
  -- TCAM_DELETE_COMPLETE
  fun _ _ hpll _ hd hended _ ho _ heq hyes =>
    (if_neg hpll).trans (by simp only [hd, if_neg hended, ho, heq, if_pos hyes]),
  fun _ _ hpll _ hd hended _ ho _ heq hno =>
    (if_neg hpll).trans (by simp only [hd, if_neg hended, ho, heq, if_neg hno]),
  fun _ _ hpll _ hd hended hnone => (if_neg hpll).trans (by simp only [hd, if_neg hended, hnone])⟩

end Sys2Proof.Machine
end

section
/-! In which states the rows of the queues, the scheduler and the pools complete (07_packet_buffer.md, 08_scheduling.md,
09_buffer_pools.md). -/
namespace Sys2Proof.Machine
open Sys2Proof

/-- Settles O37. QUEUE_CONFIG stands whatever it applied (R196); the events match the queue's own record. -/
theorem packetBufferComplete : Obligations.PacketBufferComplete := ⟨
  -- BUFFER_PARTITION_SET
  fun _ _ hacc hno => serve_answered hacc (if_neg hno),
  -- ADMISSION_PROFILE_SET
  fun _ _ hacc hrange hno => serve_answered hacc ((if_neg hrange).trans (if_neg hno)),
  -- WRED_PROFILE_SET
  fun _ _ hacc hbound => serve_answered hacc (if_neg hbound),
  -- QUEUE_CONFIG
  fun _ _ hacc hfirst hrange => serve_stands hacc ((if_neg hfirst).trans (if_neg hrange)) rfl,
  -- QUEUE_FLUSH
  fun _ _ hacc hq => serve_answered hacc (if_neg hq),
  -- QUEUE_STATUS_GET
  fun _ _ hacc hrange hbound => serve_answered hacc ((if_neg hrange).trans (if_neg hbound)),
  -- BUFFER_STATUS_GET
  fun _ _ hacc => serve_answered hacc rfl,
  -- BUFFER_GLOBAL_SET
  fun _ _ hacc hrange => serve_answered hacc (if_neg hrange),
  -- HEADER_CELL_ADMISSION
  fun _ _ hport hplane _ _ hsome => (if_neg hport).trans ((if_neg hplane).trans (by simp only [hsome])),
  -- SEGMENT_WRITTEN
  fun s _ _ hcons _ _ hsome hplane =>
    (by simp only [execSegmentWritten, hcons, hsome, if_neg hplane] : execSegmentWritten s = _),
  -- REFILL_ARRIVAL
  fun _ _ hqueue _ _ hcons hheld => (if_neg hqueue).trans (by simp only [hcons, if_neg hheld]),
  -- AGE_EXPIRY
  fun _ _ hqueue hheld => (if_neg hqueue).trans (if_neg hheld),
  -- CELL_AUDIT
  fun _ hpll hended => (if_neg hpll).trans (if_neg hended)⟩

/-- Settles O38. SCHED_NODE_SET and POLICER_SET stand whatever they applied (R196). -/
theorem schedulingCommandsComplete : Obligations.SchedulingCommandsComplete := ⟨
  -- SCHED_NODE_SET
  fun _ _ hacc hrange => serve_stands hacc (if_neg hrange) rfl,
  -- SCHED_NODE_GET
  fun _ _ hacc hno => serve_answered hacc (if_neg hno),
  -- LENGTH_PROFILE_SET
  fun _ _ hacc hunit => serve_answered hacc (if_neg hunit),
  -- SITE_MAP_SET
  fun _ _ hacc hunit hyes hexists => serve_answered hacc ((if_neg hunit).trans ((if_pos hyes).trans (if_neg hexists))),
  fun _ _ hacc hunit hno hunit2 => serve_answered hacc ((if_neg hunit).trans ((if_neg hno).trans (if_neg hunit2))),
  -- DISPATCH_PROFILE_SET
  fun _ _ hacc hrange => serve_answered hacc (if_neg hrange),
  -- SAMPLE_SET_CONFIG
  fun _ _ hacc hrange hyes => serve_answered hacc ((if_neg hrange).trans (if_pos hyes)),
  fun _ _ hacc hrange hno hbound => serve_answered hacc ((if_neg hrange).trans ((if_neg hno).trans (if_neg hbound))),
  -- SCHED_COUNTERS_GET
  fun _ _ hacc => serve_answered hacc rfl,
  -- QOS_MAP_SET
  fun _ _ hacc hbound => serve_answered hacc (if_neg hbound),
  -- QOS_PORT_SET
  fun _ _ hacc hexists hbound => serve_answered hacc ((if_neg hexists).trans (if_neg hbound)),
  -- POLICER_PROFILE_SET
  fun _ _ hacc hunit => serve_answered hacc (if_neg hunit),
  -- POLICER_SET
  fun _ _ hacc hrange => serve_stands hacc (if_neg hrange) rfl,
  -- POLICER_STATUS_GET
  fun _ _ hacc hi => serve_answered hacc (if_neg hi)⟩

/-- Settles O39. BUF_SHARE and BUF_RELEASE stand whatever they applied (R363); the events match the record that they end. -/
theorem bufferPoolsComplete : Obligations.BufferPoolsComplete := ⟨
  -- POOL_CARVE_SET
  fun _ _ hacc hno hno2 => serve_answered hacc ((if_neg hno).trans (if_neg hno2)),
  -- CHANNEL_POOL_SET
  fun _ _ hacc hrange hrange2 hbound =>
    serve_answered hacc ((if_neg hrange).trans ((if_neg hrange2).trans (if_neg hbound))),
  -- BUF_SHARE
  fun _ _ hacc hrange hno => serve_stands hacc ((if_neg hrange).trans (if_neg hno)) rfl,
  -- BUF_RELEASE
  fun _ _ hacc hrange => serve_stands hacc (if_neg hrange) rfl,
  -- BUF_INFO
  fun _ _ hacc _ _ _ hsome => serve_answered hacc (by simp only [hsome]),
  -- BUF_CELL_SHARE_SET
  fun _ _ hacc hbound => serve_answered hacc (if_neg hbound),
  -- POOL_STATUS_GET
  fun _ _ hacc => serve_answered hacc rfl,
  -- RETAIN_EXPIRY
  fun _ _ hpll _ _ _ _ hsome hb _ ht htrue hended =>
    (if_neg hpll).trans (by simp only [hsome, hb, ht, htrue, if_pos hended]),
  -- EGRESS_SELECTION
  fun _ _ hport hexists => (if_neg hport).trans (if_neg hexists),
  -- SHAPER_PAYOFF
  fun _ _ hno hpll => (if_neg hno).trans (if_neg hpll),
  -- SAMPLE_WINDOW_END
  fun _ _ hk hpll _ hw => (if_neg hk).trans ((if_neg hpll).trans (by simp only [hw]))⟩

end Sys2Proof.Machine
end

section
/-! In which states the rows of the fabric, of editing and of the packet memory complete (10_fabric.md, 11_egress_editing.md,
12_packet_memory.md). -/
namespace Sys2Proof.Machine
open Sys2Proof

/-- Settles O40. The tests of the operands come before what a command sets. -/
theorem fabricCommandsComplete : Obligations.FabricCommandsComplete := ⟨
  -- FABRIC_CONFIG
  fun _ _ hacc hrange => serve_answered hacc (if_neg hrange),
  -- FABRIC_PEER_SET
  fun _ _ hacc hunit => serve_answered hacc (if_neg hunit),
  -- PROTECT_CLASS_SET
  fun _ _ hacc hlisted => serve_answered hacc (if_neg hlisted),
  -- CREDIT_PROFILE_SET
  fun _ _ hacc hexists hrange => serve_answered hacc ((if_neg hexists).trans (if_neg hrange)),
  -- PLANE_ADMIN
  fun _ _ hacc hunit hyes => serve_answered hacc ((if_neg hunit).trans (if_pos hyes)),
  fun _ _ hacc hunit hno => serve_answered hacc ((if_neg hunit).trans (if_neg hno)),
  -- PLANE_RESTORE
  fun _ _ hacc hunit hno hno2 => serve_answered hacc ((if_neg hunit).trans ((if_neg hno).trans (if_neg hno2))),
  -- FABRIC_LANE_ADMIN
  fun _ _ hacc hunit hyes hyes2 => serve_answered hacc ((if_neg hunit).trans ((if_pos hyes).trans (if_pos hyes2))),
  fun _ _ hacc hunit hyes hno => serve_answered hacc ((if_neg hunit).trans ((if_pos hyes).trans (if_neg hno))),
  fun _ _ hacc hunit hno hyes => serve_answered hacc ((if_neg hunit).trans ((if_neg hno).trans (if_pos hyes))),
  fun _ _ hacc hunit hno hno2 => serve_answered hacc ((if_neg hunit).trans ((if_neg hno).trans (if_neg hno2))),
  -- FABRIC_STATUS_GET
  fun _ _ hacc => serve_answered hacc rfl,
  -- FABRIC_COUNTERS_GET
  fun _ _ hacc => serve_answered hacc rfl⟩

/-- Settles O41. A cell that is taken runs the rules of its type (R378); an event of a lane or a peer tests its number
first. -/
theorem fabricEventsComplete : Obligations.FabricEventsComplete := ⟨
  -- FABRIC_HEARTBEAT_SEND
  fun _ hended => if_neg hended,
  -- HEARTBEAT_CELL
  fun rx s₀ htaken => (receiveCell_taken htaken : execHeartbeatCell rx s₀ = _),
  -- HEAR_TIMEOUT
  fun _ _ _ hunit hpll hyes => (if_neg hunit).trans ((if_neg hpll).trans (if_pos hyes)),
  -- UP_HOLD_EXPIRY
  fun _ _ _ hunit hended => (if_neg hunit).trans (if_neg hended),
  -- RESYNC
  fun rx s₀ htaken => (receiveCell_taken htaken : execResync rx s₀ = _),
  -- RESYNC_ACK
  fun rx s₀ htaken => (receiveCell_taken htaken : execResyncAck rx s₀ = _),
  -- RESYNC_RESEND
  fun _ _ _ hunit hno hended hbound =>
    (if_neg hunit).trans ((if_neg hno).trans ((if_pos hended).trans (if_pos hbound))),
  fun _ _ _ hunit hno hended hbound =>
    (if_neg hunit).trans ((if_neg hno).trans ((if_pos hended).trans (if_neg hbound))),
  fun _ _ _ hunit hno hended hended2 =>
    (if_neg hunit).trans ((if_neg hno).trans ((if_neg hended).trans (if_pos hended2))),
  -- CONTROL_CELL
  fun rx s₀ htaken => (receiveCell_taken htaken : execControlCell rx s₀ = _),
  -- CONTROL_MESSAGE_TIMEOUT
  fun _ _ _ hunit hpll _ hx hended => (if_neg hunit).trans ((if_neg hpll).trans (by simp only [hx, if_pos hended])),
  -- FABRIC_LANE_FAULT
  fun _ _ _ hlane hno hyes hended => (if_neg hlane).trans ((if_neg hno).trans ((if_pos hyes).trans (if_pos hended))),
  fun _ _ _ hlane hno hno2 => (if_neg hlane).trans ((if_neg hno).trans (if_neg hno2)),
  -- FABRIC_LANE_TRAINING_END
  fun _ _ _ hlane hheld hyes => (if_neg hlane).trans ((if_neg hheld).trans (if_pos hyes)),
  fun _ _ _ hlane hheld hno hbound => (if_neg hlane).trans ((if_neg hheld).trans ((if_neg hno).trans (if_pos hbound))),
  fun _ _ _ hlane hheld hno hbound => (if_neg hlane).trans ((if_neg hheld).trans ((if_neg hno).trans (if_neg hbound))),
  -- FABRIC_TRAINING_RETRY
  fun _ _ hlane hended => (if_neg hlane).trans (if_pos hended),
  -- LANE_LOCK_DECLARED
  fun _ _ hlane hpll => (if_neg hlane).trans (if_neg hpll),
  -- LANE_LOCK_LOST
  fun _ _ hlane hpll hno => (if_neg hlane).trans ((if_neg hpll).trans (if_neg hno))⟩

/-- Settles O42. A data or credit cell that is taken runs the rules of its type (R378); the timeouts match the record they
end. -/
theorem cellsComplete : Obligations.CellsComplete := ⟨
  -- FRAME_TAIL
  fun _ _ hport hplane _ hpid => (if_neg hport).trans ((if_neg hplane).trans (by simp only [hpid])),
  -- DISPATCH_SELECTION
  fun _ hplane => if_neg hplane,
  -- DATA_CELL
  fun lane cell s₀ htaken => (receiveCell_taken htaken : execDataCell lane cell s₀ = _),
  -- RESEQUENCE_TIMEOUT
  fun _ _ _ _ hunit hpll hended => (if_neg hunit).trans ((if_neg hpll).trans (if_pos hended)),
  -- REASSEMBLY_TIMEOUT
  fun _ _ _ _ _ _ hunit hpll hended => (if_neg hunit).trans ((if_neg hpll).trans (if_neg hended)),
  -- PROTECTED_COPY_COMPLETE
  fun _ _ _ _ hunit hpll _ _ hsome heq => (if_neg hunit).trans ((if_neg hpll).trans (by simp only [hsome, heq])),
  fun _ _ _ _ hunit hpll _ _ hsome heq => (if_neg hunit).trans ((if_neg hpll).trans (by simp only [hsome, heq])),
  fun _ _ _ _ hunit hpll _ _ hsome _ heq => (if_neg hunit).trans ((if_neg hpll).trans (by simp only [hsome, heq])),
  -- REASSEMBLY_COMPLETE
  fun s _ _ hcons hplane =>
    (by simp only [execReassemblyComplete, hcons, if_neg hplane] : execReassemblyComplete s = _),
  -- WINDOW_IDLE_EXPIRY
  fun _ _ _ hunit hpll _ hw hended => (if_neg hunit).trans ((if_neg hpll).trans (by simp only [hw, if_pos hended])),
  -- CREDIT_REQUEST
  fun rx s₀ htaken => (receiveCell_taken htaken : execCreditRequest rx s₀ = _),
  -- CREDIT_REQUEST_REFRESH
  fun _ _ hvoq hended => (if_neg hvoq).trans (if_neg hended),
  -- VOQ_ACTIVE_TIMEOUT
  fun _ _ _ hunit hpll _ ht hended => (if_neg hunit).trans ((if_neg hpll).trans (by simp only [ht, if_pos hended])),
  -- CREDIT_ISSUE
  fun _ _ hbound hbound2 _ htc _ hkey => (if_neg hbound).trans ((if_neg hbound2).trans (by simp only [htc, hkey])),
  -- GRANT_BATCH_TIMEOUT
  fun _ _ hsrc hpll _ hg hended => (if_neg hsrc).trans ((if_neg hpll).trans (by simp only [hg, if_pos hended])),
  -- CREDIT_GRANT
  fun rx s₀ htaken => (receiveCell_taken htaken : execCreditGrant rx s₀ = _),
  -- CREDIT_KEEP_EXPIRY
  fun _ _ hvoq hpll hended => (if_neg hvoq).trans ((if_neg hpll).trans (if_neg hended))⟩

/-- Settles O43. An event of a port matches the head of the queue that it serves; the commands only test their operands. -/
theorem editComplete : Obligations.EditComplete := ⟨
  -- EDIT_PROGRAM_SET
  fun _ _ hacc hrange => serve_answered hacc (if_neg hrange),
  -- MCAST_GROUP_SET
  fun _ _ hacc hunit hyes => serve_answered hacc ((if_neg hunit).trans (if_pos hyes)),
  fun _ _ hacc hunit hno hbound hno2 _ hbase =>
    serve_answered hacc ((if_neg hunit).trans ((if_neg hno).trans ((if_neg hbound).trans ((if_neg hno2).trans
      (by simp only [hbase]))))),
  -- MCAST_GROUP_GET
  fun _ _ hacc => serve_answered hacc rfl,
  -- EDIT_PORT_SET
  fun _ _ hacc hexists => serve_answered hacc (if_neg hexists),
  -- MCAST_CONFIG
  fun _ _ hacc hrange => serve_answered hacc (if_neg hrange),
  -- EDIT_TEST
  fun _ _ hacc hrange hno => serve_answered hacc ((if_neg hrange).trans (if_neg hno)),
  -- EDIT_COUNTERS_GET
  fun _ _ hacc => serve_answered hacc rfl,
  -- EDIT_PACKET
  fun _ _ hport _ _ hcons hplane hnone => (if_neg hport).trans (by simp only [hcons, if_neg hplane, hnone]),
  fun _ _ hport _ _ hcons hplane _ hn hyes =>
    (if_neg hport).trans (by simp only [hcons, if_neg hplane, hn, if_pos hyes] <;> rfl),
  fun _ _ hport _ _ hcons hplane _ hn hno =>
    (if_neg hport).trans (by simp only [hcons, if_neg hplane, hn, if_neg hno] <;> rfl),
  -- TRANSMIT_START
  fun _ _ hport _ _ hcons hexists => (if_neg hport).trans (by simp only [hcons]; exact if_neg hexists),
  -- MCAST_BLOCK_RELEASE
  fun _ _ hpll hyes => (if_neg hpll).trans (if_pos hyes),
  -- EDIT_ENGINE_ERROR
  fun _ _ _ hengine hlisted => (if_neg hengine).trans (if_neg hlisted)⟩

/-- Settles O44. Retiring a channel may leave its command open, and restoring one stands even where it does not train (log 17). -/
theorem hbmCommandsComplete : Obligations.HbmCommandsComplete := ⟨
  -- HBM_CONFIG
  fun _ _ hacc hrange => serve_answered hacc (if_neg hrange),
  -- HBM_STATUS_GET
  fun _ _ hacc hrange => serve_answered hacc (if_neg hrange),
  -- HBM_RETRAIN
  fun _ _ hacc hunit hno => serve_answered hacc ((if_neg hunit).trans (if_neg hno)),
  -- HBM_PC_RETIRE
  fun _ _ hacc hbound hyes => serve_answered hacc ((if_neg hbound).trans (if_pos hyes)),
  fun _ _ hacc hbound hno => serve_opened hacc ((if_neg hbound).trans (if_neg hno)),
  -- HBM_PC_RESTORE
  fun _ _ hacc hunit hyes => serve_finished hacc ((if_neg hunit).trans (if_pos hyes)) rfl,
  fun _ _ hacc hunit hno => serve_answered hacc ((if_neg hunit).trans (if_neg hno)),
  -- HBM_COUNTERS_GET
  fun _ _ hacc => serve_answered hacc rfl⟩

/-- Settles O45. An event tests the number of its unit first; what it ends or repeats is an option of that unit's record. -/
theorem hbmEventsComplete : Obligations.HbmEventsComplete := ⟨
  -- HBM_REQUEST
  fun _ _ _ _ _ _ hunit hno => (if_neg hunit).trans (if_neg hno),
  -- REQUEST_URGENCY_RISE
  fun _ _ hpll _ hr hbound => (if_neg hpll).trans (by simp only [hr, if_neg hbound]),
  -- HBM_REFRESH_DUE
  fun _ _ _ hunit hno hbound => (if_neg hunit).trans ((if_neg hno).trans (if_pos hbound)),
  fun _ _ _ hunit hno hbound hyes => (if_neg hunit).trans ((if_neg hno).trans ((if_neg hbound).trans (if_pos hyes))),
  fun _ _ _ hunit hno hbound hno2 => (if_neg hunit).trans ((if_neg hno).trans ((if_neg hbound).trans (if_neg hno2))),
  -- SELF_REFRESH_IDLE
  fun _ _ hstack hpll hmode hyes => (if_neg hstack).trans ((if_neg hpll).trans ((if_neg hmode).trans (if_pos hyes))),
  fun _ _ hstack hpll hmode hno hended =>
    (if_neg hstack).trans ((if_neg hpll).trans ((if_neg hmode).trans ((if_neg hno).trans (if_pos hended)))),
  -- SELF_REFRESH_EXIT
  fun _ _ hstack hpll hended => (if_neg hstack).trans ((if_neg hpll).trans (if_pos hended)),
  -- HBM_PARITY_ERROR
  fun _ _ _ hchannel hpll hlisted hheld hbound =>
    (if_neg hchannel).trans ((if_neg hpll).trans ((if_neg hlisted).trans ((if_pos hheld).trans (if_pos hbound)))),
  fun _ _ _ hchannel hpll hlisted hheld hbound =>
    (if_neg hchannel).trans ((if_neg hpll).trans ((if_neg hlisted).trans ((if_pos hheld).trans (if_neg hbound)))),
  fun _ _ _ hchannel hpll hlisted hheld =>
    (if_neg hchannel).trans ((if_neg hpll).trans ((if_neg hlisted).trans (if_neg hheld))),
  -- HBM_READ_ERROR
  fun _ _ _ _ _ _ _ hunit hno => (if_neg hunit).trans (if_neg hno),
  -- HBM_TRACKING
  fun _ _ _ hchannel hheld => (if_neg hchannel).trans (if_neg hheld),
  -- PLANNED_RETRAIN_TRIGGER
  fun _ _ hchannel hyes => (if_neg hchannel).trans (if_pos hyes),
  -- EVACUATION_COMPLETE
  fun _ _ hchannel hpll hheld _ ht =>
    (if_neg hchannel).trans ((if_neg hpll).trans ((if_neg hheld).trans (by simp only [ht]))),
  -- EVACUATION_TIMEOUT
  fun _ _ hchannel hpll _ ht hended => (if_neg hchannel).trans ((if_neg hpll).trans (by simp only [ht, if_neg hended])),
  -- EVACUATION_SLOT_RELEASE
  fun _ _ hpll hlisted => (if_neg hpll).trans (if_pos hlisted),
  -- CHANNEL_TRAINING_END
  fun _ _ _ _ hchannel hpll hheld => (if_neg hchannel).trans ((if_neg hpll).trans (if_neg hheld)),
  -- COUNTER_SCRUB
  fun _ _ _ _ haccess _ hgood hno => (if_neg haccess).trans (by simp only [hgood, if_neg hno]),
  -- STACK_TEMPERATURE_REPORT
  fun _ _ _ hstack hpll => (if_neg hstack).trans (if_neg hpll),
  -- REPLAY_REISSUE
  fun _ _ hchannel hpll hheld => (if_neg hchannel).trans ((if_neg hpll).trans (if_neg hheld)),
  -- ROW_REPAIR_DONE
  fun _ _ _ hunit hpll _ _ _ _ hcons hyes =>
    (if_neg hunit).trans ((if_neg hpll).trans (by simp only [hcons, if_pos hyes])),
  fun _ _ _ hunit hpll _ _ _ _ hcons hno =>
    (if_neg hunit).trans ((if_neg hpll).trans (by simp only [hcons, if_neg hno]))⟩

end Sys2Proof.Machine
end

section
/-! In which states the rows of the time base and of the hierarchy complete (13_time.md, 15_device_hierarchy.md). -/
namespace Sys2Proof.Machine
open Sys2Proof

/-- Settles O46. A timed step and an output pulse match what is staged for them, then compare the time base with it. -/
theorem timeComplete : Obligations.TimeComplete := ⟨
  -- TIME_GET
  fun _ _ hacc => serve_answered hacc rfl,
  -- TIME_INCREMENT_SET
  fun _ _ hacc hrange => serve_answered hacc (if_neg hrange),
  -- TIME_STEP
  fun _ _ hacc hno hheld hbound => serve_finished hacc ((if_neg hno).trans ((if_neg hheld).trans (if_pos hbound))) rfl,
  fun _ _ hacc hno hheld hbound hyes =>
    serve_finished hacc ((if_neg hno).trans ((if_neg hheld).trans ((if_neg hbound).trans (if_pos hyes)))) rfl,
  fun _ _ hacc hno hheld hbound hno2 hyes =>
    serve_answered hacc ((if_neg hno).trans ((if_neg hheld).trans ((if_neg hbound).trans ((if_neg hno2).trans
      (if_pos hyes))))),
  fun _ _ hacc hno hheld hbound hno2 hno3 =>
    serve_answered hacc ((if_neg hno).trans ((if_neg hheld).trans ((if_neg hbound).trans ((if_neg hno2).trans
      (if_neg hno3))))),
  -- TIME_SET
  fun _ _ hacc hyes => serve_finished hacc (if_pos hyes) rfl,
  fun _ _ hacc hno => serve_answered hacc (if_neg hno),
  -- TIME_CONFIG
  fun _ _ hacc hrange => serve_answered hacc (if_neg hrange),
  -- TS_PORT_SET
  fun _ _ hacc hexists => serve_answered hacc (if_neg hexists),
  -- PPS_CONFIG
  fun _ _ hacc hrange => serve_answered hacc (if_neg hrange),
  -- TIME_COUNTERS_GET
  fun _ _ hacc => serve_answered hacc rfl,
  -- TIMED_STEP_DUE
  fun _ hpll _ hx hno => (if_neg hpll).trans (by simp only [hx, if_neg hno]),
  -- HOLDOVER_TIMEOUT
  fun _ hpll hended => (if_neg hpll).trans (if_pos hended),
  -- PPS_OUT_TARGET
  fun _ hyes => if_pos hyes,
  -- PPS_OUT_WIDTH_END
  fun _ hended => if_pos hended,
  -- PPS_IN_EDGE
  fun _ hno hbound => (if_neg hno).trans (if_pos hbound),
  fun _ hno hbound => (if_neg hno).trans (if_neg hbound),
  -- PPS_IN_LOST
  fun _ hpll _ _ hsome hended => (if_neg hpll).trans (by simp only [hsome, if_pos hended])⟩

/-- Settles O47. A distribution that is over at once stands with its own status (R605); otherwise its command stays open. -/
theorem hierarchyCommandsComplete : Obligations.HierarchyCommandsComplete := ⟨
  -- HIERARCHY_CONFIG
  fun _ _ hacc hrange => serve_answered hacc (if_neg hrange),
  -- HIER_STATUS_GET
  fun _ _ hacc => serve_answered hacc rfl,
  -- HIER_DEPUTY_SET
  fun _ _ hacc hlisted hno => serve_answered hacc ((if_neg hlisted).trans (if_neg hno)),
  -- HIER_MODE_CHANGE
  fun _ _ hacc hrange hheld hyes =>
    serve_finished hacc ((if_neg hrange).trans ((if_neg hheld).trans (if_pos hyes))) rfl,
  fun _ _ hacc hrange hheld hno => serve_opened hacc ((if_neg hrange).trans ((if_neg hheld).trans (if_neg hno))),
  -- HIER_MEMBER_REMOVE
  fun _ _ hacc hlisted => serve_answered hacc (if_neg hlisted),
  -- HIER_COUNTERS_GET
  fun _ _ hacc => serve_answered hacc rfl,
  -- HIER_CLAIM
  fun _ _ hacc hyes => serve_answered hacc (if_pos hyes),
  -- HIER_DISTRIBUTE
  fun _ _ hacc hlisted _ hd => serve_stands hacc ((if_neg hlisted).trans (by simp only [hd])) rfl,
  fun _ _ hacc hlisted hnone => serve_opened hacc ((if_neg hlisted).trans (by simp only [hnone])),
  -- RELAY_COMMAND
  fun path h relayId offset total entry data s₀ hheard =>
    (receiveMsg_heard hheard : execRelayCommand path h relayId offset total entry data s₀ = _)⟩

/-- Settles O48. A message that is heard runs the rules of its type in the state in which it is delivered (R588). -/
theorem coordinationMessagesComplete : Obligations.CoordinationMessagesComplete := ⟨
  -- TIME_SYNC
  fun path h offset newInc step s₀ hheard => (receiveMsg_heard hheard : execTimeSync path h offset newInc step s₀ = _),
  -- HEARTBEAT
  fun path h _t32 role mode flags _deputy _members s₀ hheard =>
    (receiveMsg_heard hheard : execHeartbeat path h _t32 role mode flags _deputy _members s₀ = _),
  -- ACK
  fun path h acked _status s₀ hheard => (receiveMsg_heard hheard : execAck path h acked _status s₀ = _),
  -- ANNOUNCE
  fun path h priority role s₀ hheard => (receiveMsg_heard hheard : execAnnounce path h priority role s₀ = _),
  -- JOIN_REQUEST
  fun path h version priority _ordering _svn _fwVersion mode s₀ hheard =>
    (receiveMsg_heard hheard : execJoinRequest path h version priority _ordering _svn _fwVersion mode s₀ = _),
  -- JOIN_ACCEPT
  fun path h members deputy managerT32 s₀ hheard =>
    (receiveMsg_heard hheard : execJoinAccept path h members deputy managerT32 s₀ = _),
  -- JOIN_REJECT
  fun path h _reason s₀ hheard => (receiveMsg_heard hheard : execJoinReject path h _reason s₀ = _),
  -- LEAVE
  fun path h _cause s₀ hheard => (receiveMsg_heard hheard : execLeave path h _cause s₀ = _),
  -- MEMBER_UPDATE
  fun path h members deputy s₀ hheard => (receiveMsg_heard hheard : execMemberUpdate path h members deputy s₀ = _),
  -- RELAY_COMPLETION
  fun path h relayId offset total status resultLength applied failIndex detail result s₀ hheard =>
    (receiveMsg_heard hheard :
      execRelayCompletion path h relayId offset total status resultLength applied failIndex detail result s₀ = _),
  -- RELAY_EVENT
  fun path h code t32 data s₀ hheard => (receiveMsg_heard hheard : execRelayEvent path h code t32 data s₀ = _),
  -- PREPARE
  fun path h newEpoch mode t members s₀ hheard =>
    (receiveMsg_heard hheard : execPrepare path h newEpoch mode t members s₀ = _),
  -- READY
  fun path h newEpoch s₀ hheard => (receiveMsg_heard hheard : execReady path h newEpoch s₀ = _),
  -- REFUSE
  fun path h newEpoch _status s₀ hheard => (receiveMsg_heard hheard : execRefuse path h newEpoch _status s₀ = _),
  -- COMMIT
  fun path h newEpoch mode t s₀ hheard => (receiveMsg_heard hheard : execCommit path h newEpoch mode t s₀ = _),
  -- ABORT
  fun path h newEpoch s₀ hheard => (receiveMsg_heard hheard : execAbort path h newEpoch s₀ = _),
  -- MODE_QUERY
  fun path h newEpoch s₀ hheard => (receiveMsg_heard hheard : execModeQuery path h newEpoch s₀ = _),
  -- TAKEOVER
  fun path h _oldManager newDeputy s₀ hheard =>
    (receiveMsg_heard hheard : execTakeover path h _oldManager newDeputy s₀ = _),
  -- SNOWDROP_OFFER
  fun path h dieIds _cause s₀ hheard => (receiveMsg_heard hheard : execSnowdropOffer path h dieIds _cause s₀ = _),
  -- SNOWDROP_RESULT
  fun path h code nextOffset s₀ hheard => (receiveMsg_heard hheard : execSnowdropResult path h code nextOffset s₀ = _)⟩

/-- Settles O49. A timer without a number starts with the record that it ends, so its clause is an equation of its row. -/
theorem hierarchyTimersComplete : Obligations.HierarchyTimersComplete := ⟨
  -- RELAY_TIMEOUT
  fun relayId s _ hr hended => (by simp only [execRelayTimeout, hr, if_pos hended] : execRelayTimeout relayId s = _),
  -- TIME_SYNC_SEND
  fun _ hended => if_neg hended,
  -- TIME_SYNC_LOSS
  fun _ hended => if_pos hended,
  -- ELECTION_WINDOW_END
  fun _ hheld => if_neg hheld,
  -- ANNOUNCE_SEND
  fun _ hended => if_neg hended,
  -- JOIN_REQUEST_REPEAT
  fun s _ _ ht hm hended => (by simp only [execJoinRequestRepeat, ht, hm, if_pos hended] : execJoinRequestRepeat s = _),
  -- COORD_HEARTBEAT_SEND
  fun _ hended hyes => (if_neg hended).trans (if_pos hyes),
  fun _ hended hno => (if_neg hended).trans (if_neg hno),
  -- COORD_TIMEOUT
  fun _ _ _ hunit hyes => (if_neg hunit).trans (if_pos hyes),
  -- LEAVE_HOLD_EXPIRY
  fun _ _ hpeer _ ht hended => (if_neg hpeer).trans (by simp only [ht, if_pos hended]),
  -- TAKEOVER_HOLD_EXPIRY
  fun s _ ht hended hyes =>
    (by simp only [execTakeoverHoldExpiry, ht, if_neg hended, if_pos hyes] : execTakeoverHoldExpiry s = _),
  fun s _ ht hended hno =>
    (by simp only [execTakeoverHoldExpiry, ht, if_neg hended, if_neg hno] : execTakeoverHoldExpiry s = _),
  -- PREPARE_REPLY_TIMEOUT
  fun s _ hc _ hf hended =>
    (by simp only [execPrepareReplyTimeout, hc, hf, if_pos hended] : execPrepareReplyTimeout s = _),
  -- MODE_COMMIT_DUE
  fun s _ hx hyes => (by simp only [execModeCommitDue, hx, if_pos hyes] : execModeCommitDue s = _),
  -- COMMIT_UNCERTAIN
  fun s _ hx hyes => (by simp only [execCommitUncertain, hx, if_pos hyes] : execCommitUncertain s = _),
  -- MODE_QUERY_SEND
  fun s _ _ hx hm hended => (by simp only [execModeQuerySend, hx, hm, if_pos hended] : execModeQuerySend s = _),
  -- DECISION_RESEND
  fun s _ hc hended => (by simp only [execDecisionResend, hc, if_pos hended] : execDecisionResend s = _),
  -- MODE_CHANGE_DEADLINE
  fun s _ hc hyes => (by simp only [execModeChangeDeadline, hc, if_pos hyes] : execModeChangeDeadline s = _),
  -- COORD_LINK_DOWN
  fun _ _ hlink => if_neg hlink,
  -- COORD_LINK_UP
  fun _ _ hlink hlisted => (if_neg hlink).trans (if_neg hlisted),
  -- MESSAGE_RESEND
  fun msgSeq s _ hu hended hbound =>
    (by simp only [execMessageResend, hu, if_neg hended, if_pos hbound] : execMessageResend msgSeq s = _),
  fun msgSeq s _ hu hended hbound =>
    (by simp only [execMessageResend, hu, if_neg hended, if_neg hbound] : execMessageResend msgSeq s = _)⟩

end Sys2Proof.Machine
end

section
/-! In which states the rows of firmware, modes, telemetry and the package complete (16_firmware.md, 17_modes_and_repair.md,
18_counters.md, 19_package_power.md). -/
namespace Sys2Proof.Machine
open Sys2Proof

/-- Settles O50. FW_ACTIVATE and FW_SNOWDROP_PUSH leave their commands open; the others are answered, some with a failure
that keeps its effects. -/
theorem firmwareCommandsComplete : Obligations.FirmwareCommandsComplete := ⟨
  -- FW_DOWNLOAD
  fun _ _ hacc hheld hyes hunit => serve_finished hacc ((if_neg hheld).trans ((if_pos hyes).trans (if_neg hunit))) rfl,
  fun _ _ hacc hheld hno hbound => serve_finished hacc ((if_neg hheld).trans ((if_neg hno).trans (if_neg hbound))) rfl,
  -- FW_VERIFY
  fun _ _ hacc hno hno2 => serve_answered hacc ((if_neg hno).trans (if_neg hno2)),
  -- FW_ACTIVATE
  fun _ _ hacc hheld hno hno2 => serve_opened hacc ((if_neg hheld).trans ((if_neg hno).trans (if_neg hno2))),
  -- FW_CONFIRM
  fun _ _ hacc hyes => serve_answered hacc (if_pos hyes),
  -- FW_REVERT
  fun _ _ hacc hno => serve_answered hacc (if_neg hno),
  -- FW_STATUS_GET
  fun _ _ hacc => serve_answered hacc rfl,
  -- FW_UPDATE_CONFIG
  fun _ _ hacc hrange => serve_answered hacc (if_neg hrange),
  -- FW_SVN_COMMIT
  fun _ _ hacc hno hbound => serve_answered hacc ((if_neg hno).trans (if_pos hbound)),
  fun _ _ hacc hno hbound => serve_answered hacc ((if_neg hno).trans (if_neg hbound)),
  -- ATTEST_KEY_GET
  fun _ _ hacc => serve_answered hacc rfl,
  -- ATTEST_QUOTE
  fun _ _ hacc hnone => serve_finished hacc (by simp only [hnone]) rfl,
  fun _ _ hacc _ hi hi2 hbound => serve_answered hacc (by simp only [hi, if_neg hi2, if_neg hbound]),
  -- FE_RESTART
  fun _ _ hacc hheld => serve_answered hacc (if_neg hheld),
  -- FW_SNOWDROP_PUSH
  fun _ _ hacc hno hheld hno2 hheld2 =>
    serve_opened hacc ((if_neg hno).trans ((if_neg hheld).trans ((if_neg hno2).trans (if_neg hheld2))))⟩

/-- Settles O51. The events of an activation match its record; what ROM_START does depends on the mode and the boot it
finds. -/
theorem firmwareEventsComplete : Obligations.FirmwareEventsComplete := ⟨
  -- ROM_START
  fun _ _ hmode hyes => (if_neg hmode).trans (if_pos hyes),
  fun _ _ hmode hno hyes => (if_neg hmode).trans ((if_neg hno).trans (if_pos hyes)),
  fun _ _ hmode hno hno2 => (if_neg hmode).trans ((if_neg hno).trans (if_neg hno2)),
  -- ACTIVATION_PAUSE
  fun s _ ha hno hmode hheld =>
    (by simp only [execActivationPause, ha, if_neg hno, if_pos hmode, if_pos hheld] : execActivationPause s = _),
  fun s _ ha hno hmode =>
    (by simp only [execActivationPause, ha, if_neg hno, if_neg hmode] : execActivationPause s = _),
  -- IMAGE_RESUMES_FETCHING
  fun _ hno _ ha hyes => (if_neg hno).trans (by simp only [ha, if_pos hyes]),
  fun _ hno hnone _ ht hended => (if_neg hno).trans (by simp only [hnone, ht, if_neg hended]),
  -- ACTIVATION_TIMEOUT
  fun s _ ha hyes => (by simp only [execActivationTimeout, ha, if_pos hyes] : execActivationTimeout s = _),
  -- FLASH_UPDATE_COMPLETE
  fun _ _ hno _ hsector hno2 => (if_neg hno).trans (by simp only [hsector, if_neg hno2]),
  fun _ _ hno hnone hyes => (if_neg hno).trans (by simp only [hnone, if_pos hyes]),
  fun _ _ hno hnone hno2 => (if_neg hno).trans (by simp only [hnone, if_neg hno2]),
  -- IMAGE_CONFIRM
  fun s _ hr hended => (by simp only [execImageConfirm, hr, if_pos hended] : execImageConfirm s = _),
  -- CONFIRM_WINDOW_END
  fun _ hended => if_pos hended,
  -- FE_FIRMWARE_FAILURE
  fun _ _ _ hbound hended => (if_neg hbound).trans (if_pos hended),
  -- FE_RESTART_TIMEOUT
  fun s _ ht hended => (by simp only [execFeRestartTimeout, ht, if_pos hended] : execFeRestartTimeout s = _),
  -- IMAGE_READY
  fun _ _ hyes => if_pos hyes,
  -- SNOWDROP_CHUNK
  fun _ _ _ _ _ _ hpath hlisted hyes => (if_neg hpath).trans ((if_neg hlisted).trans (if_pos hyes)),
  fun _ _ _ _ _ _ hpath hlisted hno hno2 hlisted2 =>
    (if_neg hpath).trans ((if_neg hlisted).trans ((if_neg hno).trans ((if_neg hno2).trans (if_pos hlisted2)))),
  fun _ _ _ _ _ _ hpath hlisted hno hno2 hlisted2 hyes =>
    (if_neg hpath).trans ((if_neg hlisted).trans ((if_neg hno).trans ((if_neg hno2).trans ((if_neg hlisted2).trans
      (if_pos hyes))))),
  fun _ _ _ _ _ _ hpath hlisted hno hno2 hlisted2 hno3 =>
    (if_neg hpath).trans ((if_neg hlisted).trans ((if_neg hno).trans ((if_neg hno2).trans ((if_neg hlisted2).trans
      (if_neg hno3))))),
  -- SNOWDROP_OFFER_SEND
  fun _ hended => if_neg hended⟩

/-- Settles O52. An event tests the number of its unit first, then what the record of that unit holds. -/
theorem modesComplete : Obligations.ModesComplete := ⟨
  -- MODE_SET
  fun _ _ hacc hyes hno => serve_answered hacc ((if_pos hyes).trans (if_neg hno)),
  fun _ _ hacc hno hrange hrange2 hmode hmode2 =>
    serve_answered hacc ((if_neg hno).trans ((if_neg hrange).trans ((if_neg hrange2).trans ((if_neg hmode).trans
      (if_neg hmode2))))),
  -- MODE_STATUS_GET
  fun _ _ hacc => serve_answered hacc rfl,
  -- REPAIR_STATUS_GET
  fun _ _ hacc => serve_answered hacc rfl,
  -- REPAIR_MAP_READ
  fun _ _ hacc hrange => serve_answered hacc (if_neg hrange),
  -- DEVICE_RESET
  fun _ _ hacc => serve_answered hacc rfl,
  -- REPAIR_CONFIG
  fun _ _ hacc hrange => serve_answered hacc (if_neg hrange),
  -- D2D_FLIT_ERROR
  fun _ _ hmodule hlisted => (if_neg hmodule).trans (if_neg hlisted),
  -- D2D_LANE_FAULT
  fun _ _ _ _ hunit hlisted hbound => (if_neg hunit).trans ((if_neg hlisted).trans (if_pos hbound)),
  fun _ _ _ _ hunit hlisted hbound hbound2 =>
    (if_neg hunit).trans ((if_neg hlisted).trans ((if_neg hbound).trans (if_pos hbound2))),
  fun _ _ _ _ hunit hlisted hbound hbound2 hbound3 =>
    (if_neg hunit).trans ((if_neg hlisted).trans ((if_neg hbound).trans ((if_neg hbound2).trans (if_pos hbound3)))),
  fun _ _ _ _ hunit hlisted hbound hbound2 hbound3 =>
    (if_neg hunit).trans ((if_neg hlisted).trans ((if_neg hbound).trans ((if_neg hbound2).trans (if_neg hbound3)))),
  -- DEGRADED_CONDITION_ARISES
  fun _ _ hbit hyes => (if_neg hbit).trans (if_pos hyes),
  -- DEGRADED_CONDITION_CLEARS
  fun _ _ hbit hyes => (if_neg hbit).trans (if_pos hyes),
  -- DRAIN_COMPLETE
  fun _ hmode => if_pos hmode,
  -- TM_DEPUTY_CLEAR
  fun _ hended => if_pos hended,
  -- TM_CORE_FAILURE
  fun _ _ hcore hlisted hbound => (if_neg hcore).trans ((if_neg hlisted).trans (if_pos hbound)),
  fun _ _ hcore hlisted hbound => (if_neg hcore).trans ((if_neg hlisted).trans (if_neg hbound)),
  -- SPARE_ROW_FILLED
  fun _ _ hmacro_ hpll hheld => (if_neg hmacro_).trans ((if_neg hpll).trans (if_pos hheld)),
  -- REPAIR_MAP_COMMIT
  fun _ _ hno hheld => (if_neg hno).trans (if_pos hheld),
  -- REPAIR_MAP_RETRY
  fun _ _ hno _ ht hended => (if_neg hno).trans (by simp only [ht, if_pos hended]),
  -- RESET_DELAY_EXPIRY
  fun s _ ht hended => (by simp only [execResetDelayExpiry, ht, if_pos hended] : execResetDelayExpiry s = _),
  -- FW_HEARTBEAT_TICK
  fun _ hended => if_pos hended,
  -- FW_HALTED_TIMEOUT
  fun _ hended => if_pos hended,
  -- SRAM_ERROR
  fun _ _ _ _ _ _ _ hunit hpll => (if_neg hunit).trans (if_neg hpll)⟩

/-- Settles O53. Past its checks each command is answered; an event tests its operands and the root PLL, then its record. -/
theorem telemetryComplete : Obligations.TelemetryComplete := ⟨
  -- PERF_COUNTER_CONFIG
  fun _ _ hacc hunit hno => serve_answered hacc ((if_neg hunit).trans (if_neg hno)),
  -- PERF_CONTROL
  fun _ _ hacc hunit hyes => serve_answered hacc ((if_neg hunit).trans (if_pos hyes)),
  fun _ _ hacc hunit hno hheld => serve_answered hacc ((if_neg hunit).trans ((if_neg hno).trans (if_neg hheld))),
  -- PERF_COUNTER_READ
  fun _ _ hacc hbound => serve_answered hacc (if_neg hbound),
  -- HISTOGRAM_CONFIG
  fun _ _ hacc hrange hno => serve_answered hacc ((if_neg hrange).trans (if_neg hno)),
  -- PSAMPLE_CONFIG
  fun _ _ hacc hrange => serve_answered hacc (if_neg hrange),
  -- TELEMETRY_CONFIG
  fun _ _ hacc hrange hno hno2 => serve_answered hacc ((if_neg hrange).trans ((if_neg hno).trans (if_neg hno2))),
  -- TELEMETRY_COUNTERS_GET
  fun _ _ hacc => serve_answered hacc rfl,
  -- PERF_CONTROL_DUE
  fun _ hpll _ hx hyes => (if_neg hpll).trans (by simp only [hx, if_pos hyes]),
  -- PERF_OVERFLOW
  fun _ _ _ hunit hno => (if_neg hunit).trans (if_neg hno),
  -- HISTOGRAM_WINDOW_END
  fun _ _ hk hpll hheld => (if_neg hk).trans ((if_neg hpll).trans (if_neg hheld)),
  -- PSAMPLE_RECORD
  fun _ _ _ _ _ _ _ hunit hno => (if_neg hunit).trans (if_neg hno),
  -- TELEMETRY_FLUSH
  fun _ hpll hended => (if_neg hpll).trans (if_pos hended)⟩

/-- Settles O54. An event of a sensor tests its number, then the mode, then what was measured. -/
theorem packageComplete : Obligations.PackageComplete := ⟨
  -- PKG_STATUS_GET
  fun _ _ hacc => serve_answered hacc rfl,
  -- THERMAL_CONFIG
  fun _ _ hacc hrange => serve_answered hacc (if_neg hrange),
  -- ALARM_INPUT_CONFIG
  fun _ _ hacc hrange => serve_answered hacc (if_neg hrange),
  -- PKG_INPUT_UNMASK
  fun _ _ hacc => serve_answered hacc rfl,
  -- AUX_STATUS_CLEAR
  fun _ _ hacc hno => serve_answered hacc (if_neg hno),
  -- AUX_REGISTER_WRITE
  fun _ _ _ hno => if_neg hno,
  -- ROOT_PLL_LOCK
  fun _ hmode => if_neg hmode,
  -- PLL_LOCK_RETRY
  fun _ hmode => if_pos hmode,
  -- ROOT_PLL_LOSS
  fun _ hmode hyes => (if_neg hmode).trans (if_pos hyes),
  fun _ hmode hno hmode2 => (if_neg hmode).trans ((if_neg hno).trans (if_pos hmode2)),
  fun _ hmode hno hmode2 => (if_neg hmode).trans ((if_neg hno).trans (if_neg hmode2)),
  -- MAIN_POWER_LOSS
  fun _ hmode => if_neg hmode,
  -- RAIL_FAULT
  fun _ _ hrail hmode => (if_neg hrail).trans (if_neg hmode),
  -- MAIN_RAILS_GOOD
  fun _ => rfl,
  -- VAUX_CHANGE
  fun _ _ hmode => if_pos hmode,
  fun _ _ hmode hrange => (if_neg hmode).trans (if_pos hrange),
  fun _ _ hmode hrange hbound => (if_neg hmode).trans ((if_neg hrange).trans (if_pos hbound)),
  fun _ _ hmode hrange hbound => (if_neg hmode).trans ((if_neg hrange).trans (if_neg hbound)),
  -- THERMAL_ALARM
  fun _ _ _ hsensor hmode hbound => (if_neg hsensor).trans ((if_neg hmode).trans (if_pos hbound)),
  fun _ _ _ hsensor hmode hbound hbound2 =>
    (if_neg hsensor).trans ((if_neg hmode).trans ((if_neg hbound).trans (if_pos hbound2))),
  fun _ _ _ hsensor hmode hbound hbound2 =>
    (if_neg hsensor).trans ((if_neg hmode).trans ((if_neg hbound).trans (if_neg hbound2))),
  -- THERMAL_TRIP
  fun _ _ _ hsensor hmode => (if_neg hsensor).trans (if_neg hmode),
  -- TEMPERATURE_LOW
  fun _ _ _ hsensor hmode hbound => (if_neg hsensor).trans ((if_neg hmode).trans (if_pos hbound)),
  fun _ _ _ hsensor hmode hbound => (if_neg hsensor).trans ((if_neg hmode).trans (if_neg hbound)),
  -- SYS_RESET_ASSERTION
  fun _ hno hyes => (if_neg hno).trans (if_pos hyes),
  fun _ hno hno2 => (if_neg hno).trans (if_neg hno2),
  -- SYS_RESET_RELEASE
  fun _ => rfl,
  -- RESET_STUCK
  fun _ hended => if_pos hended,
  -- PERST_ASSERTION
  fun _ hyes => if_pos hyes,
  fun _ hno hyes => (if_neg hno).trans (if_pos hyes),
  fun _ hno hno2 => (if_neg hno).trans (if_neg hno2),
  -- PERST_UNMASK_TIMEOUT
  fun _ hended => if_pos hended,
  -- RECOVERY_STUCK
  fun _ => rfl,
  -- ALARM_INPUT_CHANGE
  fun _ _ _ hinput hended => (if_neg hinput).trans (if_neg hended),
  -- AUX_HEARTBEAT
  fun _ hended => if_neg hended,
  -- RAILS_BACK_IN_WINDOW
  fun _ hmode => if_neg hmode⟩

end Sys2Proof.Machine
end

section
/-! Two events that count although their frames leave no room for the counters (R68, Table 02-7; R557, R696). -/
namespace Sys2Proof.Machine
open Sys2Proof

theorem signalStatus_of_same {s t : State} (hstatus : t.modeStatus = s.modeStatus) (hhealth : t.health = s.health) :
    signalStatus s t = t := if_pos (by simp [hstatus, hhealth])

theorem signalStatus_of_health {s t : State} (hhealth : t.health ≠ s.health) : signalStatus s t = t.sendMsix 2 :=
  if_neg (by simp [hhealth.symm])

/-- An entry into LPI changes neither of the registers that vector 2 signals; it is counted under its port. -/
theorem lpiIdleEntry_changes_ctr {s : State} {port : Nat} (hport : port < 96) (hcounters : s.ctr = [])
    (hidle : (s.portExists port && (s.prt port).up && (s.prt port).cfg.lpiEn && mode100G (s.grp (port / 16)).mode &&
      !(s.prt port).lpi && (s.prt port).txBuf.isEmpty && (s.prt port).sending.isNone &&
      (s.mode.mode == mdForwarding || s.mode.mode == mdParked) &&
      s.ended (s.prt port).txEmpty (us (s.prt port).cfg.lpiIdle)) = true) :
    ¬ changesOnly [.hif, .port] (.lpiIdleEntry port) := by
  intro hframe
  have hexec : exec (.lpiIdleEntry port) s =
      .next ((s.setPrt port { s.prt port with lpi := true, lpiSince := s.time.ticks }).bump 207 12 port) :=
    (if_neg (Nat.not_le.mpr hport)).trans ((if_pos hidle).trans (congrArg Host.Outcome.next (signalStatus_of_same rfl rfl)))
  have hctr : ctrAdd s.ctr ⟨207, 12, port, 0⟩ 1 = s.ctr := hframe s _ hexec .ctr (by decide)
  rw [hcounters] at hctr
  exact List.cons_ne_nil _ _ hctr

/-- A device in Forwarding whose port 0, of a 100 Gb/s mode, is up with LPI enabled and has been idle for the 10 µs of its
idle-entry delay. -/
def portIdle : State := { State.reset with
  time.ticks := 7500
  mode.mode := mdForwarding
  port.groups := [(0, { mode := 5, running := 5 })]
  port.ports := [(0, { cfg := { lpiEn := true }, up := true })] }

/-- Refutes O59: in `portIdle` LPI_IDLE_ENTRY counts the entry, while its frame leaves no room for the counters. -/
theorem not_portAndPackageEventsFrame : ¬ Obligations.PortAndPackageEventsFrame := by
  unfold Obligations.PortAndPackageEventsFrame
  intro h
  obtain ⟨-, -, -, -, -, -, -, -, -, -, -, -, hlpi, -⟩ := h
  exact lpiIdleEntry_changes_ctr (s := portIdle) (port := 0) (by decide) rfl (by decide) (hlpi 0)

/-- Over a link that is up, with vector 2 not masked, a change of HIF_HEALTH bit 10 sends a message, which is counted. -/
theorem tmDeputyClear_changes_ctr {s : State} (hdeputy : s.mode.tmDeputy = true) (hruns : s.fwRuns = true)
    (hended : s.ended s.fw.hbSince (secs 10) = true) (hlink : s.hif.linkUp = true) (hmask : s.vecMasked 2 = false)
    (hcounters : s.ctr = []) : ¬ changesOnly [.hif, .mode] .tmDeputyClear := by
  intro hframe
  have hhealth : ({ s with mode.tmDeputy := false } : State).health ≠ s.health := by
    simp [State.health, hdeputy, b2n]
  have hexec : exec .tmDeputyClear s = .next (({ s with mode.tmDeputy := false } : State).sendMsix 2) :=
    (if_pos (by simp [hdeputy, hruns, hended])).trans (congrArg Host.Outcome.next (signalStatus_of_health hhealth))
  have hctr : ctrAdd s.ctr ⟨1418, 4, 2, 0⟩ 1 = s.ctr :=
    (sendMsix_ctr (s := { s with mode.tmDeputy := false }) hlink hmask).symm.trans (hframe s _ hexec .ctr (by decide))
  rw [hcounters] at hctr
  exact List.cons_ne_nil _ _ hctr

/-- A device that reports the TM die as its deputy, whose restarted firmware's heartbeat has run for 10 s, with its link up and
vector 2 not masked. -/
def deputyOver : State := { State.reset with
  time.ticks := secs 10
  mode.tmDeputy := true
  fw.runs := true
  aux.pllLocked := true
  hif.linkUp := true
  hif.bar := [(0x2002C, 1)] }

/-- Refutes O60: in `deputyOver` TM_DEPUTY_CLEAR changes HIF_HEALTH, whose message is counted, while its frame leaves no room for
the counters. -/
theorem not_unitEventsFrame : ¬ Obligations.UnitEventsFrame := by
  unfold Obligations.UnitEventsFrame
  intro h
  obtain ⟨-, -, -, -, -, -, -, -, -, -, -, -, -, -, -, -, -, -, -, -, -, -, -, -, -, -, -, -, -, -, -, -, -, -, -, -, -, -, -,
    -, -, -, -, -, -, hclear, -⟩ := h
  exact tmDeputyClear_changes_ctr (s := deputyOver) rfl rfl (by decide) rfl rfl rfl hclear

end Sys2Proof.Machine
end

section
/-! What a command may change: what its body changes, with what a completion or a relay changes, and the tables where the
command waits for the table write port (R21, R194, R530, R544). -/
namespace Sys2Proof.Machine
open Sys2Proof

section
variable {l : List Part} {s t : State} {x : CmdSpec} {body : Cmd → State → Res} {c : Cmd} {i : Instr}

theorem agreeOff_tbl {y : TablesSt} : AgreeOff [.tbl] s { s with tbl := y } := by
  intro p hp
  cases p <;> simp [Part.same] at hp ⊢

/-- What a result leaves changes only these parts of the state. -/
def Res.Within (l : List Part) (s : State) (r : Res) : Prop := AgreeOff l s r.st

section
variable {p : Prop} [Decidable p] {r r' : Res} {status applied failIndex detail needed : Nat} {result : Bytes}
  {async : Option OpenKind} {keep : Bool}

theorem Res.Within.of (h : AgreeOff l s t) :
    Res.Within l s { st := t, status, result, applied, failIndex, detail, needed, async, keep } := h

theorem Res.Within.same : Res.Within l s { st := s, status, result, applied, failIndex, detail, needed, async, keep } :=
  .of .refl

theorem Res.Within.err : (Res.err s status detail).Within l s := .same

/-- What both branches of a choice leave, the choice leaves. -/
theorem Res.Within.ite (h : r.Within l s) (k : r'.Within l s) : (if p then r else r').Within l s := by
  split
  · exact h
  · exact k

end

theorem relayTo_agreeOff (s : State) (opcode : Nat) (c : Cmd) (dist : Option Nat) :
    AgreeOff [.fab, .hier, .ctr] s (s.relayTo opcode c dist) :=
  .trans (.widen agreeOff_hier (by decide)) (.foldl (fun _ _ => sendMsg_agreeOff _ _ _ _ _) _)

theorem portWait_within {e : CmdEntry} (htbl : .tbl ∈ l) : (s.portWait e).Within l s :=
  .mono agreeOff_tbl (by simpa using htbl)

/-- Past the gates of the device a command waits for the table write port, or its body runs. -/
theorem runLocal_within (hwait : (x.ported c.payload && !s.tbl.port.isEmpty) = true → .tbl ∈ l)
    (hbody : (x.ported c.payload && !s.tbl.port.isEmpty) = false → (body c s).Within l s) :
    (runLocal x body c s).Within l s := by
  unfold runLocal
  refine .ite .err (.ite .err (.ite .err (.ite .err (.ite .err (.ite .same ?_)))))
  split
  · exact portWait_within (hwait ‹_›)
  · exact .ite (hbody (Bool.eq_false_iff.mpr ‹_›)) .same

/-- A command that names another device is relayed or fails; the others go through the gates of this one. -/
theorem gate_within (hl : countParts ⊆ l) (hwait : (x.ported c.payload && !s.tbl.port.isEmpty) = true → .tbl ∈ l)
    (hbody : (x.ported c.payload && !s.tbl.port.isEmpty) = false → (body c s).Within l s) :
    (gate x body c s).Within l s := by
  have hrelay : AgreeOff l s (s.relayTo x.opcode c none) := .mono (.widen (relayTo_agreeOff _ _ _ _) (by decide)) hl
  unfold gate
  exact .ite .err (.ite (.ite (.ite (.of hrelay) .err) .err) (runLocal_within hwait hbody))

/-- A command that is served ends with a completion; one that is not changes nothing. -/
theorem serve_agreeOff (hl : countParts ⊆ l) {f : Cmd → State → Res} (hf : (f c s).Within l s)
    (h : serve c f s = .next t) : AgreeOff l s t := by
  unfold serve at h
  split at h
  · cases h
    exact hf.trans (((finish_agreeOff _ _).andThen (signalStatus_agreeOff _ _) (by decide)).mono hl)
  · cases h
    exact .refl

/-- A command that does not go through the table write port changes what its body changes. -/
theorem changesOnly_of_body (hexec : ∀ s, exec i s = serve c (gate x body) s)
    (hported : ∀ b, x.ported b = false) (hl : countParts ⊆ l) (hbody : ∀ s, (body c s).Within l s) :
    changesOnly l i := fun s _ h =>
  serve_agreeOff hl (gate_within hl (by simp [hported]) (fun _ => hbody s)) ((hexec s).symm.trans h)

/-- A command that goes through the table write port changes what its body changes, or the tables while it waits. -/
theorem changesOnlyInTurn_of_body (hexec : ∀ s, exec i s = serve c (gate x body) s)
    (hported : ∀ b, x.ported b = true) (hl : countParts ⊆ l) (hbody : ∀ s, (body c s).Within l s) :
    changesOnlyInTurn l i := by
  intro s t h p hp
  rw [hexec] at h
  split at hp
  case isTrue hempty => exact serve_agreeOff hl (gate_within hl (by simp [hempty]) (fun _ => hbody s)) h p hp
  case isFalse hbusy =>
    exact serve_agreeOff (l := [.tbl, .hif, .fab, .hier, .tel, .ctr]) (by decide)
      (gate_within (by decide) (fun _ => by decide) (by simp [hported, hbusy])) h p hp

end

end Sys2Proof.Machine
end

section
/-! What the operations of the model may change, each operation once. Those on the host interface and on messages. -/
namespace Sys2Proof.Machine
open Sys2Proof

section
variable {m : List Part} {s : State}

theorem agreeOff_time {x : TimeSt} : AgreeOff [.time] s { s with time := x } := by
  intro p hp
  cases p <;> simp [Part.same] at hp ⊢

theorem agreeOff_port {x : PortsSt} : AgreeOff [.port] s { s with port := x } := by
  intro p hp
  cases p <;> simp [Part.same] at hp ⊢

theorem agreeOff_sec {x : SecSt} : AgreeOff [.sec] s { s with sec := x } := by
  intro p hp
  cases p <;> simp [Part.same] at hp ⊢

theorem agreeOff_parse {x : ParseSt} : AgreeOff [.parse] s { s with parse := x } := by
  intro p hp
  cases p <;> simp [Part.same] at hp ⊢

theorem agreeOff_tcam {x : TcamSt} : AgreeOff [.tcam] s { s with tcam := x } := by
  intro p hp
  cases p <;> simp [Part.same] at hp ⊢

theorem agreeOff_buf {x : BufSt} : AgreeOff [.buf] s { s with buf := x } := by
  intro p hp
  cases p <;> simp [Part.same] at hp ⊢

theorem agreeOff_edit {x : EditSt} : AgreeOff [.edit] s { s with edit := x } := by
  intro p hp
  cases p <;> simp [Part.same] at hp ⊢

theorem agreeOff_fw {x : FwSt} : AgreeOff [.fw] s { s with fw := x } := by
  intro p hp
  cases p <;> simp [Part.same] at hp ⊢

theorem agreeOff_mode {x : ModeSt} : AgreeOff [.mode] s { s with mode := x } := by
  intro p hp
  cases p <;> simp [Part.same] at hp ⊢

/-- What both branches of a choice of a status and a state leave, the choice leaves. -/
theorem AgreeOff.iteSnd {α : Type} {p : Prop} [Decidable p] {x y : α × State} (h : AgreeOff m s x.2)
    (k : AgreeOff m s y.2) :
    AgreeOff m s (if p then x else y).2 := by
  split
  · exact h
  · exact k

end

/-- What the selection and the sending of cells may change: queues, nodes, the packet memory, credits and events. -/
abbrev queueParts : List Part := .buf :: .sched :: .hbm :: eventParts

/-- What a change of mode or of a degraded condition may change. -/
abbrev modeParts : List Part := .port :: .hbm :: .mode :: eventParts

theorem setChan_agreeOff (s : State) (c : Nat) (x : Chan) : AgreeOff [.hif] s (s.setChan c x) :=
  agreeOff_hif

theorem setVec_agreeOff (s : State) (v : Nat) (x : Vec) : AgreeOff [.hif] s (s.setVec v x) :=
  agreeOff_hif

theorem bump_agreeOff (s : State) (table name i j : Nat) : AgreeOff [.ctr] s (s.bump table name i j) :=
  count_agreeOff _ _ _ _ _

theorem sendAll_agreeOff (s : State) (fs : List Nat) (type : Nat) (ack : Bool) (body : Bytes) :
    AgreeOff [.fab, .hier, .ctr] s (s.sendAll fs type ack body) :=
  .foldl (fun _ _ => sendMsg_agreeOff _ _ _ _ _) _

theorem announceTable_agreeOff (s : State) : AgreeOff [.fab, .hier, .ctr] s s.announceTable :=
  sendAll_agreeOff _ _ _ _ _

theorem designate_agreeOff (s : State) : AgreeOff eventParts s s.designate := by
  unfold State.designate
  dsimp only
  split
  · exact .widen agreeOff_hier (by decide)
  · exact AgreeOff.widen agreeOff_hier (by decide) |>.trans (raise_agreeOff _ _ _)

theorem pushChunk_agreeOff (s : State) (f offset : Nat) : AgreeOff [.fab, .hier, .ctr] s (s.pushChunk f offset) :=
  AgreeOff.widen agreeOff_hier (by decide) |>.trans (newMsg_agreeOff _ _ _)

theorem setPerf_agreeOff (s : State) (die n : Nat) (x : Perf) : AgreeOff [.tel] s (s.setPerf die n x) :=
  agreeOff_tel

end Sys2Proof.Machine
end

section
/-! What the operations on ports, lane groups, modules and SecYs may change (02_ports.md, 03_link_security.md). -/
namespace Sys2Proof.Machine
open Sys2Proof

theorem setPrt_agreeOff (s : State) (p : Nat) (x : Port) : AgreeOff [.port] s (s.setPrt p x) :=
  agreeOff_port

theorem saveSettings_agreeOff (s : State) : AgreeOff [.fw] s s.saveSettings :=
  .ite agreeOff_fw agreeOff_fw

theorem endLpi_agreeOff (s : State) (p : Nat) : AgreeOff [.port, .ctr] s (s.endLpi p) :=
  .ite (AgreeOff.widen (setPrt_agreeOff _ _ _) (by decide) |>.andThen (count_agreeOff _ _ _ _ _) (by decide)) .refl

theorem updPrt_agreeOff (s : State) (p : Nat) (f : Port → Port) : AgreeOff [.port] s (s.updPrt p f) :=
  setPrt_agreeOff _ _ _

theorem startUpHold_agreeOff (s : State) (p : Nat) : AgreeOff [.port] s (s.startUpHold p) :=
  .ite (setPrt_agreeOff _ _ _) .refl

theorem train_agreeOff (s : State) (p : Nat) (lanes : List Nat) : AgreeOff [.port] s (s.train p lanes) :=
  .ite .refl (setPrt_agreeOff _ _ _)

theorem retrainLost_agreeOff (s : State) (p : Nat) : AgreeOff [.port] s (s.retrainLost p) :=
  .ite (train_agreeOff _ _ _) .refl

theorem txTimestamp_agreeOff (s : State) (p status tag t : Nat) (f : TxFrame) (launch : Nat) :
    AgreeOff eventParts s (s.txTimestamp p status tag t f launch) :=
  raise_agreeOff _ _ _ |>.andThen (bump_agreeOff _ _ _ _ _) (by decide)

theorem tsDropped_agreeOff (s : State) (p : Nat) (tsReq : Option Nat) : AgreeOff eventParts s (s.tsDropped p tsReq) := by
  unfold State.tsDropped
  split
  · exact txTimestamp_agreeOff _ _ _ _ _ _ _
  · exact .refl

theorem txDrop_agreeOff (s : State) (p code : Nat) (tsReq : Option Nat) : AgreeOff eventParts s (s.txDrop p code tsReq) :=
  AgreeOff.widen (bump_agreeOff _ _ _ _ _) (by decide) |>.trans (tsDropped_agreeOff _ _ _)

theorem clearTx_agreeOff (s : State) (p : Nat) : AgreeOff (.port :: eventParts) s (s.clearTx p) :=
  AgreeOff.widen (updPrt_agreeOff _ _ _) (by decide)
    |>.trans (.foldl (fun _ _ => .widen (txDrop_agreeOff _ _ _ _) (by decide)) _)

theorem portDown_agreeOff (s : State) (p reason : Nat) (quiet : Bool) :
    AgreeOff (.port :: eventParts) s (s.portDown p reason quiet) :=
  .ite (AgreeOff.widen (endLpi_agreeOff _ _) (by decide) |>.andThen (updPrt_agreeOff _ _ _) (by decide)
    |>.trans (clearTx_agreeOff _ _) |>.andThen (bump_agreeOff _ _ _ _ _) (by decide)
    |>.trans (.ite .refl (.widen (raise_agreeOff _ _ _) (by decide)))) (.widen (updPrt_agreeOff _ _ _) (by decide))

theorem setMod_agreeOff (s : State) (m : Nat) (x : Mod) : AgreeOff [.port] s (s.setMod m x) :=
  agreeOff_port

theorem moduleStore_agreeOff (s : State) (b : Bytes) : AgreeOff [.port] s (s.moduleStore b) :=
  setMod_agreeOff _ _ _

theorem ledgerUpd_agreeOff (s : State) (vendor serial : Bytes) (f : LedgerRec → LedgerRec) :
    AgreeOff [.port] s (s.ledgerUpd vendor serial f) :=
  agreeOff_port

theorem setGrp_agreeOff (s : State) (g : Nat) (x : Group) : AgreeOff [.port] s (s.setGrp g x) :=
  agreeOff_port

theorem untrain_agreeOff (s : State) (p : Nat) : AgreeOff [.port] s (s.untrain p) :=
  updPrt_agreeOff _ _ _

theorem rateChange_agreeOff (s : State) (g newMode : Nat) : AgreeOff (.port :: eventParts) s (s.rateChange g newMode) :=
  AgreeOff.foldl (fun _ _ => portDown_agreeOff _ _ _ _ |>.trans (clearTx_agreeOff _ _)
    |>.trans (.ite (.widen (train_agreeOff _ _ _) (by decide)) (.widen (untrain_agreeOff _ _) (by decide)))
    |>.andThen (bump_agreeOff _ _ _ _ _) (by decide)) _ |>.andThen (setGrp_agreeOff _ _ _) (by decide)

theorem activateModule_agreeOff (s : State) (m : Nat) : AgreeOff [.port] s (s.activateModule m) := by
  unfold State.activateModule
  dsimp only
  split
  · exact .ite (setMod_agreeOff _ _ _) .refl
  · exact .refl

theorem setSecy_agreeOff (s : State) (p : Nat) (y : SecY) : AgreeOff [.sec] s (s.setSecy p y) :=
  agreeOff_sec

end Sys2Proof.Machine
end

section
/-! What the operations on tables, chains and conditions may change (05_forwarding_tables.md, 06_associative_search.md,
17_modes_and_repair.md). -/
namespace Sys2Proof.Machine
open Sys2Proof

theorem noteFill_agreeOff (s : State) (area used slots : Nat) (raised : Bool) {set : Bool → State → State}
    (hset : ∀ b a, AgreeOff [.tbl] a (set b a)) :
    AgreeOff (.tbl :: eventParts) s (s.noteFill area used slots raised set) :=
  .ite (AgreeOff.widen (hset _ _) (by decide) |>.andThen (raise_agreeOff _ _ _) (by decide))
    (.ite (.widen (hset _ _) (by decide)) .refl)

theorem noteFibFill_agreeOff (s : State) : AgreeOff (.tbl :: eventParts) s s.noteFibFill :=
  noteFill_agreeOff _ _ _ _ _ (fun _ _ => agreeOff_tbl)

theorem noteEmFill_agreeOff (s : State) : AgreeOff (.tbl :: eventParts) s s.noteEmFill :=
  noteFill_agreeOff _ _ _ _ _ (fun _ _ => agreeOff_tbl)

theorem notePoolFill_agreeOff (s : State) : AgreeOff (.tbl :: eventParts) s s.notePoolFill :=
  noteFill_agreeOff _ _ _ _ _ (fun _ _ => agreeOff_tbl)

theorem growTable_agreeOff (s : State) (t used per units : Nat) : AgreeOff [.tbl] s (s.growTable t used per units) :=
  .ite .refl agreeOff_tbl

theorem growFib_agreeOff (s : State) (vrf fam : Nat) (old : List FibEnt) : AgreeOff [.tbl] s (s.growFib vrf fam old) :=
  .foldl (fun _ _ => growTable_agreeOff _ _ _ _ _) _

theorem fibShrink_agreeOff (s t : State) (vrf fam : Nat) : AgreeOff (.tbl :: countParts) t (s.fibShrink t vrf fam).2 :=
  AgreeOff.widen (growFib_agreeOff _ _ _ _) (by decide) |>.andThen (noteFibFill_agreeOff _) (by decide)
    |>.andThen (wrote_agreeOff _ _) (by decide)

theorem fibStore_agreeOff (s : State) (vrf fam : Nat) (ps : List Pfx) (d : FibDir) :
    AgreeOff [.tbl] s (s.fibStore vrf fam ps d) :=
  agreeOff_tbl

theorem clearCond_agreeOff (s : State) (b : Nat) : AgreeOff (.mode :: eventParts) s (s.clearCond b) :=
  .ite (AgreeOff.widen agreeOff_mode (by decide) |>.andThen (raise_agreeOff _ _ _) (by decide)) .refl

theorem unpoison_agreeOff (s : State) (table i : Nat) : AgreeOff (.tbl :: .mode :: eventParts) s (s.unpoison table i) :=
  .ite (AgreeOff.widen agreeOff_tbl (by decide) |>.andThen (clearCond_agreeOff _ _) (by decide)) .refl

theorem unpoisonRun_agreeOff (s : State) (base n : Nat) :
    AgreeOff (.tbl :: .mode :: eventParts) s (s.unpoisonRun base n) :=
  .foldl (fun _ _ => unpoison_agreeOff _ _ _) _

theorem fibMended_agreeOff (s : State) (p : Poison) : AgreeOff [.tbl] s (s.fibMended p) :=
  .ite .refl (agreeOff_tbl |>.trans (fibStore_agreeOff _ _ _ _ _))

theorem setChain_agreeOff (s : State) (c : Nat) (x : Chain) : AgreeOff [.tcam] s (s.setChain c x) :=
  agreeOff_tcam

theorem noteChainFill_agreeOff (s : State) (c : Nat) : AgreeOff (.tcam :: eventParts) s (s.noteChainFill c) := by
  unfold State.noteChainFill
  split
  · exact .refl
  · exact .ite (AgreeOff.widen (setChain_agreeOff _ _ _) (by decide) |>.andThen (raise_agreeOff _ _ _) (by decide))
      (.ite (.widen (setChain_agreeOff _ _ _) (by decide)) .refl)

theorem tcamDeleteOps_agreeOff (s : State) (n : Nat) (handles : List Nat) :
    AgreeOff (.tcam :: eventParts) s (s.tcamDeleteOps n handles).2.2 := by
  induction handles generalizing s n with
  | nil => exact .refl
  | cons h r ih =>
    unfold State.tcamDeleteOps
    split
    · exact .refl
    · split
      · exact AgreeOff.widen (setChain_agreeOff _ _ _) (by decide) |>.andThen agreeOff_tcam (by decide)
          |>.andThen (noteChainFill_agreeOff _ _) (by decide) |>.trans (ih _ _)
      · exact .refl

end Sys2Proof.Machine
end

section
/-! What the operations on queues, nodes and policers may change (07_packet_buffer.md, 08_scheduling.md). -/
namespace Sys2Proof.Machine
open Sys2Proof

theorem runEach_agreeOff {l : List Part} {op : State → Bytes → Nat × State} (hop : ∀ a b, AgreeOff l a (op a b).2)
    (s : State) (n : Nat) (bs : List Bytes) : AgreeOff l s (runEach op s n bs).2.2 := by
  induction bs generalizing s n with
  | nil => exact .refl
  | cons b r ih =>
    unfold runEach
    simp only
    split
    · exact (hop s b).trans (ih _ _)
    · exact hop s b

theorem lowerMins_agreeOff (s : State) : AgreeOff [.buf] s s.lowerMins :=
  agreeOff_buf

theorem setQueue_agreeOff (s : State) (q : Nat) (x : Queue) : AgreeOff [.buf] s (s.setQueue q x) :=
  agreeOff_buf

theorem updQueue_agreeOff (s : State) (q : Nat) (f : Queue → Queue) : AgreeOff [.buf] s (s.updQueue q f) :=
  setQueue_agreeOff _ _ _

theorem queueOp_agreeOff (adm wred age : Nat) (on : Bool) (s : State) (b : Bytes) :
    AgreeOff [.buf] s (State.queueOp adm wred age on s b).2 :=
  .iteSnd .refl (updQueue_agreeOff _ _ _)

theorem setNode_agreeOff (s : State) (n : Nat) (x : Node) : AgreeOff [.sched] s (s.setNode n x) :=
  agreeOff_sched

theorem refreshKids_agreeOff (s : State) (parent : Nat) (kids : List Nat) :
    AgreeOff [.sched] s (s.refreshKids parent kids) :=
  AgreeOff.ite .refl (setNode_agreeOff _ _ _)
    |>.trans (.foldl (fun _ _ => .ite (setNode_agreeOff _ _ _) (setNode_agreeOff _ _ _)) _)

theorem setClass_agreeOff (s : State) (tc : Nat) (x : ClassNode) : AgreeOff [.sched] s (s.setClass tc x) :=
  agreeOff_sched

theorem refreshRoot_agreeOff (s : State) : AgreeOff [.sched] s s.refreshRoot :=
  agreeOff_sched |>.trans (.foldl (fun _ _ => .ite (setClass_agreeOff _ _ _) (setClass_agreeOff _ _ _)) _)

theorem refreshClass_agreeOff (s : State) (tc : Nat) : AgreeOff [.buf, .sched] s (s.refreshClass tc) :=
  AgreeOff.ite .refl (.widen (setClass_agreeOff _ _ _) (by decide))
    |>.trans (.foldl (fun _ _ => .widen (updQueue_agreeOff _ _ _) (by decide)) _)

theorem refreshLevel_agreeOff (s : State) (level : Nat) :
    AgreeOff [.buf, .sched] s ((s.kidsOf level).foldl (fun (b : State) e => b.refreshKids e.1 e.2) s) :=
  .foldl (fun _ _ => .widen (refreshKids_agreeOff _ _ _) (by decide)) _

theorem refreshTm_agreeOff (s : State) : AgreeOff [.buf, .sched] s s.refreshTm := by
  unfold State.refreshTm
  refine .andThen (.trans ?_ (.foldl refreshClass_agreeOff _)) (refreshRoot_agreeOff _) (by decide)
  exact refreshLevel_agreeOff _ _ |>.trans (refreshLevel_agreeOff _ _) |>.trans (refreshLevel_agreeOff _ _)

theorem nodeOp_agreeOff (s : State) (b : Bytes) : AgreeOff [.buf, .sched] s (s.nodeOp b).2 := by
  unfold State.nodeOp
  refine .iteSnd .refl (.iteSnd .refl (.iteSnd .refl ?_))
  extract_lets t x bal y joins u v
  have hset : AgreeOff [.buf, .sched] s u := (refreshTm_agreeOff s).andThen (setNode_agreeOff _ _ _) (by decide)
  dsimp only
  exact AgreeOff.ite (hset.andThen (setNode_agreeOff _ _ _) (by decide)) hset |>.trans (refreshTm_agreeOff _)

theorem setPolicer_agreeOff (s : State) (i : Nat) (x : Policer) : AgreeOff [.sched] s (s.setPolicer i x) :=
  agreeOff_sched

theorem policerOp_agreeOff (s : State) (b : Bytes) : AgreeOff [.sched] s (s.policerOp b).2 :=
  .iteSnd .refl (setPolicer_agreeOff _ _ _)

end Sys2Proof.Machine
end

section
/-! What the operations on buffer pools and channels may change (09_buffer_pools.md, 14_host_interface.md). -/
namespace Sys2Proof.Machine
open Sys2Proof

theorem chargeAdd_agreeOff (s : State) (c p take free : Nat) : AgreeOff [.pool] s (s.chargeAdd c p take free) :=
  agreeOff_pool

theorem setPoolBuf_agreeOff (s : State) (p i : Nat) (b : PoolBuf) : AgreeOff [.pool] s (s.setPoolBuf p i b) :=
  agreeOff_pool

theorem poolTry_agreeOff {s t : State} {c first n p h : Nat} {data : Bytes}
    (htry : s.poolTry c first data n p = some (h, t)) : AgreeOff telemetryParts s t := by
  induction n generalizing p with
  | zero => cases htry
  | succ n ih =>
    unfold State.poolTry at htry
    split at htry
    · cases htry
    · split at htry
      · exact .trans (.ite .refl (.widen (bump_agreeOff _ _ _ _ _) (by decide))) (poolTake_agreeOff htry)
      · exact ih htry

theorem poolAlloc_agreeOff (s : State) (c : Nat) (data : Bytes) : AgreeOff telemetryParts s (s.poolAlloc c data).2 := by
  unfold State.poolAlloc
  simp only
  split
  next htry => exact poolTry_agreeOff htry
  next => exact .widen (bump_agreeOff _ _ _ _ _) (by decide)

theorem shareOne_agreeOff (s : State) (h req owner : Nat) : AgreeOff telemetryParts s (s.shareOne h req owner).2.2 := by
  unfold State.shareOne
  split
  · split
    · exact .refl
    · split
      · split
        · exact .widen (bump_agreeOff _ _ _ _ _) (by decide)
        · have halloc {data : Bytes} := poolAlloc_agreeOff s (owner % 64) data
          split
          next heq => exact (heq ▸ halloc :).andThen (bump_agreeOff _ _ _ _ _) (by decide)
          next heq => exact (heq ▸ halloc :)
      · exact .widen (setPoolBuf_agreeOff _ _ _ _) (by decide)
  · exact .refl

theorem shareAll_agreeOff (s : State) (h req : Nat) (owners : List Nat) :
    AgreeOff telemetryParts s (s.shareAll h req owners).2 := by
  induction owners generalizing s with
  | nil => exact .refl
  | cons o r ih => exact (shareOne_agreeOff s h req o).trans (ih _)

theorem rejectRelease_agreeOff (s : State) (h owner reason source : Nat) :
    AgreeOff eventParts s (s.rejectRelease h owner reason source) :=
  AgreeOff.widen (bump_agreeOff _ _ _ _ _) (by decide) |>.trans (raiseLim_agreeOff _ _ _ _)

theorem release_agreeOff (s : State) (h owner source : Nat) : AgreeOff telemetryParts s (s.release h owner source).2 := by
  unfold State.release
  split
  · exact .refl
  · simp only
    split
    · exact .widen (rejectRelease_agreeOff _ _ _ _ _) (by decide)
    · exact .iteSnd (AgreeOff.widen (setPoolBuf_agreeOff _ _ _ _) (by decide) |>.andThen (chargeAdd_agreeOff _ _ _ _ _)
        (by decide) |>.andThen (notePoolLow_agreeOff _ _) (by decide)) (.widen (setPoolBuf_agreeOff _ _ _ _) (by decide))

theorem releaseAll_agreeOff (s : State) (pairs : List (Nat × Nat)) :
    AgreeOff telemetryParts s (s.releaseAll pairs).2 := by
  induction pairs generalizing s with
  | nil => exact .refl
  | cons p r ih => exact (release_agreeOff s p.1 p.2 0).trans (ih _)

theorem chanDrop_agreeOff (s : State) (c code : Nat) : AgreeOff [.ctr] s (s.chanDrop c code) :=
  bump_agreeOff _ _ _ _ _

theorem dropHeld_agreeOff (s : State) (c code : Nat) (h : Held) : AgreeOff telemetryParts s (s.dropHeld c code h) := by
  unfold State.dropHeld
  refine .trans ?_ (.ite (.widen (bump_agreeOff _ _ _ _ _) (by decide))
      (.ite .refl (.widen (chanDrop_agreeOff _ _ _) (by decide))))
  have hrelease := release_agreeOff s h.handle (ownerOf c) 1
  split
  · exact hrelease |>.andThen agreeOff_tel (by decide) |>.andThen (telLost_agreeOff _ _) (by decide)
      |>.andThen (bump_agreeOff _ _ _ _ _) (by decide)
  · exact hrelease

theorem chanOff_agreeOff (s : State) (c : Nat) (finish : Bool) : AgreeOff telemetryParts s (s.chanOff c finish) :=
  AgreeOff.widen (setChan_agreeOff _ _ _) (by decide) |>.trans (.foldl (fun _ _ => dropHeld_agreeOff _ _ _ _) _)

theorem telRecord_agreeOff (s : State) (r : TelRec) : AgreeOff telemetryParts s (s.telRecord r) :=
  telPut_agreeOff _ _

theorem drainRing_agreeOff (s : State) : AgreeOff telemetryParts s s.drainRing :=
  .ite .refl (AgreeOff.widen agreeOff_tel (by decide) |>.trans (.foldl (fun _ _ => telRecord_agreeOff _ _) _))

end Sys2Proof.Machine
end

section
/-! What removing a packet from a queue may change: cells, chains, segments and refills (R253-R271). -/
namespace Sys2Proof.Machine
open Sys2Proof

theorem partAdd_agreeOff (s : State) (q take free : Nat) : AgreeOff [.buf] s (s.partAdd q take free) :=
  .ite agreeOff_buf agreeOff_buf

theorem freeCell_agreeOff (s : State) (c : Nat) : AgreeOff [.buf] s (s.freeCell c) := by
  unfold State.freeCell
  split
  · exact .refl
  · exact .ite (agreeOff_buf |>.trans (partAdd_agreeOff _ _ _ _)) agreeOff_buf

theorem freeCellList_agreeOff (s : State) (l : List QCell) : AgreeOff [.buf] s (s.freeCellList l) :=
  .foldl freeCell_agreeOff _

theorem setLink_agreeOff (s : State) (c next : Nat) : AgreeOff [.buf] s (s.setLink c next) := by
  unfold State.setLink
  split
  · exact .refl
  · exact agreeOff_buf

theorem linkCells_agreeOff (s : State) (cells : List Nat) : AgreeOff [.buf] s (s.linkCells cells) := by
  induction cells generalizing s with
  | nil => exact .refl
  | cons a r ih =>
    cases r with
    | nil => exact .refl
    | cons b r => exact (setLink_agreeOff s a b).trans (ih _)

theorem linkRun_agreeOff (s : State) (run more : List QCell) : AgreeOff [.buf] s (s.linkRun run more) :=
  linkCells_agreeOff _ _

theorem sweep_agreeOff (s : State) (q : Nat) (free : Bool) : AgreeOff [.buf] s (s.sweep q free) :=
  setQueue_agreeOff _ _ _ |>.trans (.ite (freeCellList_agreeOff _ _) .refl)

theorem noteSegLow_agreeOff (s : State) : AgreeOff (.buf :: eventParts) s s.noteSegLow :=
  .ite (AgreeOff.widen agreeOff_buf (by decide) |>.andThen (raise_agreeOff _ _ _) (by decide))
    (.ite (.widen agreeOff_buf (by decide)) .refl)

theorem freeSegList_agreeOff (s : State) (l : List Nat) : AgreeOff (.buf :: .hbm :: eventParts) s (s.freeSegList l) :=
  AgreeOff.foldl (fun _ _ => .widen agreeOff_hbm (by decide)) _ |>.andThen (noteSegLow_agreeOff _) (by decide)

theorem freeMiddle_agreeOff (s : State) (q : Nat) (l : List Seg) :
    AgreeOff (.buf :: .hbm :: eventParts) s (s.freeMiddle q l) :=
  AgreeOff.widen agreeOff_buf (by decide) |>.andThen (freeCellList_agreeOff _ _) (by decide)
    |>.trans (freeSegList_agreeOff _ _)

theorem clearMiddle_agreeOff (s : State) (q : Nat) : AgreeOff (.buf :: .hbm :: eventParts) s (s.clearMiddle q) :=
  .ite (AgreeOff.widen (setQueue_agreeOff _ _ _) (by decide) |>.trans (freeMiddle_agreeOff _ _ _)) .refl

theorem joinHead_agreeOff (s : State) (q : Nat) (l : List QCell) : AgreeOff [.buf] s (s.joinHead q l) :=
  setQueue_agreeOff _ _ _ |>.trans (linkRun_agreeOff _ _ _) |>.trans (sweep_agreeOff _ _ _)

theorem joinBacklog_agreeOff (n : Nat) (s : State) (q : Nat) : AgreeOff [.buf] s (State.joinBacklog n s q) := by
  induction n generalizing s with
  | zero => exact .refl
  | succ n ih =>
    unfold State.joinBacklog
    simp only
    split
    · exact .ite ((setQueue_agreeOff _ _ _).trans (joinHead_agreeOff _ _ _) |>.trans (ih _)) .refl
    · exact .refl

theorem endSpill_agreeOff (s : State) (q : Nat) : AgreeOff [.buf] s (s.endSpill q) :=
  .ite (setQueue_agreeOff _ _ _ |>.trans (linkRun_agreeOff _ _ _)) .refl

theorem refillOnce_agreeOff (s : State) (q : Nat) : AgreeOff [.buf, .ctr] s (s.refillOnce q) :=
  .ite (AgreeOff.widen agreeOff_buf (by decide) |>.andThen (setQueue_agreeOff _ _ _) (by decide)
    |>.andThen (joinBacklog_agreeOff _ _ _) (by decide) |>.andThen (endSpill_agreeOff _ _) (by decide)
    |>.andThen (count_agreeOff _ _ _ _ _) (by decide)) .refl

theorem issueRefills_agreeOff (n : Nat) (s : State) (q : Nat) : AgreeOff [.buf, .ctr] s (State.issueRefills n s q) := by
  induction n generalizing s with
  | zero => exact .refl
  | succ n ih => exact .ite ((refillOnce_agreeOff _ _).trans (ih _)) .refl

theorem noteStall_agreeOff (s : State) (q : Nat) : AgreeOff [.buf, .ctr] s (s.noteStall q) :=
  .ite (AgreeOff.widen (setQueue_agreeOff _ _ _) (by decide) |>.andThen (bump_agreeOff _ _ _ _ _) (by decide))
    (.ite (.widen (setQueue_agreeOff _ _ _) (by decide)) .refl)

theorem observe_agreeOff (s : State) (q : Nat) (f : QStat → QStat) : AgreeOff [.sched] s (s.observe q f) :=
  .foldl (fun _ _ => agreeOff_sched) _

theorem settleQueue_agreeOff (s : State) (q : Nat) : AgreeOff queueParts s (s.settleQueue q) :=
  AgreeOff.widen (clearMiddle_agreeOff _ _) (by decide) |>.andThen (endSpill_agreeOff _ _) (by decide)
    |>.andThen (issueRefills_agreeOff _ _ _) (by decide) |>.andThen (noteStall_agreeOff _ _) (by decide)
    |>.andThen (observe_agreeOff _ _ _) (by decide)

theorem dropShare_agreeOff (s : State) (rec q : Nat) : AgreeOff (.buf :: eventParts) s (s.dropShare rec q).2 := by
  unfold State.dropShare
  split
  · exact .widen (rejectRelease_agreeOff _ _ _ _ _) (by decide)
  · exact .iteSnd (.widen (rejectRelease_agreeOff _ _ _ _ _) (by decide)) (.iteSnd (.widen agreeOff_buf (by decide))
      (.widen agreeOff_buf (by decide)))

theorem leave_agreeOff (s : State) (q pid : Nat) : AgreeOff (.buf :: eventParts) s (s.leave q pid) := by
  unfold State.leave
  simp only
  split
  · exact .refl
  next p _ =>
    have hshare : AgreeOff (.buf :: eventParts) s
        (match p.shared with | some k => s.dropShare k q | none => (Hold.last, s)).2 := by
      split
      · exact dropShare_agreeOff _ _ _
      · exact .refl
    exact hshare |>.andThen (setQueue_agreeOff _ _ _) (by decide) |>.andThen (partAdd_agreeOff _ _ _ _) (by decide)
        |>.andThen (sweep_agreeOff _ _ _) (by decide)

theorem popHead_agreeOff (s : State) (q : Nat) : AgreeOff queueParts s (s.popHead q) := by
  unfold State.popHead
  split
  · exact .refl
  · exact AgreeOff.widen (leave_agreeOff _ _ _) (by decide) |>.trans (settleQueue_agreeOff _ _)

end Sys2Proof.Machine
end

section
/-! What a loss of a fabric plane or lane, and a change of mode, may change (10_fabric.md, 17_modes_and_repair.md). -/
namespace Sys2Proof.Machine
open Sys2Proof

theorem setPeer_agreeOff (s : State) (f : Nat) (x : Peer) : AgreeOff [.fab] s (s.setPeer f x) :=
  agreeOff_fab

theorem updPlane_agreeOff (s : State) (f k : Nat) (g : PeerPlane → PeerPlane) : AgreeOff [.fab] s (s.updPlane f k g) :=
  setPeer_agreeOff _ _ _

theorem setCredit_agreeOff (s : State) (p : Nat) (x : Credit) : AgreeOff [.fab] s (s.setCredit p x) :=
  agreeOff_fab

theorem reasmAdd_agreeOff (s : State) (take free : Nat) : AgreeOff [.buf] s (s.reasmAdd take free) :=
  agreeOff_buf

theorem dropFab_agreeOff (s : State) (code : Nat) : AgreeOff [.ctr] s (s.dropFab code) :=
  bump_agreeOff _ _ _ _ _

theorem discardCtx_agreeOff (s : State) (key code : Nat) : AgreeOff [.buf, .fab, .ctr] s (s.discardCtx key code) :=
  .ite .refl (AgreeOff.widen agreeOff_fab (by decide) |>.andThen (reasmAdd_agreeOff _ _ _) (by decide)
    |>.trans (.ite .refl (.widen (dropFab_agreeOff _ _) (by decide))))

theorem unsend_agreeOff (s : State) (f k : Nat) : AgreeOff [.fab, .ctr] s (s.unsend f k) :=
  AgreeOff.widen agreeOff_fab (by decide) |>.andThen (count_agreeOff _ _ _ _ _) (by decide)

theorem keepCredit_agreeOff (s : State) (q : Nat) : AgreeOff [.buf, .ctr] s (s.keepCredit q) :=
  AgreeOff.widen (setQueue_agreeOff _ _ _) (by decide) |>.andThen (count_agreeOff _ _ _ _ _) (by decide)

theorem creditReq_agreeOff (s : State) (q : Nat) (active : Bool) : AgreeOff [.fab] s (s.creditReq q active) :=
  .ite .refl agreeOff_fab

theorem voqEdge_agreeOff (s s0 : State) (q : Nat) : AgreeOff [.buf, .fab, .ctr] s (s.voqEdge s0 q) :=
  .ite .refl (.ite (AgreeOff.widen (creditReq_agreeOff _ _ _) (by decide)
    |>.andThen (keepCredit_agreeOff _ _) (by decide)) (AgreeOff.widen (creditReq_agreeOff _ _ _) (by decide)
    |>.andThen (updQueue_agreeOff _ _ _) (by decide)))

theorem abandon_agreeOff (s : State) (f k : Nat) : AgreeOff queueParts s (s.abandon f k) :=
  .foldl (fun _ _ => AgreeOff.widen (bump_agreeOff _ _ _ _ _) (by decide)
    |>.trans (.ite (AgreeOff.widen agreeOff_fab (by decide) |>.trans (popHead_agreeOff _ _)
    |>.andThen (voqEdge_agreeOff _ _ _) (by decide)) (.widen agreeOff_fab (by decide)))) _

theorem planeDown_agreeOff (s : State) (f k cause : Nat) : AgreeOff queueParts s (s.planeDown f k cause) := by
  unfold State.planeDown
  extract_lets a b c d p
  have hb : AgreeOff queueParts s b :=
    AgreeOff.widen (updPlane_agreeOff _ _ _ _) (by decide)
      |>.trans (.foldl (fun _ _ => .widen (discardCtx_agreeOff _ _ _) (by decide)) _)
  have hd : AgreeOff queueParts c d :=
    abandon_agreeOff _ _ _ |>.andThen (unsend_agreeOff _ _ _) (by decide) |>.andThen (bump_agreeOff _ _ _ _ _) (by decide)
      |>.andThen (raise_agreeOff _ _ _) (by decide)
  refine .andThen (.trans ?_ (.ite (AgreeOff.widen (setPeer_agreeOff _ _ _) (by decide)
      |>.andThen (raise_agreeOff _ _ _) (by decide)) .refl))
    (refreshTm_agreeOff _) (by decide)
  exact hb.trans (.foldl (fun _ _ => .widen agreeOff_fab (by decide)) _) |>.trans hd

theorem reviewPeer_agreeOff (s : State) (f cause : Nat) : AgreeOff queueParts s (s.reviewPeer f cause) :=
  .foldl (fun _ _ => .ite (planeDown_agreeOff _ _ _ _) (.ite (AgreeOff.widen (updPlane_agreeOff _ _ _ _) (by decide)
    |>.andThen (setPeer_agreeOff _ _ _) (by decide) |>.andThen (refreshTm_agreeOff _) (by decide)) .refl)) _

theorem reviewPeers_agreeOff (s : State) (cause : Nat) : AgreeOff queueParts s (s.reviewPeers cause) :=
  .foldl (fun _ _ => reviewPeer_agreeOff _ _ _) _

theorem planeDownAll_agreeOff (s : State) (k cause : Nat) : AgreeOff queueParts s (s.planeDownAll k cause) :=
  .foldl (fun _ _ => .ite (planeDown_agreeOff _ _ _ _) .refl) _

theorem setLane_agreeOff (s : State) (l : Nat) (x : Lane) : AgreeOff [.fab] s (s.setLane l x) :=
  agreeOff_fab

theorem afterLane_agreeOff (s : State) (l : Nat) : AgreeOff queueParts s (s.afterLane l) :=
  .ite .refl (planeDownAll_agreeOff _ _ _)

theorem noteGroup_agreeOff (s s0 : State) (l : Nat) : AgreeOff eventParts s (s.noteGroup s0 l) :=
  .ite (raise_agreeOff _ _ _) .refl

theorem endAllLpi_agreeOff (s : State) : AgreeOff [.port, .ctr] s s.endAllLpi :=
  .foldl (fun _ _ => endLpi_agreeOff _ _) _

theorem setStack_agreeOff (s : State) (k : Nat) (x : Stack) : AgreeOff [.hbm] s (s.setStack k x) :=
  agreeOff_hbm

theorem wakeStacks_agreeOff (s : State) : AgreeOff [.hbm, .ctr] s s.wakeStacks :=
  .foldl (fun _ _ => .ite (.widen (setStack_agreeOff _ _ _) (by decide))
    (.ite (AgreeOff.widen (setStack_agreeOff _ _ _) (by decide)
    |>.andThen (count_agreeOff _ _ _ _ _) (by decide)) .refl)) _

theorem modulesTx_agreeOff (s : State) (disabled : Bool) : AgreeOff [.port] s (s.modulesTx disabled) :=
  agreeOff_port

theorem trainAll_agreeOff (s : State) : AgreeOff [.port] s s.trainAll :=
  .foldl (fun _ _ => .ite .refl (retrainLost_agreeOff _ _)) _

theorem changeMode_agreeOff (s : State) (new target cause : Nat) : AgreeOff modeParts s (s.changeMode new target cause) :=
  AgreeOff.ite .refl (.widen (endAllLpi_agreeOff _) (by decide))
    |>.trans (.ite (.widen (wakeStacks_agreeOff _) (by decide)) .refl) |>.andThen agreeOff_mode (by decide)
    |>.andThen (bump_agreeOff _ _ _ _ _) (by decide) |>.andThen (raise_agreeOff _ _ _) (by decide)
    |>.trans (.ite (.widen (modulesTx_agreeOff _ _) (by decide))
    (.ite (AgreeOff.widen (modulesTx_agreeOff _ _) (by decide) |>.andThen (trainAll_agreeOff _) (by decide)) .refl))

theorem setCond_agreeOff (s : State) (b : Nat) : AgreeOff modeParts s (s.setCond b) :=
  .ite .refl (AgreeOff.widen agreeOff_mode (by decide) |>.andThen (raise_agreeOff _ _ _) (by decide)
    |>.trans (.ite (changeMode_agreeOff _ _ _ _) .refl))

theorem fixCond_agreeOff (s : State) (b : Nat) (holds : Bool) : AgreeOff modeParts s (s.fixCond b holds) :=
  .ite (setCond_agreeOff _ _) (.widen (clearCond_agreeOff _ _) (by decide))

theorem lanesCond_agreeOff (s : State) : AgreeOff modeParts s s.lanesCond :=
  fixCond_agreeOff _ _ _

theorem noteRate_agreeOff (s : State) : AgreeOff (.mode :: eventParts) s s.noteRate :=
  .ite (AgreeOff.widen agreeOff_mode (by decide) |>.andThen (raise_agreeOff _ _ _) (by decide))
    (.ite (.widen agreeOff_mode (by decide)) .refl)

end Sys2Proof.Machine
end

section
/-! What the operations on editing, the packet memory, the time base, the hierarchy and firmware may change
(11_egress_editing.md, 12_packet_memory.md, 13_time.md, 15_device_hierarchy.md, 16_firmware.md). -/
namespace Sys2Proof.Machine
open Sys2Proof

theorem editMended_agreeOff (s : State) (kind : Nat) (l : List Nat) : AgreeOff [.edit] s (s.editMended kind l) :=
  agreeOff_edit

theorem setHbmChan_agreeOff (s : State) (c : Nat) (x : HbmChan) : AgreeOff [.hbm] s (s.setHbmChan c x) :=
  agreeOff_hbm

theorem setPc_agreeOff (s : State) (p : Nat) (x : Pc) : AgreeOff [.hbm] s (s.setPc p x) :=
  agreeOff_hbm

theorem startEvac_agreeOff (s : State) (c : Nat) (pcs : List Nat) : AgreeOff [.hbm] s (s.startEvac c pcs) :=
  AgreeOff.foldl (fun _ _ => .ite (setPc_agreeOff _ _ _) .refl) _ |>.trans (.ite .refl (setHbmChan_agreeOff _ _ _))

theorem nextRetrain_agreeOff (s : State) : AgreeOff [.hbm] s s.nextRetrain := by
  unfold State.nextRetrain
  refine .ite .refl ?_
  split
  · exact .refl
  · exact .ite (setHbmChan_agreeOff _ _ _) (setHbmChan_agreeOff _ _ _ |>.trans (startEvac_agreeOff _ _ _))

theorem askRetrain_agreeOff (s : State) (c : Nat) : AgreeOff [.hbm] s (s.askRetrain c) :=
  setHbmChan_agreeOff _ _ _ |>.trans (nextRetrain_agreeOff _)

theorem askRetire_agreeOff (s : State) (p cause : Nat) : AgreeOff [.hbm] s (s.askRetire p cause) :=
  .ite .refl (setHbmChan_agreeOff _ _ _ |>.trans (startEvac_agreeOff _ _ _))

theorem advance_agreeOff (s : State) : AgreeOff [.time] s s.advance :=
  agreeOff_time

theorem writeInc_agreeOff (s : State) (v : BitVec 40) : AgreeOff (.time :: .aux :: windowParts) s (s.writeInc v) :=
  AgreeOff.widen agreeOff_time (by decide) |>.andThen (advance_agreeOff _) (by decide)
    |>.andThen (tickTime_agreeOff _) (by decide) |>.andThen agreeOff_time (by decide)
    |>.andThen (bump_agreeOff _ _ _ _ _) (by decide) |>.trans (.ite (.widen (raise_agreeOff _ _ _) (by decide)) .refl)

theorem refuseStep_agreeOff (s : State) (off : Int) : AgreeOff eventParts s (s.refuseStep off) :=
  AgreeOff.widen (bump_agreeOff _ _ _ _ _) (by decide) |>.trans (raise_agreeOff _ _ _)

theorem delayRetire_agreeOff (s : State) (δ : Nat) : AgreeOff [.tbl] s (s.delayRetire δ) :=
  agreeOff_tbl

theorem ppsRises_agreeOff (s : State) (k : Nat) : AgreeOff [.time, .ctr] s (s.ppsRises k) :=
  AgreeOff.widen agreeOff_time (by decide) |>.andThen (bump_agreeOff _ _ _ _ _) (by decide)

theorem afterStep_agreeOff (s s0 : State) (off : Int) : AgreeOff [.time, .tbl, .ctr] s (s.afterStep s0 off) :=
  AgreeOff.ite (.widen (delayRetire_agreeOff _ _) (by decide)) .refl
    |>.trans (.ite (AgreeOff.widen (ppsRises_agreeOff _ _) (by decide)
    |>.andThen (bump_agreeOff _ _ _ _ _) (by decide)) .refl)

theorem startElection_agreeOff (s : State) : AgreeOff [.hier] s s.startElection :=
  .ite agreeOff_hier .refl

theorem openChange_agreeOff (s : State) (c : Change) : AgreeOff [.hier] s (s.openChange c) :=
  agreeOff_hier

theorem sendCommit_agreeOff (s : State) (dst : List Nat) (epoch mode : Nat) (t : T32) :
    AgreeOff [.fab, .hier, .ctr] s (s.sendCommit dst epoch mode t) :=
  sendAll_agreeOff _ _ _ _ _

theorem commitChange_agreeOff (s : State) (c : Change) : AgreeOff [.fab, .hier, .ctr] s (s.commitChange c) :=
  AgreeOff.widen agreeOff_hier (by decide) |>.trans (sendCommit_agreeOff _ _ _ _ _)

theorem startChange_agreeOff (s : State) (c : Change) : AgreeOff [.fab, .hier, .ctr] s (s.startChange c) :=
  AgreeOff.widen (openChange_agreeOff _ _) (by decide) |>.trans (sendAll_agreeOff _ _ _ _ _)
    |>.trans (.ite (commitChange_agreeOff _ _) .refl)

theorem commitRec_agreeOff (s : State) (r : BootRec) : AgreeOff [.fw] s (s.commitRec r) :=
  agreeOff_fw

theorem noteIdentity_agreeOff (s : State) : AgreeOff [.fw] s s.noteIdentity := by
  unfold State.noteIdentity
  split
  · exact .ite .refl (commitRec_agreeOff _ _)
  · exact .refl

theorem reserve_agreeOff (s : State) (e : Nat) : AgreeOff [.fw] s (s.reserve e) :=
  .ite agreeOff_fw agreeOff_fw

theorem noteIndices_agreeOff (s : State) : AgreeOff (.fw :: eventParts) s s.noteIndices := by
  unfold State.noteIndices
  split
  · exact .refl
  · exact .ite (AgreeOff.widen agreeOff_fw (by decide) |>.andThen (raise_agreeOff _ _ _) (by decide)) .refl

theorem retainBegin_agreeOff (s : State) : AgreeOff [.fw] s s.retainBegin :=
  commitRec_agreeOff _ _ |>.trans agreeOff_fw

theorem noteBad_agreeOff (s : State) (region : Nat) (i : Image) : AgreeOff [.fw] s (s.noteBad region i) :=
  .ite .refl agreeOff_fw

theorem startRestore_agreeOff (s : State) (cause : Nat) : AgreeOff [.fw] s (s.startRestore cause) :=
  noteBad_agreeOff _ _ _ |>.trans (.ite .refl agreeOff_fw)

end Sys2Proof.Machine
end

section
/-! Commands that read, and commands that set up one unit or two: what each may change (R21, R548). -/
namespace Sys2Proof.Machine
open Sys2Proof

theorem eventMaskSet_changesOnly (c : Cmd) : changesOnly countParts (.eventMaskSet c) :=
  changesOnly_of_body (fun _ => rfl) (fun _ => rfl) (by decide) fun _ => .ite .err (.of (.widen agreeOff_hif (by decide)))

theorem lbSlotsGet_changesOnly (c : Cmd) : changesOnly countParts (.lbSlotsGet c) := by
  refine changesOnly_of_body (fun _ => rfl) (fun _ => rfl) (by decide) fun _ => ?_
  refine .ite ?_ (.ite (.ite .err .same) .err)
  split
  · exact .err
  · exact .same

theorem routeGet_changesOnly (c : Cmd) : changesOnly countParts (.routeGet c) := by
  refine changesOnly_of_body (fun _ => rfl) (fun _ => rfl) (by decide) fun _ => ?_
  refine .ite .err ?_
  refine .ite ?_ ?_
  · dsimp only
    split
    · exact .same
    · exact .same
  · refine .ite (.ite .err .same) ?_
    split
    · exact .same
    · exact .err

theorem tcamSearch_changesOnly (c : Cmd) : changesOnly countParts (.tcamSearch c) := by
  refine changesOnly_of_body (fun _ => rfl) (fun _ => rfl) (by decide) fun _ => ?_
  split
  · exact .err
  · exact .same

theorem tcamSearchContinue_changesOnly (c : Cmd) : changesOnly countParts (.tcamSearchContinue c) := by
  refine changesOnly_of_body (fun _ => rfl) (fun _ => rfl) (by decide) fun _ => ?_
  split
  · exact .err
  · exact .ite .err .same

theorem tcamEntryRead_changesOnly (c : Cmd) : changesOnly countParts (.tcamEntryRead c) := by
  refine changesOnly_of_body (fun _ => rfl) (fun _ => rfl) (by decide) fun _ => ?_
  split
  · exact .err
  · exact .same

theorem bufInfo_changesOnly (c : Cmd) : changesOnly countParts (.bufInfo c) := by
  refine changesOnly_of_body (fun _ => rfl) (fun _ => rfl) (by decide) fun _ => ?_
  split
  · exact .same
  · exact .err

theorem dmaChannelSet_changesOnly (c : Cmd) : changesOnly countParts (.dmaChannelSet c) :=
  changesOnly_of_body (fun _ => rfl) (fun _ => rfl) (by decide) fun _ =>
    .ite .err (.ite .err (.ite .err (.of (.widen (setChan_agreeOff _ _ _) (by decide)))))

theorem msixModerationSet_changesOnly (c : Cmd) : changesOnly countParts (.msixModerationSet c) :=
  changesOnly_of_body (fun _ => rfl) (fun _ => rfl) (by decide) fun _ =>
    .ite .err (.of (AgreeOff.widen (setVec_agreeOff _ _ _) (by decide)
      |>.trans (.ite (.widen (sendMsix_agreeOff _ _) (by decide)) .refl)))

theorem hierDeputySet_changesOnly (c : Cmd) : changesOnly countParts (.hierDeputySet c) :=
  changesOnly_of_body (fun _ => rfl) (fun _ => rfl) (by decide) fun _ =>
    .ite .err (.ite .err (.of (AgreeOff.widen agreeOff_hier (by decide) |>.andThen (designate_agreeOff _) (by decide)
      |>.andThen (announceTable_agreeOff _) (by decide))))

theorem fwSnowdropPush_changesOnly (c : Cmd) : changesOnly countParts (.fwSnowdropPush c) :=
  changesOnly_of_body (fun _ => rfl) (fun _ => rfl) (by decide) fun _ =>
    .ite .err (.ite .err (.ite .err (.ite .err (.of (.widen (pushChunk_agreeOff _ _ _) (by decide))))))

theorem perfCounterConfig_changesOnly (c : Cmd) : changesOnly countParts (.perfCounterConfig c) :=
  changesOnly_of_body (fun _ => rfl) (fun _ => rfl) (by decide) fun _ =>
    .ite .err (.ite .err (.of (.widen (setPerf_agreeOff _ _ _ _) (by decide))))

theorem perfControl_changesOnly (c : Cmd) : changesOnly countParts (.perfControl c) :=
  changesOnly_of_body (fun _ => rfl) (fun _ => rfl) (by decide) fun _ =>
    .ite .err (.ite (.of (.widen agreeOff_tel (by decide))) (.ite .err (.of (.widen agreeOff_tel (by decide)))))

theorem perfCounterRead_changesOnly (c : Cmd) : changesOnly countParts (.perfCounterRead c) :=
  changesOnly_of_body (fun _ => rfl) (fun _ => rfl) (by decide) fun _ =>
    .ite .err (.of (.ite .refl (.foldl (fun _ _ => .widen (setPerf_agreeOff _ _ _ _) (by decide)) _)))

theorem histogramConfig_changesOnly (c : Cmd) : changesOnly countParts (.histogramConfig c) :=
  changesOnly_of_body (fun _ => rfl) (fun _ => rfl) (by decide) fun _ =>
    .ite .err (.ite .err (.of (.widen agreeOff_tel (by decide))))

theorem psampleConfig_changesOnly (c : Cmd) : changesOnly countParts (.psampleConfig c) :=
  changesOnly_of_body (fun _ => rfl) (fun _ => rfl) (by decide) fun _ => .ite .err (.of (.widen agreeOff_tel (by decide)))

theorem portConfig_changesOnlyInTurn (c : Cmd) : changesOnlyInTurn (.port :: .fw :: countParts) (.portConfig c) :=
  changesOnlyInTurn_of_body (fun _ => rfl) (fun _ => rfl) (by decide) fun _ =>
    .ite .err (.ite .err (.ite .err (.of (AgreeOff.widen (setPrt_agreeOff _ _ _) (by decide)
      |>.trans (.ite .refl (.widen (endLpi_agreeOff _ _) (by decide)))
      |>.andThen (saveSettings_agreeOff _) (by decide)))))

theorem portAdmin_changesOnlyInTurn (c : Cmd) : changesOnlyInTurn (.port :: .fw :: countParts) (.portAdmin c) :=
  changesOnlyInTurn_of_body (fun _ => rfl) (fun _ => rfl) (by decide) fun _ =>
    .ite .err (.of (AgreeOff.widen (updPrt_agreeOff _ _ _) (by decide)
      |>.trans (.ite (AgreeOff.ite .refl (.widen (retrainLost_agreeOff _ _) (by decide))
      |>.andThen (startUpHold_agreeOff _ _) (by decide)) (AgreeOff.widen (portDown_agreeOff _ _ _ _) (by decide)
      |>.andThen (updPrt_agreeOff _ _ _) (by decide))) |>.andThen (saveSettings_agreeOff _) (by decide)))

theorem moduleWrite_changesOnlyInTurn (c : Cmd) : changesOnlyInTurn (.port :: countParts) (.moduleWrite c) :=
  changesOnlyInTurn_of_body (fun _ => rfl) (fun _ => rfl) (by decide) fun _ =>
    .ite .err (.ite .err (.ite .err (.ite .same (.of (.widen (moduleStore_agreeOff _ _) (by decide))))))

theorem moduleIntUnmask_changesOnlyInTurn (c : Cmd) : changesOnlyInTurn (.port :: countParts) (.moduleIntUnmask c) :=
  changesOnlyInTurn_of_body (fun _ => rfl) (fun _ => rfl) (by decide) fun _ =>
    .ite .err (.of (.widen (setMod_agreeOff _ _ _) (by decide)))

theorem ledgerSetRating_changesOnlyInTurn (c : Cmd) : changesOnlyInTurn (.port :: countParts) (.ledgerSetRating c) :=
  changesOnlyInTurn_of_body (fun _ => rfl) (fun _ => rfl) (by decide) fun _ =>
    .ite .err (.of (.widen (ledgerUpd_agreeOff _ _ _ _) (by decide)))

theorem portRateRestore_changesOnlyInTurn (c : Cmd) : changesOnlyInTurn (.port :: countParts) (.portRateRestore c) :=
  changesOnlyInTurn_of_body (fun _ => rfl) (fun _ => rfl) (by decide) fun _ =>
    .ite .err (.ite (.of (.ite (.widen (setGrp_agreeOff _ _ _) (by decide)) .refl))
      (.of (AgreeOff.ite (.widen (setGrp_agreeOff _ _ _) (by decide)) .refl
      |>.andThen (rateChange_agreeOff _ _ _) (by decide) |>.andThen (raise_agreeOff _ _ _) (by decide))))

theorem moduleMapSet_changesOnlyInTurn (c : Cmd) : changesOnlyInTurn (.port :: countParts) (.moduleMapSet c) :=
  changesOnlyInTurn_of_body (fun _ => rfl) (fun _ => rfl) (by decide) fun _ =>
    .ite .err (.ite .err (.of (AgreeOff.widen (setMod_agreeOff _ _ _) (by decide) |>.andThen (activateModule_agreeOff _ _)
      (by decide))))

theorem parsePolicySet_changesOnlyInTurn (c : Cmd) : changesOnlyInTurn (.port :: countParts) (.parsePolicySet c) :=
  changesOnlyInTurn_of_body (fun _ => rfl) (fun _ => rfl) (by decide) fun _ =>
    .ite .err (.ite .err (.of (.widen (updPrt_agreeOff _ _ _) (by decide))))

theorem qosPortSet_changesOnlyInTurn (c : Cmd) : changesOnlyInTurn (.port :: countParts) (.qosPortSet c) :=
  changesOnlyInTurn_of_body (fun _ => rfl) (fun _ => rfl) (by decide) fun _ =>
    .ite .err (.ite .err (.of (.widen (updPrt_agreeOff _ _ _) (by decide))))

theorem editPortSet_changesOnlyInTurn (c : Cmd) : changesOnlyInTurn (.port :: countParts) (.editPortSet c) :=
  changesOnlyInTurn_of_body (fun _ => rfl) (fun _ => rfl) (by decide) fun _ =>
    .ite .err (.of (.widen (updPrt_agreeOff _ _ _) (by decide)))

theorem secyConfig_changesOnlyInTurn (c : Cmd) : changesOnlyInTurn (.sec :: .fw :: countParts) (.secyConfig c) :=
  changesOnlyInTurn_of_body (fun _ => rfl) (fun _ => rfl) (by decide) fun _ =>
    .ite .err (.ite .err (.of (AgreeOff.widen (setSecy_agreeOff _ _ _) (by decide)
      |>.andThen (saveSettings_agreeOff _) (by decide))))

theorem scSet_changesOnlyInTurn (c : Cmd) : changesOnlyInTurn (.sec :: countParts) (.scSet c) :=
  changesOnlyInTurn_of_body (fun _ => rfl) (fun _ => rfl) (by decide) fun _ =>
    .ite .err (.ite .err (.ite .err (.of (.widen (setSecy_agreeOff _ _ _) (by decide)))))

theorem scClear_changesOnlyInTurn (c : Cmd) : changesOnlyInTurn (.sec :: countParts) (.scClear c) :=
  changesOnlyInTurn_of_body (fun _ => rfl) (fun _ => rfl) (by decide) fun _ =>
    .ite .err (.of (.widen (setSecy_agreeOff _ _ _) (by decide)))

theorem saInstall_changesOnlyInTurn (c : Cmd) : changesOnlyInTurn (.sec :: countParts) (.saInstall c) :=
  changesOnlyInTurn_of_body (fun _ => rfl) (fun _ => rfl) (by decide) fun _ =>
    .ite .err (.ite .err (.ite .err (.ite .err (.ite .err (.of (.widen (setSecy_agreeOff _ _ _) (by decide)))))))

theorem saEnableRx_changesOnlyInTurn (c : Cmd) : changesOnlyInTurn (.sec :: countParts) (.saEnableRx c) := by
  refine changesOnlyInTurn_of_body (fun _ => rfl) (fun _ => rfl) (by decide) fun _ => ?_
  refine .ite .err ?_
  split
  · exact .err
  · exact .ite .err (.of (.widen (setSecy_agreeOff _ _ _) (by decide)))

theorem saTxSwitch_changesOnlyInTurn (c : Cmd) : changesOnlyInTurn (.sec :: countParts) (.saTxSwitch c) :=
  changesOnlyInTurn_of_body (fun _ => rfl) (fun _ => rfl) (by decide) fun _ =>
    .ite .err (.ite (.of (.widen (setSecy_agreeOff _ _ _) (by decide)))
      (.ite .err (.of (.widen (setSecy_agreeOff _ _ _) (by decide)))))

theorem saDelete_changesOnlyInTurn (c : Cmd) : changesOnlyInTurn (.sec :: countParts) (.saDelete c) :=
  changesOnlyInTurn_of_body (fun _ => rfl) (fun _ => rfl) (by decide) fun _ =>
    .ite .err (.ite .err (.of (.widen (setSecy_agreeOff _ _ _) (by decide))))

theorem slowpathClassSet_changesOnlyInTurn (c : Cmd) : changesOnlyInTurn (.parse :: countParts) (.slowpathClassSet c) :=
  changesOnlyInTurn_of_body (fun _ => rfl) (fun _ => rfl) (by decide) fun _ =>
    .ite .err (.ite .err (.of (.widen agreeOff_parse (by decide))))

theorem hashProfileSet_changesOnlyInTurn (c : Cmd) : changesOnlyInTurn (.parse :: countParts) (.hashProfileSet c) :=
  changesOnlyInTurn_of_body (fun _ => rfl) (fun _ => rfl) (by decide) fun _ =>
    .ite .err (.of (.widen agreeOff_parse (by decide)))

theorem creditProfileSet_changesOnlyInTurn (c : Cmd) : changesOnlyInTurn countParts (.creditProfileSet c) :=
  changesOnlyInTurn_of_body (fun _ => rfl) (fun _ => rfl) (by decide) fun _ =>
    .ite .err (.ite .err (.of (.widen (setCredit_agreeOff _ _ _) (by decide))))

theorem lengthReserve_changesOnlyInTurn (c : Cmd) : changesOnlyInTurn (.tbl :: countParts) (.lengthReserve c) :=
  changesOnlyInTurn_of_body (fun _ => rfl) (fun _ => rfl) (by decide) fun _ =>
    .ite .err (.of (AgreeOff.widen (fibStore_agreeOff _ _ _ _ _) (by decide)
      |>.andThen (fibShrink_agreeOff _ _ _ _) (by decide)))

theorem emTableConfig_changesOnlyInTurn (c : Cmd) : changesOnlyInTurn (.tbl :: countParts) (.emTableConfig c) :=
  changesOnlyInTurn_of_body (fun _ => rfl) (fun _ => rfl) (by decide) fun _ =>
    .ite .err (.ite .err (.of (AgreeOff.widen agreeOff_tbl (by decide) |>.andThen (wrote_agreeOff _ _) (by decide))))

theorem interfaceSet_changesOnlyInTurn (c : Cmd) : changesOnlyInTurn (.tbl :: countParts) (.interfaceSet c) :=
  changesOnlyInTurn_of_body (fun _ => rfl) (fun _ => rfl) (by decide) fun _ =>
    .ite .err (.of (AgreeOff.widen agreeOff_tbl (by decide) |>.andThen (wrote_agreeOff _ _) (by decide)))

theorem routerMacSet_changesOnlyInTurn (c : Cmd) : changesOnlyInTurn (.tbl :: countParts) (.routerMacSet c) :=
  changesOnlyInTurn_of_body (fun _ => rfl) (fun _ => rfl) (by decide) fun _ =>
    .ite .err (.of (AgreeOff.widen agreeOff_tbl (by decide) |>.andThen (wrote_agreeOff _ _) (by decide)))

theorem objRetire_changesOnlyInTurn (c : Cmd) : changesOnlyInTurn (.tbl :: countParts) (.objRetire c) :=
  changesOnlyInTurn_of_body (fun _ => rfl) (fun _ => rfl) (by decide) fun _ =>
    .ite .err (.ite .err (.ite .err (.ite .err (.of (.widen agreeOff_tbl (by decide))))))

theorem tableSplitSet_changesOnlyInTurn (c : Cmd) : changesOnlyInTurn (.tbl :: countParts) (.tableSplitSet c) :=
  changesOnlyInTurn_of_body (fun _ => rfl) (fun _ => rfl) (by decide) fun _ =>
    .ite .err (.of (AgreeOff.widen agreeOff_tbl (by decide) |>.andThen (noteFibFill_agreeOff _) (by decide)
      |>.andThen (noteEmFill_agreeOff _) (by decide)))

theorem lookupConfig_changesOnlyInTurn (c : Cmd) : changesOnlyInTurn (.tbl :: countParts) (.lookupConfig c) :=
  changesOnlyInTurn_of_body (fun _ => rfl) (fun _ => rfl) (by decide) fun _ =>
    .ite .err (.of (.widen agreeOff_tbl (by decide)))

theorem ecmpCountSet_changesOnlyInTurn (c : Cmd) : changesOnlyInTurn (.tbl :: countParts) (.ecmpCountSet c) := by
  refine changesOnlyInTurn_of_body (fun _ => rfl) (fun _ => rfl) (by decide) fun _ => ?_
  refine .ite .err ?_
  refine .ite .err ?_
  split
  · exact .err
  · exact .of (AgreeOff.widen agreeOff_tbl (by decide) |>.andThen (wrote_agreeOff _ _) (by decide))

theorem ecmpCreate_changesOnlyInTurn (c : Cmd) : changesOnlyInTurn (.tbl :: .mode :: countParts) (.ecmpCreate c) := by
  refine changesOnlyInTurn_of_body (fun _ => rfl) (fun _ => rfl) (by decide) fun _ => ?_
  refine .ite .err ?_
  refine .ite .err ?_
  refine .ite .err ?_
  refine .ite .err ?_
  dsimp only
  split
  · exact .err
  · exact .of (AgreeOff.widen agreeOff_tbl (by decide) |>.andThen (notePoolFill_agreeOff _) (by decide)
      |>.andThen (unpoison_agreeOff _ _ _) (by decide) |>.andThen (unpoisonRun_agreeOff _ _ _) (by decide)
      |>.andThen (wrote_agreeOff _ _) (by decide))

theorem tableRepairDone_changesOnlyInTurn (c : Cmd) :
    changesOnlyInTurn (.tbl :: .mode :: countParts) (.tableRepairDone c) := by
  refine changesOnlyInTurn_of_body (fun _ => rfl) (fun _ => rfl) (by decide) fun _ => ?_
  dsimp only
  split
  · exact .ite .err (.ite .err (.of (AgreeOff.widen agreeOff_tbl (by decide)
      |>.andThen (clearCond_agreeOff _ _) (by decide)
      |>.trans (.ite (.widen (fibMended_agreeOff _ _) (by decide)) .refl))))
  · exact .err

theorem objCountersGet_changesOnly (c : Cmd) : changesOnly (.hbm :: countParts) (.objCountersGet c) :=
  changesOnly_of_body (fun _ => rfl) (fun _ => rfl) (by decide) fun _ =>
    .ite .err (.of (.ite (.widen agreeOff_hbm (by decide)) .refl))

theorem tcamChainConfig_changesOnlyInTurn (c : Cmd) : changesOnlyInTurn (.tcam :: countParts) (.tcamChainConfig c) :=
  changesOnlyInTurn_of_body (fun _ => rfl) (fun _ => rfl) (by decide) fun _ =>
    .ite .err (.ite (.ite .err (.of (AgreeOff.widen agreeOff_tcam (by decide)
      |>.andThen (wrote_agreeOff _ _) (by decide))))
      (.ite .err (.ite .err (.ite .err (.ite .err (.of (AgreeOff.widen (setChain_agreeOff _ _ _) (by decide)
      |>.andThen (wrote_agreeOff _ _) (by decide))))))))

theorem tcamChainExtend_changesOnlyInTurn (c : Cmd) : changesOnlyInTurn (.tcam :: countParts) (.tcamChainExtend c) := by
  refine changesOnlyInTurn_of_body (fun _ => rfl) (fun _ => rfl) (by decide) fun _ => ?_
  dsimp only
  split
  · exact .err
  · exact .ite .err (.ite .err (.ite .err (.ite .err (.of (AgreeOff.widen (setChain_agreeOff _ _ _) (by decide)
      |>.andThen (wrote_agreeOff _ _) (by decide) |>.andThen (noteChainFill_agreeOff _ _) (by decide))))))

theorem keyProfileSet_changesOnlyInTurn (c : Cmd) : changesOnlyInTurn (.tcam :: countParts) (.keyProfileSet c) :=
  changesOnlyInTurn_of_body (fun _ => rfl) (fun _ => rfl) (by decide) fun _ =>
    .ite .err (.of (AgreeOff.widen agreeOff_tcam (by decide) |>.andThen (wrote_agreeOff _ _) (by decide)))

theorem searchProfileSet_changesOnlyInTurn (c : Cmd) : changesOnlyInTurn (.tcam :: countParts) (.searchProfileSet c) := by
  refine changesOnlyInTurn_of_body (fun _ => rfl) (fun _ => rfl) (by decide) fun _ => ?_
  split
  · exact .ite .err (.of (AgreeOff.widen agreeOff_tcam (by decide) |>.andThen (wrote_agreeOff _ _) (by decide)))
  · exact .err

theorem searchProfileMap_changesOnlyInTurn (c : Cmd) : changesOnlyInTurn (.tcam :: countParts) (.searchProfileMap c) :=
  changesOnlyInTurn_of_body (fun _ => rfl) (fun _ => rfl) (by decide) fun _ =>
    .ite .err (.ite .err (.of (AgreeOff.widen agreeOff_tcam (by decide) |>.andThen (wrote_agreeOff _ _) (by decide))))

theorem tcamEntryDelete_changesOnlyInTurn (c : Cmd) : changesOnlyInTurn (.tcam :: countParts) (.tcamEntryDelete c) :=
  changesOnlyInTurn_of_body (fun _ => rfl) (fun _ => rfl) (by decide) fun _ =>
    .ite .err (.ite .same (.of (AgreeOff.widen (tcamDeleteOps_agreeOff _ _ _) (by decide)
      |>.andThen (wrote_agreeOff _ _) (by decide))))

theorem tcamCompact_changesOnlyInTurn (c : Cmd) : changesOnlyInTurn (.tcam :: countParts) (.tcamCompact c) := by
  refine changesOnlyInTurn_of_body (fun _ => rfl) (fun _ => rfl) (by decide) fun _ => ?_
  dsimp only
  split
  · exact .err
  · exact .ite .err (.of (AgreeOff.widen (setChain_agreeOff _ _ _) (by decide)
      |>.andThen (count_agreeOff _ _ _ _ _) (by decide) |>.andThen (bump_agreeOff _ _ _ _ _) (by decide)
      |>.andThen (wrote_agreeOff _ _) (by decide)))

theorem bufferPartitionSet_changesOnlyInTurn (c : Cmd) : changesOnlyInTurn (.buf :: countParts) (.bufferPartitionSet c) :=
  changesOnlyInTurn_of_body (fun _ => rfl) (fun _ => rfl) (by decide) fun _ =>
    .ite .err (.of (.widen agreeOff_buf (by decide)))

theorem admissionProfileSet_changesOnlyInTurn (c : Cmd) :
    changesOnlyInTurn (.buf :: countParts) (.admissionProfileSet c) :=
  changesOnlyInTurn_of_body (fun _ => rfl) (fun _ => rfl) (by decide) fun _ =>
    .ite .err (.ite .err (.of (AgreeOff.widen agreeOff_buf (by decide) |>.andThen (lowerMins_agreeOff _) (by decide))))

theorem wredProfileSet_changesOnlyInTurn (c : Cmd) : changesOnlyInTurn (.buf :: countParts) (.wredProfileSet c) :=
  changesOnlyInTurn_of_body (fun _ => rfl) (fun _ => rfl) (by decide) fun _ =>
    .ite .err (.of (.widen agreeOff_buf (by decide)))

theorem queueConfig_changesOnlyInTurn (c : Cmd) : changesOnlyInTurn (.buf :: countParts) (.queueConfig c) :=
  changesOnlyInTurn_of_body (fun _ => rfl) (fun _ => rfl) (by decide) fun _ =>
    .ite .err (.ite .err (.of (runEach_agreeOff (fun _ _ => .widen (queueOp_agreeOff _ _ _ _ _ _) (by decide)) _ _ _)))

theorem bufferGlobalSet_changesOnlyInTurn (c : Cmd) : changesOnlyInTurn (.buf :: countParts) (.bufferGlobalSet c) :=
  changesOnlyInTurn_of_body (fun _ => rfl) (fun _ => rfl) (by decide) fun _ =>
    .ite .err (.of (.widen agreeOff_buf (by decide)))

theorem bufCellShareSet_changesOnlyInTurn (c : Cmd) : changesOnlyInTurn (.buf :: countParts) (.bufCellShareSet c) :=
  changesOnlyInTurn_of_body (fun _ => rfl) (fun _ => rfl) (by decide) fun _ =>
    .ite .err (.of (.widen agreeOff_buf (by decide)))

theorem queueStatusGet_changesOnly (c : Cmd) : changesOnly (.buf :: countParts) (.queueStatusGet c) :=
  changesOnly_of_body (fun _ => rfl) (fun _ => rfl) (by decide) fun _ =>
    .ite .err (.ite .err (.of (.widen agreeOff_buf (by decide))))

theorem schedNodeSet_changesOnlyInTurn (c : Cmd) : changesOnlyInTurn (.buf :: .sched :: countParts) (.schedNodeSet c) :=
  changesOnlyInTurn_of_body (fun _ => rfl) (fun _ => rfl) (by decide) fun _ =>
    .ite .err (.of (runEach_agreeOff (fun _ _ => .widen (nodeOp_agreeOff _ _) (by decide)) _ _ _))

theorem dispatchProfileSet_changesOnlyInTurn (c : Cmd) :
    changesOnlyInTurn (.buf :: .sched :: countParts) (.dispatchProfileSet c) :=
  changesOnlyInTurn_of_body (fun _ => rfl) (fun _ => rfl) (by decide) fun _ =>
    .ite .err (.of (AgreeOff.widen (refreshTm_agreeOff _) (by decide)
      |>.trans (.foldl (fun _ _ => .widen (setClass_agreeOff _ _ _) (by decide)) _)
      |>.andThen (refreshTm_agreeOff _) (by decide)))

theorem protectClassSet_changesOnlyInTurn (c : Cmd) :
    changesOnlyInTurn (.buf :: .sched :: countParts) (.protectClassSet c) :=
  changesOnlyInTurn_of_body (fun _ => rfl) (fun _ => rfl) (by decide) fun _ =>
    .ite .err (.of (AgreeOff.widen agreeOff_fab (by decide) |>.andThen (refreshTm_agreeOff _) (by decide)))

theorem planeRestore_changesOnlyInTurn (c : Cmd) : changesOnlyInTurn (.buf :: .sched :: countParts) (.planeRestore c) :=
  changesOnlyInTurn_of_body (fun _ => rfl) (fun _ => rfl) (by decide) fun _ =>
    .ite .err (.ite .err (.ite .err (.of (AgreeOff.foldl (fun _ _ => .widen (updPlane_agreeOff _ _ _ _) (by decide)) _
      |>.andThen (raise_agreeOff _ _ _) (by decide) |>.andThen (refreshTm_agreeOff _) (by decide)))))

theorem schedNodeGet_changesOnly (c : Cmd) : changesOnly (.buf :: .sched :: countParts) (.schedNodeGet c) :=
  changesOnly_of_body (fun _ => rfl) (fun _ => rfl) (by decide) fun _ =>
    .ite .err (.of (.widen (refreshTm_agreeOff _) (by decide)))

theorem lengthProfileSet_changesOnlyInTurn (c : Cmd) : changesOnlyInTurn (.sched :: countParts) (.lengthProfileSet c) :=
  changesOnlyInTurn_of_body (fun _ => rfl) (fun _ => rfl) (by decide) fun _ =>
    .ite .err (.of (.widen agreeOff_sched (by decide)))

theorem qosMapSet_changesOnlyInTurn (c : Cmd) : changesOnlyInTurn (.sched :: countParts) (.qosMapSet c) :=
  changesOnlyInTurn_of_body (fun _ => rfl) (fun _ => rfl) (by decide) fun _ =>
    .ite .err (.of (.widen agreeOff_sched (by decide)))

theorem policerSet_changesOnlyInTurn (c : Cmd) : changesOnlyInTurn (.sched :: countParts) (.policerSet c) :=
  changesOnlyInTurn_of_body (fun _ => rfl) (fun _ => rfl) (by decide) fun _ =>
    .ite .err (.of (runEach_agreeOff (fun _ _ => .widen (policerOp_agreeOff _ _) (by decide)) _ _ _))

theorem sampleSetConfig_changesOnlyInTurn (c : Cmd) : changesOnlyInTurn (.sched :: countParts) (.sampleSetConfig c) :=
  changesOnlyInTurn_of_body (fun _ => rfl) (fun _ => rfl) (by decide) fun _ =>
    .ite .err (.ite (.of (.widen agreeOff_sched (by decide))) (.ite .err (.of (.widen agreeOff_sched (by decide)))))

theorem siteMapSet_changesOnlyInTurn (c : Cmd) : changesOnlyInTurn (.port :: .sched :: countParts) (.siteMapSet c) :=
  changesOnlyInTurn_of_body (fun _ => rfl) (fun _ => rfl) (by decide) fun _ =>
    .ite .err (.ite (.ite .err (.of (.widen (updPrt_agreeOff _ _ _) (by decide))))
      (.ite .err (.of (.widen agreeOff_sched (by decide)))))

theorem policerProfileSet_changesOnlyInTurn (c : Cmd) :
    changesOnlyInTurn (.sched :: .mode :: countParts) (.policerProfileSet c) :=
  changesOnlyInTurn_of_body (fun _ => rfl) (fun _ => rfl) (by decide) fun _ =>
    .ite .err (.of (.widen agreeOff_sched (by decide)))

theorem poolCarveSet_changesOnlyInTurn (c : Cmd) : changesOnlyInTurn (.pool :: countParts) (.poolCarveSet c) :=
  changesOnlyInTurn_of_body (fun _ => rfl) (fun _ => rfl) (by decide) fun _ =>
    .ite .err (.ite .err (.of (AgreeOff.widen agreeOff_pool (by decide)
      |>.trans (.foldl (fun _ _ => .widen (notePoolLow_agreeOff _ _) (by decide)) _))))

theorem bufShare_changesOnlyInTurn (c : Cmd) : changesOnlyInTurn (.pool :: countParts) (.bufShare c) :=
  changesOnlyInTurn_of_body (fun _ => rfl) (fun _ => rfl) (by decide) fun _ =>
    .ite .err (.ite .err (.of (.widen (shareAll_agreeOff _ _ _ _) (by decide))))

theorem bufRelease_changesOnlyInTurn (c : Cmd) : changesOnlyInTurn (.pool :: countParts) (.bufRelease c) :=
  changesOnlyInTurn_of_body (fun _ => rfl) (fun _ => rfl) (by decide) fun _ =>
    .ite .err (.of (.widen (releaseAll_agreeOff _ _) (by decide)))

theorem channelPoolSet_changesOnlyInTurn (c : Cmd) : changesOnlyInTurn (.pool :: .fw :: countParts) (.channelPoolSet c) :=
  changesOnlyInTurn_of_body (fun _ => rfl) (fun _ => rfl) (by decide) fun _ =>
    .ite .err (.ite .err (.ite .err (.of (AgreeOff.widen agreeOff_pool (by decide)
      |>.trans (.foldl (fun _ _ => .widen (notePoolLow_agreeOff _ _) (by decide)) _)))))

theorem dmaChannelEnable_changesOnly (c : Cmd) : changesOnly (.pool :: countParts) (.dmaChannelEnable c) :=
  changesOnly_of_body (fun _ => rfl) (fun _ => rfl) (by decide) fun _ =>
    .ite .err (.ite .err (.ite (.of (.ite .refl (.widen (setChan_agreeOff _ _ _) (by decide))))
      (.of (.ite (.widen (chanOff_agreeOff _ _ _) (by decide)) .refl))))

theorem planeAdmin_changesOnlyInTurn (c : Cmd) :
    changesOnlyInTurn (.buf :: .sched :: .hbm :: countParts) (.planeAdmin c) :=
  changesOnlyInTurn_of_body (fun _ => rfl) (fun _ => rfl) (by decide) fun _ =>
    .ite .err (.ite (.of (AgreeOff.widen agreeOff_fab (by decide) |>.andThen (reviewPeers_agreeOff _ _) (by decide)))
      (.of (AgreeOff.widen agreeOff_fab (by decide) |>.andThen (planeDownAll_agreeOff _ _ _) (by decide))))

theorem fabricLaneAdmin_changesOnlyInTurn (c : Cmd) :
    changesOnlyInTurn (.port :: .buf :: .sched :: .hbm :: .mode :: countParts) (.fabricLaneAdmin c) :=
  changesOnlyInTurn_of_body (fun _ => rfl) (fun _ => rfl) (by decide) fun _ =>
    .ite .err (.ite (.ite .same (.of (AgreeOff.widen (setLane_agreeOff _ _ _) (by decide)
      |>.andThen (raise_agreeOff _ _ _) (by decide) |>.andThen (lanesCond_agreeOff _) (by decide)
      |>.andThen (afterLane_agreeOff _ _) (by decide))))
      (.ite .same (.of (AgreeOff.widen (setLane_agreeOff _ _ _) (by decide)
      |>.trans (.ite (.widen (raise_agreeOff _ _ _) (by decide)) .refl) |>.andThen (noteGroup_agreeOff _ _ _) (by decide)
      |>.andThen (lanesCond_agreeOff _) (by decide) |>.andThen (reviewPeers_agreeOff _ _) (by decide)
      |>.andThen (refreshTm_agreeOff _) (by decide)))))

theorem editProgramSet_changesOnlyInTurn (c : Cmd) : changesOnlyInTurn (.edit :: countParts) (.editProgramSet c) :=
  changesOnlyInTurn_of_body (fun _ => rfl) (fun _ => rfl) (by decide) fun _ =>
    .ite .err (.of (AgreeOff.widen agreeOff_edit (by decide) |>.andThen (editMended_agreeOff _ _ _) (by decide)))

theorem mcastConfig_changesOnlyInTurn (c : Cmd) : changesOnlyInTurn (.edit :: countParts) (.mcastConfig c) :=
  changesOnlyInTurn_of_body (fun _ => rfl) (fun _ => rfl) (by decide) fun _ =>
    .ite .err (.of (.widen agreeOff_edit (by decide)))

theorem mcastGroupSet_changesOnlyInTurn (c : Cmd) :
    changesOnlyInTurn (.port :: .edit :: countParts) (.mcastGroupSet c) := by
  refine changesOnlyInTurn_of_body (fun _ => rfl) (fun _ => rfl) (by decide) fun _ => ?_
  refine .ite .err ?_
  refine .ite (.of (.ite (AgreeOff.widen agreeOff_edit (by decide) |>.andThen agreeOff_edit (by decide)
      |>.andThen (editMended_agreeOff _ _ _) (by decide)) .refl)) ?_
  refine .ite .err ?_
  refine .ite .err ?_
  split
  · exact .err
  · exact .of (AgreeOff.widen agreeOff_edit (by decide) |>.andThen (editMended_agreeOff _ _ _) (by decide)
      |>.andThen (editMended_agreeOff _ _ _) (by decide))

theorem hbmConfig_changesOnlyInTurn (c : Cmd) : changesOnlyInTurn (.hbm :: countParts) (.hbmConfig c) :=
  changesOnlyInTurn_of_body (fun _ => rfl) (fun _ => rfl) (by decide) fun _ =>
    .ite .err (.of (.widen agreeOff_hbm (by decide)))

theorem hbmRetrain_changesOnlyInTurn (c : Cmd) : changesOnlyInTurn (.hbm :: countParts) (.hbmRetrain c) :=
  changesOnlyInTurn_of_body (fun _ => rfl) (fun _ => rfl) (by decide) fun _ =>
    .ite .err (.ite .err (.of (.widen (askRetrain_agreeOff _ _) (by decide))))

theorem hbmPcRetire_changesOnlyInTurn (c : Cmd) : changesOnlyInTurn (.hbm :: countParts) (.hbmPcRetire c) :=
  changesOnlyInTurn_of_body (fun _ => rfl) (fun _ => rfl) (by decide) fun _ =>
    .ite .err (.ite .same (.of (.widen (askRetire_agreeOff _ _ _) (by decide))))

theorem timeIncrementSet_changesOnly (c : Cmd) :
    changesOnly (.time :: .sched :: .pool :: .aux :: countParts) (.timeIncrementSet c) :=
  changesOnly_of_body (fun _ => rfl) (fun _ => rfl) (by decide) fun _ =>
    .ite .err (.of (.widen (writeInc_agreeOff _ _) (by decide)))

theorem timeSet_changesOnly (c : Cmd) : changesOnly (.time :: .tbl :: .sched :: .pool :: countParts) (.timeSet c) :=
  changesOnly_of_body (fun _ => rfl) (fun _ => rfl) (by decide) fun _ =>
    .ite (.of (.widen (refuseStep_agreeOff _ _) (by decide))) (.of (AgreeOff.widen agreeOff_time (by decide)
      |>.andThen (rollWindows_agreeOff _) (by decide) |>.andThen (afterStep_agreeOff _ _ _) (by decide)))

theorem timeConfig_changesOnly (c : Cmd) : changesOnly (.time :: countParts) (.timeConfig c) :=
  changesOnly_of_body (fun _ => rfl) (fun _ => rfl) (by decide) fun _ => .ite .err
    (.of (.widen agreeOff_time (by decide)))

theorem ppsConfig_changesOnly (c : Cmd) : changesOnly (.time :: countParts) (.ppsConfig c) :=
  changesOnly_of_body (fun _ => rfl) (fun _ => rfl) (by decide) fun _ => .ite .err
    (.of (.widen agreeOff_time (by decide)))

theorem tsPortSet_changesOnly (c : Cmd) : changesOnly (.port :: countParts) (.tsPortSet c) :=
  changesOnly_of_body (fun _ => rfl) (fun _ => rfl) (by decide) fun _ =>
    .ite .err (.of (.widen (updPrt_agreeOff _ _ _) (by decide)))

theorem hierarchyConfig_changesOnly (c : Cmd) : changesOnly (.fw :: countParts) (.hierarchyConfig c) :=
  changesOnly_of_body (fun _ => rfl) (fun _ => rfl) (by decide) fun _ =>
    .ite .err (.of (AgreeOff.widen agreeOff_hier (by decide)
      |>.trans (.ite .refl (AgreeOff.widen agreeOff_hier (by decide) |>.andThen (startElection_agreeOff _) (by decide)))
      |>.andThen (saveSettings_agreeOff _) (by decide) |>.andThen (noteIdentity_agreeOff _) (by decide)))

theorem fwVerify_changesOnly (c : Cmd) : changesOnly (.fw :: countParts) (.fwVerify c) :=
  changesOnly_of_body (fun _ => rfl) (fun _ => rfl) (by decide) fun _ =>
    .ite .err (.ite .err (.of (.widen agreeOff_fw (by decide))))

theorem fwConfirm_changesOnly (c : Cmd) : changesOnly (.fw :: countParts) (.fwConfirm c) :=
  changesOnly_of_body (fun _ => rfl) (fun _ => rfl) (by decide) fun _ => .ite (.of (.widen agreeOff_fw (by decide))) .err

theorem fwUpdateConfig_changesOnly (c : Cmd) : changesOnly (.fw :: countParts) (.fwUpdateConfig c) :=
  changesOnly_of_body (fun _ => rfl) (fun _ => rfl) (by decide) fun _ =>
    .ite .err (.of (.widen (commitRec_agreeOff _ _) (by decide)))

theorem fwSvnCommit_changesOnly (c : Cmd) : changesOnly (.fw :: countParts) (.fwSvnCommit c) :=
  changesOnly_of_body (fun _ => rfl) (fun _ => rfl) (by decide) fun _ =>
    .ite .err (.ite .same (.of (AgreeOff.widen agreeOff_fw (by decide)
      |>.trans (.ite (.widen (commitRec_agreeOff _ _) (by decide)) .refl) |>.andThen (raise_agreeOff _ _ _) (by decide))))

theorem attestQuote_changesOnly (c : Cmd) : changesOnly (.fw :: countParts) (.attestQuote c) := by
  refine changesOnly_of_body (fun _ => rfl) (fun _ => rfl) (by decide) fun _ => ?_
  split
  · exact .of (.widen (raise_agreeOff _ _ _) (by decide))
  · exact .ite .err (.ite .err (.of (AgreeOff.ite .refl (.widen (reserve_agreeOff _ _) (by decide))
      |>.andThen agreeOff_fw (by decide) |>.andThen (noteIndices_agreeOff _) (by decide))))

theorem hierModeChange_changesOnly (c : Cmd) : changesOnly (.mode :: countParts) (.hierModeChange c) :=
  changesOnly_of_body (fun _ => rfl) (fun _ => rfl) (by decide) fun _ =>
    .ite .err (.ite .err (.ite (.of (.widen (raise_agreeOff _ _ _) (by decide)))
      (.of (.widen (startChange_agreeOff _ _) (by decide)))))

theorem deviceReset_changesOnly (c : Cmd) : changesOnly (.mode :: countParts) (.deviceReset c) :=
  changesOnly_of_body (fun _ => rfl) (fun _ => rfl) (by decide) fun _ => .of (.ite .refl
    (.widen agreeOff_mode (by decide)))

theorem repairConfig_changesOnly (c : Cmd) : changesOnly (.mode :: countParts) (.repairConfig c) :=
  changesOnly_of_body (fun _ => rfl) (fun _ => rfl) (by decide) fun _ =>
    .ite .err (.of (AgreeOff.widen agreeOff_mode (by decide) |>.andThen (noteRate_agreeOff _) (by decide)))

theorem fwDownload_changesOnly (c : Cmd) : changesOnly (.sched :: .fw :: countParts) (.fwDownload c) :=
  changesOnly_of_body (fun _ => rfl) (fun _ => rfl) (by decide) fun _ =>
    .ite .err (.ite (.ite .err (.of (.widen agreeOff_fw (by decide)))) (.ite .err (.of (.widen agreeOff_fw (by decide)))))

theorem fwActivate_changesOnly (c : Cmd) : changesOnly (.sched :: .fw :: countParts) (.fwActivate c) :=
  changesOnly_of_body (fun _ => rfl) (fun _ => rfl) (by decide) fun _ =>
    .ite .err (.ite .err (.ite .err (.of (AgreeOff.ite (.widen (retainBegin_agreeOff _) (by decide)) .refl
      |>.andThen agreeOff_fw (by decide)))))

theorem fwRevert_changesOnly (c : Cmd) : changesOnly (.sched :: .fw :: countParts) (.fwRevert c) :=
  changesOnly_of_body (fun _ => rfl) (fun _ => rfl) (by decide) fun _ =>
    .ite .err (.of (.ite .refl (.widen (startRestore_agreeOff _ _) (by decide))))

theorem telemetryConfig_changesOnly (c : Cmd) : changesOnly (.pool :: .fw :: countParts) (.telemetryConfig c) :=
  changesOnly_of_body (fun _ => rfl) (fun _ => rfl) (by decide) fun _ =>
    .ite .err (.ite .err (.ite .err (.of (AgreeOff.ite .refl (.widen (closeBlock_agreeOff _) (by decide))
      |>.andThen agreeOff_tel (by decide) |>.andThen (drainRing_agreeOff _) (by decide)))))

theorem thermalConfig_changesOnly (c : Cmd) : changesOnly (.aux :: countParts) (.thermalConfig c) :=
  changesOnly_of_body (fun _ => rfl) (fun _ => rfl) (by decide) fun _ => .ite .err (.of (.widen agreeOff_aux (by decide)))

theorem alarmInputConfig_changesOnly (c : Cmd) : changesOnly (.aux :: countParts) (.alarmInputConfig c) :=
  changesOnly_of_body (fun _ => rfl) (fun _ => rfl) (by decide) fun _ => .ite .err (.of (.widen agreeOff_aux (by decide)))

theorem auxStatusClear_changesOnly (c : Cmd) : changesOnly (.aux :: countParts) (.auxStatusClear c) :=
  changesOnly_of_body (fun _ => rfl) (fun _ => rfl) (by decide) fun _ => .ite .err (.of (.widen agreeOff_aux (by decide)))

end Sys2Proof.Machine
end

section
/-! Which units commands leave alone. -/
namespace Sys2Proof.Machine
open Sys2Proof

/-- Settles O56. None of these commands goes through the table write port, so each changes only what its body does. -/
theorem readingCommandsFrame : Obligations.ReadingCommandsFrame := fun c =>
  List.forall_iff_forall_mem.mp ⟨
    -- NOP
    changesOnly_of_body (fun _ => rfl) (fun _ => rfl) (by decide) fun _ => .same,
    -- DEVICE_INFO_GET
    changesOnly_of_body (fun _ => rfl) (fun _ => rfl) (by decide) fun _ => .same,
    -- EVENT_MASK_SET
    eventMaskSet_changesOnly c,
    -- EVENT_MASK_GET
    changesOnly_of_body (fun _ => rfl) (fun _ => rfl) (by decide) fun _ => .same,
    -- ECHO
    changesOnly_of_body (fun _ => rfl) (fun _ => rfl) (by decide) fun _ => .same,
    -- PORT_STATUS_GET
    changesOnly_of_body (fun _ => rfl) (fun _ => rfl) (by decide) fun _ => .ite .err .same,
    -- PORT_COUNTERS_GET
    changesOnly_of_body (fun _ => rfl) (fun _ => rfl) (by decide) fun _ => .ite .err .same,
    -- MODULE_READ
    changesOnly_of_body (fun _ => rfl) (fun _ => rfl) (by decide) fun _ => .ite .err (.ite .err (.ite .same .same)),
    -- LEDGER_READ
    changesOnly_of_body (fun _ => rfl) (fun _ => rfl) (by decide) fun _ => .ite .err .same,
    -- SA_STATUS_GET
    changesOnly_of_body (fun _ => rfl) (fun _ => rfl) (by decide) fun _ => .ite .err .same,
    -- SECY_COUNTERS_GET
    changesOnly_of_body (fun _ => rfl) (fun _ => rfl) (by decide) fun _ => .ite .err .same,
    -- PARSE_POLICY_GET
    changesOnly_of_body (fun _ => rfl) (fun _ => rfl) (by decide) fun _ => .ite .err .same,
    -- LB_SLOTS_GET
    lbSlotsGet_changesOnly c,
    -- PARSE_COUNTERS_GET
    changesOnly_of_body (fun _ => rfl) (fun _ => rfl) (by decide) fun _ => .ite .err .same,
    -- ROUTE_GET
    routeGet_changesOnly c,
    -- TABLE_STATUS_GET
    changesOnly_of_body (fun _ => rfl) (fun _ => rfl) (by decide) fun _ => .same,
    -- TCAM_SEARCH
    tcamSearch_changesOnly c,
    -- TCAM_SEARCH_CONTINUE
    tcamSearchContinue_changesOnly c,
    -- TCAM_ENTRY_READ
    tcamEntryRead_changesOnly c,
    -- TCAM_STATUS_GET
    changesOnly_of_body (fun _ => rfl) (fun _ => rfl) (by decide) fun _ => .same,
    -- POLICER_STATUS_GET
    changesOnly_of_body (fun _ => rfl) (fun _ => rfl) (by decide) fun _ => .ite .err .same,
    -- SCHED_COUNTERS_GET
    changesOnly_of_body (fun _ => rfl) (fun _ => rfl) (by decide) fun _ => .same,
    -- BUF_INFO
    bufInfo_changesOnly c,
    -- FABRIC_STATUS_GET
    changesOnly_of_body (fun _ => rfl) (fun _ => rfl) (by decide) fun _ => .same,
    -- FABRIC_COUNTERS_GET
    changesOnly_of_body (fun _ => rfl) (fun _ => rfl) (by decide) fun _ => .same,
    -- MCAST_GROUP_GET
    changesOnly_of_body (fun _ => rfl) (fun _ => rfl) (by decide) fun _ => .same,
    -- EDIT_TEST
    changesOnly_of_body (fun _ => rfl) (fun _ => rfl) (by decide) fun _ => .ite .err (.ite .err .same),
    -- EDIT_COUNTERS_GET
    changesOnly_of_body (fun _ => rfl) (fun _ => rfl) (by decide) fun _ => .same,
    -- HBM_STATUS_GET
    changesOnly_of_body (fun _ => rfl) (fun _ => rfl) (by decide) fun _ => .ite .err .same,
    -- HBM_COUNTERS_GET
    changesOnly_of_body (fun _ => rfl) (fun _ => rfl) (by decide) fun _ => .same,
    -- TIME_GET
    changesOnly_of_body (fun _ => rfl) (fun _ => rfl) (by decide) fun _ => .same,
    -- TIME_COUNTERS_GET
    changesOnly_of_body (fun _ => rfl) (fun _ => rfl) (by decide) fun _ => .same,
    -- DMA_CHANNEL_SET
    dmaChannelSet_changesOnly c,
    -- DMA_CHANNEL_STATUS_GET
    changesOnly_of_body (fun _ => rfl) (fun _ => rfl) (by decide) fun _ => .ite .err .same,
    -- MSIX_MODERATION_SET
    msixModerationSet_changesOnly c,
    -- HIF_COUNTERS_GET
    changesOnly_of_body (fun _ => rfl) (fun _ => rfl) (by decide) fun _ => .same,
    -- HIER_STATUS_GET
    changesOnly_of_body (fun _ => rfl) (fun _ => rfl) (by decide) fun _ => .same,
    -- HIER_DEPUTY_SET
    hierDeputySet_changesOnly c,
    -- HIER_COUNTERS_GET
    changesOnly_of_body (fun _ => rfl) (fun _ => rfl) (by decide) fun _ => .same,
    -- FW_STATUS_GET
    changesOnly_of_body (fun _ => rfl) (fun _ => rfl) (by decide) fun _ => .same,
    -- ATTEST_KEY_GET
    changesOnly_of_body (fun _ => rfl) (fun _ => rfl) (by decide) fun _ => .same,
    -- FW_SNOWDROP_PUSH
    fwSnowdropPush_changesOnly c,
    -- MODE_STATUS_GET
    changesOnly_of_body (fun _ => rfl) (fun _ => rfl) (by decide) fun _ => .same,
    -- REPAIR_STATUS_GET
    changesOnly_of_body (fun _ => rfl) (fun _ => rfl) (by decide) fun _ => .same,
    -- REPAIR_MAP_READ
    changesOnly_of_body (fun _ => rfl) (fun _ => rfl) (by decide) fun _ => .ite .err .same,
    -- PERF_COUNTER_CONFIG
    perfCounterConfig_changesOnly c,
    -- PERF_CONTROL
    perfControl_changesOnly c,
    -- PERF_COUNTER_READ
    perfCounterRead_changesOnly c,
    -- HISTOGRAM_CONFIG
    histogramConfig_changesOnly c,
    -- PSAMPLE_CONFIG
    psampleConfig_changesOnly c,
    -- TELEMETRY_COUNTERS_GET
    changesOnly_of_body (fun _ => rfl) (fun _ => rfl) (by decide) fun _ => .same,
    -- PKG_STATUS_GET
    changesOnly_of_body (fun _ => rfl) (fun _ => rfl) (by decide) fun _ => .same⟩

/-- Settles O57. A command that finds work in the table write port joins it; one that does not changes what its body does. -/
theorem unitCommandsFrame : Obligations.UnitCommandsFrame := by
  unfold Obligations.UnitCommandsFrame
  intro c
  exact ⟨
    List.forall_iff_forall_mem.mp ⟨
      -- PORT_CONFIG
      portConfig_changesOnlyInTurn c,
      -- PORT_ADMIN
      portAdmin_changesOnlyInTurn c⟩,
    List.forall_iff_forall_mem.mp ⟨
      -- MODULE_WRITE
      moduleWrite_changesOnlyInTurn c,
      -- MODULE_INT_UNMASK
      moduleIntUnmask_changesOnlyInTurn c,
      -- LEDGER_SET_RATING
      ledgerSetRating_changesOnlyInTurn c,
      -- PORT_RATE_RESTORE
      portRateRestore_changesOnlyInTurn c,
      -- MODULE_MAP_SET
      moduleMapSet_changesOnlyInTurn c,
      -- PARSE_POLICY_SET
      parsePolicySet_changesOnlyInTurn c,
      -- QOS_PORT_SET
      qosPortSet_changesOnlyInTurn c,
      -- EDIT_PORT_SET
      editPortSet_changesOnlyInTurn c⟩,
    List.forall_iff_forall_mem.mp (
      -- SECY_CONFIG
      secyConfig_changesOnlyInTurn c),
    List.forall_iff_forall_mem.mp ⟨
      -- SC_SET
      scSet_changesOnlyInTurn c,
      -- SC_CLEAR
      scClear_changesOnlyInTurn c,
      -- SA_INSTALL
      saInstall_changesOnlyInTurn c,
      -- SA_ENABLE_RX
      saEnableRx_changesOnlyInTurn c,
      -- SA_TX_SWITCH
      saTxSwitch_changesOnlyInTurn c,
      -- SA_DELETE
      saDelete_changesOnlyInTurn c⟩,
    List.forall_iff_forall_mem.mp ⟨
      -- SLOWPATH_CLASS_SET
      slowpathClassSet_changesOnlyInTurn c,
      -- HASH_PROFILE_SET
      hashProfileSet_changesOnlyInTurn c⟩,
    List.forall_iff_forall_mem.mp ⟨
      -- PARSE_TEST
      changesOnlyInTurn_of_body (fun _ => rfl) (fun _ => rfl) (by decide) fun _ => .ite .err (.ite .err .same),
      -- CREDIT_PROFILE_SET
      creditProfileSet_changesOnlyInTurn c⟩,
    List.forall_iff_forall_mem.mp ⟨
      -- LENGTH_RESERVE
      lengthReserve_changesOnlyInTurn c,
      -- EM_TABLE_CONFIG
      emTableConfig_changesOnlyInTurn c,
      -- INTERFACE_SET
      interfaceSet_changesOnlyInTurn c,
      -- ROUTER_MAC_SET
      routerMacSet_changesOnlyInTurn c,
      -- OBJ_RETIRE
      objRetire_changesOnlyInTurn c,
      -- TABLE_SPLIT_SET
      tableSplitSet_changesOnlyInTurn c,
      -- LOOKUP_CONFIG
      lookupConfig_changesOnlyInTurn c,
      -- ECMP_COUNT_SET
      ecmpCountSet_changesOnlyInTurn c⟩,
    List.forall_iff_forall_mem.mp ⟨
      -- ECMP_CREATE
      ecmpCreate_changesOnlyInTurn c,
      -- TABLE_REPAIR_DONE
      tableRepairDone_changesOnlyInTurn c⟩,
    List.forall_iff_forall_mem.mp (
      -- OBJ_COUNTERS_GET
      objCountersGet_changesOnly c),
    List.forall_iff_forall_mem.mp ⟨
      -- TCAM_CHAIN_CONFIG
      tcamChainConfig_changesOnlyInTurn c,
      -- TCAM_CHAIN_EXTEND
      tcamChainExtend_changesOnlyInTurn c,
      -- KEY_PROFILE_SET
      keyProfileSet_changesOnlyInTurn c,
      -- SEARCH_PROFILE_SET
      searchProfileSet_changesOnlyInTurn c,
      -- SEARCH_PROFILE_MAP
      searchProfileMap_changesOnlyInTurn c,
      -- TCAM_ENTRY_DELETE
      tcamEntryDelete_changesOnlyInTurn c,
      -- TCAM_COMPACT
      tcamCompact_changesOnlyInTurn c⟩,
    List.forall_iff_forall_mem.mp ⟨
      -- BUFFER_PARTITION_SET
      bufferPartitionSet_changesOnlyInTurn c,
      -- ADMISSION_PROFILE_SET
      admissionProfileSet_changesOnlyInTurn c,
      -- WRED_PROFILE_SET
      wredProfileSet_changesOnlyInTurn c,
      -- QUEUE_CONFIG
      queueConfig_changesOnlyInTurn c,
      -- BUFFER_GLOBAL_SET
      bufferGlobalSet_changesOnlyInTurn c,
      -- BUF_CELL_SHARE_SET
      bufCellShareSet_changesOnlyInTurn c⟩,
    List.forall_iff_forall_mem.mp ⟨
      -- QUEUE_STATUS_GET
      queueStatusGet_changesOnly c,
      -- BUFFER_STATUS_GET
      changesOnly_of_body (fun _ => rfl) (fun _ => rfl) (by decide) fun _ => .of (.widen agreeOff_buf (by decide))⟩,
    List.forall_iff_forall_mem.mp ⟨
      -- SCHED_NODE_SET
      schedNodeSet_changesOnlyInTurn c,
      -- DISPATCH_PROFILE_SET
      dispatchProfileSet_changesOnlyInTurn c,
      -- PROTECT_CLASS_SET
      protectClassSet_changesOnlyInTurn c,
      -- PLANE_RESTORE
      planeRestore_changesOnlyInTurn c⟩,
    List.forall_iff_forall_mem.mp (
      -- SCHED_NODE_GET
      schedNodeGet_changesOnly c),
    List.forall_iff_forall_mem.mp ⟨
      -- LENGTH_PROFILE_SET
      lengthProfileSet_changesOnlyInTurn c,
      -- QOS_MAP_SET
      qosMapSet_changesOnlyInTurn c,
      -- POLICER_SET
      policerSet_changesOnlyInTurn c,
      -- SAMPLE_SET_CONFIG
      sampleSetConfig_changesOnlyInTurn c⟩,
    List.forall_iff_forall_mem.mp (
      -- SITE_MAP_SET
      siteMapSet_changesOnlyInTurn c),
    List.forall_iff_forall_mem.mp (
      -- POLICER_PROFILE_SET
      policerProfileSet_changesOnlyInTurn c),
    List.forall_iff_forall_mem.mp ⟨
      -- POOL_CARVE_SET
      poolCarveSet_changesOnlyInTurn c,
      -- BUF_SHARE
      bufShare_changesOnlyInTurn c,
      -- BUF_RELEASE
      bufRelease_changesOnlyInTurn c⟩,
    List.forall_iff_forall_mem.mp (
      -- CHANNEL_POOL_SET
      channelPoolSet_changesOnlyInTurn c),
    List.forall_iff_forall_mem.mp ⟨
      -- POOL_STATUS_GET
      changesOnly_of_body (fun _ => rfl) (fun _ => rfl) (by decide) fun _ => .of (.widen agreeOff_pool (by decide)),
      -- DMA_CHANNEL_ENABLE
      dmaChannelEnable_changesOnly c⟩,
    List.forall_iff_forall_mem.mp (
      -- PLANE_ADMIN
      planeAdmin_changesOnlyInTurn c),
    List.forall_iff_forall_mem.mp (
      -- FABRIC_LANE_ADMIN
      fabricLaneAdmin_changesOnlyInTurn c),
    List.forall_iff_forall_mem.mp ⟨
      -- EDIT_PROGRAM_SET
      editProgramSet_changesOnlyInTurn c,
      -- MCAST_CONFIG
      mcastConfig_changesOnlyInTurn c⟩,
    List.forall_iff_forall_mem.mp (
      -- MCAST_GROUP_SET
      mcastGroupSet_changesOnlyInTurn c),
    List.forall_iff_forall_mem.mp ⟨
      -- HBM_CONFIG
      hbmConfig_changesOnlyInTurn c,
      -- HBM_RETRAIN
      hbmRetrain_changesOnlyInTurn c,
      -- HBM_PC_RETIRE
      hbmPcRetire_changesOnlyInTurn c⟩,
    List.forall_iff_forall_mem.mp (
      -- TIME_INCREMENT_SET
      timeIncrementSet_changesOnly c),
    List.forall_iff_forall_mem.mp (
      -- TIME_SET
      timeSet_changesOnly c),
    List.forall_iff_forall_mem.mp ⟨
      -- TIME_CONFIG
      timeConfig_changesOnly c,
      -- PPS_CONFIG
      ppsConfig_changesOnly c⟩,
    List.forall_iff_forall_mem.mp (
      -- TS_PORT_SET
      tsPortSet_changesOnly c),
    List.forall_iff_forall_mem.mp ⟨
      -- HIERARCHY_CONFIG
      hierarchyConfig_changesOnly c,
      -- FW_VERIFY
      fwVerify_changesOnly c,
      -- FW_CONFIRM
      fwConfirm_changesOnly c,
      -- FW_UPDATE_CONFIG
      fwUpdateConfig_changesOnly c,
      -- FW_SVN_COMMIT
      fwSvnCommit_changesOnly c,
      -- ATTEST_QUOTE
      attestQuote_changesOnly c⟩,
    List.forall_iff_forall_mem.mp ⟨
      -- HIER_MODE_CHANGE
      hierModeChange_changesOnly c,
      -- DEVICE_RESET
      deviceReset_changesOnly c,
      -- REPAIR_CONFIG
      repairConfig_changesOnly c⟩,
    List.forall_iff_forall_mem.mp ⟨
      -- FW_DOWNLOAD
      fwDownload_changesOnly c,
      -- FW_ACTIVATE
      fwActivate_changesOnly c,
      -- FW_REVERT
      fwRevert_changesOnly c⟩,
    List.forall_iff_forall_mem.mp (
      -- TELEMETRY_CONFIG
      telemetryConfig_changesOnly c),
    List.forall_iff_forall_mem.mp ⟨
      -- THERMAL_CONFIG
      thermalConfig_changesOnly c,
      -- ALARM_INPUT_CONFIG
      alarmInputConfig_changesOnly c,
      -- PKG_INPUT_UNMASK
      changesOnly_of_body (fun _ => rfl) (fun _ => rfl) (by decide) fun _ => .of (.widen agreeOff_aux (by decide)),
      -- AUX_STATUS_CLEAR
      auxStatusClear_changesOnly c⟩⟩

end Sys2Proof.Machine
end

end
